-- ==== Sys2Proof/Word.lean ====
section
/-! DEFINITION. The word types of the ZK1 model and the sparse table type that holds every indexed store.
A multi-byte quantity is little-endian everywhere (R5); the byte order is decided once, in Machine/Ops.lean. -/

namespace Sys2Proof

/-- One byte of memory. -/
abbrev Byte := BitVec 8

/-- A 32-bit word: an FP32 pattern, a tally count, a 32-bit register. -/
abbrev Word32 := BitVec 32

/-- A 64-bit word: an instruction word, a scalar register, a 64-bit register. -/
abbrev Word64 := BitVec 64

/-- A physical core ID k = 32r + c (R24). -/
abbrev CoreId := BitVec 9

/-- A package address (R10). -/
abbrev PkgAddr := BitVec 48

/-- A sparse table from numbers to values. Its canonical form (Machine/Ops.lean, `tabWf`) has strictly rising keys and
no entry equal to what an unlisted key reads as. -/
abbrev Tab (α : Type) := List (Nat × α)

end Sys2Proof
end

