-- ==== Sys2Proof/Syntax.lean ====
section
/-! DEFINITION. The commands of the block: one constructor per row of spec/opcode_table.json, in the table's order, with
the row's operands. No row gives bits, so the operands are typed data; a tile-program row carries its instruction word
without the opcode: bits [57:0], the guard in [57:54] and the operand fields of R139 to R157 in [53:0]. -/

namespace Sys2Proof

/-- Where a request comes from: the source classes of R13, a peer with its die number. -/
inductive Source where
  | host
  | peer (die : BitVec 2)
  | hub
  | foreign
deriving DecidableEq, Repr

/-- The agents whose register writes the die's hardware tags (R383), and a debug session, which acts with the Steward's
rights (R431). -/
inductive Agent where
  | keyholder
  | steward
  | debug
deriving DecidableEq, Repr

/-- The queues of a thread (R133); `sequencer` is the sequencer itself, which rejects an unknown opcode at dispatch. -/
inductive QueueId where
  | feed | edge | vec | port | ldg | msg | sequencer
deriving DecidableEq, Repr

/-- The three kinds of link between cores (R176, R181, R105). -/
inductive LinkKind where
  | caravan | relay | chain
deriving DecidableEq, Repr

/-- A mesh packet's head (R234; HEAD is 1 in every head) with its argument word (R235) and the data of its flit. -/
structure Packet where
  cls : BitVec 2
  lenm1 : BitVec 4
  typ : BitVec 4
  dest : BitVec 12
  src : BitVec 12
  party : BitVec 12
  epoch : BitVec 8
  tag : BitVec 9
  arg : BitVec 64
  data : BitVec 1024
deriving DecidableEq, Repr

/-- One entry of a TALLY_OP flit (R308), also the body of EMU_TALLY (R307). -/
structure TallyEntry where
  kind : BitVec 2
  srcDie : BitVec 2
  dstDie : BitVec 2
  endpoint : BitVec 12
  party : BitVec 12
  epoch : BitVec 8
  arg : BitVec 64
deriving DecidableEq, Repr

/-- A request the hub delivers (R305): its source, the package address of its first byte, how many bytes of that line it
touches, and the gate, tag and module that carried it (R306). -/
structure HubReq where
  src : Source
  addr : BitVec 48
  len : BitVec 8
  gate : BitVec 5
  tag : BitVec 12
deriving DecidableEq, Repr

/-- What a peer's Steward tells this one (R187, R198, R263, R280): the contents the spec gives runtime messages, whose
byte layouts are no part of interface level 1. -/
inductive PeerMsg where
  | otherVersion                                        -- a runtime of another version (R263)
  | protocol                                            -- the answer PROTOCOL to such a message
  | check (no : Nat) (desc : BitVec 64) (len : BitVec 32)   -- look at a descriptor's cores and tallies of the die (R278, R280)
  | checked (no : Nat) (flaw : Option (BitVec 32)) (tally : Option (BitVec 16))   -- its first faulty byte there, and a tally that is held
  | abort (itin : BitVec 32) (core : BitVec 11) (code : BitVec 8)   -- stop the itinerary's cores (R187)
  | stopped (itin : BitVec 32) (flags : BitVec 5) (log : List (BitVec 64 × BitVec 16)) (lost : BitVec 16)
                                                        -- they have stopped: their flags and flag logs (R282)
  | reserve (itin : BitVec 32) (desc : BitVec 64) (len : BitVec 32)  -- check and reserve the cores a descriptor names (R280)
  | start (itin : BitVec 32)                            -- every die has reserved: start
  | release (itin : BitVec 32)                          -- give the reservation back
  | reserveOk (itin : BitVec 32)                        -- a die has checked and reserved its cores (R280)
  | reserveRefused (itin : BitVec 32) (core : BitVec 16) (short : BitVec 32)   -- a core fails R185, by so many bytes (R186)
  | reserveLater (itin : BitVec 32)                     -- a core cannot admit it yet (R279)
  | stamp (itin : BitVec 32) (tile : BitVec 32)         -- a stamp on another die (R280)
  | halted (itin : BitVec 32) (core : BitVec 11) (thread : Bool) (alone : Bool) (exit : BitVec 16) (flags : BitVec 5)
      (log : List (BitVec 64)) (lost : BitVec 16)       -- a thread halted on another die, whether its core's other thread runs no
                                                        -- longer, its flags and its core's flag log
  | fault (itin : BitVec 32) (core : BitVec 11) (code : BitVec 8) (pc : BitVec 12) (detail : BitVec 32)
  | poison (itin : BitVec 32) (words : List (BitVec 64))   -- poison entries of an aborted itinerary (R284)
  | flagLog (itin : BitVec 32) (log : List (BitVec 64 × BitVec 16)) (lost : BitVec 16)   -- a core's flag log, before a save (R275)
  | contentLost (die : BitVec 2)                        -- that die's Lodge lost its content (R198)
  | reply                                               -- the answer to this die's own message
deriving DecidableEq, Repr

/-- The hub's report on one Cellar bin (R224, R307). -/
structure BinReport where
  budget : BitVec 32
  retention : BitVec 16
  bad : Bool
deriving DecidableEq, Repr

/-- A CREDIT flit's contents (R313). -/
structure CreditFlit where
  crcOk : Bool
  ackSeq : BitVec 8
  nak : Bool
  retrain : Bool
  req : BitVec 32
  rsp : BitVec 32
  ctrl : BitVec 32
deriving DecidableEq, Repr

/-- A received sequenced flit (R301, R302): its CRC check, KIND, DATA bit, CREDIT field and SEQ; `entries` is the count
of valid entries of an entry flit (R304) and `mtype` the message type of an MSG flit (R307). -/
structure RxFlit where
  crcOk : Bool
  kind : BitVec 4
  dataBit : Bool
  credit : BitVec 16
  seq : BitVec 8
  entries : BitVec 6
  mtype : BitVec 16
deriving DecidableEq, Repr

/-- Spare assignment of a module's TX direction: bits [53:38] of HL_MOD_STAT (R328). -/
structure SpareMap where
  m : BitVec 8
  bits : BitVec 16
deriving DecidableEq, Repr

/-- How a quick retrain ended (R314): repaired with these spares or not, and the other side's cumulative credit counts. -/
structure RetrainResult where
  repaired : Bool
  bits : BitVec 16
  req : BitVec 32
  rsp : BitVec 32
  ctrl : BitVec 32
deriving DecidableEq, Repr

/-- Receive buffer sizes the other side announces in its last TRAIN flit (R310, R318). -/
structure BufSizes where
  req : BitVec 16
  rsp : BitVec 16
  ctrl : BitVec 16
deriving DecidableEq, Repr

/-- What the die counted and read in one window (R339, R340, R353): event counts of domain d, class c at index 16d + c,
the two die-wide counts, and the 24 sensor readings in 0.25 °C. -/
structure WindowCounts where
  counts : List Nat
  linkFlits : Nat
  refreshSlots : Nat
  temps : List (BitVec 16)
deriving DecidableEq, Repr

/-- A row of a slice's bank, and whether its error was uncorrectable (R375). -/
structure RowRef where
  core : BitVec 9
  bank : BitVec 4
  row : BitVec 10
  ue : Bool
deriving DecidableEq, Repr

/-- A self-test report (R380): a core's, or the failure of a shared unit, which ends the boot (R360). -/
inductive SelfTest where
  | core (c : CoreId) (pass retried : Bool) (group : BitVec 8)
  | sharedUnit
deriving DecidableEq, Repr

/-- One module's loopback result (R435). -/
structure LoopResult where
  m : BitVec 8
  pass : Bool
  wire : BitVec 7
  errors : BitVec 32
deriving DecidableEq, Repr

/-- The commands: the rows of the opcode table. -/
inductive Instr where
  /-- NOP (R139): Sequencer instruction with no effect that takes one dispatch cycle. -/
  | nop (c : CoreId) (t : Bool) (w : BitVec 58)
  /-- HALT (R141): Thread waits until its queues are empty, its half is idle, its writes are acknowledged and its stamps have taken effect, then stops and passes EXIT to the Steward. -/
  | halt (c : CoreId) (t : Bool) (w : BitVec 58)
  /-- BR (R139): Unconditional relative branch, popping any loops whose range does not contain the target. -/
  | br (c : CoreId) (t : Bool) (w : BitVec 58)
  /-- BRC (R139): Conditional relative branch on a register comparison. -/
  | brc (c : CoreId) (t : Bool) (w : BitVec 58)
  /-- LOOP (R140): Pushes a hardware loop over the following LEN words, or skips the body when the count is zero. -/
  | loop (c : CoreId) (t : Bool) (w : BitVec 58)
  /-- WAITEV (R142): Stops dispatch until the selected event levels are all present or any one is present. -/
  | waitev (c : CoreId) (t : Bool) (w : BitVec 58)
  /-- WAITEV_RESUME (R142): Dispatch resumes in the cycle after the awaited event condition is met; tally event bit 8 is consumed. -/
  | waitevResume (c : CoreId) (t : Bool)
  /-- SALU (R139): Scalar ALU operation selected by OP, writing RD. -/
  | salu (c : CoreId) (t : Bool) (w : BitVec 58)
  /-- SLI (R139): Loads a 32-bit immediate into a register, sign-extended or into the high half. -/
  | sli (c : CoreId) (t : Bool) (w : BitVec 58)
  /-- SCMP (R139): Compares two operands and writes or combines the result into a predicate. -/
  | scmp (c : CoreId) (t : Bool) (w : BitVec 58)
  /-- WBL (R153): Loads a waybill register from a 64 B waybill in core store. -/
  | wbl (c : CoreId) (t : Bool) (w : BitVec 58)
  /-- WBGO (R153): Starts a LOADED waybill, whose first request leaves 6 ACLK after issue. -/
  | wbgo (c : CoreId) (t : Bool) (w : BitVec 58)
  /-- WBWAIT (R153): Sequencer wait until a waybill has issued its last fetch or has fully completed. -/
  | wbwait (c : CoreId) (t : Bool) (w : BitVec 58)
  /-- WBWAIT_RESUME (R153): Dispatch resumes in the cycle after the waybill level awaited by WBWAIT is met. -/
  | wbwaitResume (c : CoreId) (t : Bool)
  /-- WBNEXT (R173): Arms a waybill to start when its pair issues its last fetch. -/
  | wbnext (c : CoreId) (t : Bool) (w : BitVec 58)
  /-- WBNEXT_START (R173): An ARMED waybill becomes RUNNING in the ACLK after its pair becomes FETCHED. -/
  | wbnextStart (c : CoreId) (wb : BitVec 3)
  /-- CARAVAN (R177): Joins a caravan with a waybill register, granting four credits upstream and starting the waybill at the head. -/
  | caravan (c : CoreId) (t : Bool) (w : BitVec 58)
  /-- RELAY (R182): Enters the thread into a relay stage, enabling its proxies and granting four credits on its hand-over rings. -/
  | relay (c : CoreId) (t : Bool) (w : BitVec 58)
  /-- MMA (R71): Matrix multiply-accumulate into a slot in a named dataflow mode and formats, with exact timing of each lane step. -/
  | mma (c : CoreId) (t : Bool) (w : BitVec 58)
  /-- RESLOAD (R69): Loads the resident-operand latches of one side from a ring or the Lodge stream. -/
  | resload (c : CoreId) (t : Bool) (w : BitVec 58)
  /-- PRELOAD (R92): Clears a register and loads it with a bias row or tile from a ring, with checksum cells. -/
  | preload (c : CoreId) (t : Bool) (w : BitVec 58)
  /-- DRAIN (R75): Reads a slot through the south edge, applies epilogue operations and converts it to an output ring or core store. -/
  | drain (c : CoreId) (t : Bool) (w : BitVec 58)
  /-- SWAP (R93): Exchanges a live slot with its shadow by inverting its SWP bit. -/
  | swap (c : CoreId) (t : Bool) (w : BitVec 58)
  /-- ACLR (R91): Clears one slot register once its MMAs are complete and no edge operation is on it. -/
  | aclr (c : CoreId) (t : Bool) (w : BitVec 58)
  /-- SPLIT (R146): Enters split mode and starts thread T1, or leaves split mode after T1 has halted. -/
  | split (c : CoreId) (t : Bool) (w : BitVec 58)
  /-- REDUCE (R99): Reads a slot through the south edge and writes reduction records into a partial register, with an LSE probability tile. -/
  | reduce (c : CoreId) (t : Bool) (w : BitVec 58)
  /-- CHAINRED (R105): Member's step in a chain reduction: sends, combines and forwards, or writes the final partial. -/
  | chainred (c : CoreId) (t : Bool) (w : BitVec 58)
  /-- MERGE (R104): Combines two partial attention triples into a third. -/
  | merge (c : CoreId) (t : Bool) (w : BitVec 58)
  /-- VOP (R149): Elementwise FP32 vector operation over core store. -/
  | vop (c : CoreId) (t : Bool) (w : BitVec 58)
  /-- VCVT (R149): Vector format conversion under the conversion rules. -/
  | vcvt (c : CoreId) (t : Bool) (w : BitVec 58)
  /-- VFN (R150): Vector transcendental function with stated accuracy. -/
  | vfn (c : CoreId) (t : Bool) (w : BitVec 58)
  /-- VRED (R149): Vector reduction into a scalar register. -/
  | vred (c : CoreId) (t : Bool) (w : BitVec 58)
  /-- VPERM (R149): Vector transpose, row broadcast or gather. -/
  | vperm (c : CoreId) (t : Bool) (w : BitVec 58)
  /-- LDGRD_STREAM (R154): Sets the thread's Lodge stream pointer. -/
  | ldgrdStream (c : CoreId) (t : Bool) (w : BitVec 58)
  /-- LDGRD_COPY (R154): Copies bytes from the core's Lodge slice to core store. -/
  | ldgrdCopy (c : CoreId) (t : Bool) (w : BitVec 58)
  /-- LDGWR (R154): Copies bytes from core store to the core's Lodge slice. -/
  | ldgwr (c : CoreId) (t : Bool) (w : BitVec 58)
  /-- BERTH_LOOKUP (R156): Asks the quarter's Ledger unit for a berth entry and writes the result to a register. -/
  | berthLookup (c : CoreId) (t : Bool) (w : BitVec 58)
  /-- BERTH_TOUCH (R156): Posts an update of a berth's age epoch. -/
  | berthTouch (c : CoreId) (t : Bool) (w : BitVec 58)
  /-- TALLY_ADD (R157): Adds a value to a tally, optionally fetching the prior count. -/
  | tallyAdd (c : CoreId) (t : Bool) (w : BitVec 58)
  /-- TALLY_SET (R157): Writes a tally count, optionally fetching the prior count. -/
  | tallySet (c : CoreId) (t : Bool) (w : BitVec 58)
  /-- TALLY_WAIT (R157): Stops dispatch until a tally count reaches the target. -/
  | tallyWait (c : CoreId) (t : Bool) (w : BitVec 58)
  /-- TALLY_ARRIVE (R157): Adds 1 to a tally and then waits as WAIT does. -/
  | tallyArrive (c : CoreId) (t : Bool) (w : BitVec 58)
  /-- TALLY_ARM (R157): Registers a tally condition for WAITEV bit 8 without stopping, cancelling the previous ARM. -/
  | tallyArm (c : CoreId) (t : Bool) (w : BitVec 58)
  /-- STAMP (R158): Marks an output tile in the stamp map once earlier reads are clean and writes are acknowledged. -/
  | stamp (c : CoreId) (t : Bool) (w : BitVec 58)
  /-- STAMP_POST (R158): A held STAMP's conditions are met and the stamp is posted to the Steward. -/
  | stampPost (c : CoreId) (t : Bool)
  /-- FAULT (R160): Raises USER_FAULT with a program-supplied code. -/
  | fault (c : CoreId) (t : Bool) (w : BitVec 58)
  /-- STATUS (R157): Reads a selected status source into a register, optionally clearing the vector status. -/
  | status (c : CoreId) (t : Bool) (w : BitVec 58)
  /-- QUEUE_ISSUE (R133): A unit issues the instruction at the head of its queue in the first cycle in which every hold on it is released. -/
  | queueIssue (c : CoreId) (t : Bool) (q : QueueId)
  /-- ARRAY_COLD (R78): After 256 consecutive idle ACLK a half gates its row clocks and becomes cold. -/
  | arrayCold (c : CoreId) (h : Bool)
  /-- SLOT_COMPLETE (R75): A slot becomes complete for an MMA at its last addition, releasing held drains. -/
  | slotComplete (c : CoreId) (n : Nat)
  /-- SLOT_READ_VERDICT (R118): The checksum comparison of a slot read reaches its verdict and may raise ABFT_MISMATCH. -/
  | slotReadVerdict (c : CoreId) (n : Nat)
  /-- STATUS_WORD_DELIVERY (R126): A slot read delivers its tile status word to the flag summary and ARR_TSW_LAST and ends. -/
  | statusWordDelivery (c : CoreId) (n : Nat)
  /-- RING_BUFFER_FULL (R163): A tile buffer becomes FULL in the ACLK after its last byte is written. -/
  | ringBufferFull (c : CoreId) (ring : BitVec 3)
  /-- RING_BUFFER_RELEASE (R164): A consumer releases its buffer after its last read, making it EMPTY and returning a credit. -/
  | ringBufferRelease (c : CoreId) (ring : BitVec 3)
  /-- WAYBILL_TILE_REQUEST (R171): An inbound waybill issues the requests of its next tile when a buffer becomes EMPTY. -/
  | waybillTileRequest (c : CoreId) (wb : BitVec 3)
  /-- PORTER_LINE_FILL (R171): A line response arrives and its data is written into the filling buffer. -/
  | porterLineFill (c : CoreId) (n : Nat)
  /-- OUTBOUND_WRITE_ACK (R174): An outbound line write is acknowledged, possibly completing a tile or the waybill. -/
  | outboundWriteAck (c : CoreId) (n : Nat)
  /-- CARAVAN_FLIT_ARRIVAL (R178): A caravan flit is written into a member's buffer and forwarded if a credit is held. -/
  | caravanFlitArrival (c : CoreId) (ring : BitVec 3) (tile : BitVec 24) (count : BitVec 24) (last : Bool) (data : BitVec 1024)
  /-- STREAM_CREDIT_ARRIVAL (R178): A returned credit arrives upstream, allowing a held tile to be forwarded. -/
  | streamCreditArrival (c : CoreId) (kind : LinkKind) (id : BitVec 12) (ring : BitVec 3)
  /-- HANDOVER_FLIT_ARRIVAL (R182): A relay drain flit is written into the hand-over ring's tail buffer. -/
  | handoverFlitArrival (c : CoreId) (ring : BitVec 3) (last : Bool) (data : BitVec 1024)
  /-- CHAIN_FLIT_ARRIVAL (R107): A chain partial flit arrives at the next member, which combines and forwards or writes the result. -/
  | chainFlitArrival (c : CoreId) (id : BitVec 12) (data : BitVec 1024)
  /-- CARAVAN_STALL (R180): A blocking member's count exceeds the stall limit and the itinerary aborts. -/
  | caravanStall (c : CoreId) (ring : BitVec 3)
  /-- RELAY_STALL (R184): A link wait count exceeds the stall limit and the itinerary aborts naming the holding core. -/
  | relayStall (c : CoreId) (ring : BitVec 3) (found : CoreId) (die : BitVec 2)
  /-- CHAIN_STALL (R108): A chain member withholds credits beyond the stall limit and the itinerary aborts. -/
  | chainStall (c : CoreId) (id : BitVec 12)
  /-- ITINERARY_ABORT (R187): The Steward stops every core of an itinerary on every die after an itinerary-fatal fault. -/
  | itineraryAbort (itin : BitVec 32)
  /-- ABORT_LINKS_SETTLED (R188): When every response is in and the link counts agree, rings are emptied, credits restored and the reservation released. -/
  | abortLinksSettled (itin : BitVec 32)
  /-- REFRESH_SLOT (R193): A bank's refresh slot reads and writes back two physical rows. -/
  | refreshSlot (c : CoreId) (bank : BitVec 4)
  /-- SCRUB_SLOT (R193): A bank's scrub slot reads, checks, corrects and writes back the next row. -/
  | scrubSlot (c : CoreId) (bank : BitVec 4)
  /-- SOFT_REPAIR_RETIRE (R200): A weak row is retired to a spare over the bank's next two slots. -/
  | softRepairRetire (c : CoreId) (bank : BitVec 4)
  /-- LEDGER_COMMIT (R214): An entry change is committed once its write and all four unit updates are acknowledged. -/
  | ledgerCommit (n : Nat)
  /-- LEDGER_CACHE_FILL (R214): A missed Ledger lookup's line returns from package memory and is answered. -/
  | ledgerCacheFill (n : Nat) (status : BitVec 3)
  /-- MOVE_PHASE_WRITE (R217): Once no hold stands, the berth is marked MOVING with its destination. -/
  | movePhaseWrite (n : Nat)
  /-- MOVE_COPY_DONE (R217): The 64 KiB copy from old to new location completes. -/
  | moveCopyDone (n : Nat) (readOk : Bool) (writeOk : Bool)
  /-- MOVE_VERIFY (R218): CRC-64 values of both copies are compared, repeating the copy once on mismatch. -/
  | moveVerify (n : Nat) (hubCrc : BitVec 64)
  /-- MOVE_SWITCH_WRITE (R217): The entry is switched to the new location with the old one awaiting release. -/
  | moveSwitchWrite (n : Nat)
  /-- MOVE_RELEASE (R217): When no hold names the old location it is released and OLDF cleared. -/
  | moveRelease (n : Nat)
  /-- LEDGER_RECOVERY (R221): After a reset with package memory kept, the Steward scans and repairs every entry and rebuilds free maps. -/
  | ledgerRecovery
  /-- LEDGER_LOST (R222): After package memory is lost, the Steward clears placements, frees all slots, closes contexts and posts LEDGER_LOST. -/
  | ledgerLost
  /-- DEMOTION_START (R227): When free Lodge or pool berths fall below their thresholds the Ledger starts demotion moves. -/
  | demotionStart
  /-- CELLAR_REWRITE (R225): A Cellar berth due for rewrite is moved to another bin or the pool, or CELLAR_AT_RISK is posted. -/
  | cellarRewrite (handle : BitVec 48)
  /-- EPOCH_TICK (R228): The epoch counter advances every 2^28 REFCLK and units write back touched ages. -/
  | epochTick
  /-- AGE_SWEEP (R228): Every 4,096 epochs the Steward clamps old LODGE and PACKAGE ages. -/
  | ageSweep
  /-- MESH_PACKET_DELIVERY (R242): A core port checks a packet's head and delivers it or refuses it with a NACK. -/
  | meshPacketDelivery (p : Packet)
  /-- NACK_RECEIPT (R243): A NACK reaches its source, completing a request as an error or counting a stale wake. -/
  | nackReceipt (p : Packet)
  /-- MESH_UE (R233): A double-bit link error is die-fatal. -/
  | meshUe
  /-- TALLY_REQ_ARRIVAL (R249): A tally unit performs an operation on arrival and registers or releases waiters. -/
  | tallyReqArrival (n : Nat)
  /-- TALLY_WAKE_SEND (R250): A tally unit sends one queued wake per ACLK. -/
  | tallyWakeSend (unit : BitVec 2)
  /-- TALLY_WAKE_DELIVERY (R251): A wake reaches its core and resumes the waiting thread or sets WAITEV bit 8. -/
  | tallyWakeDelivery (n : Nat)
  /-- TALLY_REPLY (R251): A local tally reply arrives on the reply network, writing a fetch result or completing the operation. -/
  | tallyReply (n : Nat)
  /-- TALLY_CANCEL (R250): A withdrawn ARM removes its waiter at the unit. -/
  | tallyCancel (n : Nat)
  /-- TALLY_OP (R253): A TALLY_OP flit from the hub is carried out at its unit, or its reply or wake is delivered. -/
  | tallyOp (e : TallyEntry)
  /-- EMU_TALLY (R254): At level 1 the Steward performs or answers an emulated cross-die tally operation. -/
  | emuTally (e : TallyEntry)
  /-- PH_GIVE (R260): An outside write hands pigeonholes to the Steward after earlier writes, interrupting it. -/
  | phGive (src : Source) (bits : BitVec 64)
  /-- PH_RELEASE (R259): The Steward hands a pigeonhole back and sends an MSG flit for response pigeonholes. -/
  | phRelease (bits : BitVec 64)
  /-- RESPONSE_POST (R268): A waiting response is written into the lowest held response pigeonhole and released. -/
  | responsePost (n : Nat)
  /-- EVENT_POST (R270): An event is posted into a free response pigeonhole or coalesced in PH_EVT_PENDING. -/
  | eventPost
  /-- HELLO (R271): Opens the host's session and places the Ledger directory, berth arrays and pool. -/
  | hello (n : Nat)
  /-- OPEN_CONTEXT (R272): Takes a directory slot, places a berth array and opens a context. -/
  | openContext (n : Nat)
  /-- CLOSE_CONTEXT (R272): Waits for the context's itineraries, frees its berths and closes it. -/
  | closeContext (n : Nat)
  /-- FORM_PARTY (R273): Forms a party of cores and advances their epochs. -/
  | formParty (n : Nat)
  /-- DISBAND_PARTY (R273): Disbands a party, optionally resetting its cores, and advances their epochs. -/
  | disbandParty (n : Nat)
  /-- LOAD_PROGRAM (R274): Copies program words into the program memory of a party's cores. -/
  | loadProgram (n : Nat)
  /-- SAVE_CONTEXT (R275): Saves the array state of each party core to package memory. -/
  | saveContext (n : Nat)
  /-- RESTORE_CONTEXT (R275): Restores array state of each party core from images, stopping at the first failure. -/
  | restoreContext (n : Nat)
  /-- SUBMIT (R278): Checks an itinerary descriptor and queues the itinerary on its party. -/
  | submit (n : Nat)
  /-- ITINERARY_ADMIT (R278): At the head of its queue an itinerary is checked for reservation and admitted or refused.
  `party` is the party whose queue the Steward looks at. -/
  | itineraryAdmit (itin : BitVec 32) (party : BitVec 16)
  /-- ITINERARY_COMPLETE (R283): When the last thread halts, the record is written and committed COMPLETE and a completion event posted. -/
  | itineraryComplete (itin : BitVec 32)
  /-- TIME_LIMIT (R281): An itinerary running longer than TIME_LIMIT is aborted. -/
  | timeLimit (itin : BitVec 32)
  /-- ABORT (R283): Aborts a queued or running itinerary, or reports that it already ended. -/
  | abort (n : Nat)
  /-- QUERY_PROGRESS (R285): Reports an itinerary's state and stamp count. -/
  | queryProgress (n : Nat)
  /-- BERTH_ALLOC (R287): Allocates a range of berth indexes in a tier, all or nothing. -/
  | berthAlloc (n : Nat)
  /-- BERTH_FREE (R287): Frees a range of berth indexes. -/
  | berthFree (n : Nat)
  /-- BERTH_MOVE (R287): Moves a range of berths, or migrates a whole context, to a target tier. -/
  | berthMove (n : Nat)
  /-- LEDGER_QUERY (R288): Returns committed berth entries in the response or at an address. -/
  | ledgerQuery (n : Nat)
  /-- SET_PHASE_OP (R289): Stores the preferred operating point of a phase tag. -/
  | setPhaseOp (n : Nat)
  /-- POWER_STATUS (R289): Returns the power manager's state. -/
  | powerStatus (n : Nat)
  /-- TALLY_MSG_ADD (R290): Host adds to a tally as one operation. -/
  | tallyMsgAdd (n : Nat)
  /-- TALLY_MSG_SET (R290): Host sets a tally count as one operation. -/
  | tallyMsgSet (n : Nat)
  /-- TALLY_MSG_READ (R290): Host reads a tally count. -/
  | tallyMsgRead (n : Nat)
  /-- CAL_READ (R291): Copies a calibration section to package memory. -/
  | calRead (n : Nat)
  /-- CAL_WRITE (R373): Replaces a calibration section and its directory entry. -/
  | calWrite (n : Nat)
  /-- FW_STAGE (R389): Verifies an image and writes it into its uncommitted slot. -/
  | fwStage (n : Nat)
  /-- FW_COMMIT (R389): Re-verifies the uncommitted slot and switches the selector to it. -/
  | fwCommit (n : Nat)
  /-- ATTEST (R394): The Keyholder writes a signed attestation report from one snapshot. -/
  | attest (n : Nat)
  /-- FUSE_PROGRAM_SECVER (R365): Raises the security version in fuses under a signed authorisation. -/
  | fuseProgramSecver (n : Nat)
  /-- FUSE_PROGRAM_OWNER_KEY (R365): Programs an owner key slot under a signed authorisation. -/
  | fuseProgramOwnerKey (n : Nat)
  /-- FUSE_PROGRAM_DOWNGRADE (R365): Programs a variant downgrade and lowers the limits at once. -/
  | fuseProgramDowngrade (n : Nat)
  /-- FUSE_PROGRAM_DEBUG_DISABLE (R365): Programs the debug-disable word. -/
  | fuseProgramDebugDisable (n : Nat)
  /-- FUSE_PROGRAM_SOFT_REPAIR (R365): Commits logged soft repairs to fuses. -/
  | fuseProgramSoftRepair (n : Nat)
  /-- DIAG_ECHO (R291): Echoes request bytes. -/
  | diagEcho (n : Nat)
  /-- DIAG_COUNTERS (R416): Checks all conservation classes and writes the counts and error counters. -/
  | diagCounters (n : Nat)
  /-- DIAG_LOG (R416): Writes the fault log entries oldest first. -/
  | diagLog (n : Nat)
  /-- PEER_MESSAGE (R263): A runtime message or reply from a peer die's Steward is carried out. -/
  | peerMessage (n : Nat) (m : PeerMsg)
  /-- HUB_READ_REQUEST (R13): A read request from the hub is admitted or refused and answered. -/
  | hubReadRequest (r : HubReq)
  /-- HUB_WRITE_REQUEST (R13): A write request from the hub is admitted or refused and acknowledged. -/
  | hubWriteRequest (r : HubReq) (data : BitVec 1024)
  /-- RSP_DATA (R306): A read response group from the hub is accepted and its data routed to the requester. -/
  | rspData (gate : BitVec 5) (tag : BitVec 12) (status : BitVec 3) (data : BitVec 1024)
  /-- RSP_ACK (R306): A write acknowledgement group from the hub is accepted and routed. -/
  | rspAck (gate : BitVec 5) (tag : BitVec 12) (status : BitVec 3)
  /-- PKG_MEM_STATE (R307): The hub reports whether package memory survived, selecting recovery or loss handling. -/
  | pkgMemState (kept : Bool)
  /-- DIE_FENCED (R408): The Steward aborts itineraries touching a fenced die and logs suspect tallies. -/
  | dieFenced (die : BitVec 2)
  /-- DIE_REJOINED (R409): The hub reports that a fenced die is active again. -/
  | dieRejoined (die : BitVec 2)
  /-- CELLAR_BINS (R224): The hub reports write budget, retention and bad state of Cellar bins. -/
  | cellarBins (port : Bool) (first : BitVec 20) (bins : List BinReport)
  /-- BUDGET (R342): A power budget flit is accepted and takes effect at the next window boundary. -/
  | budget (budget : BitVec 16) (bseq : BitVec 16)
  /-- CREDIT (R313): A CREDIT flit acknowledges flits and returns credits, or carries a NAK or RETRAIN. -/
  | credit (m : BitVec 8) (f : CreditFlit)
  /-- FLIT_ACCEPT (R312): A received sequenced flit is accepted or discarded, applying its credits or sending a NAK. -/
  | flitAccept (m : BitVec 8) (f : RxFlit)
  /-- REPLAY_TIMEOUT (R312): After 512 HCLK without advancing acknowledgement the whole replay buffer is resent. -/
  | replayTimeout (m : BitVec 8)
  /-- CREDIT_FLIT_TIMER (R313): A CREDIT flit is sent within 64 HCLK of an unacknowledged accepted flit. -/
  | creditFlitTimer (m : BitVec 8)
  /-- QUICK_RETRAIN (R314): A module retrains after repeated failures, reassigning spares, within 5 ms. -/
  | quickRetrain (m : BitVec 8)
  /-- QUICK_RETRAIN_DONE (R314): Retrain ends, replay resumes and credit counts are compared. -/
  | quickRetrainDone (m : BitVec 8) (r : RetrainResult)
  /-- GATE_TAKE_DOWN (R315): An unrepairable module's gate is removed from the mask and begins draining. -/
  | gateTakeDown (m : BitVec 8)
  /-- GATE_DRAIN_DONE (R315): When every tag is free and nothing is buffered, the draining gate is DOWN. -/
  | gateDrainDone (gate : BitVec 5) (complete : Bool)
  /-- RX_CLOCK_LOSS (R325): No RX clock edge for 32 HCLK holds every module and waits for a reset. -/
  | rxClockLoss
  /-- LINK_LOST (R325): No edge nor HUB_RST_N within 1 ms raises a package-fatal fault. -/
  | linkLost
  /-- BOOT_GRANT (R20): A sideband grant assigns die number and half and lets training begin, or sets GRANT_CONFLICT. -/
  | bootGrant (arg : BitVec 8) (data : BitVec 32)
  /-- OFFER (R319): The hub's offered gate mask is received in EXCHANGE. -/
  | offer (mask : BitVec 32)
  /-- DIGEST_LO (R320): The low half of the hub's joint-parameter digest is received. -/
  | digestLo (d : BitVec 32)
  /-- DIGEST_HI (R320): The high half of the hub's joint-parameter digest is received. -/
  | digestHi (d : BitVec 32)
  /-- AGREE (R319): The hub's agreed mask is compared, proceeding to fast or full training or back to EXCHANGE. -/
  | agree (fast : Bool) (mask : BitVec 32)
  /-- LINK_UP (R318): LINK_UP frames are exchanged and the link becomes ACTIVE. -/
  | linkUp (mask : BitVec 32) (sizes : BufSizes)
  /-- NEWMASK (R315): A new agreed gate mask is answered and adopted after acknowledgement. -/
  | newmask (mask : BitVec 32)
  /-- DRAIN_POINT (R315): The next expected SEQ of a failed module is received, and replay moves to a healthy module. -/
  | drainPoint (m : BitVec 8) (seq : BitVec 8)
  /-- ACK (R317): A sideband acknowledgement of a sent frame is received. -/
  | ack (cmd : BitVec 8)
  /-- SIDEBAND_RESEND_TIMEOUT (R317): An unanswered frame is resent after 20 µs, failing the attempt after four sends. -/
  | sidebandResendTimeout (cmd : BitVec 8)
  /-- TRAIN_FAST_DONE (R318): Fast training ends and moves to READINESS or falls to full training. -/
  | trainFastDone (ok : Bool)
  /-- TRAIN_FULL_DONE (R318): Full training ends and moves to READINESS. -/
  | trainFullDone (ok : Bool) (spares : List SpareMap)
  /-- READINESS_DONE (R321): The PRBS error-rate check ends, repairing or removing failing gates. -/
  | readinessDone (failing : List (BitVec 8)) (unrepairable : BitVec 32)
  /-- WINDOW_BOUNDARY (R339): Each 2.56 µs window ends: the estimate is formed, budget applied and duty and limits updated. -/
  | windowBoundary (w : WindowCounts)
  /-- SIXTEEN_WINDOW_MARK (R347): The power manager sets TARGET and OP_L may rise every 16 windows. -/
  | sixteenWindowMark
  /-- SAFE_BUDGET_TIMEOUT (R342): With no BUDGET for 2^20 REFCLK the die applies half its ceiling. -/
  | safeBudgetTimeout
  /-- GLIDE_VOLTAGE_STEP (R335): The glide engine completes a voltage step after its 2 µs wait and takes the next. -/
  | glideVoltageStep
  /-- GLIDE_SLEW_END (R335): CPLL slewing to the target frequency ends. -/
  | glideSlewEnd
  /-- VCTL_RESPONSE (R337): An IVR answer frame is received and checked. -/
  | vctlResponse (frame : BitVec 24)
  /-- VCTL_TIMEOUT (R337): A missing IVR answer triggers a resend, die-fatal after three. -/
  | vctlTimeout (domain : BitVec 4)
  /-- VCTL_STATUS_POLL (R337): Every 16 windows the die polls each domain's IVR status. -/
  | vctlStatusPoll
  /-- DROOP_DETECT (R350): A domain 30 mV below setpoint starts skipping every other ACLK. -/
  | droopDetect (domain : BitVec 4)
  /-- DROOP_RECOVERY (R350): After 64 ACLK within 15 mV of setpoint the domain stops skipping. -/
  | droopRecovery (domain : BitVec 4) (skipped : BitVec 32)
  /-- THERMAL_TRIP (R355): A sensor at 115 °C asserts THERMTRIP_N, stops the link and holds the die in reset. -/
  | thermalTrip (sensor : BitVec 5)
  /-- THERMAL_TRIP_RELEASE (R355): After every sensor reads below 95 °C for 1 ms, THERMTRIP_N is released. -/
  | thermalTripRelease
  /-- CLOCK_LOSS (R332): REFCLK loss or PLL unlock is die-fatal and holds the die in reset with Lodge content lost. -/
  | clockLoss
  /-- CLOCK_RECOVERY (R332): After 100 µs of REFCLK both PLLs relock and the die proceeds from fuse sense. -/
  | clockRecovery
  /-- PORST_N_ASSERT (R21): Cold reset input asserted holds the die in reset. -/
  | porstNAssert
  /-- PORST_N_RELEASE (R18): Release of cold reset starts a boot, or stand-alone test mode when STM_ENTER is loaded. -/
  | porstNRelease
  /-- HUB_RST_N_ASSERT (R21): Warm reset input asserted holds the die in reset. -/
  | hubRstNAssert
  /-- HUB_RST_N_RELEASE (R21): Release of warm reset starts a WARM boot. -/
  | hubRstNRelease
  /-- PLL_LOCK (R330): Both PLLs lock and the Keyholder ROM starts. -/
  | pllLock
  /-- FUSE_SENSE_END (R364): Fuse sense ends, loading maps and limits, and the die waits for or acts on a grant. -/
  | fuseSenseEnd
  /-- CALIBRATION_LODGE_TEST_END (R375): Calibration loading and the Lodge test end, retiring or excluding failing rows. -/
  | calibrationLodgeTestEnd (failing : List RowRef)
  /-- FIRMWARE_START (R388): The Keyholder verifies and starts its firmware, the runtime and the monitor digest. -/
  | firmwareStart
  /-- BROADCAST_BLOCK_SEND (R376): The Steward injects the next core-monitor block every 512 ACLK. -/
  | broadcastBlockSend
  /-- BROADCAST_BLOCK_RECEIVE (R377): A core receives a monitor block, stores it and checks its digest. -/
  | broadcastBlockReceive (c : CoreId) (block : BitVec 8) (unicast : Bool) (writeOk : Bool)
  /-- BROADCAST_ROUND_CHECK (R378): 1,024 ACLK after a round the Steward reads bitmaps and unicasts missing blocks or excludes cores. -/
  | broadcastRoundCheck
  /-- SELF_TEST_REPORT (R380): A core reports its self-test result, excluding it on failure. -/
  | selfTestReport (r : SelfTest)
  /-- SELF_TEST_TIMEOUT (R380): Cores not reported by the step limit are excluded with NO_RESPONSE. -/
  | selfTestTimeout
  /-- READY (R357): The boot ends, COUNT_VALID is set and the READY event is posted. -/
  | ready (micros : BitVec 32)
  /-- VDD_EFUSE_GOOD (R419): VDD_EFUSE in range for 100 µs sets EFUSE_PG. -/
  | vddEfuseGood
  /-- VDD_EFUSE_LOSS (R419): VDD_EFUSE leaving range clears EFUSE_PG, leaving any word in progress incomplete. -/
  | vddEfuseLoss
  /-- VDD_AON_LOW (R420): VDD_AON below 0.60 V resets the always-on domain. -/
  | vddAonLow
  /-- VDD_LODGE_DIP (R420): VDD_LODGE below 0.70 V for 100 ns sets CONTENT_LOST. -/
  | vddLodgeDip
  /-- STEWARD_HEARTBEAT (R407): The runtime's heartbeat reaches the Keyholder through the mailbox. -/
  | stewardHeartbeat
  /-- STEWARD_HANG (R407): 100 ms without a heartbeat is die-fatal. -/
  | stewardHang
  /-- DIE_FATAL (R407): A die-fatal fault stops the link clocks, sends ALERT and warm-resets the die. -/
  | dieFatal (cause : BitVec 8)
  /-- PARTY_RESET (R405): A party-fatal cause resets the party's cores and aborts their itineraries. -/
  | partyReset (party : BitVec 12) (core : CoreId) (cause : BitVec 8)
  /-- PARTY_RESET_END (R405): When tags are free and link counts agree, RESET is cleared and PARTY_RESET posted. -/
  | partyResetEnd (party : BitVec 12)
  /-- STOP_TIMEOUT (R405): A core not stopped within 100 µs triggers a party reset. -/
  | stopTimeout (c : CoreId)
  /-- DRAIN_TIMEOUT (R405): Link counts not agreeing within 10 ms of a stop trigger a party reset. -/
  | drainTimeout (c : CoreId)
  /-- PARTY_RESET_TIMEOUT (R405): A party reset not ended within 10 ms becomes die-fatal. -/
  | partyResetTimeout (party : BitVec 12)
  /-- CONSERVATION_CHECK (R415): The Steward checks conservation classes every 1,024 windows or when quiescent. -/
  | conservationCheck (quiescent : Bool)
  /-- DBG_CHAL (R399): A TAP read of the challenge register returns a fresh nonce. -/
  | dbgChal
  /-- DBG_RESP (R399): A shifted debug response is checked and accepted or rejected. -/
  | dbgResp (r : List Byte)
  /-- DEBUG_SESSION_OPEN (R400): After windows are closed, the debug session opens with its scope and time. -/
  | debugSessionOpen
  /-- DEBUG_SESSION_EXPIRY (R400): The session ends when its seconds reach zero and halted targets resume. -/
  | debugSessionExpiry
  /-- DBG_ACCESS (R431): One debug access is carried out or refused against the session scope. -/
  | dbgAccess (write : Bool) (off : BitVec 38) (data : BitVec 64)
  /-- TST_DBG_HALT (R432): Halts or resumes a Steward core or sequencer thread. -/
  | tstDbgHalt (v : BitVec 32)
  /-- TST_DBG_STEP (R432): A halted target dispatches or retires one instruction and halts again. -/
  | tstDbgStep
  /-- TAP_RESET (R429): The TAP is reset, ending any debug session. -/
  | tapReset
  /-- IDCODE (R429): Selects the 32-bit IDCODE register. -/
  | idcode
  /-- SAMPLE_PRELOAD (R430): Samples or preloads the boundary-scan register. -/
  | samplePreload (cells : BitVec 25)
  /-- EXTEST (R430): Drives the boundary-scan cells onto the bumps while PORST_N is low. -/
  | extest
  /-- STM_ENTER (R433): Loads the CPLL multiplier for stand-alone test mode. -/
  | stmEnter (mult : BitVec 8)
  /-- WRAP (R433): Selects the IEEE 1500 wrapper instruction ring in stand-alone test mode. -/
  | wrap
  /-- SCAN (R433): Selects the scan decompressor input in stand-alone test mode. -/
  | scan
  /-- MBIST (R433): Selects memory BIST control in stand-alone test mode. -/
  | mbist
  /-- TIER (R433): Selects the IEEE 1838 port to the Lodge tier's BIST. -/
  | tier
  /-- LOOP_SELECT (R435): TAP LOOP instruction selects TST_LOOP in stand-alone test mode. -/
  | loopSelect (v : BitVec 32)
  /-- BYPASS (R429): Selects the 1-bit bypass register. -/
  | bypass
  /-- TST_LOOP_START (R435): Starts a hub-link loopback run on selected modules, or is refused. -/
  | tstLoopStart (gate : BitVec 5) (mods : BitVec 6)
  /-- LOOPBACK_DONE (R434): A loopback run ends and its results are recorded. -/
  | loopbackDone (results : List LoopResult)
  /-- KH_FWIN_OPEN (R396): The Steward opens a granted foreign window. -/
  | khFwinOpen (n : BitVec 3)
  /-- KH_FWIN_CLOSE (R396): The Steward clears OPEN, setting CLOSING until admitted requests complete. -/
  | khFwinClose (n : BitVec 3)
  /-- WINDOW_CLOSE_COMPLETE (R16): The last request admitted through a closing window completes and CLOSING clears. -/
  | windowCloseComplete (n : BitVec 3)
  /-- DIE_CONS_SNAP (R414): Writing SNAP copies all hardware conservation counts in one ACLK. -/
  | dieConsSnap
  /-- PWR_OP_TARGET_WRITE (R336): The Steward writes TARGET and the glide engine heads for the new effective OP. -/
  | pwrOpTargetWrite (op : BitVec 3)
  /-- ACC_CFG_WRITE (R83): A SHADOW write is held until both halves are idle, then applied, clearing SWP. -/
  | accCfgWrite (c : CoreId) (v : BitVec 32)
  /-- ABFT_CFG_WRITE (R119): A checksum configuration write is held until the half is idle, then clamped and applied. -/
  | abftCfgWrite (c : CoreId) (h : Bool) (floor : Bool) (v : BitVec 32)
  /-- CORE_RING_WRITE (R161): A ring configuration write is ignored unless idle and loads EN 0 for illegal settings. -/
  | coreRingWrite (c : CoreId) (ring : BitVec 3) (v : BitVec 64)
  /-- CORE_SR_SEED_WRITE (R61): Loads a stochastic-rounding generator state, substituting 1 for 0. -/
  | coreSrSeedWrite (c : CoreId) (t : Bool) (v : BitVec 64)
  /-- MESH_PORT_WRITE (R240): Sets a core's party and epoch, effective the next ACLK. -/
  | meshPortWrite (c : CoreId) (v : BitVec 64)
  /-- REGISTER_WRITE (R7): Any other register write, applied under its access code and clamps. -/
  | registerWrite (agent : Agent) (off : BitVec 26) (v : BitVec 64)
  /-- VDD_AON_GOOD (R420): VDD_AON comes up and the always-on domain leaves power-on reset, loading its reset values and starting the epoch count and TAP. -/
  | vddAonGood
  /-- FUSE_WORD_PROGRAMMED (R366): A fuse word finishes programming after 0.25 ms, and the event moves on to the next word or sends its response. -/
  | fuseWordProgrammed
  /-- RX_CLOCK_EDGE_RETURN (R325): An RX forwarded-clock edge returns within 1 ms after RX clock loss, so LINK_LOST is not raised. -/
  | rxClockEdgeReturn
  /-- PACKAGE_FATAL_SIGNAL (R410): The hub signals a package-fatal condition, and the die records DIE_FATAL, sends ALERT, stops its clocks and holds in reset until PORST_N. -/
  | packageFatalSignal
  /-- VECTOR_INSTRUCTION_DONE (R151): A vector instruction or MERGE writes its last results, or VRED writes RD, and the vector unit releases the thread's work. -/
  | vectorInstructionDone (c : CoreId) (t : Bool)
  /-- LODGE_COPY_DONE (R154): An LDGRD COPY or LDGWR run writes its last bytes and leaves flight. -/
  | lodgeCopyDone (c : CoreId) (t : Bool)
deriving DecidableEq, Repr

end Sys2Proof
end

