-- ==== Sys2Proof/Decode.lean ====
section
/-! DEFINITION. The table gives no row bits: a command is typed data, and no word spells one. -/

namespace Sys2Proof

/-- The command a word spells by the table's bits: none. -/
def decodeTableWord (nbits w : Nat) : Option Instr :=
  match nbits, w with
  | _, _ => none

end Sys2Proof
end

