-- ==== Sys2Proof/Machine/Num.lean ====
section
/-! DEFINITION. Exact values, the sixteen formats and their decode (Number Formats and Conversions, R40 to R50). -/

namespace Sys2Proof.Machine

/-- An exact dyadic number m · 2^e. -/
structure Dy where
  m : Int
  e : Int
deriving DecidableEq, Repr

def dyZero : Dy := ⟨0, 0⟩

/-- `2^k` for a natural exponent taken from an integer (0 below). -/
def pow2i (k : Int) : Int := 2 ^ k.toNat

/-- The exact sum. -/
def dyAdd (a b : Dy) : Dy :=
  let e := min a.e b.e
  ⟨a.m * pow2i (a.e - e) + b.m * pow2i (b.e - e), e⟩

def dyNeg (a : Dy) : Dy := ⟨-a.m, a.e⟩

def dySub (a b : Dy) : Dy := dyAdd a (dyNeg b)

/-- The exact product (R41). -/
def dyMul (a b : Dy) : Dy := ⟨a.m * b.m, a.e + b.e⟩

def dyAbs (a : Dy) : Dy := ⟨a.m.natAbs, a.e⟩

/-- `a ≤ b`. -/
def dyLe (a b : Dy) : Bool := (dySub a b).m ≤ 0

def dyLt (a b : Dy) : Bool := (dySub a b).m < 0

def dyInt (n : Int) : Dy := ⟨n, 0⟩

def dySum (l : List Dy) : Dy := l.foldl dyAdd dyZero

/-- An exact ratio of naturals equal to the magnitude of `a`: numerator and denominator. -/
def dyRatio (a : Dy) : Nat × Nat :=
  if 0 ≤ a.e then (a.m.natAbs * 2 ^ a.e.toNat, 1) else (a.m.natAbs, 2 ^ (-a.e).toNat)

/-- A decoded value: the unified form's classes (R40), with the finite magnitude held exactly. A zero keeps its sign. -/
inductive XVal where
  | nan
  | inf (neg : Bool)
  | fin (neg : Bool) (mag : Nat) (e : Int)
deriving DecidableEq, Repr

def xZero : XVal := .fin false 0 0

/-- The exact signed value of a finite value; 0 for INF and NAN, which every caller treats first. -/
def xDy : XVal → Dy
  | .fin neg mag e => ⟨if neg then -(mag : Int) else mag, e⟩
  | _ => dyZero

/-- A finite value of a dyadic number: zero is +0 (R89, R45). -/
def xOfDy (a : Dy) : XVal := .fin (decide (a.m < 0)) a.m.natAbs a.e

def xIsZero : XVal → Bool
  | .fin _ m _ => m == 0
  | _ => false

def xIsNan : XVal → Bool
  | .nan => true
  | _ => false

def xIsInf : XVal → Bool
  | .inf _ => true
  | _ => false

def xIsFin : XVal → Bool
  | .fin _ _ _ => true
  | _ => false

def xSign : XVal → Bool
  | .nan => false
  | .inf n => n
  | .fin n _ _ => n

def xNeg : XVal → XVal
  | .nan => .nan
  | .inf n => .inf (!n)
  | .fin n m e => .fin (!n) m e

/-- The flags the arithmetic raises (R54). -/
structure Flags where
  ovf : Bool
  inv : Bool
  spc : Bool
deriving DecidableEq, Repr

def flNone : Flags := ⟨false, false, false⟩
def flOvf : Flags := ⟨true, false, false⟩
def flInv : Flags := ⟨false, true, false⟩
def flSpc : Flags := ⟨false, false, true⟩
def flOr (a b : Flags) : Flags := ⟨a.ovf || b.ovf, a.inv || b.inv, a.spc || b.spc⟩
def flAny (a : Flags) : Bool := a.ovf || a.inv || a.spc

/-- A floating-point layout of R44: exponent and mantissa widths, bias, whether it has INF, its canonical NaN code
(R58) and its largest finite code without sign (R57). Codes without sign rise with the magnitude they name. -/
structure FloatLayout where
  ebits : Nat
  mbits : Nat
  bias : Int
  hasInf : Bool
  nan : Option Nat
  maxCode : Nat
deriving DecidableEq, Repr

def fmtFP32 : FloatLayout := ⟨8, 23, 127, true, some 0x7FC00000, 0x7F7FFFFF⟩
def fmtBF16 : FloatLayout := ⟨8, 7, 127, true, some 0x7FC0, 0x7F7F⟩
def fmtFP16 : FloatLayout := ⟨5, 10, 15, true, some 0x7E00, 0x7BFF⟩
def fmtE4M3 : FloatLayout := ⟨4, 3, 7, false, some 0x7F, 0x7E⟩
def fmtE5M2 : FloatLayout := ⟨5, 2, 15, true, some 0x7E, 0x7B⟩
def fmtE3M2 : FloatLayout := ⟨3, 2, 3, false, none, 0x1F⟩
def fmtE2M3 : FloatLayout := ⟨2, 3, 1, false, none, 0x1F⟩
def fmtE2M1 : FloatLayout := ⟨2, 1, 1, false, none, 0x7⟩

/-- The kinds of element a format code names. -/
inductive ElemKind where
  | flt (l : FloatLayout)
  | int (bits : Nat)        -- two's complement of that width
  | mxint8                  -- two's complement with an implied scale of 2^-6 (R45)
deriving DecidableEq, Repr

/-- The operand classes of R43. -/
inductive OpClass where
  | c32 | c16 | c8 | c4
deriving DecidableEq, Repr

/-- One row of the table of R43. -/
structure Format where
  kind : ElemKind
  width : Nat          -- container width in memory, bits (R46)
  cls : OpClass
  isInt : Bool
  mx : Bool
deriving DecidableEq, Repr

/-- The format a 5-bit code names; none for a reserved code (R43). -/
def formatOf (code : Nat) : Option Format :=
  match code with
  | 0x00 => some ⟨.flt fmtFP32, 32, .c32, false, false⟩
  | 0x01 => some ⟨.flt fmtBF16, 16, .c16, false, false⟩
  | 0x02 => some ⟨.flt fmtFP16, 16, .c16, false, false⟩
  | 0x03 => some ⟨.flt fmtE4M3, 8, .c8, false, false⟩
  | 0x04 => some ⟨.flt fmtE5M2, 8, .c8, false, false⟩
  | 0x05 => some ⟨.flt fmtE3M2, 8, .c8, false, false⟩
  | 0x06 => some ⟨.flt fmtE2M3, 8, .c8, false, false⟩
  | 0x07 => some ⟨.flt fmtE2M1, 4, .c4, false, false⟩
  | 0x08 => some ⟨.int 8, 8, .c8, true, false⟩
  | 0x09 => some ⟨.int 4, 4, .c4, true, false⟩
  | 0x10 => some ⟨.flt fmtE4M3, 8, .c8, false, true⟩
  | 0x11 => some ⟨.flt fmtE5M2, 8, .c8, false, true⟩
  | 0x12 => some ⟨.flt fmtE3M2, 8, .c8, false, true⟩
  | 0x13 => some ⟨.flt fmtE2M3, 8, .c8, false, true⟩
  | 0x14 => some ⟨.flt fmtE2M1, 4, .c4, false, true⟩
  | 0x15 => some ⟨.mxint8, 8, .c8, false, true⟩
  | _ => none

/-- Decode of a floating-point code (R44, R45). Bits above the layout are ignored (a 6-bit value in its byte, R46). -/
def decodeFloat (l : FloatLayout) (code : Nat) : XVal :=
  let mant := code % 2 ^ l.mbits
  let ex := code / 2 ^ l.mbits % 2 ^ l.ebits
  let neg := code / 2 ^ (l.mbits + l.ebits) % 2 == 1
  let allOnes := ex == 2 ^ l.ebits - 1
  if allOnes && l.hasInf then (if mant == 0 then .inf neg else .nan)
  else if l.nan.isSome && allOnes && mant == 2 ^ l.mbits - 1 then .nan   -- E4M3: S.1111.111 only
  else if ex == 0 then .fin neg mant (1 - l.bias - l.mbits)
  else .fin neg (2 ^ l.mbits + mant) ((ex : Int) - l.bias - l.mbits)

/-- The signed value of a two's complement code of `bits` bits. -/
def sintOf (bits code : Nat) : Int :=
  let c := code % 2 ^ bits
  if c < 2 ^ (bits - 1) then c else (c : Int) - (2 ^ bits : Nat)

/-- Decode of one element (R45). The integer 0 decodes to ZERO with sign 0. -/
def decodeElem (k : ElemKind) (code : Nat) : XVal :=
  match k with
  | .flt l => decodeFloat l code
  | .int b => xOfDy ⟨sintOf b code, 0⟩
  | .mxint8 => xOfDy ⟨sintOf 8 code, -6⟩

def decodeFP32 (w : BitVec 32) : XVal := decodeFloat fmtFP32 w.toNat

/-- The largest finite value of a format with the given sign (R53). -/
def maxFinite (k : ElemKind) (neg : Bool) : XVal :=
  match k with
  | .flt l => (match decodeFloat l l.maxCode with | .fin _ m e => .fin neg m e | x => x)
  | .int b => xOfDy ⟨if neg then -(2 ^ (b - 1) : Nat) else (2 ^ (b - 1) - 1 : Nat), 0⟩
  | .mxint8 => xOfDy ⟨if neg then -128 else 127, -6⟩

/-- The width rank of a class: a pair runs at the packing of its wider operand's class (R50). -/
def clsRank : OpClass → Nat
  | .c32 => 3 | .c16 => 2 | .c8 => 1 | .c4 => 0

def clsWider (a b : OpClass) : OpClass := if clsRank a ≥ clsRank b then a else b

/-- The packing p (R50); ACC16 has none for the 16-bit and FP32 classes, where R51 rejects it first. -/
def packing (c : OpClass) (acc16 : Bool) : Nat :=
  match c with
  | .c32 => 1
  | .c16 => 1
  | .c8 => if acc16 then 4 else 2
  | .c4 => if acc16 then 8 else 4

/-- Passes of an MMA (R42). -/
def passesOf (a b : OpClass) : Nat :=
  match a, b with
  | .c32, .c32 => 4
  | .c32, _ => 2
  | _, .c32 => 2
  | _, _ => 1

/-- The largest D values the latch holds (R67); FP32 cannot be resident. -/
def latchDepth : OpClass → Nat
  | .c32 => 0 | .c16 => 32 | .c8 => 64 | .c4 => 128

/-- High and low piece of an FP32 operand (R42): the top 12 and bottom 12 bits of the 24-bit significand. A special value
is whole in the high piece and its low piece is ZERO. -/
def fp32Pieces (x : XVal) : XVal × XVal :=
  match x with
  | .fin neg m e =>
    -- the 24-bit significand of a normalised value: scale m to 24 bits
    let sh := 23 - Nat.log2 m
    if m == 0 then (x, .fin neg 0 0)
    else
      let sig := m * 2 ^ sh
      let e' := e - sh
      (.fin neg (sig / 4096) (e' + 12), .fin neg (sig % 4096) e')
  | x => (x, xZero)

end Sys2Proof.Machine
end

