-- ==== Sys2Proof/Machine/Convert.lean ====
section
/-! DEFINITION. Rounding and conversion to narrower formats (R55 to R62), and the stochastic-rounding generator (R60). -/

namespace Sys2Proof.Machine

/-- The rounding of one element: to nearest even, or stochastic with its 16-bit draw (R55, R60). -/
inductive Rounding where
  | rne
  | sr (draw : Nat)
deriving DecidableEq, Repr

/-- floor(log2 (n/d)) for n, d > 0. -/
def floorLog2 (n d : Nat) : Int :=
  let g : Int := (Nat.log2 n : Int) - Nat.log2 d
  -- g - 1 ≤ log2 (n/d) < g + 1
  let ge := if 0 ≤ g then decide (d * 2 ^ g.toNat ≤ n) else decide (d ≤ n * 2 ^ (-g).toNat)
  if ge then g else g - 1

/-- Quotient and remainder, with their divisor, of (n/d) / 2^k. -/
def scaleDiv (n d : Nat) (k : Int) : Nat × Nat × Nat :=
  let n' := if 0 ≤ k then n else n * 2 ^ (-k).toNat
  let d' := if 0 ≤ k then d * 2 ^ k.toNat else d
  (n' / d', n' % d', d')

/-- R60's F = floor(f · 2^16) of the discarded part. -/
def srFrac (r d : Nat) : Nat := r * 65536 / d

/-- The rounding decision on quotient q, remainder r, divisor d: R56 and R60. -/
def roundUp (q r d : Nat) : Rounding → Bool
  | .rne => decide (d < 2 * r) || (decide (2 * r = d) && q % 2 == 1)
  | .sr draw => decide (65536 ≤ srFrac r d + draw % 65536) && srFrac r d != 0

def roundQuot (q r d : Nat) (rm : Rounding) : Nat := if roundUp q r d rm then q + 1 else q

/-- Exponent of the least significant bit at the result position of a magnitude n/d > 0. -/
def ulpExp (l : FloatLayout) (n d : Nat) : Int := max (floorLog2 n d) (1 - l.bias) - l.mbits

/-- The code without sign of the rounded magnitude, unbounded above (R56, R60): codes rise with magnitude, so a carry
into the next binade, or out of the subnormal range, is the code's own successor. -/
def roundCode (l : FloatLayout) (n d : Nat) (rm : Rounding) : Nat :=
  if n == 0 then 0
  else
    let u := ulpExp l n d
    let (q, r, d') := scaleDiv n d u
    let q' := roundQuot q r d' rm
    ((u + l.mbits) - (1 - l.bias)).toNat * 2 ^ l.mbits + q'

/-- The magnitude of the largest finite value as a significand and an exponent. -/
def maxMag (l : FloatLayout) : Nat × Int :=
  match decodeFloat l l.maxCode with
  | .fin _ m e => (m, e)
  | _ => (0, 0)

/-- max + ½ ulp(max) ≤ n/d: the overflow threshold of R57, whatever the parity of max's code. -/
def atThreshold (l : FloatLayout) (n d : Nat) : Bool :=
  let (m, e) := maxMag l
  let k := e - 1
  let t := 2 * m + 1
  if 0 ≤ k then decide (t * 2 ^ k.toNat * d ≤ n) else decide (t * d ≤ n * 2 ^ (-k).toNat)

/-- The code of a sign and a code without sign. -/
def withSign (l : FloatLayout) (neg : Bool) (c : Nat) : Nat :=
  if neg then c + 2 ^ (l.mbits + l.ebits) else c

/-- Code without sign of INF. -/
def infCode (l : FloatLayout) : Nat := (2 ^ l.ebits - 1) * 2 ^ l.mbits

/-- A converted code and the flags it raised. -/
structure Conv where
  code : Nat
  fl : Flags
deriving DecidableEq, Repr

/-- Overflow result (R58): CLAMP the max code; PROPAGATE INF where the format has one, E4M3's NaN, else the max code. -/
def overflowConv (l : FloatLayout) (neg sat : Bool) : Conv :=
  if sat then
    if l.hasInf then ⟨withSign l neg (infCode l), flOvf⟩
    else match l.nan with
      | some c => ⟨c, flOvf⟩
      | none => ⟨withSign l neg l.maxCode, flOvf⟩
  else ⟨withSign l neg l.maxCode, flOvf⟩

/-- Conversion of a finite magnitude n/d to a floating format (R56, R57, R60). -/
def convMag (l : FloatLayout) (neg : Bool) (n d : Nat) (rm : Rounding) (sat : Bool) : Conv :=
  let c := roundCode l n d rm
  let ovfl := match rm with
    | .rne => atThreshold l n d
    | .sr _ => decide (l.maxCode < c)
  if ovfl then overflowConv l neg sat else ⟨withSign l neg (min c l.maxCode), flNone⟩

/-- INF source, floating destination (R58). -/
def infConv (l : FloatLayout) (neg sat : Bool) : Conv :=
  if sat then
    if l.hasInf then ⟨withSign l neg (infCode l), flSpc⟩
    else match l.nan with
      | some c => ⟨c, flSpc⟩
      | none => ⟨withSign l neg l.maxCode, ⟨true, false, true⟩⟩
  else ⟨withSign l neg l.maxCode, flSpc⟩

/-- NAN source, floating destination (R58). -/
def nanConv (l : FloatLayout) : Conv :=
  match l.nan with
  | some c => ⟨c, flSpc⟩
  | none => ⟨l.maxCode, ⟨false, true, true⟩⟩

/-- A value to a floating format. `sat` is the saturation mode: false CLAMP, true PROPAGATE (R53). -/
def convFloat (l : FloatLayout) (x : XVal) (rm : Rounding) (sat : Bool) : Conv :=
  match x with
  | .nan => nanConv l
  | .inf neg => infConv l neg sat
  | .fin neg m e =>
    let (n, d) := dyRatio ⟨m, e⟩
    convMag l neg n d rm sat

/-- The two's complement code of an integer in `bits` bits. -/
def intCode (bits : Nat) (v : Int) : Nat := (v % (2 ^ bits : Nat)).toNat

/-- A value to INT8 or INT4 (R59): rounded to an integer, then saturated; both saturation modes alike. -/
def convInt (bits : Nat) (x : XVal) (rm : Rounding) : Conv :=
  let hi : Int := (2 ^ (bits - 1) : Nat) - 1
  let lo : Int := -(2 ^ (bits - 1) : Nat)
  match x with
  | .nan => ⟨intCode bits hi, ⟨false, true, true⟩⟩
  | .inf neg => ⟨intCode bits (if neg then lo else hi), ⟨true, false, true⟩⟩
  | .fin neg m e =>
    let (n, d) := dyRatio ⟨m, e⟩
    let q := roundQuot (n / d) (n % d) d rm
    let v : Int := if neg then -(q : Int) else q
    if v < lo then ⟨intCode bits lo, flOvf⟩
    else if hi < v then ⟨intCode bits hi, flOvf⟩
    else ⟨intCode bits v, flNone⟩

/-- A value to a scalar format (every code of R43 below the MX codes). MXINT8 elements are formed by `convMxBlock`. -/
def convElem (k : ElemKind) (x : XVal) (rm : Rounding) (sat : Bool) : Conv :=
  match k with
  | .flt l => convFloat l x rm sat
  | .int b => convInt b x rm
  | .mxint8 => convInt 8 x rm

/-- Does converting x under SR draw (R60: F = 0 is exact and draws nothing; special values draw nothing)? -/
def needsDraw (k : ElemKind) (x : XVal) : Bool :=
  match x with
  | .fin _ m e =>
    if m == 0 then false
    else
      let (n, d) := dyRatio ⟨m, e⟩
      match k with
      | .flt l => let (_, r, d') := scaleDiv n d (ulpExp l n d); srFrac r d' != 0
      | _ => srFrac (n % d) d != 0
  | _ => false

/-- One step of the 64-bit xorshift generator (R60). -/
def xorshift (s : BitVec 64) : BitVec 64 :=
  let a := s ^^^ (s <<< 13)
  let b := a ^^^ (a >>> 7)
  b ^^^ (b <<< 17)

/-- The state after n steps. -/
def xorshiftN : Nat → BitVec 64 → BitVec 64
  | 0, s => s
  | n + 1, s => xorshiftN n (xorshift s)

/-- The j-th draw (from 0): bits [15:0] of the state after one more step (R60). -/
def srDraw (s : BitVec 64) (j : Nat) : Nat := (xorshiftN (j + 1) s).toNat % 65536

/-! ### FP32 results -/

/-- rne32 with the saturation of an addition or product (R89, R95): a finite result at or beyond the threshold becomes the
largest finite value of its sign, with OVF. Zero keeps the sign given. -/
def rne32Sat (x : XVal) : Conv :=
  match x with
  | .nan => ⟨0x7FC00000, flNone⟩
  | .inf neg => ⟨withSign fmtFP32 neg (infCode fmtFP32), flNone⟩
  | x => convFloat fmtFP32 x .rne false

/-- rne32 of an exact sum: an exact sum of zero is +0 (R89). -/
def rne32Dy (a : Dy) : Conv := rne32Sat (xOfDy a)

/-- R57's FP32 overflow test on an exact value. -/
def overFP32 (a : Dy) : Bool := let (n, d) := dyRatio a; atThreshold fmtFP32 n d

/-! ### MX blocks (R62) -/

/-- e_max of an element format (R62 step 2). -/
def eMax : ElemKind → Int
  | .flt l => (Nat.log2 (maxMag l).1 : Int) + (maxMag l).2
  | _ => 0

/-- An element of a block: x / 2^shared converted, an overflow brought to the largest value of its sign without a flag
unless the scale clamped (R62 steps 3, 4). A negative MXINT8 element that rounds to magnitude 2 is −128, which R45's range holds
(DESIGN CHOICE, assumption log: step 4 could be read to give −1.984375). -/
def mxElem (k : ElemKind) (shared : Int) (clamped : Bool) (x : XVal) (rm : Rounding) : Conv :=
  match x with
  | .fin neg m e =>
    let y : XVal := match k with
      | .mxint8 => .fin neg m (e - shared + 6)
      | _ => .fin neg m (e - shared)
    let c := convElem k y rm false
    ⟨c.code, if clamped then c.fl else flNone⟩
  | _ => ⟨0, flNone⟩

/-- The scaled value whose rounding decides an element's draw. -/
def mxScaled (k : ElemKind) (shared : Int) (x : XVal) : XVal :=
  match x with
  | .fin neg m e => .fin neg m (match k with | .mxint8 => e - shared + 6 | _ => e - shared)
  | x => x

/-- The largest finite magnitude of a block, as a dyadic number. -/
def blockMax (xs : List XVal) : Dy :=
  xs.foldl (fun a x => if xIsFin x && dyLt a (dyAbs (xDy x)) then dyAbs (xDy x) else a) dyZero

/-- The block's clamped shared exponent and whether it clamped at 127; none when every magnitude is 0 (R62 steps 1, 2). -/
def blockShared (k : ElemKind) (xs : List XVal) : Option (Int × Bool) :=
  let a := blockMax xs
  if a.m == 0 then none
  else
    let (n, d) := dyRatio a
    let s := floorLog2 n d - eMax k
    some (max (-127) (min 127 s), decide (127 < s))

/-- CLAMP replaces an INF element by the largest finite FP32 value of its sign (R62 step 5). -/
def clampInfFP32 (x : XVal) : XVal :=
  match x with
  | .inf neg => maxFinite (.flt fmtFP32) neg
  | x => x

/-- A converted block: its scale code, its element codes, its flags. -/
structure MxBlock where
  scale : Nat
  codes : List Nat
  fl : Flags
deriving DecidableEq, Repr

/-- R62 on one block; `rm i` is the rounding of element i. -/
def convMxBlock (k : ElemKind) (xs : List XVal) (rm : Nat → Rounding) (sat : Bool) : MxBlock :=
  let hasNan := xs.any xIsNan
  let hasInf := xs.any xIsInf
  if hasNan || (sat && hasInf) then ⟨0xFF, xs.map (fun _ => 0), flSpc⟩
  else
    let ys := xs.map clampInfFP32
    let spc := if hasInf then flSpc else flNone
    match blockShared k ys with
    | none =>
      ⟨0, ys.map (fun y => match k with
        | .flt l => withSign l (xSign y) 0
        | _ => 0), spc⟩
    | some (sh, clamped) =>
      let cs := ys.zipIdx.map (fun (y, i) => mxElem k sh clamped y (rm i))
      ⟨(sh + 127).toNat, cs.map (·.code),
        flOr spc (cs.foldl (fun f c => flOr f c.fl) (if clamped then flOvf else flNone))⟩

/-- An E8M0 scale code as an exponent; none for the NaN code 0xFF (R44). -/
def scaleExp (c : Nat) : Option Int := if c % 256 == 255 then none else some ((c % 256 : Nat) - 127)

end Sys2Proof.Machine
end

