-- ==== Sys2Proof/Machine/Acc.lean ====
section
/-! DEFINITION. One accumulator register and one checksum-cell register: layout, addition, value (R85 to R90, R94, R113,
R114), the product of two operands under a saturation mode (R53), and the reduction unit's records (R98 to R102). -/

namespace Sys2Proof.Machine

/-- E8M7, the format of COMP (R85). -/
def fmtE8M7 : FloatLayout := fmtBF16

/-- Accumulator mode codes (R87). -/
def accACC32C : BitVec 2 := 0
def accACC32 : BitVec 2 := 1
def accACC16 : BitVec 2 := 2
def accINT48 : BitVec 2 := 3

/-! ### Register fields (R85) -/

def regOvf (q : BitVec 52) : Bool := q.getLsbD 51
def regInv (q : BitVec 52) : Bool := q.getLsbD 50
def regSpc (q : BitVec 52) : Bool := q.getLsbD 49
def regPoi (q : BitVec 52) : Bool := q.getLsbD 48
def regBody (q : BitVec 52) : BitVec 48 := q.extractLsb' 0 48
def regMain (q : BitVec 52) : BitVec 32 := q.extractLsb' 0 32
def regComp (q : BitVec 52) : BitVec 16 := q.extractLsb' 32 16
def regH0 (q : BitVec 52) : BitVec 16 := q.extractLsb' 0 16
def regH1 (q : BitVec 52) : BitVec 16 := q.extractLsb' 16 16
def regFlags (q : BitVec 52) : Flags := ⟨regOvf q, regInv q, regSpc q⟩

def boolBit (b : Bool) : BitVec 1 := if b then 1#1 else 0#1

/-- A register from its flags, POI and body. -/
def mkReg (f : Flags) (poi : Bool) (body : BitVec 48) : BitVec 52 :=
  (boolBit f.ovf ++ boolBit f.inv ++ boolBit f.spc ++ boolBit poi ++ body).cast (by decide)

/-- The body of a float register: COMP, MAIN. -/
def floatBody (comp : BitVec 16) (main : BitVec 32) : BitVec 48 := (comp ++ main).cast (by decide)

/-- The body of an ACC16 register: H1, H0. -/
def half16Body (h1 h0 : BitVec 16) : BitVec 48 := ((0#16 ++ h1) ++ h0).cast (by decide)

def nan32 : BitVec 32 := 0x7FC00000#32
def inf32 (neg : Bool) : BitVec 32 := if neg then 0xFF800000#32 else 0x7F800000#32

/-! ### Products (R53) -/

/-- What one product, or one lane step, raises: the flags, and whether a ZERO × INF product occurred (R125 ZINF). -/
structure TermX where
  v : XVal
  fl : Flags
  zinf : Bool
deriving DecidableEq, Repr

/-- An operand under CLAMP: INF becomes the largest finite value of its own format; SPC is raised in both modes. -/
def operandOf (k : ElemKind) (sat : Bool) (x : XVal) : XVal :=
  match x with
  | .inf neg => if sat then .inf neg else maxFinite k neg
  | x => x

/-- The exact product of two values; ZERO × INF is NAN (the callers clamp first under CLAMP). -/
def xMul (a b : XVal) : XVal :=
  match a, b with
  | .nan, _ => .nan
  | _, .nan => .nan
  | .inf n, y => if xIsZero y then .nan else .inf (n != xSign y)
  | x, .inf n => if xIsZero x then .nan else .inf (n != xSign x)
  | .fin n m e, .fin n' m' e' => .fin (n != n') (m * m') (e + e')

/-- The product of two decoded operands of formats ka and kb under saturation mode `sat` with the block scales' exponent
sum `sc` (none: a block scale is 0xFF), by the table of R53. Two points are the model's (DESIGN CHOICE, assumption log): the FP32 maximum
that replaces an INF under CLAMP is multiplied whole, in the high piece that carried the INF; and a ZERO × INF whose block scale is 0xFF
takes the NaN row, without INV, and still counts as a ZERO × INF product. -/
def product (ka kb : ElemKind) (sat : Bool) (sc : Option Int) (a b : XVal) : TermX :=
  let zinf := (xIsZero a && xIsInf b) || (xIsInf a && xIsZero b)
  let anyNan := xIsNan a || xIsNan b
  match sc with
  | none => ⟨.nan, flSpc, zinf⟩
  | some k =>
    if anyNan then ⟨.nan, flSpc, false⟩
    else
      let spc := if xIsInf a || xIsInf b then flSpc else flNone
      if zinf then (if sat then ⟨.nan, ⟨false, true, true⟩, true⟩ else ⟨xZero, flSpc, true⟩)
      else
        match xMul (operandOf ka sat a) (operandOf kb sat b) with
        | .fin n m e => ⟨.fin n m (e + k), spc, false⟩
        | v => ⟨v, spc, false⟩

/-- The exact sum of two values; INF of opposite signs is NAN with INV (R89). -/
def xAdd (a b : XVal) : XVal × Flags :=
  match a, b with
  | .nan, _ => (.nan, flNone)
  | _, .nan => (.nan, flNone)
  | .inf n, .inf n' => if n == n' then (.inf n, flNone) else (.nan, flInv)
  | .inf n, _ => (.inf n, flNone)
  | _, .inf n => (.inf n, flNone)
  | x, y => (xOfDy (dyAdd (xDy x) (xDy y)), flNone)

/-- The exact sum of the packed products of one lane step (R41). -/
def termSum (ts : List TermX) : TermX :=
  ts.foldl (fun a t => let (v, f) := xAdd a.v t.v; ⟨v, flOr f (flOr a.fl t.fl), a.zinf || t.zinf⟩) ⟨xZero, flNone, false⟩

/-! ### Additions (R88, R89) -/

/-- One addition into MAIN and COMP; `keepComp` is ACC32C. -/
def addMain (keepComp : Bool) (q : BitVec 52) (t : XVal) : BitVec 52 :=
  let f := regFlags q
  let keep (g : Flags) (main : BitVec 32) (comp : BitVec 16) := mkReg (flOr f g) (regPoi q) (floatBody comp main)
  match decodeFP32 (regMain q), t with
  | .nan, _ => q
  | _, .nan => keep flNone nan32 0
  | .inf n, .inf n' => if n == n' then q else keep flInv nan32 0
  | .inf _, .fin _ _ _ => q
  | .fin _ _ _, .inf n => keep flNone (inf32 n) 0
  | .fin n m e, .fin n' m' e' =>
    let comp := xDy (decodeFloat fmtE8M7 (regComp q).toNat)
    let x := dyAdd (dyAdd (xDy (.fin n m e)) comp) (xDy (.fin n' m' e'))
    let c := rne32Dy x
    let main := BitVec.ofNat 32 c.code
    if c.fl.ovf then keep flOvf main 0
    else if keepComp then
      let r := dySub x (xDy (decodeFP32 main))
      keep flNone main (BitVec.ofNat 16 (convFloat fmtE8M7 (xOfDy r) .rne false).code)
    else keep flNone main 0

/-- One addition into an FP16 accumulator: its new bits and its flags. -/
def addH (h : BitVec 16) (t : XVal) : BitVec 16 × Flags :=
  match decodeFloat fmtFP16 h.toNat, t with
  | .nan, _ => (h, flNone)
  | _, .nan => (0x7E00#16, flNone)
  | .inf n, .inf n' => if n == n' then (h, flNone) else (0x7E00#16, flInv)
  | .inf _, .fin _ _ _ => (h, flNone)
  | .fin _ _ _, .inf n => ((if n then 0xFC00#16 else 0x7C00#16), flNone)
  | x, y =>
    let c := convFloat fmtFP16 (xOfDy (dyAdd (xDy x) (xDy y))) .rne false
    (BitVec.ofNat 16 c.code, c.fl)

def addAcc16 (q : BitVec 52) (lo hi : XVal) : BitVec 52 :=
  let (h0, f0) := addH (regH0 q) lo
  let (h1, f1) := addH (regH1 q) hi
  mkReg (flOr (regFlags q) (flOr f0 f1)) (regPoi q) (half16Body h1 h0)

/-- INT48 addition: clamped to 48 bits, OVF when clamped. -/
def addInt48 (q : BitVec 52) (t : Int) : BitVec 52 :=
  let s := (regBody q).toInt + t
  let hi : Int := 2 ^ 47 - 1
  let lo : Int := -2 ^ 47
  if hi < s then mkReg (flOr (regFlags q) flOvf) (regPoi q) (BitVec.ofInt 48 hi)
  else if s < lo then mkReg (flOr (regFlags q) flOvf) (regPoi q) (BitVec.ofInt 48 lo)
  else mkReg (regFlags q) (regPoi q) (BitVec.ofInt 48 s)

/-- The integer of a value that is one (INT48 terms are exact integers). -/
def xInt (x : XVal) : Int :=
  let a := xDy x
  if 0 ≤ a.e then a.m * pow2i a.e else a.m / pow2i (-a.e)

/-- One lane step's addition in the MMA's own mode (R86): `lo`, `hi` are the two halves of the packed products along K
(ACC16); the other modes add their exact sum. The lane step's own flags are ORed in (R54). -/
def addTerm (mode : BitVec 2) (q : BitVec 52) (lo hi : TermX) : BitVec 52 :=
  let t := termSum [lo, hi]
  let q' :=
    if mode = accACC16 then addAcc16 q lo.v hi.v
    else if mode = accINT48 then addInt48 q (xInt t.v)
    else addMain (mode = accACC32C) q t.v
  let fl := if mode = accACC16 then flOr lo.fl hi.fl else t.fl
  mkReg (flOr (regFlags q') fl) (regPoi q') (regBody q')

/-! ### The value a slot read takes (R94) -/

/-- The value v of a register in a mode, and INV when ACC16's two halves hold opposite INFs (R89). -/
def regValue (mode : BitVec 2) (q : BitVec 52) : XVal × Flags :=
  if mode = accINT48 then (xOfDy ⟨(regBody q).toInt, 0⟩, flNone)
  else if mode = accACC16 then
    xAdd (decodeFloat fmtFP16 (regH0 q).toNat) (decodeFloat fmtFP16 (regH1 q).toNat)
  else xAdd (decodeFP32 (regMain q)) (decodeFloat fmtE8M7 (regComp q).toNat)

/-- The register a PRELOAD of a finite or special value leaves (R92), from cleared, and its flags. -/
def preloadReg (mode : BitVec 2) (sat : Bool) (x : XVal) : BitVec 52 :=
  if mode = accINT48 then mkReg flNone false (BitVec.ofInt 48 (xInt x))
  else
    let l := if mode = accACC16 then fmtFP16 else fmtFP32
    let c : Conv := match x with
      | .nan => ⟨(l.nan).getD 0, flSpc⟩
      | .inf n => if sat then ⟨withSign l n (infCode l), flSpc⟩ else ⟨withSign l n l.maxCode, flSpc⟩
      | x => convFloat l x .rne false
    if mode = accACC16 then mkReg c.fl false (half16Body 0 (BitVec.ofNat 16 c.code))
    else mkReg c.fl false (floatBody 0 (BitVec.ofNat 32 c.code))

/-! ### Checksum cells (R113, R114) -/

def chkNo (q : BitVec 52) : Bool := q.getLsbD 49

def mkChk (nochk poi : Bool) (body : BitVec 48) : BitVec 52 := mkReg ⟨false, false, nochk⟩ poi body

/-- A fed sum: rounded once to FP32, or exact for two integer operands; `sat` marks a saturated sum (R70). -/
structure Feed where
  v : XVal
  sat : Bool
deriving DecidableEq, Repr

/-- The feeders' sum of one K index over a list of values (R70). -/
def feedSum (exact : Bool) (xs : List XVal) : Feed :=
  let s := xs.foldl (fun a x => (xAdd a x).1) xZero
  if exact then ⟨s, false⟩
  else match s with
    | .fin _ _ _ => let c := rne32Sat s; ⟨decodeFP32 (BitVec.ofNat 32 c.code), c.fl.ovf⟩
    | s => ⟨s, false⟩

/-- One term into a checksum cell (R113): the ACC32C rule in the float modes, modulo 2^48 in INT48; an INF or NaN term, a
saturated feed and a saturating sum set NOCHK and never a flag (R114). -/
def addChk (mode : BitVec 2) (q : BitVec 52) (t : XVal) (fedSat : Bool) : BitVec 52 :=
  if mode = accINT48 then mkChk (chkNo q || fedSat) (regPoi q) (BitVec.ofInt 48 ((regBody q).toInt + xInt t))
  else
    let bare := mkReg flNone (regPoi q) (regBody q)
    let r := addMain true bare t
    mkChk (chkNo q || fedSat || !xIsFin t || regOvf r) (regPoi q) (regBody r)

/-- The value a comparison uses: none when NOCHK forbids it (R115). -/
def chkValue (mode : BitVec 2) (q : BitVec 52) : Option XVal :=
  if chkNo q then none
  else if mode = accINT48 then some (xOfDy ⟨(regBody q).toInt, 0⟩)
  else some (xAdd (decodeFP32 (regMain q)) (decodeFloat fmtE8M7 (regComp q).toNat)).1

/-- One check of R115 in exact arithmetic: |Σ − c| ≤ 2^−m·R + F, or Σ ≡ c modulo 2^48 for INT48. -/
def checkPasses (mode : BitVec 2) (m : Nat) (floor : BitVec 32) (xs : List Dy) (c : Dy) : Bool :=
  let sum := dySum xs
  if mode = accINT48 then
    decide ((dySub sum c).m * pow2i (dySub sum c).e % 2 ^ 48 = 0)
  else
    let r := dyAdd (dySum (xs.map dyAbs)) (dyAbs c)
    let f := xDy (decodeFP32 floor)
    dyLe (dyAbs (dySub sum c)) (dyAdd ⟨r.m, r.e - m⟩ (dyAbs f))

end Sys2Proof.Machine
end

