-- ==== Sys2Proof/Config.lean ====
section
/-! DEFINITION. The free values of the model: what the spec leaves open. No constant here has a body, so no proof can
see what it is. A free value is applied to the state's counter `freeCtr` (advanced by every command that draws one) and to
an index within the command. -/

namespace Sys2Proof.Config

/-- A value the spec leaves undefined or states no result for: index `i` of the draw numbered `n`. -/
opaque freeWord (n i : Nat) : BitVec 64

/-- Which of the `k` draws of one conversion goes to element `i`: R60 leaves the order open. -/
opaque srPick (n i : Nat) : Nat

/-- The runtime version HELLO reports (R271). -/
opaque runtimeVersion : BitVec 16

/-- Where the Steward places areas of core store of given sizes (R185: at offsets of its choice). -/
opaque areaPlaces (n : Nat) (sizes : List Nat) : List Nat

/-- A nonce of the Keyholder's generator (R399). -/
opaque nonce (n : Nat) : BitVec 256

/-- SHAKE256 with `out` bytes of output over a list of bytes: a public function that the spec names and does not define
(R320, R376, R385, R387, R392). It is left uninterpreted. -/
opaque shake256 (out : Nat) (bytes : List Byte) : List Byte

/-- Whether an Ed448 signature verifies: signer's key, digest signed, signature (R386, RFC 8032). Left uninterpreted. -/
opaque ed448Verify (key digest sig : List Byte) : Bool

/-- The Ed448 signature the identity key makes over a digest (R393). Left uninterpreted. -/
opaque ed448Sign (key digest : List Byte) : List Byte

/-- The public key of an Ed448 private key (R392, RFC 8032). Left uninterpreted. -/
opaque ed448Public (key : List Byte) : List Byte

/-- The PUF key K rebuilt from helper data, none when it cannot be rebuilt (R392). -/
opaque pufKey (helper : List (BitVec 64)) : Option (List Byte)

/-- The Keyholder's ROM, 256 KiB (R31, R383): what it holds the spec does not print. -/
opaque keyholderRom (offset : BitVec 18) : Byte

end Sys2Proof.Config
end

