-- ==== Sys2Proof/Machine/CoreState.lean ====
section
/-! DEFINITION. The state of one core as plain data: array, accumulators, status words, threads, rings, waybills, stream
links, mesh port (R28, R65, R68, R83, R86, R98, R119, R123 to R134, R161 to R178, R240). Every type derives DecidableEq
and Repr; every register holds a value at reset. -/

namespace Sys2Proof.Machine

/-- Which half or halves an operation covers: the HALF field of R143. -/
inductive HalfSel where
  | full | h0 | h1
deriving DecidableEq, Repr

/-- One entry of a thread's queue (R133): the word's address and bits, the register file as read at dispatch (R134), and
the slice offset of the Lodge bytes assigned to it at dispatch (R154). -/
structure QEntry where
  pc : Nat
  word : BitVec 64
  regs : Tab (BitVec 64)
  stream : Nat
  seq : Nat          -- its place in the thread's dispatch order (R135)
  mark : Nat         -- slot reads the thread had dispatched before it (R158)
deriving DecidableEq, Repr

/-- A hardware loop (R140). -/
structure LoopFrame where
  start : Nat
  stop : Nat
  left : Nat
deriving DecidableEq, Repr

/-- A sequencer wait in progress (R134): what it waits for. -/
inductive Wait where
  | none
  | waitev (all : Bool) (mask : BitVec 16)
  | wbwait (wb : BitVec 3) (level : Bool)
  | tally (name : BitVec 19) (target : BitVec 32)
  | split (leave : Bool) (lodgeHalf : Bool) (t1pc : Nat)
  | halt (exit : BitVec 16)
deriving DecidableEq, Repr

/-- A thread's run state: never started, running, halted (R141), faulted (R160), or stopped by an abort (R187). -/
inductive Run where
  | idle | running | halted | faulted | stopped
deriving DecidableEq, Repr

/-- Which unit owes a register its value (R134). -/
inductive Owed where
  | berth | tally | vred
deriving DecidableEq, Repr

/-- Vector work of a thread in flight (R142 bit 10): for VRED, the value its RD receives at the end; the last ACLK in which it moves
elements, and the core-store read and write ports it takes until then (R30, R151). -/
structure Work where
  rd : Option (BitVec 6 × BitVec 64)
  due : Nat
  last : Nat
  reads : Nat
  writes : Nat
deriving DecidableEq, Repr

/-- An LDGWR or COPY in flight: its slice range (R155) and when its last bytes are written (R154, R159). -/
structure LdgWork where
  write : Bool
  lo : Nat
  len : Nat
  due : Nat
deriving DecidableEq, Repr

/-- One sequencer thread (R130 to R134, R140 to R142, R152). -/
structure Thread where
  run : Run
  pc : Nat
  regs : Tab (BitVec 64)          -- s0 to s31 at 0 to 31, a0 to a15 at 32 to 47 (R131)
  preds : BitVec 8                -- bit 0 is p0, always 1
  loops : List LoopFrame          -- innermost first
  wait : Wait
  feed : List QEntry
  edge : List QEntry
  vec : List QEntry
  port : List QEntry
  ldg : List QEntry
  msg : List QEntry
  owed : List (BitVec 6 × Owed)   -- registers an earlier instruction has yet to write
  answers : List (Nat × BitVec 6 × BitVec 64)   -- answers of Ledger hits under way, and when each is written (R156)
  streamPtr : BitVec 32
  armed : Bool                    -- an armed tally condition stands (R157 ARM)
  tallyEvent : Bool               -- WAITEV bit 8
  armSeq : BitVec 4
  armName : BitVec 19             -- the tally of the armed condition: REMOTE, die, index (R157)
  vstat : BitVec 64
  vecWork : List Work
  ldgWork : List LdgWork
  unacked : Nat                   -- outbound line writes not yet acknowledged
  stampsHeld : Nat                -- STAMPs dispatched and not yet in effect
  readsOut : Nat                  -- slot reads dispatched, and status words delivered clean (R158)
  readsIn : Nat
  seqNo : Nat                     -- words dispatched to a queue
  exitCode : BitVec 16
  tokens : Int                    -- the token count B of R344, as it stood at
  tokensAt : Nat                  -- this ACLK
  itin : Option (BitVec 32)
  dbgHalted : Bool                -- halted by the debugger, and allowed one dispatch by STEP (R432)
  dbgStep : Bool
deriving DecidableEq, Repr

/-- Tally waiter cancellation and issue tokens start full; a thread is idle until the Steward starts it. -/
def Thread.reset : Thread :=
  { run := .idle, pc := 0, regs := [], preds := 1#8, loops := [], wait := .none, feed := [], edge := [], vec := [],
    port := [], ldg := [], msg := [], owed := [], answers := [], streamPtr := 0, armed := false, tallyEvent := false, armSeq := 0, armName := 0,
    vstat := 0, vecWork := [], ldgWork := [], unacked := 0, stampsHeld := 0, readsOut := 0, readsIn := 0, seqNo := 0, exitCode := 0,
    tokens := 4096, tokensAt := 0, itin := none, dbgHalted := false, dbgStep := false }

/-- The kinds of array operation in flight. -/
inductive ArrKind where
  | mma | resload | preload | drain | reduce | chain
deriving DecidableEq, Repr

/-- A flag event (R124, R125): FLAG code 0 OVF, 1 INV, 2 SPC, 3 ABFT, 4 ZINF; its place; 0xFFFF for no lane step. -/
structure FlagEvent where
  flag : Nat
  row : Nat
  col : Nat
  k16 : Nat
  rowChk : Bool
  colChk : Bool
deriving DecidableEq, Repr

/-- What the comparison of a slot read found (R115, R118, R124): whether a check failed, which kinds, and the locator. -/
structure Verdict where
  failed : Bool
  rowChk : Bool
  colChk : Bool
  row : BitVec 5
  col : BitVec 5
deriving DecidableEq, Repr

/-- An array operation in flight (R71 to R75, R92, R117): its cycles, the register it names, the core-store ports it claims, the flag
events still to come with their cycles and, for a slot read, the read's copy of the status word and its verdict. -/
structure ArrOp where
  kind : ArrKind
  thread : Bool
  half : HalfSel
  reg : BitVec 4
  start : Nat            -- t0, t_p, or D (the cycle the first row leaves)
  accept : Nat           -- when the array accepts the next MMA or RESLOAD (R72)
  tLast : Nat            -- last data addition, or last row through the south edge
  due : Nat              -- completion: T_last or T_last + 2 (R75), C (R92), status-word delivery (R117)
  lodge : Bool           -- it streams from the Lodge
  latch : Option Bool    -- the latch side it reads
  verdict : Verdict
  verdictMade : Bool
  ports : Nat            -- core-store read ports it holds, from start until
  portsTo : Nat          -- this cycle (R30, R76, R96)
  wports : Nat           -- write ports its output takes from start + 6 to tLast + 6 (R30, R75)
  evs : List (Nat × FlagEvent)
  clr : Bool             -- a DRAIN with its clear bit set
  copied : Bool          -- its last row has passed: the copy is taken (R97, R126)
  copy : BitVec 32
  cleared : Bool         -- the register has been cleared since the copy (R126)
  ring : Option (BitVec 3)   -- the ring it produces into
  part : Option (BitVec 2)   -- the partial register it writes (R103)
  seq : Nat
  pc : Nat
deriving DecidableEq, Repr

/-- What the die knows of a tile buffer beyond its state (R163 to R165, R175): bytes written, whether the tile is whole,
whether the slot read that produced it has delivered a clean status word, its tile index, the cycle at which it next
becomes FULL or EMPTY, and 1 + the place of its producer in the thread's dispatch order. -/
structure BufInfo where
  bytes : Nat
  whole : Bool
  clean : Bool
  tile : Nat
  due : Nat
  src : Nat
  fwd : Bool             -- forwarded whole along its caravan
  wb : Nat               -- the waybill register the tile belongs to; 8 for none
  size : Nat             -- of a caravan's tile: its bytes, and N (R177)
  total : Nat
deriving DecidableEq, Repr

def BufInfo.reset : BufInfo := ⟨0, false, false, 0, 0, 0, false, 8, 0, 0⟩

/-- A ring (R161, R163). -/
structure Ring where
  cfg : BitVec 64
  credits : BitVec 3
  head : BitVec 2
  tail : BitVec 2
  buf : BitVec 8          -- state of buffer b at [2b+1:2b]: 0 EMPTY, 1 FILLING, 2 FULL, 3 IN_USE
  info : Tab BufInfo
  waitCount : Nat         -- consecutive ACLK of a hand-over end's wait (R184)
deriving DecidableEq, Repr

def Ring.reset : Ring := ⟨0, 0, 0, 0, 0, [], 0⟩

/-- Where a waybill's tiles lie once it has started (R169): package addresses (another die's window included), the slice
of a core of this die by its offset in the die's window, or the core's own drains (FARKIND NONE); `none` until a BERTH
lookup is answered. `base` is the far address of offset 0. -/
inductive Origin where
  | none
  | package (base : Nat)
  | die (base : Nat)
  | own
deriving DecidableEq, Repr

/-- A tile an outbound waybill has begun to write (R174, R175). -/
structure OutTile where
  tile : Nat
  left : Nat               -- its line writes not yet acknowledged
  clean : Bool
  src : Nat                -- its producer, as in BufInfo
deriving DecidableEq, Repr

/-- A waybill register (R167, R170). -/
structure Waybill where
  bits : BitVec 512
  state : BitVec 3         -- 0 IDLE, 1 LOADED, 2 ARMED, 3 RUNNING, 4 FETCHED, 5 DONE, 6 STOPPED
  pair : BitVec 3
  doneTiles : BitVec 24
  issued : Nat             -- tiles begun
  outTiles : List OutTile
  thread : Bool            -- the thread that started it
  pc : Nat                 -- the word that started it
  first : Nat              -- the ACLK of its first request (R39)
  origin : Origin
  handle : Option (BitVec 48)   -- the berth it holds while RUNNING or FETCHED (R215)
deriving DecidableEq, Repr

def Waybill.reset : Waybill := ⟨0, 0, 0, 0, 0, [], false, 0, 0, .none, none⟩

/-- A line request of a Porter (R166, R171): the waybill, the tile, the buffer, the line's far address (a package address,
or, on this die, an offset in its window), the part of the line wanted and where it goes, its mesh tag, and the hub's response
once it is on its way back. -/
structure LineReq where
  wb : BitVec 3
  tile : Nat
  buf : BitVec 2
  onDie : Bool
  addr : Nat
  lo : Nat               -- first byte of the line that is wanted
  len : Nat
  dest : Nat             -- core-store offset of the first wanted byte
  tag : BitVec 9
  ord : Nat              -- its place in the order in which the core injects its requests (R232)
  rsp : Option (BitVec 8 × BitVec 1024)
deriving DecidableEq, Repr

/-- An outbound line write (R174). -/
structure LineWrite where
  wb : BitVec 3
  tile : Nat
  onDie : Bool
  addr : Nat
  lo : Nat
  bytes : List Byte
  tag : BitVec 9
  ord : Nat
  rsp : Option (BitVec 8)
deriving DecidableEq, Repr

/-- A core's membership of a caravan, relay or chain (R105, R176, R181): its ring, neighbours, credits and flit counts
(R188). -/
structure Member where
  kind : LinkKind
  id : BitVec 12
  ring : BitVec 3
  pos : Nat
  count : Nat                               -- members of the caravan or chain
  joined : Bool
  stage : BitVec 3
  up : Option (BitVec 2 × BitVec 9 × BitVec 3)     -- die, core and ring upstream
  down : Option (BitVec 2 × BitVec 9 × BitVec 3)
  party : BitVec 12                         -- this core's role at admission, which its flits from upstream carry (R234)
  epoch : BitVec 8
  downParty : BitVec 12                     -- and the role of the core downstream
  downEpoch : BitVec 8
  credits : Nat                             -- held from downstream
  granted : Nat                             -- granted upstream and not yet spent there
  sent : Nat
  received : Nat
  discarded : Nat
  blocking : Nat                            -- consecutive blocking ACLK (R180)
  shape : Option (Nat × Nat)                -- tile bytes and N of its waybill (R177)
  tiles : Nat                               -- hand-over link: tiles drained into it, or received whole (R182)
  fwdFlits : Nat                            -- caravan: flits of the next tile forwarded, and whether its credit has been spent (R178)
  fwdOpen : Bool
  thread : Bool
  itin : BitVec 32
  incoming : List (BitVec 1024)             -- chain flits received for the transfer in progress
  flits : Nat                               -- F of R106
  local_ : List (BitVec 128)                -- the local partial of a CHAINRED in progress, captured at issue
  outgoing : List (BitVec 1024)             -- flits waiting for credits
  pending : Option QEntry                   -- a CHAINRED that waits for incoming flits
  ints : Bool                               -- of that CHAINRED, as at its acceptance: it carries integers (R105),
  reg : BitVec 4                            -- the register it reads (R82),
  bare : Bool                               -- and whether its partial register was EMPTY (R438)
deriving DecidableEq, Repr

/-- Tally request, berth lookup, or other tagged request of a core waiting for its reply (R242). -/
inductive TagKind where
  | tallyFetch (rd : BitVec 6) (kind : Owed)
  | tallyWait (arrive : Bool)
  | tallyArm
  | tallyOp
  | lookup (rd : BitVec 6)
  | touch
  | waybillLookup (wb : BitVec 3)
deriving DecidableEq, Repr

structure OpenTag where
  tag : BitVec 9
  thread : Bool
  kind : TagKind
  remote : Bool              -- a tally of another die: its reply comes over the hub (R253)
  pc : Nat                   -- the word that asked
  target : BitVec 32
  armSeq : BitVec 4          -- of an ARM: its number (R250)
deriving DecidableEq, Repr

/-- A core (R28). -/
structure Core where
  -- matrix array
  repair : Option (BitVec 5)        -- the logical row mapped out (R64)
  split : Bool
  lodgeHalf : Bool
  cold0 : Bool
  cold1 : Bool
  res0 : BitVec 32                  -- ARR_RES_0 (R68)
  res1 : BitVec 32
  latch : Tab (BitVec 16)           -- entry e of logical cell (i, j) at 1024 i + 32 j + e
  scales : Tab (BitVec 8)           -- scale e of row or column x of half h at 128 h + 4 x + e
  accCfg : BitVec 32                -- ACC_CFG (R83)
  accHeld : Option (BitVec 32)      -- a write held until both halves are idle
  acc : Tab (BitVec 52)             -- register q, row P, column c at (q·34 + P)·34 + c
  tag0 : BitVec 64                  -- ACC_SLOT_TAG_0 (R86)
  tag1 : BitVec 64
  tsw : Tab (BitVec 32)             -- ARR_TSW_h_q at 16 h + q (R123)
  tswLast0 : BitVec 32
  tswLast1 : BitVec 32
  tswAt : Tab Nat                   -- the cycle of the first event a status word holds (R124)
  zinf : BitVec 32                  -- bit 16 h + q: a ZINF has been logged since the register's clear (R125)
  flagMem : Tab (BitVec 64)         -- CORE_FLAG_LOG_n, and CORE_FLAG_LOG_STAT (R125)
  flagCount : Nat
  flagLost : BitVec 16
  abftCfg0 : BitVec 32
  abftCfg1 : BitVec 32
  abftFloor0 : BitVec 32
  abftFloor1 : BitVec 32
  abftHeld : List (Bool × Bool × BitVec 32)   -- held writes: half, floor, value (R119)
  partials : Tab (BitVec 128)       -- record r of u_p at 32 p + r (R98)
  utags : Tab (BitVec 8)            -- kind tag of u_p: 0 EMPTY, kind + 1, bit 7 for integer SUM (R438)
  seed0 : BitVec 64
  seed1 : BitVec 64
  ops : List ArrOp
  lastAct0 : Nat                    -- the last cycle in which a half was active, as far as it is known (R78)
  lastAct1 : Nat
  lastL0 : Bool                     -- the last MMA of a half was fed from the Lodge (R93)
  lastL1 : Bool
  swap0 : Nat × Bool                -- a SWAP's hold on the half's next array instruction, and lastL at that time (R93)
  swap1 : Nat × Bool
  stagger0 : Bool                   -- a stagger hold is due on the half's next MMA or RESLOAD (R79)
  stagger1 : Bool
  -- sequencer
  t0 : Thread
  t1 : Thread
  fault : BitVec 64                 -- CORE_FAULT (R160)
  cyclesBase : Nat                  -- the ACLK count at the core's last reset (CORE_CYCLES, R157)
  pmem : Tab (BitVec 64)
  pmemBad : List Nat                -- words whose error is uncorrectable (R137)
  -- streams
  rings : Tab Ring
  waybills : Tab Waybill
  stall0 : BitVec 32
  stall1 : BitVec 32
  win0 : Tab (BitVec 64)            -- CORE_TLY_WIN_0_n (R248)
  win1 : Tab (BitVec 64)
  lines : List LineReq              -- outstanding, at most 512 (R166)
  queued : List LineReq             -- of tiles begun, not yet requested
  writes : List LineWrite           -- unacknowledged, at most 512
  wqueued : List LineWrite
  reqNo : Nat                       -- requests injected
  lastWb : BitVec 3                 -- the waybill whose line request left last (R166)
  stampWait : List (Bool × Nat × Nat × Nat)   -- waybill stamps that wait for a status word: thread, word, tile, producer
  members : List Member
  tags : List OpenTag
  -- mesh port (R240)
  portReset : Bool
  portEpoch : BitVec 8
  portParty : BitVec 12
  -- core monitor (R376 to R380)
  monRx : BitVec 98
  monStat : BitVec 32
  monTdig : Tab (BitVec 64)         -- CORE_MON_TDIG_i
  -- reservation of admitted itineraries on this core (R185)
  reserved : List (BitVec 32 × Nat)
  areas : List (BitVec 32 × Nat × Nat)        -- the core-store areas placed: itinerary, offset, bytes
  stoppedWait : Bool                -- a stop of R187 is in progress on this core (R405)
deriving DecidableEq, Repr

/-- A core after reset (R65, R68, R83, R112, R119, R180, R240). -/
def Core.reset : Core :=
  { repair := none, split := false, lodgeHalf := false, cold0 := true, cold1 := true, res0 := 0, res1 := 0,
    latch := [], scales := [], accCfg := 1#32, accHeld := none, acc := [], tag0 := 0, tag1 := 0, tsw := [],
    tswLast0 := 0, tswLast1 := 0, tswAt := [], zinf := 0, flagMem := [], flagCount := 0, flagLost := 0,
    abftCfg0 := 0x8000000C#32, abftCfg1 := 0x8000000C#32, abftFloor0 := 0x00800000#32, abftFloor1 := 0x00800000#32,
    abftHeld := [], partials := [], utags := [], seed0 := 1#64, seed1 := 1#64, ops := [], lastAct0 := 0, lastAct1 := 0,
    lastL0 := false, lastL1 := false, swap0 := (0, false), swap1 := (0, false), stagger0 := false,
    stagger1 := false, t0 := Thread.reset, t1 := Thread.reset, fault := 0, cyclesBase := 0, pmem := [], pmemBad := [],
    rings := [], waybills := [], stall0 := 0x00100000#32, stall1 := 0x00100000#32, win0 := [], win1 := [], lines := [], queued := [],
    writes := [], wqueued := [], reqNo := 0, lastWb := 0, stampWait := [], members := [], tags := [], portReset := true, portEpoch := 0, portParty := 0, monRx := 0,
    monStat := 0, monTdig := [], reserved := [], areas := [], stoppedWait := false }

end Sys2Proof.Machine
end

