-- ==== Sys2Proof/Machine/DieState.lean ====
section
/-! DEFINITION. The state of the die outside its cores as plain data, one structure per chapter of the spec, each with the
values it holds at reset. -/

namespace Sys2Proof.Machine

/-- Identity and package assignment (R9, R14, R20, R27, R35). -/
structure Ident where
  variant : BitVec 4
  granted : Bool
  grantConflict : Bool
  protoLevel : BitVec 4
  hubGen : BitVec 4
  pkgType : BitVec 4
  half : BitVec 1
  dieNum : BitVec 2
  grant : Option (BitVec 32)       -- a BOOT_GRANT latched before fuse sense ended (R20)
  refuseLog : BitVec 64
  refuseCnt : BitVec 32
  countValid : Bool
  excluded : BitVec 8
  coreEn : BitVec 512
  coreFused : BitVec 512
deriving DecidableEq, Repr

def Ident.reset : Ident :=
  { variant := 0, granted := false, grantConflict := false, protoLevel := 0, hubGen := 0, pkgType := 0, half := 0,
    dieNum := 0, grant := none, refuseLog := 0, refuseCnt := 0, countValid := false, excluded := 0, coreEn := 0,
    coreFused := 0 }

/-- The Lodge (R190 to R205). Keys: bank b of slice k is 16 k + b; a logical row of it is 1024 (16 k + b) + row. -/
structure LodgeSt where
  remap : Tab (BitVec 6)           -- 1 + the spare that serves a logical row; 0 for the row's own cells
  sparesUsed : Tab (BitVec 32)     -- spares taken of a bank
  ceMark : List Nat                -- logical rows holding a correctable error
  ueMark : List Nat                -- logical rows whose every read is an uncorrectable error
  poison : List Nat                -- of those, the rows that hold the poison code of a retirement (R201)
  weak : Tab (List (Nat × BitVec 8))   -- weak-row table of slice k, oldest first: row and count (R200)
  slotIdx : Tab Nat                -- slot index j of a bank (R193)
  refreshRow : Tab (BitVec 10)     -- refresh row p, 0 to 527
  scrubRow : Tab (BitVec 11)       -- next physical row to scrub, 0 to 1,055
  retiring : List (Nat × Bool)     -- rows to retire, oldest first, and whether on an uncorrectable error
  retiredPass : List Nat           -- banks that have retired a row in their refresh pass
  softEn : Bool
  softThresh : BitVec 8
  contentLost : Bool
  lossUnmarked : Bool              -- content was lost and its berths are not yet marked (R198)
  testDone : Bool
  hot : Bool
  interval : BitVec 2
  passes : BitVec 16
  ueLog : BitVec 64
  slice : Tab (BitVec 64)          -- LDG_SLICE_k: CE 16, UE 8, SOFT_USED 8, FUSE_USED 8, MIN_FREE 8
  trims : Tab (BitVec 8)           -- trim bytes of the LDG section, by slice (R370)
  softOvf : BitVec 16
  softLog : List (BitVec 32)       -- LDG_SOFT_LOG_n; its length is LDG_SOFT_CNT.COUNT
  refreshing : Bool                -- refresh and scrub run; after a loss they restart at fuse sense (R197)
deriving DecidableEq, Repr

def LodgeSt.reset : LodgeSt :=
  { remap := [], sparesUsed := [], ceMark := [], ueMark := [], poison := [], weak := [], slotIdx := [], refreshRow := [],
    scrubRow := [], retiring := [], retiredPass := [], softEn := true, softThresh := 0x04, contentLost := true,
    lossUnmarked := true, testDone := false, hot := false, interval := 3, passes := 0, ueLog := 0, slice := [], trims := [], softOvf := 0,
    softLog := [], refreshing := false }

/-- A Ledger request of a core at its unit (R156, R214): a lookup waiting for a fill, or a posted commit. -/
structure LedgerOp where
  unit : BitVec 2
  core : CoreId
  tag : BitVec 9
  handle : BitVec 48
  touch : Bool
  party : BitVec 12                -- the role its head carries, and its answer with it (R234)
  epoch : BitVec 8
deriving DecidableEq, Repr

/-- An entry write waiting to be committed to package memory (R210, R214). -/
structure LedgerWrite where
  addr : Nat
  value : BitVec 128
deriving DecidableEq, Repr

/-- A move of a berth (R217): its target, its places, and how far it has come. -/
structure Move where
  handle : BitVec 48
  addr : Nat                       -- address of its entry
  target : BitVec 2
  core : Option CoreId             -- the slice asked for, in the LODGE tier
  job : Bool                       -- of a BERTH_MOVE of the handle's context; else the Ledger's own
  waited : Bool                    -- asked for while another move of the berth ran (R220)
  placed : Bool                    -- its destination has been allocated
  dst : BitVec 48
  srcTier : BitVec 2               -- the old place, from the phase write on
  src : BitVec 48
  phase : Nat                      -- 0 waiting, 1 phase write made, 2 copied, 3 verified, 4 switch write made
  again : Bool                     -- the copy is being repeated
  crc : BitVec 64                  -- C1 of R218
  age : BitVec 16                  -- the epoch of its copy, for a Cellar berth's AGE (R225, R228)
  rewrite : Bool                   -- a rewrite of a Cellar berth: to another bin, else to the pool (R225)
  hubRead : Bool                   -- C1 is the hub's
  told : Bool                      -- its outcome DONE has been noted
deriving DecidableEq, Repr

/-- A BERTH_MOVE in progress (R223, R287): the context, the indexes whose moves have not ended, and what has. -/
structure MoveJob where
  ctx : BitVec 24
  migrate : Bool
  left : List Nat
  done : Nat
  failed : List (Nat × BitVec 16)
deriving DecidableEq, Repr

/-- A hold on a berth and the location it uses (R215). -/
structure Hold where
  handle : BitVec 48
  tier : BitVec 2
  loc : BitVec 48
  write : Bool
  itin : BitVec 32
  waybill : Option (CoreId × BitVec 3)     -- the waybill that holds it; none for the itinerary's own hold
deriving DecidableEq, Repr

/-- A Cellar bin (R224); a bin the hub has not reported holds nothing. -/
structure Bin where
  reported : Bool
  budget : BitVec 32
  retention : BitVec 16
  bad : Bool
deriving DecidableEq, Repr

def Bin.reset : Bin := ⟨false, 0, 0, false⟩

/-- The Ledger (R206 to R228). Cache keys: unit q and entry address. -/
structure LedgerSt where
  dirBase : BitVec 64
  arrayBase : BitVec 64
  arrayBytes : BitVec 64
  poolBase : BitVec 64
  poolBerths : BitVec 32
  cache : List (BitVec 2 × Nat)    -- entries a unit's cache holds, by address, most recent first
  dirCache : List (BitVec 2 × Nat) -- directory entries, by directory slot
  touched : List (BitVec 2 × Nat × BitVec 16)   -- ages a unit has yet to write back (R228)
  hits : Tab (BitVec 32)
  misses : Tab (BitVec 32)
  waiting : List LedgerOp
  writes : List LedgerWrite
  holds : List Hold
  moves : List Move
  jobs : List MoveJob
  used : List (BitVec 2 × BitVec 48)   -- locations in use, by tier
  bins : Tab Bin                   -- port p, bin i at 2^20 p + i
  retCap : BitVec 16
  margin : BitVec 16
  lodgeLow : BitVec 16
  pkgLow : BitVec 16
  gap : Bool
  epoch : BitVec 32
  sweptEpoch : Option (BitVec 32)  -- the epoch of the last sweep
  memState : BitVec 2              -- after a reset: 0 settled, 1 awaits the hub's report, 2 recovery to run, 3 loss to handle
deriving DecidableEq, Repr

def LedgerSt.reset : LedgerSt :=
  { dirBase := 0, arrayBase := 0, arrayBytes := 0, poolBase := 0, poolBerths := 0, cache := [], dirCache := [],
    touched := [], hits := [], misses := [], waiting := [], writes := [], holds := [], moves := [], jobs := [],
    used := [], bins := [], retCap := 0x6000, margin := 0x0200, lodgeLow := 0x0100, pkgLow := 0x0040, gap := true,
    epoch := 0, sweptEpoch := none, memState := 1 }

/-- The mesh (R240 to R246). -/
structure MeshSt where
  staleCnt : BitVec 32
  resetCnt : BitVec 32
  nackLog : BitVec 64
  linkCe : BitVec 32
  gateUp : BitVec 32
  gateMap : Tab (BitVec 5)
deriving DecidableEq, Repr

def MeshSt.reset : MeshSt :=
  { staleCnt := 0, resetCnt := 0, nackLog := 0, linkCe := 0, gateUp := 0, gateMap := [] }

/-- A tally request travelling to its unit (R249, R253). -/
structure TallyReq where
  unit : BitVec 2
  op : BitVec 3                    -- 0 ADD, 1 SET, 2 WAIT, 3 ARRIVE, 4 ARM, 5 CANCEL
  fetch : Bool
  index : BitVec 16
  value : BitVec 32
  endpoint : BitVec 12
  die : BitVec 2
  thread : Bool
  party : BitVec 12
  epoch : BitVec 8
  tag : BitVec 9
  armSeq : BitVec 4
  due : Nat                        -- the ACLK its head reaches the unit
deriving DecidableEq, Repr

/-- A registered waiter, or a queued or travelling wake (R250, R251). -/
structure Waiter where
  unit : BitVec 2
  index : BitVec 16
  target : BitVec 32
  endpoint : BitVec 12
  die : BitVec 2
  thread : Bool
  party : BitVec 12
  epoch : BitVec 8
  arm : Bool
  armSeq : BitVec 4
  due : Nat                        -- a queued wake: when it may leave; a travelling one: when its thread resumes
  held : Bool                      -- of another die at protocol level 1: held by the Steward, in no unit's table (R254)
deriving DecidableEq, Repr

/-- A tally reply travelling to its core (R251). -/
structure TallyRep where
  endpoint : BitVec 12
  die : BitVec 2
  thread : Bool
  party : BitVec 12
  epoch : BitVec 8
  tag : BitVec 9
  count : BitVec 32
  met : Bool
  arm : Bool
  armSeq : BitVec 4
  due : Nat                        -- when its result is there (R251)
deriving DecidableEq, Repr

/-- The tallies (R247 to R256). -/
structure TallySt where
  counts : Tab (BitVec 32)
  reqs : List TallyReq
  waiters : List Waiter
  wakes : List Waiter              -- queued at their units, in order
  flying : List Waiter             -- wakes travelling
  replies : List TallyRep
  nextHead : Tab Nat               -- the ACLK from which a unit can accept the next head (R249),
  nextWake : Tab Nat               -- and send the next wake (R250)
  staleWakes : Tab (BitVec 32)
  ops : Tab (BitVec 64)
deriving DecidableEq, Repr

def TallySt.reset : TallySt :=
  { counts := [], reqs := [], waiters := [], wakes := [], flying := [], replies := [], nextHead := [], nextWake := [], staleWakes := [], ops := [] }

/-- A request message the Steward has taken, or a response it holds (R266, R268, R293). -/
structure Msg where
  src : Source
  ph : BitVec 8                    -- the pigeonhole it came through, or goes to a partner of
  poll : Bool                      -- a response posted without a flit (R265)
  freed : Bool                     -- its request's pigeonhole has been released already
  no : Nat                         -- its number in the order of taking (R294)
  bytes : List Byte
deriving DecidableEq, Repr

/-- An event waiting to be posted (R269, R270): its KIND, SEQ and CONTEXT, its destination, its payload from 0x14. -/
structure Event where
  kind : BitVec 16
  seq : BitVec 16
  context : BitVec 32
  dst : BitVec 8                   -- 0 the host, n + 1 foreign pair n
  bytes : List Byte
deriving DecidableEq, Repr

/-- An itinerary's states (R281). -/
inductive ItinState where
  | queued | running | complete | aborted | refused
deriving DecidableEq, Repr

/-- The half of a core an itinerary's core entry names (R277). -/
structure ItinCore where
  die : BitVec 2
  core : CoreId
  half : HalfSel
  shadow : Bool
  lodge : Bool
  pc : BitVec 16
  work : BitVec 16
  regs : List (BitVec 6 × Bool × BitVec 64)   -- register, WREL, value
  wins : List (BitVec 64)
  halted : Bool                    -- its thread has halted; of a FULL entry, T0
  halted1 : Bool                   -- of a FULL entry, T1
deriving DecidableEq, Repr

/-- A ring entry (R277). -/
structure ItinRing where
  die : BitVec 2
  core : CoreId
  ring : BitVec 3
  prod : BitVec 2
  cons : BitVec 2
  tile : BitVec 32
  tcore : BitVec 16
  tring : BitVec 8
deriving DecidableEq, Repr

/-- A link entry (R277). -/
structure ItinLink where
  kind : BitVec 8
  stage : BitVec 8
  id : BitVec 12
  pos : BitVec 16
  die : BitVec 2
  core : CoreId
  ring : BitVec 3
  pring : BitVec 3
  pdie : BitVec 2
  pcore : CoreId
  f : BitVec 16
deriving DecidableEq, Repr

/-- An itinerary and what its record will say (R276 to R286). -/
structure Itin where
  id : BitVec 32
  src : Source
  pair : BitVec 8                  -- where its completion event goes: 0 the host, i + 1 foreign pair i
  submitNo : Nat                   -- the number of its SUBMIT (R294)
  desc : BitVec 64
  len : BitVec 32
  seq : BitVec 16
  context : BitVec 32
  state : ItinState
  phase : BitVec 8
  abftEn : Bool
  abftM : BitVec 8
  floor : BitVec 32
  tiles : BitVec 32
  record : BitVec 64
  seed : BitVec 64
  stall : BitVec 32
  timeLimit : BitVec 32
  flagMax : BitVec 16
  parties : List (BitVec 16)
  tallyInit : BitVec 32
  cores : List ItinCore
  rings : List ItinRing
  links : List ItinLink
  berths : List (BitVec 32)
  stamps : Tab (BitVec 1)
  stamped : BitVec 32
  flags : BitVec 5                 -- OVF, INV, SPC, POI, ABFT at bits 0 to 4 (R282)
  reason : BitVec 8
  faultCore : BitVec 16
  faultPc : BitVec 16
  faultDetail : BitVec 32
  flagLog : List (BitVec 64 × BitVec 16)
  flagLost : BitVec 16
  exitCore : BitVec 16
  exitCode : BitVec 16
  npoison : BitVec 32
  settled : Bool                   -- after an abort, its links have settled (R188)
  admitted : Option (BitVec 64)    -- the REFCLK count at its admission (R281, R282)
  asked : List (BitVec 2)          -- dies whose reply to a request to reserve, or to stop, is awaited (R187, R280)
  replies : List (BitVec 2 × PeerMsg)   -- replies to the request to reserve
  stopping : Bool                  -- its cores are being stopped; the record is committed once every die has answered
deriving DecidableEq, Repr

/-- A SUBMIT whose descriptor other dies are looking at: its request, the dies to answer, what has been found (R278, R280). -/
structure Ask where
  no : Nat
  asked : List (BitVec 2)
  flaw : Option Nat
  tally : Option Nat
deriving DecidableEq, Repr

/-- The Steward (R257 to R295). -/
structure StewSt where
  own : BitVec 64
  ownViol : BitVec 16
  giveIgn : BitVec 16
  evtPending : BitVec 56           -- seven counts of 8 bits (R270)
  requests : List Msg
  responses : List Msg
  events : List Event
  hello : Bool
  opened : List (BitVec 24 × BitVec 4)      -- contexts opened in this session with DELEG
  parties : List (BitVec 12 × BitVec 512)
  itins : List Itin
  serial : BitVec 30
  taken : Nat                      -- requests taken
  asks : List Ask
  peerBusy : List (BitVec 2)       -- dies to which a message is outstanding (R263)
  peerQueue : List (BitVec 2 × PeerMsg)   -- messages that wait until one to their die is answered
deriving DecidableEq, Repr

def StewSt.reset : StewSt :=
  { own := 0xF000FFFF00000000#64, ownViol := 0, giveIgn := 0, evtPending := 0, requests := [], responses := [],
    events := [], hello := false, opened := [], parties := [], itins := [], serial := 0,
    taken := 0, asks := [], peerBusy := [], peerQueue := [] }

/-- What the die has sent outward: an observation record that nothing reads back. -/
inductive Out where
  | response (gate : BitVec 5) (tag : BitVec 12) (status : BitVec 3) (data : Option (BitVec 1024))
  | request (gate : BitVec 5) (tag : BitVec 12) (addr : BitVec 48) (mask : BitVec 8) (data : Option (BitVec 1024))
  | msgFlit (mtype : BitVec 16) (arg : BitVec 64)
  | sideband (cmd : BitVec 8) (arg : BitVec 8) (data : BitVec 32)
  | creditFlit (m : BitVec 8) (ackSeq : BitVec 8) (nak retrain : Bool) (req rsp ctrl : BitVec 32)
  | credits (m seq : BitVec 8) (nop : Bool) (field : BitVec 16)
  | replayed (m : BitVec 8) (seqs : List (BitVec 8))
  | packet (p : Packet)
  | tallyOp (e : TallyEntry)
  | emuTally (e : TallyEntry)
  | stream (kind : LinkKind) (id : BitVec 12) (die : BitVec 2) (core : CoreId) (ring : BitVec 3) (party : BitVec 12) (epoch : BitVec 8)
    (tile count : BitVec 24) (data : BitVec 1024)
  | streamCredit (kind : LinkKind) (id : BitVec 12) (die : BitVec 2) (core : CoreId) (ring : BitVec 3)
  | peer (die : BitVec 2) (m : PeerMsg)
  | vctl (frame : BitVec 24)
  | demand (demand bseq est : BitVec 16) (op flags : BitVec 8)
  | tap (data : BitVec 256)
  | monitorBlock (block : BitVec 8) (round : BitVec 2) (core : Option CoreId) (bytes : List Byte)
deriving DecidableEq, Repr

/-- What waits at a module to be sent: its channel, how many flits, what it is. -/
structure TxItem where
  chan : BitVec 2
  flits : Nat
  what : Out
deriving DecidableEq, Repr

/-- A hub-link module (R310 to R314, R328). -/
structure Module where
  state : BitVec 3
  spares : BitVec 16               -- of the TX direction, HL_MOD_STAT [53:38]
  rxSpares : BitVec 16             -- of the RX direction, in the same layout (R370)
  txSeq : BitVec 8
  rxSeq : BitVec 8
  retrains : BitVec 16
  replays : BitVec 16
  crcErrors : BitVec 32
  replay : List (BitVec 8)         -- SEQs sent and not acknowledged
  refusing : Bool
  credReq : BitVec 32
  credRsp : BitVec 32
  credCtrl : BitVec 32
  retReq : BitVec 32               -- credits this die has returned, cumulative
  retRsp : BitVec 32
  retCtrl : BitVec 32
  dueReq : Nat                     -- receive-buffer flits freed whose credits have not been returned (R310)
  dueRsp : Nat
  dueCtrl : Nat
  unacked : Nat                    -- flits accepted and not yet acknowledged
  gotReq : BitVec 32               -- credits the hub has returned and this die has applied, cumulative
  gotRsp : BitVec 32
  gotCtrl : BitVec 32
  failures : Nat                   -- consecutive failures at the same expected SEQ
  resends : Nat                    -- consecutive replays without progress
  retrainAsked : Bool
  broken : Bool                    -- unrepairable (R314)
  queue : List TxItem              -- flits routed to the module and not yet sent, oldest first
  rxKind : BitVec 4                -- KIND of the group being received, and its data flits still to come (R304)
  rxData : Nat
deriving DecidableEq, Repr

def Module.reset : Module :=
  { state := 0, spares := 0, rxSpares := 0, txSeq := 0, rxSeq := 0, retrains := 0, replays := 0, crcErrors := 0, replay := [],
    refusing := false, credReq := 0, credRsp := 0, credCtrl := 0, retReq := 0, retRsp := 0, retCtrl := 0, dueReq := 0, dueRsp := 0,
    dueCtrl := 0, unacked := 0,
    gotReq := 0, gotRsp := 0, gotCtrl := 0, failures := 0, resends := 0, retrainAsked := false, broken := false, queue := [],
    rxKind := 0, rxData := 0 }

/-- Who waits for a tagged response from the hub (R306). -/
inductive HubWait where
  | porterLine (core : CoreId) (tag : BitVec 9)
  | porterWrite (core : CoreId) (tag : BitVec 9)
deriving DecidableEq, Repr

/-- A tag the die has in use on a gate (R306). -/
structure HubTag where
  gate : BitVec 5
  tag : BitVec 12
  write : Bool
  addr : BitVec 48
  who : HubWait
deriving DecidableEq, Repr

/-- A request that waits at its gate for a tag (R306). -/
structure GateReq where
  gate : BitVec 5
  write : Bool
  addr : BitVec 48
  mask : BitVec 8
  data : Option (BitVec 1024)
  who : HubWait
deriving DecidableEq, Repr

/-- A sideband frame waiting for its ACK (R317). -/
structure SbFrame where
  cmd : BitVec 8
  arg : BitVec 8
  data : BitVec 32
  sends : Nat
deriving DecidableEq, Repr

/-- The hub link (R296 to R328). -/
structure LinkSt where
  state : BitVec 4
  lastFast : Bool
  digestMismatch : Bool
  attempts : BitVec 4
  discards : BitVec 12
  fastEn : Bool
  offer : BitVec 32
  agreed : BitVec 32
  digest : BitVec 64
  trainUs : BitVec 32
  modules : Tab Module
  tags : List HubTag
  atGate : List GateReq
  draining : List (BitVec 5)
  frames : List SbFrame
  hubOffer : Option (BitVec 32)
  digestLo : Option (BitVec 32)
  digestHi : Option (BitVec 32)
  agreeHub : Option (Bool × BitVec 32)
  newMask : Option (BitVec 32)     -- a mask under negotiation by NEWMASK (R315)
  newMaskIn : Bool                 -- the hub's NEWMASK has come
  hltDue : Bool                    -- the joint parameters changed and the HLT section is not yet written (R373)
  hltFast : Bool                   -- the training in progress began fast
  alert : Bool                     -- SB_ALERT_N is driven low
  rxLoss : Bool                    -- RX clock loss stands (R325)
  cache : List Host.Cell           -- the link cache in VDD_AON: the HLT section, its length and CRC (R374)
  cacheLen : BitVec 32
  cacheCrc : BitVec 32
  fenced : BitVec 4                -- dies the hub has fenced (R324, R408)
  sizes : BufSizes                 -- the buffer sizes the hub announced (R310)
deriving DecidableEq, Repr

def LinkSt.reset : LinkSt :=
  { state := 0, lastFast := false, digestMismatch := false, attempts := 0, discards := 0, fastEn := true,
    offer := 0xFFFFFFFF#32, agreed := 0, digest := 0, trainUs := 0, modules := [], tags := [], atGate := [], draining := [], frames := [], hubOffer := none, digestLo := none, digestHi := none, agreeHub := none, newMask := none, newMaskIn := false,
    hltDue := false, hltFast := false,
    alert := false, rxLoss := false, cache := [], cacheLen := 0, cacheCrc := 0, fenced := 0, sizes := ⟨0, 0, 0⟩ }

/-- A frame on the VCTL bus waiting for its answer (R337). -/
structure VctlFrame where
  domain : BitVec 4
  cmd : BitVec 4
  data : BitVec 8
  fails : Nat
deriving DecidableEq, Repr

/-- A supply domain (R350, R352). -/
structure Domain where
  droops : BitVec 16
  skipped : BitVec 32
  skipping : Bool
  trim : BitVec 4
  setpoint : BitVec 6
deriving DecidableEq, Repr

def Domain.reset : Domain := ⟨0, 0, false, 0, 0x0A⟩

/-- What a window left that the power manager looks back on (R346, R347): the estimate and its static part, the duty in force during
it, whether a boundary lowered OP_L, whether it was too warm or held by the thermal duty limit. -/
structure WindowRec where
  est : Nat
  static_ : Nat
  duty : BitVec 5
  lowered : Bool
  warm : Bool
  limited : Bool
deriving DecidableEq, Repr

/-- Power, clocks and thermal control (R329 to R356). -/
structure PowerSt where
  refclkOk : Bool
  refLost : Bool                   -- REFCLK is lost, from CLOCK_LOSS until the PLLs lock again
  lpllLock : Bool
  cpllLock : Bool
  clkLost : Bool
  cpllMHz : BitVec 13
  refCnt : BitVec 64
  gliding : Bool
  maxOp : BitVec 3
  opL : BitVec 3
  target : BitVec 3
  effective : BitVec 3
  current : BitVec 3
  duty : BitVec 5
  volt : BitVec 6                  -- the voltage code in force
  slewing : Bool                   -- of a glide: CPLL is slewing; else a voltage step is in progress
  slewTo : BitVec 13               -- the frequency the slew heads for, in MHz
  halved : Bool                    -- the duty is to be halved at the next boundary (R337)
  vctl : List VctlFrame
  ceil : BitVec 16
  safe : Bool
  bseq : BitVec 16
  budget : BitVec 16
  budgetNext : Option (BitVec 16 × BitVec 16)
  lastBudget : Nat                 -- REFCLK count of the last BUDGET
  safeDue : Bool                   -- the safe budget is to be applied at the next boundary
  demand : BitVec 16
  static_ : BitVec 16
  est16 : BitVec 16
  est : BitVec 16
  capUnmet : Bool
  hotLimit : Bool
  limitBudget : Bool
  limitThermal : Bool
  windows : BitVec 24
  pref : BitVec 32
  weights : Tab (BitVec 32)
  leaks : Tab (BitVec 32)
  hist : List WindowRec            -- the last 16 windows, oldest first
  winGlide : Bool                  -- a glide has overlapped the window in progress
  markDone : Bool                  -- the 16-window mark at the last boundary has been acted on
  phaseSeen : BitVec 8             -- the phase the power manager last acted on
  thermalDuty : BitVec 5
  demandAge : Nat                  -- windows since the last DEMAND
  underCap : Nat                   -- windows in a row with e ≤ cap
  thmOff : Tab (BitVec 16)         -- sensor offsets (R370)
  domains : Tab Domain
  sensors : Tab (BitVec 32)
  thmHot : BitVec 16
  tripped : Bool
  trips : BitVec 8
  peak : BitVec 16
  hottest : BitVec 16
  hottestIdx : BitVec 5
  thermtrip : Bool                 -- THERMTRIP_N is driven low
  phase : BitVec 8                 -- phase tag in force
deriving DecidableEq, Repr

def PowerSt.reset : PowerSt :=
  { refclkOk := false, refLost := false, lpllLock := false, cpllLock := false, clkLost := false, cpllMHz := 0, refCnt := 0,
    gliding := false, maxOp := 0, opL := 7, target := 2, effective := 0, current := 0, duty := 0x10, volt := 0x0A,
    slewing := false, slewTo := 0, halved := false, vctl := [], ceil := 0, safe := true, bseq := 0, budget := 0, budgetNext := none,
    lastBudget := 0, safeDue := false, demand := 0, static_ := 0, est16 := 0, est := 0, capUnmet := false, hotLimit := false,
    limitBudget := false, limitThermal := false, windows := 0, pref := 0x77731777#32, weights := [], leaks := [],
    hist := [], winGlide := false, markDone := true, phaseSeen := 3, thermalDuty := 16, demandAge := 0, underCap := 0, thmOff := [],
    domains := [], sensors := [], thmHot := 0x0190, tripped := false, trips := 0, peak := 0, hottest := 0,
    hottestIdx := 0, thermtrip := false, phase := 3 }

/-- A fuse-programming event in progress (R366): the words left and the request to answer. -/
structure FuseEvent where
  words : List (BitVec 10 × BitVec 64)
  msg : Msg
  kind : BitVec 8
deriving DecidableEq, Repr

/-- Reset and boot (R18 to R21, R357 to R382). -/
structure BootSt where
  porst : Bool                     -- PORST_N is asserted (low)
  hubRst : Bool                    -- HUB_RST_N is asserted (low)
  aon : Bool                       -- VDD_AON is up (R420)
  cold : Bool                      -- PORST_N has been asserted in the reset that holds the die
  held : BitVec 3                  -- reasons the die holds itself in reset: bit 0 clock loss, 1 trip, 2 package-fatal
  step : BitVec 4
  kind : BitVec 2
  fastLink : Bool
  destructive : Bool
  selftestFull : Bool
  calDefault : BitVec 5
  fail : BitVec 8
  boots : BitVec 8
  bootTime : BitVec 32
  grantWait : BitVec 32
  exclLog : List (BitVec 32)       -- DIE_EXCL_LOG_n
  blocks : Nat                     -- core-monitor blocks sent in the round
  round : Nat
  repairs : List (CoreId × Nat)    -- blocks to be sent to one core in a repair round (R378)
  reported : BitVec 512            -- cores whose self-test has reported
  mon : List (List Byte)           -- the core monitor's blocks (R376)
deriving DecidableEq, Repr

def BootSt.reset : BootSt :=
  { porst := true, hubRst := false, aon := true, cold := true, held := 0, step := 1, kind := 0, fastLink := false, destructive := false,
    selftestFull := false, calDefault := 0, fail := 0, boots := 0, bootTime := 0, grantWait := 0, exclLog := [],
    blocks := 0, round := 0, repairs := [], reported := 0, mon := [] }

/-- Fuses (R362 to R368). -/
structure FuseSt where
  otp : Tab (BitVec 64)
  seen : Tab (BitVec 64)           -- the words as loaded at fuse sense and after each event (R368)
  sensed : Bool
  senseFail : Bool
  efusePg : Bool
  programming : Bool
  storeRepairs : List (BitVec 24)  -- the core-store remap table, loaded at fuse sense (R363, R364)
  event : Option FuseEvent
deriving DecidableEq, Repr

/-- The fuse map of a part that fuses off the 32 cores of columns 5 and 26, eight in each quarter (R26, R363): which cores these are is
each part's own (DESIGN CHOICE, assumption log); the other words are blank. -/
def factoryFuses : Tab (BitVec 64) :=
  [(0x019, 0xC0C5002004000020), (0x01A, 0xC030040000200400), (0x01B, 0xC0EF002004000020), (0x01C, 0xC04E040000200400),
   (0x01D, 0xC091002004000020), (0x01E, 0xC064040000200400), (0x01F, 0xC0BB002004000020), (0x020, 0xC04B040000200400),
   (0x021, 0xC094002004000020), (0x022, 0xC061040000200400), (0x023, 0xC070000004000020)]

def FuseSt.reset : FuseSt :=
  { otp := factoryFuses, seen := [], sensed := false, senseFail := false, efusePg := false, programming := false, storeRepairs := [],
    event := none }

/-- A foreign window (R16, R396). -/
structure Window where
  base : BitVec 64
  limit : BitVec 64
  open_ : Bool
  closing : Bool
  granted : Bool
  w : Bool
  r : Bool
  pairs : BitVec 4
  admitted : List (BitVec 5 × BitVec 12)   -- gate and tag of the requests admitted through it whose responses wait at a module
deriving DecidableEq, Repr

def Window.reset : Window := ⟨0, 0, false, false, false, false, false, 0, []⟩

/-- The Keyholder (R383 to R400). -/
structure TrustSt where
  khfwUp : Bool
  locked : Bool
  fallback : Bool
  signers : BitVec 9               -- three signers of 3 bits, reset 7 each
  slots : BitVec 6                 -- three slots of 2 bits
  busy : Bool
  windows : Tab Window
  measurements : Tab (List Byte)
  secver : BitVec 8
  dbgOpen : Bool
  dbgScope : BitVec 5
  dbgFails : BitVec 4
  dbgSeconds : BitVec 12           -- SECONDS of the open session
  dbgSince : Nat                   -- REFCLK count at its opening
  nonce : Option (BitVec 256)
  nonces : Nat                     -- nonces drawn from the generator
  pendingSession : Option (BitVec 5 × BitVec 12)
  sram : List Host.Cell            -- the Keyholder's secure SRAM, 512 KiB: no rule reads or writes a place in it (R31)
  heartbeat : Nat                  -- REFCLK count at the runtime's last heartbeat
deriving DecidableEq, Repr

def TrustSt.reset : TrustSt :=
  { khfwUp := false, locked := false, fallback := false, signers := 0x1FF, slots := 0, busy := false, windows := [],
    measurements := [], secver := 0, dbgOpen := false, dbgScope := 0, dbgFails := 0, dbgSeconds := 0, dbgSince := 0, nonce := none,
    nonces := 0, pendingSession := none, sram := [], heartbeat := 0 }

/-- A party reset in progress (R405). -/
structure PartyReset where
  party : BitVec 12
  core : CoreId
  cause : BitVec 8
deriving DecidableEq, Repr

/-- Faults and conservation (R401 to R416). -/
structure FaultSt where
  ce : BitVec 64                   -- DIE_CE: four counts of 16 bits
  fatalValid : Bool
  fatalCause : BitVec 8
  fatalCount : BitVec 8
  fatalEpoch : BitVec 32
  issued : Tab (BitVec 64)         -- running counts per class (R411 to R414)
  returned : Tab (BitVec 64)
  snapIssued : Tab (BitVec 64)
  snapReturned : Tab (BitVec 64)
  snapLive : Tab (BitVec 64)
  imbal : BitVec 10
  log : List (List Byte)           -- the fault log, oldest first (R416)
  partyResets : List PartyReset
deriving DecidableEq, Repr

def FaultSt.reset : FaultSt :=
  { ce := 0, fatalValid := false, fatalCause := 0, fatalCount := 0, fatalEpoch := 0, issued := [], returned := [],
    snapIssued := [], snapReturned := [], snapLive := [], imbal := 0, log := [], partyResets := [] }

/-- Test access (R429 to R436). -/
structure TestSt where
  ir : BitVec 8
  bypass : Bool
  boundary : BitVec 25
  driving : Bool                   -- EXTEST drives the boundary cells onto the bumps
  dbgDone : Bool
  dbgDenied : Bool
  dbgOff : BitVec 38
  dbgData : BitVec 64
  sealed : Option (BitVec 64)
  dbgCtl : BitVec 32
  dbgReg : BitVec 64
  stewHalted : BitVec 4
  stewRegs : Tab (BitVec 64)       -- register r of Steward core n at 64 n + r, its pc at 64 n + 32
  stmMult : Option (BitVec 8)
  stm : Bool                       -- stand-alone test mode
  loop : BitVec 32
  loopRun : BitVec 11              -- MODS and GATE of the run in progress
  loopRes : Tab (BitVec 64)
deriving DecidableEq, Repr

def TestSt.reset : TestSt :=
  { ir := 0x01, bypass := false, boundary := 0, driving := false, dbgDone := false, dbgDenied := false, dbgOff := 0,
    dbgData := 0, sealed := none, dbgCtl := 0, dbgReg := 0, stewHalted := 0, stewRegs := [], stmMult := none,
    stm := false, loop := 0, loopRun := 0, loopRes := [] }

end Sys2Proof.Machine
end

