-- ==== Sys2Proof/Machine/State.lean ====
section
/-! DEFINITION. The state of the block: the die and the queue of waiting commands; the reasons a step can stop; the state
right after reset. -/

namespace Sys2Proof.Machine

/-- The die. `aclk` counts delivered ACLK edges (R4), `freeCtr` the free values drawn, `mem` holds the die-local memories
by their offset in the die's window (R12), `pkg` package memory as the die's requests see it, `flash` the die's region of
the package configuration flash (R369, R388). -/
structure Die where
  aclk : Nat
  freeCtr : Nat
  mem : List Host.Cell
  pkg : List Host.Cell
  flash : List Host.Cell
  cores : Tab Core
  ident : Ident
  lodge : LodgeSt
  ledger : LedgerSt
  mesh : MeshSt
  tally : TallySt
  stew : StewSt
  link : LinkSt
  power : PowerSt
  boot : BootSt
  fuse : FuseSt
  trust : TrustSt
  flt : FaultSt
  test : TestSt
  out : List Out
deriving DecidableEq, Repr

/-- The die right after reset: the reset value of every register, and the values the assumption log names where the spec
gives none. -/
def Die.reset : Die :=
  { aclk := 0, freeCtr := 0, mem := [], pkg := [], flash := [], cores := [], ident := Ident.reset,
    lodge := LodgeSt.reset, ledger := LedgerSt.reset, mesh := MeshSt.reset, tally := TallySt.reset,
    stew := StewSt.reset, link := LinkSt.reset, power := PowerSt.reset, boot := BootSt.reset, fuse := FuseSt.reset,
    trust := TrustSt.reset, flt := FaultSt.reset, test := TestSt.reset, out := [] }

/-- The block: the die and its queue of waiting commands, first in first out. -/
structure State where
  pending : List Instr
  die : Die
deriving DecidableEq, Repr

/-- Why the machine stops with a fault. -/
inductive Fault where
  /-- Raised by no command: every fault the spec names (R401) is an effect on the die's state. Safe. -/
  | unreachable
deriving DecidableEq, Repr

/-- Why a command is refused. -/
inductive Refusal where
  /-- Raised by an arm of `exec` whose command has no meaning yet, with the table's mnemonic. Safe: nothing is claimed. -/
  | notModelled (mnemonic : String)
deriving DecidableEq, Repr

/-- The block right after reset, its queue empty. -/
def State.reset : State := { pending := [], die := Die.reset }

end Sys2Proof.Machine
end

