-- ==== Sys2Proof/WellFormed.lean ====
section
/-! DEFINITION. Which commands exist: operands that name what the hardware does not have, or an instruction word whose form bits
are another row's, make no command. -/

namespace Sys2Proof

/-- A hub-link module: 0 to 191 (R297). -/
def moduleOk (m : BitVec 8) : Bool := decide (m.toNat < 192)

/-- A request touches at least one byte and stays in its line (R305). -/
def lineOk (r : HubReq) : Bool := decide (1 ≤ r.len.toNat) && decide (r.addr.toNat % 128 + r.len.toNat ≤ 128)

/-- FORM of an LDGRD word (R154). -/
def ldgrdForm (v : Bool) (w : BitVec 58) : Bool := w.getLsbD 53 == v

/-- OP of a BERTH word (R156). -/
def berthForm (op : Nat) (w : BitVec 58) : Bool := w.toNat / 2 ^ 52 % 4 == op

/-- OP of a TALLY word (R157). -/
def tallyForm (op : Nat) (w : BitVec 58) : Bool := w.toNat / 2 ^ 51 % 8 == op

/-- A sensor: 0 to 23 (R353). -/
def sensorOk (n : BitVec 5) : Bool := decide (n.toNat < 24)

/-- A core-monitor block: 0 to 97 (R376). -/
def blockOk (n : BitVec 8) : Bool := decide (n.toNat < 98)

/-- A window's reports name 16 domains of 16 classes, and all 24 sensors (R339, R340, R353). -/
def windowOk (w : WindowCounts) : Bool := decide (w.counts.length = 256) && decide (w.temps.length = 24)

/-- The commands that exist. -/
def Instr.wf : Instr → Bool
  | .ldgrdStream _ _ w => ldgrdForm false w
  | .ldgrdCopy _ _ w => ldgrdForm true w
  | .berthLookup _ _ w => berthForm 0 w
  | .berthTouch _ _ w => berthForm 1 w
  | .tallyAdd _ _ w => tallyForm 0 w
  | .tallySet _ _ w => tallyForm 1 w
  | .tallyWait _ _ w => tallyForm 2 w
  | .tallyArrive _ _ w => tallyForm 3 w
  | .tallyArm _ _ w => tallyForm 4 w
  | .hubReadRequest r => lineOk r
  | .hubWriteRequest r _ => lineOk r
  | .credit m _ => moduleOk m
  | .flitAccept m _ => moduleOk m
  | .replayTimeout m => moduleOk m
  | .creditFlitTimer m => moduleOk m
  | .quickRetrain m => moduleOk m
  | .quickRetrainDone m _ => moduleOk m
  | .gateTakeDown m => moduleOk m
  | .drainPoint m _ => moduleOk m
  | .windowBoundary w => windowOk w
  | .thermalTrip n => sensorOk n
  | .broadcastBlockReceive _ b _ _ => blockOk b
  | _ => true

end Sys2Proof
end

