-- ==== Sys2Proof/Machine/Ops.lean ====
section
/-! DEFINITION. Named operations over the state: sparse tables, memories, cores, threads, free values. A table has one
writer, `tabFill`; every other update of a table goes through it. -/

namespace Sys2Proof.Machine

/-! ### Sparse tables -/

/-- What a table reads at a key: an unlisted key reads `d`. -/
def tabGet {α : Type} (d : α) : Tab α → Nat → α
  | [], _ => d
  | (k', v) :: t, k => if k' = k then v else tabGet d t k

/-- The entries of `n` keys from `lo` on, those equal to `d` left out. -/
def tabRun {α : Type} [DecidableEq α] (d : α) (lo n : Nat) (f : Nat → α) : Tab α :=
  (List.range n).filterMap (fun i => if f i = d then none else some (lo + i, f i))

/-- The table with `f i` at key `lo + i` for every i < n. -/
def tabFill {α : Type} [DecidableEq α] (d : α) (t : Tab α) (lo n : Nat) (f : Nat → α) : Tab α :=
  t.filter (fun p => decide (p.1 < lo)) ++ tabRun d lo n f ++ t.filter (fun p => decide (lo + n ≤ p.1))

/-- The table with `v` at `k`. -/
def tabSet {α : Type} [DecidableEq α] (d : α) (t : Tab α) (k : Nat) (v : α) : Tab α := tabFill d t k 1 (fun _ => v)

/-- The table with the value at `k` replaced by `f` of it. -/
def tabMod {α : Type} [DecidableEq α] (d : α) (t : Tab α) (k : Nat) (f : α → α) : Tab α :=
  tabSet d t k (f (tabGet d t k))

/-- The table with every listed value replaced; a key whose value becomes `d` leaves it. -/
def tabMap {α : Type} [DecidableEq α] (d : α) (f : Nat → α → α) : Tab α → Tab α
  | [] => []
  | (k, v) :: t => if f k v = d then (tabMap d f t).filter (fun p => decide (p.1 ≠ k)) else (k, f k v) :: tabMap d f t

/-- The canonical form: keys strictly rising, no entry equal to what an unlisted key reads as. -/
def tabWf {α : Type} [DecidableEq α] (d : α) : Tab α → Bool
  | [] => true
  | (k, v) :: t => decide (v ≠ d) && (match t with
    | [] => true
    | (k', _) :: _ => decide (k < k')) && tabWf d t

/-! ### Memory: bytes by address, little-endian (R5) -/

/-- What a byte reads: one that nothing has written reads 0 (assumption log). -/
def memGet (m : List Host.Cell) (a : Nat) : Byte := tabGet 0#8 m a

/-- The memory with the bytes of `f` in a range. -/
def memFill (m : List Host.Cell) (a n : Nat) (f : Nat → Byte) : List Host.Cell := tabFill 0#8 m a n f

def memWrite (m : List Host.Cell) (a : Nat) (l : List Byte) : List Host.Cell := memFill m a l.length (fun i => l.getD i 0)

def memRead (m : List Host.Cell) (a n : Nat) : List Byte := (List.range n).map (fun i => memGet m (a + i))

/-- The canonical form of a memory. -/
abbrev Memory.wf (m : List Host.Cell) : Bool := tabWf 0#8 m

/-- A list of bytes as a number, least significant first. -/
def leNat : List Byte → Nat
  | [] => 0
  | b :: l => b.toNat + 256 * leNat l

/-- The n bytes of a number, least significant first. -/
def leBytes : Nat → Nat → List Byte
  | 0, _ => []
  | n + 1, v => BitVec.ofNat 8 v :: leBytes n (v / 256)

def memLE (m : List Host.Cell) (a n : Nat) : Nat := leNat (memRead m a n)

def memPutLE (m : List Host.Cell) (a n v : Nat) : List Host.Cell := memWrite m a (leBytes n v)

/-! ### Address layout of the die's window (R12) -/

def sliceBase (c : CoreId) : Nat := c.toNat * 0x400000
def storeBase (c : CoreId) : Nat := 0x100000000 + c.toNat * 0x80000
def ssramBase : Nat := 0x200000000
def regsBase : Nat := 0x300000000
def pigeonBase (n : Nat) : Nat := 0x304000000 + n * 0x100

def storeSize : Nat := 0x80000
def sliceSize : Nat := 0x400000

/-! ### Numbers -/

/-- A field of a word: `n` bits from bit `lo`. -/
def fld {w : Nat} (x : BitVec w) (lo n : Nat) : Nat := (x.extractLsb' lo n).toNat

def bitB {w : Nat} (x : BitVec w) (i : Nat) : Bool := x.getLsbD i

/-- `x` with `n` bits from bit `lo` set to `v`. -/
def putFld {w : Nat} (x : BitVec w) (lo n v : Nat) : BitVec w :=
  (x &&& ~~~(BitVec.ofNat w ((2 ^ n - 1) <<< lo))) ||| BitVec.ofNat w ((v % 2 ^ n) <<< lo)

/-- A register word made of fields: low bit, width, value; every bit that no field covers is 0 (R6). -/
def packed (w : Nat) (l : List (Nat × Nat × Nat)) : BitVec w := l.foldl (fun v f => putFld v f.1 f.2.1 f.2.2) 0

def b2n (b : Bool) : Nat := if b then 1 else 0

/-- A count that stops at its largest value. -/
def satInc {w : Nat} (x : BitVec w) : BitVec w := if x = BitVec.allOnes w then x else x + 1

/-- A number as two's complement of `w` bits. -/
def sext (w v : Nat) : Int := if v % 2 ^ w < 2 ^ (w - 1) then (v % 2 ^ w : Nat) else (v % 2 ^ w : Nat) - (2 ^ w : Nat)

def divUp (a b : Nat) : Nat := (a + b - 1) / b

/-! ### Cores and threads -/

def getCore (d : Die) (c : CoreId) : Core := tabGet Core.reset d.cores c.toNat

def setCore (d : Die) (c : CoreId) (x : Core) : Die := { d with cores := tabSet Core.reset d.cores c.toNat x }

def modCore (d : Die) (c : CoreId) (f : Core → Core) : Die := setCore d c (f (getCore d c))

def getThread (x : Core) (t : Bool) : Thread := if t then x.t1 else x.t0

def setThread (x : Core) (t : Bool) (th : Thread) : Core := if t then { x with t1 := th } else { x with t0 := th }

def modThread (d : Die) (c : CoreId) (t : Bool) (f : Thread → Thread) : Die :=
  modCore d c (fun x => setThread x t (f (getThread x t)))

/-- A core is in use when its EN bit is set (R27). -/
def coreInUse (d : Die) (c : CoreId) : Bool := d.ident.coreEn.getLsbD c.toNat

def coreFusedOff (d : Die) (c : CoreId) : Bool := d.ident.coreFused.getLsbD c.toNat

/-- A scalar or address register as read (R131). -/
def readReg (regs : Tab (BitVec 64)) (i : Nat) : BitVec 64 := tabGet 0 regs i

/-- A register written: an a-register keeps bits [31:0] (R131). -/
def writeReg (regs : Tab (BitVec 64)) (i : Nat) (v : BitVec 64) : Tab (BitVec 64) :=
  tabSet 0 regs i (if 32 ≤ i then (v.setWidth 32).setWidth 64 else v)

/-- A predicate as read: p0 always reads 1 (R131). -/
def readPred (p : BitVec 8) (i : Nat) : Bool := i == 0 || p.getLsbD i

/-- A predicate written: writes to p0 are ignored (R131). -/
def writePred (p : BitVec 8) (i : Nat) (v : Bool) : BitVec 8 :=
  if i = 0 then p else putFld p i 1 (b2n v)

def threadReg (th : Thread) (i : Nat) : BitVec 64 := readReg th.regs i

def setThreadReg (th : Thread) (i : Nat) (v : BitVec 64) : Thread := { th with regs := writeReg th.regs i v }

/-! ### Free values, records of what is sent -/

/-- The i-th free value of this command. -/
def freeVal (d : Die) (i : Nat) : BitVec 64 := Config.freeWord d.freeCtr i

/-- The counter past this command's draws. -/
def drew (d : Die) : Die := { d with freeCtr := d.freeCtr + 1 }

def send (d : Die) (o : Out) : Die := { d with out := d.out ++ [o] }

/-- A message to another die's Steward: at most one is outstanding to each, and further ones wait (R263). -/
def sendPeer (d : Die) (p : BitVec 2) (m : PeerMsg) : Die :=
  if d.stew.peerBusy.contains p then { d with stew := { d.stew with peerQueue := d.stew.peerQueue ++ [(p, m)] } }
  else send { d with stew := { d.stew with peerBusy := d.stew.peerBusy ++ [p] } } (.peer p m)

/-- A die has answered: the next message to it leaves. -/
def peerAnswered (p : BitVec 2) (d : Die) : Die :=
  match d.stew.peerQueue.find? (fun q => q.1 == p) with
  | none => { d with stew := { d.stew with peerBusy := d.stew.peerBusy.filter (· != p) } }
  | some q => send { d with stew := { d.stew with peerQueue := d.stew.peerQueue.erase q } } (.peer p q.2)

/-! ### The shape of a meaning -/

/-- A command's effect on the die, whatever waits in the queue. -/
def onDie (f : Die → Die) (s : State) : Host.Outcome State Fault Refusal := .next { s with die := f s.die }

/-- The same for a command whose operands may name what the hardware does not have (WellFormed.lean): nothing there can act, and the
state stays as it is (DESIGN CHOICE, assumption log). -/
def onDieIf (ok : Bool) (f : Die → Die) (s : State) : Host.Outcome State Fault Refusal := onDie (if ok then f else id) s

end Sys2Proof.Machine
end

