-- ==== Sys2Proof/Machine/Flags.lean ====
section
/-! DEFINITION. Slot registers as planes, tile status words, the flag log, poisoning, the vector status register, and the
fault a program raises (R82 to R87, R112, R123 to R128, R152, R160, R81). -/

namespace Sys2Proof.Machine

/-! ### Halves -/

/-- The halves a selection covers (R80). -/
def halvesOf : HalfSel → List Bool
  | .full => [false, true]
  | .h0 => [false]
  | .h1 => [true]

/-- The half whose registers speak for a selection: h = 0 in full mode (R119, R123). -/
def headHalf : HalfSel → Bool
  | .h1 => true
  | _ => false

/-- The half that holds a physical column (R63, R80). -/
def colHalf (c : Nat) : Bool := decide (16 ≤ c ∧ c < 32) || c == 33

def colIn (hs : HalfSel) (c : Nat) : Bool := match hs with
  | .full => true
  | .h0 => !colHalf c
  | .h1 => colHalf c

/-- First data column and count of data columns of a selection. -/
def colBase (hs : HalfSel) : Nat := match hs with | .h1 => 16 | _ => 0
def colCount (hs : HalfSel) : Nat := match hs with | .full => 32 | _ => 16

/-- The selection a thread drives (R130). -/
def threadHalf (x : Core) (t : Bool) : HalfSel := if x.split then (if t then .h1 else .h0) else .full

def overlaps (a b : HalfSel) : Bool := (halvesOf a).any (fun h => (halvesOf b).contains h)

/-! ### Register planes (R82, R85): key (34 q + row) 34 + column; logical rows 0 to 31, checksum row 33 -/

def accKey (q row col : Nat) : Nat := (q * 34 + row) * 34 + col

def accGet (x : Core) (q row col : Nat) : BitVec 52 := tabGet 0 x.acc (accKey q row col)

/-- Cells that hold registers: row 32 is the spare row's physical place, and the two corner cells hold nothing (R63). -/
def cellUsed (row col : Nat) : Bool := row != 32 && !(row == 33 && (col == 32 || col == 33))

/-- Every cell of a register within a selection replaced. -/
def accUpd (x : Core) (q : Nat) (hs : HalfSel) (f : Nat → Nat → BitVec 52 → BitVec 52) : Core :=
  { x with acc := tabFill 0 x.acc (q * 1156) 1156 (fun n =>
      let row := n / 34
      let col := n % 34
      let old := accGet x q row col
      if colIn hs col && cellUsed row col then f row col old else old) }

/-- Tag nibble of a register (R86). -/
def tagOf (x : Core) (h : Bool) (q : Nat) : Nat := fld (if h then x.tag1 else x.tag0) (4 * q) 4
def tagSet (x : Core) (h : Bool) (q : Nat) : Bool := 8 ≤ tagOf x h q
def tagMode (x : Core) (h : Bool) (q : Nat) : BitVec 2 := BitVec.ofNat 2 (tagOf x h q)

def putTag (x : Core) (hs : HalfSel) (q v : Nat) : Core :=
  { x with tag0 := if hs = .h1 then x.tag0 else putFld x.tag0 (4 * q) 4 v,
           tag1 := if hs = .h0 then x.tag1 else putFld x.tag1 (4 * q) 4 v }

/-! ### Status words (R123) -/

def tswKey (h : Bool) (q : Nat) : Nat := 16 * b2n h + q

def getTsw (x : Core) (h : Bool) (q : Nat) : BitVec 32 := tabGet 0 x.tsw (tswKey h q)

def putTsw (x : Core) (hs : HalfSel) (q : Nat) (w : BitVec 32) : Core :=
  { x with tsw := (halvesOf hs).foldl (fun t h => tabSet 0 t (tswKey h q) w) x.tsw }

/-- The status-word bit of a flag code; ZINF has none. -/
def flagBit (flag : Nat) : Nat := match flag with
  | 0 => 26 | 1 => 27 | 2 => 28 | 3 => 30 | _ => 32

/-- A status word with an event added: the first one leaves its locator (R124). -/
def tswAdd (w : BitVec 32) (e : FlagEvent) : BitVec 32 :=
  if e.flag = 4 then w
  else
    let w := if bitB w 31 then w
      else putFld (putFld (putFld (putFld w 31 1 1) 21 5 e.row) 16 5 e.col) 0 16 e.k16
    putFld w (flagBit e.flag) 1 1

/-- A flag-log entry (R125). -/
def logEntry (q : Nat) (e : FlagEvent) : BitVec 64 :=
  putFld (putFld (putFld (putFld (putFld (putFld (putFld (putFld 0#64 60 4 q) 59 1 (e.col / 16)) 56 3 e.flag)
    55 1 (b2n e.rowChk)) 54 1 (b2n e.colChk)) 49 5 e.row) 44 5 e.col) 28 16 e.k16

def logAppend (x : Core) (v : BitVec 64) : Core :=
  if x.flagCount < 64 then { x with flagMem := tabSet 0 x.flagMem x.flagCount v, flagCount := x.flagCount + 1 }
  else { x with flagLost := satInc x.flagLost }

/-- The entries the log holds, and the log emptied. -/
def flagEntries (x : Core) : List (BitVec 64) := (List.range x.flagCount).map (tabGet 0 x.flagMem)
def emptyLog (x : Core) : Core := { x with flagMem := [], flagCount := 0, flagLost := 0 }

/-- Whether a flag's first event since the register's clear has been seen. -/
def seenFlag (x : Core) (hs : HalfSel) (q : Nat) (flag : Nat) : Bool :=
  if flag = 4 then x.zinf.getLsbD (tswKey (headHalf hs) q) else bitB (getTsw x (headHalf hs) q) (flagBit flag)

/-- One event of a register at cycle `t` (R124, R125): in full mode both halves hold the same word (R123). Events are noted in the
order of their cycles, so the first is the earliest. -/
def noteEvent (hs : HalfSel) (q t : Nat) (x : Core) (e : FlagEvent) : Core :=
  let first := !seenFlag x hs q e.flag
  let w := getTsw x (headHalf hs) q
  let x1 := putTsw x hs q (tswAdd w e)
  let x2 := if e.flag = 4 then { x1 with zinf := (halvesOf hs).foldl (fun z h => putFld z (tswKey h q) 1 1) x1.zinf }
    else if bitB w 31 then x1
    else { x1 with tswAt := (halvesOf hs).foldl (fun a h => tabSet 0 a (tswKey h q) t) x1.tswAt }
  if first then logAppend x2 (logEntry q e) else x2

/-- The events of a set of flags at one place, in FLAG order (R125). -/
def flagEvents (f : Flags) (row col k16 : Nat) : List FlagEvent :=
  (if f.ovf then [⟨0, row, col, k16, false, false⟩] else []) ++
  (if f.inv then [⟨1, row, col, k16, false, false⟩] else []) ++
  (if f.spc then [⟨2, row, col, k16, false, false⟩] else [])

/-! ### Clearing (R87) and poisoning (R127) -/

/-- A register cleared in a selection: value +0, flags 0, SET 0, status word 0; reads whose last row has passed keep their copies. -/
def clearReg (x : Core) (hs : HalfSel) (q : Nat) : Core :=
  let x1 := accUpd x q hs (fun _ _ _ => 0)
  let x2 := putTsw (putTag x1 hs q 0) hs q 0
  { x2 with
    zinf := (halvesOf hs).foldl (fun z h => putFld z (tswKey h q) 1 0) x2.zinf,
    tswAt := (halvesOf hs).foldl (fun a h => tabSet 0 a (tswKey h q) 0) x2.tswAt,
    ops := x2.ops.map (fun o => if o.reg.toNat = q && o.copied && overlaps o.half hs then { o with cleared := true } else o) }

/-- The effects of the resets of R112 on a core. -/
def resetArray (x : Core) : Core :=
  { x with acc := [], tag0 := 0, tag1 := 0, tsw := [], tswAt := [], zinf := 0, accCfg := 1#32, accHeld := none, partials := [],
           utags := [], res0 := putFld x.res0 31 1 0, res1 := putFld x.res1 31 1 0 }

/-- BUSY of the halves a selection covers (R65, R97): an array operation is in flight there. -/
def halfBusy (x : Core) (hs : HalfSel) : Bool := x.ops.any (fun o => overlaps o.half hs)

/-! ### Writes held until halves are idle (R83, R119) -/

/-- ACC_CFG as a held write leaves it (R83): SHADOW; a change of it clears SWP. -/
def accCfgTake (x : Core) (v : BitVec 32) : Core :=
  let s := bitB v 0
  { x with accCfg := if s = bitB x.accCfg 0 then x.accCfg else BitVec.ofNat 32 (b2n s), accHeld := none }

/-- The clamps of R119. -/
def clampM (v : BitVec 32) : BitVec 32 :=
  let m := fld v 0 5
  putFld (putFld 0#32 31 1 (fld v 31 1)) 0 5 (if m < 8 then 8 else if 24 < m then 24 else m)

def clampFloor (v : BitVec 32) : BitVec 32 :=
  if v = 0x80000000#32 then v
  else if fld v 31 1 = 1 || fld v 23 8 = 255 then 0x00800000#32 else v

def abftTake (x : Core) (h floor : Bool) (v : BitVec 32) : Core :=
  if floor then (if h then { x with abftFloor1 := clampFloor v } else { x with abftFloor0 := clampFloor v })
  else (if h then { x with abftCfg1 := clampM v } else { x with abftCfg0 := clampM v })

/-- Writes held until halves are idle take effect (R83, R119). -/
def settleIdle (x : Core) : Core :=
  let x1 := match x.accHeld with
    | some v => if halfBusy x .full then x else accCfgTake x v
    | none => x
  let busy (h : Bool) : Bool := halfBusy x1 (if h then .h1 else .h0)
  let x2 := x1.abftHeld.foldl (fun y (h, f, v) => if busy h then y else abftTake y h f v) x1
  { x2 with abftHeld := x1.abftHeld.filter (fun p => busy p.1) }

/-- A write of ACC_CFG, and of ABFT_CFG_h or ABFT_FLOOR_h. -/
def accWrite (v : BitVec 32) (x : Core) : Core := settleIdle { x with accHeld := some v }
def abftWrite (h floor : Bool) (v : BitVec 32) (x : Core) : Core := settleIdle { x with abftHeld := x.abftHeld ++ [(h, floor, v)] }

/-! ### Poisoning (R127) -/

/-- A cell poisoned: POI, an undefined partial sum in the 48 bits of the value, and its flags; of an MMA under way, which flags its lane
steps had raised by then is open. The reserved bits of a checksum cell stay 0 (R114). -/
def poisonCell (running : Bool) (fr : BitVec 64) (old : BitVec 52) : BitVec 52 :=
  let flags := if running then old &&& fr.setWidth 52 else old
  putFld (putFld flags 0 48 (fld fr 0 48)) 48 1 1

/-- Register q of a half poisoned. -/
def poisonReg (n : Nat) (h : Bool) (x : Core) (q : Nat) : Core :=
  if tagSet x h q then
    let sel : HalfSel := if h then .h1 else .h0
    let running := x.ops.any (fun o => o.kind == .mma && o.reg.toNat == q && overlaps o.half sel)
    let x1 := accUpd x q sel (fun row col old => poisonCell running (Config.freeWord n (accKey q row col)) old)
    putTsw x1 sel q (getTsw x1 h q ||| (1#32 <<< 29))
  else x

/-- What a fault does to a half at once (R127, R81): work in flight stops, events that had not come never come, registers are poisoned,
ARR_RES.VALID clears, and writes held for the half take effect. A read whose own verdict raised the fault completes. -/
def poisonHalf (n now : Nat) (x : Core) (h : Bool) : Core :=
  let x1 := (List.range 16).foldl (poisonReg n h) x
  let keep (o : ArrOp) : Bool := (o.verdictMade && o.verdict.failed) || !(halvesOf o.half).contains h
  settleIdle { x1 with ops := x1.ops.filter keep,
                       lastAct0 := if h then x1.lastAct0 else min x1.lastAct0 now,
                       lastAct1 := if h then min x1.lastAct1 now else x1.lastAct1,
                       res0 := if h then x1.res0 else putFld x1.res0 31 1 0,
                       res1 := if h then putFld x1.res1 31 1 0 else x1.res1 }

/-! ### Time (R78, R97, R124 to R126) -/

/-- A flag event of the n-th operation has come: it joins the register's word; of a read whose last row has passed, the copy, and the
register's word unless the register has been cleared since. -/
def eventComes (x : Core) (n t : Nat) (e : FlagEvent) : Core :=
  match x.ops[n]? with
  | none => x
  | some o =>
    let x1 := if o.copied then { x with ops := x.ops.set n { o with copy := tswAdd o.copy e } } else x
    if o.copied && o.cleared then
      (if bitB o.copy (flagBit e.flag) then x1 else logAppend x1 (logEntry o.reg.toNat e))
    else noteEvent o.half o.reg.toNat t x1 e

/-- The last row of the n-th operation, a slot read, has passed: its copy is taken, and CLR clears the register. -/
def rowsPassed (x : Core) (n : Nat) : Core :=
  match x.ops[n]? with
  | none => x
  | some o =>
    let x1 := { x with ops := x.ops.set n { o with copied := true, copy := getTsw x (headHalf o.half) o.reg.toNat } }
    if o.clr then clearReg x1 o.half o.reg.toNat else x1

def isRead (o : ArrOp) : Bool := o.kind == .drain || o.kind == .reduce || o.kind == .chain

/-- What is to come of an operation, in the order of R124 and R125: by cycle, in a cycle flag events before the end of a read's rows, by
row, by column, by FLAG code. -/
abbrev Coming := Nat × Nat × Option FlagEvent

def comesBefore (a b : Coming) : Bool :=
  let key (c : Coming) : Nat := match c.2.2 with
    | some e => ((c.1 * 64 + e.row) * 64 + e.col) * 8 + e.flag
    | none => (c.1 * 64 + 63) * 512
  decide (key a < key b)

def insertComing (a : Coming) : List Coming → List Coming
  | [] => [a]
  | b :: l => if comesBefore a b then a :: b :: l else b :: insertComing a l

/-- What has come by `now`, in order: the cycle, the operation, an event or the end of its rows. -/
def comeBy (now : Nat) (x : Core) : List Coming :=
  (x.ops.zipIdx.flatMap (fun p =>
    (p.1.evs.filter (fun v => decide (v.1 ≤ now))).map (fun v => (v.1, p.2, some v.2)) ++
    (if isRead p.1 && !p.1.copied && decide (p.1.tLast ≤ now) then [(p.1.tLast, p.2, none)] else []))).foldl
      (fun l a => insertComing a l) []

def comes (x : Core) (a : Coming) : Core := match a.2.2 with
  | some e => eventComes x a.2.1 a.1 e
  | none => rowsPassed x a.2.1

/-- The first addition or latch write of an MMA or RESLOAD (R69, R71, R78). -/
def firstTouch (o : ArrOp) : Nat := o.start + (if o.kind == .mma then 6 else 4) + (if o.lodge then 9 else 0)

def feedOp (o : ArrOp) : Bool := o.kind == .mma || o.kind == .resload

def lastAct (x : Core) (h : Bool) : Nat := if h then x.lastAct1 else x.lastAct0

/-- A half once time has come to `now`: cold once 256 idle ACLK have passed, warm from the first addition or latch write of what runs
in it (R78). -/
def coldAt (x : Core) (now : Nat) (h : Bool) : Bool :=
  if lastAct x h + 257 ≤ now then true
  else if x.ops.any (fun o => feedOp o && (halvesOf o.half).contains h && decide (firstTouch o ≤ now)) then false
  else if h then x.cold1 else x.cold0

/-- An owed register receives its value. -/
def payReg (r : BitVec 6) (k : Owed) (v : BitVec 64) (th : Thread) : Thread :=
  let th1 := setThreadReg th r.toNat v
  { th1 with owed := th1.owed.erase (r, k) }

/-- The answers of Ledger hits whose cycle has come are written (R156). -/
def payAnswers (now : Nat) (th : Thread) : Thread :=
  let th1 := (th.answers.filter (fun a => decide (a.1 ≤ now))).foldl (fun th a => payReg a.2.1 .berth a.2.2 th) th
  { th1 with answers := th.answers.filter (fun a => decide (now < a.1)) }

/-- A core at `now`. In full mode both halves are as cold as one (R65). -/
def passTime (now : Nat) (x0 : Core) : Core :=
  let x := { x0 with t0 := payAnswers now x0.t0, t1 := payAnswers now x0.t1 }
  let x1 := (comeBy now x).foldl comes x
  let x2 := { x1 with ops := x1.ops.map (fun o => { o with evs := o.evs.filter (fun v => decide (now < v.1)) }) }
  let c0 := coldAt x2 now false
  let c1 := coldAt x2 now true
  { x2 with cold0 := if x2.split then c0 else c0 || c1, cold1 := if x2.split then c1 else c0 || c1 }

/-- Every core at the time of the die. -/
def passCores (d : Die) : Die := { d with cores := tabMap Core.reset (fun _ x => passTime d.aclk x) d.cores }

/-- Time no earlier than `t`: an event commanded before its cycle has come brings that cycle, and what lies before it in the arrays. -/
def waitUntil (d : Die) (t : Nat) : Die := passCores { d with aclk := max d.aclk t }

/-! ### Leaving split mode (R80, R83, R123) -/

/-- Whether half H0's word holds the earlier first event. -/
def firstInH0 (x : Core) (q : Nat) : Bool :=
  let a := getTsw x false q
  let b := getTsw x true q
  let key (h : Bool) (w : BitVec 32) : Nat := (tabGet 0 x.tswAt (tswKey h q) * 32 + fld w 21 5) * 32 + fld w 16 5
  bitB a 31 && (!bitB b 31 || decide (key false a ≤ key true b))

/-- A register's two words as one: every flag of either, and the first event of both. -/
def joinTsw (x : Core) (q : Nat) : Core :=
  let a := getTsw x false q
  let b := getTsw x true q
  let first := firstInH0 x q
  let w := ((a ||| b) &&& 0x7C000000#32) ||| ((if first then a else b) &&& 0x83FFFFFF#32)
  let t := tabGet 0 x.tswAt (tswKey (!first) q)
  let z := b2n (bitB x.zinf q || bitB x.zinf (16 + q))
  let x1 := putTsw x .full q w
  { x1 with tswAt := tabSet 0 (tabSet 0 x1.tswAt q t) (16 + q) t, zinf := putFld (putFld x1.zinf q 1 z) (16 + q) 1 z }

/-- The array in full mode again: both halves' status words and cold bits are one (R65, R123), and so are their SWP bits (R83); which
way a pair goes whose halves differed is open (`n` numbers the free value). -/
def leaveSplit (n : Nat) (x : Core) : Core :=
  let s0 := fld x.accCfg 8 8
  let s1 := fld x.accCfg 16 8
  let swp := (s0 &&& s1) ||| ((s0 ^^^ s1) &&& fld (Config.freeWord n 0) 0 8)
  let x1 := (List.range 16).foldl joinTsw x
  { x1 with split := false, lodgeHalf := false, accCfg := putFld (putFld x1.accCfg 8 8 swp) 16 8 swp,
            cold0 := x.cold0 || x.cold1, cold1 := x.cold0 || x.cold1 }

/-! ### Vector status (R152) -/

/-- CORE_VSTAT with the flags of one element of an instruction. -/
def vstatAdd (v : BitVec 64) (pc index : Nat) (f : Flags) : BitVec 64 :=
  if !flAny f then v
  else
    let v1 := if bitB v 63 then v else putFld (putFld (putFld v 63 1 1) 32 12 pc) 0 17 index
    v1 ||| BitVec.ofNat 64 (b2n f.spc <<< 62 ||| b2n f.inv <<< 61 ||| b2n f.ovf <<< 60)

/-! ### CORE_FAULT (R160) -/

def cfIllegalOpcode : Nat := 0x01
def cfIllegalFormat : Nat := 0x02
def cfIllegalMode : Nat := 0x03
def cfIllegalSlot : Nat := 0x04
def cfPoisonedSlot : Nat := 0x05
def cfIllegalSplit : Nat := 0x06
def cfLoopDepth : Nat := 0x07
def cfLoopNest : Nat := 0x08
def cfPcRange : Nat := 0x09
def cfPmEcc : Nat := 0x0A
def cfStoreRange : Nat := 0x0B
def cfStoreAlign : Nat := 0x0C
def cfStoreOverlap : Nat := 0x0D
def cfLodgeRange : Nat := 0x0E
def cfTallyRange : Nat := 0x0F
def cfAbftMismatch : Nat := 0x10
def cfCaravanStall : Nat := 0x11
def cfChainStall : Nat := 0x12
def cfUserFault : Nat := 0x13
def cfStampRange : Nat := 0x14
def cfWaybillFormat : Nat := 0x20
def cfWaybillState : Nat := 0x21
def cfRingRole : Nat := 0x22
def cfMemResponse : Nat := 0x23
def cfBerthUnavailable : Nat := 0x24
def cfBerthRange : Nat := 0x25
def cfCaravanShape : Nat := 0x26
def cfRelayStall : Nat := 0x27
def cfRelayStage : Nat := 0x28
def cfItineraryAborted : Nat := 0x29
def cfDieLost : Nat := 0x2A

/-- SCOPE and the halves of a fault: a thread's own half, or everything when it can be tied to no half (R81, R160). -/
def faultScope (x : Core) (who : Option Bool) : Nat × List Bool :=
  if x.split then
    match who with
    | some false => (1, [false])
    | some true => (2, [true])
    | none => (3, [false, true])
  else (0, [false, true])

/-- CORE_FAULT's value for a fault. -/
def faultWord (scope : Nat) (who : Option Bool) (pc code detail : Nat) : BitVec 64 :=
  putFld (putFld (putFld (putFld (putFld (putFld 0#64 63 1 1) 62 1 (b2n (who == some true))) 60 2 scope) 48 12 pc)
    40 8 code) 0 32 detail

/-- A thread once it has faulted or been stopped: it dispatches nothing further, its queues are discarded. -/
def stopThread (r : Run) (th : Thread) : Thread :=
  { th with run := r, wait := .none, feed := [], edge := [], vec := [], port := [], ldg := [], msg := [] }

/-- The first fault of an itinerary, as its record will say (R282). -/
def noteItinFault (code core pc detail : Nat) (i : Itin) : Itin :=
  if i.reason = 0 && i.state = .running then
    { i with reason := BitVec.ofNat 8 code, faultCore := BitVec.ofNat 16 core, faultPc := BitVec.ofNat 16 pc,
             faultDetail := BitVec.ofNat 32 detail }
  else i

def modItin (d : Die) (id : BitVec 32) (f : Itin → Itin) : Die :=
  { d with stew := { d.stew with itins := d.stew.itins.map (fun i => if i.id = id then f i else i) } }

def findItin (d : Die) (id : BitVec 32) : Option Itin := d.stew.itins.find? (fun i => i.id = id)

/-- A fault-log entry (R416). -/
def faultEntry (d : Die) (kind code core : Nat) (itin : BitVec 32) (pc detail : Nat) (arg : BitVec 64) : List Byte :=
  leBytes 4 d.ledger.epoch.toNat ++ [BitVec.ofNat 8 kind, BitVec.ofNat 8 code] ++ leBytes 2 core ++ leBytes 4 itin.toNat ++
  leBytes 2 pc ++ leBytes 2 0 ++ leBytes 4 detail ++ leBytes 8 arg.toNat ++ leBytes 4 0

/-- The fault log keeps the last 256 entries (R416). -/
def logFault (d : Die) (e : List Byte) : Die :=
  let l := d.flt.log ++ [e]
  { d with flt := { d.flt with log := l.drop (l.length - 256) } }

/-- A core fault (R160, R81, R127): recorded when none is, its threads faulted, its halves poisoned at once, and the
itinerary's first fault noted. `who` is the thread it can be tied to. ITINERARY_ABORT does the rest. -/
def raiseFault (d : Die) (c : CoreId) (who : Option Bool) (code detail pc : Nat) : Die :=
  let x := getCore d c
  let (scope, hs) := faultScope x who
  let ts : List Bool := match who with
    | some t => [t]
    | none => if x.split then [false, true] else [false]
  let x1 := if bitB x.fault 63 then x else { x with fault := faultWord scope who pc code detail }
  let x2 := ts.foldl (fun y t => setThread y t (stopThread .faulted (getThread y t))) x1
  let x3 := hs.foldl (poisonHalf d.freeCtr d.aclk) x2
  let place := c.toNat + 512 * d.ident.dieNum.toNat
  let d1 := ts.foldl (fun e t => match (getThread x t).itin with
    | some id =>
      let e1 := logFault e (faultEntry d 1 code place id pc detail 0)
      if id.extractLsb' 30 2 = d.ident.dieNum then modItin e1 id (noteItinFault code place pc detail)
      else sendPeer e1 (id.extractLsb' 30 2) (.fault id (BitVec.ofNat 11 place) (BitVec.ofNat 8 code) (BitVec.ofNat 12 pc)
        (BitVec.ofNat 32 detail))
    | none => logFault e (faultEntry d 1 code place 0 pc detail 0)) (setCore d c x3)
  drew d1

end Sys2Proof.Machine
end

