-- ==== Sys2Proof/Machine/Operands.lean ====
section
/-! DEFINITION. Dispatch: the fetch of a word, its guard, its register operands, the holds on dispatch, the loop stack, the
queues and issue (R130 to R140, R160). Every tile-program row's meaning is `dispatch` with a body. -/

namespace Sys2Proof.Machine

/-! ### Register fields an instruction uses (R131, R134, R139 to R157): those it reads, those it writes -/

def regUses (op : Nat) (w : BitVec 64) : List Nat × List Nat :=
  match op with
  | 0x03 => (fld w 45 6 :: (if bitB w 38 then [] else [fld w 39 6]), [])
  | 0x04 => (if bitB w 53 then [] else [fld w 47 6], [])
  | 0x08 => (fld w 38 6 :: (if bitB w 31 then [] else [fld w 32 6]), [fld w 44 6])
  | 0x09 => (if bitB w 43 then [fld w 44 6] else [], [fld w 44 6])
  | 0x0A => (fld w 42 6 :: (if bitB w 35 then [] else [fld w 36 6]), [])
  | 0x10 => ([fld w 44 6], [])
  | 0x23 => ((if fld w 36 4 = 9 then [fld w 30 6] else []) ++ (if bitB w 13 then [fld w 8 5] else []), [])
  | 0x28 => (if bitB w 34 then [fld w 29 5] else [], [])
  | 0x29 => (if fld w 37 2 = 1 || fld w 37 2 = 2 then [fld w 20 6] else [], [])
  | 0x2A => ([fld w 42 6, fld w 36 6, fld w 30 6], [])
  | 0x30 => ([fld w 44 6, fld w 26 6] ++ [fld w 38 6] ++
      (if fld w 50 4 ≤ 4 || fld w 50 4 = 7 then [fld w 32 6] else []) ++
      (if fld w 50 4 = 5 || fld w 50 4 = 6 then [fld w 9 5] else []), [])
  | 0x31 => ([fld w 44 6, fld w 38 6, fld w 26 6], [])
  | 0x32 => ([fld w 44 6, fld w 38 6, fld w 26 6], [])
  | 0x33 => ([fld w 38 6, fld w 26 6], [fld w 44 6])
  | 0x34 => ([fld w 44 6, fld w 38 6, fld w 26 6] ++ (if fld w 50 4 = 2 then [fld w 32 6] else []), [])
  | 0x38 => (if bitB w 53 then [fld w 44 6, fld w 38 6, fld w 32 6] else [fld w 44 6], [])
  | 0x39 => ([fld w 44 6, fld w 38 6, fld w 32 6], [])
  | 0x3A => ([fld w 44 6], if fld w 52 2 = 0 then [fld w 38 6] else [])
  | 0x3C => (fld w 44 6 :: (if bitB w 37 then [] else [fld w 38 6]),
      if bitB w 50 && fld w 51 3 ≤ 1 then [fld w 31 6] else [])
  | 0x3D => (if bitB w 53 then [fld w 44 6] else [], [])
  | 0x3F => ([], [fld w 44 6])
  | _ => ([], [])

/-- The opcodes of R138. -/
def opcodeKnown (op : Nat) : Bool :=
  [0x00, 0x01, 0x02, 0x03, 0x04, 0x06, 0x08, 0x09, 0x0A, 0x10, 0x11, 0x12, 0x13, 0x14, 0x15, 0x20, 0x21, 0x22, 0x23,
   0x24, 0x25, 0x26, 0x28, 0x29, 0x2A, 0x30, 0x31, 0x32, 0x33, 0x34, 0x38, 0x39, 0x3A, 0x3C, 0x3D, 0x3E, 0x3F].contains op

/-- The queue of R133 an opcode goes to; LDGRD by its FORM. -/
def queueOf (op : Nat) (w : BitVec 64) : QueueId :=
  if op = 0x20 || op = 0x21 || op = 0x24 then .feed
  else if op = 0x22 || op = 0x23 || op = 0x25 || op = 0x28 || op = 0x29 then .edge
  else if op = 0x2A || (0x30 ≤ op && op ≤ 0x34) then .vec
  else if op = 0x10 || op = 0x11 || op = 0x13 || op = 0x14 || op = 0x15 then .port
  else if op = 0x39 || (op = 0x38 && bitB w 53) then .ldg
  else if op = 0x3A || op = 0x3C || op = 0x3D then .msg
  else .sequencer

def getQueue (th : Thread) : QueueId → List QEntry
  | .feed => th.feed
  | .edge => th.edge
  | .vec => th.vec
  | .port => th.port
  | .ldg => th.ldg
  | .msg => th.msg
  | .sequencer => []

def putQueue (th : Thread) (q : QueueId) (l : List QEntry) : Thread :=
  match q with
  | .feed => { th with feed := l }
  | .edge => { th with edge := l }
  | .vec => { th with vec := l }
  | .port => { th with port := l }
  | .ldg => { th with ldg := l }
  | .msg => { th with msg := l }
  | .sequencer => th

/-- Queue depths (R133). -/
def queueDepth : QueueId → Nat
  | .ldg => 4
  | _ => 8

/-! ### Sequencing -/

/-- The next word after one at `pc` whose branch was not taken (R140 after_dispatch): innermost loop first; a finished
loop is popped, and several may end on one word. -/
def loopBack (pc : Nat) : List LoopFrame → Nat × List LoopFrame
  | [] => (pc + 1, [])
  | f :: fs =>
    if pc = f.stop then
      if 1 < f.left then (f.start, { f with left := f.left - 1 } :: fs) else loopBack pc fs
    else (pc + 1, f :: fs)

/-- A thread past the word it dispatched. -/
def advance (th : Thread) : Thread :=
  let (pc, ls) := loopBack th.pc th.loops
  { th with pc := pc, loops := ls, dbgStep := false }

/-- A taken branch pops every loop whose range does not contain its target (R140). -/
def popLoops (target : Int) : List LoopFrame → List LoopFrame
  | [] => []
  | f :: fs => if (f.start : Int) ≤ target ∧ target ≤ f.stop then f :: fs else popLoops target fs

def canDispatch (th : Thread) : Bool := th.run == .running && th.wait == .none && (!th.dbgHalted || th.dbgStep)

/-- The guard of R132. -/
def guardHolds (p : BitVec 8) (w : BitVec 64) : Bool := readPred p (fld w 54 3) != bitB w 57

/-- The word an opcode and 58 bits make (R138). -/
def mkWord (op : Nat) (w : BitVec 58) : BitVec 64 := BitVec.ofNat 64 (op * 2 ^ 58 + w.toNat)

/-- Dispatch of one word. The command names the word: where the thread cannot dispatch, or program memory holds another
word at its pc, nothing happens. A fetch past the last word raises PC_RANGE, an uncorrectable word PM_ECC for both halves
(R137); a false guard makes the word a NOP (R132); a reserved register index raises ILLEGAL_OPCODE (R131); a register an
earlier instruction has yet to write holds dispatch (R134). -/
def dispatch (c : CoreId) (t : Bool) (op : Nat) (w58 : BitVec 58) (body : Die → QEntry → Die) (d : Die) : Die :=
  let x := getCore d c
  let th := getThread x t
  let w := mkWord op w58
  if !canDispatch th then d
  else if 4095 < th.pc then raiseFault d c (some t) cfPcRange 0 th.pc
  else if x.pmemBad.contains th.pc then raiseFault d c none cfPmEcc 0 x.t0.pc
  else if tabGet 0 x.pmem th.pc ≠ w then d
  else if !guardHolds th.preds w then modThread d c t advance
  else
    let (rs, ws) := regUses op w
    if (rs ++ ws).any (fun r => decide (48 ≤ r)) then raiseFault d c (some t) cfIllegalOpcode 0 th.pc
    else if (rs ++ ws).any (fun r => th.owed.any (fun o => o.1.toNat == r)) then d
    else body d ⟨th.pc, w, th.regs, th.streamPtr.toNat, th.seqNo, th.readsOut⟩

/-- A word carried out in the sequencer: `f` on the thread, then the next word. -/
def seqStep (c : CoreId) (t : Bool) (f : Thread → Thread) (d : Die) : Die :=
  modThread d c t (fun th => advance (f th))

/-- How one unit issues an entry: none while a hold stands, else the die after it (a fault included). -/
abbrev IssueFn := Die → CoreId → Bool → QEntry → Option Die

/-! ### The issue throttle (R344) -/

/-- B now: at duty 16 it stands at 4,096; below, it gains d in each delivered ACLK up to that. -/
def tokensNow (d : Die) (th : Thread) : Int :=
  if d.power.duty.toNat = 16 then 4096 else min 4096 (th.tokens + (d.power.duty.toNat * (d.aclk - th.tokensAt) : Nat))

def throttled (d : Die) (c : CoreId) (t : Bool) : Bool := decide (tokensNow d (getThread (getCore d c) t) < 0)

/-- An instruction's issue takes 16 times its occupancy; at duty 16 nothing is taken. -/
def charge (c : CoreId) (t : Bool) (occ : Nat) (d : Die) : Die :=
  if d.power.duty.toNat = 16 then d
  else modThread d c t (fun th => { th with tokens := tokensNow d th - (16 * occ : Nat), tokensAt := d.aclk })

/-- An instruction the throttle paces, with its occupancy in ACLK. -/
def paced (occ : QEntry → Nat) (f : IssueFn) : IssueFn := fun d c t e =>
  if throttled d c t then none else (f d c t e).map (charge c t (occ e))

/-- Every thread's count brought up to now, before the duty changes. -/
def settleTokens (d : Die) : Die :=
  let th (t : Thread) : Thread := { t with tokens := tokensNow d t, tokensAt := d.aclk }
  { d with cores := tabMap Core.reset (fun _ x => { x with t0 := th x.t0, t1 := th x.t1 }) d.cores }

/-- A new duty in force. -/
def setDuty (v : Nat) (d : Die) : Die :=
  let d1 := settleTokens d
  { d1 with power := { d1.power with duty := BitVec.ofNat 5 v } }

/-- The unit issues the head of its queue when no hold stands (R133). -/
def issueHead (f : IssueFn) (c : CoreId) (t : Bool) (q : QueueId) (d : Die) : Die :=
  match getQueue (getThread (getCore d c) t) q with
  | [] => d
  | e :: rest =>
    match f (modThread d c t (fun th => putQueue th q rest)) c t e with
    | some d' => d'
    | none => d

/-- A word placed in its unit's queue: dispatch is held while the queue is full (R134), and a word that reaches the head of
an empty queue may issue in the same cycle (R133). `prep` is what dispatch itself does to the thread. -/
def enqueue (q : QueueId) (c : CoreId) (t : Bool) (prep : Thread → Thread) (f : IssueFn) (d : Die) (e : QEntry) : Die :=
  let th := getThread (getCore d c) t
  if queueDepth q ≤ (getQueue th q).length then d
  else
    let wasEmpty := (getQueue th q).isEmpty
    let d1 := modThread d c t (fun th => advance (prep { (putQueue th q (getQueue th q ++ [e])) with seqNo := th.seqNo + 1 }))
    if wasEmpty then issueHead f c t q d1 else d1

/-- A fault raised at dispatch or issue by an entry: the entry changes nothing else (R160). -/
def entryFault (d : Die) (c : CoreId) (t : Bool) (e : QEntry) (code detail : Nat) : Die :=
  raiseFault d c (some t) code detail e.pc

def owe (r : Nat) (k : Owed) (th : Thread) : Thread := { th with owed := th.owed ++ [(BitVec.ofNat 6 r, k)] }

/-- A register operand as read at dispatch. -/
def opnd (e : QEntry) (i : Nat) : BitVec 64 := readReg e.regs i

/-! ### Rings (R161 to R165) -/

def getRing (x : Core) (n : Nat) : Ring := tabGet Ring.reset x.rings n
def putRing (x : Core) (n : Nat) (r : Ring) : Core := { x with rings := tabSet Ring.reset x.rings n r }

def ringEn (r : Ring) : Bool := bitB r.cfg 63
def ringProd (r : Ring) : Nat := fld r.cfg 61 2
def ringCons (r : Ring) : Nat := fld r.cfg 59 2
/-- B in bytes. -/
def ringB (r : Ring) : Nat := (fld r.cfg 16 6 + 1) * 512
/-- Core-store offset of buffer b. -/
def bufBase (r : Ring) (b : Nat) : Nat := 512 * fld r.cfg 0 10 + b * ringB r

def bufState (r : Ring) (b : Nat) : Nat := fld r.buf (2 * (b % 4)) 2
def putBuf (r : Ring) (b v : Nat) : Ring := { r with buf := putFld r.buf (2 * (b % 4)) 2 v }
def getInfo (r : Ring) (b : Nat) : BufInfo := tabGet BufInfo.reset r.info (b % 4)
def putInfo (r : Ring) (b : Nat) (i : BufInfo) : Ring := { r with info := tabSet BufInfo.reset r.info (b % 4) i }

/-- The pairs of R162. -/
def ringRoleLegal (prod cons : Nat) : Bool :=
  match prod with
  | 0 => cons = 0 || cons = 3
  | 1 => true
  | 2 => cons = 0 || cons = 1
  | _ => false

/-- Rings and waybill registers a thread may name (R130). -/
def inThreadSet (x : Core) (t : Bool) (n : Nat) : Bool := !x.split || (if t then decide (4 ≤ n) else decide (n < 4))

/-- A ring a consuming instruction may take (R162, R164). -/
def canConsume (x : Core) (t : Bool) (n : Nat) : Bool :=
  let r := getRing x n
  inThreadSet x t n && ringEn r && ringCons r == 0

/-- A ring a DRAIN or REDUCE may produce into (R162, R165). -/
def canProduce (x : Core) (t : Bool) (n : Nat) : Bool :=
  let r := getRing x n
  inThreadSet x t n && ringEn r && ringProd r == 1

/-- The head taken: FULL to IN_USE until `due`; the head moves on (R163, R164). -/
def takeHead (r : Ring) (due : Nat) : Ring :=
  let r1 := putInfo (putBuf r r.head.toNat 3) r.head.toNat { getInfo r r.head.toNat with due := due }
  { r1 with head := r.head + 1 }

/-- The tail started: EMPTY to FILLING (R163, R165). -/
def startTail (r : Ring) (i : BufInfo) : Ring := { putInfo (putBuf r r.tail.toNat 1) r.tail.toNat i with tail := r.tail + 1 }

/-- The oldest buffer in a state: buffers are taken in ring order from the head. -/
def oldest (r : Ring) (st : Nat) : Option Nat :=
  ((List.range 4).map (fun i => (r.head.toNat + i) % 4)).find? (fun b => bufState r b == st)

def headFull (r : Ring) : Bool := bufState r r.head.toNat == 2

def secondFull (r : Ring) : Bool := bufState r (r.head.toNat + 1) == 2

/-- A reader of a core's store, and of its slice. -/
def storeByte (d : Die) (c : CoreId) (o : Nat) : Byte := memGet d.mem (storeBase c + o)

def sliceByte (d : Die) (c : CoreId) (o : Nat) : Byte := memGet d.mem (sliceBase c + o)

/-- Bytes written to a core's store. -/
def putStore (d : Die) (c : CoreId) (o : Nat) (l : List Byte) : Die := { d with mem := memWrite d.mem (storeBase c + o) l }

/-- A hold on an entry: the command leaves everything as it is. -/
def held : Option Die := none

/-- An outcome of issue that is a fault. -/
def faulted (d : Die) (c : CoreId) (t : Bool) (e : QEntry) (code detail : Nat) : Option Die :=
  some (entryFault d c t e code detail)

end Sys2Proof.Machine
end

