-- ==== Sys2Proof/Machine/LodgeOps.lean ====
section
/-! DEFINITION. Lodge rows and uncorrectable errors (R190, R191, R200, R201, R204), and how the die posts an event (R269). -/

namespace Sys2Proof.Machine

/-- An event for the Steward to post, to the host unless `dst` says otherwise (R269). -/
def postEventTo (d : Die) (dst : BitVec 8) (kind seq : BitVec 16) (ctx : BitVec 32) (bytes : List Byte) : Die :=
  { d with stew := { d.stew with events := d.stew.events ++ [⟨kind, seq, ctx, dst, bytes⟩] } }

def postEvent (d : Die) (kind : BitVec 16) (bytes : List Byte) : Die := postEventTo d 0 kind 0 0 bytes

/-- Bank key 16 k + b, and row key 1024 (16 k + b) + row, of a slice offset (R190). -/
def bankOf (off : Nat) : Nat := off / 256 % 16
def rowOf (off : Nat) : Nat := off / 4096 % 1024
def bankKey (c : CoreId) (bank : Nat) : Nat := 16 * c.toNat + bank
def rowKey (c : CoreId) (off : Nat) : Nat := 1024 * bankKey c (bankOf off) + rowOf off

/-- Every row a slice range touches. -/
def rowsIn (c : CoreId) (off n : Nat) : List Nat :=
  if n = 0 then [] else (List.range ((off % 256 + n + 255) / 256)).map (fun i => rowKey c (off + 256 * i))

/-- The first row of a slice range whose every read is an uncorrectable error. -/
def ueIn (d : Die) (c : CoreId) (off n : Nat) : Option Nat := (rowsIn c off n).find? (fun k => d.lodge.ueMark.contains k)

/-- LDG_SLICE_k with its CE or UE count raised (R204). -/
def sliceCount (ue : Bool) (v : BitVec 64) : BitVec 64 :=
  if ue then putFld v 40 8 (min 0xFF (fld v 40 8 + 1)) else putFld v 48 16 (min 0xFFFF (fld v 48 16 + 1))

/-- A repair entry (R202). -/
def repairEntry (key spare : Nat) (ue : Bool) : BitVec 32 :=
  putFld (putFld (putFld (putFld (putFld 0#32 23 9 (key / 16384)) 19 4 (key / 1024)) 9 10 key) 4 5 spare) 3 1 (b2n ue)

/-- The lowest free spare of a bank. -/
def freeSpare (l : LodgeSt) (bank : Nat) : Option Nat :=
  (List.range 32).find? (fun i => !(tabGet 0 l.sparesUsed bank).getLsbD i)

/-- A row is to be retired, or its bank has no spare left: SPARE_EXHAUSTED (R200). -/
def retireRow (d : Die) (key : Nat) (ue : Bool) : Die :=
  if d.lodge.retiring.any (fun r => r.1 == key) then d
  else match freeSpare d.lodge (key / 1024) with
    | none => postEvent d 0x0014 (leBytes 4 (repairEntry key 0 ue).toNat)
    | some _ => { d with lodge := { d.lodge with retiring := d.lodge.retiring ++ [(key, ue)] } }

/-- The row of the lowest count leaves a full weak-row table, the oldest of equals. -/
def dropWeakest (l : List (Nat × BitVec 8)) : List (Nat × BitVec 8) :=
  match l.find? (fun e => l.all (fun f => decide (e.2.toNat ≤ f.2.toNat))) with
  | some e => l.erase e
  | none => l

/-- A weak-row table with one more corrected error of a row (R200). -/
def weakAdd (l : List (Nat × BitVec 8)) (key : Nat) : List (Nat × BitVec 8) :=
  if l.any (fun e => e.1 == key) then l.map (fun e => if e.1 = key then (e.1, satInc e.2) else e)
  else (if l.length < 8 then l else dropWeakest l) ++ [(key, 1)]

/-- A corrected error of a row, counted, and its row retired once its count reaches SOFT_THRESH (R200, R204). -/
def noteCe (d : Die) (key : Nat) : Die :=
  let k := key / 16384
  let l := d.lodge
  let w := weakAdd (tabGet [] l.weak k) key
  let count := match w.find? (fun e => e.1 == key) with | some e => e.2.toNat | none => 0
  let d1 := { d with lodge := { l with weak := tabSet [] l.weak k w, slice := tabMod 0 l.slice k (sliceCount false) } }
  if l.softEn && decide (l.softThresh.toNat ≤ count) then retireRow d1 key false else d1

/-- The rows of a slice range that the range covers whole. -/
def wholeRows (c : CoreId) (off n : Nat) : List Nat :=
  ((List.range ((off % 256 + n + 255) / 256)).filter (fun i =>
    decide (off ≤ (off / 256 + i) * 256) && decide ((off / 256 + i) * 256 + 256 ≤ off + n))).map (fun i => rowKey c (off + 256 * i))

def cfLodgeUe : Nat := 0x30

end Sys2Proof.Machine
end

