-- ==== Sys2Proof/Machine/LinkOps.lean ====
section
/-! DEFINITION. What leaves the die over the hub link: gates and modules (R303), credits (R310), sequence numbers and the replay
buffer (R312). Each request and each response makes a group of its own: how many entries a group takes up to its limit is the
die's choice (R304, assumption log). -/

namespace Sys2Proof.Machine

/-- Counts of a conservation class (R414). -/
def cons (d : Die) (c : Nat) (issued returned : Nat) : Die :=
  let f := d.flt
  { d with flt := { f with issued := tabMod 0 f.issued c (· + BitVec.ofNat 64 issued),
                           returned := tabMod 0 f.returned c (· + BitVec.ofNat 64 returned) } }

def getMod (d : Die) (n : Nat) : Module := tabGet Module.reset d.link.modules n

def putMod (d : Die) (n : Nat) (m : Module) : Die := { d with link := { d.link with modules := tabSet Module.reset d.link.modules n m } }

def modMod (d : Die) (n : Nat) (f : Module → Module) : Die := putMod d n (f (getMod d n))

/-- Channels of R301. -/
def chReq : BitVec 2 := 0
def chRsp : BitVec 2 := 1
def chCtrl : BitVec 2 := 2

def credits (m : Module) (ch : BitVec 2) : Nat := match ch.toNat with
  | 0 => m.credReq.toNat
  | 1 => m.credRsp.toNat
  | _ => m.credCtrl.toNat

def addCredits (ch : BitVec 2) (k : BitVec 32) (m : Module) : Module := match ch.toNat with
  | 0 => { m with credReq := m.credReq + k }
  | 1 => { m with credRsp := m.credRsp + k }
  | 2 => { m with credCtrl := m.credCtrl + k }
  | _ => m

/-- States of a module (R328). -/
def msDown : BitVec 3 := 0
def msTraining : BitVec 3 := 1
def msActive : BitVec 3 := 2
def msRetrain : BitVec 3 := 3
def msDraining : BitVec 3 := 4

/-- A module that carries flits. -/
def modCarries (m : Module) : Bool := (m.state == msActive || m.state == msDraining) && !m.broken

/-- A group is started only with every credit it needs held, and with room in the replay buffer (R310, R312). -/
def canSend (m : Module) (i : TxItem) : Bool :=
  modCarries m && decide (i.flits ≤ credits m i.chan) && decide (m.replay.length + i.flits ≤ 64)

/-- The flits of a group sent: sequence numbers taken, kept in the replay buffer, credits spent. -/
def sendGroup (i : TxItem) (m : Module) : Module :=
  let m1 := addCredits i.chan (0 - BitVec.ofNat 32 i.flits) m
  { m1 with txSeq := m.txSeq + BitVec.ofNat 8 i.flits,
            replay := m.replay ++ (List.range i.flits).map (fun k => m.txSeq + BitVec.ofNat 8 k) }

/-- What waits at a module leaves it in order, channel by channel; `blocked` holds the channels that wait. -/
def pumpItems : List TxItem → List (BitVec 2) → Module → Module × List TxItem × List TxItem
  | [], _, m => (m, [], [])
  | i :: rest, blocked, m =>
    if blocked.contains i.chan || !canSend m i then
      let (m1, sent, kept) := pumpItems rest (i.chan :: blocked) m
      (m1, sent, i :: kept)
    else
      let (m1, sent, kept) := pumpItems rest blocked (sendGroup i m)
      (m1, i :: sent, kept)

/-- The channels whose freed buffers have credits still to return. -/
def dueOn (m : Module) : List Nat := (if m.dueReq = 0 then [] else [0]) ++ (if m.dueRsp = 0 then [] else [1]) ++ (if m.dueCtrl = 0 then [] else [2])

def dueCount (m : Module) (ch : Nat) : Nat := match ch with
  | 0 => min 63 m.dueReq
  | 1 => min 63 m.dueRsp
  | 2 => min 63 m.dueCtrl
  | _ => 0

/-- Credits of one channel returned, at most 63 (R310, R311). -/
def returnOn (ch : Nat) (m : Module) : Module :=
  let k := dueCount m ch
  match ch with
  | 0 => { m with dueReq := m.dueReq - k, retReq := m.retReq + BitVec.ofNat 32 k }
  | 1 => { m with dueRsp := m.dueRsp - k, retRsp := m.retRsp + BitVec.ofNat 32 k }
  | 2 => { m with dueCtrl := m.dueCtrl - k, retCtrl := m.retCtrl + BitVec.ofNat 32 k }
  | _ => m

/-- The CREDIT field of the next flit sent, two channels at most (R301), and the module once it is sent. -/
def creditField (m : Module) : BitVec 16 × Module :=
  let a := (dueOn m)[0]?.getD 3
  let b := (dueOn m)[1]?.getD 3
  (packed 16 [(14, 2, a), (8, 6, dueCount m a), (6, 2, b), (0, 6, dueCount m b)], returnOn b (returnOn a m))

/-- The CREDIT fields that return something, over the flits just sent. -/
def creditFields : List (BitVec 8) → Module → List (BitVec 8 × BitVec 16) × Module
  | [], m => ([], m)
  | s :: rest, m =>
    if (dueOn m).isEmpty then ([], m)
    else
      let (f, m1) := creditField m
      let (l, m2) := creditFields rest m1
      ((s, f) :: l, m2)

/-- A NOP sent for the credits that no other outgoing flit can carry (R302). -/
def sendNop (n : Nat) (d : Die) : Die :=
  let m := getMod d n
  if (dueOn m).isEmpty || !modCarries m || 64 ≤ m.replay.length then d
  else
    let (f, m1) := creditField m
    send (putMod d n { m1 with txSeq := m.txSeq + 1, replay := m.replay ++ [m.txSeq] }) (.credits (BitVec.ofNat 8 n) m.txSeq true f)

/-- A group sent is counted: credits of class 2, responses of class 1. -/
def noteSent (d : Die) (i : TxItem) : Die :=
  let d1 := cons (send d i.what) 2 i.flits 0
  match i.what with
  | .response _ _ _ _ => cons d1 1 0 1
  | _ => d1

/-- What a module can send, sent, with the credits its flits carry back; without an RX clock every module is held (R325). -/
def pumpMod (n : Nat) (d : Die) : Die :=
  if d.link.rxLoss then d
  else
    let m := getMod d n
    let (m1, sent, kept) := pumpItems m.queue [] m
    let seqs := (List.range ((sent.map (·.flits)).sum)).map (fun k => m.txSeq + BitVec.ofNat 8 k)
    let (fields, m2) := creditFields seqs m1
    fields.foldl (fun e p => send e (.credits (BitVec.ofNat 8 n) p.1 false p.2)) (sent.foldl noteSent (putMod d n { m2 with queue := kept }))

/-- The module that carries what is routed to module n: itself, or once it is unrepairable the lowest of its gate that carries
flits (R315). -/
def carrier (d : Die) (n : Nat) : Nat :=
  if (getMod d n).broken then (((List.range 6).map (· + n / 6 * 6)).find? (fun k => modCarries (getMod d k))).getD n else n

/-- A group handed to a module. -/
def emit (d : Die) (n : Nat) (ch : BitVec 2) (flits : Nat) (o : Out) : Die :=
  let k := carrier d n
  pumpMod k (modMod d k (fun m => { m with queue := m.queue ++ [⟨ch, flits, o⟩] }))

/-- The module of a gate that carries a line. -/
def lineModule (gate : Nat) (addr : Nat) : Nat := 6 * gate + addr / 128 % 512 % 6

def gateCount (mask : BitVec 32) : Nat := ((List.range 32).filter (fun g => bitB mask g)).length

/-- The lowest gate of the agreed mask. -/
def controlGate (d : Die) : Nat := ((List.range 32).find? (fun g => bitB d.link.agreed g)).getD 0

/-- A flit on the control module. -/
def emitCtrl (d : Die) (o : Out) : Die := emit d (6 * controlGate d) chCtrl 1 o

def servingGate (d : Die) (col : Nat) : BitVec 5 := tabGet 0 d.mesh.gateMap col

/-- The lowest free tag of a gate (R306). -/
def gateTag (d : Die) (g : BitVec 5) : Option (BitVec 12) :=
  let used := (d.link.tags.filter (fun t => t.gate == g)).map (·.tag)
  ((List.range (used.length + 1)).find? (fun n => !used.contains (BitVec.ofNat 12 n))).bind (fun n =>
    if n < 4096 then some (BitVec.ofNat 12 n) else none)

/-- A request that has reached its gate: it takes a tag and goes to its module, or waits for one. -/
def gateSend (d : Die) (r : GateReq) : Die :=
  match gateTag d r.gate with
  | none => { d with link := { d.link with atGate := d.link.atGate ++ [r] } }
  | some tag =>
    let d1 := { d with link := { d.link with tags := d.link.tags ++ [⟨r.gate, tag, r.write, r.addr, r.who⟩] } }
    emit (cons d1 0 1 0) (lineModule r.gate.toNat r.addr.toNat) chReq (if r.data.isSome then 2 else 1)
      (.request r.gate tag r.addr r.mask r.data)

/-- A response to a hub request, on the module that carried it. -/
def emitResponse (d : Die) (gate : BitVec 5) (addr : Nat) (o : Out) (flits : Nat) : Die :=
  emit d (lineModule gate.toNat addr) chRsp flits o

end Sys2Proof.Machine
end

