-- ==== Sys2Proof/Machine/Sequencer.lean ====
section
/-! DEFINITION. Control and scalar instructions: NOP, HALT, BR, BRC, LOOP, WAITEV, SALU, SLI, SCMP (R139 to R142). -/

namespace Sys2Proof.Machine

/-! ### Comparison (R139) -/

/-- `a < b` of two values that are no NaN. -/
def xLt (a b : XVal) : Bool :=
  match a, b with
  | .nan, _ => false
  | _, .nan => false
  | .inf n, .inf m => n && !m
  | .inf n, .fin _ _ _ => n
  | .fin _ _ _, .inf m => !m
  | x, y => dyLt (xDy x) (xDy y)

/-- The condition codes of R139. -/
def condHolds (cond : Nat) (a b : BitVec 64) : Bool :=
  match cond with
  | 0 => a == b
  | 1 => a != b
  | 2 => a.slt b
  | 3 => !a.slt b
  | 4 => a.ult b
  | 5 => !a.ult b
  | 6 => xLt (decodeFP32 (a.setWidth 32)) (decodeFP32 (b.setWidth 32))
  | _ =>
    let x := decodeFP32 (a.setWidth 32)
    let y := decodeFP32 (b.setWidth 32)
    !xIsNan x && !xIsNan y && !xLt x y

/-- The second operand: a register, or IMM16 sign-extended. -/
def opnd2 (e : QEntry) (immf : Bool) (reg imm : Nat) : BitVec 64 :=
  if immf then BitVec.ofInt 64 (sext 16 imm) else opnd e reg

/-- The SALU operations of R139; none for the reserved codes 14 and 15. -/
def saluOp (op : Nat) (a b : BitVec 64) : Option (BitVec 64) :=
  match op with
  | 0 => some (a + b)
  | 1 => some (a - b)
  | 2 => some (a &&& b)
  | 3 => some (a ||| b)
  | 4 => some (a ^^^ b)
  | 5 => some (a <<< (b.toNat % 64))
  | 6 => some (a >>> (b.toNat % 64))
  | 7 => some (a.sshiftRight (b.toNat % 64))
  | 8 => some (a * b)
  | 9 => some (if a.slt b then a else b)
  | 10 => some (if a.slt b then b else a)
  | 11 => some (if a.ult b then a else b)
  | 12 => some (if a.ult b then b else a)
  | 13 => some a
  | _ => none

/-! ### Branches -/

/-- A taken branch (R139, R137, R140): outside 0 to 4,095 it raises PC_RANGE. -/
def takeBranch (c : CoreId) (t : Bool) (d : Die) (e : QEntry) : Die :=
  let target : Int := e.pc + sext 16 (fld e.word 0 16)
  if target < 0 ∨ 4095 < target then entryFault d c t e cfPcRange 0
  else modThread d c t (fun th => { th with pc := target.toNat, loops := popLoops target th.loops, dbgStep := false })

def bodyBr (c : CoreId) (t : Bool) (d : Die) (e : QEntry) : Die := takeBranch c t d e

def bodyBrc (c : CoreId) (t : Bool) (d : Die) (e : QEntry) : Die :=
  let w := e.word
  if condHolds (fld w 51 3) (opnd e (fld w 45 6)) (opnd2 e (bitB w 38) (fld w 39 6) (fld w 16 16))
  then takeBranch c t d e
  else seqStep c t id d

/-- LOOP (R140). -/
def bodyLoop (c : CoreId) (t : Bool) (d : Die) (e : QEntry) : Die :=
  let w := e.word
  let len := fld w 35 12
  let count := if bitB w 53 then fld w 16 16 else (opnd e (fld w 47 6)).toNat
  let th := getThread (getCore d c) t
  if len = 0 then entryFault d c t e cfIllegalOpcode 0
  else if 4095 < e.pc + len then entryFault d c t e cfPcRange 0
  else if count = 0 then
    match loopBack e.pc th.loops with
    | (pc, ls) => modThread d c t (fun th =>
        { th with pc := if pc = e.pc + 1 then e.pc + len + 1 else pc, loops := ls, dbgStep := false })
  else if th.loops.length = 4 then entryFault d c t e cfLoopDepth 0
  else if (match th.loops with | [] => false | f :: _ => decide (f.stop < e.pc + len)) then entryFault d c t e cfLoopNest 0
  else seqStep c t (fun th => { th with loops := ⟨e.pc + 1, e.pc + len, count⟩ :: th.loops }) d

/-! ### Waits -/

def queuesEmpty (th : Thread) : Bool :=
  th.feed.isEmpty && th.edge.isEmpty && th.vec.isEmpty && th.port.isEmpty && th.ldg.isEmpty && th.msg.isEmpty

def getWb (x : Core) (n : Nat) : Waybill := tabGet Waybill.reset x.waybills n
def putWb (x : Core) (n : Nat) (w : Waybill) : Core := { x with waybills := tabSet Waybill.reset x.waybills n w }

/-! ### Waybill fields (R167) -/

def wbOf (w : Waybill) (lo n : Nat) : Nat := fld w.bits lo n
def wbStamp (w : Waybill) : Bool := bitB w.bits 60
def wbCaravan (w : Waybill) : Bool := bitB w.bits 59
def wbNext (w : Waybill) : Bool := bitB w.bits 58
def wbRing (w : Waybill) : Nat := wbOf w 55 3
def wbOut (w : Waybill) : Bool := bitB w.bits 54
def wbKind (w : Waybill) : Nat := wbOf w 52 2
def wbFar (w : Waybill) : Nat := wbOf w 0 48
def wbAxis (w : Waybill) : Bool := bitB w.bits 101
def wbFmt (w : Waybill) : Nat := wbOf w 96 5
def wbRows (w : Waybill) : Nat := wbOf w 80 16
def wbRowBytes (w : Waybill) : Nat := wbOf w 64 16
def wbScaleOff (w : Waybill) : Int := sext 32 (wbOf w 160 32)
def wbStride0 (w : Waybill) : Int := sext 32 (wbOf w 128 32)
def wbCount (w : Waybill) (i : Nat) : Nat := wbOf w (192 + 16 * i) 16
def wbStride (w : Waybill) (i : Nat) : Int := sext 48 (wbOf w (256 + 64 * i) 48)
def wbBoff (w : Waybill) : Nat := wbOf w 480 16
def wbStampBase (w : Waybill) : Nat := wbOf w 448 32

def wbSt (w : Waybill) : Nat := w.state.toNat
def wbTiles (w : Waybill) : Nat := wbCount w 0 * wbCount w 1 * wbCount w 2

def wbFormat (w : Waybill) : Option Format := formatOf (wbFmt w)

/-- E and SB of R168. -/
def wbElems (w : Waybill) (f : Format) : Nat := wbRowBytes w * 8 / f.width
def wbScaleBytes (w : Waybill) (f : Format) : Nat :=
  if !f.mx then 0 else if wbAxis w then wbRows w / 32 * wbElems w f else wbRows w * (wbElems w f / 32)

/-- Bytes of one tile in the buffer. -/
def wbTileBytes (w : Waybill) : Nat :=
  match wbFormat w with
  | some f => wbRows w * wbRowBytes w + wbScaleBytes w f
  | none => 0

/-- The RUNNING waybill that a ring's own drains feed (R177): FARKIND NONE at a caravan's head. 8 for none. -/
def ownWb (x : Core) (n : Nat) : Nat :=
  ((List.range 8).find? (fun j => let w := getWb x j; wbSt w == 3 && wbRing w == n && w.origin == .own)).getD 8

/-- The event levels of R142. -/
def eventLevel (x : Core) (t : Bool) (bit : Nat) : Bool :=
  let th := getThread x t
  match bit with
  | 8 => th.tallyEvent
  | 9 => th.unacked == 0
  | 10 => th.vec.isEmpty && th.vecWork.isEmpty
  | 11 => th.ldg.isEmpty && th.ldgWork.isEmpty
  | 12 => th.feed.isEmpty && th.edge.isEmpty && !halfBusy x (threadHalf x t)
  | 13 => (List.range 8).all (fun n => (getWb x n).thread != t || !(fld (getWb x n).state 0 3 == 2 ||
      fld (getWb x n).state 0 3 == 3 || fld (getWb x n).state 0 3 == 4))
  | n => if n < 8 then headFull (getRing x n) else false

/-- Whether a WAITEV's condition is met; bits 14 and 15 are treated as 0, and a mask of 0 is met at once (R142). -/
def waitevMet (x : Core) (t : Bool) (all : Bool) (mask : BitVec 16) : Bool :=
  let bits := (List.range 14).filter (fun i => mask.getLsbD i)
  bits.isEmpty || (if all then bits.all (eventLevel x t) else bits.any (eventLevel x t))

/-- The thread resumes (R142): tally event bit 8 is consumed by the WAITEV it wakes, and the halves it drives owe a stagger
hold (R79). -/
def resumeWaitev (x : Core) (t : Bool) (mask : BitVec 16) : Core :=
  let th := getThread x t
  let woke := mask.getLsbD 8 && th.tallyEvent
  let x1 := setThread x t (advance { th with wait := .none, tallyEvent := if woke then false else th.tallyEvent })
  if woke then
    let hs := threadHalf x t
    { x1 with stagger0 := x1.stagger0 || colIn hs 0, stagger1 := x1.stagger1 || colIn hs 16 }
  else x1

def bodyWaitev (c : CoreId) (t : Bool) (d : Die) (e : QEntry) : Die :=
  let all := bitB e.word 53
  let mask : BitVec 16 := e.word.extractLsb' 0 16
  let x := getCore d c
  if waitevMet x t all mask then setCore d c (resumeWaitev x t mask)
  else modThread d c t (fun th => { th with wait := .waitev all mask })

/-- WAITEV_RESUME (R142). -/
def effWaitevResume (c : CoreId) (t : Bool) (d : Die) : Die :=
  let x := getCore d c
  match (getThread x t).wait with
  | .waitev all mask => if waitevMet x t all mask then setCore d c (resumeWaitev x t mask) else d
  | _ => d

/-- What a HALT waits for (R141). -/
def haltReady (x : Core) (t : Bool) : Bool :=
  let th := getThread x t
  queuesEmpty th && !halfBusy x (threadHalf x t) && th.unacked == 0 && th.stampsHeld == 0 &&
  !x.stampWait.any (fun p => p.1 == t)

def homeDie (id : BitVec 32) : BitVec 2 := id.extractLsb' 30 2

/-- A thread's completion as the home Steward hears it (R141, R280, R282): the first nonzero exit code, and which thread of
which core entry; `alone` says that the core's other thread runs no longer, or was never started. -/
def noteHalt (die : BitVec 2) (c : CoreId) (t alone : Bool) (exit : BitVec 16) (i : Itin) : Itin :=
  let mark (e : ItinCore) : ItinCore :=
    if e.die = die && e.core = c then
      match e.half, t with
      | .h1, true => { e with halted := true }
      | .h0, false => { e with halted := true }
      | .full, false => { e with halted := true, halted1 := e.halted1 || alone }
      | .full, true => { e with halted1 := true }
      | _, _ => e
    else e
  let i1 := { i with cores := i.cores.map mark }
  if exit ≠ 0 && i1.exitCode = 0 then
    { i1 with exitCode := exit, exitCore := BitVec.ofNat 16 (c.toNat + 512 * die.toNat) }
  else i1

def orFlags (f : BitVec 5) (i : Itin) : Itin := { i with flags := i.flags ||| f }

/-- OVF, INV, SPC of a CORE_VSTAT in the order of the record's FLAGS (R282). -/
def vstatFlags (v : BitVec 64) : BitVec 5 :=
  BitVec.ofNat 5 (b2n (bitB v 60) + 2 * b2n (bitB v 61) + 4 * b2n (bitB v 62))

/-- The thread stops and its EXIT goes to the Steward; the last thread of a split core leaves split mode (R141, R280). -/
def doHalt (c : CoreId) (t : Bool) (exit : BitVec 16) (d : Die) : Die :=
  let x := getCore d c
  let th := getThread x t
  let x1 := setThread x t { th with run := .halted, wait := .none, exitCode := exit, dbgStep := false }
  let over_ (r : Run) : Bool := r == .halted || r == .idle
  let alone := over_ (getThread x1 (!t)).run
  let x2 := if x1.split && over_ x1.t0.run && over_ x1.t1.run then leaveSplit d.freeCtr x1 else x1
  let d1 := drew (setCore d c x2)
  match th.itin with
  | none => d1
  | some id =>
    if homeDie id = d.ident.dieNum then
      modItin d1 id (fun i => orFlags (vstatFlags th.vstat) (noteHalt d.ident.dieNum c t alone exit i))
    else
      let flags := (((findItin d1 id).map (·.flags)).getD 0) ||| vstatFlags th.vstat
      let d2 := modItin (setCore d1 c (emptyLog x2)) id (noteHalt d.ident.dieNum c t alone exit)
      sendPeer d2 (homeDie id) (.halted id (c.setWidth 11 + (d.ident.dieNum.setWidth 11 <<< 9)) t alone exit flags (flagEntries x2) x2.flagLost)

/-- HALT (R141): held as a sequencer wait until everything it waits for holds; a HALT commanded again while the thread
waits asks the question again. -/
def effHalt (c : CoreId) (t : Bool) (w : BitVec 58) (d : Die) : Die :=
  let x := getCore d c
  match (getThread x t).wait with
  | .halt exit => if haltReady x t then doHalt c t exit d else d
  | _ => dispatch c t 0x01 w (fun d e =>
      if haltReady (getCore d c) t then doHalt c t (e.word.extractLsb' 0 16) d
      else modThread d c t (fun th => { th with wait := .halt (e.word.extractLsb' 0 16) })) d

/-! ### Scalar bodies -/

def bodyNop (c : CoreId) (t : Bool) (d : Die) (_ : QEntry) : Die := seqStep c t id d

def bodySalu (c : CoreId) (t : Bool) (d : Die) (e : QEntry) : Die :=
  let w := e.word
  match saluOp (fld w 50 4) (opnd e (fld w 38 6)) (opnd2 e (bitB w 31) (fld w 32 6) (fld w 0 16)) with
  | some v => seqStep c t (fun th => setThreadReg th (fld w 44 6) v) d
  | none => entryFault d c t e cfIllegalOpcode 0

def bodySli (c : CoreId) (t : Bool) (d : Die) (e : QEntry) : Die :=
  let w := e.word
  let rd := fld w 44 6
  if bitB w 43 then
    if 32 ≤ rd then entryFault d c t e cfIllegalOpcode 0
    else seqStep c t (fun th => setThreadReg th rd (putFld (threadReg th rd) 32 32 (fld w 0 32))) d
  else seqStep c t (fun th => setThreadReg th rd (BitVec.ofInt 64 (sext 32 (fld w 0 32)))) d

def bodyScmp (c : CoreId) (t : Bool) (d : Die) (e : QEntry) : Die :=
  let w := e.word
  let r := condHolds (fld w 51 3) (opnd e (fld w 42 6)) (opnd2 e (bitB w 35) (fld w 36 6) (fld w 0 16))
  let pd := fld w 48 3
  match fld w 33 2 with
  | 0 => seqStep c t (fun th => { th with preds := writePred th.preds pd r }) d
  | 1 => seqStep c t (fun th => { th with preds := writePred th.preds pd (readPred th.preds pd && r) }) d
  | 2 => seqStep c t (fun th => { th with preds := writePred th.preds pd (readPred th.preds pd || r) }) d
  | _ => entryFault d c t e cfIllegalOpcode 0

/-! ### The commands -/

def execNop (c : CoreId) (t : Bool) (w : BitVec 58) (s : State) := onDie (dispatch c t 0x00 w (bodyNop c t)) s
def execHalt (c : CoreId) (t : Bool) (w : BitVec 58) (s : State) := onDie (effHalt c t w) s
def execBr (c : CoreId) (t : Bool) (w : BitVec 58) (s : State) := onDie (dispatch c t 0x02 w (bodyBr c t)) s
def execBrc (c : CoreId) (t : Bool) (w : BitVec 58) (s : State) := onDie (dispatch c t 0x03 w (bodyBrc c t)) s
def execLoop (c : CoreId) (t : Bool) (w : BitVec 58) (s : State) := onDie (dispatch c t 0x04 w (bodyLoop c t)) s
def execWaitev (c : CoreId) (t : Bool) (w : BitVec 58) (s : State) := onDie (dispatch c t 0x06 w (bodyWaitev c t)) s
def execWaitevResume (c : CoreId) (t : Bool) (s : State) := onDie (effWaitevResume c t) s
def execSalu (c : CoreId) (t : Bool) (w : BitVec 58) (s : State) := onDie (dispatch c t 0x08 w (bodySalu c t)) s
def execSli (c : CoreId) (t : Bool) (w : BitVec 58) (s : State) := onDie (dispatch c t 0x09 w (bodySli c t)) s
def execScmp (c : CoreId) (t : Bool) (w : BitVec 58) (s : State) := onDie (dispatch c t 0x0A w (bodyScmp c t)) s

end Sys2Proof.Machine
end

