-- ==== Sys2Proof/Machine/LedgerOps.lean ====
section
/-! DEFINITION. Ledger entries, handles, the units' caches and lookups, holds (R206 to R216, R228), and requests through the
gates (R303, R306). -/

namespace Sys2Proof.Machine

/-! ### Handles and directory entries (R207, R208) -/

def handleCtx (h : BitVec 48) : Nat := fld h 24 24
def handleIdx (h : BitVec 48) : Nat := fld h 0 24
def handleSlot (h : BitVec 48) : Nat := fld h 24 16
def handleGen (h : BitVec 48) : Nat := fld h 40 8
def mkHandle (ctx : BitVec 24) (i : Nat) : BitVec 48 := BitVec.ofNat 48 (ctx.toNat * 2 ^ 24 + i % 2 ^ 24)

def dirEn (d : Die) : Bool := bitB d.ledger.dirBase 63
def dirAddr (d : Die) (slot : Nat) : Nat := fld d.ledger.dirBase 20 28 * 2 ^ 20 + 16 * slot

def pkg128 (d : Die) (a : Nat) : BitVec 128 := BitVec.ofNat 128 (memLE d.pkg a 16)
def putPkg128 (d : Die) (a : Nat) (v : BitVec 128) : Die := { d with pkg := memPutLE d.pkg a 16 v.toNat }

def dirGen (e : BitVec 128) : Nat := fld e 120 8
def dirOpen (e : BitVec 128) : Bool := bitB e 119
def dirMig (e : BitVec 128) : Bool := bitB e 118
def dirMigTier (e : BitVec 128) : Nat := fld e 116 2
def dirRetired (e : BitVec 128) : Bool := bitB e 115
def dirCount (e : BitVec 128) : Nat := fld e 72 24
def dirArray (e : BitVec 128) : Nat := fld e 0 48

def dirEntry (d : Die) (slot : Nat) : BitVec 128 := pkg128 d (dirAddr d slot)

/-- The directory entry of an open context, none when the handle's context is stale or the units serve no lookups. -/
def liveCtx (d : Die) (ctx : Nat) : Option (BitVec 128) :=
  let e := dirEntry d (ctx % 65536)
  if dirEn d && dirOpen e && dirGen e == ctx / 65536 then some e else none

/-- Where the entry of a handle lies; none for a stale handle (R207). -/
def entryAddr (d : Die) (h : BitVec 48) : Option Nat :=
  match liveCtx d (handleCtx h) with
  | some e => if handleIdx h < dirCount e then some (dirArray e + 16 * handleIdx h) else none
  | none => none

/-! ### Berth entries (R210 to R213) -/

def tierLodge : Nat := 0
def tierPackage : Nat := 1
def tierCellar : Nat := 2
def tierNone : Nat := 3
def stFree : Nat := 0
def stValid : Nat := 1
def stMoving : Nat := 2
def stLost : Nat := 3

def entTier (e : BitVec 128) : Nat := fld e 126 2
def entState (e : BitVec 128) : Nat := fld e 124 2
def entPinned (e : BitVec 128) : Bool := bitB e 123
def entRecomp (e : BitVec 128) : Bool := bitB e 122
def entOldf (e : BitVec 128) : Bool := bitB e 121
def entDtier (e : BitVec 128) : Nat := fld e 119 2
def entClass (e : BitVec 128) : Nat := fld e 115 4
def entAge (e : BitVec 128) : Nat := fld e 96 16
def entLoc (e : BitVec 128) : Nat := fld e 48 48
def entDest (e : BitVec 128) : Nat := fld e 0 48

/-- An entry with its place and state replaced. -/
def entPut (e : BitVec 128) (tier state dtier loc dest : Nat) (oldf : Bool) : BitVec 128 :=
  putFld (putFld (putFld (putFld (putFld (putFld e 126 2 tier) 124 2 state) 121 1 (b2n oldf)) 119 2 dtier) 48 48 loc) 0 48 dest

/-- The combinations of R212. -/
def entLegal (e : BitVec 128) : Bool :=
  let t := entTier e
  match entState e with
  | 0 => t == 3 && !entOldf e
  | 1 => t != 3 || !entOldf e
  | 2 => t != 3 && !entOldf e
  | _ => t == 3 && !entOldf e

/-- A LODGE location's parts (R211). -/
def locDie (l : Nat) : Nat := l / 2 ^ 46 % 4
def locCore (l : Nat) : Nat := l / 2 ^ 37 % 512
def locSlot (l : Nat) : Nat := l / 2 ^ 31 % 64
def mkLodgeLoc (die core slot : Nat) : Nat := die * 2 ^ 46 + core * 2 ^ 37 + slot * 2 ^ 31

/-- An entry as memory holds it; while a change of it waits to be committed, a reader may see either (R214). -/
def entryNow (d : Die) (a : Nat) (fr : BitVec 64) : BitVec 128 :=
  match d.ledger.writes.find? (fun w => w.addr == a) with
  | some w => if bitB fr 0 then w.value else pkg128 d a
  | none => pkg128 d a

/-- The newest value of an entry, as the Steward that changes it knows it. -/
def entryLast (d : Die) (a : Nat) : BitVec 128 :=
  match d.ledger.writes.reverse.find? (fun w => w.addr == a) with
  | some w => w.value
  | none => pkg128 d a

/-- A change of an entry by the Steward: it waits for its commit (R214). -/
def stewWrite (d : Die) (a : Nat) (v : BitVec 128) : Die :=
  { d with ledger := { d.ledger with writes := d.ledger.writes ++ [⟨a, v⟩] } }

/-! ### Contexts and lost berths (R198, R201, R226) -/

/-- The directory slots of the open contexts, with their entries as memory holds them (R207). -/
def openCtxs (d : Die) : List (Nat × BitVec 128) :=
  if dirEn d then ((List.range 65536).map (fun s => (s, dirEntry d s))).filter (fun p => dirOpen p.2) else []

def ctxId (slot : Nat) (e : BitVec 128) : BitVec 24 := BitVec.ofNat 24 (dirGen e * 65536 + slot)

/-- Every berth of the open contexts: its handle and the address of its entry. -/
def allBerths (d : Die) : List (BitVec 48 × Nat) :=
  (openCtxs d).flatMap (fun p => (List.range (dirCount p.2)).map (fun i => (mkHandle (ctxId p.1 p.2) i, dirArray p.2 + 16 * i)))

/-- A location given back (class LOCATION of R414). -/
def freeLoc (d : Die) (tier loc : Nat) : Die :=
  if d.ledger.used.contains (BitVec.ofNat 2 tier, BitVec.ofNat 48 loc) then
    cons { d with ledger := { d.ledger with used := d.ledger.used.erase (BitVec.ofNat 2 tier, BitVec.ofNat 48 loc) } } 9 0 1
  else d

/-- A berth whose content is gone: its entry becomes LOST, its location is released, and the loss is reported (R226). -/
def markLost (d : Die) (h : BitVec 48) (a : Nat) : Die :=
  let e := entryLast d a
  let d1 := stewWrite (if entTier e = tierNone then d else freeLoc d (entTier e) (entLoc e)) a (entPut e tierNone stLost 0 0 0 false)
  let ctx : BitVec 32 := BitVec.ofNat 32 (handleCtx h)
  postEventTo d1 0 (if entRecomp e then 0x0011 else 0x0010) 0 ctx (leBytes 8 h.toNat)

/-- The berths whose authoritative copy a test on Lodge locations picks are marked LOST. -/
def loseBerths (d : Die) (gone : Nat → Bool) : Die :=
  (allBerths d).foldl (fun e p =>
    let v := entryLast e p.2
    if entTier v = tierLodge && (entState v == stValid || entState v == stMoving) && gone (entLoc v) then markLost e p.1 p.2 else e) d

/-- An uncorrectable error is logged when none is, counted, its row retired, and the berth that holds it LOST; a row that holds
the poison code of a retirement is not retired again (R201, R204). -/
def noteUe (d : Die) (src : Nat) (key : Nat) : Die :=
  let k := key / 16384
  let log := putFld (putFld (putFld (putFld (putFld 0#64 63 1 1) 61 2 src) 52 9 k) 48 4 (key / 1024)) 38 10 key
  let l := d.lodge
  let d1 := { d with lodge := { l with
    ueLog := if bitB l.ueLog 63 then l.ueLog else log,
    slice := tabMod 0 l.slice k (sliceCount true) } }
  let d2 := if l.poison.contains key then d1 else retireRow d1 key true
  loseBerths d2 (fun loc => loc == mkLodgeLoc d.ident.dieNum.toNat k (key % 1024 / 16))

/-- Where an error was found, as LDG_UE_LOG.SRC names it (R204). -/
def srcFeed : Nat := 0
def srcPorter : Nat := 1
def srcOutside : Nat := 2
def srcScrub : Nat := 3

/-- One row read and checked: an uncorrectable error is handled by R201, a corrected one counts (R191). -/
def senseRow (src : Nat) (d : Die) (key : Nat) : Die :=
  if d.lodge.ueMark.contains key then noteUe d src key
  else if d.lodge.ceMark.contains key then noteCe d key else d

/-- A slice range read: every row of it is checked. -/
def senseRows (src : Nat) (c : CoreId) (off n : Nat) (d : Die) : Die := (rowsIn c off n).foldl (senseRow src) d

/-- Bytes written to a core's slice. A row covered whole is written directly and its poison ends (R201); any other row is read and
checked first, and written back with a fresh code, which an uncorrectable row does not get (R191, R201; DEDUCED, log entry 136). -/
def putSlice (src : Nat) (d : Die) (c : CoreId) (off : Nat) (l : List Byte) : Die :=
  let all := rowsIn c off l.length
  let whole := wholeRows c off l.length
  let d1 := (all.filter (fun k => !whole.contains k)).foldl (senseRow src) d
  let g := d1.lodge
  { d1 with mem := memWrite d1.mem (sliceBase c + off) l,
            lodge := { g with ueMark := g.ueMark.filter (fun k => !whole.contains k),
                              poison := g.poison.filter (fun k => !whole.contains k),
                              ceMark := g.ceMark.filter (fun k => !all.contains k) } }

/-! ### Lookup results (R156) -/

def lookupNone : BitVec 64 := putFld 0#64 62 2 3

/-- What a LOOKUP by core `c` of this die writes for an entry. -/
def lookupWord (d : Die) (c : CoreId) (e : BitVec 128) : BitVec 64 :=
  let t := entTier e
  let w := putFld (putFld (putFld (putFld 0#64 62 2 t) 60 2 (entState e)) 59 1 (b2n (entPinned e))) 58 1 (b2n (entRecomp e))
  if t = tierLodge then
    let own := locDie (entLoc e) == d.ident.dieNum.toNat && locCore (entLoc e) == c.toNat
    putFld (putFld (putFld w 57 1 (b2n own)) 48 9 (locCore (entLoc e))) 0 48 (locSlot (entLoc e) * 0x10000)
  else if t = tierPackage then putFld w 0 48 (entLoc e)
  else w

/-! ### The units (R31, R214, R216) -/

/-- The quarter of a core (R24, R31). -/
def quarterOf (c : CoreId) : BitVec 2 := BitVec.ofNat 2 (2 * (c.toNat / 256) + c.toNat % 32 / 16)

/-- Hop count between a core and a quarter's units (R31). -/
def unitHops (q : BitVec 2) (c : CoreId) : Nat :=
  let r := if q.toNat / 2 = 0 then 7 else 8
  let k := if q.toNat % 2 = 0 then 15 else 16
  let a := c.toNat / 32
  let b := c.toNat % 32
  (a - r) + (r - a) + (b - k) + (k - b)

/-- The berth context a thread's itinerary holds: the CONTEXT of its SUBMIT (R276). -/
def threadCtx (d : Die) (c : CoreId) (t : Bool) : Option Nat :=
  match (getThread (getCore d c) t).itin with
  | none => none
  | some id => match findItin d id with
    | some i => some (fld i.context 0 24)
    | none => none

/-- The entry address a thread's lookup resolves to, none when it returns NONE and FREE: a stale handle, or a context not
open to the itinerary. -/
def threadEntry (d : Die) (c : CoreId) (t : Bool) (h : BitVec 48) : Option Nat :=
  if threadCtx d c t = some (handleCtx h) then entryAddr d h else none

/-- Whether unit q can answer a lookup from its caches. -/
def unitHas (d : Die) (q : BitVec 2) (h : BitVec 48) (a : Option Nat) : Bool :=
  !dirEn d || (d.ledger.dirCache.contains (q, handleSlot h) &&
    (match a with | none => true | some a => d.ledger.cache.contains (q, a)))

/-- A berth held, by its entry address. -/
def heldEntry (d : Die) (a : Nat) : Bool := d.ledger.holds.any (fun h => entryAddr d h.handle == some a)

/-- A unit's AGE written back to the table, and to the changes of the entry that wait: LODGE and PACKAGE entries only (R228). -/
def writeAge (d : Die) (a : Nat) (age : BitVec 16) : Die :=
  let e := pkg128 d a
  if entTier e ≤ 1 then
    let d1 := putPkg128 d a (putFld e 96 16 age.toNat)
    { d1 with ledger := { d1.ledger with writes := d1.ledger.writes.map (fun w =>
      if w.addr = a ∧ entTier w.value ≤ 1 then { w with value := putFld w.value 96 16 age.toNat } else w) } }
  else d

/-- A line of eight entries, and the directory entry, brought into unit q's caches; what no longer fits leaves, oldest
first, held entries staying, and a touched age is written back (R214, R215, R228). -/
def cacheFill (d : Die) (q : BitVec 2) (slot : Nat) (a : Option Nat) : Die :=
  let l := d.ledger
  let dirs := (q, slot) :: l.dirCache.erase (q, slot)
  let mine := dirs.filter (fun p => p.1 == q)
  let dirs' := if 256 < mine.length then (match mine.getLast? with | some p => dirs.erase p | none => dirs) else dirs
  let line := match a with
    | none => []
    | some a => (List.range 8).map (fun i => (q, a / 128 * 128 + 16 * i))
  let kept := line ++ l.cache.filter (fun p => !line.contains p)
  let own := kept.filter (fun p => p.1 == q)
  let out := ((own.reverse.filter (fun p => !heldEntry d p.2)).take (own.length - 16384))
  let gone := l.touched.filter (fun t => out.contains (t.1, t.2.1))
  let d1 := { d with ledger := { l with dirCache := dirs', cache := kept.filter (fun p => !out.contains p),
                                        touched := l.touched.filter (fun t => !gone.contains t) } }
  gone.foldl (fun e t => writeAge e t.2.1 t.2.2) d1

/-- TOUCH at a unit: the berth's age becomes the current epoch (R156, R228). -/
def touchEntry (d : Die) (q : BitVec 2) (a : Nat) : Die :=
  let l := d.ledger
  { d with ledger := { l with touched := l.touched.filter (fun t => !(t.1 == q && t.2.1 == a)) ++ [(q, a, l.epoch.setWidth 16)] } }

def countLookup (hit : Bool) (q : BitVec 2) (d : Die) : Die :=
  let l := d.ledger
  { d with ledger := if hit then { l with hits := tabMod 0 l.hits q.toNat satInc }
                     else { l with misses := tabMod 0 l.misses q.toNat satInc } }

/-- The lowest tag of 512 that a list does not use. -/
def freeTag (used : List (BitVec 9)) : BitVec 9 :=
  ((List.range 512).find? (fun n => !used.contains (BitVec.ofNat 9 n))).elim 0 (BitVec.ofNat 9)

/-! ### Requests through the gates (R245, R303, R306) -/

/-- The 16 B granules of a line that a byte range touches. -/
def granules (lo n : Nat) : BitVec 8 :=
  BitVec.ofNat 8 ((List.range 8).foldl (fun m i => if lo < 16 * (i + 1) ∧ 16 * i < lo + n then m + 2 ^ i else m) 0)

/-! ### Holds (R215) -/

def takeHold (d : Die) (h : Hold) : Die := { d with ledger := { d.ledger with holds := d.ledger.holds ++ [h] } }

def dropWaybillHold (d : Die) (c : CoreId) (wb : BitVec 3) : Die :=
  { d with ledger := { d.ledger with holds := d.ledger.holds.filter (fun h => h.waybill ≠ some (c, wb)) } }

def dropItinHolds (d : Die) (id : BitVec 32) : Die :=
  { d with ledger := { d.ledger with holds := d.ledger.holds.filter (fun h => !(h.itin == id && h.waybill.isNone)) } }

/-- The die's own window in the package address space (R10). -/
def windowBase (die : Nat) : Nat := 0x100000000000 + die * 0x4000000000

end Sys2Proof.Machine
end

