-- ==== Sys2Proof/Machine/ArrayData.lean ====
section
/-! DEFINITION. What the array computes: streamed and resident operands, the lane steps of an MMA in every cell, checksum
cells, PRELOAD, the values a slot read takes, the comparison, and the packing of outputs (R40 to R54, R66 to R70, R85 to
R97, R113 to R118). -/

namespace Sys2Proof.Machine

/-! ### Operands -/

/-- Element `e` of a plane of `w`-bit containers (R46): two 4-bit values share a byte, lower index in bits [3:0]. -/
def elemCode (rd : Nat → Byte) (w e : Nat) : Nat :=
  if w = 4 then (rd (e / 2)).toNat / 16 ^ (e % 2) % 16
  else leNat ((List.range (w / 8)).map (fun i => rd (e * (w / 8) + i)))

/-- Bytes of a plane of `n` elements. -/
def planeBytes (w n : Nat) : Nat := (n * w + 7) / 8

/-- An operand of an MMA: the value at (step of the traversal, lane, position in the lane), and its block scale as an
exponent; none for the NaN scale (R44, R47). -/
structure Operand where
  kind : ElemKind
  fp32 : Bool
  isInt : Bool
  val : Nat → Nat → Nat → XVal
  scale : Nat → Nat → Nat → Option Int

/-- A streamed operand (R46, R48, R50): lane step by lane step, lanes in order, p consecutive K elements in a lane; the
scale plane follows, one byte per block of 32 K elements, by lane and then by block. -/
def streamOperand (f : Format) (lanes p steps : Nat) (rd : Nat → Byte) : Operand :=
  let plane := planeBytes f.width (steps * lanes * p)
  let blocks := divUp (steps * p) 32
  { kind := f.kind, fp32 := f.cls == .c32, isInt := f.isInt,
    val := fun k l i => decodeElem f.kind (elemCode rd f.width ((k * lanes + l) * p + i)),
    scale := fun k l i => if f.mx then scaleExp (rd (plane + l * blocks + (k * p + i) / 32)).toNat else some 0 }

/-- Latch key of entry e of logical cell (i, j) (R110). -/
def latchKey (i j e : Nat) : Nat := 1024 * i + 32 * j + e

/-- Scale-latch key: four E8M0 entries per row (A resident) or column (B resident) of a half (R67). -/
def scaleKey (h : Bool) (x e : Nat) : Nat := 128 * b2n h + 4 * x + e

/-- The resident operand as cell (i, j) reads it (R67): value `kk` of D along K. `lane` is the row for A, the column for B. -/
def residentOperand (x : Core) (f : Format) (p : Nat) (bSide : Bool) (i j : Nat) : Operand :=
  let lane := if bSide then j else i
  let per := 16 / f.width
  { kind := f.kind, fp32 := false, isInt := f.isInt,
    val := fun k _ n =>
      let kk := k * p + n
      decodeElem f.kind ((tabGet 0 x.latch (latchKey i j (kk / per))).toNat / 2 ^ (f.width * (kk % per)) % 2 ^ f.width),
    scale := fun k _ n => if f.mx then scaleExp (tabGet 0 x.scales (scaleKey (colHalf j) lane ((k * p + n) / 32))).toNat else some 0 }

/-- What an FP32 operand presents in a pass (R42): passes run (high, high), (high, low), (low, high), (low, low); with one
FP32 operand, high then low. -/
def pieceHigh (isA bothFp32 : Bool) (pass : Nat) : Bool :=
  if bothFp32 then (if isA then decide (pass < 2) else pass % 2 == 0) else pass == 0

def pieceOf (o : Operand) (high : Bool) (x : XVal) : XVal :=
  if o.fp32 then (if high then (fp32Pieces x).1 else (fp32Pieces x).2) else x

/-- The decoded fields of an MMA that its arithmetic needs. -/
structure MmaRun where
  mode : BitVec 2          -- accumulator mode
  sat : Bool
  p : Nat
  passes : Nat
  k16 : Nat
  krem : Nat

def mmaSteps (m : MmaRun) : Nat := m.k16 / m.passes

/-- How many positions of a lane step are valid (R50, R143). -/
def validCount (m : MmaRun) (step : Nat) : Nat := if step + 1 = mmaSteps m && m.krem ≠ 0 then m.krem else m.p

/-- The product of two inputs in one pass, from their pieces there (R42). The table of R53 judges an MMA's inputs: a piece that is ZERO
while its input is not adds nothing. -/
def passProduct (ka kb : ElemKind) (sat : Bool) (sc : Option Int) (x y px py : XVal) : TermX :=
  if (xIsZero px && !xIsZero x) || (xIsZero py && !xIsZero y) then ⟨xZero, flNone, false⟩ else product ka kb sat sc px py

/-- The products of lane step k in a cell with operands a and b at lanes la, lb. -/
def laneProducts (m : MmaRun) (a b : Operand) (la lb k : Nat) : List TermX :=
  let s := mmaSteps m
  let step := k % s
  let pass := k / s
  let both := a.fp32 && b.fp32
  (List.range (validCount m step)).map (fun i =>
    let sc := match a.scale step la i, b.scale step lb i with
      | some x, some y => some (x + y)
      | _, _ => none
    let x := a.val step la i
    let y := b.val step lb i
    passProduct a.kind b.kind m.sat sc x y (pieceOf a (pieceHigh true both pass) x) (pieceOf b (pieceHigh false both pass) y))

/-- One cell through an MMA: its register, and the lane step of the first OVF, INV, SPC and zero-times-infinity event. -/
structure CellRun where
  reg : BitVec 52
  ovf : Option Nat
  inv : Option Nat
  spc : Option Nat
  zinf : Option Nat
deriving DecidableEq, Repr

def firstAt (old : Option Nat) (now : Bool) (k : Nat) : Option Nat :=
  match old with
  | some j => some j
  | none => if now then some k else none

/-- One lane step in one data cell (R88, R89): the term is added, and flags the step raises are found apart from those the
register already held. -/
def cellStep (m : MmaRun) (a b : Operand) (la lb : Nat) (r : CellRun) (k : Nat) : CellRun :=
  let ps := laneProducts m a b la lb k
  let lo := termSum (ps.take (m.p / 2))
  let hi := termSum (ps.drop (m.p / 2))
  let bare := mkReg flNone (regPoi r.reg) (regBody r.reg)
  let n := if m.p = 1 then addTerm m.mode bare hi ⟨xZero, flNone, false⟩ else addTerm m.mode bare lo hi
  let f := regFlags n
  { reg := mkReg (flOr (regFlags r.reg) f) (regPoi n) (regBody n),
    ovf := firstAt r.ovf f.ovf k, inv := firstAt r.inv f.inv k, spc := firstAt r.spc f.spc k,
    zinf := firstAt r.zinf (lo.zinf || hi.zinf) k }

def cellRun (m : MmaRun) (a b : Operand) (la lb : Nat) (q : BitVec 52) : CellRun :=
  (List.range m.k16).foldl (cellStep m a b la lb) ⟨q, none, none, none, none⟩

/-! ### Checksum cells (R70, R113, R114) -/

/-- A block-scaled value; a NaN scale makes it NaN. -/
def scaled (x : XVal) (sc : Option Int) : XVal :=
  match sc with
  | none => .nan
  | some k => match x with | .fin n v e => .fin n v (e + k) | y => y

/-- The value an operand presents in a lane, with its block scale. -/
def presented (m : MmaRun) (o : Operand) (isA both : Bool) (lane k i : Nat) : XVal :=
  let step := k % mmaSteps m
  scaled (pieceOf o (pieceHigh isA both (k / mmaSteps m)) (o.val step lane i)) (o.scale step lane i)

/-- One lane step in a checksum cell fed by a sum over `sumLanes` of one operand and lane `l` of the other. -/
def chkStep (m : MmaRun) (exact : Bool) (summed : Nat → Operand) (other : Operand) (sumIsA : Bool) (sumLanes : List Nat)
    (l : Nat) (q : BitVec 52) (k : Nat) : BitVec 52 :=
  let both := (summed (sumLanes.headD 0)).fp32 && other.fp32
  let feeds := (List.range (validCount m (k % mmaSteps m))).map (fun i =>
    (feedSum exact (sumLanes.map (fun s => presented m (summed s) sumIsA both s k i)),
     presented m other (!sumIsA) both l k i))
  let t := feeds.foldl (fun a fv => (xAdd a (xMul fv.1.v fv.2)).1) xZero
  addChk m.mode q t (feeds.any (fun fv => fv.1.sat))

def chkRun (m : MmaRun) (exact : Bool) (summed : Nat → Operand) (other : Operand) (sumIsA : Bool) (sumLanes : List Nat)
    (l : Nat) (q : BitVec 52) : BitVec 52 :=
  (List.range m.k16).foldl (chkStep m exact summed other sumIsA sumLanes l) q

/-! ### A whole MMA -/

/-- Where the operands of an MMA come from, as each cell sees them: `opA i j` and `opB i j`, with the lanes they use. -/
structure Feeds where
  opA : Nat → Nat → Operand
  opB : Nat → Nat → Operand
  exact : Bool

/-- Every cell of the selection after the MMA, as one table of cell runs: data cells only. -/
def mmaCell (x : Core) (q : Nat) (hs : HalfSel) (m : MmaRun) (fd : Feeds) (i j : Nat) : CellRun :=
  cellRun m (fd.opA i j) (fd.opB i j) i (j - colBase hs) (accGet x q i j)

/-- The columns a checksum column sums (R63, R70). -/
def chkCols (col : Nat) : List Nat := if col = 32 then List.range 16 else (List.range 16).map (· + 16)

/-- A checksum cell after the MMA; with checksums disabled it is marked NOCHK (R114, R129). A resident operand's sums are formed from the
data latches: what the checksum latches hold after a RESLOAD accepted with checksums disabled is open, and the model takes the sums R70
would have formed (DESIGN CHOICE, assumption log). -/
def mmaChk (x : Core) (q : Nat) (hs : HalfSel) (m : MmaRun) (fd : Feeds) (en : Bool) (row col : Nat) : BitVec 52 :=
  let old := accGet x q row col
  if !en then mkChk true (regPoi old) (regBody old)
  else if row = 33 then
    chkRun m fd.exact (fun i => fd.opA i col) (fd.opB 0 col) true (List.range 32) (col - colBase hs) old
  else
    chkRun m fd.exact (fun l => fd.opB row (l + colBase hs)) (fd.opA row (colBase hs)) false
      ((chkCols col).map (· - colBase hs)) row old

/-- The register plane after the MMA. -/
def mmaPlane (x : Core) (q : Nat) (hs : HalfSel) (m : MmaRun) (fd : Feeds) (en : Bool) : Core :=
  accUpd x q hs (fun row col _ =>
    if row = 33 || 32 ≤ col then mmaChk x q hs m fd en row col else (mmaCell x q hs m fd row col).reg)

/-- The earlier of two events by cycle of addition, then row, then column (R124). -/
def earlier (a b : Option (Nat × FlagEvent)) : Option (Nat × FlagEvent) :=
  match a, b with
  | none, y => y
  | x, none => x
  | some (t, e), some (u, g) =>
    if t < u || (t == u && (e.row < g.row || (e.row == g.row && (e.col < g.col || (e.col == g.col && e.flag ≤ g.flag)))))
    then some (t, e) else some (u, g)

/-- Relative cycle of lane step k in cell (i, j): P + c(j) + s·k of R71. -/
def stepTime (x : Core) (hs : HalfSel) (s i j k : Nat) : Nat :=
  let p := match x.repair with
    | some r => if r.toNat ≤ i then i + 1 else i
    | none => i
  p + (j - colBase hs) + s * k

/-- The first event of one flag over the tile. -/
def firstEvent (x : Core) (q : Nat) (hs : HalfSel) (m : MmaRun) (fd : Feeds) (s flag : Nat) : Option (Nat × FlagEvent) :=
  ((List.range 32).flatMap (fun i => (List.range (colCount hs)).map (fun n => (i, n + colBase hs)))).foldl
    (fun best (i, j) =>
      let r := mmaCell x q hs m fd i j
      let k := match flag with | 0 => r.ovf | 1 => r.inv | 2 => r.spc | _ => r.zinf
      match k with
      | none => best
      | some k => earlier best (some (stepTime x hs s i j k, ⟨flag, i, j, k, false, false⟩))) none

/-- The first event of each flag of an MMA whose first addition in cell (0, 0) falls in cycle `t` (R71, R125). -/
def mmaEvents (x : Core) (q : Nat) (hs : HalfSel) (m : MmaRun) (fd : Feeds) (s t : Nat) : List (Nat × FlagEvent) :=
  ((List.range 5).filter (· ≠ 3)).filterMap (fun flag => (firstEvent x q hs m fd s flag).map (fun e => (t + e.1, e.2)))

/-! ### PRELOAD (R92) -/

/-- The register plane a PRELOAD leaves: `src i j` is the source value of a data cell. -/
def preloadPlane (x : Core) (q : Nat) (hs : HalfSel) (mode : BitVec 2) (sat en : Bool) (src : Nat → Nat → XVal) : Core :=
  let reg (i j : Nat) : BitVec 52 := preloadReg mode sat (src i j)
  let chk (xs : List XVal) : BitVec 52 :=
    let f := feedSum (mode = accINT48) xs
    let nochk := !en || f.sat || !xIsFin f.v
    if mode = accINT48 then mkChk nochk false (BitVec.ofInt 48 (xInt f.v))
    else mkChk nochk false (floatBody 0 (BitVec.ofNat 32 (rne32Sat f.v).code))
  accUpd x q hs (fun row col _ =>
    if row = 33 then chk ((List.range 32).map (fun i => (regValue mode (reg i col)).1))
    else if 32 ≤ col then chk ((chkCols col).map (fun j => (regValue mode (reg row j)).1))
    else reg row col)

/-- The flag events of a PRELOAD, at its start cycle by row and column. -/
def preloadEvents (hs : HalfSel) (mode : BitVec 2) (sat : Bool) (src : Nat → Nat → XVal) : List FlagEvent :=
  (List.range 32).flatMap (fun i => (List.range (colCount hs)).flatMap (fun n =>
    let j := n + colBase hs
    flagEvents (regFlags (preloadReg mode sat (src i j))) i j 0xFFFF))

/-! ### Slot reads -/

/-- The mode a slot read takes a register in, by the tag of its half (R86): an unset register reads as the default mode's zero. -/
def halfMode (x : Core) (h : Bool) (q : Nat) : BitVec 2 := if tagSet x h q then tagMode x h q else accACC32C

/-- A slot holds integers: its register is INT48 in every half the read covers. -/
def slotInt (x : Core) (hs : HalfSel) (q : Nat) : Bool := (halvesOf hs).all (fun h => halfMode x h q == accINT48)

/-- The value v of a data cell, with what reading it raises (R94). -/
def cellValue (x : Core) (q i j : Nat) : XVal × Flags := regValue (halfMode x (colHalf j) q) (accGet x q i j)

def cellFlagged (x : Core) (q i j : Nat) : Bool := flAny (regFlags (accGet x q i j))

/-- How one check of R115 comes out: the comparator forms Σ and R each with an error below 2^−30 R, and where these errors could decide
it the outcome is open. -/
inductive CheckOut where
  | pass | fail | open_ | skip
deriving DecidableEq, Repr

/-- One check in exact arithmetic, with the band the comparator's error leaves open. -/
def checkOne (mode : BitVec 2) (m : Nat) (floor : BitVec 32) (xs : List Dy) (c : Dy) : CheckOut :=
  if mode = accINT48 then (if checkPasses mode m floor xs c then .pass else .fail)
  else
    let diff := dyAbs (dySub (dySum xs) c)
    let r := dyAdd (dySum (xs.map dyAbs)) (dyAbs c)
    let tol := dyAdd ⟨r.m, r.e - m⟩ (dyAbs (xDy (decodeFP32 floor)))
    let band : Dy := ⟨(2 ^ m + 1) * r.m, r.e - 30 - m⟩      -- (1 + 2^−m) 2^−30 R
    if dyLe (dyAdd diff band) tol then .pass
    else if r.m = 0 then (if dyLe diff tol then .pass else .fail)
    else if dyLe (dyAdd tol band) diff then .fail
    else .open_

/-- A check over cells, skipped where R115 forbids it. -/
def checkCells (x : Core) (m : Nat) (floor : BitVec 32) (q : Nat) (cells : List (Nat × Nat)) (chk : BitVec 52) : CheckOut :=
  let mode := halfMode x (colHalf (cells.headD (0, 0)).2) q
  if cells.any (fun (i, j) => cellFlagged x q i j) then .skip
  else match chkValue mode chk with
    | none => .skip
    | some c => checkOne mode m floor (cells.map (fun (i, j) => xDy (cellValue x q i j).1)) (xDy c)

/-- The verdict of a slot read (R115, R117, R118, R122, R124): `open_ n` decides a check the comparator's error leaves
open. -/
def readVerdict (x : Core) (hs : HalfSel) (q : Nat) (open_ : Nat → Bool) : Verdict :=
  let cfg := if headHalf hs then x.abftCfg1 else x.abftCfg0
  let floor := if headHalf hs then x.abftFloor1 else x.abftFloor0
  let m := fld cfg 0 5
  let fails (o : CheckOut) (n : Nat) : Bool := o == .fail || (o == .open_ && open_ n)
  let cols := (List.range (colCount hs)).map (· + colBase hs)
  let colFail := cols.filter (fun j =>
    fails (checkCells x m floor q ((List.range 32).map (fun i => (i, j))) (accGet x q 33 j)) j)
  let chks : List Nat := match hs with | .full => [32, 33] | .h0 => [32] | .h1 => [33]
  let rowFail := (List.range 32).filter (fun i => chks.any (fun c =>
    fails (checkCells x m floor q ((chkCols c).map (fun j => (i, j))) (accGet x q i c)) (64 + 2 * i + (c - 32))))
  { failed := !colFail.isEmpty || !rowFail.isEmpty, rowChk := !rowFail.isEmpty, colChk := !colFail.isEmpty,
    row := BitVec.ofNat 5 (rowFail.headD 31),
    col := BitVec.ofNat 5 (colFail.headD (colBase hs + colCount hs - 1)) }

/-! ### Epilogue (R95) -/

/-- An input of an epilogue operation under the drain's saturation mode. -/
def epiInput (sat : Bool) (x : XVal) : XVal × Flags :=
  match x with
  | .nan => (.nan, flSpc)
  | .inf n => if sat then (.inf n, flSpc) else (maxFinite (.flt fmtFP32) n, flSpc)
  | y => (y, flNone)

/-- rne32 of a finite result, OVF when it saturates; specials pass. -/
def epiRound (x : XVal) : XVal × Flags :=
  match x with
  | .fin n m e => let c := rne32Sat (.fin n m e); (decodeFP32 (BitVec.ofNat 32 c.code), c.fl)
  | y => (y, flNone)

/-- rne32(a + b) or rne32(a × b) with the special cases of R95. -/
def epiOp (mul sat : Bool) (a b : XVal) : XVal × Flags :=
  let (a', fa) := epiInput sat a
  let (b', fb) := epiInput sat b
  let (r, fr) := if mul then
      (let v := xMul a' b'; (v, if xIsNan v && !xIsNan a' && !xIsNan b' then flInv else flNone))
    else xAdd a' b'
  let (z, fz) := epiRound r
  (z, flOr (flOr fa fb) (flOr fr fz))

/-- One element through a drain up to its conversion (R94, R95): v alone, or v32, the element operation and the scale. -/
def drainElem (eop : Nat) (sat : Bool) (e : XVal) (scl : Option XVal) (v : XVal) (fv : Flags) : XVal × Flags :=
  if eop = 0 && scl = none then (v, fv)
  else
    let (v32, f1) := epiRound v
    let (w, f2) := if eop = 0 then (v32, flNone) else epiOp (eop == 2) sat v32 e
    let (z, f3) := match scl with
      | none => (w, flNone)
      | some s => epiOp true sat w s
    (z, flOr (flOr fv f1) (flOr f2 f3))

/-! ### Output conversion and packing (R46, R48, R55, R60, R62) -/

/-- Which of a conversion's draws the n-th element gets. `needy` lists the elements that draw, each a fresh draw; the order among them is
open (R60): it is that of their free keys. -/
def drawIndex (draw : Nat) (needy : List Nat) (n : Nat) : Nat :=
  let key (m : Nat) : Nat := Config.srPick draw m
  (needy.filter (fun m => decide (key m < key n ∨ (key m = key n ∧ m < n)))).length

/-- The rounding of the n-th element of a conversion. -/
def roundingOf (sr : Bool) (seed : BitVec 64) (draw : Nat) (needy : List Nat) (n : Nat) : Rounding :=
  if sr then (if needy.contains n then .sr (srDraw seed (drawIndex draw needy n)) else .sr 0) else .rne

/-- The elements of an MX block as their scale will leave them; none of a block that converts nothing (R62). -/
def mxDrawElems (k : ElemKind) (sat : Bool) (xs : List XVal) : List XVal :=
  if xs.any xIsNan || (sat && xs.any xIsInf) then []
  else match blockShared k (xs.map clampInfFP32) with
    | some (sh, _) => xs.map (fun x => mxScaled k sh (clampInfFP32 x))
    | none => []

/-- The places, from `n0` on, of the elements of a list that draw. -/
def needyOf (k : ElemKind) (n0 : Nat) (xs : List XVal) : List Nat :=
  xs.zipIdx.filterMap (fun (x, i) => if needsDraw k x then some (n0 + i) else none)

/-- Codes of one row of a tile, the row's scale codes, the flags per element; `n0` numbers the row's first element. -/
structure RowOut where
  codes : List Nat
  scales : List Nat
  fl : List Flags
deriving DecidableEq, Repr

def chunk32 : Nat → List XVal → List (List XVal)
  | 0, _ => []
  | fuel + 1, l => if l.isEmpty then [] else l.take 32 :: chunk32 fuel (l.drop 32)

/-- The elements of an output row that draw. -/
def rowNeedy (f : Format) (sat : Bool) (n0 : Nat) (xs : List XVal) : List Nat :=
  if f.mx then (chunk32 xs.length xs).zipIdx.flatMap (fun (b, i) => needyOf f.kind (n0 + 32 * i) (mxDrawElems f.kind sat b))
  else needyOf f.kind n0 xs

def convRow (f : Format) (sr sat : Bool) (seed : BitVec 64) (draw : Nat) (needy : List Nat) (n0 : Nat) (xs : List XVal) : RowOut :=
  if f.mx then
    let bs := (chunk32 xs.length xs).zipIdx.map (fun (b, i) =>
      (b, convMxBlock f.kind b (fun e => roundingOf sr seed draw needy (n0 + 32 * i + e)) sat))
    { codes := bs.flatMap (fun p => p.2.codes), scales := bs.map (fun p => p.2.scale),
      fl := bs.flatMap (fun p => p.1.zipIdx.map (fun (_, i) => if i = 0 then p.2.fl else flNone)) }
  else
    let cs := xs.zipIdx.map (fun (x, i) => convElem f.kind x (roundingOf sr seed draw needy (n0 + i)) sat)
    { codes := cs.map (·.code), scales := [], fl := cs.map (·.fl) }

/-- Codes packed into bytes (R46). -/
def packCodes (w : Nat) : List Nat → List Byte
  | [] => []
  | [c] => if w = 4 then [BitVec.ofNat 8 (c % 16)] else leBytes (w / 8) c
  | c :: c' :: l =>
    if w = 4 then BitVec.ofNat 8 (c % 16 + 16 * (c' % 16)) :: packCodes w l else leBytes (w / 8) c ++ packCodes w (c' :: l)

/-- A converted tile: rows of bytes, then the scale plane; flag events with their row and column. -/
structure TileOut where
  rows : List (List Byte)
  plane : List Byte
  events : List FlagEvent
  draws : Nat
deriving DecidableEq, Repr

/-- A tile of values converted to a format (R94, R101): `col0` is the column of a row's first element. -/
def convTile (f : Format) (sr sat : Bool) (seed : BitVec 64) (draw col0 : Nat) (tile : List (List XVal)) : TileOut :=
  let needy := tile.zipIdx.flatMap (fun (xs, i) => rowNeedy f sat (i * xs.length) xs)
  let rows := tile.zipIdx.map (fun (xs, i) => convRow f sr sat seed draw needy (i * xs.length) xs)
  { rows := rows.map (fun r => packCodes f.width r.codes),
    plane := rows.flatMap (fun r => r.scales.map (BitVec.ofNat 8)),
    events := rows.zipIdx.flatMap (fun (r, i) => r.fl.zipIdx.flatMap (fun (g, j) => flagEvents g i (col0 + j) 0xFFFF)),
    draws := if sr then needy.length else 0 }

/-- The generator that serves a thread's conversions (R60): generator t in split mode, generator 0 in full mode. -/
def seedOf (x : Core) (t : Bool) : BitVec 64 := if x.split && t then x.seed1 else x.seed0

def spendDraws (x : Core) (t : Bool) (n : Nat) : Core :=
  if x.split && t then { x with seed1 := xorshiftN n x.seed1 } else { x with seed0 := xorshiftN n x.seed0 }

end Sys2Proof.Machine
end

