-- ==== Sys2Proof/Machine/Array.lean ====
section
/-! DEFINITION. Array instructions: MMA, RESLOAD, PRELOAD, DRAIN, SWAP, ACLR, SPLIT (R63 to R97, R143 to R146), and the
timing of R71 to R79. Holds that end at a cycle already known are waited out; then the whole effect on data takes place at issue, with its
cycles, its ports and its flag events to come recorded in the operation in flight. -/

namespace Sys2Proof.Machine

/-! ### Fields and legality -/

def halfField : Nat → Option HalfSel
  | 0 => some .full
  | 1 => some .h0
  | 2 => some .h1
  | _ => none

/-- SHADOW of ACC_CFG. -/
def shadowOn (x : Core) : Bool := bitB x.accCfg 0

/-- The register a slot index maps to in a half (R84). -/
def slotReg (x : Core) (hs : HalfSel) (n : Nat) : Nat :=
  if shadowOn x then
    let swp := bitB x.accCfg ((if headHalf hs then 16 else 8) + n % 8)
    if (n < 8) == swp then n % 8 + 8 else n % 8
  else n

/-- The tile register's POI (R128). -/
def poisoned (x : Core) (hs : HalfSel) (q : Nat) : Bool := (halvesOf hs).any (fun h => bitB (getTsw x h q) 29)

def resOf (x : Core) (h : Bool) : BitVec 32 := if h then x.res1 else x.res0

def putRes (x : Core) (hs : HalfSel) (v : BitVec 32) : Core :=
  { x with res0 := if hs = .h1 then x.res0 else v, res1 := if hs = .h0 then x.res1 else v }

/-- Checksums enabled for a selection (R119, R129). -/
def abftOn (x : Core) (hs : HalfSel) : Bool := bitB (if headHalf hs then x.abftCfg1 else x.abftCfg0) 31

def srcRing (n : Nat) : Option Nat := if n < 8 then some n else none

/-- A source field a program may name: a ring, the Lodge, NONE. -/
def srcKnown (n : Nat) : Bool := n < 8 || n == 8 || n == 15

/-- Whether a half names its own and, when it reads the Lodge in split mode, owns the port (R77, R80, R130). -/
def halfLegal (x : Core) (t : Bool) (hs : HalfSel) (lodge : Bool) : Bool :=
  hs == threadHalf x t && (!lodge || !x.split || x.lodgeHalf == headHalf hs)

/-- The slot an entry names. -/
def entrySlot (w : BitVec 64) : Option Nat :=
  let op := fld w 58 6
  if op = 0x20 || op = 0x22 || op = 0x23 || op = 0x24 || op = 0x25 || op = 0x28 then some (fld w 50 4)
  else if op = 0x29 && fld w 37 2 = 2 then some (fld w 31 4)
  else none

/-- Whether two entries name one register (R84): the same slot index, or, when one of them is a SWAP, a slot and its shadow. -/
def sameSlot (swap : Bool) (x : Core) (a b : Nat) : Bool := a == b || (swap && shadowOn x && a % 8 == b % 8)

/-- An entry dispatched earlier that still waits in another queue and names the same register (R75, R135). -/
def earlierNames (x : Core) (l : List QEntry) (e : QEntry) (slot : Nat) : Bool :=
  let swap (f : QEntry) : Bool := fld f.word 58 6 == 0x24
  l.any (fun f => decide (f.seq < e.seq) && (match entrySlot f.word with
    | some n => sameSlot (swap e || swap f) x n slot
    | none => false))

/-- Operations in flight on a register, dispatched earlier (R75, R92, R135). -/
def opsOn (x : Core) (hs : HalfSel) (q seq : Nat) : List ArrOp :=
  x.ops.filter (fun o => o.reg.toNat == q && overlaps o.half hs && decide (o.seq < seq) && o.kind != .resload)

def edgeOp (o : ArrOp) : Bool := o.kind == .preload || o.kind == .drain || o.kind == .reduce || o.kind == .chain

/-! ### Timing (R71 to R79, R92) -/

def maxL (l : List Nat) : Nat := l.foldl max 0

/-- When the array accepts the next array instruction of a half (R72, R93). -/
def acceptAt (x : Core) (hs : HalfSel) (lodgeNext : Bool) : Nat :=
  maxL ((x.ops.filter (fun o => feedOp o && overlaps o.half hs)).map (fun o =>
      o.accept + (if o.kind == .mma && o.lodge && !lodgeNext then 9 else 0)) ++
    (halvesOf hs).map (fun h => let s := if h then x.swap1 else x.swap0
      s.1 + (if s.2 && !lodgeNext then 9 else 0)))

/-- Last row so far through a half's south edge, plus one (R75, R92). -/
def edgeFree (x : Core) (hs : HalfSel) : Nat :=
  maxL ((x.ops.filter (fun o => edgeOp o && overlaps o.half hs)).map (fun o => o.tLast + 1))

/-- The cycle after the last row of south-edge operations has passed (R75, R91, R93). -/
def rowsEnd (l : List ArrOp) : Nat := maxL ((l.filter edgeOp).map (fun o => o.tLast + 1))

/-- An MMA not complete holds an ACLR, a PRELOAD or a slot read of its register (R75, R91, R92). -/
def anyMma (l : List ArrOp) : Bool := l.any (fun o => o.kind == .mma)

/-! ### Core-store ports (R30, R76, R80, R96) -/

/-- Read ports of a selection's pool: all four, or a half's two. -/
def poolPorts : HalfSel → Nat
  | .full => 4
  | _ => 2

/-- Claims on read ports of a pool that still stand in cycle `t`. -/
def claimed (x : Core) (hs : HalfSel) (t : Nat) : Nat :=
  ((x.ops.filter (fun o => overlaps o.half hs && decide (t ≤ o.portsTo))).map (·.ports)).foldl (· + ·) 0

/-- The least of a list. -/
def minL : List Nat → Option Nat
  | [] => none
  | a :: l => some (l.foldl min a)

/-- The first cycle from `t` on in which the claims in force leave `need` read ports of the pool. -/
def portsFree (x : Core) (hs : HalfSel) (need t : Nat) : Nat :=
  let ends := x.ops.filterMap (fun o => if 0 < o.ports && t ≤ o.portsTo then some (o.portsTo + 1) else none)
  let fits (c : Nat) : Bool := decide (claimed x hs c + need ≤ poolPorts hs)
  if need = 0 || fits t then t
  else (minL (ends.filter fits)).getD (maxL (t :: ends))

/-- Write ports that drains' output takes in cycle `t` (R75, R80): from 6 ACLK after its first row leaves to 6 after its last. -/
def drainWrites (x : Core) (t : Nat) : Nat :=
  ((x.ops.filter (fun o => decide (o.start + 6 ≤ t) && decide (t ≤ o.tLast + 6))).map (·.wports)).foldl (· + ·) 0

/-- Read and write ports that array feeds and drains leave to the vector unit and the Porter in cycle `t` (R30). -/
def readPortsAt (x : Core) (t : Nat) : Nat :=
  4 - ((x.ops.filter (fun o => decide (o.start ≤ t) && decide (t ≤ o.portsTo))).map (·.ports)).foldl (· + ·) 0
def writePortsAt (x : Core) (t : Nat) : Nat := 2 - drainWrites x t

/-- The first cycle after `t` in which a claim begins or ends. -/
def claimChange (x : Core) (t : Nat) : Option Nat :=
  minL ((x.ops.flatMap (fun o => (if 0 < o.ports then [o.start, o.portsTo + 1] else []) ++
    (if 0 < o.wports then [o.start + 6, o.tLast + 7] else []))).filter (fun c => decide (t < c)))

/-- Beats of 16 elements in one ACLK with R read and W write ports granted (R151): `bin` and `bout` are the bits per element of the input
streams together and of the output, 0 where a term is omitted; at most `cap`. -/
def vecBeats (r w bin bout cap : Nat) : Nat :=
  min cap (min (if bin = 0 then 4 else 32 * r / bin) (if bout = 0 then 4 else 32 * w / bout))

/-- The last ACLK in which an instruction with `left` beats to go, from `now` on, moves elements: beat by beat with the ports that the
array and its drains leave (R30). `fuel` bounds the changes of those claims. -/
def vecSpan (x : Core) (bin bout cap : Nat) : Nat → Nat → Nat → Nat
  | 0, now, _ => now
  | fuel + 1, now, left =>
    let b := vecBeats (readPortsAt x now) (writePortsAt x now) bin bout cap
    let k := divUp left b
    match claimChange x now with
    | none => if b = 0 then now else now + k - 1
    | some c =>
      if b = 0 then vecSpan x bin bout cap fuel c left
      else if now + k ≤ c then now + k - 1
      else vecSpan x bin bout cap fuel c (left - b * (c - now))

/-- When an instruction of n elements that issues now moves its last elements. -/
def vecLast (d : Die) (c : CoreId) (n bin bout cap : Nat) : Nat :=
  let x := getCore d c
  vecSpan x bin bout cap (4 * x.ops.length + 1) d.aclk (divUp n 16)

/-- The work of an instruction of n elements that issues now and ends `after` ACLK after its last elements have moved. -/
def vecWorkOf (d : Die) (c : CoreId) (rd : Option (BitVec 6 × BitVec 64)) (after n bin bout cap : Nat) : Work :=
  let x := getCore d c
  let b := vecBeats (readPortsAt x d.aclk) (writePortsAt x d.aclk) bin bout cap
  let last := vecLast d c n bin bout cap
  { rd := rd, due := last + after, last := last, reads := divUp (b * bin) 32, writes := divUp (b * bout) 32 }

/-- Whether a port is left for the Porter in cycle `t`: outbound reads and fills come after array and vector unit (R30). -/
def porterMay (write : Bool) (x : Core) (t : Nat) : Bool :=
  let ws := (x.t0.vecWork ++ x.t1.vecWork).filter (fun w => decide (t ≤ w.last))
  let used := (ws.map (fun w => if write then w.writes else w.reads)).foldl (· + ·) 0
  decide (used < (if write then writePortsAt x t else readPortsAt x t))

/-- The first cycle from `t` on in which the Porter gets a port. -/
def porterFrom (write : Bool) (x : Core) (t : Nat) : Nat :=
  let edges := x.ops.flatMap (fun o => [o.portsTo + 1, o.tLast + 7]) ++ (x.t0.vecWork ++ x.t1.vecWork).map (·.last + 1)
  (minL ((t :: edges).filter (fun c => decide (t ≤ c) && porterMay write x c))).getD t

/-- Read ports of a streamed operand (R76, R80): B of a half takes one in every mode. -/
def streamPorts (acc16 isB : Bool) (hs : HalfSel) (src : Nat) : Nat :=
  if 8 ≤ src then 0 else if acc16 && !(isB && hs != .full) then 2 else 1

/-- Read ports of an MMA's feed. -/
def mmaPorts (w : BitVec 64) (hs : HalfSel) : Nat :=
  streamPorts (fld w 34 2 == 2) false hs (fld w 29 4) + streamPorts (fld w 34 2 == 2) true hs (fld w 25 4)

/-- Read ports of a DRAIN's epilogue tensor: one for each 64 B of its row (R96). -/
def drainPorts (w : BitVec 64) (hs : HalfSel) : Nat :=
  if fld w 24 2 = 0 || 8 ≤ fld w 14 4 then 0 else if hs == .full && fld w 18 5 == 0 then 2 else 1

/-- The activity of an MMA or RESLOAD noted for the halves it covers: its last cycle, and whether the Lodge fed it (R78, R93). -/
def noteFeed (x : Core) (hs : HalfSel) (last : Nat) (lodge : Option Bool) : Core :=
  let on (h : Bool) : Bool := (halvesOf hs).contains h
  { x with lastAct0 := if on false then max x.lastAct0 last else x.lastAct0,
           lastAct1 := if on true then max x.lastAct1 last else x.lastAct1,
           lastL0 := if on false then lodge.getD x.lastL0 else x.lastL0,
           lastL1 := if on true then lodge.getD x.lastL1 else x.lastL1 }

/-- When the last Lodge-fed MMA or RESLOAD of the core has taken its bytes (R96). -/
def lodgeFeedEnd (x : Core) : Nat := maxL ((x.ops.filter (fun o => feedOp o && o.lodge)).map (·.accept))

/-- Stagger hold of R79 and ramp of R78 on an MMA or RESLOAD released in cycle `now`: one whose half an earlier one is already ramping in
meets no ramp of its own. -/
def startDelay (x : Core) (c : CoreId) (hs : HalfSel) (now : Nat) : Nat :=
  let st := (halvesOf hs).any (fun h => if h then x.stagger1 else x.stagger0)
  let ramping := x.ops.any (fun o => feedOp o && overlaps o.half hs && decide (now < firstTouch o))
  let hold := if st then 4 * (c.toNat % 8) else 0
  let cold := (halvesOf hs).any (fun h => (if h then x.cold1 else x.cold0) || decide (lastAct x h + 257 ≤ now + hold))
  hold + (if cold && !ramping then 32 else 0)

/-- The halves' stagger hold spent. -/
def released (x : Core) (hs : HalfSel) : Core :=
  { x with stagger0 := x.stagger0 && hs == .h1, stagger1 := x.stagger1 && hs == .h0 }

def repairSkew (x : Core) : Nat := b2n x.repair.isSome

/-- s of R71 and R73. -/
def stepStride (acc16 aLodge bLodge full : Bool) : Nat := if acc16 && (aLodge || (bLodge && full)) then 2 else 1

/-- T_last of R71 as printed. -/
def mmaTLast (t0 s k16 l rho : Nat) (full : Bool) : Nat := t0 + s * k16 + (if full then 68 else 52) - s + l + rho

/-! ### The Lodge stream (R154) -/

/-- Bytes the stream pointer gives a Lodge-fed word at dispatch. -/
def lodgeTake (split : Bool) (w : BitVec 64) : Nat :=
  match fld w 58 6 with
  | 0x20 =>
    match formatOf (fld w 41 5), formatOf (fld w 36 5) with
    | some fa, some fb =>
      let p := packing (clsWider fa.cls fb.cls) (fld w 34 2 == 2)
      let steps := fld w 0 16 / passesOf fa.cls fb.cls
      if fld w 29 4 = 8 then steps * 32 * p * fa.width / 8
      else if fld w 25 4 = 8 then steps * (if split then 16 else 32) * p * fb.width / 8
      else 0
    | _, _ => 0
  | 0x21 =>
    match formatOf (fld w 46 5) with
    | some f => if fld w 42 4 = 8
        then (if split && bitB w 53 then 16 else 32) * (divUp (fld w 34 8 * f.width) 16 * 2) else 0
    | none => 0
  | 0x23 =>
    match formatOf (fld w 18 5) with
    | some f => if fld w 24 2 ≠ 0 && fld w 14 4 = 8
        then (if bitB w 23 then 1 else 32) * (if split then 16 else 32) * f.width / 8 else 0
    | none => 0
  | _ => 0

/-- The slice range an entry reads or writes, and whether it writes (R155). -/
def lodgeRange (split : Bool) (e : QEntry) : Option (Nat × Nat × Bool) :=
  match fld e.word 58 6 with
  | 0x38 => some ((opnd e (fld e.word 44 6)).toNat, (opnd e (fld e.word 32 6)).toNat, false)
  | 0x39 => some ((opnd e (fld e.word 38 6)).toNat, (opnd e (fld e.word 32 6)).toNat, true)
  | _ => let n := lodgeTake split e.word; if n = 0 then none else some (e.stream, n, false)

def rangesMeet (a n b m : Nat) : Bool := decide (a < b + m) && decide (b < a + n)

/-- An entry dispatched earlier in the thread that R155 puts before a Lodge access: an overlapping LDGWR before a read, an
overlapping read before an LDGWR. -/
def lodgeHeld (x : Core) (t : Bool) (e : QEntry) (lo n : Nat) (write : Bool) : Bool :=
  let th := getThread x t
  (th.feed ++ th.edge ++ th.ldg).any (fun f => decide (f.seq < e.seq) && (match lodgeRange x.split f with
    | some (a, m, wr) => wr != write && rangesMeet lo n a m
    | none => false))

/-- Dispatch of a word that may take Lodge bytes: the pointer advances past them; a run past the slice's end raises
LODGE_RANGE (R154). -/
def lodgeBody (q : QueueId) (f : IssueFn) (c : CoreId) (t : Bool) (prep : Thread → Thread) (d : Die) (e : QEntry) : Die :=
  let n := lodgeTake (getCore d c).split e.word
  if sliceSize < e.stream + n && n ≠ 0 then
    if queueDepth q ≤ (getQueue (getThread (getCore d c) t) q).length then d else entryFault d c t e cfLodgeRange 0
  else enqueue q c t (fun th => prep { th with streamPtr := th.streamPtr + BitVec.ofNat 32 n }) f d e

/-- The fault LODGE_UE of an instruction whose Lodge read met an uncorrectable row (R201). -/
def lodgeUeFault (d : Die) (c : CoreId) (t : Bool) (e : QEntry) (key : Nat) : Option Die :=
  faulted d c t e cfLodgeUe (key / 1024 % 16 + 16 * (key % 1024) + 16384 * (key / 16384))

/-! ### MMA (R71, R77, R143) -/

/-- What rejects an MMA at issue: the fault code, or none. Reserved codes first, then mode, then format, then slot. -/
def mmaReject (x : Core) (t : Bool) (w : BitVec 64) : Option Nat :=
  let mode := fld w 48 2
  let asrc := fld w 29 4
  let bsrc := fld w 25 4
  let acc16 := fld w 34 2 == 2
  match halfField (fld w 46 2) with
  | none => some cfIllegalOpcode
  | some hs =>
    if !srcKnown asrc || !srcKnown bsrc then some cfIllegalOpcode
    else if mode = 3 then some cfIllegalMode
    else if !halfLegal x t hs (asrc == 8 || bsrc == 8) then some cfIllegalMode
    else if (asrc == 15) != (mode == 1) || (bsrc == 15) != (mode == 2) then some cfIllegalMode
    else if asrc == 8 && bsrc == 8 then some cfIllegalMode
    else if x.split && 2 < (if asrc < 8 then (if acc16 then 2 else 1) else 0) + (if bsrc < 8 then 1 else 0) then some cfIllegalMode
    else match formatOf (fld w 41 5), formatOf (fld w 36 5) with
      | some fa, some fb =>
        let wide := clsWider fa.cls fb.cls
        let p := packing wide acc16
        let passes := passesOf fa.cls fb.cls
        let k16 := fld w 0 16
        let krem := fld w 22 3
        let k := (k16 / passes - 1) * p + (if krem = 0 then p else krem)
        if (mode = 1 && fa.cls == .c32) || (mode = 2 && fb.cls == .c32) then some cfIllegalMode
        else if acc16 && (wide == .c32 || wide == .c16) then some cfIllegalFormat
        else if fld w 34 2 = 3 && !(fa.isInt && fb.isInt) then some cfIllegalFormat
        else if k16 = 0 || k16 % passes ≠ 0 || p ≤ krem then some cfIllegalFormat
        else if (fa.cls == .c32 && asrc == 8) || (fb.cls == .c32 && bsrc == 8) then some cfIllegalFormat
        else if (fa.mx && asrc == 8) || (fb.mx && bsrc == 8) then some cfIllegalFormat
        else if (fa.mx || fb.mx) && k16 % (32 * passes / p) ≠ 0 then some cfIllegalFormat
        else if mode ≠ 0 && (halvesOf hs).any (fun h =>
            let r := resOf x h
            !bitB r 31 || bitB r 30 != (mode == 2) || fld r 25 5 ≠ (if mode = 1 then fld w 41 5 else fld w 36 5) ||
            fld r 8 8 < k || (wide == .c8 && (if mode = 1 then fa.cls else fb.cls) == .c4 && 64 < k)) then some cfIllegalMode
        else if mode ≠ 0 && hs == .full && x.res0 ≠ x.res1 then some cfIllegalMode
        else if shadowOn x && 8 ≤ fld w 50 4 then some cfIllegalSlot
        else
          let q := slotReg x hs (fld w 50 4)
          let acc := BitVec.ofNat 2 (fld w 34 2)
          let bad := (halvesOf hs).any (fun h => tagSet x h q && tagMode x h q ≠ acc &&
            !((tagMode x h q = accACC32C || tagMode x h q = accACC32) && (acc = accACC32C || acc = accACC32)))
          if bad then some cfIllegalFormat
          else if poisoned x hs q then some cfPoisonedSlot
          else none
      | _, _ => some cfIllegalFormat

/-- The byte reader of a streaming source: a tile buffer, or the slice from the assigned offset. -/
def srcReader (d : Die) (c : CoreId) (e : QEntry) (src : Nat) (buf : Nat) : Nat → Byte :=
  if src = 8 then fun o => sliceByte d c (e.stream + o)
  else
    let base := bufBase (getRing (getCore d c) src) buf
    fun o => storeByte d c (base + o)

/-- What an MMA's cells are fed with. -/
def mmaFeeds (d : Die) (c : CoreId) (e : QEntry) (hs : HalfSel) (fa fb : Format) (m : MmaRun) : Feeds :=
  let x := getCore d c
  let w := e.word
  let mode := fld w 48 2
  let asrc := fld w 29 4
  let bsrc := fld w 25 4
  let steps := mmaSteps m
  let abuf := (getRing x asrc).head.toNat
  let bbuf := (getRing x bsrc).head.toNat + (if asrc = bsrc then 1 else 0)
  let sa := streamOperand fa 32 m.p steps (srcReader d c e asrc abuf)
  let sb := streamOperand fb (colCount hs) m.p steps (srcReader d c e bsrc bbuf)
  { opA := fun i j => if mode = 1 then residentOperand x fa m.p false i j else sa,
    opB := fun i j => if mode = 2 then residentOperand x fb m.p true i j else sb,
    exact := fa.isInt && fb.isInt }

/-- The rings an MMA consumes: A's, then B's (R164). -/
def mmaRings (w : BitVec 64) : List Nat :=
  (if fld w 29 4 < 8 then [fld w 29 4] else []) ++ (if fld w 25 4 < 8 then [fld w 25 4] else [])

/-- Whether every ring a list of consumptions names has its buffers FULL. -/
def ringsReady (x : Core) (ns : List Nat) : Bool :=
  match ns with
  | [a, b] => if a = b then headFull (getRing x a) && secondFull (getRing x a)
      else headFull (getRing x a) && headFull (getRing x b)
  | l => l.all (fun n => headFull (getRing x n))

/-- The buffers taken, each to be released at `due` (R164). -/
def takeRings (x : Core) (ns : List Nat) (due : Nat) : Core := ns.foldl (fun y n => putRing y n (takeHead (getRing y n) due)) x

/-- The first ring of a list that a consuming instruction may not use. -/
def badRing (x : Core) (t : Bool) (ns : List Nat) : Option Nat := ns.find? (fun n => !canConsume x t n)

/-- An array operation as it starts: what the others set differs by kind. -/
def newOp (kind : ArrKind) (t : Bool) (hs : HalfSel) (e : QEntry) (start : Nat) : ArrOp :=
  { kind := kind, thread := t, half := hs, reg := 0, start := start, accept := start, tLast := start, due := start, lodge := false,
    latch := none, verdict := ⟨false, false, false, 0, 0⟩, verdictMade := false, ports := 0, portsTo := 0, wports := 0, evs := [],
    clr := false, copied := false, copy := 0, cleared := false, ring := none, part := none, seq := e.seq, pc := e.pc }

def addOp (x : Core) (o : ArrOp) : Core := { x with ops := x.ops ++ [o] }

/-- The cycle in which the holds on an MMA that end at a known cycle are over (R72, R75, R93, R96). -/
def mmaFrom (now : Nat) (x : Core) (hs : HalfSel) (e : QEntry) : Nat :=
  let w := e.word
  let q := slotReg x hs (fld w 50 4)
  portsFree x hs (mmaPorts w hs) (maxL [now, acceptAt x hs (fld w 29 4 == 8 || fld w 25 4 == 8),
    rowsEnd ((opsOn x hs q e.seq).filter (fun o => o.kind != .preload))])

/-- An accepted MMA carried out: its register plane, its tag, its operation in flight, the buffers it takes. -/
def startMma (d : Die) (c : CoreId) (t : Bool) (e : QEntry) (hs : HalfSel) (fa fb : Format) : Core :=
  let x := getCore d c
  let w := e.word
  let acc := BitVec.ofNat 2 (fld w 34 2)
  let q := slotReg x hs (fld w 50 4)
  let lodge := fld w 29 4 == 8 || fld w 25 4 == 8
  let m : MmaRun := ⟨acc, bitB w 33, packing (clsWider fa.cls fb.cls) (acc = accACC16), passesOf fa.cls fb.cls, fld w 0 16, fld w 22 3⟩
  let s := stepStride (acc = accACC16) (fld w 29 4 == 8) (fld w 25 4 == 8) (hs == .full)
  let l := if lodge then 9 else 0
  let t0 := maxL ((d.aclk + startDelay x c hs d.aclk) :: ((opsOn x hs q e.seq).filter (fun o => o.kind == .preload)).map (fun o => o.due - 6))
  let tLast := mmaTLast t0 s m.k16 l (repairSkew x) (hs == .full)
  let en := abftOn x hs
  let fd := mmaFeeds d c e hs fa fb m
  let due := if en then tLast + 2 else tLast
  let op := { newOp .mma t hs e t0 with
    reg := BitVec.ofNat 4 q, accept := t0 + s * m.k16, tLast := tLast, due := due, lodge := lodge,
    latch := if fld w 48 2 = 0 then none else some (fld w 48 2 == 2), ports := mmaPorts w hs, portsTo := t0 + s * m.k16 - 1,
    evs := mmaEvents x q hs m fd s (t0 + 6 + l) }
  let x1 := putTag (mmaPlane x q hs m fd en) hs q (8 + acc.toNat)
  takeRings (addOp (noteFeed (released x1 hs) hs due (some lodge)) op) (mmaRings w) (t0 + s * (m.k16 - 1) + 1)

/-- MMA (R71, R75, R77, R86, R135, R143): the holds on its register first, for its tag and its poison are judged at issue; then what
rejects it; then its buffers and its Lodge bytes. -/
def issueMma : IssueFn := fun d0 c t e =>
  let w := e.word
  match halfField (fld w 46 2) with
  | none => faulted d0 c t e cfIllegalOpcode 0
  | some hs =>
    let x0 := getCore d0 c
    if earlierNames x0 (getThread x0 t).edge e (fld w 50 4) then held
    else
      let d := waitUntil d0 (mmaFrom d0.aclk x0 hs e)
      let x := getCore d c
      match mmaReject x t w, badRing x t (mmaRings w), formatOf (fld w 41 5), formatOf (fld w 36 5) with
      | some code, _, _, _ => faulted d c t e code 0
      | none, some n, _, _ => faulted d c t e cfRingRole n
      | none, none, some fa, some fb =>
        let n := lodgeTake x.split w
        if !ringsReady x (mmaRings w) then held
        else if n ≠ 0 && lodgeHeld x t e e.stream n false then held
        else match ueIn d c e.stream n with
          | some key => lodgeUeFault (senseRows srcFeed c e.stream n d) c t e key
          | none => some (setCore (senseRows srcFeed c e.stream n d) c (startMma d c t e hs fa fb))
      | none, none, _, _ => faulted d c t e cfIllegalFormat 0

/-! ### RESLOAD (R67, R69, R144) -/

def resloadReject (x : Core) (t : Bool) (w : BitVec 64) : Option Nat :=
  match halfField (fld w 51 2) with
  | none => some cfIllegalOpcode
  | some hs =>
    let src := fld w 42 4
    if 8 < src then some cfIllegalMode
    else if !halfLegal x t hs (src == 8) then some cfIllegalMode
    else match formatOf (fld w 46 5) with
      | none => some cfIllegalFormat
      | some f =>
        if f.cls == .c32 then some cfIllegalMode
        else if fld w 34 8 = 0 || latchDepth f.cls < fld w 34 8 then some cfIllegalMode
        else if f.mx && src == 8 then some cfIllegalFormat
        else none

/-- The latches and scale latches after a RESLOAD: every entry of the covered cells, those beyond DEPTH zero (R69). -/
def resloadLatches (x : Core) (hs : HalfSel) (bSide : Bool) (f : Format) (depth : Nat) (rd : Nat → Byte) : Core :=
  let line := divUp (depth * f.width) 16 * 2
  let lanes := if bSide then colCount hs else 32
  let per := 16 / f.width
  let entry (lane e : Nat) : BitVec 16 :=
    BitVec.ofNat 16 ((List.range per).foldl (fun v n =>
      let kk := e * per + n
      if kk < depth then v + elemCode (fun o => rd (lane * line + o)) f.width kk * 2 ^ (f.width * n) else v) 0)
  let x1 := { x with latch := tabFill 0 x.latch 0 32768 (fun n =>
    let i := n / 1024
    let j := n / 32 % 32
    if colIn hs j then entry (if bSide then j - colBase hs else i) (n % 32) else tabGet 0 x.latch n) }
  if f.mx then
    let nb := divUp depth 32
    { x1 with scales := tabFill 0 x1.scales 0 256 (fun n =>
        let h := decide (128 ≤ n)
        let l := n % 128 / 4
        let e := n % 4
        let lane := if bSide then l - colBase hs else l
        if (halvesOf hs).contains h && e < nb && (!bSide || (colIn hs l && colHalf l == h)) then rd (lanes * line + lane * nb + e)
        else tabGet 0 x1.scales n) }
  else x1

def resWord (bSide : Bool) (fmt depth : Nat) : BitVec 32 :=
  putFld (putFld (putFld (putFld 0#32 31 1 1) 30 1 (b2n bSide)) 25 5 fmt) 8 8 depth

/-- The cycle in which the holds on a RESLOAD that end at a known cycle are over (R72, R74, R93, R96). -/
def resloadFrom (now : Nat) (x : Core) (hs : HalfSel) (src : Nat) : Nat :=
  portsFree x hs (if src < 8 then 1 else 0) (maxL ([now, acceptAt x hs (src == 8)] ++
    ((x.ops.filter (fun o => o.latch.isSome && overlaps o.half hs)).map (fun o => o.accept + 32 + (if o.lodge && src ≠ 8 then 9 else 0)))))

/-- An accepted RESLOAD carried out. -/
def startResload (d : Die) (c : CoreId) (t : Bool) (e : QEntry) (hs : HalfSel) (f : Format) : Core :=
  let x := getCore d c
  let w := e.word
  let src := fld w 42 4
  let bSide := bitB w 53
  let t0 := d.aclk + startDelay x c hs d.aclk
  let tLast := t0 + 66 + (if src = 8 then 9 else 0) + (if bSide then 0 else repairSkew x)
  let x1 := resloadLatches x hs bSide f (fld w 34 8) (srcReader d c e src (getRing x src).head.toNat)
  let x2 := putRes x1 hs (resWord bSide (fld w 46 5) (fld w 34 8))
  let op := { newOp .resload t hs e t0 with
    accept := t0 + 32, tLast := tLast, due := tLast, lodge := src == 8, ports := if src < 8 then 1 else 0, portsTo := t0 + 31 }
  takeRings (addOp (noteFeed (released x2 hs) hs tLast none) op) (if src < 8 then [src] else []) (t0 + 32)

/-- RESLOAD (R67, R69, R74, R77, R144). -/
def issueResload : IssueFn := fun d0 c t e =>
  let w := e.word
  let src := fld w 42 4
  let rings := if src < 8 then [src] else []
  match halfField (fld w 51 2) with
  | none => faulted d0 c t e cfIllegalOpcode 0
  | some hs =>
    let d := waitUntil d0 (resloadFrom d0.aclk (getCore d0 c) hs src)
    let x := getCore d c
    match resloadReject x t w, badRing x t rings, formatOf (fld w 46 5) with
    | some code, _, _ => faulted d c t e code 0
    | none, some n, _ => faulted d c t e cfRingRole n
    | none, none, some f =>
      let n := lodgeTake x.split w
      if !ringsReady x rings then held
      else if n ≠ 0 && lodgeHeld x t e e.stream n false then held
      else match ueIn d c e.stream n with
        | some key => lodgeUeFault (senseRows srcFeed c e.stream n d) c t e key
        | none => some (setCore (senseRows srcFeed c e.stream n d) c (startResload d c t e hs f))
    | none, none, none => faulted d c t e cfIllegalFormat 0

/-! ### PRELOAD (R92) -/

def preloadReject (x : Core) (t : Bool) (w : BitVec 64) : Option Nat :=
  match halfField (fld w 48 2) with
  | none => some cfIllegalOpcode
  | some hs =>
    if 7 < fld w 36 4 then some cfIllegalMode
    else if !halfLegal x t hs false then some cfIllegalMode
    else if 2 < fld w 41 5 then some cfIllegalFormat
    else if fld w 46 2 = 3 && fld w 41 5 ≠ 0 then some cfIllegalFormat
    else none

/-- South-edge occupancy E. -/
def preloadE (hs : HalfSel) (w : BitVec 64) : Nat :=
  if bitB w 40 && hs == .full && fld w 41 5 = 0 then 64 else 32

/-- The value a PRELOAD puts at (i, j): an element of the tile, or of the one row (R92). -/
def preloadSrc (d : Die) (c : CoreId) (e : QEntry) (hs : HalfSel) (f : Format) (i j : Nat) : XVal :=
  let ring := fld e.word 36 4
  let n := (if bitB e.word 40 then i * colCount hs else 0) + (j - colBase hs)
  let code := elemCode (srcReader d c e ring (getRing (getCore d c) ring).head.toNat) f.width n
  if BitVec.ofNat 2 (fld e.word 46 2) = accINT48 then xOfDy ⟨sintOf 32 code, 0⟩ else decodeElem f.kind code

/-- The cycle in which the holds on a PRELOAD that end at a known cycle are over (R30, R75, R92). -/
def preloadFrom (now : Nat) (x : Core) (hs : HalfSel) (e : QEntry) : Nat :=
  portsFree x hs 1 (maxL [now, edgeFree x hs - 4, rowsEnd (opsOn x hs (slotReg x hs (fld e.word 50 4)) e.seq)])

/-- A PRELOAD carried out at its start cycle: the register cleared and loaded, its flag events, its operation in flight. -/
def startPreload (d : Die) (c : CoreId) (t : Bool) (e : QEntry) (hs : HalfSel) (f : Format) : Core :=
  let x := getCore d c
  let w := e.word
  let ring := fld w 36 4
  let q := slotReg x hs (fld w 50 4)
  let mode := BitVec.ofNat 2 (fld w 46 2)
  let src := preloadSrc d c e hs f
  let ee := preloadE hs w
  let x1 := preloadPlane (clearReg x hs q) q hs mode (bitB w 35) (abftOn x hs) src
  let x2 := (preloadEvents hs mode (bitB w 35) src).foldl (noteEvent hs q d.aclk) (putTag x1 hs q (8 + mode.toNat))
  let op := { newOp .preload t hs e d.aclk with
    reg := BitVec.ofNat 4 q, tLast := d.aclk + 3 + ee, due := d.aclk + 4 + ee, ports := 1, portsTo := d.aclk + ee - 1 }
  takeRings (addOp x2 op) [ring] (d.aclk + ee)

/-- PRELOAD (R75, R92, R135, R145). -/
def issuePreload : IssueFn := fun d0 c t e =>
  let w := e.word
  let ring := fld w 36 4
  match halfField (fld w 48 2) with
  | none => faulted d0 c t e cfIllegalOpcode 0
  | some hs =>
    let x0 := getCore d0 c
    if earlierNames x0 (getThread x0 t).feed e (fld w 50 4) then held
    else if anyMma (opsOn x0 hs (slotReg x0 hs (fld w 50 4)) e.seq) then held
    else
      let d := waitUntil d0 (preloadFrom d0.aclk x0 hs e)
      let x := getCore d c
      match preloadReject x t w, badRing x t [ring], formatOf (fld w 41 5) with
      | some code, _, _ => faulted d c t e code 0
      | none, some n, _ => faulted d c t e cfRingRole n
      | none, none, some f => if !ringsReady x [ring] then held else some (setCore d c (startPreload d c t e hs f))
      | none, none, none => faulted d c t e cfIllegalFormat 0

/-! ### Output of a slot read into a ring or core store (R165, R182) -/

/-- The link of a hand-over proxy ring: its relay membership (R181). -/
def proxyMember (x : Core) (n : Nat) : Option Member :=
  x.members.find? (fun m => m.kind == .relay && m.ring.toNat == n && m.down.isSome)

/-- Whether a ring carries a caravan. -/
def ringCaravan (x : Core) (n : Nat) : Option Member :=
  x.members.find? (fun m => m.kind == .caravan && m.ring.toNat == n && m.joined)

def isProxy (r : Ring) : Bool := ringCons r == 2

/-- What forbids a producer's use of ring n for `size` bytes: RING_ROLE, or RELAY_STAGE before its thread has entered the
relay (R162, R165, R182). -/
def produceReject (x : Core) (t : Bool) (n size : Nat) : Option (Nat × Nat) :=
  let r := getRing x n
  if !canProduce x t n then some (cfRingRole, n)
  else if isProxy r then
    match proxyMember x n with
    | some m => if m.joined then none else some (cfRelayStage, m.id.toNat)
    | none => some (cfRelayStage, 0)
  else if ringB r < size then some (cfRingRole, n) else none

/-- The hold on a producer: the tail EMPTY, or a credit (R165). -/
def produceReady (x : Core) (n : Nat) : Bool :=
  let r := getRing x n
  if isProxy r then decide (0 < r.credits.toNat) else bufState r r.tail.toNat == 0

/-- 128-byte flits of a run of bytes. -/
def flitsOf : Nat → List Byte → List (BitVec 1024)
  | 0, _ => []
  | fuel + 1, l => if l.isEmpty then [] else BitVec.ofNat 1024 (leNat (l.take 128)) :: flitsOf fuel (l.drop 128)

/-- Output bytes into ring n: a local buffer becomes FILLING, holds them, and is FULL at `due`; a proxy spends a credit and
its flits leave. `src` names the slot read that produces them. -/
def produceInto (d : Die) (c : CoreId) (n src due : Nat) (bytes : List Byte) : Die :=
  let x := getCore d c
  let r := getRing x n
  if isProxy r then
    match proxyMember x n with
    | none => d
    | some m =>
      let fl := flitsOf (bytes.length + 1) bytes
      let x1 := putRing x n { r with credits := r.credits - 1 }
      let x2 := { x1 with members := x1.members.map (fun y => if y = m then { y with sent := y.sent + fl.length, tiles := y.tiles + 1 } else y) }
      match m.down with
      | none => setCore d c x2
      | some (die, core, ring) =>
        fl.foldl (fun e b => send e (.stream .relay m.id die core ring m.downParty m.downEpoch (BitVec.ofNat 24 m.tiles) 0 b)) (setCore d c x2)
  else
    let b := r.tail.toNat
    let k := ownWb x n
    let w := getWb x k
    let i : BufInfo := { BufInfo.reset with bytes := bytes.length, whole := true, due := due, src := src + 1, wb := k, tile := w.issued }
    let i1 := if k < 8 then { i with size := wbTileBytes w, total := wbTiles w } else i
    let x1 := putRing x n (startTail r i1)
    let x2 := if k < 8 then putWb x1 k { w with issued := w.issued + 1 } else x1
    putStore (setCore d c x2) c (bufBase r b) bytes

/-- Rows written to core store at their pitch, and the scale plane of an MX format one pitch after the last row (DESIGN CHOICE, assumption
log: R62 and R145 do not say where the plane lies when the pitch leaves gaps between rows). -/
def storeRows (d : Die) (c : CoreId) (base pitch : Nat) (o : TileOut) : Die :=
  let d1 := o.rows.zipIdx.foldl (fun e (r, i) => putStore e c (base + i * pitch) r) d
  if o.plane.isEmpty then d1 else putStore d1 c (base + o.rows.length * pitch) o.plane

def tileBytes (o : TileOut) : List Byte := o.rows.flatten ++ o.plane

/-! ### Slot reads: DRAIN, REDUCE, CHAINRED (R94, R117, R124, R126) -/

/-- The values of a slot, row by row, and the flags reading them raises. -/
def slotValues (x : Core) (hs : HalfSel) (q : Nat) : List (List (XVal × Flags)) :=
  (List.range 32).map (fun i => (List.range (colCount hs)).map (fun n => cellValue x q i (n + colBase hs)))

/-- Events of flags that elements of a tile raise, at their rows. -/
def elemEvents (hs : HalfSel) (fl : List (List Flags)) : List FlagEvent :=
  fl.zipIdx.flatMap (fun (r, i) => r.zipIdx.flatMap (fun (f, n) => flagEvents f i (n + colBase hs) 0xFFFF))

/-- A slot read's events at the cycles their rows leave (R117, R124): one row in `step` ACLK from the cycle of the first. -/
def rowTimes (first step : Nat) (es : List FlagEvent) : List (Nat × FlagEvent) := es.map (fun v => (first + step * v.row, v))

/-- What holds a slot read (R75): an MMA, PRELOAD, ACLR or SWAP of the register dispatched earlier that still waits, or an MMA not
complete. -/
def readHeld (x : Core) (t : Bool) (hs : HalfSel) (q slot : Nat) (e : QEntry) : Bool :=
  earlierNames x (getThread x t).feed e slot || anyMma (opsOn x hs q e.seq)

/-- A slot read in flight from its first row on (R75, R117): the read's verdict, and its events to come. -/
def readOp (d : Die) (x : Core) (t : Bool) (e : QEntry) (kind : ArrKind) (hs : HalfSel) (q first lastAfter dueAfter : Nat)
    (es : List FlagEvent) : ArrOp :=
  { newOp kind t hs e first with
    reg := BitVec.ofNat 4 q, tLast := first + lastAfter, due := first + dueAfter,
    verdict := readVerdict x hs q (fun n => bitB (freeVal d (1000000000 + n)) 0),
    evs := rowTimes first (if kind = .chain then 2 else 1) es }

/-! ### DRAIN (R75, R94 to R97, R145) -/

def epilogueFormat (code : Nat) : Bool := code = 0 || code = 1 || code = 2 || code = 3 || code = 4 || code = 8

/-- Bytes of one output row, of the scale plane, and of the whole output tile. -/
def rowBytes (f : Format) (hs : HalfSel) : Nat := colCount hs * f.width / 8
def outBytes (f : Format) (hs : HalfSel) : Nat := 32 * rowBytes f hs + (if f.mx then 32 else 0)

def drainPitch (f : Format) (hs : HalfSel) (w : BitVec 64) : Nat :=
  if fld w 26 4 = 0 then rowBytes f hs else fld w 26 4 * 128

def drainReject (x : Core) (t : Bool) (e : QEntry) : Option (Nat × Nat) :=
  let w := e.word
  let dst := fld w 36 4
  let eop := fld w 24 2
  let esrc := fld w 14 4
  match halfField (fld w 48 2) with
  | none => some (cfIllegalOpcode, 0)
  | some hs =>
    if !(dst < 8 || dst == 9) || eop = 3 || (eop ≠ 0 && 8 < esrc) then some (cfIllegalOpcode, 0)
    else if !halfLegal x t hs (eop ≠ 0 && esrc = 8) then some (cfIllegalMode, 0)
    else match formatOf (fld w 43 5) with
      | none => some (cfIllegalFormat, 0)
      | some f =>
        if f.mx && hs ≠ .full then some (cfIllegalFormat, 0)
        else if eop ≠ 0 && !epilogueFormat (fld w 18 5) then some (cfIllegalFormat, 0)
        else if eop ≠ 0 && esrc = 8 && fld w 18 5 = 0 then some (cfIllegalFormat, 0)
        else if poisoned x hs (slotReg x hs (fld w 50 4)) then some (cfPoisonedSlot, 0)
        else if eop ≠ 0 && esrc < 8 && !canConsume x t esrc then some (cfRingRole, esrc)
        else if dst = 9 then
          let base := (opnd e (fld w 30 6)).toNat
          let pitch := drainPitch f hs w
          if fld w 26 4 ≠ 0 && pitch < rowBytes f hs then some (cfStoreOverlap, 0)
          else if base % 64 ≠ 0 then some (cfStoreAlign, 0)
          else if storeSize < base + 31 * pitch + rowBytes f hs ||
              (f.mx && storeSize < base + 32 * pitch + 32) then some (cfStoreRange, 0)
          else none
        else produceReject x t dst (outBytes f hs)

/-- The epilogue element at (i, n). -/
def epiElem (f : Format) (one : Bool) (cols : Nat) (rd : Nat → Byte) (i n : Nat) : XVal :=
  decodeElem f.kind (elemCode rd f.width ((if one then 0 else i * cols) + n))

/-- The elements a DRAIN converts, after its epilogue, with their flags. -/
def drainElems (d : Die) (c : CoreId) (e : QEntry) (hs : HalfSel) : List (List (XVal × Flags)) :=
  let x := getCore d c
  let w := e.word
  let q := slotReg x hs (fld w 50 4)
  let ef := (formatOf (fld w 18 5)).getD ⟨.flt fmtFP32, 32, .c32, false, false⟩
  let rd := srcReader d c e (fld w 14 4) (getRing x (fld w 14 4)).head.toNat
  let scl : Option XVal := if bitB w 13 then some (decodeFP32 ((opnd e (fld w 8 5)).setWidth 32)) else none
  (slotValues x hs q).zipIdx.map (fun (r, i) => r.zipIdx.map (fun ((v, fv), k) =>
    drainElem (fld w 24 2) (bitB w 41) (if fld w 24 2 = 0 then xZero else epiElem ef (bitB w 23) (colCount hs) rd i k) scl v fv))

/-- The tile a DRAIN writes. -/
def drainTile (d : Die) (c : CoreId) (t : Bool) (e : QEntry) (hs : HalfSel) (f : Format) : TileOut :=
  convTile f (bitB e.word 42) (bitB e.word 41) (seedOf (getCore d c) t) d.freeCtr (colBase hs) ((drainElems d c e hs).map (·.map (·.1)))

/-- The cycle a DRAIN's first row leaves (R75, R96): after its issue, the edge free, no feed on the ports of its epilogue tensor; one that
reads the Lodge waits for a stream there and leaves 9 ACLK later. -/
def drainFirst (now : Nat) (x : Core) (hs : HalfSel) (w : BitVec 64) (lodge : Bool) : Nat :=
  let f := portsFree x hs (drainPorts w hs) (max (now + 1) (edgeFree x hs))
  if lodge then max f (lodgeFeedEnd x) + 9 else f

/-- The core after an accepted DRAIN. -/
def startDrain (d : Die) (c : CoreId) (t : Bool) (e : QEntry) (hs : HalfSel) (f : Format) (tile : TileOut) (first : Nat) : Core :=
  let x := getCore d c
  let w := e.word
  let q := slotReg x hs (fld w 50 4)
  let es := elemEvents hs ((drainElems d c e hs).map (·.map (·.2))) ++ tile.events
  let op := { readOp d x t e .drain hs q first 31 37 es with
    clr := bitB w 40, ports := drainPorts w hs, portsTo := first + 31, wports := if 64 < rowBytes f hs then 2 else 1,
    ring := if fld w 36 4 < 8 then some (BitVec.ofNat 3 (fld w 36 4)) else none }
  addOp (spendDraws (takeRings x (if fld w 24 2 ≠ 0 && fld w 14 4 < 8 then [fld w 14 4] else []) (first + 32)) t tile.draws) op

/-- DRAIN (R75, R94 to R97, R135, R145): the holds on its register, what rejects it, then its rings and its Lodge bytes. -/
def issueDrain : IssueFn := fun d c t e =>
  let x := getCore d c
  let w := e.word
  let dst := fld w 36 4
  match halfField (fld w 48 2), drainReject x t e, formatOf (fld w 43 5) with
  | none, _, _ => faulted d c t e cfIllegalOpcode 0
  | some hs, rej, fmt =>
    if readHeld x t hs (slotReg x hs (fld w 50 4)) (fld w 50 4) e then held
    else match rej, fmt with
      | some (code, det), _ => faulted d c t e code det
      | none, none => faulted d c t e cfIllegalFormat 0
      | none, some f =>
        let n := lodgeTake x.split w
        if dst < 8 && !produceReady x dst then held
        else if !ringsReady x (if fld w 24 2 ≠ 0 && fld w 14 4 < 8 then [fld w 14 4] else []) then held
        else if n ≠ 0 && lodgeHeld x t e e.stream n false then held
        else match ueIn d c e.stream n with
          | some key => lodgeUeFault (senseRows srcFeed c e.stream n d) c t e key
          | none =>
            let tile := drainTile d c t e hs f
            let first := drainFirst d.aclk x hs w (n ≠ 0)
            let d1 := drew (setCore (senseRows srcFeed c e.stream n d) c (startDrain d c t e hs f tile first))
            some (if dst = 9 then storeRows d1 c (opnd e (fld w 30 6)).toNat (drainPitch f hs w) tile
              else produceInto d1 c dst e.seq (first + 38) (tileBytes tile))

/-! ### SWAP, ACLR, SPLIT (R91, R93, R146) -/

/-- The mapping after a SWAP at cycle `ts`, and its hold on the half's next array instruction (R93). -/
def swapSlot (x : Core) (hs : HalfSel) (n ts : Nat) : Core :=
  let flip (lo : Nat) (v : BitVec 32) : BitVec 32 := v ^^^ (1#32 <<< (lo + n))
  let x1 := { x with accCfg := (if hs = HalfSel.h1 then id else flip 8) ((if hs = HalfSel.h0 then id else flip 16) x.accCfg) }
  { x1 with swap0 := if hs = HalfSel.h1 then x.swap0 else (ts + 1, x.lastL0), swap1 := if hs = HalfSel.h0 then x.swap1 else (ts + 1, x.lastL1) }

/-- SWAP (R84, R93): accepted as an array instruction is, once no DRAIN, PRELOAD or REDUCE of either register passes rows. -/
def issueSwap : IssueFn := fun d0 c t e =>
  let x0 := getCore d0 c
  let w := e.word
  let n := fld w 50 4
  match halfField (fld w 48 2) with
  | none => faulted d0 c t e cfIllegalOpcode 0
  | some hs =>
    if earlierNames x0 (getThread x0 t).edge e n then held
    else
      let pair := (opsOn x0 hs (n % 8) e.seq ++ opsOn x0 hs (n % 8 + 8) e.seq).filter (fun o => o.kind != .chain)
      let d := waitUntil d0 (maxL [d0.aclk, acceptAt x0 hs true, rowsEnd pair])
      let x := getCore d c
      if !halfLegal x t hs false then faulted d c t e cfIllegalMode 0
      else if !shadowOn x || 8 ≤ n then faulted d c t e cfIllegalSlot 0
      else some (setCore d c (swapSlot x hs n d.aclk))

/-- ACLR (R91). -/
def issueAclr : IssueFn := fun d0 c t e =>
  let x0 := getCore d0 c
  let w := e.word
  match halfField (fld w 48 2) with
  | none => faulted d0 c t e cfIllegalOpcode 0
  | some hs =>
    let on := opsOn x0 hs (slotReg x0 hs (fld w 50 4)) e.seq
    if earlierNames x0 (getThread x0 t).feed e (fld w 50 4) then held
    else if anyMma on then held
    else
      let d := waitUntil d0 (maxL [d0.aclk, rowsEnd on])
      let x := getCore d c
      if !halfLegal x t hs false then faulted d c t e cfIllegalMode 0
      else some (setCore d c (clearReg x hs (slotReg x hs (fld w 50 4))))

/-- Split mode entered: T1 starts with a copy of T0's registers and predicates and an empty loop stack (R80, R146). -/
def enterSplit (x : Core) (lodgeHalf : Bool) (t1pc : Nat) : Core :=
  { x with split := true, lodgeHalf := lodgeHalf,
           t1 := { Thread.reset with run := .running, pc := t1pc, regs := x.t0.regs, preds := x.t0.preds,
                                     itin := x.t0.itin, armSeq := x.t1.armSeq, vstat := x.t1.vstat } }

/-- A SPLIT whose hold may be released (R80, R146). -/
def splitReady (x : Core) (leave : Bool) : Bool :=
  !halfBusy x .full && (!leave || x.t1.run == .halted)

/-- SPLIT in effect, one ACLK after its hold ends (R80). -/
def doSplit (c : CoreId) (leave lodgeHalf : Bool) (t1pc : Nat) (d0 : Die) : Die :=
  let d := waitUntil d0 (d0.aclk + 1)
  let x := getCore d c
  let x1 := if leave then leaveSplit d.freeCtr x else enterSplit x lodgeHalf t1pc
  drew (setCore d c { x1 with t0 := advance { x1.t0 with wait := .none } })

/-- SPLIT (R146): a SPLIT commanded again while T0 waits asks again whether it may take effect. -/
def effSplit (c : CoreId) (t : Bool) (w : BitVec 58) (d : Die) : Die :=
  let x := getCore d c
  match (getThread x t).wait with
  | .split leave lh pc => if splitReady x leave then doSplit c leave lh pc d else d
  | _ => dispatch c t 0x26 w (fun d e =>
      let x := getCore d c
      let leave := bitB e.word 53
      if t || (x.split && !leave) || (!x.split && leave) then entryFault d c t e cfIllegalSplit 0
      else if splitReady x leave then doSplit c leave (bitB e.word 52) (fld e.word 0 12) d
      else modThread d c t (fun th => { th with wait := .split leave (bitB e.word 52) (fld e.word 0 12) })) d

/-- A slot read dispatched counts for the STAMPs after it (R158). -/
def countRead (th : Thread) : Thread := { th with readsOut := th.readsOut + 1 }

/-! ### The commands -/

/-- MMA, RESLOAD and PRELOAD under the issue throttle (R344). -/
def mmaOcc (e : QEntry) : Nat :=
  stepStride (BitVec.ofNat 2 (fld e.word 34 2) = accACC16) (fld e.word 29 4 == 8) (fld e.word 25 4 == 8)
    (fld e.word 46 2 == 0) * fld e.word 0 16

def pacedMma : IssueFn := paced mmaOcc issueMma
def pacedResload : IssueFn := paced (fun _ => 32) issueResload
def pacedPreload : IssueFn := paced (fun e => preloadE ((halfField (fld e.word 48 2)).getD .full) e.word) issuePreload

def execMma (c : CoreId) (t : Bool) (w : BitVec 58) (s : State) :=
  onDie (dispatch c t 0x20 w (lodgeBody .feed pacedMma c t id)) s
def execResload (c : CoreId) (t : Bool) (w : BitVec 58) (s : State) :=
  onDie (dispatch c t 0x21 w (lodgeBody .feed pacedResload c t id)) s
def execPreload (c : CoreId) (t : Bool) (w : BitVec 58) (s : State) :=
  onDie (dispatch c t 0x22 w (enqueue .edge c t id pacedPreload)) s
def execDrain (c : CoreId) (t : Bool) (w : BitVec 58) (s : State) :=
  onDie (dispatch c t 0x23 w (lodgeBody .edge issueDrain c t countRead)) s
def execSwap (c : CoreId) (t : Bool) (w : BitVec 58) (s : State) :=
  onDie (dispatch c t 0x24 w (enqueue .feed c t id issueSwap)) s
def execAclr (c : CoreId) (t : Bool) (w : BitVec 58) (s : State) :=
  onDie (dispatch c t 0x25 w (enqueue .edge c t id issueAclr)) s
def execSplit (c : CoreId) (t : Bool) (w : BitVec 58) (s : State) := onDie (effSplit c t w) s

end Sys2Proof.Machine
end

