-- ==== Sys2Proof/Machine/Approx.lean ====
section
/-! DEFINITION. The functions the spec bounds rather than defines (R100, R150): an enclosure of the exact result in fixed point,
and a free value among the FP32 codes the stated error allows. -/

namespace Sys2Proof.Machine

/-! ### Codes near a positive magnitude -/

/-- The FP32 code at or below a positive ratio, and whether it is the ratio. -/
def floorCode (n d : Nat) : Nat × Bool :=
  if n = 0 then (0, true)
  else
    let u := ulpExp fmtFP32 n d
    let (q, r, _) := scaleDiv n d u
    (((u + 23) - (-126)).toNat * 2 ^ 23 + q, r == 0)

/-- A number known to lie at or above one natural and below another, over `2^k`, the whole range in one binade. -/
structure Encl where
  lo : Nat
  hi : Nat
  k : Nat
deriving DecidableEq, Repr

/-- The enclosure kept within `[2^w, 2^(w+1))`, where the number is known to lie. -/
def inBinade (w : Int) (b : Encl) : Encl :=
  let at_ (e : Int) : Nat := 2 ^ (e + b.k).toNat
  ⟨max b.lo (at_ w), min b.hi (at_ (w + 1)), b.k⟩

/-- The codes within `u` ulp of an enclosed positive number, chosen by a free value. -/
def codeWithin (u : Nat) (b : Encl) (fr : BitVec 64) : Nat :=
  let e := if b.lo = 0 then -149 else ulpExp fmtFP32 b.lo (2 ^ b.k)
  let step := u * 2 ^ (e + b.k).toNat
  let (c, exact) := floorCode (b.lo - step) (2 ^ b.k)
  let c' := if exact then c else c + 1
  let h := (floorCode (b.hi + step - 1) (2 ^ b.k)).1
  c' + fr.toNat % (h - c' + 1)

/-- A code within 1 ulp of a positive ratio, or of a number from it to one part in 2^199 above it. -/
def withinUlp (n d : Nat) (fr : BitVec 64) : Nat :=
  let w := floorLog2 n d
  let k := (200 - w).toNat
  let lo := n * 2 ^ k / d
  codeWithin 1 (inBinade w ⟨lo, lo + 2, k⟩) fr

/-! ### Fixed point -/

/-- floor of a dyadic number, and whether it is an integer. -/
def dyFloor (a : Dy) : Int := if 0 ≤ a.e then a.m * pow2i a.e else a.m / pow2i (-a.e)
def dyIsInt (a : Dy) : Bool := decide (0 ≤ a.e) || a.m % pow2i (-a.e) == 0

/-- The product of the roots 2^(2^−i) of the binary digits of a fraction of `n` bits, highest first, in units of 2^−64; `root`
is the next digit's. -/
def exp2Digits : Nat → Nat → Nat → Nat → Nat
  | 0, _, _, acc => acc
  | n + 1, root, f, acc =>
    exp2Digits n (Nat.sqrt (root * 2 ^ 64)) f (if f / 2 ^ n % 2 = 1 then acc * root / 2 ^ 64 else acc)

/-- 2^y enclosed, y = f / 2^48 + integer part, for y from −200 to 200. -/
def exp2Encl (y : Int) : Encl :=
  let w := y / 2 ^ 48
  let p := exp2Digits 48 (Nat.sqrt (2 ^ 129)) (y % 2 ^ 48).toNat (2 ^ 64)
  inBinade w (if 0 ≤ w then ⟨(p - 2 ^ 8) * 2 ^ w.toNat, (p + 2 ^ 18) * 2 ^ w.toNat, 64⟩ else ⟨p - 2 ^ 8, p + 2 ^ 18, 64 + (-w).toNat⟩)

/-- A dyadic number in units of 2^−48, rounded down, held between −200 and 200. -/
def fixed48 (x : Dy) : Int :=
  if dyLe x (dyInt (-200)) then -200 * 2 ^ 48 else if dyLe (dyInt 200) x then 200 * 2 ^ 48 else dyFloor ⟨x.m, x.e + 48⟩

/-- log2 e in units of 2^−100. -/
def log2e100 : Int := 1828833234529184422442202814989

/-- e^−|x| enclosed: 2^y for y within 2^−46 of −|x| log2 e. -/
def expNegEncl (x : Dy) : Encl :=
  let y := fixed48 ⟨-(x.m.natAbs : Int) * log2e100, x.e - 100⟩
  let b := exp2Encl y
  if y = -200 * 2 ^ 48 then ⟨0, 1, 200⟩ else ⟨b.lo, b.hi + (b.hi / 2 ^ 44 + 1), b.k⟩

/-- Digits of log2 of y/2^200 in [1, 2): n of them, highest first. -/
def log2Digits : Nat → Nat → Nat → Nat
  | 0, _, acc => acc
  | n + 1, y, acc =>
    let z := y * y / 2 ^ 200
    if 2 ^ 201 ≤ z then log2Digits n (z / 2) (2 * acc + 1) else log2Digits n z (2 * acc)

/-- log2 of a positive ratio in units of 2^−60, rounded down. -/
def log2Fixed (n d : Nat) : Int :=
  let k := floorLog2 n d
  let (q, _, _) := scaleDiv n d (k - 200)
  k * 2 ^ 60 + log2Digits 60 q 0

/-! ### The functions -/

/-- 2^x within 1 ulp of FP32 for x below 128. -/
def exp2Code (x : Dy) (fr : BitVec 64) : Nat := min (codeWithin 1 (exp2Encl (fixed48 x)) fr) 0x7F7FFFFF

/-- log2 of a positive ratio, sign and code: within 1 ulp, or within 2^−22 for a ratio in [0.75, 1.5]. -/
def log2Code (n d : Nat) (fr : BitVec 64) : Bool × Nat :=
  let v := log2Fixed n d
  if 3 * d ≤ 4 * n && 2 * n ≤ 3 * d then
    let near : Int := 2 ^ 38
    let t := v + (fr.toNat % (2 ^ 39 + 1) : Nat) - near
    let c := rne32Dy ⟨t, -60⟩
    let back := dyAbs (dySub (xDy (decodeFP32 (BitVec.ofNat 32 c.code))) ⟨v, -60⟩)
    let r := if dyLe back ⟨near, -60⟩ then c.code else (rne32Dy ⟨v, -60⟩).code
    (decide (2 ^ 31 ≤ r), r % 2 ^ 31)
  else
    -- v lies at most 2^10 units below the logarithm
    let b : Encl := if 0 ≤ v then ⟨v.toNat, v.toNat + 2 ^ 10, 60⟩ else ⟨(-v).toNat - 2 ^ 10, (-v).toNat + 1, 60⟩
    (decide (v < 0), codeWithin 1 b fr)

/-- tanh |x| within 2 ulp: (1 − t) / (1 + t) with t = e^(−2|x|), or x − x³/3 where |x| is below 2^−12. -/
def tanhCode (x : Dy) (fr : BitVec 64) : Nat :=
  let a := dyAbs x
  if a.m = 0 then fr.toNat % 3
  else if dyLt a ⟨1, -12⟩ then
    let v := dyMul a (dySub (dyInt 3) (dyMul a a))
    let (n, d) := dyRatio v
    let c := (floorCode n (3 * d)).1
    c - 1 + fr.toNat % 4
  else
    let t := expNegEncl ⟨2 * a.m, a.e⟩
    let one := 2 ^ t.k
    codeWithin 2 ⟨(one - t.hi) * 2 ^ 64 / (one + t.hi), min ((one - t.lo) * 2 ^ 64 / (one + t.lo) + 1) (2 ^ 64), 64⟩ fr

/-- 1 / (1 + e^−x) within 2 ulp; within 2^−149 where it is below 2^−126. -/
def sigmoidCode (x : Dy) (fr : BitVec 64) : Nat :=
  let t := expNegEncl x
  let one := 2 ^ t.k
  let b : Encl := if 0 ≤ x.m then inBinade (-1) ⟨one * 2 ^ 64 / (one + t.hi), one * 2 ^ 64 / (one + t.lo) + 1, 64⟩
    else ⟨t.lo * 2 ^ 250 / (one + t.lo), t.hi * 2 ^ 250 / (one + t.hi) + 1, 250⟩
  let small := (floorCode b.hi (2 ^ b.k)).1 < 0x00800000
  codeWithin (if small then 1 else 2) b fr

end Sys2Proof.Machine
end

