-- ==== Sys2Proof/Machine/Reduce.lean ====
section
/-! DEFINITION. The reduction unit: records and their combine, REDUCE, MERGE, CHAINRED (R98 to R109, R147, R438). -/

namespace Sys2Proof.Machine

/-! ### Values formed within a bound (R100, R104, R150) -/

/-- A signed perturbation below 2^−30 of a value, in units of 2^−62. -/
def perturbation (fr : BitVec 64) : Int := max ((fr.setWidth 33).toInt) (-(2 ^ 32 - 1))

/-- A value formed with relative error below 2^−30. -/
def perturb (a : Dy) (fr : BitVec 64) : Dy := dyMul a ⟨2 ^ 62 + perturbation fr, -62⟩

/-- rne32 of num/den formed with relative error below 2^−30; an exact zero is +0. -/
def roundRatio (num : Dy) (den : Nat) (fr : BitVec 64) : XVal × Flags :=
  let p := perturb num fr
  let (n, d) := dyRatio p
  let c := convMag fmtFP32 (decide (p.m < 0)) n (d * den) .rne false
  (decodeFP32 (BitVec.ofNat 32 (if n = 0 then 0 else c.code)), c.fl)

/-! ### Records (R98) -/

def recWord (r : BitVec 128) (i : Nat) : BitVec 32 := r.extractLsb' (32 * i) 32
def mkRec (a b c : BitVec 32) : BitVec 128 := ((0#32 ++ c) ++ b ++ a).cast (by decide)
def recVal (r : BitVec 128) (i : Nat) : XVal := decodeFP32 (recWord r i)

/-- The FP32 bits of a value that is an FP32 value or special. -/
def fp32Bits (x : XVal) : BitVec 32 := BitVec.ofNat 32 (rne32Sat x).code

def kSum : Nat := 0
def kSumsq : Nat := 1
def kMeanvar : Nat := 2
def kMax : Nat := 3
def kLse : Nat := 4

/-- A record while a fold is under way: main value and compensation exact, or the other kinds' fields. -/
structure RecVal where
  n : Nat
  a : XVal
  b : XVal
  c : XVal
  i : Int
deriving DecidableEq, Repr

def spcOf (xs : List XVal) : Flags := if xs.all xIsFin then flNone else flSpc

/-- The main value and compensation of an exact sum (R100 sum_comb, R102): a saturated, INF or NaN main value leaves
compensation 0. -/
def mainComp (x : XVal) : XVal × XVal × Flags :=
  match x with
  | .fin n m e =>
    let c := rne32Sat (.fin n m e)
    let s := decodeFP32 (BitVec.ofNat 32 c.code)
    if c.fl.ovf then (s, xZero, flOvf)
    else (s, decodeFP32 (BitVec.ofNat 32 (rne32Sat (xOfDy (dySub (xDy x) (xDy s)))).code), flNone)
  | y => (y, xZero, flNone)

/-- sum_comb. -/
def sumComb (p q : RecVal) : RecVal × Flags :=
  let (x1, f1) := xAdd p.a p.b
  let (x2, f2) := xAdd x1 q.a
  let (x3, f3) := xAdd x2 q.b
  let (s, c, fo) := mainComp x3
  ({ p with a := s, b := c }, flOr (flOr (flOr f1 f2) (flOr f3 fo)) (spcOf [p.a, q.a]))

/-- int_sum_comb: saturates at the 64-bit limits with OVF. -/
def intComb (p q : RecVal) : RecVal × Flags :=
  let v := p.i + q.i
  if 2 ^ 63 - 1 < v then ({ p with i := 2 ^ 63 - 1 }, flOvf)
  else if v < -2 ^ 63 then ({ p with i := -2 ^ 63 }, flOvf)
  else ({ p with i := v }, flNone)

/-- max with NaN winning and −0 < +0. -/
def xMax (a b : XVal) : XVal :=
  if xIsNan a || xIsNan b then .nan
  else if xLt a b then b
  else if xLt b a then a
  else if xSign a then b else a

def maxComb (p q : RecVal) : RecVal × Flags := ({ p with a := xMax p.a q.a }, spcOf [p.a, q.a])

/-- mv_comb: mean and M2 within relative error 2^−30, then rounded once; the stored count saturates with OVF. -/
def mvComb (p q : RecVal) (fr : Nat → BitVec 64) : RecVal × Flags :=
  if p.n = 0 then (q, flNone)
  else if q.n = 0 then (p, flNone)
  else
    let t := p.n + q.n
    let fo := if 2 ^ 32 - 1 < t then flOvf else flNone
    let n := min t (2 ^ 32 - 1)
    if !(xIsFin p.a && xIsFin q.a && xIsFin p.b && xIsFin q.b) then
      ({ p with n := n, a := .nan, b := .nan }, flOr fo flSpc)
    else
      let dd := dySub (xDy q.a) (xDy p.a)
      let (mean, f1) := roundRatio (dyAdd (dyMul (xDy p.a) (dyInt t)) (dyMul dd (dyInt q.n))) t (fr 0)
      let m2 := dyAdd (dyMul (dyAdd (xDy p.b) (xDy q.b)) (dyInt t)) (dyMul (dyMul dd dd) (dyInt (p.n * q.n)))
      let (v2, f2) := roundRatio m2 t (fr 1)
      ({ p with n := n, a := mean, b := v2 }, flOr fo (flOr f1 f2))

/-- exp2(a − m) for a at or below m: 0 where a − m is −INF, NaN where it is NaN. -/
def lseFactor (a m : XVal) (fr : BitVec 64) : XVal :=
  match a, m with
  | .fin n v e, .fin n' v' e' => decodeFP32 (BitVec.ofNat 32 (exp2Code (dySub (xDy (.fin n v e)) (xDy (.fin n' v' e'))) fr))
  | .inf true, .fin _ _ _ => xZero
  | .inf true, .inf false => xZero
  | .fin _ _ _, .inf false => xZero
  | _, _ => .nan

/-- lse_comb (R100, R102), and the two factors it used. -/
def lseComb (p q : RecVal) (fr : Nat → BitVec 64) : RecVal × Flags × XVal × XVal :=
  let m := xMax p.a q.a
  let fa := lseFactor p.a m (fr 0)
  let fb := lseFactor q.a m (fr 1)
  match m with
  | .nan => ({ p with a := .nan, b := .nan, c := xZero }, flSpc, fa, fb)
  | .inf false => ({ p with a := m, b := .nan, c := xZero }, ⟨false, true, true⟩, fa, fb)
  | .inf true => ({ p with a := m, b := xZero, c := xZero }, flNone, fa, fb)
  | _ =>
    if xIsNan p.b || xIsNan q.b then ({ p with a := m, b := .nan, c := xZero }, flSpc, fa, fb)
    else
      let y := dyAdd (dyMul (dyAdd (xDy p.b) (xDy p.c)) (xDy fa)) (dyMul (dyAdd (xDy q.b) (xDy q.c)) (xDy fb))
      let (l, lc, f) := mainComp (xOfDy (perturb y (fr 2)))
      ({ p with a := m, b := l, c := lc }, f, fa, fb)

def recComb (kind : Nat) (int : Bool) (p q : RecVal) (fr : Nat → BitVec 64) : RecVal × Flags :=
  if kind = kSum && int then intComb p q
  else if kind = kSum || kind = kSumsq then sumComb p q
  else if kind = kMeanvar then mvComb p q fr
  else if kind = kMax then maxComb p q
  else (let (r, f, _, _) := lseComb p q fr; (r, f))

/-- The identity of a kind (R438). -/
def recIdentity (kind : Nat) : RecVal :=
  if kind = kMax || kind = kLse then ⟨0, .inf true, xZero, xZero, 0⟩ else ⟨0, xZero, xZero, xZero, 0⟩

/-- A record's stored form, and its reading. -/
def recEncode (kind : Nat) (int : Bool) (r : RecVal) : BitVec 128 :=
  if kind = kSum && int then ((BitVec.ofInt 64 r.i).setWidth 128)
  else if kind = kSum || kind = kSumsq then mkRec (fp32Bits r.a) (fp32Bits r.b) 0
  else if kind = kMeanvar then mkRec (BitVec.ofNat 32 r.n) (fp32Bits r.a) (fp32Bits r.b)
  else if kind = kMax then mkRec (fp32Bits r.a) 0 0
  else mkRec (fp32Bits r.a) (fp32Bits r.b) (fp32Bits r.c)

def recDecode (kind : Nat) (int : Bool) (b : BitVec 128) : RecVal :=
  if kind = kSum && int then ⟨0, xZero, xZero, xZero, (b.extractLsb' 0 64).toInt⟩
  else if kind = kSum || kind = kSumsq then ⟨0, recVal b 0, recVal b 1, xZero, 0⟩
  else if kind = kMeanvar then ⟨(recWord b 0).toNat, recVal b 1, recVal b 2, xZero, 0⟩
  else if kind = kMax then ⟨0, recVal b 0, xZero, xZero, 0⟩
  else ⟨0, recVal b 0, recVal b 1, recVal b 2, 0⟩

/-- The record of a single element (R100), with the flags of its special values (R102). -/
def recSingle (kind : Nat) (x : XVal) (i : Int) : RecVal × Flags :=
  if kind = kSum then (⟨0, x, xZero, xZero, i⟩, spcOf [x])
  else if kind = kSumsq then (⟨0, xMul x x, xZero, xZero, 0⟩, spcOf [x])
  else if kind = kMeanvar then
    match x with
    | .fin _ _ _ => (⟨1, x, xZero, xZero, 0⟩, flNone)
    | .nan => (⟨1, .nan, .nan, xZero, 0⟩, flSpc)
    | .inf _ => (⟨1, .nan, .nan, xZero, 0⟩, ⟨false, true, true⟩)
  else if kind = kMax then (⟨0, x, xZero, xZero, 0⟩, spcOf [x])
  else
    match x with
    | .fin _ _ _ => (⟨0, x, decodeFP32 0x3F800000#32, xZero, 0⟩, flNone)
    | .nan => (⟨0, .nan, .nan, xZero, 0⟩, flSpc)
    | .inf true => (⟨0, x, xZero, xZero, 0⟩, flNone)
    | .inf false => (⟨0, x, .nan, xZero, 0⟩, ⟨false, true, true⟩)

/-! ### Partial registers (R98, R438) -/

def partKey (p r : Nat) : Nat := 32 * p + r
def getPart (x : Core) (p r : Nat) : BitVec 128 := tabGet 0 x.partials (partKey p r)
def getUtag (x : Core) (p : Nat) : BitVec 8 := tabGet 0 x.utags p
def utagOf (kind : Nat) (int : Bool) : BitVec 8 := BitVec.ofNat 8 (kind + 1 + 128 * b2n int)
def utagKind (t : BitVec 8) : Nat := t.toNat % 128 - 1

/-- The register's records replaced from index 0, its tag set. -/
def putPart (x : Core) (p : Nat) (l : List (BitVec 128)) (tag : BitVec 8) : Core :=
  { x with partials := tabFill 0 x.partials (partKey p 0) l.length (fun i => l.getD i 0), utags := tabSet 0 x.utags p tag }

/-- The partial registers of a thread's half (R98). -/
def partLegal (x : Core) (t : Bool) (p : Nat) : Bool := !x.split || (if t then decide (2 ≤ p) else decide (p < 2))

/-- What a COMBINE or a chain finds in a register (R438): its record, or the identity where the tag is EMPTY. -/
def partOrIdentity (x : Core) (kind : Nat) (int : Bool) (p r : Nat) : RecVal :=
  if getUtag x p = 0 then recIdentity kind else recDecode kind int (getPart x p r)

/-! ### REDUCE (R99, R101 to R103, R147) -/

/-- The element x of R99: rne32(v), or scaled by σ; the flags the product raises. -/
def reduceElem (scl : Option XVal) (v : XVal) (fv : Flags) : XVal × Flags :=
  let (v32, f1) := epiRound v
  match scl with
  | none => (v32, flOr fv f1)
  | some s =>
    let r := xMul v32 s
    let spc := spcOf [v32, s]
    let inv := if xIsNan r && !xIsNan v32 && !xIsNan s then flInv else flNone
    let (z, f2) := epiRound r
    (z, flOr (flOr fv f1) (flOr (flOr spc inv) f2))

/-- A fold of single-element records in index order (R99), with the flags of each step; `i0` numbers free values. -/
def foldRecs (kind : Nat) (int : Bool) (fr : Nat → BitVec 64) : RecVal → Nat → List (XVal × Int) → RecVal × List Flags
  | acc, _, [] => (acc, [])
  | acc, i, (x, n) :: l =>
    let (s, f1) := recSingle kind x n
    let (acc', f2) := recComb kind int acc s (fun k => fr (4 * i + k))
    let (r, fs) := foldRecs kind int fr acc' (i + 1) l
    (r, flOr f1 f2 :: fs)

/-- The record of one row or column: the fold of its first w elements. A reference enters as the left operand (m_ref, 0, 0)
(R101); the first element's own record starts the fold, rounded into record form when it is alone. -/
def tileRecord (kind : Nat) (int : Bool) (ref : Option XVal) (fr : Nat → BitVec 64) (l : List (XVal × Int)) :
    RecVal × List Flags :=
  match ref, l with
  | some m, l => foldRecs kind int fr ⟨0, m, xZero, xZero, 0⟩ 0 l
  | none, [] => (recIdentity kind, [])
  | none, (x, n) :: [] =>
    let (s, f) := recSingle kind x n
    if kind = kSumsq then (let (r, g) := recComb kind int (recIdentity kind) s fr; (r, [flOr f g])) else (s, [f])
  | none, (x, n) :: l =>
    let (s, f) := recSingle kind x n
    let (r, fs) := foldRecs kind int fr s 1 l
    (r, f :: fs)

/-- One probability p = 2^(x − m) (R101, R102). -/
def probElem (x m : XVal) (fr : BitVec 64) : XVal :=
  match m with
  | .nan => .nan
  | .inf false => .nan
  | .inf true => xZero
  | _ => if xIsNan x then .nan else lseFactor x m fr

def reduceReject (x : Core) (t : Bool) (e : QEntry) : Option (Nat × Nat) :=
  let w := e.word
  let kind := fld w 45 3
  let cols := bitB w 44
  let lse := kind == kLse
  match halfField (fld w 48 2) with
  | none => some (cfIllegalOpcode, 0)
  | some hs =>
    let q := slotReg x hs (fld w 50 4)
    let int := kind == kSum && slotInt x hs q && !bitB w 34
    let wmax := if cols then 32 else colCount hs
    if 4 < kind then some (cfIllegalOpcode, 0)
    else if !halfLegal x t hs false then some (cfIllegalMode, 0)
    else if (lse && cols) || fld w 38 6 = 0 || wmax < fld w 38 6 then some (cfIllegalMode, 0)
    else if !partLegal x t (fld w 36 2) || (lse && bitB w 28 && !partLegal x t (fld w 26 2)) then some (cfIllegalMode, 0)
    else if lse && bitB w 28 && getUtag x (fld w 26 2) ≠ utagOf kMax false && getUtag x (fld w 26 2) ≠ utagOf kLse false
      then some (cfIllegalMode, 0)
    else if bitB w 35 && getUtag x (fld w 36 2) ≠ 0 && getUtag x (fld w 36 2) ≠ utagOf kind int then some (cfIllegalMode, 0)
    else if lse then
      match formatOf (fld w 18 5) with
      | none => some (cfIllegalFormat, 0)
      | some f =>
        if f.mx && hs ≠ .full then some (cfIllegalFormat, 0)
        else if poisoned x hs q then some (cfPoisonedSlot, 0)
        else produceReject x t (fld w 23 3) (outBytes f hs)
    else if poisoned x hs q then some (cfPoisonedSlot, 0) else none

/-- When the REDUCEs in flight have written a partial register (R103). -/
def partFrom (x : Core) (p : Nat) : Nat :=
  maxL ((x.ops.filter (fun o => o.part == some (BitVec.ofNat 2 p))).map (·.due))

/-- A partial register that a CHAINRED in flight has yet to write. -/
def partBusy (x : Core) (p : Nat) : Bool :=
  x.members.any (fun m => match m.pending with | some e => fld e.word 35 2 == p && fld e.word 37 2 ≠ 2 | none => false)

/-- Whether a REDUCE sums integers (R98). -/
def reduceInt (x : Core) (e : QEntry) (hs : HalfSel) : Bool :=
  fld e.word 45 3 == kSum && slotInt x hs (slotReg x hs (fld e.word 50 4)) && !bitB e.word 34

/-- The elements a REDUCE folds, with their flags. -/
def reduceElems (x : Core) (e : QEntry) (hs : HalfSel) : List (List (XVal × Flags)) :=
  let q := slotReg x hs (fld e.word 50 4)
  let scl : Option XVal := if bitB e.word 34 then some (decodeFP32 ((opnd e (fld e.word 29 5)).setWidth 32)) else none
  (slotValues x hs q).map (·.map (fun (v, fv) =>
    if reduceInt x e hs then (v, flNone) else reduceElem scl v fv))

/-- Its lines: the first w elements of each row, or of each column. -/
def reduceLines (x : Core) (e : QEntry) (hs : HalfSel) : List (List (XVal × Int)) :=
  let iv (v : XVal) : Int := if reduceInt x e hs then xInt v else 0
  let elems := reduceElems x e hs
  let wv := fld e.word 38 6
  if bitB e.word 44 then
    (List.range (colCount hs)).map (fun j => (elems.take wv).map (fun r => let v := (r.getD j (xZero, flNone)).1; (v, iv v)))
  else elems.map (fun r => (r.take wv).map (fun v => (v.1, iv v.1)))

/-- The record of each line with the flags of its folding, and the records the partial register takes: a COMBINE into an EMPTY register
writes what INIT would (R438). -/
def reduceRecs (d : Die) (x : Core) (e : QEntry) (hs : HalfSel) : List (RecVal × List Flags) :=
  (reduceLines x e hs).zipIdx.map (fun (l, r) =>
    let ref := if fld e.word 45 3 == kLse && bitB e.word 28 then some (recVal (getPart x (fld e.word 26 2) r) 0) else none
    tileRecord (fld e.word 45 3) (reduceInt x e hs) ref (fun k => freeVal d (4096 * r + k)) l)

def reduceCombined (d : Die) (x : Core) (e : QEntry) (hs : HalfSel) : List (RecVal × Flags) :=
  let kind := fld e.word 45 3
  let int := reduceInt x e hs
  (reduceRecs d x e hs).zipIdx.map (fun ((r, _), n) =>
    if bitB e.word 35 && getUtag x (fld e.word 36 2) ≠ 0
    then recComb kind int (recDecode kind int (getPart x (fld e.word 36 2) n)) r (fun k => freeVal d (200000 + 8 * n + k))
    else (r, flNone))

/-- The probabilities of an LSE reduction, and the tile they make. -/
def reduceTile (d : Die) (x : Core) (t : Bool) (e : QEntry) (hs : HalfSel) : TileOut :=
  let pf := (formatOf (fld e.word 18 5)).getD ⟨.flt fmtFP32, 32, .c32, false, false⟩
  convTile pf (bitB e.word 17) (bitB e.word 16) (seedOf x t) d.freeCtr (colBase hs)
    ((reduceElems x e hs).zipIdx.map (fun (r, i) =>
      let m := (((reduceRecs d x e hs).getD i (recIdentity kLse, [])).1).a
      r.zipIdx.map (fun ((v, _), n) => if n < fld e.word 38 6 then probElem v m (freeVal d (300000 + 32 * i + n)) else xZero)))

/-- The flag events of a REDUCE: of its elements, of the fold's steps at the element folded in, of the combine at its line's last place. -/
def reduceEvents (d : Die) (x : Core) (e : QEntry) (hs : HalfSel) : List FlagEvent :=
  let colsDir := bitB e.word 44
  elemEvents hs ((reduceElems x e hs).zipIdx.map (fun (r, i) => r.zipIdx.map (fun ((_, f), n) =>
      if (if colsDir then i else n) < fld e.word 38 6 then f else flNone))) ++
  (reduceRecs d x e hs).zipIdx.flatMap (fun ((_, fs), r) => fs.zipIdx.flatMap (fun (f, n) =>
      if colsDir then flagEvents f n (r + colBase hs) 0xFFFF else flagEvents f r (n + colBase hs) 0xFFFF)) ++
  (reduceCombined d x e hs).zipIdx.flatMap (fun ((_, f), n) =>
      if colsDir then flagEvents f 31 (n + colBase hs) 0xFFFF else flagEvents f n (colBase hs + colCount hs - 1) 0xFFFF)

/-- The core after an accepted REDUCE whose first row leaves in cycle `first`: the partial register, the read in flight. -/
def startReduce (d : Die) (x : Core) (t : Bool) (e : QEntry) (hs : HalfSel) (tile : TileOut) (first : Nat) : Core :=
  let w := e.word
  let kind := fld w 45 3
  let lse := kind == kLse
  let int := reduceInt x e hs
  let u := fld w 36 2
  let es := reduceEvents d x e hs ++ (if lse then tile.events else [])
  let op := { readOp d x t e .reduce hs (slotReg x hs (fld w 50 4)) first 31 41 es with
    ring := if lse then some (BitVec.ofNat 3 (fld w 23 3)) else none, part := some (BitVec.ofNat 2 u),
    wports := if lse then 1 else 0 }
  putPart (addOp (if lse then spendDraws x t tile.draws else x) op) u ((reduceCombined d x e hs).map (fun r => recEncode kind int r.1))
    (utagOf kind int)

/-- REDUCE (R75, R99, R103, R147): the holds on its register and on the partial registers it reads, what rejects it, then its ring. -/
def issueReduce : IssueFn := fun d0 c t e =>
  let w := e.word
  let lse := fld w 45 3 == kLse
  match halfField (fld w 48 2) with
  | none => faulted d0 c t e cfIllegalOpcode 0
  | some hs =>
    let x0 := getCore d0 c
    let reads := (if bitB w 35 then [fld w 36 2] else []) ++ (if lse && bitB w 28 then [fld w 26 2] else [])
    if readHeld x0 t hs (slotReg x0 hs (fld w 50 4)) (fld w 50 4) e || reads.any (partBusy x0) then held
    else
      let d := waitUntil d0 (maxL (d0.aclk :: reads.map (partFrom x0)))
      let x := getCore d c
      match reduceReject x t e with
      | some (code, det) => faulted d c t e code det
      | none =>
        if lse && !produceReady x (fld w 23 3) then held
        else
          let tile := reduceTile d x t e hs
          let first := max (d.aclk + 1) (edgeFree x hs)
          let d1 := drew (setCore d c (startReduce d x t e hs tile first))
          some (if lse then produceInto d1 c (fld w 23 3) e.seq (first + 42) (tileBytes tile) else d1)

/-! ### MERGE (R104, R148) -/

/-- The operand rules of R148 for a core-store operand. -/
def operandFault (lo n : Nat) : Option Nat :=
  if lo % 64 ≠ 0 then some cfStoreAlign else if storeSize < lo + n then some cfStoreRange else none

/-- A destination may coincide exactly with a source, both ends alike; any other overlap is a fault. -/
def overlapFault (dst dn src sn : Nat) : Bool := rangesMeet dst dn src sn && !(dst == src && dn == sn)

def firstSome (l : List (Option Nat)) : Option Nat := (l.filterMap id).head?

def mergeReject (x : Core) (t : Bool) (e : QEntry) : Option Nat :=
  let w := e.word
  let ps := [fld w 52 2, fld w 50 2, fld w 48 2]
  let n := 32 * (32 * (fld w 27 3 + 1)) * 4
  let o1 := (opnd e (fld w 42 6)).toNat
  let o2 := (opnd e (fld w 36 6)).toNat
  let od := (opnd e (fld w 30 6)).toNat
  if ps.any (fun p => !partLegal x t p) then some cfIllegalMode
  else if getUtag x (fld w 52 2) ≠ utagOf kLse false || getUtag x (fld w 50 2) ≠ utagOf kLse false then some cfIllegalMode
  else match firstSome [operandFault o1 n, operandFault o2 n, operandFault od n] with
    | some f => some f
    | none => if overlapFault od n o1 n || overlapFault od n o2 n then some cfStoreOverlap else none

/-- Words of FP32 in core store. -/
def storeWord (d : Die) (c : CoreId) (o i : Nat) : BitVec 32 := BitVec.ofNat 32 (memLE d.mem (storeBase c + o + 4 * i) 4)

/-- An o element of two merged triples (R104), by the factors of its row: rne32 of the weighted sum formed within relative error 2^−30, with
R89 and R53 for special values. Of a row whose two records both have m = −INF the spec gives no factors: the element is free. -/
def mergeO (masked : Bool) (fa fb a b : XVal) (fr : BitVec 64) : XVal × Flags :=
  if masked then (decodeFP32 (fr.setWidth 32), flNone)
  else if xIsFin a && xIsFin b && xIsFin fa && xIsFin fb then
    let c := rne32Dy (perturb (dyAdd (dyMul (xDy a) (xDy fa)) (dyMul (xDy b) (xDy fb))) fr)
    (decodeFP32 (BitVec.ofNat 32 c.code), c.fl)
  else
    let p := xMul a fa
    let q := xMul b fb
    let (z, f) := xAdd p q
    let inv := (xIsNan p && !xIsNan a && !xIsNan fa) || (xIsNan q && !xIsNan b && !xIsNan fb)
    ((match z with | .fin n m e => decodeFP32 (fp32Bits (.fin n m e)) | y => y), flOr (flOr f flSpc) (if inv then flInv else flNone))

/-- A REDUCE into one of the registers, dispatched earlier by the thread, still waits to issue (R103, R135). -/
def earlierReduce (x : Core) (t : Bool) (seq : Nat) (ps : List Nat) : Bool :=
  (getThread x t).edge.any (fun f => decide (f.seq < seq) && fld f.word 58 6 == 0x28 && ps.contains (fld f.word 36 2))

/-- The merged records of a MERGE with the factors of each row, and the o elements. -/
def mergeRows (d : Die) (c : CoreId) (e : QEntry) : List (RecVal × Flags × XVal × XVal) :=
  (List.range 32).map (fun r => lseComb (recDecode kLse false (getPart (getCore d c) (fld e.word 52 2) r))
    (recDecode kLse false (getPart (getCore d c) (fld e.word 50 2) r)) (fun k => freeVal d (8 * r + k)))

def mergeOs (d : Die) (c : CoreId) (e : QEntry) : List (XVal × Flags) :=
  let dd := 32 * (fld e.word 27 3 + 1)
  (mergeRows d c e).zipIdx.flatMap (fun ((v, _, fa, fb), r) => (List.range dd).map (fun k =>
    mergeO (v.a == .inf true) fa fb (decodeFP32 (storeWord d c (opnd e (fld e.word 42 6)).toNat (r * dd + k)))
      (decodeFP32 (storeWord d c (opnd e (fld e.word 36 6)).toNat (r * dd + k))) (freeVal d (1000 + r * dd + k))))

/-- MERGE (R103, R104): the holds on its two registers, then what rejects it. -/
def issueMerge : IssueFn := fun d0 c t e =>
  let x0 := getCore d0 c
  let w := e.word
  let ps := [fld w 52 2, fld w 50 2]
  if ps.any (partBusy x0) || earlierReduce x0 t e.seq ps then held
  else
    let d := waitUntil d0 (maxL (d0.aclk :: ps.map (partFrom x0)))
    let x := getCore d c
    match mergeReject x t e with
    | some code => faulted d c t e code 0
    | none =>
      let dd := 32 * (fld w 27 3 + 1)
      let rows := mergeRows d c e
      let os := mergeOs d c e
      let th := getThread x t
      let v1 := rows.zipIdx.foldl (fun v ((_, f, _, _), r) => vstatAdd v e.pc r f) th.vstat
      let v2 := os.zipIdx.foldl (fun v ((_, f), n) => vstatAdd v e.pc n f) v1
      let x1 := putPart x (fld w 48 2) (rows.map (fun r => recEncode kLse false r.1)) (utagOf kLse false)
      let x2 := setThread x1 t { th with vstat := v2, vecWork := th.vecWork ++ [vecWorkOf d c none 13 (32 * dd) 64 32 1] }
      some (putStore (drew (setCore d c x2)) c (opnd e (fld w 30 6)).toNat (os.flatMap (fun o => leBytes 4 (fp32Bits o.1).toNat)))

/-- MERGE under the issue throttle: 2·D (R344). -/
def pacedMerge : IssueFn := paced (fun e => 64 * (fld e.word 27 3 + 1)) issueMerge

/-! ### CHAINRED (R105 to R108) -/

/-- Local partials travel as 16-byte records: records, then o rows, or FP32 pairs of a slot two to a record. -/
def flitOfRecs (l : List (BitVec 128)) : BitVec 1024 := BitVec.ofNat 1024 (leNat (l.flatMap (fun r => leBytes 16 r.toNat)))

def recsOfFlit (f : BitVec 1024) : List (BitVec 128) := (List.range 8).map (fun i => f.extractLsb' (128 * i) 128)

def toFlits : Nat → List (BitVec 128) → List (BitVec 1024)
  | 0, _ => []
  | fuel + 1, l => if l.isEmpty then [] else flitOfRecs (l.take 8) :: toFlits fuel (l.drop 8)

def chainMember (x : Core) (t : Bool) (id : Nat) : Option Member :=
  x.members.find? (fun m => m.kind == .chain && m.id.toNat == id && some m.itin == (getThread x t).itin)

def replaceMember (x : Core) (m n : Member) : Core := { x with members := x.members.map (fun y => if y = m then n else y) }

/-- Two FP32 pairs of a record combined by sum_comb, or two 64-bit integers, and the flags of each half (R102). -/
def pairComb (int : Bool) (a b : BitVec 128) : BitVec 128 × List Flags :=
  let half (lo : Nat) : BitVec 64 × Flags :=
    if int then
      let (r, f) := intComb ⟨0, xZero, xZero, xZero, (a.extractLsb' lo 64).toInt⟩ ⟨0, xZero, xZero, xZero, (b.extractLsb' lo 64).toInt⟩
      (BitVec.ofInt 64 r.i, f)
    else
      let g (v : BitVec 128) (o : Nat) : XVal := decodeFP32 (v.extractLsb' (lo + o) 32)
      let (r, f) := sumComb ⟨0, g a 0, g a 32, xZero, 0⟩ ⟨0, g b 0, g b 32, xZero, 0⟩
      ((fp32Bits r.b ++ fp32Bits r.a).cast (by decide), f)
  (((half 64).1 ++ (half 0).1).cast (by decide), [(half 0).2, (half 64).2])

/-- Incoming ⊕ local, as 16-byte records (R105 step 2): the incoming partial is the left operand. An EMPTY local register holds the
identity, so the incoming records stand (R438). With a slot's records go the flags of its elements, in order. -/
def chainCombine (kind lsrc : Nat) (int bare : Bool) (dd : Nat) (fr : Nat → BitVec 64) (inc loc : List (BitVec 128)) :
    List (BitVec 128) × List Flags :=
  if lsrc = 2 then
    let ps := (inc.zip loc).map (fun (a, b) => pairComb int a b)
    (ps.map (·.1), ps.flatMap (·.2))
  else
    let nr := if lsrc = 1 then 32 else loc.length
    let one := decodeFP32 0x3F800000#32
    let rows : List (BitVec 128 × Bool × XVal × XVal) := ((inc.take nr).zip (loc.take nr)).zipIdx.map (fun ((a, b), r) =>
      if bare then (a, xMax (recVal a 0) (.inf true) == .inf true, one, xZero)
      else if kind = kLse then
        let (v, _, fa, fb) := lseComb (recDecode kLse false a) (recDecode kLse false b) (fun k => fr (8 * r + k))
        (recEncode kLse false v, v.a == .inf true, fa, fb)
      else (recEncode kind int (recComb kind int (recDecode kind int a) (recDecode kind int b) (fun k => fr (8 * r + k))).1,
        false, one, one))
    let per := dd / 4      -- records of four o elements per row
    let os := ((inc.drop nr).zip (loc.drop nr)).zipIdx.map (fun ((a, b), n) =>
      let (_, masked, fa, fb) := rows.getD (n / per) (0#128, false, one, one)
      let el (i : Nat) : BitVec 32 := fp32Bits (mergeO masked fa fb (recVal a i) (recVal b i) (fr (1000 + 4 * n + i))).1
      ((el 3 ++ el 2) ++ (el 1 ++ el 0)).cast (by decide))
    (rows.map (·.1) ++ os, [])

/-- The value of a chain's slot element, from its pair. -/
def pairValue (int : Bool) (l : List (BitVec 128)) (n : Nat) : XVal :=
  let r := l.getD (n / 2) 0
  let lo := 64 * (n % 2)
  if int then xOfDy ⟨(r.extractLsb' lo 64).toInt, 0⟩
  else (xAdd (decodeFP32 (r.extractLsb' lo 32)) (decodeFP32 (r.extractLsb' (lo + 32) 32))).1

/-- Whether a CHAINRED carries integers, by its slot or register. A SUM whose local register is EMPTY is taken as floating, whatever comes
in (DESIGN CHOICE, assumption log: R438 gives both identities and does not say which applies). -/
def chainInt (x : Core) (w : BitVec 64) : Bool :=
  if fld w 37 2 = 2 then
    match halfField (fld w 29 2) with
    | some hs => slotInt x hs (slotReg x hs (fld w 31 4))
    | none => false
  else fld w 39 3 == kSum && getUtag x (fld w 35 2) == utagOf kSum true

/-- Flits leave while credits last (R107). -/
def pumpChain (d : Die) (c : CoreId) (m : Member) : Die :=
  let k := min m.credits m.outgoing.length
  let n := { m with credits := m.credits - k, outgoing := m.outgoing.drop k, sent := m.sent + k }
  let d1 := setCore d c (replaceMember (getCore d c) m n)
  match m.down with
  | none => d1
  | some (die, core, ring) => (m.outgoing.take k).foldl (fun e f => send e (.stream .chain m.id die core ring m.downParty m.downEpoch 0 0 f)) d1

/-- Flags that a chain's combine or conversion raises join the read they belong to (R102, R126). -/
def chainEvents (now : Nat) (x : Core) (t : Bool) (e : QEntry) (es : List FlagEvent) : Core :=
  passTime now { x with ops := x.ops.map (fun o =>
    if o.kind == .chain && o.seq == e.seq && o.thread == t then { o with evs := o.evs ++ rowTimes o.start 2 es } else o) }

/-- The last member's write (R105 step 3): the register, the triple, or the converted slot in core store. -/
def chainWrite (d : Die) (c : CoreId) (t : Bool) (e : QEntry) (int : Bool) (l : List (BitVec 128)) : Die :=
  let w := e.word
  let x := getCore d c
  let kind := fld w 39 3
  let ro := (opnd e (fld w 20 6)).toNat
  match fld w 37 2 with
  | 0 => setCore d c (putPart x (fld w 35 2) l (utagOf kind int))
  | 1 =>
    putStore (setCore d c (putPart x (fld w 35 2) (l.take 32) (utagOf kLse false))) c ro
      ((l.drop 32).flatMap (fun r => leBytes 16 r.toNat))
  | _ =>
    match halfField (fld w 29 2), formatOf (fld w 15 5) with
    | some hs, some f =>
      let vals := (List.range 32).map (fun i => (List.range (colCount hs)).map (fun n => pairValue int l (i * colCount hs + n)))
      let tile := convTile f (bitB w 14) (bitB w 13) (seedOf x t) d.freeCtr (colBase hs) vals
      storeRows (drew (setCore d c (chainEvents d.aclk (spendDraws x t tile.draws) t e tile.events))) c ro (rowBytes f hs) tile
    | _, _ => d

/-- The credits of a transfer's flits go back upstream. -/
def chainCredits (m : Member) (d : Die) : Die :=
  match m.up with
  | some (die, core, ring) =>
    (List.range (if m.pos = 0 then 0 else m.flits)).foldl (fun e _ => send e (.streamCredit .chain m.id die core ring)) d
  | none => d

/-- A member whose CHAINRED has its local partial and every incoming flit acts (R105): it forwards or writes the result,
and its buffer's credits go back upstream. -/
def chainAct (d : Die) (c : CoreId) (m : Member) : Die :=
  match m.pending with
  | none => d
  | some e =>
    let w := e.word
    if m.pos ≠ 0 && m.incoming.length < m.flits then d
    else
      let inc := (m.incoming.take m.flits).flatMap recsOfFlit
      let hs := (halfField (fld w 29 2)).getD .full
      let (res, fl) := if m.pos = 0 then (m.local_, [])
        else chainCombine (fld w 39 3) (fld w 37 2) m.ints m.bare (32 * (fld w 26 3 + 1)) (freeVal d) (inc.take m.local_.length) m.local_
      let es := fl.zipIdx.flatMap (fun (f, n) => flagEvents f (n / colCount hs) (n % colCount hs + colBase hs) 0xFFFF)
      let n := { m with pending := none, local_ := [], incoming := m.incoming.drop m.flits }
      let x := chainEvents d.aclk (getCore d c) m.thread e es
      let d1 := chainCredits m (drew d)
      if m.pos + 1 = m.count then chainWrite (setCore d1 c (replaceMember x m n)) c m.thread e m.ints res
      else
        let n' := { n with outgoing := n.outgoing ++ toFlits (res.length + 1) res }
        pumpChain (setCore d1 c (replaceMember x m n')) c n'

def chainReject (x : Core) (t : Bool) (e : QEntry) : Option Nat :=
  let w := e.word
  let kind := fld w 39 3
  let lsrc := fld w 37 2
  let ro := (opnd e (fld w 20 6)).toNat
  let p := fld w 35 2
  if lsrc = 3 || 4 < kind then some cfIllegalOpcode
  else match chainMember x t (fld w 42 12) with
    | none => some cfIllegalMode
    | some m =>
      if lsrc = 2 then
        match halfField (fld w 29 2) with
        | none => some cfIllegalOpcode
        | some hs =>
          if kind ≠ kSum || !halfLegal x t hs false then some cfIllegalMode
          else if poisoned x hs (slotReg x hs (fld w 31 4)) then some cfPoisonedSlot
          else if m.pos + 1 = m.count then
            match formatOf (fld w 15 5) with
            | none => some cfIllegalFormat
            | some f => if f.mx && hs ≠ .full then some cfIllegalFormat else operandFault ro (outBytes f hs)
          else none
      else if !partLegal x t p then some cfIllegalMode
      else if getUtag x p ≠ 0 && getUtag x p ≠ utagOf kind false && getUtag x p ≠ utagOf kind true then some cfIllegalMode
      else if lsrc = 1 then (if kind ≠ kLse then some cfIllegalMode else operandFault ro (32 * 32 * (fld w 26 3 + 1) * 4))
      else none

/-- A slot's elements as they travel: (s, c) pairs, or 64-bit integers, two to a record; and the flags of forming them (R102, R105). -/
def chainSlot (x : Core) (hs : HalfSel) (q : Nat) (int : Bool) : List (BitVec 128) × List (List Flags) :=
  let vals := slotValues x hs q
  let pair (v : XVal) : BitVec 64 × Flags :=
    if int then (BitVec.ofInt 64 (xInt v), flNone)
    else (let (s, k, f) := mainComp v; ((fp32Bits k ++ fp32Bits s).cast (by decide), flOr f (spcOf [v])))
  let flat := vals.flatten.map (fun v => (pair v.1).1)
  ((List.range (flat.length / 2)).map (fun n => ((flat.getD (2 * n + 1) 0 ++ flat.getD (2 * n) 0).cast (by decide) : BitVec 128)),
   vals.map (·.map (fun v => flOr v.2 (pair v.1).2)))

/-- A CHAINRED of a slot accepted: the read in flight, and the member with its local partial. -/
def startChainSlot (d : Die) (c : CoreId) (t : Bool) (e : QEntry) (hs : HalfSel) (m : Member) : Die :=
  let x := getCore d c
  let q := slotReg x hs (fld e.word 31 4)
  let int := chainInt x e.word
  let (loc, fl) := chainSlot x hs q int
  let first := max (d.aclk + 1) (edgeFree x hs)
  let n := { m with local_ := loc, pending := some e, thread := t, ints := int, reg := BitVec.ofNat 4 q, bare := false }
  chainAct (drew (setCore d c (replaceMember (addOp x (readOp d x t e .chain hs q first 63 68 (elemEvents hs fl))) m n))) c n

/-- A CHAINRED of a partial register, or of an LSE triple with its o rows. -/
def startChainPart (d : Die) (c : CoreId) (t : Bool) (e : QEntry) (m : Member) : Die :=
  let x := getCore d c
  let w := e.word
  let triple := fld w 37 2 == 1
  let recs := (List.range (if triple then 32 else 8 * m.flits)).map (fun r =>
    recEncode (fld w 39 3) (chainInt x w) (partOrIdentity x (fld w 39 3) (chainInt x w) (fld w 35 2) r))
  let os := if triple then (List.range (256 * (fld w 26 3 + 1))).map (fun n =>
      BitVec.ofNat 128 (memLE d.mem (storeBase c + (opnd e (fld w 20 6)).toNat + 16 * n) 16)) else []
  let n := { m with local_ := recs ++ os, pending := some e, thread := t, ints := chainInt x w, bare := getUtag x (fld w 35 2) == 0 }
  chainAct (setCore d c (replaceMember x m n)) c n

/-- The issue of a CHAINRED that reads a partial register. -/
def issueChainPart : IssueFn := fun d0 c t e =>
  let x0 := getCore d0 c
  let p := fld e.word 35 2
  if partBusy x0 p then held
  else
    let d := waitUntil d0 (max d0.aclk (partFrom x0 p))
    match chainReject (getCore d c) t e, chainMember (getCore d c) t (fld e.word 42 12) with
    | some code, _ => faulted d c t e code 0
    | none, none => faulted d c t e cfIllegalMode 0
    | none, some m => if m.pending.isSome then held else some (startChainPart d c t e m)

/-- CHAINRED (R75, R103, R105, R147): the holds on its register, then what rejects it. -/
def issueChainred : IssueFn := fun d0 c t e =>
  let x0 := getCore d0 c
  let w := e.word
  let slot := fld w 37 2 == 2
  match halfField (fld w 29 2) with
  | none => if slot then faulted d0 c t e cfIllegalOpcode 0 else issueChainPart d0 c t e
  | some hs =>
    if slot then
      if readHeld x0 t hs (slotReg x0 hs (fld w 31 4)) (fld w 31 4) e then held
      else match chainReject x0 t e, chainMember x0 t (fld w 42 12) with
        | some code, _ => faulted d0 c t e code 0
        | none, none => faulted d0 c t e cfIllegalMode 0
        | none, some m => if m.pending.isSome then held else some (startChainSlot d0 c t e hs m)
    else issueChainPart d0 c t e

/-! ### The commands -/

def execReduce (c : CoreId) (t : Bool) (w : BitVec 58) (s : State) :=
  onDie (dispatch c t 0x28 w (enqueue .edge c t countRead issueReduce)) s
/-- A CHAINRED that reads no slot delivers no status word, so only a slot read counts for later STAMPs. -/
def chainPrep (w : BitVec 58) (th : Thread) : Thread := if fld w 37 2 = 2 then countRead th else th
def execChainred (c : CoreId) (t : Bool) (w : BitVec 58) (s : State) :=
  onDie (dispatch c t 0x29 w (enqueue .edge c t (chainPrep w) issueChainred)) s
def execMerge (c : CoreId) (t : Bool) (w : BitVec 58) (s : State) :=
  onDie (dispatch c t 0x2A w (enqueue .vec c t id pacedMerge)) s

end Sys2Proof.Machine
end

