-- ==== Sys2Proof/Machine/Vector.lean ====
section
/-! DEFINITION. The vector unit: VOP, VCVT, VFN, VRED, VPERM (R148 to R152). -/

namespace Sys2Proof.Machine

/-! ### Elementwise arithmetic (R149) -/

/-- An input: a NaN gives the canonical NaN with SPC, an INF is clamped with SPC under SAT 0 and kept with SPC under 1. -/
def vecInput (sat : Bool) (x : XVal) : XVal × Flags := epiInput sat x

/-- A result rounded to FP32: an overflow saturates, or is INF under SAT 1, with OVF either way. -/
def vecRound (sat : Bool) (x : XVal) : Nat × Flags :=
  match x with
  | .fin n m e => let c := convFloat fmtFP32 (.fin n m e) .rne sat; (c.code, c.fl)
  | .nan => (0x7FC00000, flNone)
  | .inf n => (withSign fmtFP32 n (infCode fmtFP32), flNone)

/-- The exact sum with IEEE 754's sign of a zero sum: −0 only of two −0. -/
def vecSum (a b : XVal) : XVal × Flags :=
  if xIsZero a && xIsZero b && xSign a && xSign b then (a, flNone) else xAdd a b

def vecMin (a b : XVal) : XVal := if xIsNan a || xIsNan b then .nan else if xLt a b then a else if xLt b a then b
  else if xSign a then a else b

/-- An invalid operation: a NaN from inputs that were none. -/
def invalidOf (r : XVal) (ins : List XVal) : Flags := if xIsNan r && ins.all (fun x => !xIsNan x) then flInv else flNone

/-- One VOP element: FN, the sources, the destination's old value (FMAD), σ. None for a reserved FN. -/
def vopElem (fn : Nat) (sat : Bool) (a b old sg : XVal) : Option (Nat × Flags) :=
  let (a', fa) := vecInput sat a
  let bin (y : XVal) (f : XVal → XVal → XVal × Flags) : Option (Nat × Flags) :=
    let (y', fy) := vecInput sat y
    let (r, fr) := f a' y'
    let (c, fc) := vecRound sat r
    some (c, flOr (flOr fa fy) (flOr fr fc))
  let mulF (u v : XVal) : XVal × Flags := (xMul u v, invalidOf (xMul u v) [u, v])
  match fn with
  | 0 => bin b vecSum
  | 1 => bin b (fun u v => vecSum u (xNeg v))
  | 2 => bin b mulF
  | 3 => bin b (fun u v => (xMax u v, flNone))
  | 4 => bin b (fun u v => (vecMin u v, flNone))
  | 5 => bin sg vecSum
  | 6 => bin sg mulF
  | 7 =>
    let (b', fb) := vecInput sat b
    let (o', fo) := vecInput sat old
    let p := xMul a' b'
    let (r, fr) := vecSum p o'
    let (c, fc) := vecRound sat r
    some (c, flOr (flOr fa (flOr fb fo)) (flOr (flOr fr fc) (invalidOf p [a', b'])))
  | 8 => let (c, fc) := vecRound sat (match a' with | .fin _ m e => .fin false m e | .inf _ => .inf false | y => y); some (c, flOr fa fc)
  | 9 => let (c, fc) := vecRound sat (xNeg a'); some (c, flOr fa fc)
  | 10 => let (c, fc) := vecRound sat a'; some (c, flOr fa fc)
  | _ => none

/-! ### VFN (R150) -/

/-- A magnitude code that may overflow, with a sign (R149). -/
def codeResult (sat neg : Bool) (c : Nat) : Nat × Flags :=
  if fmtFP32.maxCode < c then (let v := overflowConv fmtFP32 neg sat; (v.code, v.fl)) else (withSign fmtFP32 neg c, flNone)

/-- An INF result: INF under SAT 1, the largest finite value of its sign under SAT 0. -/
def infResult (sat neg : Bool) : Nat := withSign fmtFP32 neg (if sat then infCode fmtFP32 else fmtFP32.maxCode)

/-- One VFN element: the accuracy of R150 as a free value among the codes the error allows, exact special cases. -/
def vfnElem (fn : Nat) (sat : Bool) (a : XVal) (fr : BitVec 64) : Option (Nat × Flags) :=
  let (x, fx) := vecInput sat a
  match fn, x with
  | 0, .nan => some (0x7FC00000, fx)
  | 1, .nan => some (0x7FC00000, fx)
  | 2, .nan => some (0x7FC00000, fx)
  | 3, .nan => some (0x7FC00000, fx)
  | 4, .nan => some (0x7FC00000, fx)
  | 5, .nan => some (0x7FC00000, fx)
  | 0, .inf true => some (0, fx)
  | 0, .inf false => some (infResult sat false, flOr fx flOvf)
  | 0, .fin n m e =>
    if dyLe (dyInt 128) (xDy (.fin n m e)) then some (infResult sat false, flOr fx flOvf)
    else some (exp2Code (xDy (.fin n m e)) fr, fx)
  | 1, .inf false => some (infResult sat false, fx)
  | 1, .inf true => some (0x7FC00000, flOr fx flInv)
  | 1, .fin n m e =>
    if m = 0 then some (infResult sat true, fx)
    else if n then some (0x7FC00000, flOr fx flInv)
    else
      let (p, q) := dyRatio ⟨m, e⟩
      let (neg, c) := log2Code p q fr
      some (withSign fmtFP32 neg c, fx)
  | 2, .inf n => some (withSign fmtFP32 n 0, fx)
  | 2, .fin n m e =>
    if m = 0 then some (infResult sat n, fx)
    else
      let (p, q) := dyRatio ⟨m, e⟩
      let (c, f) := codeResult sat n (withinUlp q p fr)
      some (c, flOr fx f)
  | 3, .inf false => some (0, fx)
  | 3, .inf true => some (0x7FC00000, flOr fx flInv)
  | 3, .fin n m e =>
    if m = 0 then some (infResult sat n, fx)
    else if n then some (0x7FC00000, flOr fx flInv)
    else
      let (p, q) := dyRatio ⟨m, e⟩
      let big := q * 2 ^ 512 / p
      let r := Nat.sqrt big
      some ((codeResult sat false (withinUlp r (2 ^ 256) fr)).1, fx)
  | 4, .inf n => some (withSign fmtFP32 n 0x3F800000, fx)
  | 4, .fin n m e => some (withSign fmtFP32 n (tanhCode (xDy (.fin n m e)) fr), fx)
  | 5, .inf true => some (0, fx)
  | 5, .inf false => some (0x3F800000, fx)
  | 5, .fin n m e => some (sigmoidCode (xDy (.fin n m e)) fr, fx)
  | _, _ => none

/-! ### Operands (R148) -/

def vecN (e : QEntry) : Nat := (opnd e (fld e.word 26 6)).toNat
def vecRD (e : QEntry) : Nat := (opnd e (fld e.word 44 6)).toNat
def vecRA (e : QEntry) : Nat := (opnd e (fld e.word 38 6)).toNat
def vecRB (e : QEntry) : Nat := (opnd e (fld e.word 32 6)).toNat

/-- Bytes of n elements of a format, the scale plane included. -/
def fmtBytes (f : Format) (n : Nat) : Nat := planeBytes f.width n + (if f.mx then n / 32 else 0)

/-- Alignment and range of every operand, then overlap of the destination with each source. -/
def vecCheck (srcs : List (Nat × Nat)) (dst : Option (Nat × Nat)) : Option Nat :=
  match firstSome ((srcs ++ dst.toList).map (fun p => operandFault p.1 p.2)) with
  | some f => some f
  | none => match dst with
    | none => none
    | some (o, n) => if srcs.any (fun p => overlapFault o n p.1 p.2) then some cfStoreOverlap else none

/-- Vector work in flight: the thread's status register takes the elements' flags, and the work ends at its time (R151). -/
def vecPost (x : Core) (t : Bool) (e : QEntry) (fl : List Flags) (work : Work) : Core :=
  let th := getThread x t
  let v := fl.zipIdx.foldl (fun v (f, i) => vstatAdd v e.pc i f) th.vstat
  setThread x t { th with vstat := v, vecWork := th.vecWork ++ [work] }

/-- The first results are written 3 + P ACLK after issue, the last 3 + P after the last elements have moved (R151). -/
def vecDue (d : Die) (c : CoreId) (p n bin bout cap : Nat) : Work := vecWorkOf d c none (3 + p) n bin bout cap

def elemAt (d : Die) (c : CoreId) (f : Format) (o i : Nat) : Nat := elemCode (fun k => storeByte d c (o + k)) f.width i

def fp32At (d : Die) (c : CoreId) (o i : Nat) : XVal := decodeFP32 (storeWord d c o i)

def vopBinary (fn : Nat) : Bool := fn ≤ 4 || fn = 7

/-- The results of a VOP with their flags. -/
def vopResults (d : Die) (c : CoreId) (e : QEntry) : List (Nat × Flags) :=
  let fn := fld e.word 50 4
  let sg := decodeFP32 ((opnd e (fld e.word 9 5)).setWidth 32)
  (List.range (vecN e)).map (fun i =>
    (vopElem fn (bitB e.word 14) (fp32At d c (vecRA e) i) (if vopBinary fn then fp32At d c (vecRB e) i else xZero)
      (fp32At d c (vecRD e) i) sg).getD (0, flNone))

def issueVop : IssueFn := fun d c t e =>
  let w := e.word
  let fn := fld w 50 4
  let n := vecN e
  if 10 < fn then faulted d c t e cfIllegalOpcode 0
  else if n = 0 then some d
  else if fld w 21 5 ≠ 0 then faulted d c t e cfIllegalFormat 0
  else match vecCheck ((vecRA e, 4 * n) :: (if vopBinary fn then [(vecRB e, 4 * n)] else [])) (some (vecRD e, 4 * n)) with
    | some f => faulted d c t e f 0
    | none =>
      let rs := vopResults d c e
      let x := vecPost (getCore d c) t e (rs.map (·.2))
        (vecDue d c 4 n (if fn = 7 then 96 else if vopBinary fn then 64 else 32) 32 4)
      some (putStore (setCore d c x) c (vecRD e) (rs.flatMap (fun r => leBytes 4 r.1)))

/-- The results of a VFN with their flags. -/
def vfnResults (d : Die) (c : CoreId) (e : QEntry) : List (Nat × Flags) :=
  (List.range (vecN e)).map (fun i =>
    (vfnElem (fld e.word 50 4) (bitB e.word 14) (fp32At d c (vecRA e) i) (freeVal d i)).getD (0, flNone))

def issueVfn : IssueFn := fun d c t e =>
  let w := e.word
  let fn := fld w 50 4
  let n := vecN e
  if 5 < fn then faulted d c t e cfIllegalOpcode 0
  else if n = 0 then some d
  else if fld w 21 5 ≠ 0 then faulted d c t e cfIllegalFormat 0
  else match vecCheck [(vecRA e, 4 * n)] (some (vecRD e, 4 * n)) with
    | some f => faulted d c t e f 0
    | none =>
      let rs := vfnResults d c e
      let x := vecPost (getCore d c) t e (rs.map (·.2)) (vecDue d c 8 n 32 32 4)
      some (putStore (drew (setCore d c x)) c (vecRD e) (rs.flatMap (fun r => leBytes 4 r.1)))

/-- The source elements of a VCVT, decoded exactly, an MX source with its block scales (R48). -/
def vcvtSource (d : Die) (c : CoreId) (f : Format) (o n : Nat) : List XVal :=
  let plane := planeBytes f.width n
  (List.range n).map (fun i =>
    let v := decodeElem f.kind (elemAt d c f o i)
    if f.mx then scaled v (scaleExp (storeByte d c (o + plane + i / 32)).toNat) else v)

/-- The flags of the elements of a VCVT (R54, R152): those of a block go to the elements that raise them, a clamped scale to the block's
first. -/
def vcvtFlags (g : Format) (sat : Bool) (r : RowOut) (xs : List XVal) : List Flags :=
  if g.mx then
    (chunk32 xs.length xs).flatMap (fun b =>
      let dead := b.any xIsNan || (sat && b.any xIsInf)
      let clamped := !dead && ((blockShared g.kind (b.map clampInfFP32)).map (·.2)).getD false
      b.zipIdx.map (fun (x, i) => flOr (spcOf [x]) (if clamped && i = 0 then flOvf else flNone)))
  else r.fl

/-- The tile a VCVT writes. -/
def vcvtTile (d : Die) (c : CoreId) (t : Bool) (e : QEntry) (f g : Format) : TileOut :=
  convTile g (bitB e.word 15) (bitB e.word 14) (seedOf (getCore d c) t) d.freeCtr 0 [vcvtSource d c f (vecRA e) (vecN e)]

/-- VCVT: n = 0 completes before its formats are looked at, though a reserved FN is a fault (DESIGN CHOICE, assumption log: R43 and R148 do
not say which comes first). -/
def issueVcvt : IssueFn := fun d c t e =>
  let w := e.word
  let n := vecN e
  if fld w 50 4 ≠ 0 then faulted d c t e cfIllegalOpcode 0
  else if n = 0 then some d
  else match formatOf (fld w 21 5), formatOf (fld w 16 5) with
    | some f, some g =>
      if (f.mx || g.mx) && n % 32 ≠ 0 then faulted d c t e cfIllegalFormat 0
      else match vecCheck [(vecRA e, fmtBytes f n)] (some (vecRD e, fmtBytes g n)) with
        | some k => faulted d c t e k 0
        | none =>
          let x := getCore d c
          let tile := vcvtTile d c t e f g
          let src := vcvtSource d c f (vecRA e) n
          let row := convRow g (bitB w 15) (bitB w 14) (seedOf x t) d.freeCtr (rowNeedy g (bitB w 14) 0 src) 0 src
          let x1 := vecPost (spendDraws x t tile.draws) t e (vcvtFlags g (bitB w 14) row src) (vecDue d c 3 n f.width g.width 4)
          some (putStore (drew (setCore d c x1)) c (vecRD e) (tileBytes tile))
    | _, _ => faulted d c t e cfIllegalFormat 0

/-- VRED: SUM and SUMSQ accumulate as ACC32C does (R149), the others fold MAX or MIN. -/
def vredRun (fn : Nat) (sat : Bool) (l : List XVal) : BitVec 64 × List Flags :=
  if fn ≤ 1 then
    let r := l.foldl (fun (a : BitVec 52 × List Flags) x =>
      let (y, f) := vecInput sat x
      let q := addMain true (mkReg flNone false (regBody a.1)) (if fn = 1 then xMul y y else y)
      (q, a.2 ++ [flOr f (regFlags q)])) (0#52, [])
    let comp := rne32Sat (decodeFloat fmtE8M7 (regComp r.1).toNat)
    (BitVec.ofNat 64 ((regMain r.1).toNat + 2 ^ 32 * comp.code), r.2)
  else
    let ins := l.map (vecInput sat)
    let v := (ins.drop 1).foldl (fun a x => if fn = 2 then xMax a x.1 else vecMin a x.1) ((ins.headD (xZero, flNone)).1)
    (BitVec.ofNat 64 (vecRound true v).1, ins.map (·.2))

def issueVred : IssueFn := fun d c t e =>
  let w := e.word
  let fn := fld w 50 4
  let n := vecN e
  let rd := BitVec.ofNat 6 (fld w 44 6)
  if 3 < fn then faulted d c t e cfIllegalOpcode 0
  else if n = 0 then some (modThread d c t (fun th => { th with owed := th.owed.erase (rd, .vred) }))
  else match vecCheck [(vecRA e, 4 * n)] none with
    | some f => faulted d c t e f 0
    | none =>
      let (v, fl) := vredRun fn (bitB w 14) ((List.range n).map (fp32At d c (vecRA e)))
      some (setCore d c (vecPost (getCore d c) t e fl (vecWorkOf d c (some (rd, v)) 10 n 32 0 4)))

/-- An index of a GATHER, and whether it names an element. -/
def gatherAt (d : Die) (c : CoreId) (e : QEntry) (i : Nat) : Int := (storeWord d c (vecRB e) i).toInt
def gatherOk (d : Die) (c : CoreId) (e : QEntry) (i : Nat) : Bool :=
  decide (0 ≤ gatherAt d c e i) && decide (gatherAt d c e i < vecN e)

/-- Bits of a code: a 6-bit value's container has two more, ignored on input and 0 on output (R46). -/
def codeBits (f : Format) : Nat := match f.kind with
  | .flt l => if f.width = 8 then l.ebits + l.mbits + 1 else f.width
  | _ => f.width

/-- Element i of what a VPERM writes. -/
def vpermElem (d : Die) (c : CoreId) (e : QEntry) (f : Format) (i : Nat) : Nat :=
  let el (i : Nat) : Nat := elemAt d c f (vecRA e) i % 2 ^ codeBits f
  match fld e.word 50 4 with
  | 0 => el (1024 * (i / 1024) + 32 * (i % 32) + i / 32 % 32)
  | 1 => el (i % vecN e)
  | _ => if gatherOk d c e i then el (gatherAt d c e i).toNat else 0

/-- How many elements a VPERM writes. -/
def vpermCount (e : QEntry) : Nat := if fld e.word 50 4 = 1 then 32 * vecN e else vecN e

/-- VPERM: TRANSPOSE of 32 × 32 tiles, ROWBCAST, GATHER with an index out of range giving 0 and INV. -/
def issueVperm : IssueFn := fun d c t e =>
  let w := e.word
  let fn := fld w 50 4
  let n := vecN e
  if 2 < fn then faulted d c t e cfIllegalOpcode 0
  else if n = 0 then some d
  else match formatOf (fld w 21 5) with
    | none => faulted d c t e cfIllegalFormat 0
    | some f =>
      if fn = 0 && f.width < 16 then faulted d c t e cfIllegalFormat 0
      else if fn = 0 && n % 1024 ≠ 0 then faulted d c t e cfIllegalMode 0
      else
        let outN := vpermCount e
        let srcs := (vecRA e, planeBytes f.width n) :: (if fn = 2 then [(vecRB e, 4 * n)] else [])
        match vecCheck srcs (some (vecRD e, planeBytes f.width outN)) with
        | some k => faulted d c t e k 0
        | none =>
          let fl := if fn = 2 then (List.range n).map (fun i => if gatherOk d c e i then flNone else flInv) else []
          let x := vecPost (getCore d c) t e fl
            (vecDue d c 4 outN (if fn = 0 then f.width else if fn = 2 then f.width + 32 else 0) f.width (if fn = 2 then 1 else 4))
          some (putStore (setCore d c x) c (vecRD e) (packCodes f.width ((List.range outN).map (vpermElem d c e f))))

/-- VECTOR_INSTRUCTION_DONE (R151): the oldest work of the thread ends; VRED's RD receives its value. -/
def effVectorDone (c : CoreId) (t : Bool) (d : Die) : Die :=
  match (getThread (getCore d c) t).vecWork with
  | [] => d
  | w :: rest =>
    modThread (waitUntil d w.due) c t (fun th =>
      let th1 := { th with vecWork := rest }
      match w.rd with
      | some (r, v) => payReg r .vred v th1
      | none => th1)

/-- Vector instructions under the issue throttle (R344). -/
def vecOcc (e : QEntry) : Nat := divUp (vecN e) 64

def pacedVop : IssueFn := paced vecOcc issueVop
def pacedVcvt : IssueFn := paced vecOcc issueVcvt
def pacedVfn : IssueFn := paced vecOcc issueVfn
def pacedVred : IssueFn := paced vecOcc issueVred
def pacedVperm : IssueFn := paced vecOcc issueVperm

/-! ### The commands -/

def execVop (c : CoreId) (t : Bool) (w : BitVec 58) (s : State) := onDie (dispatch c t 0x30 w (enqueue .vec c t id pacedVop)) s
def execVcvt (c : CoreId) (t : Bool) (w : BitVec 58) (s : State) := onDie (dispatch c t 0x31 w (enqueue .vec c t id pacedVcvt)) s
def execVfn (c : CoreId) (t : Bool) (w : BitVec 58) (s : State) := onDie (dispatch c t 0x32 w (enqueue .vec c t id pacedVfn)) s
def execVred (c : CoreId) (t : Bool) (w : BitVec 58) (s : State) :=
  onDie (dispatch c t 0x33 w (enqueue .vec c t (owe (w.toNat / 2 ^ 44 % 64) .vred) pacedVred)) s
def execVperm (c : CoreId) (t : Bool) (w : BitVec 58) (s : State) := onDie (dispatch c t 0x34 w (enqueue .vec c t id pacedVperm)) s
def execVectorInstructionDone (c : CoreId) (t : Bool) (s : State) := onDie (effVectorDone c t) s

end Sys2Proof.Machine
end

