-- ==== Sys2Proof/Machine/Streams.lean ====
section
/-! DEFINITION. Waybills and the Porter, rings, caravans, relays and chains between cores (R161 to R188, R105 to R108). The
transport of packets is outside: a flit, credit or response that is sent goes to `out`, and its arrival is a command. -/

namespace Sys2Proof.Machine

/-! ### Start checks (R162, R168) -/

def mult (k : Nat) (v : Int) : Bool := v % (k : Int) == 0

/-- The start checks of R168 and R169; `far` is whether DIR and the far side count, which they do not at a caravan member
other than the head. -/
def wbFormatOk (x : Core) (w : Waybill) (far : Bool) : Bool :=
  match wbFormat w with
  | none => false
  | some f =>
    let r := getRing x (wbRing w)
    let strides := [wbStride0 w, wbStride w 0, wbStride w 1, wbStride w 2, wbScaleOff w]
    (List.range 3).all (fun i => decide (1 ≤ wbCount w i)) && decide (wbTiles w ≤ 2 ^ 24 - 1) &&
    decide (1 ≤ wbRows w ∧ wbRows w ≤ 2048) &&
    decide (16 ≤ wbRowBytes w ∧ wbRowBytes w ≤ 32768 ∧ wbRowBytes w % 16 = 0) &&
    decide (wbTileBytes w ≤ ringB r) &&
    (!f.mx || (if wbAxis w then wbRows w % 32 == 0 else wbElems w f % 32 == 0)) &&
    (!far || (match wbKind w with
      | 0 => mult 16 (wbFar w) && strides.all (mult 16)
      | 1 => mult 64 (wbBoff w) && strides.all (mult 64)
      | 2 => mult 64 (wbFar w) && strides.all (mult 64)
      | _ => !wbOut w && wbCaravan w && ringProd r == 1))

/-- Whether a ring's role suits a waybill (R162): the ring that fails it raises RING_ROLE. At a caravan member other than the head the
far side does not count (`far` is false): the ring is filled by the caravan (R177). -/
def wbRoleOk (x : Core) (t : Bool) (w : Waybill) (far : Bool) : Bool :=
  let n := wbRing w
  let r := getRing x n
  inThreadSet x t n && ringEn r &&
    (if !far then ringProd r == 0 && (ringCons r == 0 || ringCons r == 3)
     else if wbKind w = 3 then ringProd r == 1 && ringCons r == 3
     else if wbOut w then ringCons r == 1
     else ringProd r == 0 && (ringCons r == 0 || (ringCons r == 3 && wbCaravan w)))

/-- A waybill that feeds ring n: RUNNING or ARMED on it (R170). -/
def feeds (x : Core) (n wb : Nat) : Bool :=
  let w := getWb x wb
  (wbSt w == 2 || wbSt w == 3) && wbRing w == n

def ringFed (x : Core) (n besides : Nat) : Bool := (List.range 8).any (fun i => i != besides && feeds x n i)

/-- Flits of a link that are under way: sent by the end before it on this die and neither received nor discarded (R188). What another
die has sent does not show (assumption log). -/
def inFlightTo (d : Die) (m : Member) : Bool := match m.up with
  | some (die, core, ring) => die == d.ident.dieNum && (getCore d core).members.any (fun y =>
      y.itin == m.itin && y.kind == m.kind && y.id == m.id && y.down.isSome && (m.kind == .chain || y.ring == ring) &&
      y.sent != m.received + m.discarded)
  | none => false

/-- The same seen from the end that sends. -/
def inFlightFrom (d : Die) (m : Member) : Bool := match m.down with
  | some (die, core, ring) => die == d.ident.dieNum && (getCore d core).members.any (fun y =>
      y.itin == m.itin && y.kind == m.kind && y.id == m.id && y.up.isSome && (m.kind == .chain || y.ring == ring) &&
      m.sent != y.received + y.discarded)
  | none => false

/-- IDLE of CORE_RING_STAT (R163). -/
def ringIdle (d : Die) (c : CoreId) (n : Nat) : Bool :=
  let x := getCore d c
  let r := getRing x n
  r.buf == 0 &&
  !(List.range 8).any (fun i => let w := getWb x i; wbRing w == n && (wbSt w == 2 || wbSt w == 3 || wbSt w == 4)) &&
  !x.ops.any (fun o => o.ring == some (BitVec.ofNat 3 n)) &&
  !x.members.any (fun m => m.kind != .chain && m.ring.toNat == n && (m.fwdOpen || inFlightTo d m || inFlightFrom d m))

/-- Tile t's far offset from `base` (R168). -/
def tileBase (w : Waybill) (t : Nat) : Int :=
  let i1 := t % wbCount w 0
  let i2 := t / wbCount w 0 % wbCount w 1
  let i3 := t / (wbCount w 0 * wbCount w 1)
  (if wbKind w = 1 then (wbBoff w : Int) else 0) + i1 * wbStride w 0 + i2 * wbStride w 1 + i3 * wbStride w 2

/-- The contiguous runs of a tile: far offset, bytes, place in the buffer. -/
def tileRuns (w : Waybill) (t : Nat) : List (Int × Nat × Nat) :=
  let b := tileBase w t
  let rows : List (Int × Nat × Nat) := (List.range (wbRows w)).map (fun (r : Nat) => (b + (r : Int) * wbStride0 w, wbRowBytes w, r * wbRowBytes w))
  match wbFormat w with
  | some f => if f.mx then rows ++ [(b + wbScaleOff w, wbScaleBytes w f, wbRows w * wbRowBytes w)] else rows
  | none => rows

/-- Where offset 0 of the far side lies, and the fault of a run that leaves the far side (R168). -/
def wbBase (w : Waybill) : Nat := match w.origin with | .package b => b | .die b => b | _ => 0

def runFault (w : Waybill) (run : Int × Nat × Nat) : Option Nat :=
  let (o, n, _) := run
  let a := (if wbKind w = 2 then (wbFar w : Int) else if wbKind w = 0 then (wbBase w : Int) else 0) + o
  match wbKind w with
  | 0 => if a < 0 ∨ (2 ^ 48 : Int) < a + n then some cfWaybillFormat else none
  | 1 => if o < 0 ∨ 65536 < o + n then some cfBerthRange else none
  | _ => if a < 0 ∨ (sliceSize : Int) < a + n then some cfLodgeRange else none

/-- A run cut into 128 B lines: line address, first byte wanted, bytes, place in the buffer. -/
def cutLines : Nat → Nat → Nat → Nat → List (Nat × Nat × Nat × Nat)
  | 0, _, _, _ => []
  | fuel + 1, a, n, dest =>
    if n = 0 then []
    else
      let k := min n (128 - a % 128)
      (a / 128 * 128, a % 128, k, dest) :: cutLines fuel (a + k) (n - k) (dest + k)

def runLines (w : Waybill) (run : Int × Nat × Nat) : List (Nat × Nat × Nat × Nat) :=
  cutLines (run.2.1 / 128 + 2) ((wbBase w : Int) + run.1).toNat run.2.1 run.2.2

/-- Whether far addresses are offsets in this die's window, and how a package address of the own window becomes one (R11). -/
def localise (d : Die) (o : Origin) (a : Nat) : Bool × Nat :=
  match o with
  | .die _ => (true, a)
  | _ =>
    let b := windowBase d.ident.dieNum.toNat
    if b ≤ a ∧ a < b + 0x4000000000 then (true, a - b) else (false, a)

/-! ### Access on the die by a Porter -/

/-- The core whose slice or store an offset lies in, when it is mapped (R12). -/
def slotOfOffset (d : Die) (a : Nat) : Option (CoreId × Bool × Nat) :=
  if a < 0x80000000 then
    let c := BitVec.ofNat 9 (a / sliceSize)
    if coreInUse d c then some (c, true, a % sliceSize) else none
  else if 0x100000000 ≤ a ∧ a < 0x110000000 then
    let c := BitVec.ofNat 9 ((a - 0x100000000) / storeSize)
    if coreInUse d c then some (c, false, a % storeSize) else none
  else none

/-- Bytes written on the die: a slice write ends poison (R201). -/
def putDie (d : Die) (a : Nat) (l : List Byte) : Die :=
  match slotOfOffset d a with
  | some (c, true, o) => putSlice srcPorter d c o l
  | some (c, false, o) => putStore d c o l
  | none => d

/-! ### The port of a core in reset (R230, R242, R243) -/

def coreEndpoint (c : CoreId) : BitVec 12 := BitVec.ofNat 12 (8 * c.toNat)
def endpointCore (e : BitVec 12) : CoreId := BitVec.ofNat 9 (e.toNat / 8)

/-- A refusal counted and logged (R243, R244). -/
def noteRefusal (d : Die) (reason cls typ : Nat) (dest src : BitVec 12) (party : BitVec 12) (epoch : BitVec 8) : Die :=
  let m := d.mesh
  let entry := putFld (putFld (putFld (putFld (putFld (putFld (putFld (putFld 0#64 63 1 1) 62 1 reason) 60 2 cls) 56 4 typ)
    44 12 dest.toNat) 32 12 src.toNat) 20 12 party.toNat) 12 8 epoch.toNat
  { d with mesh := { m with
    staleCnt := if reason = 1 then satInc m.staleCnt else m.staleCnt,
    resetCnt := if reason = 0 then satInc m.resetCnt else m.resetCnt,
    nackLog := if bitB m.nackLog 63 then m.nackLog else entry } }

/-- The core a request by offset is carried to, mapped or not. -/
def offsetCore (a : Nat) : Option CoreId :=
  if a < 0x80000000 then some (BitVec.ofNat 9 (a / sliceSize))
  else if 0x100000000 ≤ a ∧ a < 0x110000000 then some (BitVec.ofNat 9 ((a - 0x100000000) / storeSize))
  else none

/-- The core in reset that refuses a request of the die's own, by its offset. -/
def reqRefuser (d : Die) (a : Nat) : Option CoreId := (offsetCore a).filter (fun c => (getCore d c).portReset)

/-- The NACK of a refused packet, to its source, with party 0 (R235, R243). -/
def nackOf (dest src : BitVec 12) (reason cls typ : Nat) (tag : BitVec 9) (arg : BitVec 64) : Packet :=
  { cls := 3, lenm1 := 0, typ := 6, dest := src, src := dest, party := 0, epoch := 0, tag := tag,
    arg := packed 64 [(62, 2, reason), (60, 2, cls), (56, 4, typ), (47, 9, tag.toNat), (0, 47, arg.toNat)], data := 0 }

/-- A packet refused at a port: counted and logged, and its NACK injected (R243). -/
def refuseAtPort (d : Die) (reason cls typ : Nat) (dest src : BitVec 12) (party : BitVec 12) (epoch : BitVec 8) (tag : BitVec 9)
    (arg : BitVec 64) : Die :=
  cons (send (noteRefusal d reason cls typ dest src party epoch) (.packet (nackOf dest src reason cls typ tag arg))) 3 1 1

/-- The argument of a REQ: granule mask and address (R235). -/
def reqArg (mask : BitVec 8) (addr : Nat) : BitVec 64 := packed 64 [(48, 8, mask.toNat), (0, 48, addr)]

/-- A REQ packet of core src refused by core dst in reset: its package address lies in this die's window. -/
def noteReqRefusal (d : Die) (write : Bool) (src dst : CoreId) (tag : BitVec 9) (mask : BitVec 8) (off : Nat) : Die :=
  let x := getCore d src
  refuseAtPort d 0 0 (b2n write) (coreEndpoint dst) (coreEndpoint src) x.portParty x.portEpoch tag
    (reqArg mask (windowBase d.ident.dieNum.toNat + off))

/-- What the port of core c does with a STREAM or CTRL packet: none to deliver it, else the reason of its refusal (0
DEST_RESET, 1 STALE_ROLE). -/
def portCheck (d : Die) (c : CoreId) (party : BitVec 12) (epoch : BitVec 8) : Option Nat :=
  let x := getCore d c
  if x.portReset then some 0
  else if party = 0 || (party = x.portParty && epoch = x.portEpoch) then none
  else some 1

/-! ### Stamps (R158, R175) -/

/-- A tile stamped: in the home Steward's copy of the map, or reported to it; an index past the tile count faults. -/
def postStamp (d : Die) (c : CoreId) (t : Bool) (pc tile : Nat) : Die :=
  match (getThread (getCore d c) t).itin with
  | none => d
  | some id =>
    match findItin d id with
    | none => sendPeer d (homeDie id) (.stamp id (BitVec.ofNat 32 tile))
    | some i =>
      if i.tiles.toNat ≤ tile then raiseFault d c (some t) cfStampRange 0 pc
      else if i.state ≠ .running then d
      else if homeDie id ≠ d.ident.dieNum then sendPeer d (homeDie id) (.stamp id (BitVec.ofNat 32 tile))
      else modItin d id (fun i =>
        if tabGet 0 i.stamps tile = 1 then i
        else { i with stamps := tabSet 0 i.stamps tile 1, stamped := i.stamped + 1 })

/-! ### Caravan forwarding (R178, R179) -/

/-- The oldest buffer that holds bytes and has not been forwarded whole; buffers age from the tail on (R163). -/
def nextForward (r : Ring) : Option Nat :=
  ((List.range 4).map (fun i => (r.tail.toNat + i) % 4)).find? (fun b => bufState r b != 0 && !(getInfo r b).fwd)

/-- How many flits of a buffer are present in order: all of a whole tile; at the head, those before the first line still
awaited; elsewhere those that have arrived. -/
def flitsPresent (x : Core) (r : Ring) (n b flits : Nat) : Nat :=
  let i := getInfo r b
  if i.whole then flits
  else
    let base := bufBase r b
    let awaited := (x.lines ++ x.queued).filter (fun l => wbRing (getWb x l.wb.toNat) == n && l.buf.toNat == b)
    match awaited with
    | [] => i.bytes / 128
    | l :: ls => (ls.foldl (fun m y => min m (y.dest - base)) (l.dest - base)) / 128

def storeFlit (d : Die) (c : CoreId) (o n : Nat) : BitVec 1024 := BitVec.ofNat 1024 (memLE d.mem (storeBase c + o) n)

def replaceM (x : Core) (m n : Member) : Core := { x with members := x.members.map (fun y => if y = m then n else y) }

def caravanOn (x : Core) (n : Nat) : Option Member :=
  x.members.find? (fun m => m.kind == .caravan && m.ring.toNat == n && m.joined)

/-- One tile's worth of forwarding: what is present leaves, once a credit is spent for the tile. Whether the tile has left
whole is the second answer. -/
def forwardTile (d : Die) (c : CoreId) (n : Nat) : Die × Bool :=
  let x := getCore d c
  let r := getRing x n
  match caravanOn x n with
  | none => (d, false)
  | some m =>
    match m.down, nextForward r with
    | some (die, core, ring), some b =>
      let bytes := (getInfo r b).size
      if !m.fwdOpen && r.credits = 0 then (d, false)
      else
        let flits := divUp bytes 128
        let r1 := if m.fwdOpen then r else { r with credits := r.credits - 1 }
        let k := flitsPresent x r n b flits
        let out := (List.range (k - m.fwdFlits)).map (fun i =>
          let f := m.fwdFlits + i
          storeFlit d c (bufBase r b + 128 * f) (min 128 (bytes - 128 * f)))
        let done := decide (k = flits)
        let m1 := { m with fwdOpen := !done, fwdFlits := if done then 0 else k, sent := m.sent + out.length }
        let r2 := if done then putInfo r1 b { getInfo r1 b with fwd := true } else r1
        let d1 := setCore d c (replaceM (putRing x n r2) m m1)
        (out.foldl (fun e f => send e (.stream .caravan m.id die core ring m.downParty m.downEpoch (BitVec.ofNat 24 (getInfo r b).tile)
          (BitVec.ofNat 24 (getInfo r b).total) f)) d1, done)
    | _, _ => (d, false)

def pumpCaravan : Nat → Die → CoreId → Nat → Die
  | 0, d, _, _ => d
  | k + 1, d, c, n => match forwardTile d c n with
    | (d1, true) => pumpCaravan k d1 c n
    | (d1, false) => d1

/-! ### Inbound requests (R166, R171) -/

def setWbState (n : Nat) (st : BitVec 3) (x : Core) : Core := putWb x n { getWb x n with state := st }

/-- The next line request to leave: the first of the waybill whose turn comes after the last one's, in round robin (R166). -/
def nextLine (x : Core) : Option LineReq :=
  ((List.range 8).filterMap (fun i => x.queued.find? (fun l => l.wb.toNat == (x.lastWb.toNat + 1 + i) % 8))).head?

/-- Line requests leave while fewer than 512 are outstanding. -/
def pumpLines : Nat → Die → CoreId → Die
  | 0, d, _ => d
  | k + 1, d, c =>
    let x := getCore d c
    match nextLine x with
    | none => d
    | some l =>
      if 512 ≤ x.lines.length then d
      else
        let l1 := { l with tag := freeTag (x.lines.map (·.tag)), ord := x.reqNo }
        let d1 := setCore d c { x with queued := x.queued.erase l, lines := x.lines ++ [l1], reqNo := x.reqNo + 1, lastWb := l.wb }
        let d2 := if l.onDie then d1
          else gateSend d1 ⟨servingGate d (c.toNat % 32), false, BitVec.ofNat 48 l.addr, granules l.lo l.len, none,
            .porterLine c l1.tag⟩
        pumpLines k d2 c

/-- RUNNING waybills whose last request has been issued become FETCHED (R170). -/
def settleFetched (c : CoreId) (d : Die) : Die :=
  modCore d c (fun x => (List.range 8).foldl (fun y n =>
    let w := getWb y n
    if wbSt w == 3 && wbKind w ≠ 3 && w.origin ≠ .none && w.issued = wbTiles w && !y.queued.any (fun l => l.wb.toNat == n) &&
       !y.wqueued.any (fun l => l.wb.toNat == n) && (caravanOn y (wbRing w)).all (fun m => m.pos == 0)
    then setWbState n 4 y else y) x)

def pumpIn (d : Die) (c : CoreId) : Die :=
  let q := (getCore d c).queued.length
  settleFetched c (pumpLines q d c)

/-- Cycle at which the Lodge port is free of streams (R73, R196). -/
def streamEnd (x : Core) (now : Nat) : Nat := maxL (now :: (x.ops.filter (·.lodge)).map (·.accept))

/-- A fault of a waybill, against the thread and word that started it. -/
def wbFault (d : Die) (c : CoreId) (wb code detail : Nat) : Die :=
  let w := getWb (getCore d c) wb
  let r := (getThread (getCore d c) w.thread).run
  if r == .faulted || r == .stopped then d else raiseFault d c (some w.thread) code detail w.pc

/-- WAYBILL_TILE_REQUEST (R171, R172): the next tile of a RUNNING inbound waybill goes to the tail, when it is EMPTY. The own
slice is read through the Lodge port at once; anything else becomes line requests, of which the first leaves with the command: with 512
outstanding the tile waits (R166). -/
def effTileRequest (c : CoreId) (wb : BitVec 3) (d : Die) : Die :=
  let x := getCore d c
  let n := wb.toNat
  let w := getWb x n
  let r := getRing x (wbRing w)
  if wbSt w ≠ 3 || wbOut w || w.origin = .none || w.origin = .own || wbTiles w ≤ w.issued || bufState r r.tail.toNat ≠ 0 ||
     (caravanOn x (wbRing w)).any (fun m => m.pos ≠ 0) then d
  else
    let d := waitUntil d w.first
    let x := getCore d c
    let t := w.issued
    let runs := tileRuns w t
    let info (bytes : Nat) (whole : Bool) (due : Nat) : BufInfo :=
      { BufInfo.reset with bytes := bytes, whole := whole, clean := true, tile := t, due := due, wb := n, size := wbTileBytes w, total := wbTiles w }
    match runs.filterMap (runFault w) with
    | code :: _ => wbFault d c n code (if code = cfLodgeRange then 0 else n)
    | [] =>
      let b := r.tail.toNat
      let base := bufBase r b
      let w1 := { w with issued := t + 1 }
      let own := (match w.origin with | .die a => a / sliceSize == c.toNat && decide (a < 0x80000000) | _ => false)
      if own then
        let off (run : Int × Nat × Nat) : Nat := ((wbBase w : Int) + run.1).toNat % sliceSize
        match (runs.filterMap (fun run => ueIn d c (off run) run.2.1)).head? with
        | some key => wbFault (runs.foldl (fun e run => senseRows srcPorter c (off run) run.2.1 e) d) c n cfLodgeUe (key / 1024 % 16 + 16 * (key % 1024) + 16384 * (key / 16384))
        | none =>
          let bytes := (runs.map (·.2.1)).foldl (· + ·) 0
          let start := porterFrom true x (streamEnd x d.aclk)
          let x1 := putRing (putWb x n w1) (wbRing w) (startTail r (info bytes true (start + 12 + divUp bytes 64)))
          let d1 := runs.foldl (fun e run => putStore (senseRows srcPorter c (off run) run.2.1 e) c (base + run.2.2) (memRead d.mem (sliceBase c + off run) run.2.1)) (setCore d c x1)
          pumpCaravan 4 (settleFetched c d1) c (wbRing w)
      else if 512 ≤ x.lines.length then d
      else
        let reqs : List LineReq := (runs.flatMap (runLines w)).map (fun (a, lo, k, dest) =>
          let (on, a') := localise d w.origin a
          ⟨wb, t, BitVec.ofNat 2 b, on, a', lo, k, base + dest, 0, 0, none⟩)
        let x1 := putRing (putWb x n w1) (wbRing w) (startTail r (info 0 false 0))
        pumpIn (setCore d c { x1 with queued := x1.queued ++ reqs }) c

/-- What a line request on the die reads: status, bytes, and the row of an uncorrectable error. -/
def dieLine (d : Die) (l : LineReq) : BitVec 8 × List Byte × Option Nat :=
  match slotOfOffset d (l.addr + l.lo) with
  | none => (1, [], none)
  | some (c, true, o) => match ueIn d c o l.len with
    | some k => (3, [], some k)
    | none => (0, memRead d.mem (l.addr + l.lo) l.len, none)
  | some (_, false, _) => (0, memRead d.mem (l.addr + l.lo) l.len, none)

/-- A line read on the die: its slice checks the rows, whoever still waits for the answer (R191, R201). -/
def noteLineRead (d : Die) (l : LineReq) : Die :=
  match slotOfOffset d (l.addr + l.lo) with
  | some (c, true, o) => senseRows srcPorter c o l.len d
  | _ => d

/-- The die a package address lies in, for DIE_LOST (R189). -/
def addrDie (a : Nat) : Nat := a / 0x4000000000 % 4

/-- A line's response handled: its bytes reach the buffer, or the waybill faults; a STOPPED waybill's is discarded (R188). -/
def fillLine (d : Die) (c : CoreId) (l : LineReq) (status : BitVec 8) (bytes : List Byte) (ue : Option Nat) : Die :=
  let x := getCore d c
  let w := getWb x l.wb.toNat
  if wbSt w ≠ 3 && wbSt w ≠ 4 then d
  else if status = 0 then
    let n := wbRing w
    let r := getRing x n
    let b := l.buf.toNat
    let more := (x.lines ++ x.queued).any (fun y => y.wb == l.wb && y.buf == l.buf)
    let i := getInfo r b
    let x1 := putRing x n (putInfo r b { i with bytes := i.bytes + l.len, whole := !more, due := if more then i.due else d.aclk + 1 })
    pumpCaravan 4 (putStore (setCore d c x1) c l.dest bytes) c n
  else match ue with
    | some k => wbFault d c l.wb.toNat cfLodgeUe (k / 1024 % 16 + 16 * (k % 1024) + 16384 * (k / 16384))
    | none =>
      if status = 4 then wbFault d c l.wb.toNat cfDieLost (addrDie l.addr) else wbFault d c l.wb.toNat cfMemResponse l.wb.toNat

/-- A request of core x, not yet carried out, that it injected earlier toward the core an offset lies in: the two are delivered in order
(R232). -/
def reqBefore (x : Core) (off ord : Nat) : Bool :=
  x.lines.any (fun y => y.onDie && y.rsp.isNone && decide (y.ord < ord) && offsetCore y.addr == offsetCore off) ||
  x.writes.any (fun y => y.onDie && y.rsp.isNone && decide (y.ord < ord) && offsetCore y.addr == offsetCore off)

/-- Porter traffic through a core's Lodge port waits for the streams that run there (R73), and traffic to or from its core store for a
port (R30). -/
def portWait (d : Die) (onDie write : Bool) (off : Nat) : Die :=
  if !onDie then d
  else match slotOfOffset d off with
    | some (c, true, _) => waitUntil d (streamEnd (getCore d c) d.aclk)
    | some (c, false, _) => waitUntil d (porterFrom write (getCore d c) d.aclk)
    | none => d

/-- PORTER_LINE_FILL (R166, R169, R171): the n-th outstanding line's response arrives; a core in reset refuses the request. -/
def effLineFill (c : CoreId) (n : Nat) (dn : Die) : Die :=
  let d := waitUntil dn (porterFrom true (getCore dn c) dn.aclk)
  let x := getCore d c
  match x.lines[n]? with
  | none => dn
  | some l =>
    let refuser := if l.onDie && l.rsp.isNone then reqRefuser d l.addr else none
    let got : Option (BitVec 8 × List Byte × Option Nat) := match l.rsp with
      | some (s, v) => some (s, leBytes l.len (v.toNat / 2 ^ (8 * l.lo)), none)
      | none => if l.onDie && !reqBefore x l.addr l.ord then some (if refuser.isSome then (1, [], none) else dieLine d l) else none
    match got with
    | none => dn
    | some (s, bytes, ue) =>
      let d0 := match refuser with
        | some c' => noteReqRefusal d false c c' l.tag (granules l.lo l.len) l.addr
        | none => if l.onDie && l.rsp.isNone then portWait (noteLineRead d l) true false l.addr else d
      pumpIn (fillLine (modCore (cons d0 3 2 2) c (fun x => { x with lines := x.lines.eraseIdx n })) c l s bytes ue) c

/-! ### Outbound writes (R174, R175) -/

/-- Line writes leave while fewer than 512 are unacknowledged. -/
def pumpWrites : Nat → Die → CoreId → Die
  | 0, d, _ => d
  | k + 1, d, c =>
    let x := getCore d c
    match x.wqueued with
    | [] => d
    | l :: rest =>
      if 512 ≤ x.writes.length then d
      else
        let l1 := { l with tag := freeTag (x.writes.map (·.tag)), ord := x.reqNo }
        let d1 := setCore d c { x with wqueued := rest, writes := x.writes ++ [l1], reqNo := x.reqNo + 1 }
        let d2 := if l.onDie then d1
          else gateSend d1 ⟨servingGate d (c.toNat % 32), true, BitVec.ofNat 48 l.addr, granules l.lo l.bytes.length,
            some (BitVec.ofNat 1024 (leNat l.bytes * 2 ^ (8 * l.lo))), .porterWrite c l1.tag⟩
        pumpWrites k d2 c

/-- The waybill that empties a ring: RUNNING, outbound, on it. -/
def outWaybill (x : Core) (n : Nat) : Option Nat :=
  (List.range 8).find? (fun i => let w := getWb x i
    wbSt w == 3 && wbOut w && wbRing w == n && w.origin != .none && w.origin != .own && decide (w.issued < wbTiles w))

/-- One FULL tile of a ring taken by its outbound waybill: read out, once the Porter has a read port (R30), its line writes queued. -/
def takeTile (d0 : Die) (c : CoreId) (n : Nat) : Die :=
  let x0 := getCore d0 c
  match outWaybill x0 n with
  | none => d0
  | some k =>
    if !headFull (getRing x0 n) then d0
    else
      let d := waitUntil d0 (porterFrom false x0 d0.aclk)
      let x := getCore d c
      let r := getRing x n
      let w := getWb x k
      let t := w.issued
      let runs := tileRuns w t
      match runs.filterMap (runFault w) with
      | code :: _ => wbFault d c k code (if code = cfLodgeRange then 0 else k)
      | [] =>
        let b := r.head.toNat
        let base := bufBase r b
        let i := getInfo r b
        let ws : List LineWrite := (runs.flatMap (runLines w)).map (fun (a, lo, len, dest) =>
          let (on, a') := localise d w.origin a
          ⟨BitVec.ofNat 3 k, t, on, a', lo, memRead d.mem (storeBase c + base + dest) len, 0, 0, none⟩)
        let w1 := { w with issued := t + 1, outTiles := w.outTiles ++ [⟨t, ws.length, i.clean, i.src⟩] }
        let x1 := putRing (putWb x k w1) n (takeHead r (d.aclk + ws.length))
        let x2 := setThread x1 w.thread (let th := getThread x1 w.thread; { th with unacked := th.unacked + ws.length })
        let d1 := setCore d c { x2 with wqueued := x2.wqueued ++ ws }
        settleFetched c (pumpWrites ws.length d1 c)

/-- FULL tiles of a ring leave through its outbound waybill (R174). -/
def pumpOut : Nat → Die → CoreId → Nat → Die
  | 0, d, _, _ => d
  | k + 1, d, c, n => pumpOut k (takeTile d c n) c n

/-- Tiles whose writes are all acknowledged leave the waybill's list: they are counted, and stamped when their producer's
read was clean, or wait for its status word (R170, R175). The waybill is DONE when nothing is left. -/
def settleOut (c : CoreId) (wb : Nat) (d : Die) : Die :=
  let w := getWb (getCore d c) wb
  if wbSt w ≠ 3 && wbSt w ≠ 4 then d
  else
    let go := w.outTiles.filter (fun o => o.left == 0)
    let rest := w.outTiles.filter (fun o => o.left != 0)
    let w1 := { w with outTiles := rest, doneTiles := BitVec.ofNat 24 (w.issued - rest.length),
                       state := if wbSt w == 4 && rest.isEmpty then 5 else w.state }
    let wait := if wbStamp w then (go.filter (fun o => !o.clean)).map (fun o => (w.thread, w.pc, wbStampBase w + o.tile, o.src)) else []
    let d1 := modCore d c (fun x => { putWb x wb w1 with stampWait := x.stampWait ++ wait })
    let d2 := if wbStamp w then (go.filter (·.clean)).foldl (fun e o => postStamp e c w.thread w.pc (wbStampBase w + o.tile)) d1 else d1
    if w1.state = 5 then dropWaybillHold d2 c (BitVec.ofNat 3 wb) else d2

/-- A line write's outcome (R174): acknowledged, its bytes are at their destination; an error faults the waybill. -/
def finishWrite (d : Die) (c : CoreId) (l : LineWrite) (status : BitVec 8) : Die :=
  let x := getCore d c
  let k := l.wb.toNat
  let w := getWb x k
  let w1 := { w with outTiles := w.outTiles.map (fun o => if o.tile = l.tile then { o with left := o.left - 1 } else o) }
  let x1 := setThread (putWb x k w1) w.thread (let th := getThread x w.thread; { th with unacked := th.unacked - 1 })
  let d1 := setCore d c x1
  if status = 0 then
    let d2 := if l.onDie then putDie d1 (l.addr + l.lo) l.bytes
      else if l.addr < 0xC000000000 then { d1 with pkg := memWrite d1.pkg (l.addr + l.lo) l.bytes } else d1
    settleOut c k d2
  else if wbSt w ≠ 3 && wbSt w ≠ 4 then d1
  else if status = 4 then wbFault d1 c k cfDieLost (addrDie l.addr) else wbFault d1 c k cfMemResponse k

/-- OUTBOUND_WRITE_ACK (R174, R175, R15): the n-th unacknowledged write is answered; writes to one line finish in order. -/
def effWriteAck (c : CoreId) (n : Nat) (d : Die) : Die :=
  let x := getCore d c
  match x.writes[n]? with
  | none => d
  | some l =>
    if (x.writes.take n).any (fun y => y.addr == l.addr && y.onDie == l.onDie) ||
       (l.onDie && l.rsp.isNone && reqBefore x l.addr l.ord) then d
    else
      let refuser := if l.onDie && l.rsp.isNone then reqRefuser d l.addr else none
      let st : Option (BitVec 8) := match l.rsp with
        | some s => some s
        | none => if l.onDie then some (if refuser.isNone && (slotOfOffset d (l.addr + l.lo)).isSome then 0 else 1) else none
      match st with
      | none => d
      | some s =>
        let d0 := match refuser with
          | some c' => noteReqRefusal d true c c' l.tag (granules l.lo l.bytes.length) l.addr
          | none => if l.rsp.isNone then portWait d l.onDie true l.addr else d
        let d1 := finishWrite (modCore (cons d0 3 2 2) c (fun x => { x with writes := x.writes.eraseIdx n })) c l s
        settleFetched c (pumpWrites (getCore d1 c).wqueued.length d1 c)

/-! ### Ring buffers (R163 to R165) -/

/-- A tile delivered to the inbound waybill it belongs to: counted, stamped, the waybill DONE with its last (R170, R175). -/
def deliverTile (d : Die) (c : CoreId) (k tile : Nat) : Die :=
  let w := getWb (getCore d c) k
  if 8 ≤ k || (wbSt w ≠ 3 && wbSt w ≠ 4) then d
  else
    let done := w.doneTiles + 1
    let last := decide (done.toNat = wbTiles w) && (wbSt w == 4 || w.origin == .own)
    let w1 := { w with doneTiles := done, state := if last then 5 else w.state }
    let d1 := modCore d c (fun x => putWb x k w1)
    let d2 := if wbStamp w then postStamp d1 c w.thread w.pc (wbStampBase w + tile) else d1
    if last then dropWaybillHold d2 c (BitVec.ofNat 3 k) else d2

/-- The oldest FILLING buffer whose last byte is written. -/
def oldestWhole (r : Ring) : Option Nat :=
  ((List.range 4).map (fun i => (r.tail.toNat + i) % 4)).find? (fun b => bufState r b == 1 && (getInfo r b).whole)

/-- RING_BUFFER_FULL (R163, R165, R171, R174): the oldest FILLING buffer whose last byte is written becomes FULL. -/
def effBufferFull (c : CoreId) (ring : BitVec 3) (d : Die) : Die :=
  let n := ring.toNat
  let x := getCore d c
  let r := getRing x n
  match oldestWhole r with
  | none => d
  | some b =>
    let i := getInfo r b
    let d1 := modCore (waitUntil d i.due) c (fun y => putRing y n (putBuf r b 2))
    pumpOut 4 (pumpCaravan 4 (deliverTile d1 c i.wb i.tile) c n) c n

/-- The upstream end a freed buffer's credit goes back to: the member before it in a caravan, or a relay producer. -/
def upstreamOf (x : Core) (n : Nat) : Option (LinkKind × BitVec 12 × BitVec 2 × BitVec 9 × BitVec 3) :=
  match x.members.find? (fun m => m.joined && m.ring.toNat == n && m.kind != .chain && m.up.isSome) with
  | some m => m.up.map (fun (die, core, ring) => (m.kind, m.id, die, core, ring))
  | none => none

/-- Whether a caravan member still has to forward a buffer. -/
def mustForward (x : Core) (r : Ring) (n b : Nat) : Bool :=
  match caravanOn x n with
  | some m => m.down.isSome && !(getInfo r b).fwd
  | none => false

/-- RING_BUFFER_RELEASE (R163, R164, R178): the oldest buffer its consumer has read, and the caravan forwarded, is EMPTY,
and a credit goes back upstream. -/
def effBufferRelease (c : CoreId) (ring : BitVec 3) (d : Die) : Die :=
  let n := ring.toNat
  let x := getCore d c
  let r := getRing x n
  let none_ := ringCons r == 3
  match oldest r (if none_ then 2 else 3) with
  | none => d
  | some b =>
    if mustForward x r n b then d
    else
      let r1 := putInfo (putBuf r b 0) b BufInfo.reset
      let r2 := if none_ then { r1 with head := r1.head + 1 } else r1
      let d1 := modCore (waitUntil d (if none_ then 0 else (getInfo r b).due)) c (fun y => putRing y n r2)
      match upstreamOf x n with
      | some (k, id, die, core, rg) => send d1 (.streamCredit k id die core rg)
      | none => d1

/-! ### Porter instructions (R153, R170, R173, R177, R182) -/

def wbBusy (w : Waybill) : Bool := wbSt w == 2 || wbSt w == 3 || wbSt w == 4

/-- A waybill as its register takes it: reserved bits are ignored (R6, R167). -/
def wbLoad (v : BitVec 512) : BitVec 512 :=
  [(61, 3), (48, 4), (102, 26), (240, 16), (304, 16), (368, 16), (432, 16), (496, 16)].foldl (fun w f => putFld w f.1 f.2 0) v

/-- WBL. -/
def issueWbl : IssueFn := fun d c t e =>
  let x := getCore d c
  let n := fld e.word 50 3
  let o := (opnd e (fld e.word 44 6)).toNat
  if !inThreadSet x t n then faulted d c t e cfWaybillState n
  else match operandFault o 64 with
    | some f => faulted d c t e f 0
    | none =>
      if wbBusy (getWb x n) then held
      else some (setCore d c (putWb x n { Waybill.reset with
        bits := wbLoad (BitVec.ofNat 512 (memLE d.mem (storeBase c + o) 64)), state := 1, thread := t }))

/-- A BERTH waybill's entry used (R169): its origin, its hold and its touch; or the fault BERTH_UNAVAILABLE. A waybill that has been
STOPPED meanwhile takes no hold (R188). -/
def resolveBerth (d : Die) (c : CoreId) (n : Nat) (h : BitVec 48) (a : Option Nat) : Die :=
  let w := getWb (getCore d c) n
  if wbSt w ≠ 3 || w.origin ≠ .none then d
  else
  let e : BitVec 128 := match a with | some a => entryNow d a (freeVal d 0) | none => 0xC#4 ++ 0#124
  let ok := (entTier e == tierLodge || entTier e == tierPackage) &&
    (entState e == stValid || (entState e == stMoving && !wbOut w))
  if !ok then wbFault d c n cfBerthUnavailable (entTier e + 4 * entState e + 16 * n)
  else
    let l := entLoc e
    let origin : Origin :=
      if entTier e = tierPackage then .package l
      else
        let off := locCore l * sliceSize + locSlot l * 0x10000
        if locDie l = d.ident.dieNum.toNat then .die off else .package (windowBase (locDie l) + off)
    let id := ((getThread (getCore d c) w.thread).itin).getD 0
    let d1 := modCore (drew d) c (fun x => putWb x n { w with origin := origin, handle := some h })
    let d2 := takeHold d1 ⟨h, BitVec.ofNat 2 (entTier e), BitVec.ofNat 48 l, wbOut w, id, some (c, BitVec.ofNat 3 n)⟩
    let d3 := match a with | some a => touchEntry d2 (quarterOf c) a | none => d2
    pumpOut 4 d3 c (wbRing w)

/-- A lookup at the core's quarter's unit (R156, R214): answered from the caches, or waiting for a fill. -/
def unitLookup (d : Die) (c : CoreId) (t : Bool) (pc : Nat) (h : BitVec 48) (kind : TagKind) (hit : Die → Option Nat → Die) : Die :=
  let q := quarterOf c
  let a := threadEntry d c t h
  let d0 := match kind with | .touch => d | _ => countLookup (unitHas d q h a) q d
  if unitHas d q h a then hit d0 a
  else
    let x := getCore d0 c
    let tag := freeTag (x.tags.map (·.tag))
    let d1 := setCore d0 c { x with tags := x.tags ++ [⟨tag, t, kind, false, pc, 0, 0⟩] }
    { d1 with ledger := { d1.ledger with waiting := d1.ledger.waiting ++ [⟨q, c, tag, h, kind == .touch, x.portParty, x.portEpoch⟩] } }

/-- A waybill started: RUNNING, its far side resolved; an outbound one may find its ring's head FULL (R169, R170). -/
def runWaybill (d : Die) (c : CoreId) (t : Bool) (n pc : Nat) : Die :=
  let w := getWb (getCore d c) n
  let go (o : Origin) : Die := modCore d c (fun x => putWb x n { w with state := 3, origin := o, thread := t, pc := pc, first := d.aclk + 6 })
  match wbKind w with
  | 0 => pumpOut 4 (go (.package (wbFar w))) c (wbRing w)
  | 1 => unitLookup (go .none) c t pc (BitVec.ofNat 48 (wbFar w)) (.waybillLookup (BitVec.ofNat 3 n))
      (fun e a => resolveBerth e c n (BitVec.ofNat 48 (wbFar w)) a)
  | 2 => pumpOut 4 (go (.die (c.toNat * sliceSize + wbFar w))) c (wbRing w)
  | _ => go .own

/-- What stops a waybill at its start: RING_ROLE, then WAYBILL_FORMAT. -/
def startReject (x : Core) (t : Bool) (n : Nat) (far : Bool) : Option (Nat × Nat) :=
  let w := getWb x n
  if wbKind w = 3 && far && !wbFormatOk x w far then some (cfWaybillFormat, n)
  else if !wbRoleOk x t w far then some (cfRingRole, wbRing w)
  else if !wbFormatOk x w far then some (cfWaybillFormat, n)
  else none

/-- WBGO. -/
def issueWbgo : IssueFn := fun d c t e =>
  let x := getCore d c
  let n := fld e.word 50 3
  let w := getWb x n
  if !inThreadSet x t n || wbSt w ≠ 1 || wbCaravan w || wbNext w || ringFed x (wbRing w) n then faulted d c t e cfWaybillState n
  else match startReject x t n true with
    | some (f, det) => faulted d c t e f det
    | none => some (runWaybill d c t n e.pc)

/-- WBNEXT. A waybill with CARAVAN set and NEXT clear is started by CARAVAN alone (R167): WBNEXT on it raises WAYBILL_STATE (DESIGN
CHOICE: R167 names no fault). -/
def issueWbnext : IssueFn := fun d c t e =>
  let x := getCore d c
  let n := fld e.word 50 3
  let p := fld e.word 47 3
  let v := getWb x p
  if !inThreadSet x t n || !inThreadSet x t p || wbSt (getWb x n) ≠ 1 || !(1 ≤ wbSt v && wbSt v ≤ 4) ||
     wbRing v ≠ wbRing (getWb x n) || (wbCaravan (getWb x n) && !wbNext (getWb x n)) then faulted d c t e cfWaybillState n
  else some (setCore d c (putWb x n { getWb x n with state := 2, pair := BitVec.ofNat 3 p, thread := t, pc := e.pc }))

/-- WBNEXT_START (R173): an ARMED waybill whose pair is FETCHED runs; on a caravan it continues the membership. -/
def effWbnextStart (c : CoreId) (wb : BitVec 3) (d : Die) : Die :=
  let x := getCore d c
  let n := wb.toNat
  let w := getWb x n
  let ps := wbSt (getWb x w.pair.toNat)
  if wbSt w ≠ 2 || !(ps = 4 || ps = 5) then d
  else
    let m := caravanOn x (wbRing w)
    match startReject x w.thread n (m.all (fun y => y.pos == 0)) with
    | some (f, det) => wbFault d c n f det
    | none =>
      let x1 := match m with
        | some y => replaceM x y { y with shape := some (wbTileBytes w, wbTiles w) }
        | none => x
      if m.any (fun y => y.pos ≠ 0) then setCore d c (setWbState n 3 (putWb x1 n { w with origin := .own }))
      else runWaybill (setCore d c x1) c w.thread n w.pc

/-- WBWAIT's level (R153, R170). -/
def wbLevelMet (x : Core) (n : Nat) (level : Bool) : Bool :=
  let s := wbSt (getWb x n)
  s == 0 || s == 5 || s == 6 || (!level && s == 4)

def bodyWbwait (c : CoreId) (t : Bool) (d : Die) (e : QEntry) : Die :=
  let n := fld e.word 50 3
  let x := getCore d c
  if !inThreadSet x t n then entryFault d c t e cfWaybillState n
  else if wbLevelMet x n (bitB e.word 49) then seqStep c t id d
  else modThread d c t (fun th => { th with wait := .wbwait (BitVec.ofNat 3 n) (bitB e.word 49) })

/-- WBWAIT_RESUME. -/
def effWbwaitResume (c : CoreId) (t : Bool) (d : Die) : Die :=
  let x := getCore d c
  match (getThread x t).wait with
  | .wbwait wb level =>
    if wbLevelMet x wb.toNat level then modThread d c t (fun th => advance { th with wait := .none }) else d
  | _ => d

def place (d : Die) (c : CoreId) : Nat := c.toNat + 512 * d.ident.dieNum.toNat

/-- CARAVAN (R177): four credits to the member before; at the head the waybill starts as under WBGO. A waybill with NEXT set is started
by WBNEXT alone (R167): CARAVAN on it raises WAYBILL_STATE (DESIGN CHOICE: R167 names no fault). -/
def issueCaravan : IssueFn := fun d c t e =>
  let x := getCore d c
  let n := fld e.word 50 3
  let id := fld e.word 36 12
  let w := getWb x n
  match x.members.find? (fun m => m.kind == .caravan && m.id.toNat == id && some m.itin == (getThread x t).itin) with
  | none => if !inThreadSet x t n then faulted d c t e cfWaybillState n else faulted d c t e cfCaravanShape (place d c)
  | some m =>
    if !inThreadSet x t n || wbSt w ≠ 1 || wbNext w || ringFed x (wbRing w) n then faulted d c t e cfWaybillState n
    else if !wbCaravan w || wbRing w ≠ m.ring.toNat then faulted d c t e cfCaravanShape (place d c)
    else match startReject x t n (m.pos == 0) with
      | some (f, det) => faulted d c t e f det
      | none =>
        if !ringIdle d c (wbRing w) then held
        else
          let m1 := { m with joined := true, thread := t, shape := some (wbTileBytes w, wbTiles w),
                             fwdFlits := 0, fwdOpen := false, blocking := 0, granted := 4 }
          let d1 := setCore d c (replaceM x m m1)
          let d2 := match m.up with
            | some (die, core, ring) =>
              (List.range (if m.joined then 0 else 4)).foldl (fun e _ => send e (.streamCredit .caravan m.id die core ring)) d1
            | none => d1
          some (if m.pos = 0 then runWaybill d2 c t n e.pc
            else modCore d2 c (fun y => putWb y n { getWb y n with state := 3, origin := .own, thread := t, pc := e.pc }))

/-- RELAY (R182): proxies enabled with no credits, four credits on each hand-over ring to its producer. -/
def issueRelay : IssueFn := fun d c t e =>
  let x := getCore d c
  let id := fld e.word 36 12
  let stage := fld e.word 33 3
  let mine (m : Member) : Bool := m.kind == .relay && m.id.toNat == id && some m.itin == (getThread x t).itin
  if !x.members.any (fun m => mine m && m.up.isNone && m.down.isNone && m.stage.toNat == stage)
  then faulted d c t e cfRelayStage id
  else
    let links := x.members.filter (fun m => mine m && (m.up.isSome || m.down.isSome) && inThreadSet x t m.ring.toNat && !m.joined)
    let x1 := { x with members := x.members.map (fun m => if links.contains m then { m with joined := true, thread := t, granted := 4 } else m) }
    let x2 := links.foldl (fun y m => if m.down.isSome then putRing y m.ring.toNat { getRing y m.ring.toNat with credits := 0 } else y) x1
    some (links.foldl (fun d m => match m.up with
      | some (die, core, ring) => (List.range 4).foldl (fun e _ => send e (.streamCredit .relay m.id die core ring)) d
      | none => d) (setCore d c x2))

/-! ### Arrivals -/

/-- A flit for a stopped member is discarded on arrival (R188). -/
def discardFlit (d : Die) (c : CoreId) (m : Member) : Die :=
  modCore d c (fun x => replaceM x m { m with discarded := m.discarded + 1 })

/-- The source endpoint of a link's packets: the core upstream, or for a core of another die a gate, which one the spec leaves open. -/
def upEndpoint (d : Die) (m : Member) : BitVec 12 := match m.up with
  | some (die, core, _) => if die = d.ident.dieNum then coreEndpoint core else
      BitVec.ofNat 12 (8 * (15 * 32 + (freeVal d 1000).toNat % 32) + 4)
  | none => 0

def linkType : LinkKind → Nat
  | .caravan => 0
  | .relay => 1
  | .chain => 2

/-- A STREAM flit at a core's port (R242, R243): delivered when the role it carries, which is the member's at admission, is still the
core's; else refused, with a NACK, and counted as discarded. -/
def atPort (d : Die) (c : CoreId) (m : Member) (tile : Nat) (go : Die → Die) : Die :=
  match portCheck d c m.party m.epoch with
  | none => go d
  | some reason =>
    drew (refuseAtPort (discardFlit d c m) reason 2 (linkType m.kind) (coreEndpoint c) (upEndpoint d m) m.party m.epoch 0
      (packed 64 [(40, 24, tile), (28, 12, m.id.toNat)]))

/-- Bytes of a flit added to a ring's filling buffer, starting one at the tail when none is open; none when no buffer can
take them. The answers: the ring and the buffer. -/
def openBuffer (r : Ring) (i : BufInfo) : Option (Ring × Nat) :=
  let last := (r.tail - 1).toNat
  if bufState r last = 1 && !(getInfo r last).whole then some (r, last)
  else if bufState r r.tail.toNat = 0 then some (startTail r i, r.tail.toNat)
  else none

/-- The RUNNING waybill that feeds a member's ring from its caravan. -/
def memberWb (x : Core) (n : Nat) : Nat :=
  ((List.range 8).find? (fun j => let w := getWb x j; wbSt w == 3 && wbRing w == n && wbCaravan w)).getD 8

/-- CARAVAN_FLIT_ARRIVAL (R177, R178): written into the member's buffer, and forwarded when a credit is held. -/
def effCaravanFlit (c : CoreId) (ring : BitVec 3) (tile count : BitVec 24) (last : Bool) (data : BitVec 1024) (d : Die) : Die :=
  let x := getCore d c
  let n := ring.toNat
  match x.members.find? (fun m => m.kind == .caravan && m.ring == ring && m.up.isSome) with
  | none => d
  | some m =>
    atPort d c m tile.toNat (fun d =>
      match m.joined, m.shape with
      | true, some (bytes, total) =>
        match openBuffer (getRing x n) { BufInfo.reset with clean := true, tile := tile.toNat, wb := memberWb x n, size := bytes, total := total } with
        | none => d
        | some (r, b) =>
          let i := getInfo r b
          let k := min 128 (i.size - i.bytes)
          let whole := decide (i.bytes + k = i.size)
          if count.toNat ≠ i.total || whole != last then
            raiseFault (discardFlit d c m) c (some m.thread) cfCaravanShape (place d c) (getThread x m.thread).pc
          else
            let r1 := putInfo r b { i with bytes := i.bytes + k, whole := whole, due := if whole then d.aclk + 1 else i.due }
            let x1 := replaceM (putRing x n r1) m { m with received := m.received + 1 }
            let first := decide (i.bytes = 0) && decide (tile.toNat + 1 = i.total) && decide (i.wb < 8)
            let x2 := if first then setWbState i.wb 4 x1 else x1
            pumpCaravan 4 (putStore (setCore d c x2) c (bufBase r b + i.bytes) (leBytes k data.toNat)) c n
      | _, _ => discardFlit d c m)

/-- Whether the tile a hand-over link is delivering has had its status word delivered by its producer on this die (R117, R182): the word
is delivered at D + 37, and the last flit arrives no earlier than D + 38. For a producer on another die its flits' way through the hub
is taken to be no shorter (DEDUCED). -/
def tileJudged (d : Die) (m : Member) : Bool := match m.up with
  | some (die, core, ring) =>
    let y := getCore d core
    die != d.ident.dieNum || (y.members.filter (fun z => z.kind == .relay && z.itin == m.itin && z.ring == ring && z.down.isSome)).all (fun z =>
      decide (m.tiles < z.tiles - (y.ops.filter (fun o => o.ring == some ring)).length))
  | none => true

/-- HANDOVER_FLIT_ARRIVAL (R182, R183): a tile's last flit comes after its producer's status word. -/
def effHandoverFlit (c : CoreId) (ring : BitVec 3) (last : Bool) (data : BitVec 1024) (d : Die) : Die :=
  let x := getCore d c
  let n := ring.toNat
  match x.members.find? (fun m => m.kind == .relay && m.ring == ring && m.up.isSome) with
  | none => d
  | some m =>
    atPort d c m m.tiles (fun d =>
      if !m.joined then discardFlit d c m
      else if last && !tileJudged d m then d
      else match openBuffer (getRing x n) { BufInfo.reset with clean := true, tile := m.tiles } with
        | none => d
        | some (r, b) =>
          let i := getInfo r b
          let k := min 128 (ringB r - i.bytes)
          let r1 := putInfo r b { i with bytes := i.bytes + k, whole := last, due := if last then d.aclk + 1 else i.due }
          let x1 := replaceM (putRing x n r1) m { m with received := m.received + 1, tiles := if last then m.tiles + 1 else m.tiles }
          putStore (setCore d c x1) c (bufBase r b + i.bytes) (leBytes k data.toNat))

/-- CHAIN_FLIT_ARRIVAL (R105, R107). -/
def effChainFlit (c : CoreId) (id : BitVec 12) (data : BitVec 1024) (d : Die) : Die :=
  let x := getCore d c
  match x.members.find? (fun m => m.kind == .chain && m.id == id && m.up.isSome) with
  | none => d
  | some m =>
    atPort d c m 0 (fun d =>
      if !m.joined then discardFlit d c m
      else
        let m1 := { m with incoming := m.incoming ++ [data], received := m.received + 1 }
        chainAct (setCore d c (replaceM x m m1)) c m1)

/-- STREAM_CREDIT_ARRIVAL (R178, R182, R107): a credit returns; what waited for it leaves. -/
def effCreditArrival (c : CoreId) (kind : LinkKind) (id : BitVec 12) (ring : BitVec 3) (d : Die) : Die :=
  let x := getCore d c
  let n := ring.toNat
  match x.members.find? (fun m => m.kind == kind && m.id == id && m.down.isSome && (kind == .chain || m.ring == ring)) with
  | none => d
  | some m =>
    match kind with
    | .chain =>
      if m.flits ≤ m.credits then d
      else
        let m1 := { m with credits := m.credits + 1 }
        let d1 := setCore d c (replaceM x m m1)
        if m.joined then pumpChain d1 c m1 else d1
    | _ =>
      let r := getRing x n
      if 4 ≤ r.credits.toNat then d
      else
        let d1 := setCore d c (putRing x n { r with credits := r.credits + 1 })
        if kind == .caravan then pumpCaravan 4 d1 c n else d1

/-! ### Stalls (R180, R184, R108) -/

/-- The thread a ring belongs to (R130), and its stall limit. -/
def ringThread (x : Core) (n : Nat) : Bool := x.split && decide (4 ≤ n)
def stallLimit (x : Core) (t : Bool) : Nat := (if x.split && t then x.stall1 else x.stall0).toNat

/-- A stall count passes the limit: time comes to that cycle and the itinerary faults. -/
def stallFault (d : Die) (c : CoreId) (t : Bool) (count code detail : Nat) : Die :=
  let x := getCore d c
  raiseFault (waitUntil d (d.aclk + (stallLimit x t + 1 - count))) c (some t) code detail x.t0.pc

/-- A member withholds a credit for its own reasons (R180): it has not joined, or a buffer is held only by its consumer. -/
def withholds (x : Core) (m : Member) : Bool :=
  let r := getRing x m.ring.toNat
  !m.joined || (List.range 4).any (fun b => bufState r b ≥ 2 && !mustForward x r m.ring.toNat b && ringCons r == 0)

/-- A core of this die that holds a caravan flit of ring n it cannot send for want of a credit (R180): a tile whose credit has been spent
is sent, and one of which nothing has come holds nothing. -/
def holdsFlit (y : Core) (n : Nat) : Bool :=
  let r := getRing y n
  r.credits == 0 && (caravanOn y n).any (fun u => !u.fwdOpen && u.down.isSome) &&
  (match nextForward r with
   | some b => decide (0 < flitsPresent y r n b (divUp (getInfo r b).size 128))
   | none => false)

/-- Whether the member before m holds a flit for it: of another die's member only the command can say (DESIGN CHOICE, assumption log). -/
def wanted (d : Die) (m : Member) (elsewhere : Bool) : Bool := match m.up with
  | some (die, core, ring) => if die = d.ident.dieNum then holdsFlit (getCore d core) ring.toNat else elsewhere
  | none => false

/-- CARAVAN_STALL: the member is blocking (R180) and its count passes the limit. -/
def effCaravanStall (c : CoreId) (ring : BitVec 3) (d : Die) : Die :=
  let x := getCore d c
  match x.members.find? (fun m => m.kind == .caravan && m.ring == ring && m.up.isSome) with
  | none => d
  | some m =>
    if withholds x m && wanted d m true then stallFault d c (ringThread x ring.toNat) m.blocking cfCaravanStall (place d c) else d

/-- The rings a word takes tiles from (R164), and the ring it drains into (R165). -/
def wordConsumes (w : BitVec 64) : List Nat :=
  let op := fld w 58 6
  if op = 0x20 then mmaRings w
  else if op = 0x21 then (if fld w 42 4 < 8 then [fld w 42 4] else [])
  else if op = 0x22 then (if fld w 36 4 < 8 then [fld w 36 4] else [])
  else if op = 0x23 then (if fld w 24 2 ≠ 0 && fld w 14 4 < 8 then [fld w 14 4] else [])
  else []

def wordProduces (w : BitVec 64) : Option Nat :=
  let op := fld w 58 6
  if op = 0x23 then srcRing (fld w 36 4)
  else if op = 0x28 && fld w 45 3 == kLse then some (fld w 23 3)
  else none

/-- The words at the heads of a thread's array queues: the ones a hold can keep. -/
def headWords (th : Thread) : List (BitVec 64) := (th.feed.take 1 ++ th.edge.take 1).map (·.word)

/-- A thread held at issue on a ring's head, or in WAITEV on it (R184). -/
def waitsForTile (x : Core) (t : Bool) (n : Nat) : Bool :=
  let th := getThread x t
  !headFull (getRing x n) && ((headWords th).any (fun w => (wordConsumes w).contains n) ||
    (match th.wait with | .waitev _ mask => bitB mask n | _ => false))

/-- A thread whose producing word is held for a credit of a proxy ring. -/
def waitsForCredit (x : Core) (t : Bool) (n : Nat) : Bool :=
  (getRing x n).credits == 0 && (headWords (getThread x t)).any (fun w => wordProduces w == some n)

/-- Whether an end of a hand-over link waits on it (R184). -/
def waitsOnLink (x : Core) (m : Member) : Bool :=
  m.joined && (if m.down.isSome then waitsForCredit x m.thread m.ring.toNat
    else m.up.isSome && waitsForTile x m.thread m.ring.toNat)

/-- The core that a member waits for, of a link, a caravan or a chain: the other end of what keeps it (R184). -/
def waitsFor (x : Core) (m : Member) : Option (BitVec 2 × CoreId) :=
  let far (p : Option (BitVec 2 × BitVec 9 × BitVec 3)) : Option (BitVec 2 × CoreId) := p.map (fun q => (q.1, q.2.1))
  match m.kind with
  | .relay => if waitsOnLink x m then far (if m.down.isSome then m.down else m.up) else none
  | .caravan =>
    if m.joined && m.up.isSome && waitsForTile x m.thread m.ring.toNat then far m.up
    else if holdsFlit x m.ring.toNat then far m.down
    else none
  | .chain =>
    if m.pending.isSome && m.pos ≠ 0 && decide (m.incoming.length < m.flits) then far m.up
    else if !m.outgoing.isEmpty && m.credits == 0 then far m.down
    else none

/-- Waits followed core by core within an itinerary, as far as this die shows them, to a core that waits on nothing. -/
def followWaits (d : Die) (itin : BitVec 32) : Nat → BitVec 2 × CoreId → BitVec 2 × CoreId
  | 0, p => p
  | k + 1, p =>
    if p.1 ≠ d.ident.dieNum then p
    else
      let x := getCore d p.2
      match (x.members.filter (fun m => m.itin == itin)).filterMap (waitsFor x) with
      | [] => p
      | q :: _ => followWaits d itin k q

/-- RELAY_STALL: DETAIL names the core the waits lead to; where they lead off this die it is the command's (R184). -/
def effRelayStall (c : CoreId) (ring : BitVec 3) (found : CoreId) (die : BitVec 2) (d : Die) : Die :=
  let x := getCore d c
  match x.members.find? (fun m => m.kind == .relay && m.ring == ring && (m.up.isSome || m.down.isSome)) with
  | none => d
  | some m =>
    if waitsOnLink x m then
      let p := followWaits d m.itin 4096 (d.ident.dieNum, c)
      stallFault d c (ringThread x ring.toNat) (getRing x ring.toNat).waitCount cfRelayStall
        (if p.1 = d.ident.dieNum then p.2.toNat + 512 * p.1.toNat else found.toNat + 512 * die.toNat)
    else d

/-- A chain member withholds credits while it keeps flits it has not combined (R108). -/
def effChainStall (c : CoreId) (id : BitVec 12) (d : Die) : Die :=
  let x := getCore d c
  match x.members.find? (fun m => m.kind == .chain && m.id == id && m.up.isSome) with
  | none => d
  | some m => if m.incoming.isEmpty then d else stallFault d c m.thread m.blocking cfChainStall (place d c)

/-- The stall counts after one ACLK (R180, R184): a member blocks while the member before it on this die holds a flit for it
and no credit; counts return to 0 otherwise. -/
def stallTick (d : Die) : Die :=
  let waiting (x : Core) (n : Nat) : Bool := x.members.any (fun m => m.kind == .relay && m.ring.toNat == n && waitsOnLink x m)
  let member (x : Core) (m : Member) : Member :=
    if m.kind == .caravan && m.up.isSome then { m with blocking := if wanted d m false && withholds x m then m.blocking + 1 else 0 } else m
  let ring (x : Core) (n : Nat) (r : Ring) : Ring := { r with waitCount := if waiting x n then r.waitCount + 1 else 0 }
  let core (x : Core) : Core :=
    { x with members := x.members.map (member x), rings := tabMap Ring.reset (ring x) x.rings }
  { d with cores := tabMap Core.reset (fun _ x => core x) d.cores }

/-- DIE_CE with what the stores have corrected added, each field saturating (R403). -/
def addCorrected (v : BitVec 64) (n : Nat → Nat) : BitVec 64 :=
  (List.range 4).foldl (fun v i => putFld v (16 * i) 16 (min 0xFFFF (fld v (16 * i) 16 + n i))) v

/-- A program-memory word of a core in use goes bad past correction (R137). -/
def spoilWord (c : CoreId) (w : Nat) (d : Die) : Die :=
  if coreInUse d c then modCore d c (fun x => { x with pmemBad := if x.pmemBad.contains w then x.pmemBad else x.pmemBad ++ [w] }) else d

/-- A Lodge row of a core in use holds a correctable error, or goes bad past correction (R191). -/
def spoilRow (ue : Bool) (key : Nat) (d : Die) : Die :=
  let l := d.lodge
  let add (m : List Nat) : List Nat := if m.contains key then m else m ++ [key]
  if coreInUse d (BitVec.ofNat 9 (key / 16384)) then
    { d with lodge := if ue then { l with ueMark := add l.ueMark } else { l with ceMark := add l.ceMark } }
  else d

/-- What an idle ACLK may bring the stores: how many words each has corrected, and whether a word of program memory or a Lodge row has
gone bad, are free values (R137, R191, R403; assumption log). -/
def upsets (d : Die) : Die :=
  let f (i : Nat) : Nat := (freeVal d (0x8000 + i)).toNat
  let d1 := { d with flt := { d.flt with ce := addCorrected d.flt.ce (fun i => if f i % 2 = 1 then f (4 + i) % 65536 else 0) } }
  let d2 := if f 8 % 2 = 1 then spoilWord (BitVec.ofNat 9 (f 9)) (f 10 % 4096) d1 else d1
  drew (if f 11 % 2 = 1 then spoilRow (f 12 % 2 == 1) (f 13 % 2 ^ 23) d2 else d2)

/-- One ACLK in which no command comes (R4). -/
def idle (d : Die) : Die := upsets (stallTick (waitUntil d (d.aclk + 1)))

/-! ### Stopping a core of an itinerary (R187) -/

/-- The halves a thread drives. -/
def threadHalves (x : Core) (t : Bool) : List Bool := if x.split then [t] else [false, true]

/-- A core's part of an itinerary stopped: waybills STOPPED, forwarding and queued work ended, the thread stopped, registers
poisoned; ITINERARY_ABORTED recorded when the core has recorded no fault. -/
def stopCore (d : Die) (c : CoreId) (t : Bool) (code detail : Nat) : Die :=
  let x := getCore d c
  let th := getThread x t
  let mine (n : Nat) : Bool := inThreadSet x t n
  let x1 := (List.range 8).foldl (fun y n => if mine n && wbSt (getWb y n) ≠ 0 then setWbState n 6 y else y) x
  let x2 := { x1 with
    stampWait := x1.stampWait.filter (fun p => p.1 != t),
    queued := x1.queued.filter (fun l => !mine l.wb.toNat), wqueued := x1.wqueued.filter (fun l => !mine l.wb.toNat),
    members := x1.members.map (fun m => if some m.itin = th.itin then { m with joined := false, fwdOpen := false, outgoing := [], pending := none } else m),
    fault := if bitB x1.fault 63 then x1.fault
      else faultWord (if x.split then (if t then 2 else 1) else 0) (some t) (if x.split then th.pc else x.t0.pc) code detail }
  let dropped := (x1.wqueued.filter (fun l => mine l.wb.toNat)).length
  let x3 := setThread x2 t { stopThread (if th.run == .faulted then .faulted else .stopped) th with
    unacked := th.unacked - dropped, stampsHeld := 0, vecWork := [], ldgWork := [], owed := [], answers := [] }
  let x4 := (threadHalves x t).foldl (poisonHalf d.freeCtr d.aclk) x3
  (List.range 8).foldl (fun e n => if mine n then dropWaybillHold e c (BitVec.ofNat 3 n) else e) (drew (setCore d c x4))

/-! ### The commands -/

def execWbl (c : CoreId) (t : Bool) (w : BitVec 58) (s : State) := onDie (dispatch c t 0x10 w (enqueue .port c t id issueWbl)) s
def execWbgo (c : CoreId) (t : Bool) (w : BitVec 58) (s : State) := onDie (dispatch c t 0x11 w (enqueue .port c t id issueWbgo)) s
def execWbwait (c : CoreId) (t : Bool) (w : BitVec 58) (s : State) := onDie (dispatch c t 0x12 w (bodyWbwait c t)) s
def execWbwaitResume (c : CoreId) (t : Bool) (s : State) := onDie (effWbwaitResume c t) s
def execWbnext (c : CoreId) (t : Bool) (w : BitVec 58) (s : State) := onDie (dispatch c t 0x13 w (enqueue .port c t id issueWbnext)) s
def execWbnextStart (c : CoreId) (wb : BitVec 3) (s : State) := onDie (effWbnextStart c wb) s
def execCaravan (c : CoreId) (t : Bool) (w : BitVec 58) (s : State) := onDie (dispatch c t 0x14 w (enqueue .port c t id issueCaravan)) s
def execRelay (c : CoreId) (t : Bool) (w : BitVec 58) (s : State) := onDie (dispatch c t 0x15 w (enqueue .port c t id issueRelay)) s
def execRingBufferFull (c : CoreId) (ring : BitVec 3) (s : State) := onDie (effBufferFull c ring) s
def execRingBufferRelease (c : CoreId) (ring : BitVec 3) (s : State) := onDie (effBufferRelease c ring) s
def execWaybillTileRequest (c : CoreId) (wb : BitVec 3) (s : State) := onDie (effTileRequest c wb) s
def execPorterLineFill (c : CoreId) (n : Nat) (s : State) := onDie (effLineFill c n) s
def execOutboundWriteAck (c : CoreId) (n : Nat) (s : State) := onDie (effWriteAck c n) s
def execCaravanFlitArrival (c : CoreId) (ring : BitVec 3) (tile count : BitVec 24) (last : Bool) (data : BitVec 1024) (s : State) :=
  onDie (fun d => effCaravanFlit c ring tile count last data (cons d 3 1 1)) s
def execStreamCreditArrival (c : CoreId) (kind : LinkKind) (id : BitVec 12) (ring : BitVec 3) (s : State) :=
  onDie (effCreditArrival c kind id ring) s
def execHandoverFlitArrival (c : CoreId) (ring : BitVec 3) (last : Bool) (data : BitVec 1024) (s : State) :=
  onDie (fun d => effHandoverFlit c ring last data (cons d 3 1 1)) s
def execChainFlitArrival (c : CoreId) (id : BitVec 12) (data : BitVec 1024) (s : State) := onDie (fun d => effChainFlit c id data (cons d 3 1 1)) s
def execCaravanStall (c : CoreId) (ring : BitVec 3) (s : State) := onDie (effCaravanStall c ring) s
def execRelayStall (c : CoreId) (ring : BitVec 3) (found : CoreId) (die : BitVec 2) (s : State) :=
  onDie (effRelayStall c ring found die) s
def execChainStall (c : CoreId) (id : BitVec 12) (s : State) := onDie (effChainStall c id) s

end Sys2Proof.Machine
end

