-- ==== Sys2Proof/Machine/Tally.lean ====
section
/-! DEFINITION. The core port's check, tally instructions, tally units, wakes and replies, emulated and remote tally operations
(R157, R230, R240 to R256, R308). -/

namespace Sys2Proof.Machine

/-! ### Endpoints and the port check (R230, R242 to R244) -/

/-- Attachment router of a quarter's units (R31). -/
def unitRouter (q : BitVec 2) : Nat := (if q.toNat / 2 = 0 then 7 else 8) * 32 + (if q.toNat % 2 = 0 then 15 else 16)
def tallyEndpoint (q : BitVec 2) : BitVec 12 := BitVec.ofNat 12 (8 * unitRouter q + 1)

/-! ### Units (R247 to R250, R256) -/

def unitOf (index : BitVec 16) : BitVec 2 := index.extractLsb' 14 2

def tallyCount (d : Die) (index : BitVec 16) : BitVec 32 := tabGet 0 d.tally.counts index.toNat

def putTally (d : Die) (index : BitVec 16) (v : BitVec 32) : Die :=
  { d with tally := { d.tally with counts := tabSet 0 d.tally.counts index.toNat v } }

/-- The count an operation leaves (R157). -/
def tallyNew (op : Nat) (old value : BitVec 32) : BitVec 32 :=
  match op with
  | 0 => old + value
  | 1 => value
  | 3 => old + 1
  | _ => old

/-- Waiters of a tally whose condition now holds leave the table, one wake queued for each, in registration order; the first may leave
3 ACLK after the operation arrived. -/
def releaseWaiters (d : Die) (index : BitVec 16) : Die :=
  let t := d.tally
  let n := tallyCount d index
  let go := (t.waiters.filter (fun w => w.index == index && decide (w.target.toNat ≤ n.toNat))).map (fun w => { w with due := d.aclk + 3 })
  cons { d with tally := { t with waiters := t.waiters.filter (fun w => !(w.index == index && decide (w.target.toNat ≤ n.toNat))),
                                  wakes := t.wakes ++ go } } 5 0 go.length

/-- One operation at its unit, whole (R249, R250): the die, the count before it, and whether the condition of a WAIT, ARRIVE
or ARM held after its own step. A condition that fails registers the waiter. -/
def tallyPerform (d : Die) (r : TallyReq) : Die × BitVec 32 × Bool :=
  let old := tallyCount d r.index
  let new := tallyNew r.op.toNat old r.value
  let d1 := putTally d r.index new
  let d2 := { d1 with tally := { d1.tally with ops := tabMod 0 d1.tally.ops (unitOf r.index).toNat (· + 1) } }
  let met := decide (r.value.toNat ≤ new.toNat)
  let waits := decide (2 ≤ r.op.toNat)
  let d3 := if waits && !met then
      cons { d2 with tally := { d2.tally with waiters := d2.tally.waiters ++
        [⟨unitOf r.index, r.index, r.value, r.endpoint, r.die, r.thread, r.party, r.epoch, r.op == 4, r.armSeq, 0,
          r.die != d.ident.dieNum && d.ident.protoLevel == 1⟩] } } 5 1 0
    else d2
  (releaseWaiters d3 r.index, old, met)

/-- A withdrawn ARM leaves its unit's table (R250). -/
def cancelArm (d : Die) (die : BitVec 2) (endpoint : BitVec 12) (thread : Bool) (armSeq : BitVec 4) : Die :=
  let t := d.tally
  let gone (w : Waiter) : Bool := w.arm && w.die == die && w.endpoint == endpoint && w.thread == thread && w.armSeq == armSeq
  cons { d with tally := { t with waiters := t.waiters.filter (fun w => !gone w) } } 5 0 (t.waiters.filter gone).length

/-- Waiters are removed, no wake sent (R256). -/
def dropWaiters (gone : Waiter → Bool) (d : Die) : Die :=
  let y := d.tally
  cons { d with tally := { y with waiters := y.waiters.filter (fun w => !gone w) } } 5 0 (y.waiters.filter gone).length

/-! ### Argument words (R249, R250) -/

def reqWord (r : TallyReq) : BitVec 64 :=
  putFld (putFld (putFld (putFld (putFld (putFld 0#64 61 3 r.op.toNat) 60 1 (b2n r.fetch)) 59 1 (b2n r.thread)) 55 4
    r.armSeq.toNat) 32 16 r.index.toNat) 0 32 r.value.toNat

def wakeWord (w : Waiter) : BitVec 64 :=
  putFld (putFld (putFld (putFld 0#64 63 1 (b2n w.thread)) 62 1 (b2n w.arm)) 58 4 w.armSeq.toNat) 32 16 w.index.toNat

/-- A remote request as its unit sees it (R308). -/
def entryReq (e : TallyEntry) : TallyReq :=
  { unit := unitOf (e.arg.extractLsb' 32 16), op := e.arg.extractLsb' 61 3, fetch := bitB e.arg 60,
    index := e.arg.extractLsb' 32 16, value := e.arg.extractLsb' 0 32, endpoint := e.endpoint, die := e.srcDie,
    thread := bitB e.arg 59, party := e.party, epoch := e.epoch, tag := 0, armSeq := e.arg.extractLsb' 55 4, due := 0 }

/-- An entry toward another die: a TALLY_OP flit at the serving gate of a column, module by tally index, or the Steward's EMU_TALLY
(R253, R254, R303). -/
def sendEntry (d : Die) (col : Nat) (index : BitVec 16) (e : TallyEntry) : Die :=
  if d.ident.protoLevel = 1 then emitCtrl d (.emuTally e)
  else emit d (6 * (servingGate d col).toNat + index.toNat % 6) chCtrl 1 (.tallyOp e)

/-- The mesh column of a tally unit (R247). -/
def unitCol (q : BitVec 2) : Nat := unitRouter q % 32

/-! ### At the core (R79, R142, R251) -/

/-- A thread resumed after a tally wait: its halves owe a stagger hold. -/
def resumeTally (x : Core) (t : Bool) : Core :=
  let x1 := setThread x t { getThread x t with wait := .none }
  let hs := threadHalf x t
  { x1 with stagger0 := x1.stagger0 || colIn hs 0, stagger1 := x1.stagger1 || colIn hs 16 }

/-- The ARM of a thread met: WAITEV bit 8 becomes present. -/
def armMet (x : Core) (t : Bool) : Core :=
  let th := getThread x t
  setThread x t { th with tallyEvent := true, armed := false }

/-- A wake at its core: the waiting thread resumes, a current ARM sets WAITEV bit 8, anything else is discarded and counted. -/
def takeWake (d : Die) (c : CoreId) (thread arm : Bool) (armSeq : BitVec 4) (index : BitVec 16) : Die :=
  let x := getCore d c
  let th := getThread x thread
  let stale := let t := d.tally
    { d with tally := { t with staleWakes := tabMod 0 t.staleWakes (unitOf index).toNat satInc } }
  if arm then
    if th.armed && th.armSeq == armSeq then setCore d c (armMet x thread) else stale
  else match th.wait with
    | .tally name _ => if name.extractLsb' 0 16 = index then setCore d c (resumeTally x thread) else stale
    | _ => stale

/-- The answer of an operation at its core: a FETCH result written, a WAIT whose condition held resumed, an ARM met unless a later one
has replaced it (R157). -/
def takeReply (d : Die) (c : CoreId) (o : OpenTag) (count : BitVec 32) (met : Bool) : Die :=
  let x0 := getCore d c
  let x := { x0 with tags := x0.tags.erase o }
  let d1 := cons d 4 0 1
  match o.kind with
  | .tallyFetch rd k => setCore d1 c (setThread x o.thread (payReg rd k (count.setWidth 64) (getThread x o.thread)))
  | .tallyWait _ => setCore d1 c (if met then resumeTally x o.thread else x)
  | .tallyArm => setCore d1 c (if met && (getThread x o.thread).armSeq == o.armSeq then armMet x o.thread else x)
  | _ => setCore d1 c x

/-! ### Commands at the units -/

/-- Requests of one endpoint to one unit arrive in order (R232). -/
def reqFirst (d : Die) (n : Nat) (r : TallyReq) : Bool :=
  !(d.tally.reqs.take n).any (fun y => y.endpoint == r.endpoint && y.unit == r.unit && y.die == r.die)

def dropReq (d : Die) (n : Nat) : Die := { d with tally := { d.tally with reqs := d.tally.reqs.eraseIdx n } }

/-- The head of a request reaches its unit, which accepts one per ACLK (R249, R251). -/
def headArrives (r : TallyReq) (d : Die) : Die :=
  let q := (unitOf r.index).toNat
  let d1 := waitUntil d (max r.due (tabGet 0 d.tally.nextHead q))
  { d1 with tally := { d1.tally with nextHead := tabSet 0 d1.tally.nextHead q (d1.aclk + 1) } }

/-- TALLY_REQ_ARRIVAL (R249): the n-th request under way is performed; its reply starts back and is there 9 ACLK later (R251). -/
def effTallyReq (n : Nat) (d : Die) : Die :=
  match d.tally.reqs[n]? with
  | none => d
  | some r =>
    if r.op = 5 || !reqFirst d n r then d
    else
      let (d1, old, met) := tallyPerform (headArrives r (cons (dropReq d n) 3 1 1)) r
      { d1 with tally := { d1.tally with replies := d1.tally.replies ++
        [⟨r.endpoint, r.die, r.thread, r.party, r.epoch, r.tag, old, met, r.op == 4, r.armSeq, d1.aclk + 9⟩] } }

/-- TALLY_CANCEL (R250). -/
def effTallyCancel (n : Nat) (d : Die) : Die :=
  match d.tally.reqs[n]? with
  | none => d
  | some r => if r.op ≠ 5 || !reqFirst d n r then d else cancelArm (headArrives r (cons (dropReq d n) 3 1 1)) r.die r.endpoint r.thread r.armSeq

/-- TALLY_WAKE_SEND (R250, R253): the unit's oldest queued wake leaves, one in an ACLK, over the mesh or toward another die. A thread
it releases resumes 3 ACLK a hop and 2 more later (R251). -/
def effWakeSend (unit : BitVec 2) (d : Die) : Die :=
  match d.tally.wakes.find? (fun w => w.unit == unit) with
  | none => d
  | some w =>
    let q := unit.toNat
    let d0 := waitUntil d (max w.due (tabGet 0 d.tally.nextWake q))
    let d1 := { d0 with tally := { d0.tally with wakes := d0.tally.wakes.erase w, nextWake := tabSet 0 d0.tally.nextWake q (d0.aclk + 1) } }
    if w.die = d.ident.dieNum then
      let v := { w with due := d1.aclk + 3 * unitHops unit (endpointCore w.endpoint) + 2 }
      { d1 with tally := { d1.tally with flying := d1.tally.flying ++ [v] } }
    else sendEntry d1 (unitCol w.unit) w.index ⟨2, w.die, w.die, w.endpoint, w.party, w.epoch, wakeWord w⟩

/-- A wake delivered to, or refused by, its core's port, which sends a NACK (R242, R243). -/
def deliverWake (d : Die) (c : CoreId) (party : BitVec 12) (epoch : BitVec 8) (thread arm : Bool) (armSeq : BitVec 4)
    (index : BitVec 16) : Die :=
  match portCheck d c party epoch with
  | none => takeWake d c thread arm armSeq index
  | some reason =>
    let unit := tallyEndpoint (unitOf index)
    refuseAtPort d reason 3 1 (coreEndpoint c) unit party epoch 0 (BitVec.ofNat 64 (index.toNat * 2 ^ 32))

/-- TALLY_WAKE_DELIVERY (R251): wakes of one unit to one core arrive in order. -/
def effWakeDelivery (n : Nat) (d : Die) : Die :=
  match d.tally.flying[n]? with
  | none => d
  | some w =>
    if (d.tally.flying.take n).any (fun y => y.unit == w.unit && y.endpoint == w.endpoint) then d
    else
      let d0 := waitUntil d w.due
      let d1 := { d0 with tally := { d0.tally with flying := d0.tally.flying.eraseIdx n } }
      cons (deliverWake d1 (endpointCore w.endpoint) w.party w.epoch w.thread w.arm w.armSeq w.index) 3 1 1

/-- TALLY_REPLY (R251): the n-th reply on the reply network; one whose tag its core no longer has open is dropped. -/
def effTallyReply (n : Nat) (d : Die) : Die :=
  match d.tally.replies[n]? with
  | none => d
  | some r =>
    let d0 := waitUntil d r.due
    let d1 := { d0 with tally := { d0.tally with replies := d0.tally.replies.eraseIdx n } }
    let c := endpointCore r.endpoint
    match (getCore d1 c).tags.find? (fun o => o.tag == r.tag && !o.remote) with
    | none => cons d1 4 0 1
    | some o => takeReply d1 c o r.count r.met

/-- Which of a core's operations on other dies a REPLY answers: the entry carries no tag, so that among several the choice is a free
value (R253, R308). -/
def replyTag (d : Die) (c : CoreId) : Option OpenTag :=
  let open_ := (getCore d c).tags.filter (·.remote)
  open_[(freeVal d 0).toNat % open_.length]?

/-- An entry from another die (R253, R254, R308): performed at its unit, or delivered to its core. -/
def takeEntry (d : Die) (e : TallyEntry) : Die :=
  let c := endpointCore e.endpoint
  match e.kind.toNat with
  | 0 =>
    let r := entryReq e
    if 4 < r.op.toNat then d
    else
      let (d1, old, _) := tallyPerform (headArrives r d) r
      sendEntry d1 (unitCol (unitOf r.index)) r.index ⟨1, e.srcDie, e.srcDie, e.endpoint, e.party, e.epoch, old.setWidth 64⟩
  | 1 =>
    match replyTag d c with
    | none => cons d 4 0 1
    | some o =>
      let count : BitVec 32 := e.arg.extractLsb' 0 32
      let after := match o.kind with | .tallyWait true => count + 1 | _ => count
      takeReply (drew d) c o count (decide (o.target.toNat ≤ after.toNat))
  | 2 => deliverWake d c e.party e.epoch (bitB e.arg 63) (bitB e.arg 62) (e.arg.extractLsb' 58 4) (e.arg.extractLsb' 32 16)
  | _ =>
    let r := entryReq e
    cancelArm d e.srcDie e.endpoint r.thread r.armSeq

/-! ### Tally instructions (R157, R248, R249) -/

/-- Whether a tally name lies in an enabled window of the thread. -/
def inWindow (x : Core) (t : Bool) (die : BitVec 2) (index : BitVec 16) : Bool :=
  (List.range 4).any (fun n =>
    let w := tabGet 0 (if t then x.win1 else x.win0) n
    bitB w 63 && w.extractLsb' 48 2 == die && decide (fld w 32 16 ≤ index.toNat) && decide (index.toNat < fld w 32 16 + fld w 0 17))

/-- The die a name lies on (R248). -/
def nameDie (d : Die) (name : BitVec 19) : BitVec 2 := if bitB name 18 then name.extractLsb' 16 2 else d.ident.dieNum

/-- A request on its way: to a unit of this die, 1 ACLK and 3 for each hop away (R251), or toward another. -/
def sendTally (d : Die) (die : BitVec 2) (r : TallyReq) : Die :=
  if die = d.ident.dieNum then
    let due := d.aclk + 1 + 3 * unitHops (unitOf r.index) (endpointCore r.endpoint)
    { d with tally := { d.tally with reqs := d.tally.reqs ++ [{ r with due := due }] } }
  else sendEntry d ((endpointCore r.endpoint).toNat % 32) r.index ⟨if r.op = 5 then 3 else 0, d.ident.dieNum, die, r.endpoint, r.party, r.epoch, reqWord r⟩

/-- TALLY at issue: TALLY_RANGE, else one request with the sender's role; an ARM first withdraws the one before it. -/
def issueTally : IssueFn := fun d c t e =>
  let x := getCore d c
  let th := getThread x t
  let w := e.word
  let op := fld w 51 3
  let name : BitVec 19 := (opnd e (fld w 44 6)).setWidth 19
  let die := nameDie d name
  let index : BitVec 16 := name.extractLsb' 0 16
  if 4 < op then faulted d c t e cfIllegalOpcode 0
  else if !inWindow x t die index then faulted d c t e cfTallyRange 0
  else
    let value : BitVec 32 := if bitB w 37 then BitVec.ofNat 32 (fld w 0 16) else (opnd e (fld w 38 6)).setWidth 32
    let remote := die != d.ident.dieNum
    let fetch := bitB w 50 && decide (op ≤ 1)
    let kind : TagKind := if fetch then .tallyFetch (BitVec.ofNat 6 (fld w 31 6)) .tally
      else if op = 2 || op = 3 then .tallyWait (op == 3) else if op = 4 then .tallyArm else .tallyOp
    let tag := freeTag (x.tags.map (·.tag))
    let seq := if op = 4 then th.armSeq + 1 else th.armSeq
    let base : TallyReq := ⟨unitOf index, BitVec.ofNat 3 op, fetch, index, value, coreEndpoint c, d.ident.dieNum, t, x.portParty,
      x.portEpoch, tag, if op = 4 then seq else 0, 0⟩
    let d1 := if op = 4 && th.armed then
        let old : BitVec 16 := th.armName.extractLsb' 0 16
        sendTally d (nameDie d th.armName) { base with op := 5, fetch := false, unit := unitOf old, index := old, value := 0, armSeq := th.armSeq }
      else d
    let th1 := if op = 4 then { th with armed := true, armSeq := seq, armName := name } else th
    let x1 := setThread { x with tags := x.tags ++ [⟨tag, t, kind, remote, e.pc, value, seq⟩] } t th1
    some (sendTally (cons (setCore d1 c x1) 4 1 0) die base)

/-- What dispatch does to the thread: a FETCH owes RD; WAIT and ARRIVE stop dispatch. -/
def tallyPrep (w : BitVec 58) (regs : Tab (BitVec 64)) (th : Thread) : Thread :=
  let v := mkWord 0x3C w
  let op := fld v 51 3
  let th1 := if bitB v 50 && op ≤ 1 then owe (fld v 31 6) .tally th else th
  if op = 2 || op = 3 then
    let target := if bitB v 37 then BitVec.ofNat 32 (fld v 0 16) else (readReg regs (fld v 38 6)).setWidth 32
    { th1 with wait := .tally ((readReg regs (fld v 44 6)).setWidth 19) target }
  else th1

/-- A TALLY word: its OP bits choose the operation; a reserved OP raises ILLEGAL_OPCODE (R157). -/
def effTally (c : CoreId) (t : Bool) (w : BitVec 58) (d : Die) : Die :=
  dispatch c t 0x3C w (fun d e => if 4 < fld (mkWord 0x3C w) 51 3 then entryFault d c t e cfIllegalOpcode 0
    else enqueue .msg c t (tallyPrep w e.regs) issueTally d e) d

/-! ### The commands -/

def execTallyAdd (c : CoreId) (t : Bool) (w : BitVec 58) (s : State) := onDie (effTally c t w) s
def execTallySet (c : CoreId) (t : Bool) (w : BitVec 58) (s : State) := onDie (effTally c t w) s
def execTallyWait (c : CoreId) (t : Bool) (w : BitVec 58) (s : State) := onDie (effTally c t w) s
def execTallyArrive (c : CoreId) (t : Bool) (w : BitVec 58) (s : State) := onDie (effTally c t w) s
def execTallyArm (c : CoreId) (t : Bool) (w : BitVec 58) (s : State) := onDie (effTally c t w) s
def execTallyReqArrival (n : Nat) (s : State) := onDie (effTallyReq n) s
def execTallyWakeSend (unit : BitVec 2) (s : State) := onDie (effWakeSend unit) s
def execTallyWakeDelivery (n : Nat) (s : State) := onDie (effWakeDelivery n) s
def execTallyReply (n : Nat) (s : State) := onDie (effTallyReply n) s
def execTallyCancel (n : Nat) (s : State) := onDie (effTallyCancel n) s
/-- TALLY_OP flits run at protocol level 2 only (R17, R253). -/
def execTallyOp (e : TallyEntry) (s : State) :=
  onDie (fun d => if d.ident.protoLevel = 1 then d else takeEntry d e) s
/-- EMU_TALLY messages run at protocol level 1 only (R254). -/
def execEmuTally (e : TallyEntry) (s : State) :=
  onDie (fun d => if d.ident.protoLevel = 1 then takeEntry d e else d) s

end Sys2Proof.Machine
end

