-- ==== Sys2Proof/Machine/Status.lean ====
section
/-! DEFINITION. Lodge copies, berth lookups, STAMP, FAULT, STATUS, QUEUE_ISSUE, and the events that end array operations (R65,
R75, R78, R117 to R119, R124, R126, R133, R154 to R158, R160). -/

namespace Sys2Proof.Machine

/-! ### Lodge streams and copies (R154, R155) -/

/-- LDGRD STREAM: the stream pointer set; a misaligned offset raises STORE_ALIGN. -/
def bodyStream (c : CoreId) (t : Bool) (d : Die) (e : QEntry) : Die :=
  let o := opnd e (fld e.word 44 6)
  if o.toNat % 64 ≠ 0 then entryFault d c t e cfStoreAlign 0
  else seqStep c t (fun th => { th with streamPtr := o.setWidth 32 }) d

/-- The operand rules of a copy: slice offset, store offset, count. -/
def copyFault (slice store n : Nat) : Option Nat :=
  if slice % 64 ≠ 0 || store % 64 ≠ 0 || n % 64 ≠ 0 then some cfStoreAlign
  else if sliceSize < n || sliceSize < slice + n then some cfLodgeRange
  else if storeSize < store + n then some cfStoreRange
  else none

def addLdgWork (x : Core) (t : Bool) (w : LdgWork) : Core :=
  let th := getThread x t
  setThread x t { th with ldgWork := th.ldgWork ++ [w] }

/-- LDGRD COPY. -/
def issueCopy : IssueFn := fun d c t e =>
  let x := getCore d c
  let a := (opnd e (fld e.word 44 6)).toNat
  let b := (opnd e (fld e.word 38 6)).toNat
  let n := (opnd e (fld e.word 32 6)).toNat
  if n = 0 then some d
  else match copyFault a b n with
    | some f => faulted d c t e f 0
    | none =>
      if lodgeHeld x t e a n false then held
      else match ueIn d c a n with
        | some key => lodgeUeFault (senseRows srcPorter c a n d) c t e key
        | none =>
          let due := porterFrom true x (streamEnd x d.aclk) + 12 + n / 64
          some (putStore (senseRows srcPorter c a n (setCore d c (addLdgWork x t ⟨false, a, n, due⟩))) c b (memRead d.mem (sliceBase c + a) n))

/-- LDGWR. -/
def issueLdgwr : IssueFn := fun d c t e =>
  let x := getCore d c
  let a := (opnd e (fld e.word 44 6)).toNat
  let b := (opnd e (fld e.word 38 6)).toNat
  let n := (opnd e (fld e.word 32 6)).toNat
  if n = 0 then some d
  else match copyFault b a n with
    | some f => faulted d c t e f 0
    | none =>
      if lodgeHeld x t e b n true then held
      else
        let due := porterFrom false x (streamEnd x d.aclk) + 12 + n / 64
        some (putSlice srcPorter (setCore d c (addLdgWork x t ⟨true, b, n, due⟩)) c b (memRead d.mem (storeBase c + a) n))

/-- LODGE_COPY_DONE (R154): the oldest run ends. -/
def effLodgeCopyDone (c : CoreId) (t : Bool) (d : Die) : Die :=
  match (getThread (getCore d c) t).ldgWork with
  | [] => d
  | w :: rest => modThread (waitUntil d w.due) c t (fun th => { th with ldgWork := rest })

/-! ### Berths (R156) -/

def handleOf (e : QEntry) : BitVec 48 := (opnd e (fld e.word 44 6)).setWidth 48

/-- A LOOKUP's answer on a hit: the entry as the unit has it, or NONE and FREE, written 8 ACLK and 6 for each hop after issue. -/
def answerLookup (d : Die) (c : CoreId) (t : Bool) (rd : BitVec 6) (a : Option Nat) : Die :=
  let v := match a with | some a => lookupWord d c (entryNow d a (freeVal d 0)) | none => lookupNone
  modThread (drew d) c t (fun th => { th with answers := th.answers ++ [(d.aclk + 8 + 6 * unitHops (quarterOf c) c, rd, v)] })

def issueLookup : IssueFn := fun d c t e =>
  let rd := BitVec.ofNat 6 (fld e.word 38 6)
  some (unitLookup d c t e.pc (handleOf e) (.lookup rd) (fun d a => answerLookup d c t rd a))

def issueTouch : IssueFn := fun d c t e =>
  some (unitLookup d c t e.pc (handleOf e) .touch (fun d a => match a with
    | some a => touchEntry d (quarterOf c) a
    | none => d))

/-! ### STAMP (R158) -/

/-- Bytes that instructions before place `seq` produced and that no destination has acknowledged: in a buffer an outbound
waybill has yet to take, or in a tile whose writes are under way. -/
def unsentBefore (x : Core) (t : Bool) (seq : Nat) : Bool :=
  let mine (src : Nat) : Bool := src != 0 && decide (src ≤ seq)
  (List.range 8).any (fun n => let r := getRing x n
    inThreadSet x t n && ringCons r == 1 &&
      (List.range 4).any (fun b => (bufState r b == 1 || bufState r b == 2) && mine (getInfo r b).src)) ||
  (List.range 8).any (fun n => let w := getWb x n
    inThreadSet x t n && (wbSt w == 3 || wbSt w == 4) && w.outTiles.any (fun o => o.left != 0 && mine o.src))

def issueStamp : IssueFn := fun d c t e =>
  let x := getCore d c
  let th := getThread x t
  let tile := if bitB e.word 53 then (opnd e (fld e.word 44 6)).toNat else fld e.word 0 32
  if th.readsIn < e.mark || unsentBefore x t e.seq then held
  else some (postStamp (setCore d c (setThread x t { th with stampsHeld := th.stampsHeld - 1 })) c t e.pc tile)

/-- STAMP_POST (R158): the STAMP at the head of the MSG queue takes effect once its conditions hold. -/
def effStampPost (c : CoreId) (t : Bool) (d : Die) : Die :=
  match (getThread (getCore d c) t).msg with
  | e :: _ => if fld e.word 58 6 = 0x3D then issueHead issueStamp c t .msg d else d
  | [] => d

/-! ### FAULT and STATUS (R157, R160) -/

def bodyFault (c : CoreId) (t : Bool) (d : Die) (e : QEntry) : Die := entryFault d c t e cfUserFault (fld e.word 0 32)

/-- ARR_STATUS (R65). -/
def arrStatus (x : Core) : BitVec 32 :=
  let w := match x.repair with | some r => putFld (putFld 0#32 31 1 1) 26 5 r.toNat | none => 0
  putFld (putFld (putFld (putFld (putFld (putFld w 23 1 (b2n x.split)) 22 1 (b2n (x.split && x.lodgeHalf)))
    21 1 (b2n (halfBusy x .h1))) 20 1 (b2n (halfBusy x .h0))) 19 1 (b2n x.cold1)) 18 1 (b2n x.cold0)

/-- The sources of STATUS; none for a reserved SEL. -/
def statusSource (d : Die) (c : CoreId) (t : Bool) (sel : Nat) : Option (BitVec 64) :=
  let x := getCore d c
  let th := getThread x t
  if sel = 0 then some ((arrStatus x).setWidth 64)
  else if sel = 1 then some (x.res0.setWidth 64)
  else if sel = 2 then some (x.res1.setWidth 64)
  else if sel = 3 then some (x.accCfg.setWidth 64)
  else if 0x10 ≤ sel ∧ sel < 0x30 then some ((tabGet 0 x.tsw (sel - 0x10)).setWidth 64)
  else if sel = 0x30 then some (x.tswLast0.setWidth 64)
  else if sel = 0x31 then some (x.tswLast1.setWidth 64)
  else if sel = 0x40 then some th.vstat
  else if sel = 0x41 then some (th.streamPtr.setWidth 64)
  else if sel = 0x42 then some (BitVec.ofNat 64 (d.aclk - x.cyclesBase))
  else if sel = 0x43 then some (BitVec.ofNat 64 (c.toNat + 512 * d.ident.dieNum.toNat))
  else if sel = 0x44 then some (BitVec.ofNat 64 (match th.loops with | [] => 0 | f :: _ => f.left))
  else none

def bodyStatus (c : CoreId) (t : Bool) (d : Die) (e : QEntry) : Die :=
  let sel := fld e.word 32 12
  match statusSource d c t sel with
  | none => entryFault d c t e cfIllegalOpcode 0
  | some v => seqStep c t (fun th =>
      let th1 := setThreadReg th (fld e.word 44 6) v
      if sel = 0x40 && bitB e.word 31 then { th1 with vstat := 0 } else th1) d

/-! ### QUEUE_ISSUE (R133, R138) -/

/-- The unit's rule for the entry at a queue's head, by its opcode. -/
def issueAny : IssueFn := fun d c t e =>
  match fld e.word 58 6 with
  | 0x10 => issueWbl d c t e
  | 0x11 => issueWbgo d c t e
  | 0x13 => issueWbnext d c t e
  | 0x14 => issueCaravan d c t e
  | 0x15 => issueRelay d c t e
  | 0x20 => pacedMma d c t e
  | 0x21 => pacedResload d c t e
  | 0x22 => pacedPreload d c t e
  | 0x23 => issueDrain d c t e
  | 0x24 => issueSwap d c t e
  | 0x25 => issueAclr d c t e
  | 0x28 => issueReduce d c t e
  | 0x29 => issueChainred d c t e
  | 0x2A => pacedMerge d c t e
  | 0x30 => pacedVop d c t e
  | 0x31 => pacedVcvt d c t e
  | 0x32 => pacedVfn d c t e
  | 0x33 => pacedVred d c t e
  | 0x34 => pacedVperm d c t e
  | 0x38 => issueCopy d c t e
  | 0x39 => issueLdgwr d c t e
  | 0x3A => if fld e.word 52 2 = 0 then issueLookup d c t e else issueTouch d c t e
  | 0x3C => issueTally d c t e
  | _ => issueStamp d c t e

/-- A word the sequencer itself rejects: an unknown opcode, or a reserved OP of BERTH or TALLY (R138, R156, R157). -/
def wordReserved (w : BitVec 64) : Bool :=
  let op := fld w 58 6
  !opcodeKnown op || (op == 0x3A && decide (2 ≤ fld w 52 2)) || (op == 0x3C && decide (5 ≤ fld w 51 3))

/-- A word can be fetched now: the thread runs and waits for nothing, and program memory holds a good word at its pc. -/
def fetches (x : Core) (th : Thread) : Bool := canDispatch th && decide (th.pc ≤ 4095) && !x.pmemBad.contains th.pc

/-- The sequencer's rejection of the word at the thread's pc (R138, R160): an unknown opcode whatever the guard (R132). -/
def rejectWord (c : CoreId) (t : Bool) (d : Die) : Die :=
  let x := getCore d c
  let th := getThread x t
  let w := tabGet 0 x.pmem th.pc
  let op := fld w 58 6
  if !wordReserved w then d
  else if !opcodeKnown op && fetches x th then raiseFault d c (some t) cfIllegalOpcode 0 th.pc
  else dispatch c t op (w.setWidth 58) (fun d e => entryFault d c t e cfIllegalOpcode 0) d

/-- QUEUE_ISSUE: the head of a queue issues when no hold stands. -/
def effQueueIssue (c : CoreId) (t : Bool) (q : QueueId) (d : Die) : Die :=
  let th := getThread (getCore d c) t
  if q = .sequencer then rejectWord c t d
  else if th.run = .faulted ∨ th.run = .stopped then d
  else issueHead issueAny c t q d

/-! ### The end of array operations -/

/-- The n-th operation in flight leaves. -/
def dropOp (x : Core) (n : Nat) : Core := settleIdle { x with ops := x.ops.eraseIdx n }

/-- SLOT_COMPLETE (R75, R129): an MMA's last addition, its checksum cells included; also the end of a RESLOAD or PRELOAD. -/
def effSlotComplete (c : CoreId) (n : Nat) (d : Die) : Die :=
  match (getCore d c).ops[n]? with
  | none => d
  | some o => if isRead o then d else modCore (waitUntil d o.due) c (fun x => dropOp x n)

def putOp (x : Core) (n : Nat) (o : ArrOp) : Core := { x with ops := x.ops.set n o }

/-- The verdict's event (R124, R125). -/
def abftEvent (v : Verdict) : FlagEvent := ⟨3, v.row.toNat, v.col.toNat, 0xFFFF, v.rowChk, v.colChk⟩

/-- Cycle of the verdict (R117): D + 35, or D + 66 for a chain. -/
def verdictAt (o : ArrOp) : Nat := o.start + (if o.kind = .chain then 66 else 35)

/-- The n-th operation's verdict is made. -/
def verdictIn (x : Core) (n : Nat) : Core :=
  match x.ops[n]? with
  | some o => putOp x n { o with verdictMade := true }
  | none => x

/-- SLOT_READ_VERDICT (R117, R118): a failed check sets ABFT in the copy, and in the register's word unless it has been
cleared, and raises ABFT_MISMATCH. -/
def effVerdict (c : CoreId) (n : Nat) (d : Die) : Die :=
  match (getCore d c).ops[n]? with
  | none => d
  | some o =>
    if !isRead o || o.verdictMade then d
    else
      let d1 := waitUntil d (verdictAt o)
      let x1 := verdictIn (getCore d1 c) n
      if !o.verdict.failed then setCore d1 c x1
      else raiseFault (setCore d1 c (eventComes x1 n (verdictAt o) (abftEvent o.verdict))) c (some o.thread) cfAbftMismatch 0 o.pc

/-- Marks the tiles that a read produced as clean: in its ring, and in tiles already being written (R175). -/
def markClean (x : Core) (t : Bool) (ring : Option (BitVec 3)) (src : Nat) : Core :=
  match ring with
  | none => x
  | some rg =>
    let n := rg.toNat
    let r := getRing x n
    let r1 := (List.range 4).foldl (fun r b => let i := getInfo r b
      if i.src = src && bufState r b ≠ 0 then putInfo r b { i with clean := true } else r) r
    (List.range 8).foldl (fun y k => let w := getWb y k
      if wbRing w = n && wbOut w && inThreadSet x t k then
        putWb y k { w with outTiles := w.outTiles.map (fun o => if o.src = src then { o with clean := true } else o) }
      else y) (putRing x n r1)

/-- Waybill stamps that waited for a read's status word are posted (R175). -/
def releaseStamps (d : Die) (c : CoreId) (t : Bool) (src : Nat) : Die :=
  let go := (getCore d c).stampWait.filter (fun p => p.1 == t && p.2.2.2 == src)
  let d1 := modCore d c (fun x => { x with stampWait := x.stampWait.filter (fun p => !(p.1 == t && p.2.2.2 == src)) })
  go.foldl (fun e p => postStamp e c t p.2.1 p.2.2.1) d1

/-- A chain's slot read whose member still waits for incoming flits has not written its last result (R117). -/
def chainWaits (x : Core) (o : ArrOp) : Bool :=
  o.kind == .chain && x.members.any (fun m => m.thread == o.thread && m.pending.any (fun e => e.seq == o.seq))

/-- STATUS_WORD_DELIVERY (R117, R126): the five flags join the itinerary's summary, the copy goes to ARR_TSW_LAST, the read
ends; a clean one counts for STAMPs and its tile may be stamped. -/
def effDelivery (c : CoreId) (n : Nat) (d : Die) : Die :=
  match (getCore d c).ops[n]? with
  | none => d
  | some o0 =>
    if !isRead o0 || !o0.verdictMade || chainWaits (getCore d c) o0 then d
    else
      let d1 := waitUntil d o0.due
      let o := ((getCore d1 c).ops[n]?).getD o0
      let x := dropOp (getCore d1 c) n
      let x1 := { x with tswLast0 := if o.half = .h1 then x.tswLast0 else o.copy,
                         tswLast1 := if o.half = .h0 then x.tswLast1 else o.copy }
      let th := getThread x1 o.thread
      let clean := !bitB o.copy 30
      let x2 := if clean then markClean (setThread x1 o.thread { th with readsIn := th.readsIn + 1 }) o.thread o.ring (o.seq + 1) else x1
      let d2 := setCore d1 c x2
      let d3 := match th.itin with
        | some id => modItin d2 id (orFlags (BitVec.ofNat 5 (fld o.copy 26 5)))
        | none => d2
      if clean then releaseStamps d3 c o.thread (o.seq + 1) else d3

/-- ARRAY_COLD (R78): after 256 idle ACLK a half is cold; a half with an MMA or RESLOAD in flight is not idle. -/
def effArrayCold (c : CoreId) (h : Bool) (d : Die) : Die :=
  let x := getCore d c
  if x.ops.any (fun o => feedOp o && overlaps o.half (if h then .h1 else .h0)) then d
  else waitUntil d (lastAct x h + 257)

/-! ### Words whose rows share an opcode -/

/-- An LDGRD word: its FORM bit chooses the stream or the copy (R154). -/
def effLdgrd (c : CoreId) (t : Bool) (w : BitVec 58) : Die → Die :=
  if ldgrdForm true w then dispatch c t 0x38 w (enqueue .ldg c t id issueCopy) else dispatch c t 0x38 w (bodyStream c t)

/-- A BERTH word: its OP chooses LOOKUP or TOUCH; a reserved OP raises ILLEGAL_OPCODE (R156). -/
def effBerth (c : CoreId) (t : Bool) (w : BitVec 58) : Die → Die :=
  if berthForm 0 w then dispatch c t 0x3A w (enqueue .msg c t (owe (w.toNat / 2 ^ 38 % 64) .berth) issueLookup)
  else if berthForm 1 w then dispatch c t 0x3A w (enqueue .msg c t id issueTouch)
  else dispatch c t 0x3A w (fun d e => entryFault d c t e cfIllegalOpcode 0)

/-! ### The commands -/

def execLdgrdStream (c : CoreId) (t : Bool) (w : BitVec 58) (s : State) :=
  onDie (effLdgrd c t w) s
def execLdgrdCopy (c : CoreId) (t : Bool) (w : BitVec 58) (s : State) := onDie (effLdgrd c t w) s
def execLdgwr (c : CoreId) (t : Bool) (w : BitVec 58) (s : State) := onDie (dispatch c t 0x39 w (enqueue .ldg c t id issueLdgwr)) s
def execBerthLookup (c : CoreId) (t : Bool) (w : BitVec 58) (s : State) :=
  onDie (effBerth c t w) s
def execBerthTouch (c : CoreId) (t : Bool) (w : BitVec 58) (s : State) := onDie (effBerth c t w) s
def execStamp (c : CoreId) (t : Bool) (w : BitVec 58) (s : State) :=
  onDie (dispatch c t 0x3D w (enqueue .msg c t (fun th => { th with stampsHeld := th.stampsHeld + 1 }) issueStamp)) s
def execStampPost (c : CoreId) (t : Bool) (s : State) := onDie (effStampPost c t) s
def execFault (c : CoreId) (t : Bool) (w : BitVec 58) (s : State) := onDie (dispatch c t 0x3E w (bodyFault c t)) s
def execStatus (c : CoreId) (t : Bool) (w : BitVec 58) (s : State) := onDie (dispatch c t 0x3F w (bodyStatus c t)) s
def execQueueIssue (c : CoreId) (t : Bool) (q : QueueId) (s : State) := onDie (effQueueIssue c t q) s
def execArrayCold (c : CoreId) (h : Bool) (s : State) := onDie (effArrayCold c h) s
def execSlotComplete (c : CoreId) (n : Nat) (s : State) := onDie (effSlotComplete c n) s
def execSlotReadVerdict (c : CoreId) (n : Nat) (s : State) := onDie (effVerdict c n) s
def execStatusWordDelivery (c : CoreId) (n : Nat) (s : State) := onDie (effDelivery c n) s
def execLodgeCopyDone (c : CoreId) (t : Bool) (s : State) := onDie (effLodgeCopyDone c t) s

end Sys2Proof.Machine
end

