-- ==== Sys2Proof/Machine/StewOps.lean ====
section
/-! DEFINITION. The Steward's messages: fields of a request, the checks of R266, order (R293), responses, pigeonholes and events
(R258 to R270). -/

namespace Sys2Proof.Machine

/-! ### Fields of a message (R265) -/

def msgLE (m : Msg) (o n : Nat) : Nat := leNat ((m.bytes.drop o).take n)
def msgByte (m : Msg) (o : Nat) : Nat := (m.bytes.getD o 0).toNat
def msgOp (m : Msg) : Nat := msgLE m 0 2
def msgSeq (m : Msg) : Nat := msgLE m 2 2
def msgLen (m : Msg) : Nat := msgByte m 4
def msgPoll (m : Msg) : Bool := msgByte m 5 / 2 % 2 == 1
def msgCtx (m : Msg) : Nat := msgLE m 8 4

/-- Foreign pair of a request or response. -/
def msgPair (m : Msg) : Nat := m.ph.toNat % 4

/-! ### Status codes (R267) -/

def stOk : Nat := 0x0000
def stAccepted : Nat := 0x0001
def stAlreadyComplete : Nat := 0x0002
def stAborted : Nat := 0x0003
def stBadOpcode : Nat := 0x0010
def stBadLength : Nat := 0x0011
def stBadField : Nat := 0x0012
def stDenied : Nat := 0x0013
def stBadContext : Nat := 0x0014
def stBusy : Nat := 0x0015
def stLimit : Nat := 0x0016
def stProtocol : Nat := 0x0017
def stMemError : Nat := 0x0018
def stBadDescriptor : Nat := 0x0020
def stNoCores : Nat := 0x0021
def stBadParty : Nat := 0x0022
def stNoItinerary : Nat := 0x0023
def stTallyBusy : Nat := 0x0024
def stRestoreFailed : Nat := 0x0025
def stNoSpace : Nat := 0x0030
def stTierUnavailable : Nat := 0x0031
def stMoveFailed : Nat := 0x0032
def stBerthLost : Nat := 0x0033
def stBerthState : Nat := 0x0034
def stCalCrc : Nat := 0x0040
def stFwVerify : Nat := 0x0041
def stFwRollback : Nat := 0x0042
def stFuseLimit : Nat := 0x0043
def stKeyholderDenied : Nat := 0x0044

/-! ### Opcodes -/

def opHello : Nat := 0x0001
def opOpenContext : Nat := 0x0010
def opCloseContext : Nat := 0x0011
def opSaveContext : Nat := 0x0012
def opRestoreContext : Nat := 0x0013
def opFormParty : Nat := 0x0020
def opDisbandParty : Nat := 0x0021
def opLoadProgram : Nat := 0x0030
def opSubmit : Nat := 0x0040
def opAbort : Nat := 0x0041
def opQueryProgress : Nat := 0x0042
def opBerthAlloc : Nat := 0x0050
def opBerthFree : Nat := 0x0051
def opBerthMove : Nat := 0x0052
def opLedgerQuery : Nat := 0x0053
def opSetPhaseOp : Nat := 0x0060
def opPowerStatus : Nat := 0x0061
def opTally : Nat := 0x0070
def opCalRead : Nat := 0x0080
def opCalWrite : Nat := 0x0081
def opFwStage : Nat := 0x0090
def opFwCommit : Nat := 0x0091
def opAttest : Nat := 0x00A0
def opFuseProgram : Nat := 0x00B0
def opDiag : Nat := 0x00F0

/-- Opcodes with a meaning; those of R263 belong to the runtimes. -/
def opKnown (op : Nat) : Bool :=
  [opHello, opOpenContext, opCloseContext, opSaveContext, opRestoreContext, opFormParty, opDisbandParty, opLoadProgram, opSubmit,
   opAbort, opQueryProgress, opBerthAlloc, opBerthFree, opBerthMove, opLedgerQuery, opSetPhaseOp, opPowerStatus, opTally,
   opCalRead, opCalWrite, opFwStage, opFwCommit, opAttest, opFuseProgram, opDiag].contains op || (0x0100 ≤ op && op ≤ 0x01FF)

def ledgerOp (op : Nat) : Bool :=
  [opOpenContext, opCloseContext, opBerthAlloc, opBerthFree, opBerthMove, opLedgerQuery].contains op

/-! ### Pigeonholes (R258 to R262, R268, R270) -/

def owns (d : Die) (n : Nat) : Bool := d.stew.own.getLsbD n

def setOwn (d : Die) (n : Nat) (v : Bool) : Die := { d with stew := { d.stew with own := putFld d.stew.own n 1 (b2n v) } }

/-- The two pigeonholes that would carry the die's own messages (R258). -/
def unusedPh (d : Die) (n : Nat) : Bool := n == 48 + 2 * d.ident.dieNum.toNat || n == 49 + 2 * d.ident.dieNum.toNat

def responsePh (n : Nat) : Bool := (32 ≤ n && n < 48) || (60 ≤ n && n < 64)

/-- The message that tells the hub of a released response pigeonhole; its SRCID names the die (R262, R307). -/
def phFlit (n : Nat) : Out := .msgFlit 0x0001 (BitVec.ofNat 64 n)

/-- A pigeonhole released; a flit follows a response pigeonhole unless the request asked for none. -/
def releasePh (n : Nat) (quiet : Bool) (d : Die) : Die :=
  let d1 := setOwn d n false
  if responsePh n && !quiet then emitCtrl d1 (phFlit n) else d1

def writePh (d : Die) (n : Nat) (l : List Byte) : Die := { d with mem := memWrite d.mem (pigeonBase n) l }

/-- The lowest held response pigeonhole of a destination: 0 the host, i + 1 foreign pair i. -/
def heldPh (d : Die) (dst : Nat) : Option Nat :=
  if dst = 0 then ((List.range 16).map (· + 32)).find? (owns d)
  else [59 + dst].find? (owns d)

/-- Where a response goes. -/
def respDst (m : Msg) : Nat := match m.src with | .foreign => 1 + msgPair m | _ => 0

/-- A window covers the pigeonholes of foreign pair i (R16, R264, R396). -/
def foreignOpen (d : Die) (i : Nat) : Bool :=
  (List.range 8).any (fun n => let w := tabGet Window.reset d.trust.windows n
    w.open_ && !w.closing && w.pairs.getLsbD i)

/-! ### Responses (R266, R268) -/

/-- A response: the request's OPCODE with bit 15, its SEQ, the given CONTEXT. -/
def respBytes (m : Msg) (status detail ctx : Nat) (payload : List Byte) : List Byte :=
  leBytes 2 (msgOp m % 0x8000 + 0x8000) ++ leBytes 2 (msgSeq m) ++ [BitVec.ofNat 8 payload.length, 0] ++ leBytes 2 status ++
  leBytes 4 ctx ++ leBytes 4 detail ++ payload

/-- A peer's reply, as against its message: the odd pigeonhole of the pair (R258, R263). -/
def peerReply (m : Msg) : Bool := match m.src with
  | .peer _ => m.ph.toNat % 2 == 1
  | _ => false

/-- A response queued for its pigeonhole; a peer's request is answered by a reply through the hub, which frees the pair (R263). -/
def respond (d : Die) (m : Msg) (status detail ctx : Nat) (payload : List Byte) : Die :=
  match m.src with
  | .peer p => setOwn (send d (.peer p (if status = stProtocol then .protocol else .reply))) m.ph.toNat false
  | _ => { d with stew := { d.stew with responses := d.stew.responses ++
      [{ m with bytes := respBytes m status detail ctx payload, poll := msgPoll m }] } }

/-! ### Order (R293) -/

def sameSource (a b : Msg) : Bool := a.src == b.src && (match a.src with | .foreign => a.ph == b.ph | _ => true)

/-- The sequence a request belongs to; none for those outside every sequence. -/
def seqKey (m : Msg) : Option Nat :=
  if msgOp m = opAbort || msgOp m = opQueryProgress || msgOp m = opPowerStatus || (msgOp m = opDiag && msgLE m 0x10 2 == 0) then none
  else some (msgCtx m)

/-- A request may be carried out: no earlier one of its sequence waits. -/
def inTurn (d : Die) (n : Nat) (m : Msg) : Bool :=
  (seqKey m).isNone || !(d.stew.requests.take n).any (fun y => sameSource y m && seqKey y == seqKey m)

def dropReqAt (d : Die) (n : Nat) : Die := { d with stew := { d.stew with requests := d.stew.requests.eraseIdx n } }

/-- A request that no message row carries out: its OPCODE is unknown, or belongs to the runtimes of peers and comes from elsewhere. -/
def unserved (m : Msg) : Bool :=
  !peerReply m && (!opKnown (msgOp m) || (0x0100 ≤ msgOp m && (match m.src with | .peer _ => false | _ => true)))

/-- Such requests are answered as their turn comes: BAD_OPCODE, or DENIED (R266, R292). -/
def answerUnknown : Nat → Die → Die
  | 0, d => d
  | k + 1, d =>
    match (List.range d.stew.requests.length).find? (fun n => match d.stew.requests[n]? with
        | some m => unserved m && inTurn d n m
        | none => false) with
    | none => d
    | some n => match d.stew.requests[n]? with
      | some m => answerUnknown k (respond (dropReqAt d n) m (if opKnown (msgOp m) then stDenied else stBadOpcode) 0 (msgCtx m) [])
      | none => d

/-- The Steward answers from READY on (R295). -/
def stewardUp (d : Die) : Bool := d.ident.countValid && d.boot.step == 11

/-- The request at place n answered, with a CONTEXT of the response. -/
def answerAs (d : Die) (n : Nat) (m : Msg) (status detail ctx : Nat) (payload : List Byte) : Die :=
  let d1 := respond (dropReqAt d n) m status detail ctx payload
  answerUnknown d1.stew.requests.length d1

/-- The request at place n answered. -/
def answer (d : Die) (n : Nat) (m : Msg) (status detail : Nat) (payload : List Byte) : Die :=
  answerAs d n m status detail (msgCtx m) payload

/-! ### The checks of R266 -/

/-- Whether a foreign request's context was opened with the pair's DELEG bit (R264). -/
def delegated (d : Die) (m : Msg) : Bool :=
  d.stew.opened.any (fun p => p.1.toNat == msgCtx m && p.2.getLsbD (msgPair m))

/-- R292: who may send an opcode. -/
def opAllowed (d : Die) (m : Msg) : Bool :=
  let op := msgOp m
  match m.src with
  | .host => op < 0x100
  | .peer _ => 0x100 ≤ op && op ≤ 0x1FF
  | .hub => false
  | .foreign =>
    if op = opHello then msgLE m 0x18 0x24 == 0
    else [opSubmit, opAbort, opQueryProgress, opBerthAlloc, opBerthFree, opLedgerQuery].contains op && delegated d m

/-- How an opcode uses the header's CONTEXT. -/
inductive CtxUse where
  | none      -- takes none: must be 0
  | berths    -- names the context acted on
  | optional  -- 0, or a live context
deriving DecidableEq, Repr

/-- A context that is not stale (R207). -/
def ctxLive (d : Die) (ctx : Nat) : Bool := decide (ctx < 2 ^ 24) && (liveCtx d ctx).isSome

def ctxOk (d : Die) (u : CtxUse) (ctx : Nat) : Bool := match u with
  | .none => ctx == 0
  | .berths => ctxLive d ctx || (!dirEn d && ctx == 0)
  | .optional => ctx == 0 || ctxLive d ctx

/-- The first reserved byte that is not 0, or reserved code: pairs of a pigeonhole offset and whether that byte is bad, only
bytes within LEN counting. -/
def firstBad (m : Msg) (bad : List (Nat × Bool)) : Option Nat :=
  let hits := (((5, decide (4 ≤ msgByte m 5)) :: bad).filter (fun p => p.2 && decide (p.1 < 0x10 + msgLen m))).map (·.1)
  match hits with
  | [] => none
  | o :: rest => some (rest.foldl Nat.min o)

/-- Reserved bytes from `o` on. -/
def zeros (m : Msg) (o n : Nat) : List (Nat × Bool) := (List.range n).map (fun i => (o + i, msgByte m (o + i) != 0))

/-- A request with only the bytes within LEN (R265). -/
def clip (m : Msg) : Msg := { m with bytes := m.bytes.take (0x10 + msgLen m) }

/-- The checks of R266 up to CONTEXT: the status and DETAIL of the first that fails. -/
def checkReq (d : Die) (m : Msg) (minLen : Nat) (bad : List (Nat × Bool)) (u : CtxUse) : Option (Nat × Nat) :=
  if !opAllowed d m then some (stDenied, 0)
  else if msgLen m < minLen then some (stBadLength, minLen)
  else if 240 < msgLen m then some (stBadLength, 240)
  else match firstBad m bad with
    | some o => some (stBadField, o)
    | none => if ctxOk d u (msgCtx m) then none else some (stBadContext, 0)

/-! ### Package addresses (R10) -/

/-- Package memory's installed capacity (R10): that of an integrator package, which the spec leaves to the integrator, is 768 GiB
(DESIGN CHOICE, log entry 30). -/
def pkgTop (d : Die) : Nat := if d.ident.pkgType = 1 then 0x6000000000 else 0xC000000000

/-- An address of the die's own window (R11: the windows are 256 GiB each, the first the sixty-fourth such block of the address
space), as an offset. -/
def ownOffset (d : Die) (a : Nat) : Option Nat :=
  if a / 0x4000000000 = 64 + d.ident.dieNum.toNat then some (a % 0x4000000000) else none

/-! ### Events (R269, R270) -/

/-- The PH_EVT_PENDING field of an event's class; none for READY and PENDING. -/
def evtShift (kind : Nat) : Option Nat := match kind with
  | 0x0000 => some 0
  | 0x0010 => some 8
  | 0x0011 => some 8
  | 0x0012 => some 16
  | 0x0013 => some 16
  | 0x0016 => some 16
  | 0x0014 => some 24
  | 0x0015 => some 24
  | 0x0020 => some 32
  | 0x0021 => some 40
  | 0x0030 => some 48
  | 0x0031 => some 48
  | _ => none

def evtBytes (e : Event) : List Byte :=
  leBytes 2 (if e.kind = 0 then 0x8040 else 0x80FF) ++ leBytes 2 e.seq.toNat ++ [BitVec.ofNat 8 (4 + e.bytes.length), 1] ++
  leBytes 2 0 ++ leBytes 4 e.context.toNat ++ leBytes 4 0 ++ leBytes 2 e.kind.toNat ++ leBytes 2 0 ++ e.bytes

def putEvent (d : Die) (n : Nat) (e : Event) : Die := releasePh n false (writePh d n (evtBytes e))

/-- Responses waiting for a destination's pigeonhole. -/
def responseWaits (d : Die) (dst : Nat) : Bool := d.stew.responses.any (fun m => respDst m == dst)

/-- An event for which no pigeonhole is free: its class count rises. -/
def coalesce (d : Die) (e : Event) : Die := match evtShift e.kind.toNat with
  | none => d
  | some s =>
    let v := putFld d.stew.evtPending s 8 (min 0xFF (fld d.stew.evtPending s 8 + 1))
    { d with stew := { d.stew with evtPending := v } }

/-- An event goes into a held pigeonhole when no response waits for one; else its class count rises. -/
def postNow (d : Die) (e : Event) : Die :=
  match heldPh d e.dst.toNat with
  | some n => if responseWaits d e.dst.toNat then coalesce d e else putEvent d n e
  | none => coalesce d e

/-- The PENDING event once a response pigeonhole is free, no response waits and the register is not 0. -/
def postPending (d : Die) : Die :=
  match heldPh d 0 with
  | none => d
  | some n =>
    if responseWaits d 0 || d.stew.evtPending = 0 then d
    else putEvent { d with stew := { d.stew with evtPending := 0 } } n ⟨0x0040, 0, 0, 0, leBytes 8 d.stew.evtPending.toNat⟩

end Sys2Proof.Machine
end

