-- ==== Sys2Proof/Machine/CalOps.lean ====
section
/-! DEFINITION. Checksums (R218, R301, R362), and the calibration record and firmware slots in the package configuration flash
(R369 to R374, R388). The flash lies in hub space at addresses the Jorvy documentation assigns; the model keeps the die's part of
it apart, at places of its own (assumption log). -/

namespace Sys2Proof.Machine

/-! ### Cyclic checks, most significant bit first -/

def crcBits {w : Nat} (poly : BitVec w) : Nat → BitVec w → BitVec w
  | 0, c => c
  | n + 1, c => crcBits poly n (if c.msb then (c <<< 1) ^^^ poly else c <<< 1)

def crcByte {w : Nat} (poly c : BitVec w) (b : Byte) : BitVec w := crcBits poly 8 (c ^^^ (b.setWidth w <<< (w - 8)))

/-- CRC-32 of R301, over bytes. -/
def crc32 (l : List Byte) : BitVec 32 := ~~~(l.foldl (crcByte 0x04C11DB7#32) 0xFFFFFFFF#32)

/-- CRC-64 of R218. -/
def crc64 (l : List Byte) : BitVec 64 := ~~~(l.foldl (crcByte 0x42F0E1EBA9EA3693#64) 0xFFFFFFFFFFFFFFFF#64)

/-- CRC-8 of R362. -/
def crc8 (l : List Byte) : BitVec 8 := l.foldl (crcByte 0x07#8) 0

/-! ### Fuse words (R362) -/

def fuseWord (d : Die) (n : Nat) : BitVec 64 := tabGet 0 d.fuse.otp n
def fuseWritten (w : BitVec 64) : Bool := bitB w 63
def fuseComplete (w : BitVec 64) : Bool := bitB w 62
def fuseCheck (n : Nat) (v : BitVec 64) : BitVec 8 := crc8 (leBytes 6 (fld v 0 48) ++ leBytes 2 n)
def fuseGood (n : Nat) (w : BitVec 64) : Bool := fuseWritten w && fuseComplete w && fuseCheck n w == w.extractLsb' 48 8
def fuseBad (n : Nat) (w : BitVec 64) : Bool := fuseWritten w && fuseComplete w && !fuseGood n w
def fuseIncomplete (w : BitVec 64) : Bool := fuseWritten w && !fuseComplete w

/-- DATA of a good word; 0 of any other. -/
def fuseData (d : Die) (n : Nat) : Nat := if fuseGood n (fuseWord d n) then fld (fuseWord d n) 0 48 else 0

/-- A word as it reads once programmed whole. -/
def fuseFull (n : Nat) (v : BitVec 64) : BitVec 64 :=
  putFld (putFld (putFld (putFld 0#64 0 48 (fld v 0 48)) 48 8 (fuseCheck n v).toNat) 62 1 1) 63 1 1

def dieSerial (d : Die) : Nat := fuseData d 0

/-! ### The calibration record (R369, R370) -/

/-- A section's offset and greatest length. -/
def secOff (s : Nat) : Nat := match s with | 0 => 0x0100 | 1 => 0x0300 | 2 => 0x8000 | 3 => 0x0800 | _ => 0x0400
def secMax (s : Nat) : Nat := match s with | 0 => 512 | 1 => 256 | 2 => 32768 | 3 => 24576 | _ => 64

def calLE (d : Die) (o n : Nat) : Nat := memLE d.flash o n
def secLen (d : Die) (s : Nat) : Nat := calLE d (0x10 + 16 * s) 4
def secCrc (d : Die) (s : Nat) : Nat := calLE d (0x14 + 16 * s) 4
def secBytes (d : Die) (s : Nat) : List Byte := memRead d.flash (secOff s) (secLen d s)

/-- Signed 8-bit or 16-bit value read from a section. -/
def secInt (d : Die) (s o n : Nat) : Int := sext (8 * n) (calLE d (secOff s + o) n)

/-- Values within their stated ranges. -/
def secRanges (d : Die) (s : Nat) : Bool := match s with
  | 1 => (List.range (min 24 (secLen d 1 / 2))).all (fun i => decide (-64 ≤ secInt d 1 (2 * i) 2 ∧ secInt d 1 (2 * i) 2 ≤ 64))
  | 3 => decide (calLE d (secOff 3 + 0x200) 4 ≤ 6015)
  | 4 => (List.range (min 16 (secLen d 4))).all (fun i => decide (-4 ≤ secInt d 4 i 1 ∧ secInt d 4 i 1 ≤ 4))
  | _ => true

def recordOk (d : Die) : Bool := calLE d 0 4 == 0x52434B5A && calLE d 4 2 == 1 && calLE d 8 8 == dieSerial d

/-- The check of a section's length and CRC alone. -/
def secCheck (d : Die) (s : Nat) : Bool :=
  recordOk d && secLen d s != 0 && decide (secLen d s ≤ secMax s) && (crc32 (secBytes d s)).toNat == secCrc d s

def secValid (d : Die) (s : Nat) : Bool := secCheck d s && secRanges d s

/-! ### The link cache and the digest of the joint parameters (R320, R374) -/

def cacheBytes (d : Die) : List Byte := memRead d.link.cache 0 d.link.cacheLen.toNat

/-- The link cache holds a valid HLT section. -/
def cacheValid (d : Die) : Bool :=
  d.link.cacheLen != 0 && decide (d.link.cacheLen.toNat ≤ 32768) && crc32 (cacheBytes d) == d.link.cacheCrc

def cacheLE (d : Die) (o n : Nat) : Nat := memLE d.link.cache o n

/-- The digest of the saved joint parameters. -/
def savedDigest (d : Die) : BitVec 64 :=
  if cacheValid d then
    let v := leNat ((Config.shake256 8 (memRead d.link.cache 0 0x308)).take 8)
    if v = 0 then 1 else BitVec.ofNat 64 v
  else 0

/-- A section replaced whole: its bytes, then its directory entry with WRITES advanced; a write of HLT also replaces the link cache,
with the digest of the parameters it holds (R327, R373, R374). -/
def writeSection (d : Die) (s : Nat) (l : List Byte) (origin : Nat) : Die :=
  let writes := calLE d (0x18 + 16 * s) 4 + 1
  let f1 := memWrite d.flash (secOff s) l
  let f2 := memWrite f1 (0x10 + 16 * s)
    (leBytes 4 l.length ++ leBytes 4 (crc32 l).toNat ++ leBytes 4 writes ++ [BitVec.ofNat 8 origin] ++ leBytes 3 0)
  let d1 := { d with flash := f2 }
  if s = 2 then
    let d2 := { d1 with link := { d1.link with cache := memWrite [] 0 l, cacheLen := BitVec.ofNat 32 l.length, cacheCrc := crc32 l } }
    { d2 with link := { d2.link with digest := savedDigest d2 } }
  else d1

/-- The soft repairs of the LDG section. -/
def ldgEntries (d : Die) : List (BitVec 32) :=
  (List.range (calLE d (secOff 3 + 0x200) 4)).map (fun i => BitVec.ofNat 32 (calLE d (secOff 3 + 0x204 + 4 * i) 4))

/-- A new soft repair appended to the LDG section by the Steward (R202, R373); a section that is invalid or full takes none. -/
def appendLdg (d : Die) (e : BitVec 32) : Die :=
  let n := calLE d (secOff 3 + 0x200) 4
  if secValid d 3 && decide (n < 6015) then
    writeSection d 3 (memRead d.flash (secOff 3) 0x200 ++ leBytes 4 (n + 1) ++ memRead d.flash (secOff 3 + 0x204) (4 * n) ++
      leBytes 4 e.toNat) 1
  else d

/-! ### Firmware slots (R388): the model's places in the flash -/

/-- The selector: byte i names the committed slot of image i. -/
def selectorOff : Nat := 0x10000
def slotOff (image slot : Nat) : Nat := 0x1000000 * (2 * image + slot + 1)
def committedSlot (d : Die) (image : Nat) : Nat := calLE d (selectorOff + image) 1 % 2

end Sys2Proof.Machine
end

