-- ==== Sys2Proof/Machine/Lodge.lean ====
section
/-! DEFINITION. The commands of the Lodge: REFRESH_SLOT, SCRUB_SLOT, SOFT_REPAIR_RETIRE (R193, R200 to R205). -/

namespace Sys2Proof.Machine

/-! ### Logical and physical rows (R190, R199) -/

def rowInBank (bank row : Nat) : Nat := 1024 * bank + row

/-- The logical row that a physical row serves; none for a spare not in use, or cells a repair has left. -/
def logicalRow (l : LodgeSt) (bank phys : Nat) : Option Nat :=
  if phys < 1024 then
    if tabGet 0 l.remap (rowInBank bank phys) = 0 then some phys else none
  else (List.range 1024).find? (fun r => (tabGet 0 l.remap (rowInBank bank r)).toNat == phys - 1023)

/-- Spares of a bank not in use. -/
def freeSpares (l : LodgeSt) (bank : Nat) : Nat :=
  ((List.range 32).filter (fun i => !(tabGet 0 l.sparesUsed bank).getLsbD i)).length

/-- LDG_SLICE_k.MIN_FREE as the tables give it (R204). -/
def minFree (l : LodgeSt) (k : Nat) : Nat := ((List.range 16).map (fun b => freeSpares l (16 * k + b))).foldl Nat.min 32

def settleFree (k : Nat) (d : Die) : Die :=
  let l := d.lodge
  { d with lodge := { l with slice := tabMod 0 l.slice k (fun v => putFld v 16 8 (minFree l k)) } }

/-- A logical row served by a spare from now on. -/
def mapRow (d : Die) (key spare : Nat) : Die :=
  let l := d.lodge
  { d with lodge := { l with remap := tabSet 0 l.remap key (BitVec.ofNat 6 (spare + 1)),
                             sparesUsed := tabMod 0 l.sparesUsed (key / 1024) (fun m => putFld m spare 1 1) } }

/-! ### Slots (R193) -/

/-- Slots run while QCLK runs and, after a loss of content, from fuse sense on (R197). -/
def slotsRun (d : Die) : Bool := d.power.cpllLock && d.lodge.refreshing

def slotIndex (d : Die) (bank : Nat) : Nat := tabGet 0 d.lodge.slotIdx bank

def nextSlot (bank n : Nat) (d : Die) : Die :=
  { d with lodge := { d.lodge with slotIdx := tabMod 0 d.lodge.slotIdx bank (· + n) } }

/-- REFRESH_SLOT: rows p and p + 528 are read and written back; p advances, and a pass ends when it wraps. A slot index that is no
refresh slot, or one before slots run, leaves the bank as it is. -/
def effRefreshSlot (c : CoreId) (bank : BitVec 4) (d : Die) : Die :=
  let b := bankKey c bank.toNat
  if !slotsRun d || slotIndex d b % 5 = 4 then d
  else
    let l := d.lodge
    let p := (tabGet 0 l.refreshRow b).toNat
    let wraps := decide (527 ≤ p)
    let l1 := { l with refreshRow := tabSet 0 l.refreshRow b (if wraps then 0 else BitVec.ofNat 10 (p + 1)),
                       retiredPass := if wraps then l.retiredPass.filter (· != b) else l.retiredPass,
                       passes := if wraps && b == 0 then l.passes + 1 else l.passes }
    nextSlot b 1 { d with lodge := l1 }

/-- SCRUB_SLOT: the next physical row is read and checked; a single-bit error is corrected in place and counted, an uncorrectable
one is logged (R201). -/
def effScrubSlot (c : CoreId) (bank : BitVec 4) (d : Die) : Die :=
  let b := bankKey c bank.toNat
  if !slotsRun d || slotIndex d b % 5 ≠ 4 then d
  else
    let p := (tabGet 0 d.lodge.scrubRow b).toNat
    let d1 := nextSlot b 1 { d with lodge := { d.lodge with
      scrubRow := tabSet 0 d.lodge.scrubRow b (if 1055 ≤ p then 0 else BitVec.ofNat 11 (p + 1)) } }
    match logicalRow d.lodge b p with
    | none => d1
    | some r =>
      let key := rowInBank b r
      if d.lodge.ueMark.contains key then noteUe d1 srcScrub key
      else if d.lodge.ceMark.contains key then
        noteCe { d1 with lodge := { d1.lodge with ceMark := d1.lodge.ceMark.filter (· != key) } } key
      else d1

/-! ### Soft repair (R200, R202, R205) -/

/-- A repair of the running die logged: LDG_SOFT_LOG, LDG_SLICE, and the calibration record. -/
def logRepair (d : Die) (key spare : Nat) (ue : Bool) : Die :=
  let k := key / 16384
  let l := d.lodge
  let e := repairEntry key spare ue
  let l1 := if l.softLog.length < 256 then { l with softLog := l.softLog ++ [e] } else { l with softOvf := satInc l.softOvf }
  let l2 := { l1 with slice := tabMod 0 l1.slice k (fun v => putFld v 32 8 (min 0xFF (fld v 32 8 + 1))) }
  settleFree k (appendLdg { d with lodge := l2 } (repairEntry key spare false))

/-- A row moved to a spare: the corrected data, or the poison code when it was uncorrectable. -/
def retireTo (d : Die) (key spare : Nat) (ue : Bool) : Die :=
  let d1 := mapRow d key spare
  let l := d1.lodge
  let bad := ue && l.ueMark.contains key
  let l1 := { l with ceMark := l.ceMark.filter (· != key),
                     poison := if bad && !l.poison.contains key then l.poison ++ [key] else l.poison,
                     weak := tabMod [] l.weak (key / 16384) (fun w => w.filter (fun e => e.1 != key)) }
  logRepair { d1 with lodge := l1 } key spare ue

/-- SOFT_REPAIR_RETIRE: the bank's oldest row to be retired, over its next two slots; one row in a refresh pass. -/
def effRetire (c : CoreId) (bank : BitVec 4) (d : Die) : Die :=
  let b := bankKey c bank.toNat
  match d.lodge.retiring.find? (fun r => r.1 / 1024 == b) with
  | none => d
  | some (key, ue) =>
    if !slotsRun d || d.lodge.retiredPass.contains b then d
    else
      let d1 := { d with lodge := { d.lodge with retiring := d.lodge.retiring.erase (key, ue) } }
      match freeSpare d1.lodge b with
      | none => postEvent d1 0x0014 (leBytes 4 (repairEntry key 0 ue).toNat)
      | some s =>
        let d2 := retireTo d1 key s ue
        nextSlot b 2 { d2 with lodge := { d2.lodge with retiredPass := d2.lodge.retiredPass ++ [b] } }

/-! ### The commands -/

def execRefreshSlot (c : CoreId) (bank : BitVec 4) (s : State) := onDie (effRefreshSlot c bank) s
def execScrubSlot (c : CoreId) (bank : BitVec 4) (s : State) := onDie (effScrubSlot c bank) s
def execSoftRepairRetire (c : CoreId) (bank : BitVec 4) (s : State) := onDie (effRetire c bank) s

end Sys2Proof.Machine
end

