-- ==== Sys2Proof/Machine/Ledger.lean ====
section
/-! DEFINITION. The commands of the Ledger: commits, fills, moves, recovery and loss, demotion, rewrites, epochs (R207 to R228). -/

namespace Sys2Proof.Machine

/-! ### Lists in order -/

def insertBy {α : Type} (key : α → Nat) (x : α) : List α → List α
  | [] => [x]
  | y :: l => if key x < key y then x :: y :: l else y :: insertBy key x l

/-- A list by rising key, equal keys in their order. -/
def sortBy {α : Type} (key : α → Nat) (l : List α) : List α := l.foldl (fun acc x => insertBy key x acc) []

/-! ### Free locations (R206, R211, R219, R224) -/

def inUse (d : Die) (tier loc : Nat) : Bool := d.ledger.used.contains (BitVec.ofNat 2 tier, BitVec.ofNat 48 loc)

/-- The free Lodge slots of the cores in use, or of one of them. -/
def freeLodge (d : Die) (core : Option CoreId) : List Nat :=
  let cores := match core with
    | some c => [c.toNat]
    | none => List.range 512
  ((cores.filter (fun k => coreInUse d (BitVec.ofNat 9 k))).flatMap (fun k => (List.range 64).map (fun s =>
    mkLodgeLoc d.ident.dieNum.toNat k s))).filter (fun l => !inUse d tierLodge l)

/-- The free berths of the package pool. -/
def freePool (d : Die) : List Nat :=
  ((List.range d.ledger.poolBerths.toNat).map (fun i => d.ledger.poolBase.toNat + 0x10000 * i)).filter (fun l =>
    !inUse d tierPackage l)

/-- A Cellar location (R211): the bin's key 2^20 port + bin, and the slot. -/
def mkCellarLoc (bin slot : Nat) : Nat := bin * 2 ^ 27 + slot * 2 ^ 15
def cellarBin (loc : Nat) : Nat := loc / 2 ^ 27

def freeInBin (d : Die) (bin : Nat) : List Nat :=
  ((List.range 4096).map (mkCellarLoc bin)).filter (fun l => !inUse d tierCellar l)

/-- No Cellar path: protocol level 1, or a hub that has reported no bins (R17, R22). -/
def noCellar (d : Die) : Bool := d.ident.protoLevel != 2 || d.ledger.bins.isEmpty

/-- The bin a berth goes to: good, budget and retention left, a slot free; the largest budget, then the lowest index (R224). -/
def chooseBin (d : Die) (besides : Option Nat) : Option Nat :=
  let ok := d.ledger.bins.filter (fun p => some p.1 != besides && p.2.reported && !p.2.bad && decide (1 ≤ p.2.budget.toNat) &&
    decide (2 ≤ p.2.retention.toNat) && !(freeInBin d p.1).isEmpty)
  match ok with
  | [] => none
  | p :: rest => some (rest.foldl (fun a b => if a.2.budget.toNat < b.2.budget.toNat ∨
      (a.2.budget = b.2.budget ∧ b.1 % 2 ^ 20 < a.1 % 2 ^ 20) then b else a) p).1

/-- One of a list of places: which one is a free value. -/
def pickFree (d : Die) (i : Nat) (l : List Nat) : Option Nat := l[(freeVal d i).toNat % l.length]?

/-- A place in a tier; none when the tier is full. -/
def findPlace (d : Die) (i : Nat) (tier : Nat) (core : Option CoreId) (besides : Option Nat) : Option Nat :=
  match tier with
  | 0 => pickFree d i (freeLodge d core)
  | 1 => pickFree d i (freePool d)
  | 2 => (chooseBin d besides).bind (fun b => pickFree d i (freeInBin d b))
  | _ => none

def takePlace (d : Die) (tier loc : Nat) : Die :=
  cons { d with ledger := { d.ledger with used := d.ledger.used ++ [(BitVec.ofNat 2 tier, BitVec.ofNat 48 loc)] } } 9 1 0

/-! ### Berth contents (R217) -/

/-- The bytes at a location; none where the hub reads them. -/
def readBerth (d : Die) (tier loc : Nat) : Option (List Byte) :=
  match tier with
  | 0 =>
    let off := locCore loc * sliceSize + locSlot loc * 0x10000
    some (if locDie loc = d.ident.dieNum.toNat then memRead d.mem off 0x10000 else memRead d.pkg (windowBase (locDie loc) + off) 0x10000)
  | 1 => some (memRead d.pkg loc 0x10000)
  | _ => none

/-- The bytes put at a location; from the Cellar, the hub has put them: into a slice by requests of its own, into package memory
as it will. -/
def writeBerth (d : Die) (tier loc : Nat) (l : Option (List Byte)) : Die :=
  match tier, l with
  | 0, some b =>
    let off := locSlot loc * 0x10000
    if locDie loc = d.ident.dieNum.toNat then putSlice srcPorter d (BitVec.ofNat 9 (locCore loc)) off b
    else { d with pkg := memWrite d.pkg (windowBase (locDie loc) + locCore loc * sliceSize + off) b }
  | 1, some b => { d with pkg := memWrite d.pkg loc b }
  | 1, none => drew { d with pkg := memFill d.pkg loc 0x10000 (fun i => (freeVal d i).setWidth 8) }
  | _, _ => d

/-- An uncorrectable error of a copy that lies in this die's Lodge. -/
def berthUe (d : Die) (tier loc : Nat) : Option Nat :=
  if tier = tierLodge && locDie loc == d.ident.dieNum.toNat then
    ueIn d (BitVec.ofNat 9 (locCore loc)) (locSlot loc * 0x10000) 0x10000
  else none

/-- The rows of such a copy checked as the mover reads them through the port (R191, R200, R201). -/
def senseBerth (tier loc : Nat) (d : Die) : Die :=
  if tier = tierLodge && locDie loc == d.ident.dieNum.toNat then
    senseRows srcPorter (BitVec.ofNat 9 (locCore loc)) (locSlot loc * 0x10000) 0x10000 d
  else d

/-! ### The end of a move (R219, R223, R287) -/

def putMove (d : Die) (m m' : Move) : Die :=
  { d with ledger := { d.ledger with moves := d.ledger.moves.map (fun y => if y = m then m' else y) } }

/-- BERTH_MOVE's response: the counts, and the first 28 failures in index order. -/
def moveReply (j : MoveJob) : Nat × List Byte :=
  let f := sortBy (·.1) j.failed
  ((f.head?.map (fun p => p.2.toNat)).getD stOk,
   leBytes 4 j.done ++ leBytes 4 j.failed.length ++ (f.take 28).flatMap (fun p => leBytes 4 p.1 ++ leBytes 2 p.2.toNat ++ leBytes 2 0))

/-- A job with no move left: a migration's mark is cleared, and its request is answered. -/
def finishJob (d : Die) (j : MoveJob) : Die :=
  let d1 := { d with ledger := { d.ledger with jobs := d.ledger.jobs.erase j } }
  let slot := j.ctx.toNat % 65536
  let a := dirAddr d slot
  let d2 := if j.migrate then putPkg128 d1 a (putFld (putFld (pkg128 d a) 118 1 0) 116 2 0) else d1
  match (List.range d2.stew.requests.length).find? (fun n => match d2.stew.requests[n]? with
      | some m => msgOp m == opBerthMove && msgCtx m == j.ctx.toNat
      | none => false) with
  | none => d2
  | some n => match d2.stew.requests[n]? with
    | some m => let (st, body) := moveReply j; answer d2 n m st 0 body
    | none => d2

/-- One index's outcome. -/
def noteOutcome (d : Die) (h : BitVec 48) (status : Nat) : Die :=
  match d.ledger.jobs.find? (fun j => j.ctx.toNat == handleCtx h) with
  | none => d
  | some j =>
    if !j.left.contains (handleIdx h) then d
    else
      let j1 := { j with left := j.left.erase (handleIdx h), done := if status = stOk then j.done + 1 else j.done,
                         failed := if status = stOk then j.failed else j.failed ++ [(handleIdx h, BitVec.ofNat 16 status)] }
      let d1 := { d with ledger := { d.ledger with jobs := d.ledger.jobs.map (fun y => if y = j then j1 else y) } }
      if j1.left.isEmpty then finishJob d1 j1 else d1

/-- A move ended before its switch: its destination is released, and its outcome noted. -/
def endMove (d : Die) (m : Move) (status : Nat) : Die :=
  let d1 := { d with ledger := { d.ledger with moves := d.ledger.moves.erase m } }
  let d2 := if m.placed then freeLoc d1 m.target.toNat m.dst.toNat else d1
  if m.job then noteOutcome d2 m.handle status else d2

/-- A move that fails after its phase write: the entry goes back to the old place (R219). One whose berth has been LOST meanwhile leaves
the entry as it is. -/
def revertMove (d : Die) (m : Move) : Die :=
  let e := entryLast d m.addr
  if entState e ≠ stMoving then endMove d m stBerthLost
  else endMove (stewWrite d m.addr (entPut e m.srcTier.toNat stValid 0 m.src.toNat 0 false)) m stMoveFailed

/-- A move whose old copy cannot be read: the berth is LOST. -/
def loseMove (d : Die) (m : Move) : Die :=
  let d1 := if entState (entryLast d m.addr) ≠ stMoving then d else markLost d m.handle m.addr
  endMove d1 m stBerthLost

/-! ### Commits and fills (R214) -/

def uncommitted (d : Die) (a : Nat) : Bool := d.ledger.writes.any (fun w => w.addr == a)

/-- A move whose switch has committed is DONE. -/
def noteSwitched (a : Nat) (d : Die) : Die :=
  if uncommitted d a then d
  else match d.ledger.moves.find? (fun m => m.addr == a && m.phase == 4 && !m.told) with
    | none => d
    | some m =>
      let d1 := putMove d m { m with told := true }
      if m.job then noteOutcome d1 m.handle stOk else d1

/-- LEDGER_COMMIT: the n-th change is committed; changes of one entry commit in order. -/
def effCommit (n : Nat) (d : Die) : Die :=
  match d.ledger.writes[n]? with
  | none => d
  | some w =>
    if (d.ledger.writes.take n).any (fun y => y.addr == w.addr) then d
    else noteSwitched w.addr (putPkg128 { d with ledger := { d.ledger with writes := d.ledger.writes.eraseIdx n } } w.addr w.value)

def cfLedgerError : Nat := 0x31

/-- LEDGER_IMBALANCE, entered in the fault log (R415). -/
def imbalance (d : Die) (cause arg : Nat) : Die :=
  postEvent (logFault d (faultEntry d 5 cause 0xFFFF 0 0 (arg % 2 ^ 24) 0)) 0x0013 (leBytes 4 (cause + 256 * (arg % 2 ^ 24)))

/-- A Ledger unit's endpoint (R31, R230). -/
def ledgerEndpoint (q : BitVec 2) : BitVec 12 := BitVec.ofNat 12 (8 * unitRouter q + 2)

/-- A line brought in for a request whose answer reaches no one; a touch is made all the same. -/
def fillAlone (d : Die) (w : LedgerOp) (status : BitVec 3) : Die :=
  if status ≠ 0 then d
  else
    let a := entryAddr d w.handle
    let d1 := cacheFill d w.unit (handleSlot w.handle) a
    match a with
    | some a => if w.touch then touchEntry d1 w.unit a else d1
    | none => d1

/-- LEDGER_CACHE_FILL: the line of the n-th waiting request returns; an error raises LEDGER_ERROR for a lookup or a waybill. The port of a
core that has left its role since refuses the answer (R242, R244). -/
def effCacheFill (n : Nat) (status : BitVec 3) (d : Die) : Die :=
  match d.ledger.waiting[n]? with
  | none => d
  | some w =>
    let d1 := { d with ledger := { d.ledger with waiting := d.ledger.waiting.eraseIdx n } }
    let d2 := if status = 3 then imbalance d1 0x04 (handleSlot w.handle) else d1
    let x := getCore d2 w.core
    match (if w.touch then none else portCheck d2 w.core w.party w.epoch), x.tags.find? (fun o => o.tag == w.tag && !o.remote) with
    | some reason, _ =>
      let v := match entryAddr d2 w.handle with
        | some a => lookupWord d2 w.core (entryNow d2 a (freeVal d2 0))
        | none => lookupNone
      refuseAtPort (drew (fillAlone d2 w status)) reason 3 4 (coreEndpoint w.core) (ledgerEndpoint w.unit) w.party w.epoch w.tag v
    | none, none => fillAlone d2 w status
    | none, some o =>
      let d3 := setCore d2 w.core { x with tags := x.tags.erase o }
      let a := threadEntry d3 w.core o.thread w.handle
      if status ≠ 0 then
        (match o.kind with
          | .lookup _ => raiseFault d3 w.core (some o.thread) cfLedgerError w.unit.toNat o.pc
          | .waybillLookup k => wbFault d3 w.core k.toNat cfLedgerError w.unit.toNat
          | _ => d3)
      else
        let d4 := cacheFill d3 w.unit (handleSlot w.handle) a
        match o.kind with
        | .lookup rd => answerLookup d4 w.core o.thread rd a
        | .waybillLookup k => resolveBerth d4 w.core k.toNat w.handle a
        | _ => match a with
          | some a => touchEntry d4 w.unit a
          | none => d4

/-! ### Moves (R217, R218, R220) -/

/-- The mover of a berth's context. -/
def moverOf (h : BitVec 48) : Nat := handleSlot h % 4

def inFlight (d : Die) (h : BitVec 48) : Nat := (d.ledger.moves.filter (fun m => m.placed && moverOf m.handle == moverOf h)).length

/-- What ends a move before a destination is taken: the berth's state, then R220, then R219. -/
def moveBlocked (d : Die) (m : Move) (e : BitVec 128) : Option Nat :=
  if entState e = stLost then some stBerthLost
  else if entState e ≠ stValid || entTier e = tierNone then some stBerthState
  else if m.waited && entTier e == m.target.toNat then some stOk
  else if m.rewrite then none
  else if m.target = 2 && (decide (entClass e < 2) || noCellar d) then some stTierUnavailable
  else none

/-- The phase write, once no hold of any kind stands on the berth. -/
def phaseWrite (d : Die) (m : Move) : Die :=
  let e := entryLast d m.addr
  if d.ledger.holds.any (fun h => h.handle == m.handle) then d
  else
    let d1 := putMove d m { m with phase := 1, srcTier := BitVec.ofNat 2 (entTier e), src := BitVec.ofNat 48 (entLoc e) }
    stewWrite d1 m.addr (entPut e (entTier e) stMoving m.target.toNat (entLoc e) m.dst.toNat false)

/-- A rewrite takes its destination: in another bin, else in the pool; with neither the berth stays and is at risk (R225). -/
def placeRewrite (d : Die) (m : Move) : Die :=
  let go (tier loc : Nat) : Die :=
    let m1 := { m with placed := true, target := BitVec.ofNat 2 tier, dst := BitVec.ofNat 48 loc }
    phaseWrite (takePlace (putMove (drew d) m m1) tier loc) m1
  match findPlace d 0 tierCellar none (some (cellarBin (entLoc (entryLast d m.addr)))) with
  | some loc => go tierCellar loc
  | none => match findPlace d 0 tierPackage none none with
    | some loc => go tierPackage loc
    | none => postEventTo (endMove (drew d) m stNoSpace) 0 0x0015 0 (BitVec.ofNat 32 (handleCtx m.handle)) (leBytes 8 m.handle.toNat)

/-- MOVE_PHASE_WRITE: the n-th move takes its destination, when its mover has room and no earlier move of the berth runs, and then
makes its phase write when no hold stands. -/
def effPhaseWrite (n : Nat) (d : Die) : Die :=
  match d.ledger.moves[n]? with
  | none => d
  | some m =>
    if m.phase ≠ 0 || uncommitted d m.addr || (d.ledger.moves.take n).any (fun y => y.addr == m.addr) then d
    else if !m.placed && 16 ≤ inFlight d m.handle then d
    else match moveBlocked d m (entryLast d m.addr) with
      | some st => endMove d m st
      | none =>
        if m.placed then phaseWrite d m
        else if m.rewrite then placeRewrite d m
        else match findPlace d 0 m.target.toNat m.core none with
        | none => endMove (drew d) m stNoSpace
        | some loc =>
          let m1 := { m with placed := true, dst := BitVec.ofNat 48 loc }
          phaseWrite (takePlace (putMove (drew d) m m1) m.target.toNat loc) m1

/-- A write into a Cellar bin spends its budget (R224). -/
def spendBin (d : Die) (tier loc : Nat) : Die :=
  if tier = tierCellar then
    { d with ledger := { d.ledger with bins := tabMod Bin.reset d.ledger.bins (cellarBin loc) (fun b => { b with budget := if b.budget = 0 then 0 else b.budget - 1 }) } }
  else d

/-- MOVE_COPY_DONE: the copy has ended; a read that failed loses the berth, a write that failed ends the move. -/
def effCopyDone (n : Nat) (readOk writeOk : Bool) (d : Die) : Die :=
  match d.ledger.moves[n]? with
  | none => d
  | some m =>
    if m.phase ≠ 1 || uncommitted d m.addr then d
    else
      let d0 := d
      let d := senseBerth m.srcTier.toNat m.src.toNat d
      if (berthUe d0 m.srcTier.toNat m.src.toNat).isSome || !readOk then loseMove d m
      else if !writeOk then revertMove d m
      else
          let b := readBerth d m.srcTier.toNat m.src.toNat
          let crc := match b with | some l => crc64 l | none => freeVal d 0x10000
          let m1 := { m with phase := 2, crc := crc, hubRead := b.isNone, age := d.ledger.epoch.setWidth 16 }
          spendBin (writeBerth (putMove d m m1) m.target.toNat m.dst.toNat b) m.target.toNat m.dst.toNat

/-- Whether C1, C2 and C3 are equal; at a Cellar end the hub's CRC stands for the die's read. -/
def verified (d : Die) (m : Move) (hubCrc : BitVec 64) : Bool :=
  let c1 := if m.hubRead && m.target ≠ 2 then hubCrc else m.crc
  let c2 := match readBerth d m.target.toNat m.dst.toNat with | some l => crc64 l | none => hubCrc
  let c3 := match readBerth d m.srcTier.toNat m.src.toNat with | some l => crc64 l | none => c1
  c1 == c2 && c2 == c3

/-- MOVE_VERIFY: a mismatch, or a new copy that cannot be read, repeats the copy once, a second ends the move. -/
def effVerify (n : Nat) (hubCrc : BitVec 64) (d : Die) : Die :=
  match d.ledger.moves[n]? with
  | none => d
  | some m =>
    if m.phase ≠ 2 then d
    else
      let d1 := senseBerth m.srcTier.toNat m.src.toNat (senseBerth m.target.toNat m.dst.toNat d)
      if (berthUe d m.srcTier.toNat m.src.toNat).isSome then loseMove d1 m
      else if (berthUe d m.target.toNat m.dst.toNat).isNone && verified d m hubCrc then putMove d1 m { m with phase := 3 }
      else if m.again then revertMove d1 m
      else putMove d1 m { m with phase := 1, again := true }

/-- MOVE_SWITCH_WRITE: the new place becomes the authoritative one at the write's commit, AGE that of the Cellar write (R225, R228). A berth
LOST meanwhile stays so (R226). -/
def effSwitch (n : Nat) (d : Die) : Die :=
  match d.ledger.moves[n]? with
  | none => d
  | some m =>
    if m.phase ≠ 3 then d
    else if entState (entryLast d m.addr) ≠ stMoving then endMove d m stBerthLost
    else
      let e := entPut (entryLast d m.addr) m.target.toNat stValid m.srcTier.toNat m.dst.toNat m.src.toNat true
      stewWrite (putMove d m { m with phase := 4 }) m.addr (if m.target = 2 then putFld e 96 16 m.age.toNat else e)

/-- MOVE_RELEASE: the old place is given up once no hold names it. -/
def effRelease (n : Nat) (d : Die) : Die :=
  match d.ledger.moves[n]? with
  | none => d
  | some m =>
    if m.phase ≠ 4 || !m.told || uncommitted d m.addr ||
       d.ledger.holds.any (fun h => h.tier == m.srcTier && h.loc == m.src) then d
    else
      let e := entryLast d m.addr
      let d1 := freeLoc { d with ledger := { d.ledger with moves := d.ledger.moves.erase m } } m.srcTier.toNat m.src.toNat
      stewWrite d1 m.addr (entPut e (entTier e) (entState e) (entDtier e) (entLoc e) 0 false)

/-! ### Recovery and loss (R198, R221, R222) -/

/-- The other dies of the package (R8, R17). -/
def otherDies (d : Die) : List (BitVec 2) :=
  ((if d.ident.pkgType = 1 || d.ident.protoLevel = 1 then [0, 1] else [0, 1, 2, 3]) : List (BitVec 2)).filter (· != d.ident.dieNum)

def lossEvent (d : Die) (h : BitVec 48) (e : BitVec 128) : Die :=
  postEventTo d 0 (if entRecomp e then 0x0011 else 0x0010) 0 (BitVec.ofNat 32 (handleCtx h)) (leBytes 8 h.toNat)

/-- One entry as recovery finds and leaves it. -/
def recoverEntry (d : Die) (p : BitVec 48 × Nat) : Die :=
  let e := pkg128 d p.2
  let own := entTier e == tierLodge && locDie (entLoc e) == d.ident.dieNum.toNat
  if !entLegal e then imbalance (putPkg128 d p.2 (entPut e tierNone stLost 0 0 0 false)) 0x02 (handleSlot p.1)
  else if own && d.lodge.lossUnmarked then lossEvent (putPkg128 d p.2 (entPut e tierNone stLost 0 0 0 false)) p.1 e
  else
    let d1 := if entState e = stMoving then putPkg128 d p.2 (entPut e (entTier e) stValid 0 (entLoc e) 0 false)
      else if entOldf e then putPkg128 d p.2 (entPut e (entTier e) (entState e) (entDtier e) (entLoc e) 0 false)
      else d
    if own && !coreInUse d (BitVec.ofNat 9 (locCore (entLoc e))) then lossEvent d1 p.1 e else d1

/-- A migration that the reset interrupted is counted, reported and dropped (R223). -/
def recoverCtx (d : Die) (p : Nat × BitVec 128) : Die :=
  if !dirMig p.2 then d
  else
    let es := ((List.range (dirCount p.2)).map (fun i => pkg128 d (dirArray p.2 + 16 * i))).filter (fun e => entState e != stFree)
    let in_ := (es.filter (fun e => entTier e == dirMigTier p.2)).length
    postEventTo (putPkg128 d (dirAddr d p.1) (putFld (putFld p.2 118 1 0) 116 2 0)) 0 0x0012 0
      ((ctxId p.1 p.2).setWidth 32) (leBytes 4 in_ ++ leBytes 4 (es.length - in_))

/-- The locations in use, as the entries name them. -/
def usedPlaces (d : Die) : List (BitVec 2 × BitVec 48) :=
  (allBerths d).flatMap (fun p =>
    let e := pkg128 d p.2
    (if entTier e ≠ tierNone && (entState e == stValid || entState e == stMoving) then
      [(BitVec.ofNat 2 (entTier e), BitVec.ofNat 48 (entLoc e))] else []) ++
    (if entState e = stMoving || entOldf e then [(BitVec.ofNat 2 (entDtier e), BitVec.ofNat 48 (entDest e))] else []))

def allocated (d : Die) : Nat := ((allBerths d).filter (fun p => entState (pkg128 d p.2) != stFree)).length

/-- A Steward count set. -/
def setCons (d : Die) (c : Nat) (issued returned : Nat) : Die :=
  { d with flt := { d.flt with issued := tabSet 0 d.flt.issued c (BitVec.ofNat 64 issued),
                               returned := tabSet 0 d.flt.returned c (BitVec.ofNat 64 returned) } }

/-- All three counts of a Steward's class at zero, as its registers show them too. -/
def zeroCons (d : Die) (c : Nat) : Die :=
  let e := setCons d c 0 0
  { e with flt := { e.flt with snapIssued := tabSet 0 e.flt.snapIssued c 0, snapReturned := tabSet 0 e.flt.snapReturned c 0,
                               snapLive := tabSet 0 e.flt.snapLive c 0 } }

/-- The other dies' Stewards are told that this die's Lodge lost its content (R198). -/
def tellLoss (d : Die) : Die := (otherDies d).foldl (fun e p => sendPeer e p (.contentLost d.ident.dieNum)) d

/-- LEDGER_RECOVERY: once the hub has reported package memory kept. Classes 8 and 9 start from what recovery finds. -/
def effRecovery (d : Die) : Die :=
  if d.ledger.memState ≠ 2 then d
  else
    let d1 := if d.lodge.lossUnmarked then tellLoss d else d
    let d2 := (allBerths d1).foldl recoverEntry d1
    let d3 := (openCtxs d2).foldl recoverCtx d2
    let used := (usedPlaces d3).eraseDups
    let d4 := { d3 with ledger := { d3.ledger with memState := 0, used := used }, lodge := { d3.lodge with lossUnmarked := false } }
    setCons (setCons d4 8 (allocated d4) 0) 9 used.length 0

/-- LEDGER_LOST: once the hub has reported package memory lost. -/
def effLost (d0 : Die) : Die :=
  if d0.ledger.memState ≠ 3 then d0
  else
    let d := if d0.lodge.lossUnmarked then tellLoss d0 else d0
    let l := d.ledger
    let base := l.dirBase
    let l1 := { l with dirBase := 0, arrayBase := 0, arrayBytes := 0, poolBase := 0, poolBerths := 0, cache := [], dirCache := [],
                       touched := [], writes := [], holds := [], moves := [], jobs := [], used := [], bins := [], memState := 0 }
    let d1 := { d with ledger := l1, stew := { d.stew with opened := [] },
                       lodge := { d.lodge with lossUnmarked := false } }
    postEvent (zeroCons (zeroCons d1 8) 9) 0x0016 (leBytes 8 base.toNat)

/-! ### Demotion and rewrites (R225, R227) -/

/-- EPOCH[15:0] − AGE modulo 2^16. -/
def ageOf (d : Die) (e : BitVec 128) : Nat := (d.ledger.epoch.toNat + 0x10000 - entAge e) % 0x10000

def moving (d : Die) (a : Nat) : Bool := d.ledger.moves.any (fun m => m.addr == a)

def newMove (h : BitVec 48) (a : Nat) (target : Nat) (core : Option CoreId) (job waited : Bool) : Move :=
  { handle := h, addr := a, target := BitVec.ofNat 2 target, core := core, job := job, waited := waited, placed := false, dst := 0,
    srcTier := 0, src := 0, phase := 0, again := false, crc := 0, age := 0, rewrite := false, hubRead := false, told := false }

def addMove (d : Die) (m : Move) : Die := { d with ledger := { d.ledger with moves := d.ledger.moves ++ [m] } }

/-- Demotion order: ARCHIVE, SEALED, then the rest; the oldest; the lowest handle. -/
def demotionKey (d : Die) (p : BitVec 48 × Nat) : Nat :=
  let e := entryLast d p.2
  let rank := if entClass e = 3 then 0 else if entClass e = 2 then 1 else 2
  (rank * 0x10000 + (0xFFFF - ageOf d e)) * 2 ^ 48 + p.1.toNat

/-- The berths of a tier the Ledger may move of its own accord. -/
def demotable (d : Die) (tier : Nat) : List (BitVec 48 × Nat) :=
  sortBy (demotionKey d) ((allBerths d).filter (fun p =>
    let e := entryLast d p.2
    entTier e == tier && entState e == stValid && !entPinned e && !moving d p.2 && !d.ledger.holds.any (fun h => h.handle == p.1) &&
    (tier == tierLodge || entClass e == 2 || entClass e == 3)))

/-- DEMOTION_START: as many moves as a tier's free berths, with the moves already leaving it, fall short of its threshold. -/
def effDemotion (d : Die) : Die :=
  let leaving (tier : Nat) : Nat := (d.ledger.moves.filter (fun m => entTier (entryLast d m.addr) == tier && m.target.toNat != tier)).length
  let n0 := d.ledger.lodgeLow.toNat - ((freeLodge d none).length + leaving tierLodge)
  let n1 := if noCellar d then 0 else d.ledger.pkgLow.toNat - ((freePool d).length + leaving tierPackage)
  let d1 := ((demotable d tierLodge).take n0).foldl (fun e p => addMove e (newMove p.1 p.2 tierPackage none false false)) d
  ((demotable d tierPackage).take n1).foldl (fun e p => addMove e (newMove p.1 p.2 tierCellar none false false)) d1

/-- The rewrite threshold T of a berth's bin. -/
def rewriteAge (d : Die) (bin : Nat) : Nat :=
  let b := tabGet Bin.reset d.ledger.bins bin
  let l := if b.reported then min b.retention.toNat d.ledger.retCap.toNat else d.ledger.retCap.toNat
  let m := d.ledger.margin.toNat
  if 2 * m ≤ l then l - m else l / 2

def rewriteDue (d : Die) (e : BitVec 128) : Bool :=
  let b := tabGet Bin.reset d.ledger.bins (cellarBin (entLoc e))
  entTier e == tierCellar && entState e == stValid &&
  (d.ledger.gap || decide (rewriteAge d (cellarBin (entLoc e)) ≤ ageOf d e) || (b.reported && (b.bad || decide (b.retention.toNat < 2))))

/-- CELLAR_REWRITE: a move of a berth that is due begins; where it goes is settled when its mover takes it up (R225). After a gap the
oldest due berth goes first. -/
def effRewrite (handle : BitVec 48) (d : Die) : Die :=
  match entryAddr d handle with
  | none => d
  | some a =>
    let e := entryLast d a
    if !rewriteDue d e || entOldf e || moving d a then d
    else if d.ledger.gap && (allBerths d).any (fun p => let v := entryLast d p.2
        rewriteDue d v && !moving d p.2 && decide (ageOf d e < ageOf d v)) then d
    else
      addMove d { newMove handle a tierCellar none false false with rewrite := true }

/-! ### Epochs (R228) -/

/-- EPOCH_TICK: the counter advances while VDD_AON is up and REFCLK runs, and the units write back the ages touched in the epoch that ends. -/
def effEpoch (d : Die) : Die :=
  if !d.boot.aon || d.power.refLost then d else
  let d1 := d.ledger.touched.foldl (fun e t => writeAge e t.2.1 t.2.2) d
  { d1 with ledger := { d1.ledger with epoch := d1.ledger.epoch + 1, touched := [] } }

/-- AGE_SWEEP: once in an epoch whose low 12 bits are 0, ages past 16,384 are set to 16,384. -/
def effSweep (d : Die) : Die :=
  if d.ledger.epoch.extractLsb' 0 12 ≠ 0 || d.ledger.sweptEpoch == some d.ledger.epoch then d
  else
    let d1 := { d with ledger := { d.ledger with sweptEpoch := some d.ledger.epoch } }
    (allBerths d1).foldl (fun e p => if entTier (pkg128 e p.2) ≤ 1 && decide (16384 < ageOf e (pkg128 e p.2)) then
      writeAge e p.2 (BitVec.ofNat 16 (d.ledger.epoch.toNat + 0x10000 - 16384)) else e) d1

/-! ### The commands -/

def execLedgerCommit (n : Nat) (s : State) := onDie (effCommit n) s
def execLedgerCacheFill (n : Nat) (status : BitVec 3) (s : State) := onDie (effCacheFill n status) s
def execMovePhaseWrite (n : Nat) (s : State) := onDie (effPhaseWrite n) s
def execMoveCopyDone (n : Nat) (readOk writeOk : Bool) (s : State) := onDie (effCopyDone n readOk writeOk) s
def execMoveVerify (n : Nat) (hubCrc : BitVec 64) (s : State) := onDie (effVerify n hubCrc) s
def execMoveSwitchWrite (n : Nat) (s : State) := onDie (effSwitch n) s
def execMoveRelease (n : Nat) (s : State) := onDie (effRelease n) s
def execLedgerRecovery (s : State) := onDie effRecovery s
def execLedgerLost (s : State) := onDie effLost s
def execDemotionStart (s : State) := onDie effDemotion s
def execCellarRewrite (handle : BitVec 48) (s : State) := onDie (effRewrite handle) s
def execEpochTick (s : State) := onDie effEpoch s
def execAgeSweep (s : State) := onDie effSweep s

end Sys2Proof.Machine
end

