-- ==== Sys2Proof/Machine/Resets.lean ====
section
/-! DEFINITION. What resets do: a core's reset (R112, R405), the die's warm, clock-loss and cold resets (R21, R197, R209, R228, R295,
R325, R332, R358, R414), sideband frames (R317), die-fatal and package-fatal faults (R407, R410). -/

namespace Sys2Proof.Machine

/-! ### A core's reset -/

/-- A memory with a range back at 0. -/
def memClear (m : List Host.Cell) (a n : Nat) : List Host.Cell := m.filter (fun p => decide (p.1 < a) || decide (a + n ≤ p.1))

/-- A ring after a core reset: EN cleared, four EMPTY buffers; the rest of its setting stays. -/
def resetRing (r : Ring) : Ring := { Ring.reset with cfg := putFld r.cfg 63 1 0 }

/-- Step 3 of a party reset: the array of R112, the generators at 1 (R61), waybills IDLE, rings disabled, threads and queues emptied.
chain flits that wait in the core count as discarded (R244).
Program memory, CORE_FAULT, the flag log, tally windows, stall limits, checksum settings and the port stay; requests already issued stay
until they are answered. -/
def resetCore (now : Nat) (x : Core) : Core :=
  let y := resetArray x
  let z := { y with ops := [], stagger0 := false, stagger1 := false, lastL0 := false, lastL1 := false, swap0 := (0, false),
                    swap1 := (0, false), abftHeld := [], split := false, lodgeHalf := false,
                    t0 := Thread.reset, t1 := Thread.reset, cyclesBase := now, waybills := [], tags := [], seed0 := 1, seed1 := 1 }
  { z with rings := tabMap Ring.reset (fun _ r => resetRing r) x.rings, queued := [], wqueued := [], stampWait := [],
           members := x.members.map (fun m => { m with joined := false, fwdOpen := false, outgoing := [], incoming := [], local_ := [],
                                                       pending := none, received := m.received - m.incoming.length,
                                                       discarded := m.discarded + m.incoming.length }),
           stoppedWait := false }

/-- A core reset on the die: its core store becomes 0 and its waiters are removed; what it injected before goes on (R244). -/
def coreReset (d : Die) (c : CoreId) : Die :=
  let d1 := modCore d c (resetCore d.aclk)
  let d2 := { d1 with mem := memClear d1.mem (storeBase c) storeSize,
                      ledger := { d1.ledger with holds := d1.ledger.holds.filter (fun h => match h.waybill with
                                                   | some (k, _) => k != c
                                                   | none => true) } }
  dropWaiters (fun w => w.die == d.ident.dieNum && endpointCore w.endpoint == c) d2

/-! ### Sideband frames (R317) -/

def sbGrant : BitVec 8 := 0x01
def sbOffer : BitVec 8 := 0x10
def sbDigestLo : BitVec 8 := 0x11
def sbDigestHi : BitVec 8 := 0x12
def sbAgree : BitVec 8 := 0x13
def sbLinkUp : BitVec 8 := 0x14
def sbNewmask : BitVec 8 := 0x20
def sbDrainPoint : BitVec 8 := 0x21
def sbAlert : BitVec 8 := 0x30
def sbAck : BitVec 8 := 0x7F

/-- A frame sent, to be acknowledged. -/
def sbSend (d : Die) (cmd arg : BitVec 8) (data : BitVec 32) : Die :=
  send { d with link := { d.link with frames := d.link.frames ++ [⟨cmd, arg, data, 1⟩] } } (.sideband cmd arg data)

/-- The answer to a frame of the hub's. -/
def sbAnswer (d : Die) (cmd : BitVec 8) : Die := send d (.sideband sbAck cmd 0)

/-- ALERT, with SB_ALERT_N low until it is acknowledged. -/
def alert (d : Die) (cause : BitVec 8) : Die :=
  let d1 := sbSend d sbAlert cause 0
  { d1 with link := { d1.link with alert := true } }

/-! ### What a reset catches under way -/

/-- The line writes a core has issued toward the hub or another slice and that nothing has answered. -/
def openWrites (d : Die) : List LineWrite := (List.range 512).flatMap (fun k => (getCore d (BitVec.ofNat 9 k)).writes)

def landWrite (d : Die) (l : LineWrite) : Die :=
  if l.onDie then putDie d (l.addr + l.lo) l.bytes
  else if l.addr < 0xC000000000 then { d with pkg := memWrite d.pkg (l.addr + l.lo) l.bytes } else d

/-- Entry changes not yet committed, and line writes not yet answered, each land or do not: which is free (R188, R214). -/
def landOpen (d : Die) : Die :=
  let n := d.ledger.writes.length
  let d1 := (d.ledger.writes.zipIdx).foldl (fun e p => if bitB (freeVal d p.2) 0 then putPkg128 e p.1.addr p.1.value else e) d
  drew (((openWrites d).zipIdx).foldl (fun e p => if bitB (freeVal d (n + p.2)) 0 then landWrite e p.1 else e) d1)

/-- A fuse word whose programming is cut short: WRITTEN is set, COMPLETE is not, and any of its other bits may be (R362, R366). -/
def cutWord (d : Die) : Die :=
  match d.fuse.event with
  | none => d
  | some ev => match ev.words with
    | [] => d
    | (n, v) :: _ =>
      let w := putFld (putFld 0#64 0 56 (v.toNat &&& (freeVal d 0).toNat)) 63 1 1
      drew { d with fuse := { d.fuse with otp := tabSet 0 d.fuse.otp n.toNat w } }

/-- A reset during a fuse event: at most the word being programmed is left incomplete (R366). -/
def cutEvent (d : Die) : Die :=
  if d.fuse.event.isSome then drew (if bitB (freeVal d 1) 0 then cutWord d else d) else d

/-! ### The die's reset -/

/-- The Lodge's controllers across a warm reset (R197, R205): content, remap tables, refresh and the soft-repair log go on; other
registers take their reset values. -/
def LodgeSt.warm (l : LodgeSt) : LodgeSt :=
  { l with softEn := true, softThresh := 0x04, weak := [], testDone := false, passes := 0, ueLog := 0,
           slice := tabMap 0 (fun _ v => putFld v 40 24 0) l.slice }

/-- Lodge content lost (R197): the remap tables go with it. -/
def LodgeSt.lost (l : LodgeSt) : LodgeSt :=
  { LodgeSt.reset with softEn := l.softEn, softThresh := l.softThresh, ueLog := l.ueLog, softLog := l.softLog,
                       slice := tabMap 0 (fun _ v => putFld v 16 24 0) l.slice,
                       softOvf := l.softOvf, hot := l.hot, interval := l.interval, testDone := l.testDone, passes := l.passes }

/-- What survives a reset of the Ledger: the placements, the epoch and the gap, in VDD_AON (R209, R228), and the Cellar bins, in the Ledger
table (R224). -/
def LedgerSt.kept (l : LedgerSt) : LedgerSt :=
  { LedgerSt.reset with dirBase := l.dirBase, arrayBase := l.arrayBase, arrayBytes := l.arrayBytes, poolBase := l.poolBase,
                        poolBerths := l.poolBerths, gap := l.gap, epoch := l.epoch, sweptEpoch := l.sweptEpoch, bins := l.bins }

/-- The link cache, in VDD_AON (R374); an ALERT not yet acknowledged goes on being sent. -/
def LinkSt.kept (l : LinkSt) : LinkSt :=
  { LinkSt.reset with cache := l.cache, cacheLen := l.cacheLen, cacheCrc := l.cacheCrc, alert := l.alert,
                      frames := l.frames.filter (fun f => f.cmd == sbAlert) }

/-- Clocks, the operating point they run at, and the VDD_AON bits. -/
def PowerSt.kept (p : PowerSt) : PowerSt :=
  { PowerSt.reset with refclkOk := p.refclkOk, refLost := p.refLost, lpllLock := p.lpllLock, cpllLock := p.cpllLock, clkLost := p.clkLost,
                       cpllMHz := p.cpllMHz, refCnt := p.refCnt, current := p.current, volt := p.volt, windows := p.windows,
                       tripped := p.tripped, trips := p.trips, thermtrip := p.thermtrip }

/-- Clocks after their loss, or at a cold reset: no PLL locked, OP0 at 0.55 V (R330). -/
def PowerSt.unlocked (p : PowerSt) : PowerSt :=
  { p with lpllLock := false, cpllLock := false, cpllMHz := 0, refCnt := 0, current := 0, volt := 0x0A }

/-- The TAP and its registers lie in VDD_AON; a loopback run and the debugger's halts end (R429, R432, R435). -/
def TestSt.kept (t : TestSt) : TestSt :=
  { TestSt.reset with ir := t.ir, bypass := t.bypass, boundary := t.boundary, driving := t.driving, dbgDone := t.dbgDone,
                      dbgDenied := t.dbgDenied, dbgOff := t.dbgOff, dbgData := t.dbgData, sealed := t.sealed, stmMult := t.stmMult,
                      stm := t.stm }

/-- The package assignment stands until a cold reset (R20). -/
def Ident.kept (i : Ident) : Ident :=
  { Ident.reset with granted := i.granted, grantConflict := i.grantConflict, hubGen := i.hubGen, pkgType := i.pkgType,
                     half := i.half, dieNum := i.dieNum }

/-- The kinds of reset (R358): warm keeps Lodge content; clock loss and cold lose it; cold also ends the assignment. -/
inductive ResetKind where
  | warm | clock | cold
deriving DecidableEq, Repr

/-- A reset of the die. Package memory, the flash, the fuses and VDD_AON are not touched; every other register takes its reset
value. -/
def dieReset (k : ResetKind) (d0 : Die) : Die :=
  let d := cutEvent (landOpen d0)
  let warm := k == .warm
  let cold := k == .cold
  let base : Die := { Die.reset with aclk := d.aclk, freeCtr := d.freeCtr, pkg := d.pkg, flash := d.flash, out := d.out }
  let lodge : LodgeSt := if warm then d.lodge.warm else LodgeSt.reset
  let power : PowerSt := if warm then d.power.kept else d.power.kept.unlocked
  let flt : FaultSt := { FaultSt.reset with fatalValid := d.flt.fatalValid, fatalCause := d.flt.fatalCause,
                                            fatalCount := d.flt.fatalCount, fatalEpoch := d.flt.fatalEpoch }
  let boot : BootSt := { BootSt.reset with porst := d.boot.porst, hubRst := d.boot.hubRst, aon := d.boot.aon, cold := d.boot.cold,
                                           held := d.boot.held, boots := d.boot.boots }
  let mid : Die := { base with
    mem := if warm then memClear d.mem 0x80000000 (2 ^ 38) else [],
    ident := if cold then Ident.reset else d.ident.kept,
    lodge := lodge, ledger := d.ledger.kept, link := d.link.kept,
    power := if cold then { power with windows := 0 } else power }
  { mid with
    flt := flt, boot := boot, test := d.test.kept,
    stew := { StewSt.reset with serial := if cold then 0 else d.stew.serial },
    fuse := { FuseSt.reset with otp := d.fuse.otp, efusePg := d.fuse.efusePg },
    trust := { TrustSt.reset with nonces := d.trust.nonces } }

/-! ### Boots and faults of the die -/

/-- The die is held in reset (R21, R332, R355, R410). -/
def inReset (d : Die) : Bool := d.boot.porst || d.boot.hubRst || d.boot.held != 0

/-- Nothing holds the die any longer, or its boot has failed for good. -/
def bootFailed (d : Die) : Bool := d.boot.step == 15

def kindPowerup : BitVec 2 := 0
def kindCold : BitVec 2 := 1
def kindWarm : BitVec 2 := 2
def kindClock : BitVec 2 := 3

/-- A boot starts at step 1; one that is the first since VDD_AON came up is a POWERUP boot (R358, R420). -/
def startBoot (kind : BitVec 2) (d : Die) : Die :=
  let k := if d.boot.boots = 0 then kindPowerup else kind
  { d with boot := { d.boot with step := 1, kind := k, boots := satInc d.boot.boots, cold := false,
                                 selftestFull := k == kindPowerup || k == kindCold } }

/-- DIE_FATAL records the most recent fault (R407). -/
def noteFatal (cause : BitVec 8) (d : Die) : Die :=
  { d with flt := { d.flt with fatalValid := true, fatalCause := cause, fatalCount := satInc d.flt.fatalCount,
                               fatalEpoch := d.ledger.epoch } }

def dfClockLost : BitVec 8 := 0x01
def dfIvrFault : BitVec 8 := 0x02
def dfLinkWidth : BitVec 8 := 0x03
def dfMeshUe : BitVec 8 := 0x04
def dfUnitUe : BitVec 8 := 0x05
def dfSsramUe : BitVec 8 := 0x06
def dfStewardHang : BitVec 8 := 0x07
def dfThermtrip : BitVec 8 := 0x08
def dfLinkLost : BitVec 8 := 0x40

/-- A die-fatal fault that a warm reset follows: recorded, reported, and a WARM boot begun. -/
def fatalWarm (cause : BitVec 8) (d : Die) : Die :=
  startBoot kindWarm (dieReset .warm (alert (noteFatal cause d) (if cause = dfLinkWidth then 2 else 3)))

/-- Clocks lost (R332): the die is held, its Lodge content is lost, the epoch count has a gap. -/
def holdClock (d : Die) : Die :=
  let d1 := dieReset .clock d
  { d1 with
    power := { d1.power with refclkOk := false, refLost := true, clkLost := true },
    ledger := { d1.ledger with gap := true },
    boot := { d1.boot with held := d1.boot.held ||| 1 } }

/-- Clock loss of a running die (R332). -/
def fatalClock (d : Die) : Die := holdClock (alert (noteFatal dfClockLost d) 3)

/-- A thermal trip (R355): THERMTRIP_N asserted, the die held; Lodge content and refresh go on at I = 8. -/
def fatalTrip (d : Die) : Die :=
  let d1 := dieReset .warm (alert (noteFatal dfThermtrip d) 4)
  { d1 with
    power := { d1.power with tripped := true, trips := satInc d1.power.trips, thermtrip := true },
    lodge := { d1.lodge with interval := 3 },
    boot := { d1.boot with held := d1.boot.held ||| 2 } }

/-- A package-fatal fault (R410): nothing but VDD_AON state survives, and the die is held until PORST_N. -/
def fatalPackage (d : Die) : Die :=
  let d1 := dieReset .clock (alert (noteFatal dfLinkLost d) 3)
  { d1 with boot := { d1.boot with held := d1.boot.held ||| 4 } }

/-- A die-fatal fault of the running die; one raised while the die is held is absorbed (R402). -/
def raiseFatal (cause : BitVec 8) (d : Die) : Die :=
  if inReset d then d
  else if cause = dfClockLost then fatalClock d
  else if cause = dfThermtrip then fatalTrip d
  else if cause = dfLinkLost then fatalPackage d
  else if dfIvrFault ≤ cause && cause ≤ dfStewardHang then fatalWarm cause d
  else d

end Sys2Proof.Machine
end

