-- ==== Sys2Proof/Machine/RegRead.lean ====
section
/-! DEFINITION. What every control register reads (R6, R7, R33, R34), 32 bits at a time, by its offset in the control-register space;
an offset in a block that names no register reads 0. -/

namespace Sys2Proof.Machine

/-- The word of a 64-bit register at an offset. -/
def half64 (v : BitVec 64) (o : Nat) : BitVec 32 := if o % 8 = 4 then v.extractLsb' 32 32 else v.extractLsb' 0 32

/-- An offset within `n` entries of a stride, as the entry's number. -/
def entryAt (o base stride n : Nat) : Option Nat := if base ≤ o ∧ o < base + stride * n then some ((o - base) / stride) else none

/-! ### DIE (R9, R14, R27, R35, R361, R381, R403, R407, R414) -/

def dieId (d : Die) : BitVec 32 := packed 32 [(20, 12, 0x5A1), (12, 4, d.ident.variant.toNat)]

def diePkg (d : Die) : BitVec 32 :=
  let i := d.ident
  packed 32 [(31, 1, b2n i.granted), (30, 1, b2n i.grantConflict), (16, 4, i.protoLevel.toNat), (12, 4, i.hubGen.toNat),
    (8, 4, i.pkgType.toNat), (4, 1, i.half.toNat), (0, 2, i.dieNum.toNat)]

/-- DIE_CORES: ENABLED loads at fuse sense, and reads 480 even where sense has failed (DESIGN CHOICE, log entry 32). -/
def dieCores (d : Die) : BitVec 32 :=
  packed 32 [(16, 8, d.ident.excluded.toNat), (9, 1, b2n d.ident.countValid),
    (0, 9, if d.fuse.sensed then 480 - d.ident.excluded.toNat else 0)]

def dieBoot (d : Die) : BitVec 32 :=
  let b := d.boot
  packed 32 [(28, 4, b.step.toNat), (26, 2, b.kind.toNat), (25, 1, b2n b.fastLink), (24, 1, b2n b.destructive),
    (23, 1, b2n b.selftestFull), (16, 5, b.calDefault.toNat), (8, 8, b.fail.toNat), (0, 8, b.boots.toNat)]

def dieFatalReg (d : Die) : BitVec 64 :=
  packed 64 [(63, 1, b2n d.flt.fatalValid), (48, 8, d.flt.fatalCause.toNat), (40, 8, d.flt.fatalCount.toNat),
    (0, 32, d.flt.fatalEpoch.toNat)]

def consReg (d : Die) (c i : Nat) : BitVec 64 :=
  match i with
  | 0 => tabGet 0 d.flt.snapIssued c
  | 1 => tabGet 0 d.flt.snapReturned c
  | 2 => tabGet 0 d.flt.snapLive c
  | _ => 0

def readDie (d : Die) (o : Nat) : BitVec 32 :=
  match o with
  | 0x00 => dieId d
  | 0x10 => diePkg d
  | 0x18 => half64 d.ident.refuseLog o
  | 0x1C => half64 d.ident.refuseLog o
  | 0x20 => d.ident.refuseCnt
  | 0x28 => dieCores d
  | 0x30 => dieBoot d
  | 0x38 => d.boot.bootTime
  | 0x3C => d.boot.grantWait
  | 0x40 => half64 (dieFatalReg d) o
  | 0x44 => half64 (dieFatalReg d) o
  | 0x48 => half64 d.flt.ce o
  | 0x4C => half64 d.flt.ce o
  | 0x50 => d.flt.imbal.setWidth 32
  | _ =>
    match entryAt o 0x100 4 16, entryAt o 0x140 4 16, entryAt o 0x200 4 32, entryAt o 0x400 32 10 with
    | some w, _, _, _ => d.ident.coreEn.extractLsb' (32 * w) 32
    | _, some w, _, _ => d.ident.coreFused.extractLsb' (32 * w) 32
    | _, _, some n, _ => d.boot.exclLog.getD n 0
    | _, _, _, some c => half64 (consReg d c ((o - 0x400) % 32 / 8)) o
    | _, _, _, _ => 0

/-! ### CLK, PWR, THM (R333, R338, R348, R352, R356) -/

/-- A frequency between those a slew runs from and to: where it stands is open. -/
def slewAt (d : Die) : Nat :=
  let a := min d.power.cpllMHz.toNat d.power.slewTo.toNat
  let b := max d.power.cpllMHz.toNat d.power.slewTo.toNat
  a + (freeVal d 0).toNat % (b - a + 1)

def readClk (d : Die) (o : Nat) : BitVec 32 :=
  let p := d.power
  match o with
  | 0x00 => packed 32 [(31, 1, b2n p.refclkOk), (30, 1, b2n p.lpllLock), (29, 1, b2n p.cpllLock), (28, 1, b2n p.clkLost),
      (0, 13, if p.slewing then slewAt d else p.cpllMHz.toNat)]
  | 0x08 => half64 p.refCnt o
  | 0x0C => half64 p.refCnt o
  | _ => 0

def fuseFloor (d : Die) (c : Nat) : Nat := if c < 18 then fuseData d (0x010 + c / 3) / 2 ^ (16 * (c % 3)) % 65536 else 0

def pwrOp (d : Die) : BitVec 32 :=
  let p := d.power
  packed 32 [(31, 1, b2n p.gliding), (24, 3, p.maxOp.toNat), (20, 3, p.opL.toNat), (16, 3, p.target.toNat),
    (12, 3, p.effective.toNat), (8, 3, p.current.toNat), (0, 5, p.duty.toNat)]

def pwrBudget (d : Die) : BitVec 64 :=
  packed 64 [(63, 1, b2n d.power.safe), (32, 16, d.power.bseq.toNat), (0, 16, d.power.budget.toNat)]

def pwrEst (d : Die) : BitVec 64 :=
  let p := d.power
  packed 64 [(48, 16, p.demand.toNat), (32, 16, p.static_.toNat), (16, 16, p.est16.toNat), (0, 16, p.est.toNat)]

def pwrStatus (d : Die) : BitVec 32 :=
  let p := d.power
  packed 32 [(31, 1, b2n p.capUnmet), (30, 1, b2n p.safe), (29, 1, b2n p.hotLimit), (28, 1, b2n p.limitBudget),
    (27, 1, b2n p.limitThermal), (0, 24, p.windows.toNat)]

def pwrDom (d : Die) (n : Nat) : BitVec 64 :=
  let m := tabGet Domain.reset d.power.domains n
  packed 64 [(48, 16, m.droops.toNat), (16, 32, m.skipped.toNat), (15, 1, b2n m.skipping), (8, 4, m.trim.toNat),
    (0, 6, m.setpoint.toNat)]

def readPwr (d : Die) (o : Nat) : BitVec 32 :=
  match o with
  | 0x00 => pwrOp d
  | 0x04 => d.power.ceil.setWidth 32
  | 0x08 => half64 (pwrBudget d) o
  | 0x0C => half64 (pwrBudget d) o
  | 0x10 => half64 (pwrEst d) o
  | 0x14 => half64 (pwrEst d) o
  | 0x18 => pwrStatus d
  | 0x1C => d.power.pref
  | _ =>
    match entryAt o 0x100 4 19, entryAt o 0x200 4 80, entryAt o 0x400 8 16 with
    | some c, _, _ => packed 32 [(16, 16, if d.fuse.sensed then fuseFloor d c else 0), (0, 16, (tabGet 0 d.power.weights c).toNat)]
    | _, some n, _ => tabGet 0 d.power.leaks n
    | _, _, some n => half64 (pwrDom d n) o
    | _, _, _ => 0

def thmStatus (d : Die) : BitVec 64 :=
  let p := d.power
  packed 64 [(63, 1, b2n p.tripped), (48, 8, p.trips.toNat), (40, 5, p.hottestIdx.toNat), (16, 16, p.peak.toNat),
    (0, 16, p.hottest.toNat)]

def readThm (d : Die) (o : Nat) : BitVec 32 :=
  match o with
  | 0x80 => d.power.thmHot.setWidth 32
  | 0x88 => half64 (thmStatus d) o
  | 0x8C => half64 (thmStatus d) o
  | _ => match entryAt o 0 4 24 with
    | some i => tabGet 0 d.power.sensors i
    | none => 0

/-! ### FUSE and KH (R363, R364, R368, R395 to R398) -/

/-- A word as loaded at fuse sense and after each programming event. -/
def fuseLoaded (d : Die) (n : Nat) : BitVec 64 := tabGet 0 d.fuse.seen n

/-- Words of a region that satisfy a test. -/
def fuseCount (d : Die) (lo n : Nat) (p : BitVec 64 → Bool) : Nat :=
  ((List.range n).filter (fun i => p (fuseLoaded d (lo + i)))).length

def secverFused (d : Die) : Nat := fuseCount d 0x264 64 fuseWritten
def logFree (d : Die) : Nat := fuseCount d 0x2FF 128 (fun w => !fuseWritten w)
def softLeft (d : Die) : Nat := fuseCount d 0x164 256 (fun w => !fuseWritten w)
def downLeft (d : Die) : Nat := fuseCount d 0x2FB 3 (fun w => !fuseWritten w)
def ownerBlank (d : Die) (i : Nat) : Bool := fuseCount d (0x2A4 + 11 * i) 11 fuseWritten == 0
def debugOff (d : Die) : Bool := fuseWritten (fuseLoaded d 0x2FE)

def fuseBadCount (d : Die) : Nat := ((List.range 1024).filter (fun n => fuseBad n (fuseLoaded d n))).length
def fuseIncCount (d : Die) : Nat := ((List.range 1024).filter (fun n => fuseIncomplete (fuseLoaded d n))).length

def fuseStatus (d : Die) : BitVec 32 :=
  let f := d.fuse
  packed 32 ([(31, 1, b2n f.sensed), (30, 1, b2n f.senseFail), (29, 1, b2n f.efusePg), (28, 1, b2n f.programming)] ++
    (if f.sensed then [(16, 7, secverFused d), (8, 8, min 255 (fuseBadCount d)), (0, 8, min 255 (fuseIncCount d))] else []))

def fuseUses (d : Die) : BitVec 64 :=
  if d.fuse.sensed then
    packed 64 ([(48, 9, softLeft d), (40, 8, logFree d), (33, 7, 64 - secverFused d), (32, 1, b2n (!debugOff d)), (30, 2, downLeft d)] ++
      (List.range 4).map (fun i => (26 + i, 1, b2n (ownerBlank d i))))
  else 0

/-- A word as agents other than the Keyholder read it. -/
def fuseSeen (d : Die) (n : Nat) : BitVec 64 :=
  if !d.fuse.sensed || (0x2A4 ≤ n && n ≤ 0x2FA) then 0 else fuseLoaded d n

def readFuse (d : Die) (o : Nat) : BitVec 32 :=
  match o with
  | 0x00 => fuseStatus d
  | 0x08 => half64 (fuseUses d) o
  | 0x0C => half64 (fuseUses d) o
  | _ =>
    match entryAt o 0x1000 8 128, entryAt o 0x2000 8 1024 with
    | some n, _ => half64 (fuseSeen d (0x2FF + n)) o
    | _, some n => half64 (fuseSeen d n) o
    | _, _ => 0

def khStatus (d : Die) : BitVec 32 :=
  let t := d.trust
  packed 32 [(31, 1, b2n t.khfwUp), (30, 1, b2n t.locked), (29, 1, b2n t.fallback), (26, 3, fld t.signers 0 3), (23, 3, fld t.signers 3 3),
    (20, 3, fld t.signers 6 3), (19, 1, fld t.slots 0 2), (18, 1, fld t.slots 2 2), (17, 1, fld t.slots 4 2), (16, 1, b2n t.busy)]

/-- SECONDS_LEFT: seconds of REFCLK taken from the session's. -/
def secondsLeft (d : Die) : Nat := d.trust.dbgSeconds.toNat - (d.power.refCnt.toNat - d.trust.dbgSince) / 10 ^ 8

def khDbg (d : Die) : BitVec 32 :=
  let t := d.trust
  packed 32 [(31, 1, b2n (d.fuse.sensed && debugOff d)), (30, 1, b2n t.dbgOpen), (25, 5, if t.dbgOpen then t.dbgScope.toNat else 0),
    (16, 4, t.dbgFails.toNat), (0, 12, secondsLeft d)]

def fwinCtl (w : Window) : BitVec 32 :=
  packed 32 [(31, 1, b2n w.open_), (30, 1, b2n w.closing), (29, 1, b2n w.granted), (25, 1, b2n w.w), (24, 1, b2n w.r),
    (16, 4, w.pairs.toNat)]

def readKh (d : Die) (o : Nat) : BitVec 32 :=
  match o with
  | 0x00 => khStatus d
  | 0x40 => khDbg d
  | _ => match entryAt o 0x100 32 8 with
    | some n =>
      let w := tabGet Window.reset d.trust.windows n
      match (o - 0x100) % 32 / 8 with
      | 0 => half64 w.base o
      | 1 => half64 w.limit o
      | 2 => if o % 8 = 0 then fwinCtl w else 0
      | _ => 0
    | none => 0

/-! ### PH, HL, MESH, TLY (R240, R244, R245, R256, R259, R270, R327, R328) -/

def readPh (d : Die) (o : Nat) : BitVec 32 :=
  match o with
  | 0x00 => half64 d.stew.own o
  | 0x04 => half64 d.stew.own o
  | 0x18 => half64 (d.stew.evtPending.setWidth 64) o
  | 0x1C => half64 (d.stew.evtPending.setWidth 64) o
  | 0x20 => packed 32 [(16, 16, d.stew.ownViol.toNat), (0, 16, d.stew.giveIgn.toNat)]
  | _ => 0

def hlStatus (d : Die) : BitVec 32 :=
  let l := d.link
  packed 32 [(28, 4, l.state.toNat), (24, 4, d.ident.protoLevel.toNat), (18, 6, gateCount l.agreed), (17, 1, b2n l.lastFast),
    (16, 1, b2n l.digestMismatch), (12, 4, l.attempts.toNat), (0, 12, l.discards.toNat)]

def modStat (m : Module) : BitVec 64 :=
  packed 64 [(61, 3, m.state.toNat), (38, 16, m.spares.toNat), (8, 8, m.txSeq.toNat), (0, 8, m.rxSeq.toNat)]

def modCnt (m : Module) : BitVec 64 := packed 64 [(48, 16, m.retrains.toNat), (32, 16, m.replays.toNat), (0, 32, m.crcErrors.toNat)]

def readHl (d : Die) (o : Nat) : BitVec 32 :=
  match o with
  | 0x00 => hlStatus d
  | 0x08 => packed 32 [(31, 1, b2n d.link.fastEn)]
  | 0x10 => d.link.offer
  | 0x14 => d.link.agreed
  | 0x18 => half64 d.link.digest o
  | 0x1C => half64 d.link.digest o
  | 0x20 => d.link.trainUs
  | _ => match entryAt o 0x1000 16 192 with
    | some n =>
      let m := tabGet Module.reset d.link.modules n
      if (o - 0x1000) % 16 < 8 then half64 (modStat m) o else half64 (modCnt m) o
    | none => 0

def meshPort (d : Die) (k : Nat) : BitVec 64 :=
  let c := BitVec.ofNat 9 k
  let x := getCore d c
  packed 64 [(63, 1, b2n x.portReset), (62, 1, b2n (d.fuse.sensed && !coreInUse d c)), (32, 8, x.portEpoch.toNat),
    (16, 12, x.portParty.toNat)]

def readMesh (d : Die) (o : Nat) : BitVec 32 :=
  match o with
  | 0x1000 => d.mesh.staleCnt
  | 0x1004 => d.mesh.resetCnt
  | 0x1008 => half64 d.mesh.nackLog o
  | 0x100C => half64 d.mesh.nackLog o
  | 0x1010 => d.mesh.linkCe
  | 0x1020 => d.mesh.gateUp
  | _ =>
    match entryAt o 0 8 512, entryAt o 0x1040 4 8 with
    | some k, _ => half64 (meshPort d k) o
    | _, some w => packed 32 ((List.range 4).map (fun n => (8 * n, 5, (tabGet 0 d.mesh.gateMap (4 * w + n)).toNat)))
    | _, _ => 0

def tlyStat (d : Die) (q : Nat) : BitVec 64 :=
  packed 64 [(36, 14, (d.tally.waiters.filter (fun w => w.unit.toNat == q && !w.held)).length), (0, 32, (tabGet 0 d.tally.staleWakes q).toNat)]

def readTly (d : Die) (o : Nat) : BitVec 32 :=
  match entryAt o 0 32 4 with
  | some q => match o % 32 / 8 with
    | 0 => half64 (tlyStat d q) o
    | 1 => half64 (tabGet 0 d.tally.ops q) o
    | _ => 0
  | none => 0

/-! ### LGR, LDG, TST (R203 to R209, R216, R225, R227, R228, R432, R435) -/

def readLgr (d : Die) (o : Nat) : BitVec 32 :=
  let l := d.ledger
  match o with
  | 0x00 => half64 l.dirBase o
  | 0x04 => half64 l.dirBase o
  | 0x10 => l.epoch
  | 0x14 => packed 32 [(31, 1, b2n l.gap)]
  | 0x20 => packed 32 [(16, 16, l.retCap.toNat), (0, 16, l.margin.toNat)]
  | 0x28 => packed 32 [(16, 16, l.lodgeLow.toNat), (0, 16, l.pkgLow.toNat)]
  | 0x40 => half64 l.arrayBase o
  | 0x44 => half64 l.arrayBase o
  | 0x48 => half64 l.arrayBytes o
  | 0x4C => half64 l.arrayBytes o
  | 0x50 => half64 l.poolBase o
  | 0x54 => half64 l.poolBase o
  | 0x58 => l.poolBerths
  | _ => match entryAt o 0x100 32 4 with
    | some q => match o % 32 with
      | 0 => tabGet 0 l.hits q
      | 4 => tabGet 0 l.misses q
      | _ => 0
    | none => 0

def ldgStatus (d : Die) : BitVec 32 :=
  let l := d.lodge
  packed 32 [(31, 1, b2n l.contentLost), (30, 1, b2n l.testDone), (29, 1, b2n l.hot), (24, 2, l.interval.toNat), (0, 16, l.passes.toNat)]

def readLdg (d : Die) (o : Nat) : BitVec 32 :=
  let l := d.lodge
  match o with
  | 0x00 => packed 32 [(31, 1, b2n l.softEn), (0, 8, l.softThresh.toNat)]
  | 0x08 => ldgStatus d
  | 0x10 => half64 l.ueLog o
  | 0x14 => half64 l.ueLog o
  | 0x18 => packed 32 [(16, 16, l.softOvf.toNat), (0, 9, l.softLog.length)]
  | _ =>
    match entryAt o 0x1000 8 512, entryAt o 0x2000 4 256 with
    | some k, _ => half64 (tabGet 0 l.slice k) o
    | _, some n => l.softLog.getD n 0
    | _, _ => 0

/-- TST_DBG_CTL and TST_DBG_REG are reached through DBG_ACCESS alone. -/
def readTst (d : Die) (dbg : Bool) (o : Nat) : BitVec 32 :=
  match o with
  | 0x00 => if dbg then d.test.dbgCtl else 0
  | 0x08 => if dbg then half64 d.test.dbgReg o else 0
  | 0x0C => if dbg then half64 d.test.dbgReg o else 0
  | 0x100 => d.test.loop
  | _ => match entryAt o 0x1000 8 192 with
    | some n => half64 (tabGet 0 d.test.loopRes n) o
    | none => 0

/-! ### CORE k (R61, R65, R68, R83, R86, R119, R123, R125, R126, R152, R157, R160, R161, R163, R170, R180, R248, R377, R380) -/

def ringStat (d : Die) (c : CoreId) (n : Nat) : BitVec 32 :=
  let r := getRing (getCore d c) n
  packed 32 [(31, 1, b2n (ringIdle d c n)), (28, 3, r.credits.toNat), (26, 2, r.head.toNat), (24, 2, r.tail.toNat), (8, 8, r.buf.toNat)]

def wbStat (x : Core) (n : Nat) : BitVec 32 :=
  let w := getWb x n
  packed 32 [(29, 3, w.state.toNat), (26, 3, w.pair.toNat), (0, 24, w.doneTiles.toNat)]

def readCore (d : Die) (c : CoreId) (o : Nat) : BitVec 32 :=
  let x := getCore d c
  match o with
  | 0x100 => arrStatus x
  | 0x108 => x.res0
  | 0x10C => x.res1
  | 0x120 => x.accCfg
  | 0x128 => half64 x.tag0 o
  | 0x12C => half64 x.tag0 o
  | 0x130 => half64 x.tag1 o
  | 0x134 => half64 x.tag1 o
  | 0x140 => x.abftCfg0
  | 0x144 => x.abftCfg1
  | 0x148 => x.abftFloor0
  | 0x14C => x.abftFloor1
  | 0x160 => x.tswLast0
  | 0x164 => x.tswLast1
  | 0x200 => half64 x.seed0 o
  | 0x204 => half64 x.seed0 o
  | 0x208 => half64 x.seed1 o
  | 0x20C => half64 x.seed1 o
  | 0x300 => half64 x.t0.vstat o
  | 0x304 => half64 x.t0.vstat o
  | 0x308 => half64 x.t1.vstat o
  | 0x30C => half64 x.t1.vstat o
  | 0x310 => half64 x.fault o
  | 0x314 => half64 x.fault o
  | 0x330 => half64 (BitVec.ofNat 64 (d.aclk - x.cyclesBase)) o
  | 0x334 => half64 (BitVec.ofNat 64 (d.aclk - x.cyclesBase)) o
  | 0x3F8 => packed 32 [(16, 16, x.flagLost.toNat), (0, 7, x.flagCount)]
  | 0x880 => x.stall0
  | 0x884 => x.stall1
  | 0xD00 => half64 (x.monRx.extractLsb' 0 64) o
  | 0xD04 => half64 (x.monRx.extractLsb' 0 64) o
  | 0xD08 => half64 (x.monRx.extractLsb' 64 64) o
  | 0xD0C => half64 (x.monRx.extractLsb' 64 64) o
  | 0xD10 => x.monStat
  | _ =>
    if 0x180 ≤ o ∧ o < 0x200 then tabGet 0 x.tsw ((o - 0x180) / 4)
    else if 0x400 ≤ o ∧ o < 0x600 then half64 (tabGet 0 x.flagMem ((o - 0x400) / 8)) o
    else if 0x800 ≤ o ∧ o < 0x840 then half64 (getRing x ((o - 0x800) / 8)).cfg o
    else if 0x840 ≤ o ∧ o < 0x860 then ringStat d c ((o - 0x840) / 4)
    else if 0x860 ≤ o ∧ o < 0x880 then wbStat x ((o - 0x860) / 4)
    else if 0x900 ≤ o ∧ o < 0xB00 then (getWb x ((o - 0x900) / 64)).bits.extractLsb' (8 * ((o - 0x900) % 64)) 32
    else if 0xC00 ≤ o ∧ o < 0xC40 then
      half64 (tabGet 0 (if o < 0xC20 then x.win0 else x.win1) ((o - 0xC00) % 32 / 8)) o
    else if 0xD20 ≤ o ∧ o < 0xD40 then half64 (tabGet 0 x.monTdig ((o - 0xD20) / 8)) o
    else 0

/-! ### The whole space (R33, R34) -/

/-- Whether an offset lies in a block: the CORE block of a core that is not in use is unmapped. -/
def regMapped (d : Die) (o : Nat) : Bool :=
  decide (o < 0x200000) || (decide (0x800000 ≤ o ∧ o < 0x2800000) && coreInUse d (BitVec.ofNat 9 ((o - 0x800000) / 0x10000)))

/-- The 32 bits at an offset that is a multiple of 4. -/
def regRead (d : Die) (dbg : Bool) (o : Nat) : BitVec 32 :=
  if o < 0x10000 then readDie d o
  else if o < 0x20000 then readClk d (o - 0x10000)
  else if o < 0x30000 then readPwr d (o - 0x20000)
  else if o < 0x40000 then readThm d (o - 0x30000)
  else if o < 0x50000 then readFuse d (o - 0x40000)
  else if o < 0x60000 then readKh d (o - 0x50000)
  else if o < 0x80000 then readPh d (o - 0x60000)
  else if o < 0xC0000 then readHl d (o - 0x80000)
  else if o < 0x100000 then readMesh d (o - 0xC0000)
  else if o < 0x140000 then readTly d (o - 0x100000)
  else if o < 0x180000 then readLgr d (o - 0x140000)
  else if o < 0x1F0000 then readLdg d (o - 0x180000)
  else if o < 0x200000 then readTst d dbg (o - 0x1F0000)
  else if 0x800000 ≤ o ∧ o < 0x2800000 then readCore d (BitVec.ofNat 9 ((o - 0x800000) / 0x10000)) ((o - 0x800000) % 0x10000)
  else 0

/-- One byte of the control-register space (R5). -/
def regByte (d : Die) (dbg : Bool) (o : Nat) : Byte := BitVec.ofNat 8 ((regRead d dbg (o / 4 * 4)).toNat / 2 ^ (8 * (o % 4)))

end Sys2Proof.Machine
end

