-- ==== Sys2Proof/Machine/Pigeon.lean ====
section
/-! DEFINITION. Pigeonholes handed over and back, responses and events posted (R258 to R270); refusals (R14). -/

namespace Sys2Proof.Machine

/-! ### Refusals (R14) -/

def srcCode : Source → Nat
  | .host => 0
  | .peer _ => 1
  | .hub => 2
  | .foreign => 3

def srcDie : Source → Nat
  | .peer p => p.toNat
  | _ => 0

def rsUnmapped : Nat := 0
def rsClassDenied : Nat := 1
def rsWindowDenied : Nat := 2

/-- A refusal counted, and logged when none is. -/
def refuse (src : Source) (reason : Nat) (write : Bool) (addr : BitVec 48) (d : Die) : Die :=
  let i := d.ident
  let e := packed 64 [(63, 1, 1), (61, 2, srcCode src), (59, 2, reason), (58, 1, b2n write), (56, 2, srcDie src), (0, 48, addr.toNat)]
  { d with ident := { i with refuseCnt := satInc i.refuseCnt, refuseLog := if bitB i.refuseLog 63 then i.refuseLog else e } }

/-! ### Hand-over (R13, R260, R261) -/

/-- The hub link carries requests to the die: it is ACTIVE, and nothing holds the die in reset (R11). -/
def linkServes (d : Die) : Bool := d.link.state == 7 && !inReset d

/-- The bits set in a number of 64 bits, lowest first. -/
def setBits (v : BitVec 64) : List Nat := (List.range 64).filter (fun n => bitB v n)

/-- The first byte of a write of PH_GIVE: the byte of its lowest set bit (R14; a write of other bytes hands nothing over). -/
def giveAddr (d : Die) (v : BitVec 64) : BitVec 48 :=
  BitVec.ofNat 48 (windowBase d.ident.dieNum.toNat + regsBase + 0x60008 + (setBits v).headD 0 / 8)

/-- The bits of PH_GIVE that a source class may set (R13). -/
def giveMask : Source → BitVec 64
  | .host => 0x0000FFFFFFFFFFFF#64
  | .peer _ => 0x00FF000000000000#64
  | .hub => 0
  | .foreign => 0xFF00000000000000#64

/-- An open window allows a hand-over whole: every foreign pair it names (R16). -/
def windowGives (v : BitVec 64) (w : Window) : Bool :=
  w.open_ && !w.closing && (List.range 4).all (fun i => w.pairs.getLsbD i || !(bitB v (56 + i) || bitB v (60 + i)))

/-- Why a write of PH_GIVE is refused; none when it is admitted whole. -/
def giveDeny (d : Die) (src : Source) (v : BitVec 64) : Option Nat :=
  if v &&& ~~~(giveMask src) ≠ 0 then some rsClassDenied
  else match src with
    | .foreign => if (List.range 8).any (fun i => windowGives v (tabGet Window.reset d.trust.windows i)) then none else some rsWindowDenied
    | _ => none

/-- The source that writes a request pigeonhole; none for one that carries responses. -/
def phSource (n : Nat) : Option Source :=
  if n < 32 then some .host
  else if 48 ≤ n ∧ n < 56 then some (.peer (BitVec.ofNat 2 ((n - 48) / 2)))
  else if 56 ≤ n ∧ n < 60 then some .foreign
  else none

def ignoreGive (d : Die) : Die := { d with stew := { d.stew with giveIgn := satInc d.stew.giveIgn } }

/-- One pigeonhole handed over: a request is taken with its 256 bytes, an empty response pigeonhole is held. -/
def giveOne (d : Die) (n : Nat) : Die :=
  if unusedPh d n || owns d n then ignoreGive d
  else
    let d1 := setOwn d n true
    match phSource n with
    | some src => { d1 with stew := { d1.stew with
        requests := d1.stew.requests ++ [⟨src, BitVec.ofNat 8 n, false, false, d.stew.taken, memRead d.mem (pigeonBase n) 256⟩],
        taken := d1.stew.taken + 1 } }
    | none => d1

/-- The Steward answers what needs no command of its own: requests of no known opcode, and counts that wait for a pigeonhole. -/
def stewardTurn (d : Die) : Die := if stewardUp d then postPending (answerUnknown d.stew.requests.length d) else d

/-- The hand-over of a set of pigeonholes, in their order. -/
def giveBits (v : BitVec 64) (d : Die) : Die := stewardTurn ((setBits v).foldl giveOne d)

/-- PH_GIVE, a request over the hub link (R11): refused whole, or its bits handed over. -/
def effPhGive (src : Source) (v : BitVec 64) (d : Die) : Die :=
  if !linkServes d then d
  else match giveDeny d src v with
    | none => giveBits v d
    | some r => refuse src r true (giveAddr d v) d

/-! ### Release (R259, R262) -/

/-- A request pigeonhole released before its answer stays released. -/
def markFreed (d : Die) (n : Nat) : Die :=
  let f (m : Msg) : Msg := if m.ph.toNat = n then { m with freed := true } else m
  { d with stew := { d.stew with requests := d.stew.requests.map f, responses := d.stew.responses.map f } }

/-- PH_RELEASE: the pigeonholes the Steward holds, of those named, go to their outside parties. -/
def effPhRelease (v : BitVec 64) (d : Die) : Die :=
  if inReset d then d else (setBits v).foldl (fun e n => if owns e n then markFreed (releasePh n false e) n else e) d

/-! ### Responses and events (R268, R270) -/

/-- A foreign pair's response waits until a window covers it (R264). -/
def postable (d : Die) (m : Msg) : Bool := match m.src with
  | .foreign => foreignOpen d (msgPair m)
  | _ => true

/-- READY goes before any other message; no event is posted before it. -/
def readyFirst (d : Die) : Option Event := d.stew.events.find? (fun e => e.kind == 0x0001#16)

/-- RESPONSE_POST: response n, when it is its destination's oldest and a pigeonhole is held. -/
def effResponsePost (n : Nat) (d : Die) : Die :=
  match d.stew.responses[n]? with
  | none => d
  | some m =>
    if (d.stew.responses.take n).any (fun y => respDst y == respDst m) || !postable d m || (readyFirst d).isSome then d
    else match heldPh d (respDst m) with
      | none => d
      | some k =>
        let d1 := releasePh k m.poll (writePh d k m.bytes)
        let d2 := { d1 with stew := { d1.stew with responses := d1.stew.responses.eraseIdx n } }
        postPending (if m.freed then d2 else setOwn d2 m.ph.toNat false)

/-- EVENT_POST: the oldest event, READY first; with no event, the PENDING event when one is due. -/
def effEventPost (d : Die) : Die :=
  if !stewardUp d then d
  else match readyFirst d, d.stew.events with
    | some e, _ => postNow { d with stew := { d.stew with events := d.stew.events.erase e } } e
    | none, e :: rest => postNow { d with stew := { d.stew with events := rest } } e
    | none, [] => postPending d

def execPhGive (src : Source) (bits : BitVec 64) (s : State) := onDie (effPhGive src bits) s
def execPhRelease (bits : BitVec 64) (s : State) := onDie (effPhRelease bits) s
def execResponsePost (n : Nat) (s : State) := onDie (effResponsePost n) s
def execEventPost (s : State) := onDie effEventPost s

end Sys2Proof.Machine
end

