-- ==== Sys2Proof/Machine/Hub.lean ====
section
/-! DEFINITION. Requests that reach the die from the hub and over the mesh (R11 to R16, R196, R201, R242, R305), responses to the die's
own requests (R306), mesh packets, refusals and NACKs (R233, R242, R243). -/

namespace Sys2Proof.Machine

/-! ### What a request may touch (R12, R13, R34) -/

/-- The region of a die-local byte. -/
inductive Region where
  | slice (c : CoreId) (off : Nat)
  | store (c : CoreId) (off : Nat)
  | ssram
  | reg (off : Nat)
  | pigeon (n : Nat)
  | unmapped
deriving DecidableEq, Repr

def regionOf (d : Die) (o : Nat) : Region :=
  match slotOfOffset d o with
  | some (c, true, x) => .slice c x
  | some (c, false, x) => .store c x
  | none =>
    if 0x200000000 ≤ o ∧ o < 0x200800000 then .ssram
    else if 0x300000000 ≤ o ∧ o < 0x304000000 then (if regMapped d (o - 0x300000000) then .reg (o - 0x300000000) else .unmapped)
    else if 0x304000000 ≤ o ∧ o < 0x304004000 then .pigeon ((o - 0x304000000) / 256)
    else .unmapped

/-- An open window allows a byte of a Lodge slice or a core store. -/
def windowAllows (w : Window) (write : Bool) (o : Nat) : Bool :=
  w.open_ && !w.closing && (if write then w.w else w.r) && decide (w.base.toNat ≤ o) && decide (o < w.limit.toNat + 64)

/-- An open window allows a foreign pigeonhole or hand-over byte. -/
def windowPairs (w : Window) (i : Nat) : Bool := w.open_ && !w.closing && w.pairs.getLsbD i

/-- The access table for one byte: none when it is allowed, else the reason. `win` is the window a FOREIGN request goes through. -/
def denyByte (d : Die) (src : Source) (win : Window) (write : Bool) (o : Nat) : Option Nat :=
  match regionOf d o, src with
  | .unmapped, _ => some rsUnmapped
  | .slice _ _, .host => if write then some rsClassDenied else none
  | .store _ _, .host => if write then some rsClassDenied else none
  | .slice _ _, .foreign => if windowAllows win write o then none else some rsWindowDenied
  | .store _ _, .foreign => if windowAllows win write o then none else some rsWindowDenied
  | .slice _ _, _ => none
  | .store _ _, _ => none
  | .ssram, _ => some rsClassDenied
  | .reg r, .host => if !write || (0x60008 ≤ r && r < 0x6000E) then none else some rsClassDenied
  | .reg r, .hub => if write then some rsClassDenied else if r < 0x200000 || 0x800000 ≤ r then none else some rsClassDenied
  | .reg r, .peer _ => if write && r == 0x6000E then none else some rsClassDenied
  | .reg r, .foreign =>
    if r = 0x6000F && write then
      (if win.open_ && !win.closing && win.pairs != 0 then none else some rsWindowDenied)
    else some rsClassDenied
  | .pigeon n, .host => if n < 48 then none else some rsClassDenied
  | .pigeon n, .peer _ => if 48 ≤ n && n < 56 then none else some rsClassDenied
  | .pigeon n, .foreign => if 56 ≤ n then (if windowPairs win (n % 4) then none else some rsWindowDenied) else some rsClassDenied
  | .pigeon _, .hub => some rsClassDenied

/-- The first byte of a request that is refused. -/
def denyRange (d : Die) (src : Source) (win : Window) (write : Bool) (o n : Nat) : Option Nat :=
  ((List.range n).filterMap (fun i => denyByte d src win write (o + i))).head?

/-- The same over the runs of a request: what the first refused byte says. -/
def denyRuns (d : Die) (src : Source) (win : Window) (write : Bool) (runs : List (Nat × Nat)) : Option Nat :=
  (runs.filterMap (fun r => denyRange d src win write r.1 r.2)).head?

/-- The windows that allow a FOREIGN request whole (R16). -/
def admittingWindows (d : Die) (write : Bool) (runs : List (Nat × Nat)) : List Nat :=
  (List.range 8).filter (fun i => (denyRuns d .foreign (tabGet Window.reset d.trust.windows i) write runs).isNone)

/-- A request is admitted when every byte is allowed; a FOREIGN one when one open window allows it whole (R13, R16). -/
def deny (d : Die) (src : Source) (write : Bool) (runs : List (Nat × Nat)) : Option Nat :=
  match src with
  | .foreign => if (admittingWindows d write runs).isEmpty then denyRuns d src Window.reset write runs else none
  | _ => denyRuns d src Window.reset write runs

/-- A window that allows everything: the window check of a FOREIGN request was made at its gate (R16), and the core it is delivered to
makes the rest of R13's. -/
def gateWindow : Window := { Window.reset with base := 0, limit := 0xFFFFFFFFFF, open_ := true, w := true, r := true, pairs := 15 }

/-- Why an admitted request is refused where it is delivered (R242). -/
def denyAtCore (d : Die) (src : Source) (write : Bool) (runs : List (Nat × Nat)) : Option Nat := denyRuns d src gateWindow write runs

/-! ### Reads -/

def stOK : BitVec 3 := 0
def stError : BitVec 3 := 1
def stRefused : BitVec 3 := 2
def stUE : BitVec 3 := 3

/-- One byte as an admitted request reads it. -/
def hubByte (d : Die) (o : Nat) : Byte :=
  match regionOf d o with
  | .reg r => regByte d false r
  | .ssram => 0
  | .unmapped => 0
  | _ => memGet d.mem o

/-- A line of data: the bytes asked for in their places; the others are free. -/
def lineData (d : Die) (l : List (Nat × Byte)) : BitVec 1024 :=
  BitVec.ofNat 1024 (leNat ((List.range 128).map (fun i => match l.find? (fun p => p.1 == i) with
    | some p => p.2
    | none => (freeVal d i).setWidth 8)))

/-- The core in use whose port, in reset, refuses the request (R242). -/
def portRefuses (d : Die) (o : Nat) : Option CoreId := match slotOfOffset d o with
  | some (c, _, _) => if (getCore d c).portReset then some c else none
  | none => none

def gateEndpoint (g : BitVec 5) : BitVec 12 := BitVec.ofNat 12 (8 * (15 * 32 + g.toNat) + 4)

/-- A request of outside from its gate: its source, whether its window check is still to be made there, the line it names, and the runs
of bytes it touches within the line. -/
structure LineAsk where
  src : Source
  gated : Bool
  line : BitVec 48
  runs : List (Nat × Nat)
  endpoint : BitVec 12
deriving DecidableEq, Repr

/-- Package address of the first byte. -/
def LineAsk.addr (r : LineAsk) : BitVec 48 := r.line + BitVec.ofNat 48 ((r.runs.head?.map (·.1)).getD 0)

/-- The granules of its REQ packet. -/
def LineAsk.mask (r : LineAsk) : BitVec 8 := r.runs.foldl (fun m x => m ||| granules x.1 x.2) 0

/-- A request to a core in reset refused by its port: a REQ packet of the gate, whose mesh TAG the spec leaves open (R242, R243). -/
def portRefusal (d : Die) (r : LineAsk) (write : Bool) (c : CoreId) : Die :=
  drew (refuseAtPort d 0 0 (b2n write) (coreEndpoint c) r.endpoint 0 0 ((freeVal d 0).setWidth 9)
    (reqArg r.mask r.line.toNat ||| packed 64 [(56, 2, srcCode r.src)]))

/-- What an outside request meets: an unmapped line, the window check of its gate, a core in reset, the rest of R13; else its place in
the die. -/
inductive AskTo where
  | refused (reason : Nat)
  | reset (c : CoreId)
  | at_ (o : Nat)
deriving DecidableEq, Repr

def askTo (d : Die) (r : LineAsk) (write : Bool) : AskTo :=
  match ownOffset d r.addr.toNat with
  | none => .refused rsUnmapped
  | some o =>
    let first := (r.runs.head?.map (·.1)).getD 0
    let runs := r.runs.map (fun x => (o + x.1 - first, x.2))
    match (if r.gated && r.src == .foreign then deny d r.src write runs else none) with
    | some k => .refused k
    | none => match portRefuses d o with
      | some c => .reset c
      | none => match (if r.gated then deny d r.src write runs else denyAtCore d r.src write runs) with
        | some k => .refused k
        | none => .at_ (o - first)

/-- An outside read: the status, the bytes at their places in the line, and the die after it. -/
def outsideRead (d : Die) (r : LineAsk) : BitVec 3 × List (Nat × Byte) × Die :=
  match askTo d r false with
  | .refused k => (stRefused, [], refuse r.src k false r.addr d)
  | .reset c => (stError, [], portRefusal d r false c)
  | .at_ o => match slotOfOffset d (o + r.addr.toNat - r.line.toNat) with
    | some (c, true, x) =>
      let base := x - (r.addr.toNat - r.line.toNat)
      let sensed := r.runs.foldl (fun e y => senseRows srcOutside c (base + y.1) y.2 e) d
      match (r.runs.filterMap (fun y => ueIn d c (base + y.1) y.2)).head? with
      | some _ => (stUE, [], sensed)
      | none => (stOK, r.runs.flatMap (fun y => (List.range y.2).map (fun i => (y.1 + i, memGet d.mem (o + y.1 + i)))), sensed)
    | _ => (stOK, r.runs.flatMap (fun y => (List.range y.2).map (fun i => (y.1 + i, hubByte d (o + y.1 + i)))), d)

/-! ### Writes -/

/-- A write to a pigeonhole the Steward holds, or an unused one, changes nothing and is counted (R261). -/
def pigeonWrite (d : Die) (o : Nat) (l : List Byte) (n : Nat) : Die :=
  if unusedPh d n || owns d n then { d with stew := { d.stew with ownViol := satInc d.stew.ownViol } }
  else { d with mem := memWrite d.mem o l }

/-- What a write of bytes at a place of PH_GIVE sets. -/
def giveWord (o : Nat) (l : List Byte) : BitVec 64 := BitVec.ofNat 64 (leNat l * 2 ^ (8 * (o - (regsBase + 0x60008))))

/-- An admitted write carried out. -/
def hubPut (d : Die) (o : Nat) (l : List Byte) : Die :=
  match regionOf d o with
  | .slice c x => putSlice srcOutside d c x l
  | .store c x => putStore d c x l
  | .pigeon n => pigeonWrite d o l n
  | .reg _ => giveBits (giveWord o l) d
  | _ => d

/-- An outside write of bytes by their places in the line: the status and the die after it. A FOREIGN hand-over reaches only the pairs of
one window. -/
def outsideWrite (d : Die) (r : LineAsk) (byte : Nat → Byte) : BitVec 3 × Die :=
  match askTo d r true with
  | .refused k => (stRefused, refuse r.src k true r.addr d)
  | .reset c => (stError, portRefusal d r true c)
  | .at_ o =>
    let bytes (y : Nat × Nat) : List Byte := (List.range y.2).map (fun i => byte (y.1 + i))
    match (r.runs.filterMap (fun y => match regionOf d (o + y.1) with
        | .reg _ => giveDeny d r.src (giveWord (o + y.1) (bytes y))
        | _ => none)).head? with
    | some k => (stRefused, refuse r.src k true r.addr d)
    | none => (stOK, r.runs.foldl (fun e y => hubPut e (o + y.1) (bytes y)) d)

/-! ### Requests from the hub (R11, R305, R306) -/

/-- The link carries requests, and the gate is up or draining. -/
def gateCarries (d : Die) (g : BitVec 5) : Bool := linkServes d && (bitB d.link.agreed g.toNat || d.link.draining.contains g)

/-- What a request of the hub asks. -/
def hubAsk (r : HubReq) : LineAsk :=
  ⟨r.src, true, BitVec.ofNat 48 (r.addr.toNat / 128 * 128), [(r.addr.toNat % 128, r.len.toNat)], gateEndpoint r.gate⟩

/-- The windows that admit a FOREIGN request keep its gate and tag until its response has left (R16). -/
def admitForeign (d : Die) (r : HubReq) (write : Bool) (v : BitVec 64) : Die :=
  match r.src, ownOffset d r.addr.toNat with
  | .foreign, some o =>
    let through (i : Nat) : Bool := (admittingWindows d write [(o, r.len.toNat)]).contains i &&
      (match regionOf d o with
       | .reg _ => windowGives v (tabGet Window.reset d.trust.windows i)
       | _ => true)
    { d with trust := { d.trust with windows := tabMap Window.reset (fun i w =>
        let kept := w.admitted.filter (fun p => !(p == (r.gate, r.tag)))
        { w with admitted := if through i then kept ++ [(r.gate, r.tag)] else kept }) d.trust.windows } }
  | _, _ => d

/-- A hub request accepted: one more of class 1, and its mesh packets of class 3 injected and delivered. -/
def served (d : Die) : Die := cons (cons d 1 1 0) 3 2 2

/-- HUB_READ_REQUEST: answered with the line's data, or a status and zeros. -/
def effHubRead (r : HubReq) (d : Die) : Die :=
  if !gateCarries d r.gate then d
  else
    let (st, l, d1) := outsideRead (admitForeign d r false 0) (hubAsk r)
    let data : BitVec 1024 := if st = stOK then lineData d1 l else 0
    drew (emitResponse (served d1) r.gate r.addr.toNat (.response r.gate r.tag st (some data)) 2)

/-- HUB_WRITE_REQUEST: the line's bytes that the request touches are written. -/
def effHubWrite (r : HubReq) (data : BitVec 1024) (d : Die) : Die :=
  if !gateCarries d r.gate then d
  else
    let byte (i : Nat) : Byte := data.extractLsb' (8 * i) 8
    let v := giveWord ((ownOffset d r.addr.toNat).getD 0) ((List.range r.len.toNat).map (fun i => byte (r.addr.toNat % 128 + i)))
    let (st, d1) := outsideWrite (admitForeign d r true v) (hubAsk r) byte
    emitResponse (served d1) r.gate r.addr.toNat (.response r.gate r.tag st none) 1

/-! ### Responses to the die's requests (R306) -/

/-- A tag freed; a request that waits at its gate takes it. -/
def freeHubTag (d : Die) (t : HubTag) : Die :=
  let l := { d.link with tags := d.link.tags.erase t }
  let d1 := cons { d with link := l } 0 0 1
  match l.atGate.find? (fun r => r.gate == t.gate) with
  | none => d1
  | some r => gateSend { d1 with link := { d1.link with atGate := d1.link.atGate.erase r } } r

/-- The line or write a response belongs to is given it. -/
def routeRsp (d : Die) (who : HubWait) (st : BitVec 3) (data : BitVec 1024) : Die :=
  match who with
  | .porterLine c tag => modCore d c (fun x => { x with lines := x.lines.map (fun l =>
      if l.tag = tag && !l.onDie then { l with rsp := some (st.setWidth 8, data) } else l) })
  | .porterWrite c tag => modCore d c (fun x => { x with writes := x.writes.map (fun l =>
      if l.tag = tag && !l.onDie then { l with rsp := some (st.setWidth 8) } else l) })

/-- A response of a kind to the request that holds a gate's tag. -/
def effRsp (write : Bool) (gate : BitVec 5) (tag : BitVec 12) (st : BitVec 3) (data : BitVec 1024) (d : Die) : Die :=
  match d.link.tags.find? (fun t => t.gate == gate && t.tag == tag && t.write == write) with
  | none => d
  | some t => routeRsp (freeHubTag d t) t.who st (if st = 0 then data else 0)

/-! ### Mesh packets (R233 to R243) -/

/-- STREAM TYPE of the core-monitor broadcast. -/
def tyBroadcast : BitVec 4 := 3

/-- The answer to a REQ or a lookup on its way back to the source: one flit. -/
def replyTo (p : Packet) (cls : BitVec 2) (typ : BitVec 4) (party : BitVec 12) (epoch : BitVec 8) (arg : BitVec 64) (data : BitVec 1024) :
    Packet := { cls := cls, lenm1 := 0, typ := typ, dest := p.src, src := p.dest, party := party, epoch := epoch, tag := p.tag,
                arg := arg, data := data }

/-- The member a STREAM flit is for: by the kind and ID in its head, an end that receives. -/
def streamMember (x : Core) (p : Packet) : Option Member :=
  let k : LinkKind := match p.typ.toNat with | 0 => .caravan | 1 => .relay | _ => .chain
  x.members.find? (fun m => m.kind == k && m.id == p.arg.extractLsb' 28 12 && m.up.isSome)

/-- A packet refused by a core's port: counted, logged, a NACK injected with party 0, each STREAM flit counted as discarded. -/
def refusePacket (d : Die) (c : CoreId) (p : Packet) (reason : Nat) : Die :=
  let d1 := refuseAtPort d reason p.cls.toNat p.typ.toNat p.dest p.src p.party p.epoch p.tag p.arg
  if p.cls = 2 && p.typ.toNat < 3 then (match streamMember (getCore d1 c) p with | some m => discardFlit d1 c m | none => d1) else d1

/-- The source class of a REQ: as marked when it entered at a gate, which does not say which die a PEER is; a request of this die's own
has the access of the die. -/
def reqSource (d : Die) (p : Packet) : Source :=
  if p.src.toNat % 8 = 4 then (match fld p.arg 56 2 with
    | 0 => .host
    | 1 => .peer ((freeVal d 2000).setWidth 2)
    | 2 => .hub
    | _ => .foreign)
  else .hub

/-- What a REQ asks: the granules of its mask (R235). -/
def reqAsk (d : Die) (p : Packet) : LineAsk :=
  ⟨reqSource d p, false, BitVec.ofNat 48 (fld p.arg 0 48 / 128 * 128),
   ((List.range 8).filter (fun i => bitB p.arg (48 + i))).map (fun i => (16 * i, 16)), p.src⟩

/-- A REQ delivered to a core: carried out under R13 and R14, and answered; a reserved TYPE does nothing. -/
def serveReq (d : Die) (p : Packet) : Die :=
  let rsp (e : Die) (typ : BitVec 4) (arg : BitVec 64) (data : BitVec 1024) : Die :=
    cons (send e (.packet (replyTo p 1 typ p.party p.epoch arg data))) 3 1 1
  let r := reqAsk d p
  match p.typ.toNat with
  | 0 =>
    let (st, l, d1) := outsideRead d r
    drew (if st = stOK then rsp d1 0 (if r.runs.isEmpty then 1 else 0) (lineData d1 l) else rsp d1 2 (st.setWidth 64) 0)
  | 1 =>
    let (st, d1) := outsideWrite d r (fun i => p.data.extractLsb' (8 * i) 8)
    drew (if st = stOK then rsp d1 1 0 0 else rsp d1 2 (st.setWidth 64) 0)
  | _ => d

/-- The line or write of a core on this die that a tag names. -/
def hasReq (x : Core) (tag : BitVec 9) : Bool := x.lines.any (fun l => l.tag == tag) || x.writes.any (fun l => l.tag == tag)

/-- A RSP delivered to the request that waits for it: DATA to a line, ACK to a write, ERROR with its reason to the line or write whose
tag it names. `kinds` says whether a line and whether a write may be meant. -/
def takeRspAs (line write : Bool) (c : CoreId) (p : Packet) (d : Die) : Die :=
  let st : BitVec 8 := if p.typ = 2 then p.arg.extractLsb' 0 8 else 0
  modCore d c (fun x => { x with
    lines := if line then x.lines.map (fun l => if l.tag = p.tag then { l with rsp := some (st, p.data) } else l) else x.lines,
    writes := if write then x.writes.map (fun l => if l.tag = p.tag then { l with rsp := some st } else l) else x.writes })

/-- An ERROR is for the line of its tag, and for the write when no line has it: a tag is the core's own for one request at a time. -/
def takeRsp (c : CoreId) (p : Packet) (d : Die) : Die :=
  let line := (getCore d c).lines.any (fun l => l.tag == p.tag)
  match p.typ.toNat with
  | 0 => takeRspAs true false c p d
  | 1 => takeRspAs false true c p d
  | 2 => takeRspAs line (!line) c p d
  | _ => d

/-- A Ledger unit's answer at its core (R156): the entry's word. -/
def takeLedgerRsp (c : CoreId) (p : Packet) (d : Die) : Die :=
  let x := getCore d c
  match x.tags.find? (fun o => o.tag == p.tag && !o.remote) with
  | none => d
  | some o =>
    let d1 := setCore d c { x with tags := x.tags.erase o }
    let d2 := { d1 with ledger := { d1.ledger with waiting := d1.ledger.waiting.filter (fun w => !(w.core == c && w.tag == p.tag)) } }
    match o.kind with
    | .lookup rd => modThread d2 c o.thread (payReg rd .berth p.arg)
    | _ => d2

/-- The travelling wake a TALLY_WAKE packet is. -/
def sameWake (p : Packet) (w : Waiter) : Bool :=
  coreEndpoint (endpointCore w.endpoint) == p.dest && w.party == p.party && w.epoch == p.epoch && wakeWord w == p.arg

/-- A wake delivered, whether by this command or as TALLY_WAKE_DELIVERY. -/
def deliverWakePacket (d : Die) (c : CoreId) (p : Packet) : Die :=
  let d1 := match d.tally.flying.find? (sameWake p) with
    | some w => { d with tally := { d.tally with flying := d.tally.flying.erase w } }
    | none => d
  deliverWake d1 c p.party p.epoch (bitB p.arg 63) (bitB p.arg 62) (p.arg.extractLsb' 58 4) (p.arg.extractLsb' 32 16)

/-- A refused LEDGER_RSP: the lookup it answered is never answered; the core that asked has been reset or stopped (R243). -/
def dropLookup (c : CoreId) (tag : BitVec 9) (d : Die) : Die :=
  { d with ledger := { d.ledger with waiting := d.ledger.waiting.filter (fun w => !(w.core == c && w.tag == tag)) } }

/-- NACK_RECEIPT (R243), by what was refused: a REQ completes as an error response, a wake is counted, a Ledger answer is dropped, a
Steward packet is the Steward's; a RSP and a STREAM flit leave nothing to do. The NACK itself was counted when it was injected. -/
def effNack (p : Packet) (d : Die) : Die :=
  let refused := fld p.arg 60 2
  let typ := fld p.arg 56 4
  let tag : BitVec 9 := p.arg.extractLsb' 47 9
  if p.dest.toNat % 8 = 0 && refused == 0 then
    takeRspAs (typ == 0) (typ == 1) (endpointCore p.dest) { p with typ := 2, tag := tag, arg := 1 } d
  else if p.dest.toNat % 8 = 1 && refused == 3 && typ == 1 then
    let q := match (List.range 4).find? (fun q => tallyEndpoint (BitVec.ofNat 2 q) == p.dest) with | some q => q | none => 0
    { d with tally := { d.tally with staleWakes := tabMod 0 d.tally.staleWakes q satInc } }
  else if p.dest.toNat % 8 = 2 && refused == 3 && typ == 4 then dropLookup (endpointCore p.src) tag d
  else d

/-- What a core's port does with a packet: none to deliver it, else the reason (R242). A BROADCAST is never refused (R377). -/
def portVerdict (d : Die) (c : CoreId) (p : Packet) : Option Nat :=
  let x := getCore d c
  if p.cls = 2 && p.typ == tyBroadcast then none
  else if x.portReset then some 0
  else match p.cls.toNat with
    | 0 => none
    | 1 => if hasReq x p.tag then none else some 1
    | _ => portCheck d c p.party p.epoch

/-- A packet delivered to its core. STREAM flits reach their rings by the arrival commands (R178, R182, R107), a core-monitor block by
the core's own command (R376). -/
def deliverPacket (d : Die) (c : CoreId) (p : Packet) : Die :=
  match p.cls.toNat, p.typ.toNat with
  | 0, _ => serveReq d p
  | 1, _ => takeRsp c p d
  | 3, 1 => deliverWakePacket d c p
  | 3, 4 => takeLedgerRsp c p d
  | 3, 6 => effNack p d
  | _, _ => d

/-- A tally request delivered to its unit: performed with the role its head carries (R249). -/
def tallyPacket (d : Die) (p : Packet) : Die :=
  let e : TallyEntry := ⟨if p.typ = 2 then 3 else 0, d.ident.dieNum, d.ident.dieNum, p.src, p.party, p.epoch, p.arg⟩
  let r : TallyReq := { entryReq e with tag := p.tag }
  match (List.range d.tally.reqs.length).find? (fun n => match d.tally.reqs[n]? with
      | some y => y.endpoint == r.endpoint && y.tag == r.tag && y.op == r.op && y.index == r.index
      | none => false) with
  | some n => if r.op = 5 then effTallyCancel n d else effTallyReq n d
  | none => d

/-- The Steward's endpoints (R31, R230). -/
def stewardEndpoint (east : Bool) : BitVec 12 := BitVec.ofNat 12 (8 * (if east then 16 else 15) + 3)

/-- The Steward's endpoint that serves a column (R231). -/
def stewardOf (col : Nat) : BitVec 12 := stewardEndpoint (decide (16 ≤ col % 32))

/-- A LEDGER_REQ delivered to its unit (R156, R214): a lookup of the handle in its argument, for the thread that has the tag open; the
answer goes back as a LEDGER_RSP with the role the head carried. A miss waits for its fill. -/
def ledgerPacket (q : BitVec 2) (p : Packet) (d : Die) : Die :=
  let c := endpointCore p.src
  let h : BitVec 48 := p.arg.extractLsb' 0 48
  match (getCore d c).tags.find? (fun o => o.tag == p.tag && !o.remote) with
  | none => d
  | some o =>
    let a := threadEntry d c o.thread h
    if !unitHas d q h a then
      if d.ledger.waiting.any (fun w => w.core == c && w.tag == p.tag) then d
      else { d with ledger := { d.ledger with waiting := d.ledger.waiting ++ [⟨q, c, p.tag, h, o.kind == .touch, p.party, p.epoch⟩] } }
    else match o.kind with
      | .touch => match a with | some a => touchEntry d q a | none => d
      | _ =>
        let v := match a with | some a => lookupWord d c (entryNow d a (freeVal d 0)) | none => lookupNone
        drew (cons (send (countLookup true q d) (.packet (replyTo p 3 4 p.party p.epoch v 0))) 3 1 1)

def quarterAt (e : BitVec 12) : BitVec 2 := BitVec.ofNat 2 (((List.range 4).find? (fun q => ledgerEndpoint (BitVec.ofNat 2 q) == e)).getD 0)

/-- The flits that a packet's delivery adds to the counts of class MESH_FLIT (R414): those of a RSP, a LEDGER_RSP and a NACK were counted
when they were sent; a packet is one flit but for the types R235 gives more. -/
def packetFlits (p : Packet) : Nat :=
  if p.cls = 1 || p.cls = 3 && (p.typ == 4 || p.typ == 6) then 0
  else if p.cls = 2 && p.typ == 3 || p.cls = 3 && p.typ == 5 then p.lenm1.toNat + 1 else 1

/-- A corrected bit on the links a packet has crossed counts in MESH_LINK_CE: how many there were is free (R233). -/
def linkErrors (d : Die) : Die :=
  let n := (freeVal d 3000).toNat % 2 ^ 32
  drew { d with mesh := { d.mesh with linkCe := BitVec.ofNat 32 (min 0xFFFFFFFF (d.mesh.linkCe.toNat + n)) } }

/-- MESH_PACKET_DELIVERY (R242): a core's port checks the head and delivers the packet or refuses it; unit, Steward and gate ports never
refuse. -/
def effPacket (p : Packet) (d0 : Die) : Die :=
  let d := cons (linkErrors d0) 3 (packetFlits p) (packetFlits p)
  let port := p.dest.toNat % 8
  if port = 0 then
    let c := endpointCore p.dest
    match portVerdict d c p with
    | some reason => refusePacket d c p reason
    | none => deliverPacket d c p
  else if p.cls = 3 && p.typ == 6 then effNack p d
  else if port = 1 && p.cls == 3 then tallyPacket d p
  else if port = 2 && p.cls == 3 && p.typ == 3 then ledgerPacket (quarterAt p.dest) p d
  else d

/-! ### The commands -/

def execHubReadRequest (r : HubReq) (s : State) := onDieIf (lineOk r) (effHubRead r) s
def execHubWriteRequest (r : HubReq) (data : BitVec 1024) (s : State) := onDieIf (lineOk r) (effHubWrite r data) s
def execRspData (gate : BitVec 5) (tag : BitVec 12) (status : BitVec 3) (data : BitVec 1024) (s : State) :=
  onDie (effRsp false gate tag status data) s
def execRspAck (gate : BitVec 5) (tag : BitVec 12) (status : BitVec 3) (s : State) := onDie (effRsp true gate tag status 0) s
def execMeshPacketDelivery (p : Packet) (s : State) := onDie (effPacket p) s
def execNackReceipt (p : Packet) (s : State) := onDie (effNack p) s
/-- MESH_UE (R233). -/
def execMeshUe (s : State) := onDie (raiseFatal dfMeshUe) s

end Sys2Proof.Machine
end

