-- ==== Sys2Proof/Machine/Requests.lean ====
section
/-! DEFINITION. Message rows: the arguments a request passes by package address (R265), the checks of R266 in their order, and what the die
reads and writes by package address for itself. -/

namespace Sys2Proof.Machine

/-! ### Package addresses (R10, R11, R265) -/

/-- The window of a die that is absent: no request to it completes (R11). -/
def absentDie (d : Die) (a : Nat) : Bool :=
  0x100000000000 ≤ a && a < 0x110000000000 && !(d.ident.dieNum :: otherDies d).contains (BitVec.ofNat 2 (a / 0x4000000000))

/-- The pieces of a range of the die's own slices: core, slice offset, length. -/
def slicePieces (d : Die) (o n : Nat) : List (CoreId × Nat × Nat) :=
  (List.range ((o % sliceSize + n + sliceSize - 1) / sliceSize)).filterMap (fun i =>
    let lo := max o ((o / sliceSize + i) * sliceSize)
    let hi := min (o + n) ((o / sliceSize + i + 1) * sliceSize)
    match slotOfOffset d lo with
    | some (c, true, x) => if lo < hi then some (c, x, hi - lo) else none
    | _ => none)

/-- A read of the die's own meets an uncorrectable row. -/
def argUe (d : Die) (a n : Nat) : Bool := match ownOffset d a with
  | some o => (slicePieces d o n).any (fun p => (ueIn d p.1 p.2.1 p.2.2).isSome)
  | none => false

/-- Whether a range can be read, or written: package memory within its capacity, and what HUB-class traffic may reach of the die's own
space; a window of an absent die cannot, and of the other spaces the hub decides, which is a free value. -/
def argOk (d : Die) (write : Bool) (a n fr : Nat) : Bool :=
  if n = 0 then true
  else if a + n ≤ pkgTop d then true
  else match ownOffset d a with
    | some o => (deny d .hub write [(o, n)]).isNone && (write || !argUe d a n)
    | none => decide (0x100000000000 ≤ a ∧ a + n ≤ 2 ^ 48) && !absentDie d a && !absentDie d (a + n - 1) && bitB (freeVal d (0x7000 + fr)) 0

def argRead (d : Die) (a n : Nat) : List Byte :=
  match ownOffset d a with
  | some o => (List.range n).map (fun i => hubByte d (o + i))
  | none => memRead d.pkg a n

/-- The rows that a read of the die's own checks (R191). -/
def argSense (a n : Nat) (d : Die) : Die := match ownOffset d a with
  | some o => (slicePieces d o n).foldl (fun e p => senseRows srcOutside p.1 p.2.1 p.2.2 e) d
  | none => d

def argWrite (d : Die) (a : Nat) (l : List Byte) : Die :=
  match ownOffset d a with
  | some o => match slotOfOffset d o with
    | some (_, true, _) =>
      (slicePieces d o l.length).foldl (fun e p => putSlice srcOutside e p.1 p.2.1 ((l.drop (p.1.toNat * sliceSize + p.2.1 - o)).take p.2.2)) d
    | _ => hubPut d o l
  | none => { d with pkg := memWrite d.pkg a l }

/-! ### The checks of R266 -/

/-- An argument of a request: whether the die writes it, its address, its length. -/
structure Arg where
  write : Bool
  addr : Nat
  len : Nat
deriving DecidableEq, Repr

def noArgs (_ : Die) (_ : Msg) : List Arg := []

def argsOk (d : Die) (l : List Arg) : Bool := l.zipIdx.all (fun p => argOk d p.1.write p.1.addr p.1.len p.2)

/-- The reads of arguments that failed: their rows are checked all the same. -/
def senseArgs (l : List Arg) (d : Die) : Die := l.foldl (fun e a => if a.write then e else argSense a.addr a.len e) d

/-- A message row: request n carries the opcode and its turn has come; what fails a check is answered, the rest is carried out.
Ledger messages wait until recovery has ended (R221, R357), and before a directory is placed they are answered PROTOCOL,
DETAIL 1 (R209). -/
def onRequest (n : Nat) (op : Nat) (minLen : Nat) (bad : Msg → List (Nat × Bool)) (u : CtxUse) (args : Die → Msg → List Arg)
    (run : Msg → Die → Die) (d : Die) : Die :=
  match d.stew.requests[n]? with
  | none => d
  | some m0 =>
    if msgOp m0 ≠ op || !stewardUp d || !inTurn d n m0 then d
    else if ledgerOp op && d.ledger.memState ≠ 0 then d
    else
      let m := clip m0
      match checkReq d m minLen (bad m) u with
      | some (st, det) => answer d n m0 st det []
      | none =>
        if !argsOk d (args d m) then answer (drew (senseArgs (args d m) d)) n m0 stMemError 0 []
        else if ledgerOp op && !dirEn d then answer d n m0 stProtocol 1 [] else run m d

end Sys2Proof.Machine
end

