-- ==== Sys2Proof/Machine/Itinerary.lean ====
section
/-! DEFINITION. Itineraries: descriptors and their checks, reservation and admission, records, completion, aborts (R185 to R188,
R276 to R286). -/

namespace Sys2Proof.Machine

/-! ### Reading a descriptor (R276, R277) -/

def deB (l : List Byte) (o : Nat) : Nat := (l.getD o 0).toNat
def deLE (l : List Byte) (o n : Nat) : Nat := leNat ((l.drop o).take n)

/-- A faulty byte at an offset. -/
def flaw (o : Nat) (b : Bool) : List Nat := if b then [o] else []

/-- Bytes that must be 0. -/
def flawZeros (l : List Byte) (o n : Nat) : List Nat := (List.range n).flatMap (fun i => flaw (o + i) (deB l (o + i) != 0))

def nCore (l : List Byte) : Nat := deLE l 0x06 2
def nRing (l : List Byte) : Nat := deLE l 0x28 2
def nLink (l : List Byte) : Nat := deLE l 0x2A 2
def nBerth (l : List Byte) : Nat := deLE l 0x38 4
def coreAt (i : Nat) : Nat := 64 + 64 * i
def ringAt (l : List Byte) (i : Nat) : Nat := coreAt (nCore l) + 16 * i
def linkAt (l : List Byte) (i : Nat) : Nat := ringAt l (nRing l) + 16 * i
def berthAt (l : List Byte) (i : Nat) : Nat := linkAt l (nLink l) + 4 * i
def descLen (l : List Byte) : Nat := linkAt l (nLink l) + (4 * nBerth l + 15) / 16 * 16

/-- A CORE field: its core and die. -/
def cfCoreOf (l : List Byte) (o : Nat) : CoreId := BitVec.ofNat 9 (deLE l o 2)
def cfDieOf (l : List Byte) (o : Nat) : BitVec 2 := BitVec.ofNat 2 (deLE l o 2 / 512)

/-- The party given for a die. -/
def descParty (l : List Byte) (die : BitVec 2) : Nat := deLE l (0x30 + 2 * die.toNat) 2

/-- A formed party holds a core. -/
def inParty (d : Die) (party : Nat) (c : CoreId) : Bool := d.stew.parties.any (fun p => p.1.toNat == party && p.2.getLsbD c.toNat)

def dieExists (d : Die) (die : BitVec 2) : Bool := die == d.ident.dieNum || (otherDies d).contains die

/-- What is wrong with a CORE field: reserved bits, a die the package lacks, a core outside the party given for its die. The other
dies check their own cores (R280). -/
def coreFlaws (d : Die) (l : List Byte) (o : Nat) : List Nat :=
  flaw (o + 1) (decide (8 ≤ deB l (o + 1)) || !dieExists d (cfDieOf l o)) ++
  flaw o (descParty l (cfDieOf l o) == 0 ||
    (cfDieOf l o == d.ident.dieNum && !inParty d (descParty l (cfDieOf l o)) (cfCoreOf l o)))

def halfCode (b : Nat) : HalfSel := match b with | 1 => .h0 | 2 => .h1 | _ => .full

/-- A tally window (R248): its fields, and what is wrong with it. -/
def winOn (w : BitVec 64) : Bool := bitB w 63
def winDie (w : BitVec 64) : BitVec 2 := w.extractLsb' 48 2
def winBase (w : BitVec 64) : Nat := fld w 32 16
def winCount (w : BitVec 64) : Nat := fld w 0 17

def winFlaws (d : Die) (l : List Byte) (o : Nat) : List Nat :=
  let w : BitVec 64 := BitVec.ofNat 64 (deLE l o 8)
  flaw o (winOn w && (winCount w == 0 || decide (65536 < winCount w) || decide (65536 < winBase w + winCount w))) ++
  flaw (o + 2) (decide (2 ≤ deB l (o + 2))) ++ flaw (o + 3) (deB l (o + 3) != 0) ++
  flaw (o + 6) (decide (4 ≤ deB l (o + 6)) || (winOn w && !dieExists d (winDie w))) ++ flaw (o + 7) (deB l (o + 7) % 128 != 0)

/-- Two entries of one core: H0 and H1, one claim of the port at most, one SHADOW (R277 to R279). -/
def pairFlaws (l : List Byte) (i j : Nat) : List Nat :=
  let a := coreAt j
  let b := coreAt i
  if deLE l a 2 ≠ deLE l b 2 then []
  else
    let halves := (deB l (a + 2) == 1 && deB l (b + 2) == 2) || (deB l (a + 2) == 2 && deB l (b + 2) == 1)
    flaw (b + 2) (!halves) ++
    flaw (b + 3) (bitB (BitVec.ofNat 8 (deB l (a + 3)) &&& BitVec.ofNat 8 (deB l (b + 3))) 1 || deB l (a + 3) % 2 != deB l (b + 3) % 2)

def coreEntryFlaws (d : Die) (l : List Byte) (i : Nat) : List Nat :=
  let o := coreAt i
  coreFlaws d l o ++ flaw (o + 2) (decide (3 ≤ deB l (o + 2))) ++ flaw (o + 3) (decide (4 ≤ deB l (o + 3))) ++
  flaw (o + 5) (decide (16 ≤ deB l (o + 5))) ++ flawZeros l (o + 0x0E) 2 ++ flaw (o + 0x10) (decide (48 < deLE l (o + 0x10) 2)) ++
  flawZeros l (o + 0x12) 14 ++ (List.range 4).flatMap (fun n => winFlaws d l (o + 0x20 + 8 * n)) ++
  (List.range i).flatMap (pairFlaws l i)

/-- The pairs of R162. -/
def ringPairOk (prod cons : Nat) : Bool :=
  [(0, 0), (0, 3), (1, 0), (1, 1), (1, 3), (1, 2), (2, 0), (2, 1)].contains (prod, cons)

/-- A core entry runs the thread a ring belongs to (R130). -/
def runsRing (l : List Byte) (o : Nat) : Bool :=
  (List.range (nCore l)).any (fun i => let e := coreAt i
    deLE l e 2 == deLE l o 2 && (match deB l (e + 2) with
      | 0 => true
      | 1 => decide (deB l (o + 2) < 4)
      | _ => decide (4 ≤ deB l (o + 2))))

def ringFlaws (d : Die) (l : List Byte) (i : Nat) : List Nat :=
  let o := ringAt l i
  let prod := deB l (o + 3) % 4
  let cons := deB l (o + 3) / 4 % 4
  let size := deLE l (o + 4) 4
  coreFlaws d l o ++ flaw (o + 2) (decide (8 ≤ deB l (o + 2)) || !runsRing l o) ++
  flaw (o + 3) (decide (16 ≤ deB l (o + 3)) || !ringPairOk prod cons) ++
  flaw (o + 4) (cons != 2 && (size == 0 || decide (32768 < size))) ++
  flaw (o + 9) (cons == 2 && decide (8 ≤ deB l (o + 9))) ++ flaw (o + 0x0A) (cons == 2 && decide (8 ≤ deB l (o + 0x0A))) ++
  flawZeros l (o + 0x0B) 5

/-- The links of one kind and ID. -/
def linksOf (l : List Byte) (kind id : Nat) : List Nat :=
  ((List.range (nLink l)).map (linkAt l)).filter (fun o => deB l o == kind && deLE l (o + 2) 2 == id)

/-- A member list runs from POS 0 without a gap or a repeat. -/
def denseFlaws (l : List Byte) (i : Nat) : List Nat :=
  let o := linkAt l i
  let all := linksOf l (deB l o) (deLE l (o + 2) 2)
  let pos := deLE l (o + 4) 2
  flaw (o + 4) (decide (all.length ≤ pos) || (all.filter (fun p => decide (p < o) && deLE l (p + 4) 2 == pos)).length != 0)

/-- A relay link runs from its producer's stage to a later one (R181). -/
def relayFlaws (l : List Byte) (i : Nat) : List Nat :=
  let o := linkAt l i
  let stages (f : Nat) : List Nat := ((linksOf l 1 (deLE l (o + 2) 2)).filter (fun p => deLE l (p + 6) 2 == f)).map (fun p => deB l (p + 1))
  flaw (o + 1) (!(stages (deLE l (o + 6) 2)).contains (deB l (o + 1))) ++
  flaw (o + 0x0A) (!(stages (deLE l (o + 0x0A) 2)).any (fun s => decide (deB l (o + 1) < s)))

def linkFlaws (d : Die) (l : List Byte) (i : Nat) : List Nat :=
  let o := linkAt l i
  let k := deB l o
  flaw o (decide (4 ≤ k)) ++ flaw (o + 1) ((k == 1 || k == 2) && decide (8 ≤ deB l (o + 1))) ++ flaw (o + 3) (decide (16 ≤ deB l (o + 3))) ++
  coreFlaws d l (o + 6) ++ flaw (o + 8) (decide (8 ≤ deB l (o + 8))) ++ flawZeros l (o + 0x0E) 2 ++
  (if k = 2 then flaw (o + 9) (decide (8 ≤ deB l (o + 9))) ++ coreFlaws d l (o + 0x0A) ++ relayFlaws l i
   else if k = 0 then denseFlaws l i
   else if k = 3 then denseFlaws l i ++ flaw (o + 0x0C) (deLE l (o + 0x0C) 2 == 0)
   else [])

/-- Berth indexes of the context that SUBMIT names. -/
def berthFlaws (d : Die) (ctx : Nat) (l : List Byte) (i : Nat) : List Nat :=
  flaw (berthAt l i) (match liveCtx d ctx with
    | some e => decide (dirCount e ≤ deLE l (berthAt l i) 4)
    | none => true)

def headFlaws (ctx : Nat) (l : List Byte) : List Nat :=
  flaw 0 (deB l 0 != 1) ++ flaw 1 (deB l 1 != 0) ++ flaw 2 (decide (8 ≤ deB l 2)) ++ flaw 3 (decide (2 ≤ deB l 3)) ++
  flaw 4 (decide (deB l 4 < 8) || decide (24 < deB l 4)) ++ flaw 5 (deB l 5 != 0) ++ flaw 6 (nCore l == 0) ++
  flaw 0x0F (deB l 0x0F != 0) ++ flaw 0x10 (deB l 0x10 % 16 != 0) ++ flawZeros l 0x16 2 ++ flawZeros l 0x2E 2 ++
  (List.range 4).flatMap (fun i => flaw (0x31 + 2 * i) (decide (16 ≤ deB l (0x31 + 2 * i)))) ++
  flaw 0x38 (nBerth l != 0 && ctx == 0)

/-- Every faulty byte of a descriptor (R278). -/
def descFlaws (d : Die) (ctx : Nat) (l : List Byte) : List Nat :=
  headFlaws ctx l ++ flaw l.length (decide (l.length < descLen l)) ++ (List.range (nCore l)).flatMap (coreEntryFlaws d l) ++
  (List.range (nRing l)).flatMap (ringFlaws d l) ++ (List.range (nLink l)).flatMap (linkFlaws d l) ++
  (if ctx = 0 then [] else (List.range (nBerth l)).flatMap (berthFlaws d ctx l))

def firstFlaw : List Nat → Option Nat
  | [] => none
  | o :: rest => some (rest.foldl Nat.min o)

/-- A core entry's register array. -/
def regBytes (d : Die) (l : List Byte) (i : Nat) : List Byte :=
  argRead d (deLE l (coreAt i + 8) 8) (16 * deLE l (coreAt i + 0x10) 2)

/-- The first faulty byte of a core entry's register array. -/
def regFlaw (r : List Byte) : Option Nat :=
  firstFlaw ((List.range (r.length / 16)).flatMap (fun k => flaw (16 * k) (decide (48 ≤ deB r (16 * k))) ++
    flaw (16 * k + 1) (decide (2 ≤ deB r (16 * k + 1))) ++ flawZeros r (16 * k + 2) 6))

/-- DETAIL of a faulty register entry. -/
def regDetail (d : Die) (l : List Byte) : Option Nat :=
  ((List.range (nCore l)).filterMap (fun i => (regFlaw (regBytes d l i)).map (fun o => 2 ^ 31 + i * 2 ^ 16 + o % 2 ^ 16))).head?

def parseCore (d : Die) (l : List Byte) (i : Nat) : ItinCore :=
  let o := coreAt i
  let r := regBytes d l i
  { die := cfDieOf l o, core := cfCoreOf l o, half := halfCode (deB l (o + 2)), shadow := deB l (o + 3) % 2 == 1,
    lodge := deB l (o + 3) / 2 % 2 == 1, pc := BitVec.ofNat 16 (deLE l (o + 4) 2), work := BitVec.ofNat 16 (deLE l (o + 6) 2),
    regs := (List.range (r.length / 16)).map (fun k =>
      (BitVec.ofNat 6 (deB r (16 * k)), deB r (16 * k + 1) % 2 == 1, BitVec.ofNat 64 (deLE r (16 * k + 8) 8))),
    wins := (List.range 4).map (fun n => BitVec.ofNat 64 (deLE l (o + 0x20 + 8 * n) 8)), halted := false, halted1 := false }

def parseRing (l : List Byte) (i : Nat) : ItinRing :=
  let o := ringAt l i
  ⟨cfDieOf l o, cfCoreOf l o, BitVec.ofNat 3 (deB l (o + 2)), BitVec.ofNat 2 (deB l (o + 3)), BitVec.ofNat 2 (deB l (o + 3) / 4),
   BitVec.ofNat 32 (deLE l (o + 4) 4), BitVec.ofNat 16 (deLE l (o + 8) 2), BitVec.ofNat 8 (deB l (o + 0x0A))⟩

def parseLink (l : List Byte) (i : Nat) : ItinLink :=
  let o := linkAt l i
  ⟨BitVec.ofNat 8 (deB l o), BitVec.ofNat 8 (deB l (o + 1)), BitVec.ofNat 12 (deLE l (o + 2) 2), BitVec.ofNat 16 (deLE l (o + 4) 2),
   cfDieOf l (o + 6), cfCoreOf l (o + 6), BitVec.ofNat 3 (deB l (o + 8)), BitVec.ofNat 3 (deB l (o + 9)), cfDieOf l (o + 0x0A),
   cfCoreOf l (o + 0x0A), BitVec.ofNat 16 (deLE l (o + 0x0C) 2)⟩

/-- The itinerary a descriptor asks for, QUEUED. -/
def parseItin (d : Die) (l : List Byte) (id : BitVec 32) (src : Source) (pair : BitVec 8) (seq : BitVec 16) (ctx : BitVec 32) : Itin :=
  { id := id, src := src, pair := pair, submitNo := 0, desc := 0, len := BitVec.ofNat 32 l.length, seq := seq, context := ctx,
    state := .queued, phase := BitVec.ofNat 8 (deB l 2), abftEn := deB l 3 % 2 == 1, abftM := BitVec.ofNat 8 (deB l 4),
    floor := BitVec.ofNat 32 (deLE l 8 4), tiles := BitVec.ofNat 32 (deLE l 0x0C 4), record := BitVec.ofNat 64 (deLE l 0x10 8),
    seed := BitVec.ofNat 64 (deLE l 0x18 8), stall := BitVec.ofNat 32 (deLE l 0x20 4), timeLimit := BitVec.ofNat 32 (deLE l 0x24 4),
    flagMax := BitVec.ofNat 16 (deLE l 0x2C 2), parties := (List.range 4).map (fun i => BitVec.ofNat 16 (deLE l (0x30 + 2 * i) 2)),
    tallyInit := BitVec.ofNat 32 (deLE l 0x3C 4), cores := (List.range (nCore l)).map (parseCore d l),
    rings := (List.range (nRing l)).map (parseRing l), links := (List.range (nLink l)).map (parseLink l),
    berths := (List.range (nBerth l)).map (fun i => BitVec.ofNat 32 (deLE l (berthAt l i) 4)), stamps := [], stamped := 0, flags := 0,
    reason := 0, faultCore := 0, faultPc := 0, faultDetail := 0, flagLog := [], flagLost := 0, exitCore := 0, exitCode := 0,
    npoison := 0, settled := false, admitted := none, asked := [], replies := [], stopping := false }

/-! ### Live itineraries -/

def itinLive (i : Itin) : Bool := i.state == .queued || i.state == .running

/-- The windows of an itinerary that are in use. -/
def itinWins (i : Itin) : List (BitVec 64) := (i.cores.flatMap (·.wins)).filter winOn

/-- The lowest tally index that two windows share. -/
def winMeet (a b : BitVec 64) : Option Nat :=
  let lo := max (winBase a) (winBase b)
  if winDie a = winDie b && decide (lo < winBase a + winCount a) && decide (lo < winBase b + winCount b) then some lo else none

/-- A tally that a live itinerary holds (R278). -/
def tallyBusy (d : Die) (i : Itin) : Option Nat :=
  let live := (d.stew.itins.filter itinLive).flatMap itinWins
  ((itinWins i).filterMap (fun w => firstFlaw (live.filterMap (winMeet w)))).head?

/-- The lowest-numbered die an itinerary names, and the queue it waits in. -/
def itinDie (i : Itin) : Nat := i.cores.foldl (fun n e => min n e.die.toNat) 3
def queueKey (i : Itin) : Nat × BitVec 16 := (itinDie i, i.parties.getD (itinDie i) 0)
def waitingOn (d : Die) (k : Nat × BitVec 16) : List Itin :=
  d.stew.itins.filter (fun i => i.state == .queued && homeDie i.id == d.ident.dieNum && queueKey i == k)

/-- The other dies that hold cores or tallies of an itinerary; those of them that the hub has not fenced. -/
def itinPeers (d : Die) (i : Itin) : List (BitVec 2) :=
  (otherDies d).filter (fun p => i.cores.any (fun e => e.die == p) || (itinWins i).any (fun w => winDie w == p))
def livePeers (d : Die) (i : Itin) : List (BitVec 2) := (itinPeers d i).filter (fun p => !d.link.fenced.getLsbD p.toNat)

def hereCores (d : Die) (i : Itin) : List ItinCore := i.cores.filter (fun e => e.die == d.ident.dieNum)
def hereIds (d : Die) (i : Itin) : List CoreId := ((hereCores d i).map (·.core)).eraseDups

def entryThreads (e : ItinCore) : List Bool := match e.half with | .full => [false, true] | .h0 => [false] | .h1 => [true]

/-! ### The record (R282 to R284) -/

/-- M of R282. -/
def mapBytes (i : Itin) : Nat := 16 * divUp i.tiles.toNat 128

def stampMap (i : Itin) : List Byte :=
  (List.range (mapBytes i)).map (fun b => BitVec.ofNat 8 ((List.range 8).foldl (fun v k => v + (tabGet 0 i.stamps (8 * b + k)).toNat * 2 ^ k) 0))

def outcomeCode : ItinState → Nat
  | .complete => 1
  | .aborted => 2
  | .refused => 3
  | _ => 0

def commitWord (i : Itin) : List Byte :=
  leBytes 2 1 ++ [BitVec.ofNat 8 (outcomeCode i.state), BitVec.ofNat 8 i.flags.toNat] ++ leBytes 4 i.id.toNat

/-- Bytes 0x08 to 0x3F. -/
def recordBody (i : Itin) (elapsed : Nat) : List Byte :=
  leBytes 8 elapsed ++ [i.reason, 0] ++ leBytes 2 i.faultCore.toNat ++ leBytes 2 i.faultPc.toNat ++ leBytes 2 0 ++
  leBytes 4 i.faultDetail.toNat ++ leBytes 4 i.stamped.toNat ++ leBytes 4 i.tiles.toNat ++ leBytes 2 i.flagLog.length ++
  leBytes 2 i.flagLost.toNat ++ leBytes 2 i.exitCore.toNat ++ leBytes 2 i.exitCode.toNat ++ leBytes 4 i.npoison.toNat ++ leBytes 16 0

def logAt (i : Itin) : Nat := i.record.toNat + 0x40 + mapBytes i
def poisonAt (i : Itin) : Nat := logAt i + 16 * i.flagMax.toNat

def writeMap (d : Die) (i : Itin) : Die := argWrite d (i.record.toNat + 0x40) (stampMap i)

def writeLog (d : Die) (i : Itin) : Die :=
  argWrite d (logAt i) (i.flagLog.flatMap (fun p => leBytes 8 p.1.toNat ++ leBytes 2 p.2.toNat ++ leBytes 6 0))

/-- Elapsed ns, by the Steward's count of REFCLK cycles of 10 ns (DESIGN CHOICE, assumption log); 0 for one never admitted. -/
def elapsedNs (d : Die) (i : Itin) : Nat := match i.admitted with
  | some t => 10 * (d.power.refCnt.toNat - t.toNat)
  | none => 0

/-- The body, the log and the map, then the commit word. -/
def writeRecord (d : Die) (i : Itin) : Die :=
  argWrite (writeLog (writeMap (argWrite d (i.record.toNat + 8) (recordBody i (elapsedNs d i))) i) i) i.record.toNat (commitWord i)

/-- Flag-log entries, each with its core, added to those an itinerary keeps. -/
def addEntries (l : List (BitVec 64 × BitVec 16)) (lost : BitVec 16) (i : Itin) : Itin :=
  let room := i.flagMax.toNat - i.flagLog.length
  { i with flagLog := i.flagLog ++ l.take room,
           flagLost := BitVec.ofNat 16 (min 0xFFFF (i.flagLost.toNat + lost.toNat + (l.length - room))) }

def addLog (l : List (BitVec 64)) (lost : BitVec 16) (core : BitVec 16) (i : Itin) : Itin := addEntries (l.map (fun v => (v, core))) lost i

def corePlace (d : Die) (c : CoreId) : BitVec 16 := BitVec.ofNat 16 (c.toNat + 512 * d.ident.dieNum.toNat)

/-- A core's flag log emptied into an itinerary (R125). -/
def logTo (id : BitVec 32) (d : Die) (c : CoreId) : Die :=
  let x := getCore d c
  modItin (setCore d c (emptyLog x)) id (addLog (flagEntries x) x.flagLost (corePlace d c))

/-- The log part of a record brought up to date after its commit. -/
def syncLog (d : Die) (id : BitVec 32) : Die := match findItin d id with
  | some i => argWrite (writeLog d i) (i.record.toNat + 0x24) (leBytes 2 i.flagLog.length ++ leBytes 2 i.flagLost.toNat)
  | none => d

/-- The completion event (R286). -/
def completionEvent (d : Die) (i : Itin) : Die :=
  postEventTo d i.pair 0x0000 i.seq i.context (leBytes 4 i.id.toNat ++
    [BitVec.ofNat 8 (outcomeCode i.state), BitVec.ofNat 8 i.flags.toNat, i.reason, 0] ++ leBytes 4 i.stamped.toNat ++
    leBytes 4 i.tiles.toNat ++ leBytes 8 i.record.toNat)

/-- The phase tag in force (R289): of the running itinerary most recently admitted, which stands last, or IDLE. -/
def setPhase (d : Die) : Die :=
  { d with power := { d.power with phase := ((d.stew.itins.filter (fun i => i.state == .running)).getLast?.map (·.phase)).getD 3 } }

/-- An itinerary ended: the record committed, the event posted. -/
def commitItin (d : Die) (id : BitVec 32) (st : ItinState) : Die :=
  let d1 := modItin d id (fun i => { i with state := st })
  match findItin d1 id with
  | none => d1
  | some i => setPhase (completionEvent (writeRecord d1 i) i)

/-! ### Reservation (R185) -/

/-- B of a ring entry; a proxy has no storage. -/
def ringBytes (r : ItinRing) : Nat := if r.cons = 2 then 0 else 4 * (512 * divUp r.tile.toNat 512)

def workAreas (d : Die) (i : Itin) (c : CoreId) : List Nat := ((hereCores d i).filter (fun e => e.core == c)).map (fun e => 512 * e.work.toNat)

def ringsOn (d : Die) (i : Itin) (c : CoreId) : List ItinRing := i.rings.filter (fun r => r.die == d.ident.dieNum && r.core == c)

def linksOn (d : Die) (i : Itin) (c : CoreId) : List ItinLink := i.links.filter (fun y => y.die == d.ident.dieNum && y.core == c)

/-- The receive buffers of the chains of which a core is not member 0. -/
def chainAreas (d : Die) (i : Itin) (c : CoreId) : List Nat :=
  ((linksOn d i c).filter (fun y => y.kind == 3 && y.pos != 0)).map (fun y => 128 * y.f.toNat)

/-- Res(c). -/
def resBytes (d : Die) (i : Itin) (c : CoreId) : Nat :=
  (workAreas d i c).sum + ((ringsOn d i c).map ringBytes).sum + (chainAreas d i c).sum

def heldBytes (x : Core) : Nat := (x.reserved.map (·.2)).sum

/-- The first core that cannot take its reservation, and the bytes it falls short by. -/
def shortfall (d : Die) (i : Itin) : Option (CoreId × Nat) :=
  ((hereIds d i).filterMap (fun c =>
    let n := resBytes d i c + heldBytes (getCore d c)
    if storeSize < n then some (c, n - storeSize) else none)).head?

/-- The 512 B blocks of an area. -/
def blocksOf (n : Nat) : Nat := divUp n 512

/-- Whether areas lie at 512 B-aligned offsets, apart from each other and from those already placed, and together fill one end of the
store: what is free stays in one piece. -/
def areasOk (taken mine : List (Nat × Nat)) : Bool :=
  let n := (mine.map (fun a => blocksOf a.2)).sum
  let busy (l : List (Nat × Nat)) (b : Nat) : Nat := (l.filter (fun a => decide (a.1 ≤ 512 * b) && decide (512 * b < a.1 + a.2))).length
  let fills (lo : Nat) : Bool := (List.range n).all (fun b => busy mine (lo + b) == 1 && busy taken (lo + b) == 0)
  mine.all (fun a => a.1 % 512 == 0) && decide (n ≤ 1024) && (fills 0 || fills (1024 - n))

/-- Areas one after another. -/
def packFrom (o : Nat) : List Nat → List Nat
  | [] => []
  | n :: l => o :: packFrom (o + 512 * blocksOf n) l

/-- The places the Steward chooses: its own choice when that keeps the store usable, else from the lower end of the store if it is free
there, and else up to the upper end. -/
def placeAreas (n : Nat) (taken : List (Nat × Nat)) (sizes : List Nat) : List Nat :=
  let mine := Config.areaPlaces n sizes
  let all := 512 * (sizes.map blocksOf).sum
  if mine.length = sizes.length && areasOk taken (mine.zip sizes) then mine
  else if taken.any (fun a => decide (a.1 < all) && a.2 != 0) then packFrom (storeSize - all) sizes
  else packFrom 0 sizes

/-- The reservation of one core placed: the working areas in entry order, then the rings and the chains' buffers in theirs. -/
def reserveCore (i : Itin) (d : Die) (c : CoreId) : Die :=
  let x := getCore d c
  let sizes := workAreas d i c ++ (ringsOn d i c).map ringBytes ++ chainAreas d i c
  let places := placeAreas d.freeCtr (x.areas.map (·.2)) sizes
  let x1 := { x with reserved := x.reserved ++ [(i.id, resBytes d i c)],
                     areas := x.areas ++ (places.zip sizes).map (fun p => (i.id, p.1, p.2)) }
  cons (drew (setCore d c x1)) 6 (resBytes d i c) 0

/-- The offset of the n-th area of an itinerary on a core. -/
def areaOf (x : Core) (id : BitVec 32) (n : Nat) : Nat := (((x.areas.filter (fun a => a.1 == id))[n]?).map (·.2.1)).getD 0

/-! ### Rings, links and threads of an admitted itinerary (R161, R277 to R279) -/

/-- The value a CORE_RING_n write loads. -/
def ringLoad (v : BitVec 64) : BitVec 64 :=
  let w := v &&& 0xF8007FFE003F03FF#64
  let ok := ringPairOk (fld w 61 2) (fld w 59 2) && (fld w 59 2 == 2 || decide (512 * fld w 0 10 + 4 * (512 * (fld w 16 6 + 1)) ≤ storeSize))
  if ok then w else putFld w 63 1 0

/-- A CORE_RING_n write: ignored while the ring is not IDLE. -/
def writeRing (c : CoreId) (n : Nat) (v : BitVec 64) (d : Die) : Die :=
  if ringIdle d c n then modCore d c (fun x => putRing x n { getRing x n with cfg := ringLoad v }) else d

/-- CORE_RING_n for a ring entry whose buffers begin at an offset. -/
def ringValue (r : ItinRing) (off : Nat) : BitVec 64 :=
  packed 64 ([(63, 1, 1), (61, 2, r.prod.toNat), (59, 2, r.cons.toNat)] ++
    (if r.cons = 2 then [(38, 9, r.tcore.toNat), (36, 2, r.tcore.toNat / 512), (33, 3, r.tring.toNat)]
     else [(16, 6, divUp r.tile.toNat 512 - 1), (0, 10, off / 512)]))

/-- The rings of one core written; credits come from downstream as its ends start. -/
def setRings (i : Itin) (d : Die) (c : CoreId) : Die :=
  let k := (workAreas d i c).length
  (ringsOn d i c).zipIdx.foldl (fun e p =>
    let n := p.1.ring.toNat
    modCore (writeRing c n (ringValue p.1 (areaOf (getCore e c) i.id (k + p.2))) e) c (fun x => putRing x n { getRing x n with credits := 0 })) d

/-- The thread of an itinerary's part on a core: T1 where only an entry of H1 names the core (R108, R277). -/
def chainThread (i : Itin) (y : ItinLink) : Bool :=
  let es := i.cores.filter (fun e => e.die == y.die && e.core == y.core)
  !es.isEmpty && es.all (fun e => e.half == .h1)

def freshMember (kind : LinkKind) (y : ItinLink) (itin : BitVec 32) : Member :=
  { kind := kind, id := y.id, ring := y.ring, pos := y.pos.toNat, count := 0, joined := false, stage := y.stage.setWidth 3, up := none,
    down := none, credits := 0, granted := 0, sent := 0, received := 0, discarded := 0, blocking := 0, shape := none, tiles := 0,
    party := 0, epoch := 0, downParty := 0, downEpoch := 0, fwdFlits := 0, fwdOpen := false, thread := decide (4 ≤ y.ring.toNat), itin := itin, incoming := [], flits := y.f.toNat, local_ := [],
    outgoing := [], pending := none, ints := false, reg := 0, bare := false }

/-- The member at a place of a caravan or chain. -/
def memberAt (i : Itin) (kind : BitVec 8) (id : BitVec 12) (pos : Nat) : Option (BitVec 2 × BitVec 9 × BitVec 3) :=
  (i.links.find? (fun y => y.kind == kind && y.id == id && y.pos.toNat == pos)).map (fun y => (y.die, y.core, y.ring))

/-- What a link entry makes of a core of this die: a caravan or chain member, a stage, or the ends of a relay link. A chain member
holds F credits of the next. -/
def linkMembers (d : Die) (i : Itin) (y : ItinLink) : List (CoreId × Member) :=
  let here (die : BitVec 2) : Bool := die == d.ident.dieNum
  let line (k : LinkKind) : Member :=
    { freshMember k y i.id with
      count := (i.links.filter (fun z => z.kind == y.kind && z.id == y.id)).length,
      up := if y.pos = 0 then none else memberAt i y.kind y.id (y.pos.toNat - 1),
      down := memberAt i y.kind y.id (y.pos.toNat + 1) }
  match y.kind.toNat with
  | 0 => if here y.die then [(y.core, line .caravan)] else []
  | 1 => if here y.die then [(y.core, freshMember .relay y i.id)] else []
  | 2 => (if here y.die then [(y.core, { freshMember .relay y i.id with down := some (y.pdie, y.pcore, y.pring) })] else []) ++
      (if here y.pdie then [(y.pcore, { freshMember .relay y i.id with ring := y.pring, up := some (y.die, y.core, y.ring),
                                                                        thread := decide (4 ≤ y.pring.toNat) })] else [])
  | _ => if here y.die then
      (let m := line .chain
       [(y.core, { m with joined := true, thread := chainThread i y, credits := if m.down.isSome then y.f.toNat else 0 })]) else []

/-- Credits of class STREAM_CREDIT that a member's downstream link has. -/
def linkCredits (m : Member) : Nat := if m.down.isNone then 0 else if m.kind = .chain then m.flits else 4

/-- The role of a core when an itinerary is admitted; that of another die's core is what its Steward says (R234). -/
def roleAt (d : Die) (die : BitVec 2) (c : CoreId) : BitVec 12 × BitVec 8 :=
  if die = d.ident.dieNum then ((getCore d c).portParty, (getCore d c).portEpoch)
  else
    let v := freeVal d (2000000000 + 512 * die.toNat + c.toNat)
    (v.setWidth 12, v.extractLsb' 12 8)

/-- A member listed at its core, with the roles its link's flits carry. -/
def addMember (d : Die) (p : CoreId × Member) : Die :=
  let mine := roleAt d d.ident.dieNum p.1
  let next := match p.2.down with | some (die, core, _) => roleAt d die core | none => (0, 0)
  let m := { p.2 with party := mine.1, epoch := mine.2, downParty := next.1, downEpoch := next.2 }
  cons (modCore d p.1 (fun x => { x with members := x.members ++ [m] })) 7 (linkCredits m) 0

/-- The itinerary whose poisoned registers a half holds: the one that last ran there. -/
def lastItin (x : Core) (h : Bool) : Option (BitVec 32) := (getThread x h).itin

/-- The poisoned registers of a half. -/
def poisonedRegs (x : Core) (h : Bool) : List Nat := (List.range 16).filter (fun q => bitB (getTsw x h q) 29)

/-- Poison entries appended to an aborted itinerary's record at its home, NPOISON last (R284). -/
def addPoison (id : BitVec 32) (words : List (BitVec 64)) (d : Die) : Die :=
  match findItin d id with
  | none => d
  | some i =>
    if i.state ≠ .aborted || homeDie id ≠ d.ident.dieNum then d
    else
      let n := i.npoison + BitVec.ofNat 32 words.length
      let d1 := argWrite d (poisonAt i + 8 * i.npoison.toNat) (words.flatMap (fun w => leBytes 8 w.toNat))
      modItin (argWrite d1 (i.record.toNat + 0x2C) (leBytes 4 n.toNat)) id (fun i => { i with npoison := n })

/-- Poisoned registers of a half: their status words go to the aborted itinerary's record, and they are cleared (R128, R284). -/
def collectPoison (d : Die) (c : CoreId) (h : Bool) : Die :=
  let x := getCore d c
  let regs := poisonedRegs x h
  let word (q : Nat) : BitVec 64 := packed 64 [(0, 16, (corePlace d c).toNat), (16, 8, b2n h), (24, 8, q), (32, 32, (getTsw x h q).toNat)]
  let d1 := modCore d c (fun y => regs.foldl (fun y q => clearReg y (if h then .h1 else .h0) q) y)
  match (lastItin x h).bind (findItin d) with
  | none => d1
  | some i =>
    if regs.isEmpty || i.state ≠ .aborted then d1
    else if homeDie i.id = d.ident.dieNum then addPoison i.id (regs.map word) d1
    else sendPeer d1 (homeDie i.id) (.poison i.id (regs.map word))

/-- A limit below 0x1000 loads 0x1000 (R180). -/
def stallLoad (v : BitVec 32) : BitVec 32 := if v.toNat < 0x1000 then 0x1000 else v

/-- A seed of 0 loads 1 (R61). -/
def seedLoad (v : BitVec 64) : BitVec 64 := if v = 0 then 1 else v

def seedFor (i : Itin) (die : BitVec 2) (c : CoreId) : BitVec 64 := i.seed ^^^ BitVec.ofNat 64 (die.toNat * 512 + c.toNat)

/-- The registers of one thread: stall limit, windows, seed. -/
def setThreadCfg (i : Itin) (e : ItinCore) (x : Core) (t : Bool) : Core :=
  let stall := stallLoad (if i.stall = 0 then 0x00100000 else i.stall)
  let wins := (List.range 4).foldl (fun w n => tabSet 0 w n (e.wins.getD n 0)) (if t then x.win1 else x.win0)
  let seed := seedLoad (seedFor i e.die e.core)
  if t then { x with stall1 := stall, win1 := wins, seed1 := if i.seed = 0 then x.seed1 else seed }
  else { x with stall0 := stall, win0 := wins, seed0 := if i.seed = 0 then x.seed0 else seed }

/-- A thread started at its PC: every register and predicate not loaded is 0 (R131). -/
def startThread (id : BitVec 32) (pc : Nat) (regs : Tab (BitVec 64)) (th : Thread) : Thread :=
  { Thread.reset with run := .running, pc := pc, regs := regs, itin := some id, streamPtr := th.streamPtr, armSeq := th.armSeq,
                      vstat := th.vstat, unacked := th.unacked, seqNo := th.seqNo, readsOut := th.readsOut, readsIn := th.readsOut,
                      tokens := th.tokens, tokensAt := th.tokensAt }

/-- The registers a core entry loads; WREL adds the working area's offset. -/
def loadRegs (e : ItinCore) (off : Nat) : Tab (BitVec 64) :=
  e.regs.foldl (fun r p => writeReg r p.1.toNat (if p.2.1 then p.2.2 + BitVec.ofNat 64 off else p.2.2)) []

/-- The Steward enters split mode for an entry of one half (R80, R279). -/
def splitFor (i : Itin) (e : ItinCore) (x : Core) : Core :=
  if e.half = .full || x.split then x
  else { x with split := true, lodgeHalf := i.cores.any (fun y => y.die == e.die && y.core == e.core && y.half == .h1 && y.lodge) }

/-- ABFT_CFG_h and ABFT_FLOOR_h of the entry's halves. -/
def setAbft (i : Itin) (x : Core) (h : Bool) : Core :=
  abftWrite h true i.floor (abftWrite h false (packed 32 [(31, 1, b2n i.abftEn), (0, 5, i.abftM.toNat)]) x)

/-- One core entry of this die admitted: registers written, the thread started. -/
def admitEntry (i : Itin) (d : Die) (p : ItinCore × Nat) : Die :=
  let e := p.1
  let d1 := (entryThreads e).foldl (fun y h => collectPoison y e.core h) d
  modCore d1 e.core (fun x =>
    let x1 := splitFor i e x
    let x2 := if e.shadow = bitB x1.accCfg 0 then x1 else accWrite (BitVec.ofNat 32 (b2n e.shadow)) x1
    let x3 := (entryThreads e).foldl (setAbft i) x2
    let x4 := (entryThreads e).foldl (setThreadCfg i e) x3
    let t := e.half == .h1
    let th := startThread i.id e.pc.toNat (loadRegs e (areaOf x4 i.id p.2)) (getThread x4 t)
    let x5 := setThread x4 t th
    if e.half = .full then { x5 with t1 := { x5.t1 with run := .idle, itin := some i.id } } else x5)

/-- The place of a core entry among those of its core. -/
def entryPlace (d : Die) (i : Itin) : List (ItinCore × Nat) :=
  let l := hereCores d i
  l.zipIdx.map (fun p => (p.1, ((l.take p.2).filter (fun y => y.core == p.1.core)).length))

/-- The window tallies of this die at their initial count. -/
def initTallies (i : Itin) (d : Die) : Die :=
  (itinWins i).foldl (fun e w => if winDie w = d.ident.dieNum then
    { e with tally := { e.tally with counts := tabFill 0 e.tally.counts (winBase w) (winCount w) (fun _ => i.tallyInit) } } else e) d

/-- The store of this die's cores reserved (R185). -/
def reserveHere (i : Itin) (d : Die) : Die := (hereIds d i).foldl (reserveCore i) d

/-- This die's part of an itinerary whose store is reserved, started. -/
def startHere (i : Itin) (d : Die) : Die :=
  let ids := hereIds d i
  let d2 := ids.foldl (setRings i) d
  let d3 := (i.links.flatMap (linkMembers d i)).foldl addMember d2
  (entryPlace d i).foldl (admitEntry i) (initTallies i d3)

/-! ### Admission (R278, R279, R294) -/

/-- An itinerary that has ended and, after an abort, has settled. -/
def itinGone (d : Die) (id : BitVec 32) : Bool := match findItin d id with
  | none => true
  | some i => !itinLive i && (i.state != .aborted || i.settled)

/-- A half on which no itinerary runs. -/
def halfFree (d : Die) (x : Core) (t : Bool) : Bool := match (getThread x t).itin with
  | none => true
  | some id => itinGone d id

/-- A half that a reservation holds for an itinerary which has yet to start (R280). -/
def halfPromised (d : Die) (e : ItinCore) : Bool :=
  d.stew.itins.any (fun i => i.state == .queued && (homeDie i.id != d.ident.dieNum || !(i.asked.isEmpty && i.replies.isEmpty)) &&
    i.cores.any (fun y => y.die == e.die && y.core == e.core && (entryThreads y).any (fun t => (entryThreads e).contains t)))

/-- R279 for one core entry of this die; a core in reset admits none (R406). -/
def entryFits (d : Die) (e : ItinCore) : Bool :=
  let x := getCore d e.core
  !x.portReset && !halfPromised d e && (entryThreads e).all (halfFree d x) &&
  (match e.half with
   | .full => !x.split
   | h => !x.split || (e.shadow == bitB x.accCfg 0 && (!e.lodge || x.lodgeHalf == (h == .h1))))

def partyBusy (d : Die) (party : Nat) : Bool := d.flt.partyResets.any (fun p => p.party.toNat == party)

/-- Requests that must be answered before an itinerary is admitted. -/
def blockers (d : Die) (i : Itin) : Bool :=
  d.stew.requests.any (fun m => m.src == i.src && (match m.src with | .foreign => msgPair m + 1 == i.pair.toNat | _ => true) &&
    decide (m.no < i.submitNo) && [opFormParty, opDisbandParty, opLoadProgram, opRestoreContext].contains (msgOp m))

def itinEntry (d : Die) (i : Itin) (idx : BitVec 32) : Option (BitVec 48 × Nat) :=
  let h := mkHandle (i.context.setWidth 24) idx.toNat
  (entryAddr d h).map (fun a => (h, a))

/-- A declared berth is being moved: no write hold can be taken on it (R215). -/
def berthMoving (d : Die) (i : Itin) : Bool :=
  i.berths.any (fun idx => match itinEntry d i idx with
    | some (_, a) => entState (entryLast d a) == stMoving
    | none => false)

def holdBerths (i : Itin) (d : Die) : Die :=
  i.berths.foldl (fun e idx => match itinEntry d i idx with
    | some (h, a) => let v := entryLast e a
      takeHold e ⟨h, BitVec.ofNat 2 (entTier v), BitVec.ofNat 48 (entLoc v), true, i.id, none⟩
    | none => e) d

/-- A refused itinerary: nothing is started. -/
def refuseItin (d : Die) (id : BitVec 32) (core : BitVec 16) (short : Nat) : Die :=
  commitItin (modItin d id (fun i => { i with reason := 0x82, faultCore := core, faultDetail := BitVec.ofNat 32 short })) id .refused

/-- Admitted itineraries stand last, in the order of admission. -/
def runItin (d : Die) (i : Itin) : Die :=
  { d with stew := { d.stew with itins := d.stew.itins.filter (fun y => y.id != i.id) ++
    [{ i with state := .running, admitted := some d.power.refCnt, asked := [], replies := [] }] } }

def toPeers (d : Die) (i : Itin) (m : PeerMsg) : Die := (livePeers d i).foldl (fun e p => sendPeer e p m) d

/-- Waiters that an itinerary's threads have registered in this die's units are removed, whatever die the threads run on (R256). -/
def dropItinWaiters (i : Itin) (d : Die) : Die :=
  dropWaiters (fun w => i.cores.any (fun e => e.die == w.die && e.core == endpointCore w.endpoint && (entryThreads e).contains w.thread)) d

/-- The reservation, the areas and the link memberships of an itinerary given up on a core (R185, R188). -/
def releaseCore (id : BitVec 32) (d : Die) (c : CoreId) : Die :=
  let x := getCore d c
  let bytes := ((x.reserved.filter (fun p => p.1 == id)).map (·.2)).sum
  let credits := ((x.members.filter (fun m => m.itin == id)).map linkCredits).sum
  let x1 := { x with reserved := x.reserved.filter (fun p => p.1 != id), areas := x.areas.filter (fun p => p.1 != id),
                     members := x.members.filter (fun m => m.itin != id) }
  cons (cons (setCore d c x1) 6 0 bytes) 7 0 credits

/-- Every reservation of a queued itinerary given back, on this die and on those that had reserved (R280). -/
def unreserve (i : Itin) (d : Die) : Die :=
  let d1 := (hereIds d i).foldl (releaseCore i.id) d
  let d2 := (i.replies.filter (fun r => match r.2 with | .reserveOk _ => true | _ => false)).foldl (fun e r => sendPeer e r.1 (.release i.id)) d1
  modItin d2 i.id (fun y => { y with asked := [], replies := [] })

/-- What the dies that were asked to reserve have refused: the first core in the descriptor's order, and its shortfall (R186). -/
def refusal (i : Itin) : Option (BitVec 16 × Nat) :=
  let no := i.replies.filterMap (fun r => match r.2 with | .reserveRefused _ c n => some (c, n.toNat) | _ => none)
  let place (e : ItinCore) : BitVec 16 := BitVec.ofNat 16 (e.core.toNat + 512 * e.die.toNat)
  match i.cores.findSome? (fun e => no.find? (fun r => r.1 == place e)) with
  | some r => some r
  | none => no.head?

/-- An itinerary that every die has reserved, started. -/
def startItin (i : Itin) (d : Die) : Die :=
  let d1 := runItin d i
  let d2 := argWrite (argWrite d1 (i.record.toNat + 0x40) (List.replicate (mapBytes i) 0)) i.record.toNat
    (commitWord { i with state := .running, flags := 0 })
  setPhase (toPeers (holdBerths i (startHere i d2)) i (.start i.id))

/-- ITINERARY_ADMIT (R278 to R280): at the head of its queue, the itinerary is refused, or its cores on this die are reserved and the
other dies are asked to reserve theirs; once they have, it starts; when one cannot yet, every reservation is given back and it waits. -/
def effAdmit (id : BitVec 32) (d : Die) : Die :=
  match findItin d id with
  | none => d
  | some i =>
    if i.state ≠ .queued || homeDie id ≠ d.ident.dieNum || ((waitingOn d (queueKey i)).head?.map (·.id)) ≠ some id || !i.asked.isEmpty ||
       (itinPeers d i).any (fun p => d.link.fenced.getLsbD p.toNat) then d
    else if !i.replies.isEmpty then
      match refusal i with
      | some (c, n) => refuseItin (unreserve i d) id c n
      | none =>
        if i.replies.all (fun r => match r.2 with | .reserveOk _ => true | _ => false) then startItin i d else unreserve i d
    else if blockers d i || !(hereCores d i).all (entryFits d) || berthMoving d i ||
       partyBusy d (i.parties.getD d.ident.dieNum.toNat 0).toNat then d
    else match shortfall d i with
      | some (c, n) => refuseItin d id (corePlace d c) n
      | none =>
        let d1 := reserveHere i d
        if (itinPeers d i).isEmpty then startItin i d1
        else modItin (toPeers d1 i (.reserve id i.desc i.len)) id (fun y => { y with asked := itinPeers d i })

/-! ### The end of an itinerary -/

/-- ITINERARY_ADMIT on the queue of a party: an itinerary that waits in another party's queue is not at its head. -/
def effAdmitFrom (id : BitVec 32) (party : BitVec 16) (d : Die) : Die :=
  match findItin d id with
  | some i => if (queueKey i).2 = party then effAdmit id d else d
  | none => d

/-- Threads of this die that an itinerary started. -/
def itinThreads (d : Die) (i : Itin) : List (CoreId × Bool) :=
  (hereIds d i).flatMap (fun c => ([false, true] : List Bool).filterMap (fun t =>
    if (getThread (getCore d c) t).itin == some i.id then some (c, t) else none))

/-- A thread's windows closed (R248). -/
def closeThread (d : Die) (p : CoreId × Bool) : Die :=
  modCore d p.1 (fun x =>
    let off (w : Tab (BitVec 64)) : Tab (BitVec 64) := tabMap 0 (fun _ v => putFld v 63 1 0) w
    let x1 := if p.2 then { x with win1 := off x.win1 } else { x with win0 := off x.win0 }
    setThread x1 p.2 { getThread x1 p.2 with armed := false })

/-- This die's part of an itinerary that completed. -/
def endHere (i : Itin) (d : Die) : Die :=
  let d1 := dropItinWaiters i ((itinThreads d i).foldl closeThread d)
  (hereIds d i).foldl (releaseCore i.id) (dropItinHolds d1 i.id)

/-- Every thread of an itinerary has halted; a T1 that SPLIT never started counts as halted. -/
def allHalted (i : Itin) : Bool := i.cores.all (fun e => e.halted && (e.half != .full || e.halted1))

/-- ITINERARY_COMPLETE. -/
def effComplete (id : BitVec 32) (d : Die) : Die :=
  match findItin d id with
  | none => d
  | some i =>
    if i.state ≠ .running || homeDie id ≠ d.ident.dieNum || i.reason ≠ 0 || i.stopping || !allHalted i then d
    else
      let d1 := (hereIds d i).foldl (logTo id) d
      commitItin (toPeers (endHere i d1) i (.release id)) id .complete

/-- A slot read whose own verdict raised the fault completes: its status word is delivered (R118, R127). -/
def finishReads (d : Die) (c : CoreId) : Die :=
  (List.range (getCore d c).ops.length).foldl (fun e _ =>
    match (getCore e c).ops.findIdx? (fun o => o.verdictMade && o.verdict.failed) with
    | some n => effDelivery c n e
    | none => e) d

/-- Stops every core of an itinerary on this die: those with no fault of their own record a code and its detail. -/
def stopHere (i : Itin) (code detail : Nat) (d : Die) : Die :=
  let ts := itinThreads d i
  let d1 := ts.foldl (fun e p =>
    if (getThread (getCore e p.1) p.2).run == .idle then modCore e p.1 (fun x => setThread x p.2 (stopThread .stopped (getThread x p.2)))
    else stopCore e p.1 p.2 code detail) d
  let d2 := (hereIds d i).foldl (fun e c => modCore (finishReads e c) c (fun x => { x with stoppedWait := true })) d1
  dropItinWaiters i (ts.foldl closeThread d2)

/-- POI joins the flags when an abort leaves registers poisoned, and each thread's vector flags (R152, R282). -/
def abortFlags (d : Die) (i : Itin) : BitVec 5 :=
  (itinThreads d i).foldl (fun f p =>
    let x := getCore d p.1
    f ||| vstatFlags (getThread x p.2).vstat ||| (if (poisonedRegs x p.2).isEmpty then 0 else 8)) 0

/-- DETAIL of ITINERARY_ABORTED: the first faulting core, its die, its code. -/
def abortDetail (i : Itin) : Nat := i.faultCore.toNat % 2048 + i.reason.toNat * 65536

/-- The record of an aborted itinerary committed, once every die that holds it has stopped its cores and reported (R187, R282, R283). -/
def tryCommit (id : BitVec 32) (d : Die) : Die :=
  match findItin d id with
  | none => d
  | some i =>
    if i.state ≠ .running || !i.stopping || !i.asked.isEmpty then d
    else
      let d1 := (hereIds d i).foldl (logTo id) d
      commitItin (modItin d1 id (fun y => { orFlags (abortFlags d1 i) y with stopping := false })) id .aborted

/-- An itinerary aborted at its home: every core is stopped on every die (R187, R283). The cores record a lost die as such, and else the
abort. -/
def abortItin (d : Die) (id : BitVec 32) (lost : Option (BitVec 2)) : Die :=
  match findItin d id with
  | none => d
  | some i =>
    if i.state = .queued then
      commitItin (modItin (if i.asked.isEmpty && i.replies.isEmpty then d else unreserve i d) id (fun y => { y with settled := true })) id .aborted
    else if i.stopping then d
    else
      let code := if lost.isSome then cfDieLost else cfItineraryAborted
      let detail := match lost with | some p => p.toNat | none => abortDetail i
      let d1 := toPeers (stopHere i code detail d) i (.abort id (i.faultCore.setWidth 11) i.reason)
      tryCommit id (modItin d1 id (fun y => { y with stopping := true, asked := livePeers d i }))

/-- A reason noted, if none is. -/
def noteReason (reason core pc detail : Nat) (i : Itin) : Itin :=
  if i.reason ≠ 0 then i
  else
    { i with
      reason := BitVec.ofNat 8 reason, faultCore := BitVec.ofNat 16 core, faultPc := BitVec.ofNat 16 pc,
      faultDetail := BitVec.ofNat 32 detail }

/-- An itinerary aborted for a reason. -/
def abortFor (d : Die) (id : BitVec 32) (reason core pc detail : Nat) (lost : Option (BitVec 2)) : Die :=
  abortItin (modItin d id (noteReason reason core pc detail)) id lost

/-- ITINERARY_ABORT: a fault has been noted at home, or a core of this die has faulted in an itinerary of another. -/
def effItinAbort (id : BitVec 32) (d : Die) : Die :=
  match findItin d id with
  | none => d
  | some i =>
    if i.state ≠ .running then d
    else if homeDie id = d.ident.dieNum then (if i.reason = 0 then d else tryCommit id (abortItin d id none))
    else
      match (itinThreads d i).find? (fun p => (getThread (getCore d p.1) p.2).run == .faulted) with
      | none => d
      | some p =>
        let code := fld (getCore d p.1).fault 40 8
        let d1 := stopHere i cfItineraryAborted ((corePlace d p.1).toNat + code * 65536) d
        toPeers (modItin d1 id (fun i => { i with state := .aborted })) i (.abort id ((corePlace d p.1).setWidth 11) (BitVec.ofNat 8 code))

/-- Whether every response is in for an aborted itinerary's waybills, and the counts of its links on this die agree. The count of
an end on another die is that die's: its agreement is taken as given (assumption log). -/
def linksAgree (d : Die) (i : Itin) : Bool :=
  (hereIds d i).all (fun c =>
    let x := getCore d c
    let mine (wb : BitVec 3) : Bool := (itinThreads d i).any (fun p => p.1 == c && inThreadSet x p.2 wb.toNat)
    !x.lines.any (fun l => mine l.wb) && !x.writes.any (fun l => mine l.wb) &&
    x.members.all (fun m => m.itin != i.id || (match m.down with
      | none => true
      | some (die, core, ring) => die != d.ident.dieNum || (match (getCore d core).members.find? (fun y =>
          y.itin == i.id && y.kind == m.kind && y.id == m.id && y.up.isSome && (m.kind == .chain || y.ring == ring)) with
        | some y => m.sent == y.received + y.discarded
        | none => true))))

/-- The rings of an itinerary on a core: four EMPTY buffers, and the four credits of a proxy or of a caravan's member; what it reserved is
given up, its links with it. -/
def settleCore (i : Itin) (d : Die) (c : CoreId) : Die :=
  let d1 := modCore d c (fun x =>
    let lends (n : BitVec 3) : Bool := x.members.any (fun m => m.itin == i.id && m.kind != .chain && m.ring == n && m.down.isSome)
    let y := (ringsOn d i c).foldl (fun y r =>
      putRing y r.ring.toNat { Ring.reset with cfg := (getRing y r.ring.toNat).cfg, credits := if lends r.ring then 4 else 0 }) x
    let z := { y with stoppedWait := false }
    if z.t0.run ≠ .running && z.t1.run ≠ .running && z.split then leaveSplit d.freeCtr z else z)
  releaseCore i.id (drew d1) c

/-- ABORT_LINKS_SETTLED. -/
def effSettled (id : BitVec 32) (d : Die) : Die :=
  match findItin d id with
  | none => d
  | some i =>
    if i.state ≠ .aborted || i.settled || !linksAgree d i then d
    else modItin (dropItinHolds ((hereIds d i).foldl (settleCore i) d) id) id (fun i => { i with settled := true })

/-- TIME_LIMIT: its µs have passed by the Steward's count of REFCLK cycles of 10 ns (R281). -/
def effTimeLimit (id : BitVec 32) (d : Die) : Die :=
  match findItin d id with
  | none => d
  | some i =>
    if i.state ≠ .running || homeDie id ≠ d.ident.dieNum || i.timeLimit = 0 || i.stopping then d
    else
      let due := (i.admitted.getD 0).toNat + 100 * i.timeLimit.toNat
      abortFor { d with power := { d.power with refCnt := BitVec.ofNat 64 (max d.power.refCnt.toNat due) } } id 0x81 0 0 0 none

end Sys2Proof.Machine
end

