-- ==== Sys2Proof/Machine/Session.lean ====
section
/-! DEFINITION. The Steward's session messages: HELLO, contexts, parties, programs, saved array images, and the itinerary messages
and events (R110, R111, R209, R271 to R286). -/

namespace Sys2Proof.Machine

/-! ### HELLO (R209, R271) -/

def dirInForce (d : Die) : Nat := fld d.ledger.dirBase 20 28 * 2 ^ 20

/-- A placement field: one that is 0 keeps what is in force. -/
def placed (v old : Nat) : Nat := if v = 0 then old else v

/-- The placements a HELLO asks for: directory, array base and size, pool base and berths. -/
structure Placement where
  dir : Nat
  array : Nat
  bytes : Nat
  pool : Nat
  berths : Nat
deriving DecidableEq, Repr

def inForce (d : Die) : Placement :=
  ⟨dirInForce d, d.ledger.arrayBase.toNat, d.ledger.arrayBytes.toNat, d.ledger.poolBase.toNat, d.ledger.poolBerths.toNat⟩

def helloFields (m : Msg) : Placement := ⟨msgLE m 0x18 8, msgLE m 0x20 8, msgLE m 0x28 8, msgLE m 0x30 8, msgLE m 0x38 4⟩

def replaced (a b : Placement) : Placement :=
  ⟨placed a.dir b.dir, placed a.array b.array, placed a.bytes b.bytes, placed a.pool b.pool, placed a.berths b.berths⟩

/-- Two ranges share a byte. -/
def spansMeet (a n b k : Nat) : Bool := n != 0 && k != 0 && decide (a < b + k) && decide (b < a + n)

/-- Where placements overlap: the offset of the field that is answered BAD_FIELD. -/
def overlapAt (p : Placement) : Option Nat :=
  let dirLen := if p.dir = 0 then 0 else 0x100000
  if spansMeet p.dir dirLen p.array p.bytes || spansMeet p.dir dirLen p.pool (0x10000 * p.berths) then some 0x18
  else if spansMeet p.array p.bytes p.pool (0x10000 * p.berths) then some 0x20
  else none

def helloBad (m : Msg) : List (Nat × Bool) :=
  let p := helloFields m
  let high (v : Nat) : Bool := decide (2 ^ 48 ≤ v)
  zeros m 0x12 6 ++ zeros m 0x3C 4 ++ [(0x18, p.dir % 0x100000 != 0), (0x1E, high p.dir), (0x20, p.array % 16 != 0), (0x26, high p.array),
    (0x2E, high p.bytes), (0x30, p.pool % 0x10000 != 0), (0x36, high p.pool)]

/-- The directory placed anew: every entry zero, EN set, nothing cached. -/
def placeDir (d : Die) (base : Nat) : Die :=
  { d with
    pkg := memClear d.pkg base 0x100000,
    ledger := { d.ledger with cache := [], dirCache := [], touched := [] },
    stew := { d.stew with opened := [] } }

def setPlacement (d : Die) (p : Placement) : Die :=
  { d with ledger := { d.ledger with
      dirBase := if p.dir = 0 then d.ledger.dirBase else BitVec.ofNat 64 (2 ^ 63 + p.dir), arrayBase := BitVec.ofNat 64 p.array,
      arrayBytes := BitVec.ofNat 64 p.bytes, poolBase := BitVec.ofNat 64 p.pool, poolBerths := BitVec.ofNat 32 p.berths } }

def helloReply (d : Die) : List Byte :=
  leBytes 2 1 ++ leBytes 2 Config.runtimeVersion.toNat ++ leBytes 4 (dieId d).toNat ++ leBytes 4 (diePkg d).toNat ++
  leBytes 4 (dieCores d).toNat ++ [d.trust.secver, BitVec.ofNat 8 d.power.maxOp.toNat] ++ leBytes 2 0 ++ leBytes 4 d.ledger.epoch.toNat ++
  leBytes 8 (dirInForce d) ++ leBytes 8 d.ledger.poolBase.toNat ++ leBytes 4 d.ledger.poolBerths.toNat

/-- HELLO: while a context is open, each placement field is 0 or the one in force. -/
def runHello (n : Nat) (m : Msg) (d : Die) : Die :=
  let ask := helloFields m
  let now := inForce d
  let next := replaced ask now
  if ask.dir ≠ 0 && decide (pkgTop d < ask.dir + 0x100000) then answer d n m stMemError 0 []
  else if msgLE m 0x10 2 ≠ 1 then answer d n m stProtocol 0 []
  else if next ≠ now && !(openCtxs d).isEmpty then answer d n m stBusy 0 []
  else match overlapAt next with
    | some o => answer d n m stBadField o []
    | none =>
      let anew := ask.dir ≠ 0 && (ask.dir != now.dir || !dirEn d)
      let d1 := setPlacement (if anew then placeDir d ask.dir else d) next
      let d2 := { d1 with stew := { d1.stew with hello := true } }
      answer d2 n m stOk 0 (helloReply d2)

def effHello (n : Nat) (d : Die) : Die := onRequest n opHello 44 helloBad .none noArgs (runHello n) d

/-! ### OPEN_CONTEXT and CLOSE_CONTEXT (R207, R272) -/

/-- The slots that may be taken: neither open nor retired. -/
def freeSlots (d : Die) : List Nat := (List.range 65536).filter (fun s => !dirOpen (dirEntry d s) && !dirRetired (dirEntry d s))

/-- Of two slots, the second only where its generation is lower. -/
def lowerGen (d : Die) (a b : Nat) : Nat := if dirGen (dirEntry d b) < dirGen (dirEntry d a) then b else a

/-- The free slot with the lowest generation, the lowest index among equals. -/
def chooseSlot (d : Die) : Option Nat :=
  (freeSlots d).foldl (fun best s => some (best.elim s (fun a => lowerGen d a s))) none

/-- Starts in the array area at which a berth array fits beside those of the open contexts. -/
def arrayGaps (d : Die) (count : Nat) : List Nat :=
  let open_ := openCtxs d
  ((List.range (d.ledger.arrayBytes.toNat / 16)).map (fun k => d.ledger.arrayBase.toNat + 16 * k)).filter (fun a =>
    decide (a + 16 * count ≤ d.ledger.arrayBase.toNat + d.ledger.arrayBytes.toNat) &&
    !open_.any (fun p => spansMeet a (16 * count) (dirArray p.2) (16 * dirCount p.2)))

/-- An array of FREE entries: TIER NONE, all else 0. -/
def freeArray (d : Die) (a count : Nat) : Die :=
  { d with pkg := memFill d.pkg a (16 * count) (fun i => if i % 16 = 15 then 0xC0 else 0) }

def openBad (m : Msg) : List (Nat × Bool) :=
  [(0x10, msgLE m 0x10 4 == 0), (0x13, msgByte m 0x13 != 0), (0x14, decide (16 ≤ msgByte m 0x14))] ++ zeros m 0x15 3

def dirWord (gen count array : Nat) : BitVec 128 :=
  putFld (putFld (putFld (putFld 0#128 120 8 gen) 119 1 1) 72 24 count) 0 48 array

/-- A context opened in a chosen slot. -/
def openAt (n : Nat) (m : Msg) (d : Die) (slot : Option Nat) : Die :=
  let count := msgLE m 0x10 4
  match slot with
  | none => answer d n m stLimit 0 []
  | some s => match pickFree d 0 (arrayGaps d count) with
    | none => answer d n m stNoSpace 0 []
    | some a =>
      let gen := dirGen (dirEntry d s) + 1
      let id := gen * 65536 + s
      let d1 := putPkg128 (freeArray (drew d) a count) (dirAddr d s) (dirWord gen count a)
      let d2 := { d1 with stew := { d1.stew with opened := d1.stew.opened ++ [(BitVec.ofNat 24 id, BitVec.ofNat 4 (msgByte m 0x14))] } }
      answerAs d2 n m stOk 0 id (leBytes 8 a)

def runOpen (n : Nat) (m : Msg) (d : Die) : Die := openAt n m d (chooseSlot d)

def effOpenContext (n : Nat) (d : Die) : Die := onRequest n opOpenContext 5 openBad .none noArgs (runOpen n) d

/-- What keeps a context's berths from being freed: an itinerary of it that has not ended, a move, a hold, a change under way. -/
def ctxBusy (d : Die) (ctx : Nat) (e : BitVec 128) : Bool :=
  d.stew.itins.any (fun i => i.context.toNat == ctx && itinLive i) || d.ledger.moves.any (fun m => handleCtx m.handle == ctx) ||
  d.ledger.jobs.any (fun j => j.ctx.toNat == ctx) || d.ledger.holds.any (fun h => handleCtx h.handle == ctx) ||
  d.ledger.writes.any (fun w => decide (dirArray e ≤ w.addr) && decide (w.addr < dirArray e + 16 * dirCount e))

/-- The places an entry names are given up. -/
def freePlaces (d : Die) (e : BitVec 128) : Die :=
  let d1 := if entTier e = tierNone then d else freeLoc d (entTier e) (entLoc e)
  if entOldf e then freeLoc d1 (entDtier e) (entDest e) else d1

/-- Every berth freed, the slot closed; its last generation retires it. -/
def closeCtx (d : Die) (ctx : Nat) (e : BitVec 128) : Nat × Die :=
  let slot := ctx % 65536
  let es := (List.range (dirCount e)).map (fun i => pkg128 d (dirArray e + 16 * i))
  let live := es.filter (fun v => entState v != stFree)
  let d1 := freeArray (live.foldl freePlaces d) (dirArray e) (dirCount e)
  let closed := putFld (putFld (putFld (putFld e 119 1 0) 118 1 0) 116 2 0) 115 1 (b2n (dirGen e == 0xFF))
  let d2 := putPkg128 d1 (dirAddr d slot) closed
  let l := d2.ledger
  let d3 := { d2 with
    ledger := { l with dirCache := l.dirCache.filter (fun p => p.2 != slot) },
    stew := { d2.stew with opened := d2.stew.opened.filter (fun p => p.1.toNat != ctx) } }
  (live.length, cons d3 8 0 live.length)

def runClose (n : Nat) (m : Msg) (d : Die) : Die :=
  match liveCtx d (msgCtx m) with
  | none => d
  | some e =>
    if ctxBusy d (msgCtx m) e then d
    else
      let (k, d1) := closeCtx d (msgCtx m) e
      answer d1 n m stOk 0 (leBytes 4 k)

def effCloseContext (n : Nat) (d : Die) : Die := onRequest n opCloseContext 0 (fun _ => []) .berths noArgs (runClose n) d

/-! ### Parties (R273, R406) -/

def partyCores (d : Die) (party : Nat) : Option (BitVec 512) := (d.stew.parties.find? (fun p => p.1.toNat == party)).map (·.2)

def maskIds (v : BitVec 512) : List CoreId := ((List.range 512).filter (fun k => v.getLsbD k)).map (BitVec.ofNat 9)

/-- PARTY set and EPOCH advanced at a core (R240, R241). -/
def setRole (party : BitVec 12) (d : Die) (c : CoreId) : Die :=
  modCore d c (fun x => { x with portParty := party, portEpoch := x.portEpoch + 1 })

def reqMask (m : Msg) : BitVec 512 := BitVec.ofNat 512 (msgLE m 0x20 64)

/-- The epoch of a core is not advanced while the counts of a link of an aborted itinerary disagree there (R241). -/
def epochWaits (d : Die) (c : CoreId) : Bool :=
  d.stew.itins.any (fun i => i.state == .aborted && !i.settled && (hereIds d i).contains c && !linksAgree d i)

def formBad (m : Msg) : List (Nat × Bool) := (0x11, decide (16 ≤ msgByte m 0x11)) :: zeros m 0x12 14

def runForm (n : Nat) (m : Msg) (d : Die) : Die :=
  let party := msgLE m 0x10 2
  let cores := maskIds (reqMask m)
  let offends (c : CoreId) : Bool := !coreInUse d c || d.stew.parties.any (fun p => p.2.getLsbD c.toNat)
  if partyBusy d party then d
  else if party = 0 || (partyCores d party).isSome then answer d n m stBadParty 0 []
  else match cores.find? offends with
    | some c => answer d n m stNoCores c.toNat []
    | none =>
      if cores.any (epochWaits d) then d
      else
      let d1 := cores.foldl (setRole (BitVec.ofNat 12 party)) d
      answer { d1 with stew := { d1.stew with parties := d1.stew.parties ++ [(BitVec.ofNat 12 party, reqMask m)] } } n m stOk 0 []

def effFormParty (n : Nat) (d : Die) : Die := onRequest n opFormParty 80 formBad .none noArgs (runForm n) d

/-- Itineraries of a party of this die in some states. -/
def partyItins (d : Die) (party : Nat) (p : Itin → Bool) : Bool :=
  d.stew.itins.any (fun i => (i.parties.getD d.ident.dieNum.toNat 0).toNat == party && p i)

def disbandBad (m : Msg) : List (Nat × Bool) := [(0x11, decide (16 ≤ msgByte m 0x11)), (0x12, decide (2 ≤ msgByte m 0x12))]

def runDisband (n : Nat) (m : Msg) (d : Die) : Die :=
  let party := msgLE m 0x10 2
  if partyBusy d party then d
  else match partyCores d party with
    | none => answer d n m stBadParty 0 []
    | some v =>
      if partyItins d party itinLive then answer d n m stBusy 0 []
      else if (maskIds v).any (epochWaits d) then d
      else
        let d1 := if msgByte m 0x12 = 1 then (maskIds v).foldl coreReset d else d
        let d2 := (maskIds v).foldl (setRole 0) d1
        answer { d2 with stew := { d2.stew with parties := d2.stew.parties.filter (fun p => p.1.toNat != party) } } n m stOk 0 []

def effDisbandParty (n : Nat) (d : Die) : Die := onRequest n opDisbandParty 3 disbandBad .none noArgs (runDisband n) d

/-! ### LOAD_PROGRAM (R274) -/

def loadBad (m : Msg) : List (Nat × Bool) :=
  [(0x12, decide (4096 < msgLE m 0x12 2 + msgLE m 0x14 2)), (0x14, msgLE m 0x14 2 == 0), (0x18, msgLE m 0x18 8 % 8 != 0)] ++ zeros m 0x16 2

/-- Words written into a core's program memory, whole and with valid check bits. -/
def loadWords (base : Nat) (ws : List (BitVec 64)) (x : Core) : Core :=
  { x with pmem := tabFill 0 x.pmem base ws.length (fun i => ws.getD i 0),
           pmemBad := x.pmemBad.filter (fun k => decide (k < base) || decide (base + ws.length ≤ k)) }

def runLoad (n : Nat) (m : Msg) (d : Die) : Die :=
  let party := msgLE m 0x10 2
  let src := msgLE m 0x18 8
  let k := msgLE m 0x14 2
  if partyBusy d party then d
  else match partyCores d party with
    | none => answer d n m stBadParty 0 []
    | some v =>
      let named := if reqMask m = 0 then v else reqMask m
      if named &&& ~~~v ≠ 0 then answer d n m stBadParty 0 []
      else if d.stew.itins.any (fun i => i.state == .running && (hereCores d i).any (fun e => named.getLsbD e.core.toNat)) then
        answer d n m stBusy 0 []
      else
        let bytes := argRead d src (8 * k)
        let ws := (List.range k).map (fun i => BitVec.ofNat 64 (deLE bytes (8 * i) 8))
        answer ((maskIds named).foldl (fun e c => modCore e c (loadWords (msgLE m 0x12 2) ws)) (drew (argSense src (8 * k) d))) n m stOk 0 []

def loadArgs (_ : Die) (m : Msg) : List Arg := [⟨false, msgLE m 0x18 8, 8 * msgLE m 0x14 2⟩]

def effLoadProgram (n : Nat) (d : Die) : Die := onRequest n opLoadProgram 80 loadBad .none loadArgs (runLoad n) d

/-! ### Saved array images (R110, R111, R275) -/

def imageSize : Nat := 0x2AA00

/-- The header of an image up to its CRC. R110 lists its fields and leaves their places open: the version, SPLIT and LODGE_HALF stand
before ACC_CFG, the others in the order it lists them (DESIGN CHOICE, log entry 28). -/
def imageHead (x : Core) : List Byte :=
  leBytes 2 1 ++ [BitVec.ofNat 8 (b2n x.split + 2 * b2n x.lodgeHalf), 0] ++ leBytes 4 x.accCfg.toNat ++ leBytes 4 x.res0.toNat ++
  leBytes 4 x.res1.toNat ++ leBytes 8 x.tag0.toNat ++ leBytes 8 x.tag1.toNat ++
  (List.range 32).flatMap (fun k => leBytes 4 (tabGet 0 x.tsw k).toNat) ++ (List.range 256).map (tabGet 0 x.scales) ++
  (List.range 4).map (tabGet 0 x.utags) ++ leBytes 88 0

/-- The rest of an image: partial registers, latches of data cells, registers of data cells. -/
def imageTail (x : Core) : List Byte :=
  (List.range 128).flatMap (fun k => leBytes 16 (tabGet 0 x.partials k).toNat) ++
  (List.range 32768).flatMap (fun k => leBytes 2 (tabGet 0 x.latch k).toNat) ++
  (List.range 512).flatMap (fun k => leBytes 208 ((List.range 32).foldl (fun v j => v + (accGet x (k / 32) (k % 32) j).toNat * 2 ^ (52 * j)) 0))

/-- A saved image. Its CRC-32, of which R110 gives the polynomial alone, is that of R301 (DESIGN CHOICE, log entry 27). -/
def imageOf (x : Core) : List Byte :=
  let h := imageHead x
  let t := imageTail x
  h ++ leBytes 4 (crc32 (h ++ t)).toNat ++ t

/-- The checksum cell a restore recomputes from the restored data cells; a poisoned register's cells stay poisoned. -/
def restoredChk (x : Core) (q row col : Nat) : BitVec 52 :=
  let h := colHalf col
  let mode := tagMode x h q
  let cells := if row = 33 then (List.range 32).map (fun i => (i, col)) else (chkCols col).map (fun j => (row, j))
  let f := feedSum (mode = accINT48) (cells.map (fun p => (regValue mode (accGet x q p.1 p.2)).1))
  let poi := cells.any (fun p => regPoi (accGet x q p.1 p.2))
  if mode = accINT48 then mkChk false poi (BitVec.ofInt 48 (xInt f.v)) else mkChk false poi (floatBody 0 (BitVec.ofNat 32 (rne32Sat f.v).code))

/-- The state an image holds, put back; both halves are cold. `rd` reads the image. -/
def restoreCore (rd : Nat → Byte) (x : Core) : Core :=
  let le (o n : Nat) : Nat := leNat ((List.range n).map (fun i => rd (o + i)))
  let y := { x with
    split := le 2 1 % 2 == 1, lodgeHalf := le 2 1 / 2 % 2 == 1, accCfg := BitVec.ofNat 32 (le 4 4), res0 := BitVec.ofNat 32 (le 8 4),
    res1 := BitVec.ofNat 32 (le 12 4), tag0 := BitVec.ofNat 64 (le 16 8), tag1 := BitVec.ofNat 64 (le 24 8),
    tsw := tabFill 0 [] 0 32 (fun k => BitVec.ofNat 32 (le (32 + 4 * k) 4)), tswAt := [], scales := tabFill 0 [] 0 256 (fun k => rd (160 + k)),
    utags := tabFill 0 [] 0 4 (fun k => rd (416 + k)), partials := tabFill 0 [] 0 128 (fun k => BitVec.ofNat 128 (le (0x200 + 16 * k) 16)),
    latch := tabFill 0 [] 0 32768 (fun k => BitVec.ofNat 16 (le (0xA00 + 2 * k) 2)), cold0 := true, cold1 := true }
  let z := { y with acc := tabFill 0 [] 0 18496 (fun n =>
    let row := n / 34 % 34
    let col := n % 34
    if row < 32 ∧ col < 32 then BitVec.ofNat 52 (le (0x10A00 + 208 * (32 * (n / 1156) + row)) 208 / 2 ^ (52 * col)) else 0) }
  { z with acc := tabFill 0 z.acc 0 18496 (fun n =>
    let q := n / 1156
    let row := n / 34 % 34
    let col := n % 34
    if (row = 33 ∨ 32 ≤ col) && cellUsed row col then restoredChk z q row col else accGet z q row col) }

/-- A failed restore clears every register, latch and partial register. -/
def clearedCore (x : Core) : Core :=
  let y := (List.range 16).foldl (fun y q => clearReg y .full q) x
  { y with latch := [], scales := [], partials := [], utags := [], res0 := putFld y.res0 31 1 0, res1 := putFld y.res1 31 1 0 }

/-- The version and CRC of an image. -/
def imageOk (l : List Byte) : Bool :=
  deLE l 0 2 == 1 && (crc32 (l.take 508 ++ l.drop 512)).toNat == deLE l 508 4

/-- A save or a restore of a core is held: a half is busy, or a REDUCE, MERGE or CHAINRED is in flight. -/
def imageHeld (x : Core) : Bool :=
  halfBusy x .full || x.members.any (fun m => m.pending.isSome) || !x.t0.vecWork.isEmpty || !x.t1.vecWork.isEmpty

def imageBad (m : Msg) : List (Nat × Bool) := zeros m 0x12 6

/-- Where the images lie: one after another, a party that is not formed counting as one of a byte. -/
def imageArgs (write : Bool) (d : Die) (m : Msg) : List Arg :=
  [⟨write, msgLE m 0x18 8, match partyCores d (msgLE m 0x10 2) with | some v => imageSize * (maskIds v).length | none => 1⟩]

/-- What both messages check before they begin: the answer, or the cores to go through, or that they must wait. -/
def imageStart (m : Msg) (d : Die) : Sum (Nat × Nat) (Option (List CoreId)) :=
  let party := msgLE m 0x10 2
  match partyCores d party with
  | none => .inl (stBadParty, 0)
  | some v =>
    let cs := maskIds v
    if partyItins d party itinLive then .inl (stBusy, 0)
    else if cs.any (fun c => imageHeld (getCore d c)) then .inr none
    else .inr (some cs)

/-- The itinerary that last ran on a core: of its two threads' the one admitted later. -/
def lastRan (d : Die) (c : CoreId) : Option Itin :=
  let x := getCore d c
  (d.stew.itins.filter (fun i => x.t0.itin == some i.id || x.t1.itin == some i.id)).getLast?

/-- A core's flag log goes to the record of the itinerary that last ran there; only its home Steward writes it (R125, R275, R280). -/
def logToLast (d : Die) (c : CoreId) : Die :=
  match lastRan d c with
  | none => d
  | some i =>
    if homeDie i.id = d.ident.dieNum then syncLog (logTo i.id d c) i.id
    else
      let x := getCore d c
      sendPeer (setCore d c (emptyLog x)) (homeDie i.id) (.flagLog i.id ((flagEntries x).map (fun v => (v, corePlace d c))) x.flagLost)

def runSave (n : Nat) (m : Msg) (d : Die) : Die :=
  if partyBusy d (msgLE m 0x10 2) then d
  else match imageStart m d with
    | .inl (st, det) => answer (drew d) n m st det []
    | .inr none => d
    | .inr (some cs) =>
      let d1 := cs.zipIdx.foldl (fun e p => argWrite (logToLast e p.1) (msgLE m 0x18 8 + imageSize * p.2) (imageOf (getCore e p.1))) d
      answer (drew d1) n m stOk 0 (leBytes 2 cs.length)

/-- Restores in ascending core order up to the first image that fails: that core, if any, and the die. -/
def restoreAll (addr : Nat) : List (CoreId × Nat) → Die → Option CoreId × Die
  | [], d => (none, d)
  | (c, k) :: rest, d =>
    let a := addr + imageSize * k
    if imageOk (argRead d a imageSize) then
      restoreAll addr rest (modCore (argSense a imageSize d) c (restoreCore (fun o => (argRead d (a + o) 1).headD 0)))
    else (some c, modCore (argSense a imageSize d) c clearedCore)

def runRestore (n : Nat) (m : Msg) (d : Die) : Die :=
  if partyBusy d (msgLE m 0x10 2) then d
  else match imageStart m d with
    | .inl (st, det) => answer (drew d) n m st det []
    | .inr none => d
    | .inr (some cs) =>
      match restoreAll (msgLE m 0x18 8) cs.zipIdx d with
      | (some c, d1) => answer (drew d1) n m stRestoreFailed c.toNat []
      | (none, d1) => answer (drew d1) n m stOk 0 (leBytes 2 cs.length)

def effSaveContext (n : Nat) (d : Die) : Die := onRequest n opSaveContext 16 imageBad .none (imageArgs true) (runSave n) d
def effRestoreContext (n : Nat) (d : Die) : Die := onRequest n opRestoreContext 16 imageBad .none (imageArgs false) (runRestore n) d

/-! ### SUBMIT, ABORT, QUERY_PROGRESS (R276, R278, R283, R285) -/

/-- Where an itinerary's completion event goes. -/
def eventDst (m : Msg) : BitVec 8 := BitVec.ofNat 8 (respDst m)

/-- A foreign descriptor names a party of this die that the host has not formed. -/
def foreignDenied (d : Die) (m : Msg) (i : Itin) : Bool :=
  m.src == .foreign && ((i.parties.getD d.ident.dieNum.toNat 0 != 0 && (partyCores d (i.parties.getD d.ident.dieNum.toNat 0).toNat).isNone) ||
    (hereCores d i).any (fun e => !inParty d (i.parties.getD d.ident.dieNum.toNat 0).toNat e.core))

def submitBad (m : Msg) : List (Nat × Bool) := [(0x10, msgLE m 0x10 8 % 64 != 0)]

/-- Where a descriptor names a core of this die outside the party it gives for it (R278). -/
def partyFlaws (d : Die) (l : List Byte) : List Nat :=
  let at_ (o : Nat) : List Nat := flaw o (cfDieOf l o == d.ident.dieNum && !inParty d (descParty l (cfDieOf l o)) (cfCoreOf l o))
  (List.range (nCore l)).flatMap (fun i => at_ (coreAt i)) ++ (List.range (nRing l)).flatMap (fun i => at_ (ringAt l i)) ++
  (List.range (nLink l)).flatMap (fun i => at_ (linkAt l i + 6) ++ (if deB l (linkAt l i) = 2 then at_ (linkAt l i + 0x0A) else []))

/-- The lesser of two findings. -/
def leastOf (a b : Option Nat) : Option Nat := match a, b with
  | some x, some y => some (min x y)
  | some x, none => some x
  | none, y => y

/-- Another die has looked at a descriptor. -/
def noteAsk (no : Nat) (p : BitVec 2) (flaw tally : Option Nat) (d : Die) : Die :=
  { d with stew := { d.stew with asks := d.stew.asks.map (fun a =>
    if a.no = no then { a with asked := a.asked.filter (· != p), flaw := leastOf a.flaw flaw, tally := leastOf a.tally tally } else a) } }

/-- Every address a descriptor's register arrays lie at can be read. -/
def regsReadable (d : Die) (l : List Byte) : Bool :=
  (List.range (nCore l)).all (fun i => argOk d false (deLE l (coreAt i + 8) 8) (16 * deLE l (coreAt i + 0x10) 2) (i + 1))

/-- SUBMIT: what the checks of this die and of the others have found decides the answer (R278). -/
def judgeSubmit (n : Nat) (m : Msg) (d : Die) (l : List Byte) (i : Itin) (flaw tally : Option Nat) : Die :=
  match leastOf (firstFlaw (descFlaws d (msgCtx m) l)) flaw with
  | some o => answer (drew d) n m stBadDescriptor o []
  | none =>
    if !regsReadable d l then answer (drew d) n m stMemError 0 []
    else match regDetail d l with
      | some o => answer (drew d) n m stBadDescriptor o []
      | none => match leastOf (tallyBusy d i) tally with
        | some t => answer (drew d) n m stTallyBusy t []
        | none =>
          if 16 ≤ (waitingOn d (queueKey i)).length || d.stew.serial = BitVec.allOnes 30 then answer (drew d) n m stLimit 0 []
          else
            let d1 := { d with stew := { d.stew with serial := d.stew.serial + 1, itins := d.stew.itins ++ [i] } }
            answer (drew d1) n m stAccepted 0 (leBytes 4 i.id.toNat ++ leBytes 4 0)

/-- SUBMIT: a descriptor that names other dies is looked at by their Stewards first; the request waits for them, and for a fenced die to
rejoin. -/
def runSubmit (n : Nat) (m : Msg) (d : Die) : Die :=
  let desc := msgLE m 0x10 8
  let len := msgLE m 0x18 4
  let l := argRead d desc len
  let id : BitVec 32 := BitVec.ofNat 32 (d.ident.dieNum.toNat * 2 ^ 30 + d.stew.serial.toNat + 1)
  let i0 := parseItin d l id m.src (eventDst m) (BitVec.ofNat 16 (msgSeq m)) (BitVec.ofNat 32 (msgCtx m))
  let i := { i0 with submitNo := m.no, desc := BitVec.ofNat 64 desc }
  if foreignDenied d m i then answer (drew d) n m stDenied 0 []
  else if (itinPeers d i).isEmpty then judgeSubmit n m (argSense desc len d) l i none none
  else match d.stew.asks.find? (fun a => a.no == m.no) with
    | none =>
      if (itinPeers d i).any (fun p => d.link.fenced.getLsbD p.toNat) then d
      else
        let d1 := (itinPeers d i).foldl (fun e p => sendPeer e p (.check m.no (BitVec.ofNat 64 desc) (BitVec.ofNat 32 len))) (argSense desc len d)
        { d1 with stew := { d1.stew with asks := d1.stew.asks ++ [⟨m.no, itinPeers d i, none, none⟩] } }
    | some a =>
      if !a.asked.isEmpty then d
      else judgeSubmit n m { d with stew := { d.stew with asks := d.stew.asks.filter (fun b => b.no != m.no) } } l i a.flaw a.tally

def submitArgs (_ : Die) (m : Msg) : List Arg := [⟨false, msgLE m 0x10 8, msgLE m 0x18 4⟩]

def effSubmit (n : Nat) (d : Die) : Die := onRequest n opSubmit 12 submitBad .optional submitArgs (runSubmit n) d

def stateCode : ItinState → Nat
  | .queued => 0
  | .running => 1
  | .complete => 2
  | .aborted => 3
  | .refused => 4

def progress (i : Itin) : List Byte :=
  leBytes 4 i.id.toNat ++ [BitVec.ofNat 8 (stateCode i.state), 0, 0, 0] ++ leBytes 4 i.stamped.toNat ++ leBytes 4 i.tiles.toNat ++
  leBytes 8 i.record.toNat

/-- The itinerary a request names, when it belongs to the request's source. -/
def ownItin (d : Die) (m : Msg) : Option Itin :=
  (findItin d (BitVec.ofNat 32 (msgLE m 0x10 4))).filter (fun i => homeDie i.id == d.ident.dieNum && i.src == m.src && i.pair == eventDst m)

/-- ABORT: decided by the commit word as the home Steward reads it; the answer waits until the word has been written. -/
def runAbort (n : Nat) (m : Msg) (d : Die) : Die :=
  match ownItin d m with
  | none => answer d n m stNoItinerary 0 []
  | some i =>
    let d1 := if itinLive i && !i.stopping then abortItin (modItin d i.id (fun y => { y with reason := 0x80 })) i.id none else d
    match findItin d1 i.id with
    | none => d1
    | some j =>
      if itinLive j then d1
      else answer d1 n m (if j.state = .complete then stAlreadyComplete else stAborted) 0 (progress j)

def effAbort (n : Nat) (d : Die) : Die := onRequest n opAbort 4 (fun _ => []) .optional noArgs (runAbort n) d

/-- QUERY_PROGRESS: the map in package memory is brought up to date first. -/
def runQuery (n : Nat) (m : Msg) (d : Die) : Die :=
  match ownItin d m with
  | none => answer d n m stNoItinerary 0 []
  | some i => answer (if i.state = .running then writeMap d i else d) n m stOk 0 (progress i)

def effQueryProgress (n : Nat) (d : Die) : Die := onRequest n opQueryProgress 4 (fun _ => []) .optional noArgs (runQuery n) d

/-! ### The commands -/

def execHello (n : Nat) (s : State) := onDie (effHello n) s
def execOpenContext (n : Nat) (s : State) := onDie (effOpenContext n) s
def execCloseContext (n : Nat) (s : State) := onDie (effCloseContext n) s
def execFormParty (n : Nat) (s : State) := onDie (effFormParty n) s
def execDisbandParty (n : Nat) (s : State) := onDie (effDisbandParty n) s
def execLoadProgram (n : Nat) (s : State) := onDie (effLoadProgram n) s
def execSaveContext (n : Nat) (s : State) := onDie (effSaveContext n) s
def execRestoreContext (n : Nat) (s : State) := onDie (effRestoreContext n) s
def execSubmit (n : Nat) (s : State) := onDie (effSubmit n) s
def execItineraryAdmit (itin : BitVec 32) (party : BitVec 16) (s : State) := onDie (effAdmitFrom itin party) s
def execItineraryComplete (itin : BitVec 32) (s : State) := onDie (effComplete itin) s
def execTimeLimit (itin : BitVec 32) (s : State) := onDie (effTimeLimit itin) s
def execAbort (n : Nat) (s : State) := onDie (effAbort n) s
def execQueryProgress (n : Nat) (s : State) := onDie (effQueryProgress n) s
def execItineraryAbort (itin : BitVec 32) (s : State) := onDie (effItinAbort itin) s
def execAbortLinksSettled (itin : BitVec 32) (s : State) := onDie (effSettled itin) s

end Sys2Proof.Machine
end

