-- ==== Sys2Proof/Machine/Berths.lean ====
section
/-! DEFINITION. The berth messages and the hub's Cellar reports (R210 to R226, R287, R288). A message's changes of entries are
committed when it is answered (R293). -/

namespace Sys2Proof.Machine

/-! ### Ranges of indexes -/

def firstIdx (m : Msg) : Nat := msgLE m 0x10 4
def countIdx (m : Msg) : Nat := msgLE m 0x14 4

/-- The offset of the field that takes a range past the context's berths. -/
def rangeBad (m : Msg) (e : BitVec 128) : Option Nat :=
  if countIdx m = 0 then none
  else if dirCount e ≤ firstIdx m then some 0x10
  else if dirCount e < firstIdx m + countIdx m then some 0x14
  else none

/-- The berths a message names, with their entries' addresses. -/
def namedBerths (m : Msg) (e : BitVec 128) : List (BitVec 48 × Nat) :=
  (List.range (countIdx m)).map (fun i =>
    (mkHandle (BitVec.ofNat 24 (msgCtx m)) (firstIdx m + i), dirArray e + 16 * (firstIdx m + i)))

/-- CORE of a request for the LODGE tier: a core of a die, or 0xFFFF for any. -/
def coreBad (m : Msg) : List (Nat × Bool) :=
  [(0x1D, msgByte m 0x18 == 0 && msgLE m 0x1C 2 != 0xFFFF && decide (0x800 ≤ msgLE m 0x1C 2))]

/-- The slice asked for; none for any; a core of another die or not in use has none. -/
def askedCore (d : Die) (m : Msg) : Option (Option CoreId) :=
  let v := msgLE m 0x1C 2
  if v = 0xFFFF then some none
  else if v / 512 % 4 = d.ident.dieNum.toNat && coreInUse d (BitVec.ofNat 9 v) then some (some (BitVec.ofNat 9 v)) else none

/-! ### BERTH_ALLOC -/

def allocBad (m : Msg) : List (Nat × Bool) :=
  [(0x18, msgByte m 0x18 == 2 || decide (4 ≤ msgByte m 0x18)), (0x19, decide (4 ≤ msgByte m 0x19)), (0x1A, decide (4 ≤ msgByte m 0x1A)),
   (0x1B, msgByte m 0x1B != 0)] ++ coreBad m

/-- The entry of a newly allocated berth; AGE is not changed (R228). -/
def allocEntry (m : Msg) (e : BitVec 128) (loc : Nat) : BitVec 128 :=
  putFld (putFld (putFld (entPut e (msgByte m 0x18) stValid 0 loc 0 false) 123 1 (msgByte m 0x1A)) 122 1 (msgByte m 0x1A / 2)) 115 4 (msgByte m 0x19)

/-- Every berth given its place and entry; none when the tier runs out. -/
def allocAll (m : Msg) (core : Option CoreId) : Nat → List (BitVec 48 × Nat) → Die → Option Die
  | _, [], d => some d
  | k, (_, a) :: rest, d =>
    let e := pkg128 d a
    let d1 := if entState e = stFree then cons d 8 1 0 else d
    if msgByte m 0x18 = tierNone then allocAll m core k rest (putPkg128 d1 a (allocEntry m e 0))
    else match findPlace d1 k (msgByte m 0x18) core none with
      | none => none
      | some loc => allocAll m core (k + 1) rest (putPkg128 (takePlace d1 (msgByte m 0x18) loc) a (allocEntry m e loc))

def runAlloc (n : Nat) (m : Msg) (d : Die) : Die :=
  match liveCtx d (msgCtx m) with
  | none => d
  | some e => match rangeBad m e with
    | some o => answer d n m stBadField o []
    | none =>
      let bs := namedBerths m e
      if bs.any (fun p => uncommitted d p.2 || (entState (pkg128 d p.2) == stLost && moving d p.2)) then d
      else if bs.any (fun p => entState (pkg128 d p.2) == stValid || entState (pkg128 d p.2) == stMoving) then answer d n m stBerthState 0 []
      else match askedCore d m, msgByte m 0x18 with
        | none, 0 => answer d n m stNoSpace 0 []
        | core, _ => match allocAll m (core.getD none) 0 bs d with
          | none => answer (drew d) n m stNoSpace 0 []
          | some d1 => answer (drew d1) n m stOk 0 (leBytes 4 bs.length)

def effBerthAlloc (n : Nat) (d : Die) : Die := onRequest n opBerthAlloc 14 allocBad .berths noArgs (runAlloc n) d

/-! ### BERTH_FREE -/

/-- A berth that cannot be freed yet (R220). -/
def freeWaits (d : Die) (p : BitVec 48 × Nat) : Bool :=
  uncommitted d p.2 || moving d p.2 || entState (pkg128 d p.2) == stMoving || d.ledger.holds.any (fun h => h.handle == p.1)

def freeOne (d : Die) (p : BitVec 48 × Nat) : Die :=
  let e := pkg128 d p.2
  if entState e = stFree then d else cons (putPkg128 (freePlaces d e) p.2 (entPut e tierNone stFree 0 0 0 false)) 8 0 1

def runFree (n : Nat) (m : Msg) (d : Die) : Die :=
  match liveCtx d (msgCtx m) with
  | none => d
  | some e => match rangeBad m e with
    | some o => answer d n m stBadField o []
    | none =>
      let bs := namedBerths m e
      if bs.any (freeWaits d) then d
      else answer (bs.foldl freeOne d) n m stOk 0 (leBytes 4 (bs.filter (fun p => entState (pkg128 d p.2) != stFree)).length)

def effBerthFree (n : Nat) (d : Die) : Die := onRequest n opBerthFree 8 (fun _ => []) .berths noArgs (runFree n) d

/-! ### BERTH_MOVE (R217, R220, R223) -/

def moveBad (m : Msg) : List (Nat × Bool) := (0x18, decide (3 ≤ msgByte m 0x18)) :: coreBad m

/-- The berths a migration moves: those with a copy outside the target tier, and the LOST ones, whose moves fail. -/
def migrated (d : Die) (m : Msg) (e : BitVec 128) : List (BitVec 48 × Nat) :=
  ((List.range (dirCount e)).map (fun i => (mkHandle (BitVec.ofNat 24 (msgCtx m)) i, dirArray e + 16 * i))).filter (fun p =>
    let v := entryLast d p.2
    entState v != stFree && (entState v == stLost || (entTier v != tierNone && entTier v != msgByte m 0x18)))

/-- The moves of a request, behind those of the same berths. A core that is not this die's, or not in use, has no place. -/
def startMoves (m : Msg) (core : Option CoreId) (bs : List (BitVec 48 × Nat)) (d : Die) : Die :=
  bs.foldl (fun e p => addMove e (newMove p.1 p.2 (msgByte m 0x18) core true (moving e p.2))) d

def runMove (n : Nat) (m : Msg) (d : Die) : Die :=
  match liveCtx d (msgCtx m) with
  | none => d
  | some e => match rangeBad m e with
    | some o => answer d n m stBadField o []
    | none =>
      let ctx : BitVec 24 := BitVec.ofNat 24 (msgCtx m)
      if d.ledger.jobs.any (fun j => j.ctx == ctx) then d
      else
        let all := countIdx m == 0
        let bs := if all then migrated d m e else namedBerths m e
        let a := dirAddr d (msgCtx m % 65536)
        let d1 := if all then putPkg128 d a (putFld (putFld e 118 1 1) 116 2 (msgByte m 0x18)) else d
        let idx := bs.map (fun p => handleIdx p.1)
        let job : MoveJob := ⟨ctx, all, idx, 0, []⟩
        let core := askedCore d m
        let d2 := { d1 with ledger := { d1.ledger with jobs := d1.ledger.jobs ++ [job] } }
        if msgByte m 0x18 = 0 && core.isNone then
          finishJob { d1 with ledger := { d1.ledger with jobs := d1.ledger.jobs ++ [{ job with left := [], failed := idx.map (fun i => (i, 0x0030)) }] } }
            { job with left := [], failed := idx.map (fun i => (i, 0x0030)) }
        else if bs.isEmpty then finishJob d2 job
        else startMoves m (core.getD none) bs d2

def effBerthMove (n : Nat) (d : Die) : Die := onRequest n opBerthMove 14 moveBad .berths noArgs (runMove n) d

/-! ### LEDGER_QUERY (R288) -/

def queryBad (m : Msg) : List (Nat × Bool) := [(0x14, msgLE m 0x18 8 == 0 && decide (14 < countIdx m))]

def runLedgerQuery (n : Nat) (m : Msg) (d : Die) : Die :=
  let dest := msgLE m 0x18 8
  match liveCtx d (msgCtx m) with
  | none => d
  | some e => match rangeBad m e with
    | some o => answer d n m stBadField o []
    | none =>
      let rows := ((namedBerths m e).zipIdx).flatMap (fun p => leBytes 16 (entryNow d p.1.2 (freeVal d (p.2 + 1))).toNat)
      if dest = 0 then answer (drew d) n m stOk 0 (leBytes 4 (countIdx m) ++ leBytes 12 0 ++ rows)
      else answer (drew (argWrite d dest rows)) n m stOk 0 (leBytes 4 (countIdx m))

def queryArgs (_ : Die) (m : Msg) : List Arg := if msgLE m 0x18 8 = 0 then [] else [⟨true, msgLE m 0x18 8, 16 * countIdx m⟩]

def effLedgerQuery (n : Nat) (d : Die) : Die := onRequest n opLedgerQuery 16 queryBad .berths queryArgs (runLedgerQuery n) d

/-! ### Reports of the hub (R224, R307) -/

/-- One bin reported: the lower of the die's own count and the report is the budget. -/
def reportBin (key : Nat) (r : BinReport) (t : Tab Bin) : Tab Bin :=
  let b := tabGet Bin.reset t key
  let budget := if b.reported && decide (b.budget.toNat < r.budget.toNat) then b.budget else r.budget
  tabSet Bin.reset t key ⟨true, budget, r.retention, r.bad⟩

/-- CELLAR_BINS: bins `first` on of a port. -/
def effCellarBins (port : Bool) (first : BitVec 20) (bins : List BinReport) (d : Die) : Die :=
  let t := bins.zipIdx.foldl (fun t p => if first.toNat + p.2 < 2 ^ 20 then reportBin (b2n port * 2 ^ 20 + first.toNat + p.2) p.1 t else t)
    d.ledger.bins
  { d with ledger := { d.ledger with bins := t } }

/-! ### The commands -/

def execBerthAlloc (n : Nat) (s : State) := onDie (effBerthAlloc n) s
def execBerthFree (n : Nat) (s : State) := onDie (effBerthFree n) s
def execBerthMove (n : Nat) (s : State) := onDie (effBerthMove n) s
def execLedgerQuery (n : Nat) (s : State) := onDie (effLedgerQuery n) s
def execCellarBins (port : Bool) (first : BitVec 20) (bins : List BinReport) (s : State) := onDie (effCellarBins port first bins) s

end Sys2Proof.Machine
end

