-- ==== Sys2Proof/Machine/Services.lean ====
section
/-! DEFINITION. The power, tally, calibration and diagnostic messages, the conservation classes and their checks (R289 to R291,
R369 to R373, R411 to R416). -/

namespace Sys2Proof.Machine

/-- A row that names one value of a message's sub-code: the request at place n carries that value. -/
def onSub (n : Nat) (sub : Msg → Bool) (f : Die → Die) (d : Die) : Die := match d.stew.requests[n]? with
  | some m => if sub (clip m) then f d else d
  | none => d

/-! ### SET_PHASE_OP and POWER_STATUS (R289) -/

/-- PWR_PREF.OP_t. -/
def prefOf (d : Die) (t : Nat) : Nat := fld d.power.pref (4 * t) 3

def phaseOpBad (m : Msg) : List (Nat × Bool) := [(0x10, decide (8 ≤ msgByte m 0x10)), (0x11, decide (8 ≤ msgByte m 0x11))]

/-- SET_PHASE_OP: the preference stored is clamped to MAX_OP. -/
def runPhaseOp (n : Nat) (m : Msg) (d : Die) : Die :=
  let v := min (msgByte m 0x11) d.power.maxOp.toNat
  answer { d with power := { d.power with pref := putFld d.power.pref (4 * msgByte m 0x10) 3 v } } n m stOk 0 [BitVec.ofNat 8 v]

def effSetPhaseOp (n : Nat) (d : Die) : Die := onRequest n opSetPhaseOp 2 phaseOpBad .none noArgs (runPhaseOp n) d

/-- Flags of POWER_STATUS and of a DEMAND flit (R289, R309). -/
def powerFlags (d : Die) : BitVec 8 :=
  packed 8 [(0, 1, b2n d.power.capUnmet), (1, 1, b2n d.power.safe), (2, 1, b2n d.power.hotLimit)]

/-- The POWER_STATUS payload. -/
def powerPayload (d : Die) : List Byte :=
  let p := d.power
  [BitVec.ofNat 8 p.current.toNat, p.phase, BitVec.ofNat 8 p.duty.toNat, powerFlags d] ++ leBytes 2 p.budget.toNat ++
  leBytes 2 p.est.toNat ++ leBytes 2 p.demand.toNat ++ leBytes 2 p.hottest.toNat ++
  (List.range 8).map (fun t => BitVec.ofNat 8 (prefOf d t))

def effPowerStatus (n : Nat) (d : Die) : Die :=
  onRequest n opPowerStatus 0 (fun _ => []) .none noArgs (fun m e => answer e n m stOk 0 (powerPayload e)) d

/-- A POWER event (R269). -/
def powerEvent (d : Die) : Die := postEvent d 0x0020 (powerPayload d)

/-! ### TALLY (R290) -/

def tallySub (m : Msg) : Nat := msgByte m 0x10

def tallyBad (m : Msg) : List (Nat × Bool) :=
  [(0x10, decide (3 ≤ tallySub m)), (0x11, msgByte m 0x11 != 0), (0x14, tallySub m == 2 && msgLE m 0x14 4 != 0)]

/-- The unit performs one operation of the Steward's; READ adds the 0 its value must be (R249). -/
def stewTally (d : Die) (op : Nat) (index : BitVec 16) (value : BitVec 32) : Die × BitVec 32 :=
  let r : TallyReq := ⟨unitOf index, BitVec.ofNat 3 op, true, index, value, 0, d.ident.dieNum, false, 0, 0, 0, 0, 0⟩
  let (d1, old, _) := tallyPerform d r
  (cons d1 4 1 1, old)

def runTally (n : Nat) (m : Msg) (d : Die) : Die :=
  let (d1, old) := stewTally d (if tallySub m = 1 then 1 else 0) (BitVec.ofNat 16 (msgLE m 0x12 2)) (BitVec.ofNat 32 (msgLE m 0x14 4))
  answer d1 n m stOk 0 (leBytes 4 old.toNat)

def effTallyMsg (sub : Msg → Bool) (n : Nat) (d : Die) : Die := onSub n sub (onRequest n opTally 8 tallyBad .none noArgs (runTally n)) d

/-! ### CAL_READ and CAL_WRITE (R291, R369 to R373) -/

def calBad (m : Msg) : List (Nat × Bool) := [(0x10, decide (5 ≤ msgByte m 0x10))]

/-- The bytes CAL_READ reads: the section's, up to MAXLEN and to the section's place. -/
def calReadLen (d : Die) (m : Msg) : Nat := min (min (secLen d (msgByte m 0x10)) (secMax (msgByte m 0x10))) (msgLE m 0x14 4)

def calReadArgs (d : Die) (m : Msg) : List Arg := [⟨true, msgLE m 0x18 8, calReadLen d m⟩]

/-- CAL_READ: the section's bytes as stored. -/
def runCalRead (n : Nat) (m : Msg) (d : Die) : Die :=
  let s := msgByte m 0x10
  answer (argWrite (drew d) (msgLE m 0x18 8) (memRead d.flash (secOff s) (calReadLen d m))) n m (if secCheck d s then stOk else stCalCrc) 0
    (leBytes 4 (secLen d s) ++ leBytes 4 (secCrc d s))

def effCalRead (n : Nat) (d : Die) : Die := onRequest n opCalRead 16 calBad .none calReadArgs (runCalRead n) d

def calWriteBad (m : Msg) : List (Nat × Bool) :=
  (0x14, msgLE m 0x14 4 == 0 || decide (secMax (msgByte m 0x10) < msgLE m 0x14 4)) :: calBad m

/-- CAL_WRITE: the whole section and its directory entry replaced, ORIGIN USER. -/
def runCalWrite (n : Nat) (m : Msg) (d : Die) : Die :=
  let a := msgLE m 0x18 8
  let k := msgLE m 0x14 4
  answer (writeSection (drew (argSense a k d)) (msgByte m 0x10) (argRead d a k) 2) n m stOk 0 []

def calWriteArgs (_ : Die) (m : Msg) : List Arg := [⟨false, msgLE m 0x18 8, msgLE m 0x14 4⟩]

def effCalWrite (n : Nat) (d : Die) : Die := onRequest n opCalWrite 16 calWriteBad .none calWriteArgs (runCalWrite n) d

/-! ### Conservation (R414, R415) -/

/-- Credits a module has spent and not got back. -/
def creditsOut (d : Die) (m : Module) : Nat :=
  let z := d.link.sizes
  (z.req.toNat - m.credReq.toNat) + (z.rsp.toNat - m.credRsp.toNat) + (z.ctrl.toNat - m.credCtrl.toNat)

def inLink (m : Module) : Bool := m.state == msActive || m.state == msRetrain || m.state == msDraining

/-- Every core's value of a count, summed; a core in its reset state counts nothing. -/
def coreSum (d : Die) (f : Core → Nat) : Nat := (d.cores.map (fun p => f p.2)).sum

def tallyTag (o : OpenTag) : Bool := match o.kind with
  | .lookup _ => false
  | .touch => false
  | .waybillLookup _ => false
  | _ => true

def isResponse (i : TxItem) : Bool := match i.what with
  | .response _ _ _ _ => true
  | _ => false

/-- LIVE of a class. -/
def liveOf (d : Die) (c : Nat) : Nat := match c with
  | 0 => d.link.tags.length
  | 1 => (d.link.modules.map (fun p => (p.2.queue.filter isResponse).length)).sum
  | 2 => (d.link.modules.map (fun p => if inLink p.2 then creditsOut d p.2 else 0)).sum
  | 3 => 0
  | 4 => coreSum d (fun x => (x.tags.filter tallyTag).length)
  | 5 => d.tally.waiters.length
  | 6 => coreSum d (fun x => (x.reserved.map (·.2)).sum)
  | 7 => coreSum d (fun x => (x.members.map linkCredits).sum)
  | 8 => allocated d
  | _ => d.ledger.used.length

/-- The counts of one class copied to its registers. -/
def snapClass (d : Die) (c : Nat) : Die :=
  let f := d.flt
  { d with flt := { f with snapIssued := tabSet 0 f.snapIssued c (tabGet 0 f.issued c),
                           snapReturned := tabSet 0 f.snapReturned c (tabGet 0 f.returned c),
                           snapLive := tabSet 0 f.snapLive c (BitVec.ofNat 64 (liveOf d c)) } }

/-- DIE_CONS_SNAP: classes 0 to 5 in one ACLK. -/
def snapshot (d : Die) : Die := (List.range 6).foldl snapClass d

/-- ISSUED − RETURNED − LIVE as the registers hold them. -/
def consGap (d : Die) (c : Nat) : BitVec 64 := tabGet 0 d.flt.snapIssued c - tabGet 0 d.flt.snapReturned c - tabGet 0 d.flt.snapLive c

/-- A class checked: one that fails sets its IMBAL bit, is logged and posted. -/
def checkClass (d : Die) (c : Nat) : Die :=
  if consGap d c = 0 then d
  else imbalance { d with flt := { d.flt with imbal := putFld d.flt.imbal c 1 1 } } (0x10 + c) (consGap d c).toNat

def checkClasses (cs : List Nat) (d : Die) : Die := cs.foldl checkClass (cs.foldl snapClass d)

def hardClasses : List Nat := [0, 1, 2, 3, 4, 5]
def stewClasses : List Nat := [6, 7, 8, 9]

/-- The die is quiescent: no itinerary admitted or stopping, no move in flight, no context or berth message in progress. -/
def dieQuiet (d : Die) : Bool :=
  d.stew.itins.all (fun i => i.state != .running && (i.state != .aborted || i.settled || i.cores.all (fun e => e.die != d.ident.dieNum))) &&
  d.ledger.moves.isEmpty && d.ledger.jobs.isEmpty && d.ledger.writes.isEmpty &&
  d.stew.requests.all (fun m => !ledgerOp (msgOp m))

/-- CONSERVATION_CHECK: the hardware's classes on the schedule; the Steward's when the die becomes quiescent. -/
def effConservation (quiescent : Bool) (d : Die) : Die :=
  if !stewardUp d then d
  else if quiescent then (if dieQuiet d then checkClasses stewClasses d else d)
  else checkClasses hardClasses d

/-! ### DIAG (R291, R416) -/

def diagSub (m : Msg) : Nat := msgLE m 0x10 2
def diagBad (m : Msg) : List (Nat × Bool) := [(0x10, decide (3 ≤ diagSub m))]

/-- ECHO: the bytes from 0x20 come back at 0x20, behind 16 bytes of 0. -/
def runEcho (n : Nat) (m : Msg) (d : Die) : Die :=
  answer d n m stOk 0 (List.replicate (min 16 (msgLen m)) 0 ++ m.bytes.drop 0x20)

def consBytes (d : Die) : List Byte :=
  (List.range 10).flatMap (fun c => (List.range 4).flatMap (fun i => leBytes 8 (consReg d c i).toNat))

/-- What DIAG COUNTERS writes. -/
def counterBytes (d : Die) : List Byte :=
  consBytes d ++ leBytes 8 d.flt.ce.toNat ++ leBytes 4 d.mesh.linkCe.toNat ++ leBytes 8 (dieFatalReg d).toNat

/-- Bytes written for a DIAG message to DEST. -/
def diagWrite (n : Nat) (m : Msg) (l : List Byte) (d : Die) : Die :=
  answer (argWrite (drew d) (msgLE m 0x18 8) l) n m stOk 0 (leBytes 4 l.length)

def runCounters (n : Nat) (m : Msg) (d : Die) : Die :=
  let d1 := checkClasses (hardClasses ++ stewClasses) d
  diagWrite n m (counterBytes d1) d1

def runLog (n : Nat) (m : Msg) (d : Die) : Die := diagWrite n m d.flt.log.flatten d

def countersArgs (d : Die) (m : Msg) : List Arg := [⟨true, msgLE m 0x18 8, (counterBytes d).length⟩]
def logArgs (d : Die) (m : Msg) : List Arg := [⟨true, msgLE m 0x18 8, d.flt.log.flatten.length⟩]

def effDiagEcho (n : Nat) (d : Die) : Die :=
  onSub n (fun m => diagSub m != 1 && diagSub m != 2) (onRequest n opDiag 16 diagBad .none noArgs (runEcho n)) d

def effDiagCounters (n : Nat) (d : Die) : Die := onSub n (fun m => diagSub m == 1) (onRequest n opDiag 16 diagBad .none countersArgs (runCounters n)) d

def effDiagLog (n : Nat) (d : Die) : Die := onSub n (fun m => diagSub m == 2) (onRequest n opDiag 16 diagBad .none logArgs (runLog n)) d

/-! ### The commands -/

def execSetPhaseOp (n : Nat) (s : State) := onDie (effSetPhaseOp n) s
def execPowerStatus (n : Nat) (s : State) := onDie (effPowerStatus n) s
def execTallyMsgAdd (n : Nat) (s : State) := onDie (effTallyMsg (fun m => tallySub m != 1 && tallySub m != 2) n) s
def execTallyMsgSet (n : Nat) (s : State) := onDie (effTallyMsg (fun m => tallySub m == 1) n) s
def execTallyMsgRead (n : Nat) (s : State) := onDie (effTallyMsg (fun m => tallySub m == 2) n) s
def execCalRead (n : Nat) (s : State) := onDie (effCalRead n) s
def execCalWrite (n : Nat) (s : State) := onDie (effCalWrite n) s
def execDiagEcho (n : Nat) (s : State) := onDie (effDiagEcho n) s
def execDiagCounters (n : Nat) (s : State) := onDie (effDiagCounters n) s
def execDiagLog (n : Nat) (s : State) := onDie (effDiagLog n) s
def execConservationCheck (quiescent : Bool) (s : State) := onDie (effConservation quiescent) s
def execDieConsSnap (s : State) := onDie (fun d => if inReset d then d else snapshot d) s

end Sys2Proof.Machine
end

