-- ==== Sys2Proof/Machine/Power.lean ====
section
/-! DEFINITION. Operating points and glides, the VCTL bus, the estimator, budgets, duty and demand, the power manager, droop and thermal
control (R193, R329 to R356). Power is counted in units of 0.125 W. -/

namespace Sys2Proof.Machine

/-! ### Operating points (R334, R193) -/

/-- CPLL of an operating point, in MHz. -/
def opMHz (op : Nat) : Nat := [1200, 2400, 3600, 4800, 5400, 6000, 6600, 7200].getD op 7200

/-- VCTL code of an operating point: V = 0.50 V + 5 mV × code. -/
def opCode (op : Nat) : Nat := [10, 10, 20, 30, 36, 44, 52, 60].getD op 60

/-- LDG_STATUS.INTERVAL of an operating point. -/
def opInterval (op : Nat) : Nat := if 3 ≤ op then 0 else 3 - op

/-- The refresh interval set for an operating point; 8 while the Lodge is hot, and through a thermal-trip hold (R193, R197). -/
def setInterval (op : Nat) (d : Die) : Die :=
  { d with lodge := { d.lodge with interval := if d.lodge.hot || bitB d.boot.held 1 then 3 else BitVec.ofNat 2 (opInterval op) } }

/-! ### VCTL (R336, R337) -/

def modDomain (n : BitVec 4) (f : Domain → Domain) (d : Die) : Die :=
  { d with power := { d.power with domains := tabMod Domain.reset d.power.domains n.toNat f } }

def vctlHead (f : VctlFrame) : List Byte := leBytes 2 (packed 16 [(11, 5, f.domain.toNat), (8, 3, f.cmd.toNat), (0, 8, f.data.toNat)]).toNat

/-- A frame's 24 bits. -/
def vctlWord (f : VctlFrame) : BitVec 24 :=
  packed 24 [(19, 5, f.domain.toNat), (16, 3, f.cmd.toNat), (8, 8, f.data.toNat), (0, 8, (crc8 (vctlHead f).reverse).toNat)]

def vctlSend (d : Die) (f : VctlFrame) : Die :=
  send { d with power := { d.power with vctl := d.power.vctl ++ [f] } } (.vctl (vctlWord f))

/-- The code a domain receives for a nominal code: trim added, clamped to 10 to 60. -/
def trimmed (d : Die) (n : Nat) (code : Nat) : Nat :=
  let v : Int := code + (tabGet Domain.reset d.power.domains n).trim.toInt
  (min 60 (max 10 v)).toNat

/-- SETV to every domain whose code is not the one in force: trims have been loaded (R336). -/
def applyTrims (d : Die) : Die :=
  (List.range 16).foldl (fun e n =>
    let code := trimmed e n e.power.volt.toNat
    if code = (tabGet Domain.reset e.power.domains n).setpoint.toNat then e
    else vctlSend e ⟨BitVec.ofNat 4 n, 0, BitVec.ofNat 8 code, 0⟩) d

/-- SETV to every domain. -/
def setVoltage (code : Nat) (d : Die) : Die :=
  let d1 := { d with power := { d.power with volt := BitVec.ofNat 6 code } }
  (List.range 16).foldl (fun e n => vctlSend e ⟨BitVec.ofNat 4 n, 0, BitVec.ofNat 8 (trimmed e n code), 0⟩) d1

/-! ### The glide engine (R335, R336) -/

def effectiveOp (p : PowerSt) : Nat := min p.target.toNat (min p.opL.toNat p.maxOp.toNat)

/-- The engine's next move toward the effective OP from the frequency and voltage reached: voltage up, then frequency, then voltage
down, in steps of 50 mV; with none left the OP is reached. -/
def glideOn (d : Die) : Die :=
  let p := d.power
  let op := p.effective.toNat
  let on : PowerSt := { p with gliding := true, winGlide := true }
  if p.volt.toNat < opCode op then
    setVoltage (min (p.volt.toNat + 10) (opCode op)) { d with power := { on with slewing := false } }
  else if p.cpllMHz.toNat ≠ opMHz op then
    let d1 := { d with power := { on with slewing := true, slewTo := BitVec.ofNat 13 (opMHz op) } }
    if opMHz op < p.cpllMHz.toNat then setInterval op d1 else d1
  else if opCode op < p.volt.toNat then
    setVoltage (max (p.volt.toNat - 10) (opCode op)) { d with power := { on with slewing := false } }
  else setInterval op { d with power := { p with gliding := false, slewing := false, current := p.effective } }

/-- The effective OP formed again; a change sets the engine on, a voltage step in progress ending first. -/
def retarget (d : Die) : Die :=
  let e := effectiveOp d.power
  if e = d.power.effective.toNat then d
  else
    let d1 := { d with power := { d.power with effective := BitVec.ofNat 3 e } }
    if !d.power.cpllLock || d.test.stm then d1
    else if d.power.slewing then
      glideOn (drew { d1 with power := { d1.power with cpllMHz := BitVec.ofNat 13 (slewAt d), slewing := false } })
    else if d.power.gliding then d1
    else glideOn d1

/-- PWR_OP.TARGET written. -/
def effTarget (op : BitVec 3) (d : Die) : Die := retarget { d with power := { d.power with target := op } }

/-- GLIDE_VOLTAGE_STEP: the step's SETV frames have been answered and its wait is over. -/
def effVoltageStep (d : Die) : Die :=
  if !d.power.gliding || d.power.slewing || d.power.vctl.any (fun f => f.cmd == 0) then d else glideOn d

/-- GLIDE_SLEW_END. -/
def effSlewEnd (d : Die) : Die :=
  if !d.power.slewing then d
  else glideOn { d with power := { d.power with cpllMHz := d.power.slewTo, slewing := false } }

/-! ### Answers on VCTL (R337) -/

def dropVctl (d : Die) (f : VctlFrame) : Die := { d with power := { d.power with vctl := d.power.vctl.erase f } }

/-- A send that failed: sent again, die-fatal at the third. -/
def vctlFail (d : Die) (f : VctlFrame) : Die :=
  if 2 ≤ f.fails then raiseFatal dfIvrFault d else vctlSend (dropVctl d f) { f with fails := f.fails + 1 }

/-- A status that is not good halves the duty at the next boundary. -/
def vctlStatus (v : BitVec 8) (d : Die) : Die :=
  if v.toNat % 16 = 1 then d else powerEvent { d with power := { d.power with halved := true } }

/-- VCTL_RESPONSE: the domain's oldest frame of that command is answered; a bad CRC fails its send. -/
def effVctlResponse (frame : BitVec 24) (d : Die) : Die :=
  match d.power.vctl.find? (fun f => f.domain.toNat == fld frame 19 5) with
  | none => d
  | some f =>
    let crc := crc8 [frame.extractLsb' 16 8, frame.extractLsb' 8 8]
    if crc.toNat ≠ fld frame 0 8 then vctlFail d f
    else if f.cmd.toNat ≠ fld frame 16 3 then d
    else if f.cmd = 0 then
      (if f.data.toNat ≠ fld frame 8 8 then d
       else modDomain f.domain (fun m => { m with setpoint := f.data.setWidth 6 }) (dropVctl d f))
    else vctlStatus (frame.extractLsb' 8 8) (dropVctl d f)

/-- VCTL_TIMEOUT. -/
def effVctlTimeout (domain : BitVec 4) (d : Die) : Die :=
  match d.power.vctl.find? (fun f => f.domain == domain) with
  | none => d
  | some f => vctlFail d f

/-- VCTL_STATUS_POLL. -/
def effVctlPoll (d : Die) : Die :=
  if inReset d then d else (List.range 16).foldl (fun e n => vctlSend e ⟨BitVec.ofNat 4 n, 1, 0, 0⟩) d

/-! ### The estimate (R339, R340) -/

/-- A value rounded up or down to a whole number: which is open where the spec states none. -/
def roundFree (d : Die) (i num den : Nat) : Nat := num / den + (if num % den ≠ 0 && bitB (freeVal d i) 0 then 1 else 0)

def weight (d : Die) (c : Nat) : Nat := (tabGet 0 d.power.weights c).toNat % 65536
def leakAt (d : Die) (op j : Nat) : Nat := (tabGet 0 d.power.leaks (10 * op + j)).toNat % 65536

/-- A sensor's reading. -/
def tempOf (d : Die) (i : Nat) : Int := ((tabGet 0 d.power.sensors i).extractLsb' 0 16).toInt

/-- Leakage of a domain, in 1/640 units: one sixteenth of the table's entry, interpolated between points 40 quarter-degrees apart. -/
def leakDomain (d : Die) (op n : Nat) : Nat :=
  let x := (max 100 (min 460 (tempOf d n))).toNat - 100
  let j := min 8 (x / 40)
  leakAt d op j * (40 - (x - 40 * j)) + leakAt d op (j + 1) * (x - 40 * j)

/-- Leakage and fixed part, in 1/640 units. -/
def staticPart (d : Die) (op : Nat) : Nat := ((List.range 16).map (leakDomain d op)).sum + 640 * weight d 18

/-- The lowest OP whose voltage reaches a code. -/
def opAtCode (code : Nat) : Nat := ((List.range 8).find? (fun op => decide (code ≤ opCode op))).getD 7

/-- The dynamic part's numerator over 64 · 160² · 320,000: domain by domain at the square of its setpoint, then the link and the
slots. -/
def dynPart (d : Die) (w : WindowCounts) : Nat :=
  ((List.range 16).map (fun n =>
    ((List.range 16).map (fun c => weight d c * w.counts.getD (16 * n + c) 0)).sum *
      (100 + (tabGet Domain.reset d.power.domains n).setpoint.toNat) ^ 2)).sum +
  (weight d 16 * w.linkFlits + weight d 17 * w.refreshSlots) * 25600

def dynDen : Nat := 524288000000

/-- E. -/
def estimate (d : Die) (w : WindowCounts) : Nat :=
  divUp (dynPart d w + staticPart d (opAtCode d.power.volt.toNat) * (dynDen / 640)) dynDen

/-! ### Predictions (R343, R347) -/

/-- ACLK × V² of an operating point. -/
def opScale (op : Nat) : Nat := opMHz op * (100 + opCode op) ^ 2

def dutySum (p : PowerSt) : Nat := (p.hist.map (fun h => h.duty.toNat)).sum

/-- E_pred(op) as a numerator and a denominator: dyn is the mean estimate less the mean static part. -/
def predicted (d : Die) (op : Nat) : Nat × Nat :=
  let p := d.power
  let dyn := (p.hist.map (fun h => 640 * h.est)).sum - (p.hist.map (·.static_)).sum
  let den := 640 * opScale p.current.toNat * dutySum p
  (dyn * opScale op * 16 + staticPart d op * opScale p.current.toNat * dutySum p, den)

def capOf (p : PowerSt) : Nat := min p.budget.toNat p.ceil.toNat

/-- OP_p: the preference of the phase in force, within MAX_OP. -/
def preferredOp (d : Die) : Nat := min (prefOf d (d.power.phase.toNat % 8)) d.power.maxOp.toNat

/-- What the die would draw at its preferred OP. -/
def demandNow (d : Die) : Nat :=
  let (num, den) := predicted d (preferredOp d)
  if den = 0 then d.power.ceil.toNat else min d.power.ceil.toNat (roundFree d 2 num den)

/-- The power manager's rules for TARGET. -/
def managerTarget (d : Die) : Nat :=
  let p := d.power
  let cur := p.current.toNat
  let opp := preferredOp d
  let n := p.hist.length
  if opp < cur then opp
  else if dutySum p ≤ 13 * n && 0 < cur then cur - 1
  else if p.hist.all (fun h => h.duty == 16) && cur < opp then
    (((List.range 8).reverse.find? (fun op => decide (cur < op) && decide (op ≤ opp) &&
      (let (num, den) := predicted d op
       decide (16 * num ≤ 15 * capOf p * den)))).getD p.target.toNat)
  else p.target.toNat

/-- The power manager acts, when the Steward runs it. -/
def runManager (d : Die) : Die :=
  if !stewardUp d then d
  else effTarget (BitVec.ofNat 3 (managerTarget d)) { d with power := { d.power with phaseSeen := d.power.phase } }

/-! ### The window's end (R339 to R346, R354) -/

/-- Sensor readings taken, offsets applied; the hottest of them. -/
def takeTemps (w : WindowCounts) (d : Die) : Die :=
  let p := d.power
  let t (i : Nat) : BitVec 16 := w.temps.getD i 0 + tabGet 0 p.thmOff i
  let best := (List.range 24).foldl (fun b i => if (t b).toInt < (t i).toInt then i else b) 0
  let p1 := { p with sensors := tabFill 0 p.sensors 0 24 (fun i => packed 32 [(31, 1, 1), (0, 16, (t i).toNat)]),
                     hottest := t best, hottestIdx := BitVec.ofNat 5 best,
                     peak := if p.peak.toInt < (t best).toInt then t best else p.peak }
  let hot := (List.range 24).any (fun i => decide (420 < (t i).toInt))
  let d1 := { d with power := p1, lodge := { d.lodge with hot := hot } }
  if hot = d.lodge.hot then d1 else setInterval (if p.gliding && !hot then min p.current.toNat p.effective.toNat else p.current.toNat) d1

/-- The budget that takes effect at this boundary, and whether one of the hub's does. -/
def takeBudget (d : Die) : Bool × Die :=
  let p := d.power
  match p.budgetNext with
  | some (b, q) =>
    (true, { d with power := { p with budget := if p.ceil.toNat < b.toNat then p.ceil else b, bseq := q, safe := false, safeDue := false,
                                      budgetNext := none } })
  | none =>
    if p.safeDue then
      (false, powerEvent { d with power := { p with budget := BitVec.ofNat 16 (p.ceil.toNat / 2), safe := true, safeDue := false } })
    else (false, d)

/-- Thermal throttling: HOT, OP_L and the thermal duty limit. -/
def thermalStep (mark : Bool) (d : Die) : Die :=
  let p := d.power
  let t := p.hottest.toInt
  let lim := p.thmHot.toInt
  let hot := decide (lim ≤ t)
  let lower := hot && (!p.hotLimit || mark) && p.opL != 0
  let duty := if p.opL = 0 && p.current = 0 && decide (lim + 20 ≤ t) then max 1 (p.thermalDuty.toNat - 1)
    else if t < lim - 12 then min 16 (p.thermalDuty.toNat + 1) else p.thermalDuty.toNat
  let d1 := { d with power := { p with hotLimit := hot, opL := if lower then p.opL - 1 else p.opL, thermalDuty := BitVec.ofNat 5 duty,
                                       limitThermal := if lower || duty < 16 then true else if p.opL = 7 then false else p.limitThermal } }
  if hot = p.hotLimit then d1 else postEvent d1 0x0021 (BitVec.ofNat 8 p.hottestIdx.toNat :: leBytes 2 p.hottest.toNat)

/-- The duty from the estimate (R345), then a halving that is due (R337). -/
def newDuty (p : PowerSt) (e : Nat) : Nat :=
  let cap := capOf p
  let d := p.duty.toNat
  let d1 := if cap < e then max 1 (d * cap / e) else if 16 * e < 15 * cap && !p.winGlide then min 16 (d + 1) else d
  let d2 := min d1 p.thermalDuty.toNat
  if p.halved then max 1 (d2 / 2) else d2

/-- OP_L under R346, with CAP_UNMET. -/
def budgetLimit (e : Nat) (d : Die) : Die :=
  let p := d.power
  let under := if e ≤ capOf p then p.underCap + 1 else 0
  let p1 := { p with underCap := under, capUnmet := p.capUnmet && decide (under < 16) }
  if capOf p < e && p.duty = 1 then
    (if p.current = 0 then
       (if p.gliding then { d with power := p1 }
        else
          let d1 := { d with power := { p1 with capUnmet := true } }
          if p.capUnmet then d1 else powerEvent d1)
     else { d with power := { p1 with opL := if p.opL < p.current then p.opL else p.current - 1, limitBudget := true } })
  else { d with power := p1 }

/-- A DEMAND flit sent. -/
def sendDemand (v : Nat) (d : Die) : Die :=
  let d1 := { d with power := { d.power with demand := BitVec.ofNat 16 v, demandAge := 0 } }
  emitCtrl d1 (.demand (BitVec.ofNat 16 v) d1.power.bseq d1.power.est (BitVec.ofNat 8 d1.power.current.toNat) (powerFlags d1))

/-- The demand when one is due: with a BUDGET, on a change of more than CEILING / 16 at most once per 16 windows, once per 256. -/
def demandStep (budgeted : Bool) (d0 : Die) : Die :=
  let d := { d0 with power := { d0.power with demandAge := d0.power.demandAge + 1 } }
  let v := demandNow d
  let old := d.power.demand.toNat
  let moved := decide (d.power.ceil.toNat < 16 * ((v - old) + (old - v)))
  if d.link.state ≠ 7 then d
  else if budgeted || (moved && 16 ≤ d.power.demandAge) || 256 ≤ d.power.demandAge then sendDemand v d
  else d

/-- The estimate's registers, and the window kept. EST holds 16 bits; what it reads past them is open. -/
def noteWindow (e st : Nat) (lowered : Bool) (old : PowerSt) (d : Die) : Die :=
  let p := d.power
  let rec_ : WindowRec := ⟨e, st, old.duty, lowered, decide (p.thmHot.toInt - 12 ≤ p.hottest.toInt), p.thermalDuty != 16⟩
  let h := (p.hist ++ [rec_]).drop (p.hist.length + 1 - 16)
  let reg (i v : Nat) : BitVec 16 := if v < 65536 then BitVec.ofNat 16 v else (freeVal d i).setWidth 16
  { d with power := { p with hist := h, est := reg 3 e, static_ := reg 4 (roundFree d 0 st 640),
                             est16 := reg 5 (roundFree d 1 ((h.map (·.est)).sum) h.length) } }

/-- The die's power control at a boundary, outside stand-alone test mode. -/
def boundaryPower (w : WindowCounts) (mark : Bool) (d0 : Die) : Die :=
  let e := estimate d0 w
  let st := staticPart d0 (opAtCode d0.power.volt.toNat)
  let old := d0.power
  let (budgeted, d1) := takeBudget d0
  let d2 := budgetLimit e (thermalStep mark d1)
  let duty := newDuty { d2.power with duty := old.duty } e
  let d3 := setDuty duty d2
  let d4 := noteWindow e st (decide (d3.power.opL < old.opL)) old { d3 with power := { d3.power with halved := false } }
  let d5 := retarget d4
  let d6 := demandStep budgeted d5
  if d6.power.phase ≠ d6.power.phaseSeen then runManager d6 else d6

/-- WINDOW_BOUNDARY. -/
def effWindow (w : WindowCounts) (d : Die) : Die :=
  if !d.power.cpllLock then d
  else
    let p := d.power
    let n := p.windows + 1
    let mark := n.toNat % 16 == 0
    let d1 := takeTemps w { d with power := { p with refCnt := BitVec.ofNat 64 ((p.refCnt.toNat / 256 + 1) * 256), windows := n } }
    let d2 := if d.test.stm || !d.fuse.sensed then d1 else boundaryPower w mark d1
    drew { d2 with power := { d2.power with winGlide := d2.power.gliding, markDone := !mark } }

/-- SIXTEEN_WINDOW_MARK: OP_L rises by one after 16 quiet windows, then the power manager acts. -/
def effMark (d : Die) : Die :=
  let p := d.power
  if p.markDone then d
  else
    let quiet := p.hist.length == 16 && p.hist.all (fun h => !h.lowered && !h.warm && !h.limited)
    let up := if quiet && p.opL != 7 then p.opL + 1 else p.opL
    let d1 := { d with power := { p with markDone := true, opL := up, limitBudget := p.limitBudget && up != 7,
                                         limitThermal := p.limitThermal && (up != 7 || p.thermalDuty != 16) } }
    runManager (retarget d1)

/-- BUDGET: accepted at once, in force from the next boundary. -/
def effBudget (b q : BitVec 16) (d : Die) : Die :=
  if d.link.state ≠ 7 then d
  else { d with power := { d.power with budgetNext := some (b, q), lastBudget := d.power.refCnt.toNat, safeDue := false } }

/-- SAFE_BUDGET_TIMEOUT: 2^20 REFCLK after the last BUDGET, in the window in which they end or later. -/
def effSafe (d : Die) : Die :=
  let p := d.power
  let due := p.lastBudget + 2 ^ 20
  if p.safe || p.safeDue || p.budgetNext.isSome || (p.refCnt.toNat / 256 + 1) * 256 ≤ due then d
  else { d with power := { p with safeDue := true, refCnt := BitVec.ofNat 64 (max p.refCnt.toNat due) } }

/-! ### Droop and heat (R350, R352, R355) -/

/-- DROOP_DETECT: skipping begins; none in stand-alone test mode. -/
def effDroop (n : BitVec 4) (d : Die) : Die :=
  if d.test.stm then d
  else modDomain n (fun m => if m.skipping then m else { m with skipping := true, droops := satInc m.droops }) d

/-- DROOP_RECOVERY, with the pulses skipped. -/
def effDroopEnd (n : BitVec 4) (skipped : BitVec 32) (d : Die) : Die :=
  modDomain n (fun m => if m.skipping then
      { m with skipping := false, skipped := BitVec.ofNat 32 (min (2 ^ 32 - 1) (m.skipped.toNat + skipped.toNat)) }
    else m) d

/-- THERMAL_TRIP of a running die. -/
def effTrip (d : Die) : Die := raiseFatal dfThermtrip d

/-! ### The commands -/

def execPwrOpTargetWrite (op : BitVec 3) (s : State) := onDie (fun d => if inReset d then d else effTarget op d) s
def execGlideVoltageStep (s : State) := onDie effVoltageStep s
def execGlideSlewEnd (s : State) := onDie effSlewEnd s
def execVctlResponse (frame : BitVec 24) (s : State) := onDie (effVctlResponse frame) s
def execVctlTimeout (domain : BitVec 4) (s : State) := onDie (effVctlTimeout domain) s
def execVctlStatusPoll (s : State) := onDie effVctlPoll s
def execWindowBoundary (w : WindowCounts) (s : State) := onDie (effWindow w) s
def execSixteenWindowMark (s : State) := onDie effMark s
def execBudget (budget bseq : BitVec 16) (s : State) := onDie (effBudget budget bseq) s
def execSafeBudgetTimeout (s : State) := onDie effSafe s
def execDroopDetect (domain : BitVec 4) (s : State) := onDie (effDroop domain) s
def execDroopRecovery (domain : BitVec 4) (skipped : BitVec 32) (s : State) := onDie (effDroopEnd domain skipped) s
def execThermalTrip (sensor : BitVec 5) (s : State) := onDieIf (sensorOk sensor) effTrip s

end Sys2Proof.Machine
end

