-- ==== Sys2Proof/Machine/Keyhold.lean ====
section
/-! DEFINITION. The Keyholder: signed objects and images, firmware messages, fuse programming, attestation, foreign windows, debug
sessions (R365 to R368, R383 to R400). -/

namespace Sys2Proof.Machine

/-! ### Keys and signed objects (R385, R386) -/

/-- The uses of a key. -/
def useKhfw : Nat := 0
def useRuntime : Nat := 1
def useMonitor : Nat := 2
def useFuse : Nat := 3
def useDebug : Nat := 4

/-- The 66 bytes of a key record in eleven good words. -/
def keyRecord (d : Die) (w : Nat) : Option (List Byte) :=
  if (List.range 11).all (fun i => fuseGood (w + i) (fuseWord d (w + i))) then
    some ((List.range 11).flatMap (fun i => leBytes 6 (fuseData d (w + i))))
  else none

def rootKey (d : Die) : Option (List Byte) := keyRecord d 0x2D0
def ownerKey (d : Die) (i : Nat) : Option (List Byte) := keyRecord d (0x2A4 + 11 * i)

/-- Whether a record's USES hold a bit. -/
def usesBit (r : List Byte) (i : Nat) : Bool := bitB (BitVec.ofNat 16 (deLE r 64 2)) i

/-- A good slot keeps the root from a use. -/
def rootExcluded (d : Die) (use : Nat) : Bool :=
  (List.range 4).any (fun i => match ownerKey d i with
    | some r => usesBit r use && usesBit r 5
    | none => false)

/-- A signer and the key it carries are permitted for a use. -/
def signerOk (d : Die) (signer : Nat) (key : List Byte) (use : Nat) : Bool :=
  let named := if signer = 0 then rootKey d else if signer ≤ 4 then ownerKey d (signer - 1) else none
  match named with
  | none => false
  | some r => r.take 64 == Config.shake256 64 key && (if signer = 0 then !rootExcluded d use else usesBit r use)

/-- The signature over an object's signed bytes. -/
def sigOk (key signed sig : List Byte) : Bool := Config.ed448Verify key (Config.shake256 64 signed) sig

/-- Bytes of a range that are all 0. -/
def allZero (l : List Byte) (o n : Nat) : Bool := (flawZeros l o n).isEmpty

def slice (l : List Byte) (o n : Nat) : List Byte := (l.drop o).take n

/-! ### Images (R387 to R389) -/

def bodyLimit (image : Nat) : Nat := match image with | 0 => 0x60000 | 1 => 0x600000 | _ => 199680
def imgBodyLen (l : List Byte) : Nat := deLE l 8 4
def imgSecver (l : List Byte) : Nat := deB l 5
def imgEntry (l : List Byte) : Nat := deLE l 0x0C 4

def imgHeaderOk (image : Nat) (l : List Byte) : Bool :=
  deLE l 0 4 == 0x4D495A4B && deB l 4 == image && decide (imgSecver l ≤ 64) && deB l 7 == 0 &&
  (if image = 2 then imgEntry l == 0 && decide (199680 ≤ imgBodyLen l) else decide (imgEntry l < imgBodyLen l)) &&
  allZero l 0x18 8 && allZero l 0x99 7 && (image == 1 || allZero l 0xA0 128) && allZero l 0x120 96 && allZero l 0x1F2 14

/-- Bytes that BODY_DIGEST covers. -/
def digested (image : Nat) (l : List Byte) : List Byte := slice l 0x200 (if image = 2 then 3072 else imgBodyLen l)

/-- Why an image is not accepted: the status and DETAIL of the first check that fails. -/
def imageFault (d : Die) (image : Nat) (l : List Byte) : Option (Nat × Nat) :=
  let key := slice l 0x60 57
  if l.length ≠ 512 + imgBodyLen l || !imgHeaderOk image l then some (stFwVerify, 1)
  else if !signerOk d (deB l 6) key image then some (stFwVerify, 2)
  else if !sigOk key (slice l 0 0x180) (slice l 0x180 114) then some (stFwVerify, 3)
  else if slice l 0x20 64 ≠ Config.shake256 64 (digested image l) then some (stFwVerify, 4)
  else if bodyLimit image < imgBodyLen l then some (stFwVerify, 5)
  else if imgSecver l < secverFused d then some (stFwRollback, imgSecver l)
  else none

/-- A slot's image as the flash holds it; one whose length is past every limit is read no further than that. -/
def slotImage (d : Die) (image slot : Nat) : List Byte :=
  let o := slotOff image slot
  memRead d.flash o (512 + min (calLE d (o + 8) 4) (bodyLimit image + 1))

def slotEmpty (d : Die) (image slot : Nat) : Bool := calLE d (slotOff image slot) 4 != 0x4D495A4B

def measureOf (l : List Byte) : List Byte := Config.shake256 64 (slice l 0 0x180)

def fwBad (m : Msg) : List (Nat × Bool) := [(0x10, decide (3 ≤ msgByte m 0x10))]

/-- FW_STAGE: a good image is written into its uncommitted slot. -/
def runStage (n : Nat) (m : Msg) (d : Die) : Die :=
  let image := msgByte m 0x10
  let src := msgLE m 0x18 8
  let len := msgLE m 0x14 4
  let l := argRead d src len
  let d0 := argSense src len d
  match imageFault d image l with
  | some (st, det) => answer (drew d0) n m st det []
  | none =>
    let d1 := { d0 with flash := memWrite d.flash (slotOff image (1 - committedSlot d image)) l }
    answer (drew d1) n m stOk 0 [BitVec.ofNat 8 (imgSecver l)]

def stageArgs (_ : Die) (m : Msg) : List Arg := [⟨false, msgLE m 0x18 8, msgLE m 0x14 4⟩]

def effFwStage (n : Nat) (d : Die) : Die := onRequest n opFwStage 16 fwBad .none stageArgs (runStage n) d

/-- FW_COMMIT: the selector switches to the other slot when its image verifies. -/
def runCommit (n : Nat) (m : Msg) (d : Die) : Die :=
  let image := msgByte m 0x10
  let other := 1 - committedSlot d image
  if slotEmpty d image other then answer d n m stFwVerify 6 []
  else match imageFault d image (slotImage d image other) with
    | some (st, det) => answer d n m st det []
    | none => answer { d with flash := memWrite d.flash (selectorOff + image) [BitVec.ofNat 8 other] } n m stOk 0 []

def effFwCommit (n : Nat) (d : Die) : Die := onRequest n opFwCommit 1 fwBad .none noArgs (runCommit n) d

/-! ### Fuse programming (R365 to R367, R390, R391) -/

def fuseKind (m : Msg) : Nat := msgByte m 0x10
def fuseArg (m : Msg) : Nat := msgByte m 0x11
def fuseAuth (m : Msg) : Nat := msgLE m 0x18 8

/-- What is wrong with a request whatever the fuses hold. -/
def fuseBadFields (m : Msg) : List (Nat × Bool) :=
  [(0x10, decide (5 ≤ fuseKind m)), (0x11, (fuseKind m == 1 && decide (4 ≤ fuseArg m)) || (fuseKind m == 3 && fuseArg m != 0) ||
    (fuseKind m == 2 && fuseArg m != 2 && fuseArg m != 3) || (fuseKind m == 4 && fuseArg m == 0)),
   (0x18, if fuseKind m = 4 then fuseAuth m != 0 else fuseAuth m % 64 != 0)]

/-- Blank words of a region, ascending. -/
def blankWords (d : Die) (lo n : Nat) : List Nat := ((List.range n).map (· + lo)).filter (fun w => !fuseWritten (fuseWord d w))

/-- The effective variant (R364). -/
def effVariant (d : Die) : Nat :=
  ((List.range 3).map (fun i => fuseData d (0x2FB + i) % 16)).foldl max (fuseData d 1 % 16)

/-- Limits of a variant code: highest OP and ceiling (R3, R348). -/
def variantLimits (v : Nat) : Option (Nat × Nat) := match v with
  | 1 => some (7, 0x1040)
  | 2 => some (6, 0x0DC0)
  | 3 => some (5, 0x0B90)
  | _ => none

/-- The effective variant put in force: DIE_ID, MAX_OP, PWR_CEIL. -/
def applyVariant (d : Die) : Die :=
  let v := effVariant d
  let d1 := { d with ident := { d.ident with variant := BitVec.ofNat 4 v } }
  match variantLimits v with
  | none => d1
  | some (op, ceil) => { d1 with power := { d1.power with maxOp := BitVec.ofNat 3 op, ceil := BitVec.ofNat 16 ceil } }

/-- Uses left of a KIND. -/
def usesLeft (d : Die) (kind : Nat) : Nat := match kind with
  | 0 => (blankWords d 0x264 64).length
  | 1 => ((List.range 4).filter (fun i => (blankWords d (0x2A4 + 11 * i) 11).length == 11)).length
  | 2 => (blankWords d 0x2FB 3).length
  | 3 => (blankWords d 0x2FE 1).length
  | _ => (blankWords d 0x164 256).length

/-- Logged soft repairs not already fused: an entry names the same core, bank, row and spare. -/
def unfusedRepairs (d : Die) : List (BitVec 32) :=
  let fused := (List.range 256).filterMap (fun i =>
    if fuseGood (0x164 + i) (fuseWord d (0x164 + i)) then some (fuseData d (0x164 + i) % 2 ^ 32 / 16) else none)
  d.lodge.softLog.filter (fun e => !fused.contains (e.toNat / 16))

/-- The authorisation's 384 bytes. -/
def authBytes (d : Die) (m : Msg) : List Byte := argRead d (fuseAuth m) 384

def fuseArgs (_ : Die) (m : Msg) : List Arg := if fuseKind m = 4 then [] else [⟨false, fuseAuth m, 384⟩]

def authShape (m : Msg) (l : List Byte) : Bool :=
  deLE l 0 4 == 0x41465A4B && deB l 4 == fuseKind m && deB l 5 == fuseArg m &&
  (if fuseKind m = 1 then allZero l 0x52 6 else allZero l 0x10 72) && allZero l 0x91 111 && allZero l 0x172 14

/-- DETAIL of a refused authorisation. -/
def authFault (d : Die) (m : Msg) : Option Nat :=
  let l := authBytes d m
  let key := slice l 0x58 57
  if !authShape m l then some 2
  else if !signerOk d (deB l 6) key useFuse then some 3
  else if !sigOk key (slice l 0 0x100) (slice l 0x100 114) then some 4
  else if deLE l 8 8 ≠ dieSerial d || deB l 7 ≠ 128 - logFree d then some 5
  else if fuseKind m = 0 && (List.range 3).any (fun i => !slotEmpty d i (committedSlot d i) &&
      decide (calLE d (slotOff i (committedSlot d i) + 5) 1 < fuseArg m)) then some 6
  else none

/-- Why the fuses themselves refuse a request: status and DETAIL. -/
def fuseRefused (d : Die) (m : Msg) : Option (Nat × Nat) :=
  let arg := fuseArg m
  match fuseKind m with
  | 0 => if arg ≤ secverFused d then some (stBadField, 0x11) else if 64 < arg then some (stFuseLimit, 0) else none
  | 1 => if (blankWords d (0x2A4 + 11 * arg) 11).length ≠ 11 then some (stFuseLimit, 0) else none
  | 2 => if arg ≤ effVariant d then some (stBadField, 0x11) else if (blankWords d 0x2FB 3).isEmpty then some (stFuseLimit, 0) else none
  | 3 => if (blankWords d 0x2FE 1).isEmpty then some (stFuseLimit, 0) else none
  | _ => none

/-- The target words of an event with their DATA; what a version or debug-disable word holds beside its marks is open. -/
def fuseTargets (d : Die) (m : Msg) : List (Nat × BitVec 64) :=
  let arg := fuseArg m
  match fuseKind m with
  | 0 => ((blankWords d 0x264 64).take (arg - secverFused d)).map (fun w => (w, freeVal d w))
  | 1 => (List.range 11).map (fun i => (0x2A4 + 11 * arg + i, BitVec.ofNat 64 (deLE (slice (authBytes d m) 0x10 66) (6 * i) 6)))
  | 2 => ((blankWords d 0x2FB 3).take 1).map (fun w => (w, BitVec.ofNat 64 arg))
  | 3 => [(0x2FE, freeVal d 0x2FE)]
  | _ => (blankWords d 0x164 256).zip ((unfusedRepairs d).take arg |>.map (·.setWidth 64))

/-- The event log's DATA (R367). -/
def logData (d : Die) (m : Msg) : BitVec 64 := packed 64 [(44, 4, fuseKind m + 1), (32, 8, fuseArg m), (0, 32, d.ledger.epoch.toNat)]

def usesReply (d : Die) (kind : Nat) : List Byte := [BitVec.ofNat 8 (usesLeft d kind)]

/-- FUSE_PROGRAM: a request that passes begins its event, the log word first. -/
def runFuse (n : Nat) (m : Msg) (d : Die) : Die :=
  if d.fuse.event.isSome then d
  else match fuseRefused d m with
    | some (st, det) => answer d n m st det []
    | none =>
      if (blankWords d 0x2FF 128).isEmpty then answer d n m stFuseLimit 0 []
      else if !d.fuse.efusePg then answer d n m stKeyholderDenied 1 []
      else match (if fuseKind m = 4 then none else authFault d m) with
        | some det => answer (drew d) n m stKeyholderDenied det []
        | none =>
          let ws := fuseTargets d m
          if ws.isEmpty then answer (drew d) n m stOk 0 (usesReply d (fuseKind m))
          else
            let all := ((blankWords d 0x2FF 128).take 1).map (fun w => (w, logData d m)) ++ ws
            let ev : FuseEvent := ⟨all.map (fun p => (BitVec.ofNat 10 p.1, fuseFull p.1 p.2)), m, BitVec.ofNat 8 (fuseKind m)⟩
            drew { d with fuse := { d.fuse with event := some ev, programming := true }, trust := { d.trust with busy := true } }

def effFuse (sub : Msg → Bool) (n : Nat) (d : Die) : Die := onSub n sub (onRequest n opFuseProgram 16 fuseBadFields .none fuseArgs (runFuse n)) d

/-- The request of an event answered, and the FUSE registers loaded. -/
def endFuse (ev : FuseEvent) (st det : Nat) (d : Die) : Die :=
  let d1 := { d with fuse := { d.fuse with event := none, programming := false, seen := d.fuse.otp },
                     trust := { d.trust with busy := false } }
  let d2 := { d1 with trust := { d1.trust with secver := BitVec.ofNat 8 (secverFused d1) } }
  let d3 := if ev.kind = 2 then retarget (applyVariant d2) else d2
  match d3.stew.requests.findIdx? (fun m => m.no == ev.msg.no) with
  | none => d3
  | some n => answer d3 n ev.msg st det (if st = stOk then usesReply d3 ev.kind.toNat else [])

/-- FUSE_WORD_PROGRAMMED. -/
def effFuseWord (d : Die) : Die :=
  match d.fuse.event with
  | none => d
  | some ev => match ev.words with
    | [] => d
    | (w, v) :: rest =>
      let d1 := { d with fuse := { d.fuse with otp := tabSet 0 d.fuse.otp w.toNat v, event := some { ev with words := rest } } }
      if rest.isEmpty then endFuse ev stOk 0 d1 else d1

/-- VDD_EFUSE_GOOD. -/
def effEfuseGood (d : Die) : Die := { d with fuse := { d.fuse with efusePg := true } }

/-- VDD_EFUSE_LOSS: the word being programmed is left incomplete, and the event ends. -/
def effEfuseLoss (d : Die) : Die :=
  let d1 := { d with fuse := { d.fuse with efusePg := false } }
  match d.fuse.event with
  | none => d1
  | some ev => endFuse ev stKeyholderDenied 1 (cutWord d1)

/-! ### Identity and attestation (R392 to R394) -/

/-- The PUF key, rebuilt from the helper data. -/
def pufOf (d : Die) : Option (List Byte) := Config.pufKey ((List.range 32).map (fun i => fuseWord d (0x2DB + i)))

/-- "ZK1 identity". -/
def identityLabel : List Byte := [0x5A, 0x4B, 0x31, 0x20, 0x69, 0x64, 0x65, 0x6E, 0x74, 0x69, 0x74, 0x79]

def identityKey (d : Die) (k : List Byte) : List Byte := (Config.shake256 114 (identityLabel ++ k ++ leBytes 8 (dieSerial d))).take 57

/-- Exactly n bytes of a list. -/
def fit (n : Nat) (l : List Byte) : List Byte := (l ++ List.replicate n 0).take n

def attestFlags (d : Die) : BitVec 16 :=
  packed 16 [(0, 1, b2n d.trust.dbgOpen), (1, 1, b2n (debugOff d)), (2, 1, b2n (d.boot.calDefault != 0)),
    (3, 1, b2n (d.ident.excluded != 0)), (4, 1, b2n d.trust.fallback)]

def openWindows (d : Die) : BitVec 8 := packed 8 ((List.range 8).map (fun n => (n, 1, b2n (tabGet Window.reset d.trust.windows n).open_)))

def fuseDigest (d : Die) : List Byte :=
  Config.shake256 64 ((List.range 1024).flatMap (fun n => leBytes 8 (if 0x2DB ≤ n ∧ n ≤ 0x2FA then 0 else (fuseWord d n).toNat)))

/-- The signed bytes of a report. -/
def reportBody (d : Die) (nonce key : List Byte) : List Byte :=
  leBytes 4 0x54415A4B ++ leBytes 2 1 ++ leBytes 2 (attestFlags d).toNat ++ leBytes 8 (dieSerial d) ++ fit 32 nonce ++
  leBytes 4 (dieId d).toNat ++ leBytes 4 (diePkg d).toNat ++ leBytes 4 (dieCores d).toNat ++ leBytes 4 (dieBoot d).toNat ++
  [BitVec.ofNat 8 (secverFused d), BitVec.ofNat 8 d.ident.variant.toNat, BitVec.ofNat 8 d.power.maxOp.toNat, openWindows d] ++
  leBytes 2 d.power.ceil.toNat ++ leBytes 2 d.trust.signers.toNat ++ leBytes 8 (fuseUses d).toNat ++
  (List.range 3).flatMap (fun i => fit 64 (tabGet [] d.trust.measurements i)) ++ fit 64 (fuseDigest d) ++
  fit 57 (Config.ed448Public key) ++ leBytes 3 0

def report (d : Die) (nonce key : List Byte) : List Byte :=
  let b := reportBody d nonce key
  b ++ fit 114 (Config.ed448Sign key (Config.shake256 64 b)) ++ leBytes 2 0

def attestBad (m : Msg) : List (Nat × Bool) := [(0x30, msgLE m 0x30 8 % 64 != 0)]

def attestArgs (_ : Die) (m : Msg) : List Arg := [⟨true, msgLE m 0x30 8, 512⟩]

def runAttest (n : Nat) (m : Msg) (d : Die) : Die :=
  let dest := msgLE m 0x30 8
  match pufOf d with
  | none => answer d n m stKeyholderDenied 7 []
  | some k =>
    answer (argWrite (drew d) dest (report d (slice m.bytes 0x10 32) (identityKey d k))) n m stOk 0 (leBytes 2 512)

def effAttest (n : Nat) (d : Die) : Die := onRequest n opAttest 40 attestBad .none attestArgs (runAttest n) d

/-! ### Foreign windows (R16, R396, R397) -/

def modWin (n : Nat) (f : Window → Window) (d : Die) : Die :=
  { d with trust := { d.trust with windows := tabMod Window.reset d.trust.windows n f } }

/-- KH_FWIN_OPEN: ignored while the grant is not valid. -/
def effWinOpen (n : BitVec 3) (d : Die) : Die := modWin n.toNat (fun w => if w.granted then { w with open_ := true } else w) d

/-- KH_FWIN_CLOSE: an open window is CLOSING until what it admitted has completed. -/
def effWinClose (n : BitVec 3) (d : Die) : Die :=
  modWin n.toNat (fun w => if w.open_ then { w with open_ := false, closing := true } else w) d

/-- A request admitted through a window whose response still waits at a module (R16). -/
def stillOpen (d : Die) (w : Window) : Bool :=
  w.admitted.any (fun p => (List.range 192).any (fun n => (getMod d n).queue.any (fun i => match i.what with
    | .response g t _ _ => (g, t) == p
    | _ => false)))

/-- WINDOW_CLOSE_COMPLETE: every request the window admitted has completed. -/
def effWinClosed (n : BitVec 3) (d : Die) : Die :=
  if stillOpen d (tabGet Window.reset d.trust.windows n.toNat) then d
  else modWin n.toNat (fun w => { w with closing := false, admitted := [] }) d

def eachWindow (f : BitVec 3 → Die → Die) (d : Die) : Die := (List.range 8).foldl (fun e n => f (BitVec.ofNat 3 n) e) d

/-- A POLICY entry's grant; one not well formed, or all zero, grants nothing. -/
def grantOf (l : List Byte) : Window :=
  let base := deLE l 0 5
  let lim := deLE l 5 5
  let within (lo n : Nat) : Bool := decide (lo ≤ base) && decide (lim < lo + n)
  let ranged := decide (base ≤ lim)
  let ok := base % 64 == 0 && lim % 64 == 0 && (!ranged || within 0 0x80000000 || within 0x100000000 0x10000000) &&
    decide (deB l 10 < 4) && decide (deB l 11 < 16) && allZero l 12 4
  if !ok || allZero l 0 16 then Window.reset
  else { Window.reset with base := BitVec.ofNat 64 base, limit := BitVec.ofNat 64 lim, granted := true,
                           r := deB l 10 % 2 == 1, w := deB l 10 / 2 % 2 == 1, pairs := BitVec.ofNat 4 (deB l 11) }

/-! ### Debug sessions (R398 to R400) -/

/-- The Keyholder answers the TAP: VDD_AON is up, the die is neither held nor in stand-alone test mode, and its fuses are sensed. -/
def khAnswers (d : Die) : Bool := d.boot.aon && !inReset d && !d.test.stm && d.fuse.sensed && !debugOff d && d.trust.dbgFails != 8

def setIr (ir : BitVec 8) (d : Die) : Die := if !d.boot.aon then d else { d with test := { d.test with ir := ir, bypass := false, driving := false } }

/-- DBG_CHAL: a fresh nonce, which ends every earlier one; zeros when no session can be opened. -/
def effDbgChal (d0 : Die) : Die :=
  let d := setIr 0x10 d0
  if khAnswers d then
    let v := Config.nonce d.trust.nonces
    send { d with trust := { d.trust with nonce := some v, nonces := d.trust.nonces + 1 } } (.tap v)
  else if d.boot.aon then send d (.tap 0)
  else d

/-- A debug response that R399 accepts. -/
def respOk (d : Die) (l : List Byte) : Bool :=
  let key := slice l 0x58 57
  l.length == 384 && deLE l 0 4 == 0x42445A4B && decide (deB l 4 < 32) && deB l 5 == 0 && deB l 7 == 0 && deLE l 8 8 == dieSerial d &&
  (match d.trust.nonce with
   | some v => deLE l 0x10 32 == v.toNat
   | none => false) &&
  decide (1 ≤ deLE l 0x30 2) && decide (deLE l 0x30 2 ≤ 3600) && allZero l 0x32 38 && allZero l 0x91 111 && allZero l 0x172 14 &&
  signerOk d (deB l 6) key useDebug && sigOk key (slice l 0 0x100) (slice l 0x100 114)

/-- DBG_RESP: an accepted response has the Steward close its windows; a rejected one is counted. -/
def effDbgResp (l : List Byte) (d0 : Die) : Die :=
  let d := setIr 0x11 d0
  if !khAnswers d then d
  else
    let spent := { d with trust := { d.trust with nonce := none } }
    if respOk d l then
      eachWindow effWinClose { spent with trust := { spent.trust with
        pendingSession := some (BitVec.ofNat 5 (deB l 4), BitVec.ofNat 12 (deLE l 0x30 2)) } }
    else { spent with trust := { spent.trust with dbgFails := d.trust.dbgFails + 1 } }

/-- DEBUG_SESSION_OPEN: once no window is CLOSING. -/
def effSessionOpen (d : Die) : Die :=
  match d.trust.pendingSession with
  | none => d
  | some (scope, secs) =>
    if (List.range 8).any (fun n => (tabGet Window.reset d.trust.windows n).closing) then d
    else
      { d with trust := { d.trust with
          dbgOpen := true, dbgScope := scope, dbgSeconds := secs, dbgSince := d.power.refCnt.toNat, pendingSession := none } }

/-- Every halted target goes on. -/
def resumeTargets (d : Die) : Die :=
  let go (t : Thread) : Thread := { t with dbgHalted := false, dbgStep := false }
  { d with cores := tabMap Core.reset (fun _ x => { x with t0 := go x.t0, t1 := go x.t1 }) d.cores,
           test := { d.test with stewHalted := 0 } }

/-- A session ended: the windows are opened again by a running Steward. -/
def endSession (d : Die) : Die :=
  if !d.trust.dbgOpen then { d with trust := { d.trust with pendingSession := none } }
  else
    let d1 := resumeTargets { d with trust := { d.trust with dbgOpen := false, dbgScope := 0, dbgSeconds := 0, pendingSession := none } }
    if stewardUp d1 then eachWindow effWinOpen d1 else d1

/-- DEBUG_SESSION_EXPIRY. -/
def effSessionExpiry (d : Die) : Die := if d.trust.dbgOpen then endSession d else d

/-! ### The commands -/

def execFwStage (n : Nat) (s : State) := onDie (effFwStage n) s
def execFwCommit (n : Nat) (s : State) := onDie (effFwCommit n) s
def execAttest (n : Nat) (s : State) := onDie (effAttest n) s
def execFuseProgramSecver (n : Nat) (s : State) := onDie (effFuse (fun m => fuseKind m == 0 || decide (5 ≤ fuseKind m)) n) s
def execFuseProgramOwnerKey (n : Nat) (s : State) := onDie (effFuse (fun m => fuseKind m == 1) n) s
def execFuseProgramDowngrade (n : Nat) (s : State) := onDie (effFuse (fun m => fuseKind m == 2) n) s
def execFuseProgramDebugDisable (n : Nat) (s : State) := onDie (effFuse (fun m => fuseKind m == 3) n) s
def execFuseProgramSoftRepair (n : Nat) (s : State) := onDie (effFuse (fun m => fuseKind m == 4) n) s
def execFuseWordProgrammed (s : State) := onDie effFuseWord s
def execVddEfuseGood (s : State) := onDie effEfuseGood s
def execVddEfuseLoss (s : State) := onDie effEfuseLoss s
def execKhFwinOpen (n : BitVec 3) (s : State) := onDie (effWinOpen n) s
def execKhFwinClose (n : BitVec 3) (s : State) := onDie (effWinClose n) s
def execWindowCloseComplete (n : BitVec 3) (s : State) := onDie (effWinClosed n) s
def execDbgChal (s : State) := onDie effDbgChal s
def execDbgResp (r : List Byte) (s : State) := onDie (effDbgResp r) s
def execDebugSessionOpen (s : State) := onDie effSessionOpen s
def execDebugSessionExpiry (s : State) := onDie effSessionExpiry s

end Sys2Proof.Machine
end

