-- ==== Sys2Proof/Machine/Faults.lean ====
section
/-! DEFINITION. Messages between Stewards (R187, R263, R280), party resets (R405, R406), the loss and return of other dies (R408,
R409), and the faults the environment reports (R307, R407, R410). -/

namespace Sys2Proof.Machine

/-! ### Peer messages (R187, R198, R263, R280) -/

/-- A reservation for another home's itinerary given back. -/
def dropRemote (i : Itin) (d : Die) : Die :=
  let d1 := (hereIds d i).foldl (releaseCore i.id) d
  { d1 with stew := { d1.stew with itins := d1.stew.itins.filter (fun y => y.id != i.id) } }

/-- This die's part of another home's itinerary stopped: no record is written here. -/
def stopRemote (i : Itin) (code detail : Nat) (d : Die) : Die :=
  match i.state with
  | .running => setPhase (modItin (stopHere i code detail d) i.id (fun y => { y with state := .aborted }))
  | .queued => dropRemote i d
  | _ => d

/-- What this die reports of another home's itinerary whose cores it has stopped: flags, and the flag logs, which it empties (R282). -/
def stopReport (id : BitVec 32) (d : Die) : Die × PeerMsg :=
  match findItin d id with
  | none => (d, .stopped id 0 [] 0)
  | some i =>
    let ids := hereIds d i
    let log := ids.flatMap (fun c => (flagEntries (getCore d c)).map (fun v => (v, corePlace d c)))
    let lost := (ids.map (fun c => (getCore d c).flagLost.toNat)).sum
    (ids.foldl (fun e c => modCore e c emptyLog) d, .stopped id (i.flags ||| abortFlags d i) log (BitVec.ofNat 16 (min 0xFFFF lost)))

/-- An abort from die p: at home the itinerary is aborted on every die, elsewhere this die's cores stop, and the home is told so. -/
def takeAbort (p : BitVec 2) (id : BitVec 32) (core : BitVec 11) (code : BitVec 8) (d : Die) : Die × PeerMsg :=
  let d1 := match findItin d id with
    | none => d
    | some i =>
      if homeDie id = d.ident.dieNum then
        (if i.state = .running then abortFor d id code.toNat core.toNat 0 0 none else d)
      else if code.toNat = cfDieLost then stopRemote i cfDieLost (core.toNat / 512) d
      else stopRemote i cfItineraryAborted (core.toNat + code.toNat * 65536) d
  if homeDie id = p then stopReport id d1 else (d1, .reply)

/-- A descriptor another die's Steward has been given, looked at: cores of this die outside their party, tallies of this die that are
held (R278). -/
def takeCheck (p : BitVec 2) (no : Nat) (desc : BitVec 64) (len : BitVec 32) (d : Die) : Die × PeerMsg :=
  let l := argRead d desc.toNat len.toNat
  let i := parseItin d l 0 (.peer p) 0 0 0
  let here := (itinWins i).filter (fun w => winDie w == d.ident.dieNum)
  let live := (d.stew.itins.filter itinLive).flatMap itinWins
  let tally := (here.filterMap (fun w => firstFlaw (live.filterMap (winMeet w)))).head?
  (drew d, .checked no ((firstFlaw (partyFlaws d l)).map (BitVec.ofNat 32)) (tally.map (BitVec.ofNat 16)))

/-- A home Steward's request to check and reserve this die's cores (R280). -/
def takeReserve (id : BitVec 32) (desc : BitVec 64) (len : BitVec 32) (d : Die) : Die × PeerMsg :=
  let l := argRead d desc.toNat len.toNat
  let i := { parseItin d l id (.peer (homeDie id)) 0 0 0 with desc := desc }
  let d0 := drew d
  if !argOk d false desc.toNat len.toNat 0 || (findItin d id).isSome || !(partyFlaws d l).isEmpty || (tallyBusy d i).isSome ||
     !(hereCores d i).all (entryFits d) || partyBusy d (i.parties.getD d.ident.dieNum.toNat 0).toNat then (d0, .reserveLater id)
  else match shortfall d i with
    | some (c, n) => (d0, .reserveRefused id (corePlace d c) (BitVec.ofNat 32 n))
    | none => (reserveHere i { d0 with stew := { d0.stew with itins := d0.stew.itins ++ [i] } }, .reserveOk id)

/-- Another home's itinerary started here. -/
def takeStart (id : BitVec 32) (d : Die) : Die :=
  match findItin d id with
  | none => d
  | some i => if i.state = .queued && homeDie id != d.ident.dieNum then setPhase (startHere i (runItin d i)) else d

/-- A reservation given back, or an itinerary that has completed at its home. -/
def takeRelease (id : BitVec 32) (d : Die) : Die :=
  match findItin d id with
  | none => d
  | some i =>
    if homeDie id = d.ident.dieNum then d
    else match i.state with
      | .queued => dropRemote i d
      | .running => setPhase (dropRemote i (endHere i d))
      | _ => d

/-- A die's reply to the request to reserve. -/
def noteReserve (p : BitVec 2) (id : BitVec 32) (m : PeerMsg) (d : Die) : Die :=
  modItin d id (fun i => if i.asked.contains p && i.state == .queued then
    { i with asked := i.asked.filter (· != p), replies := i.replies ++ [(p, m)] } else i)

/-- What a report changes in an itinerary that still runs. -/
def whileRunning (f : Itin → Itin) (i : Itin) : Itin := if i.state = .running then f i else i

/-- A stamp of another die in the home Steward's map. -/
def stampItin (tile : Nat) (i : Itin) : Itin :=
  if i.tiles.toNat ≤ tile || tabGet 0 i.stamps tile = 1 then i
  else { i with stamps := tabSet 0 i.stamps tile 1, stamped := i.stamped + 1 }

/-- A message or a reply of peer p carried out, and the answer to a message. -/
def takePeer (p : BitVec 2) (m : PeerMsg) (d : Die) : Die × PeerMsg :=
  match m with
  | .otherVersion => (imbalance d 0x03 p.toNat, .protocol)
  | .check no desc len => takeCheck p no desc len d
  | .checked no flaw tally => (noteAsk no p (flaw.map (·.toNat)) (tally.map (·.toNat)) d, .reply)
  | .abort id core code => takeAbort p id core code d
  | .stopped id flags log lost =>
    (tryCommit id (modItin d id (whileRunning (fun i => { orFlags flags (addEntries log lost i) with asked := i.asked.filter (· != p) }))), .reply)
  | .reserve id desc len => takeReserve id desc len d
  | .reserveOk id => (noteReserve p id m d, .reply)
  | .reserveRefused id _ _ => (noteReserve p id m d, .reply)
  | .reserveLater id => (noteReserve p id m d, .reply)
  | .start id => (takeStart id d, .reply)
  | .release id => (takeRelease id d, .reply)
  | .stamp id tile => (modItin d id (whileRunning (stampItin tile.toNat)), .reply)
  | .halted id core t alone exit flags log lost =>
    (modItin d id (whileRunning (fun i => addLog log lost (core.setWidth 16)
      (orFlags flags (noteHalt (core.extractLsb' 9 2) (core.extractLsb' 0 9) t alone exit i)))), .reply)
  | .fault id core code pc detail => (modItin d id (noteItinFault code.toNat core.toNat pc.toNat detail.toNat), .reply)
  | .poison id words => (addPoison id words d, .reply)
  | .flagLog id log lost => (syncLog (modItin d id (addEntries log lost)) id, .reply)
  | .contentLost die => (loseBerths d (fun l => locDie l == die.toNat), .reply)
  | .protocol => (d, .reply)
  | .reply => (d, .reply)

/-- PEER_MESSAGE: the message or reply at place n of the requests is a peer's, and m is what it says. A reply is not answered; it lets
the next message to that die go (R263). -/
def effPeer (n : Nat) (m : PeerMsg) (d : Die) : Die :=
  match d.stew.requests[n]? with
  | none => d
  | some q => match q.src with
    | .peer p =>
      if !stewardUp d || (!peerReply q && (msgOp q < 0x100 || 0x1FF < msgOp q)) then d
      else
        let (d1, r) := takePeer p m d
        let d2 := dropReqAt d1 n
        setOwn (if peerReply q then peerAnswered p d2 else send d2 (.peer p r)) q.ph.toNat false
    | _ => d

/-! ### Party resets (R405, R406) -/

def pfStoreUe : BitVec 8 := 0x01
def pfStopTimeout : BitVec 8 := 0x02
def pfDrainTimeout : BitVec 8 := 0x03

/-- An itinerary aborted by a party reset, at its home or by its home's leave. -/
def abortForParty (core : CoreId) (cause : BitVec 8) (d : Die) (i : Itin) : Die :=
  let place := (corePlace d core).toNat
  if homeDie i.id = d.ident.dieNum then abortFor d i.id 0x83 place 0 cause.toNat none
  else
    let home := homeDie i.id
    let d1 := sendPeer d home (.fault i.id (BitVec.ofNat 11 place) 0x83 0 (cause.setWidth 32))
    stopRemote i cfItineraryAborted (place + 0x83 * 65536) (sendPeer d1 home (.abort i.id (BitVec.ofNat 11 place) 0x83))

/-- A core placed in core reset, its epoch advanced. -/
def enterReset (d : Die) (c : CoreId) : Die := modCore d c (fun x => { x with portReset := true, portEpoch := x.portEpoch + 1 })

/-- PARTY_RESET, for the party that holds the named core; a second cause during a reset is absorbed. -/
def effPartyReset (party : BitVec 12) (core : CoreId) (cause : BitVec 8) (d : Die) : Die :=
  match partyCores d party.toNat with
  | none => d
  | some v =>
    if !stewardUp d || !v.getLsbD core.toNat || cause = 0 || 3 < cause.toNat || partyBusy d party.toNat then d
    else
      let cores := maskIds v
      let d1 := { d with flt := { d.flt with partyResets := d.flt.partyResets ++ [⟨party, core, cause⟩] } }
      let d2 := logFault d1 (faultEntry d1 2 cause.toNat (corePlace d core).toNat 0 0 0 0)
      let d3 := cores.foldl enterReset d2
      let hit (i : Itin) : Bool := i.state == .running && (hereIds d i).any (fun c => v.getLsbD c.toNat)
      let d4 := (d.stew.itins.filter hit).foldl (abortForParty core cause) d3
      cores.foldl coreReset d4

/-- Nothing is owed to a core any longer: no line, write, tally, lookup or gate request of it is open. -/
def nothingOwed (d : Die) (c : CoreId) : Bool :=
  let x := getCore d c
  let mine (die : BitVec 2) (e : BitVec 12) : Bool := die == d.ident.dieNum && e == coreEndpoint c
  x.lines.isEmpty && x.writes.isEmpty &&
  d.tally.reqs.all (fun r => !mine r.die r.endpoint) && d.tally.replies.all (fun r => !mine r.die r.endpoint) &&
  d.ledger.waiting.all (fun w => w.core != c) &&
  d.link.tags.all (fun t => match t.who with | .porterLine k _ => k != c | .porterWrite k _ => k != c)

/-- PARTY_RESET_END: once every tag owed is free and the link counts agree, RESET clears and the event is posted. -/
def effPartyResetEnd (party : BitVec 12) (d : Die) : Die :=
  match d.flt.partyResets.find? (fun p => p.party == party), partyCores d party.toNat with
  | some p, some v =>
    let cores := maskIds v
    let linked (i : Itin) : Bool := (hereIds d i).any (fun c => v.getLsbD c.toNat)
    if !cores.all (nothingOwed d) || !(d.stew.itins.filter (fun i => i.state == .aborted && !i.settled && linked i)).all (linksAgree d) then d
    else
      let d1 := { d with flt := { d.flt with partyResets := d.flt.partyResets.filter (fun q => q.party != party) } }
      let d2 := cores.foldl (fun e c => modCore e c (fun x => { x with portReset := false })) d1
      postEvent d2 0x0030 (leBytes 2 party.toNat ++ leBytes 1 (getCore d2 p.core).portEpoch.toNat)
  | _, _ => d

/-- The party of a core on which a stop is in progress. -/
def stoppingParty (d : Die) (c : CoreId) : Option (BitVec 12) :=
  if (getCore d c).stoppedWait then (d.stew.parties.find? (fun p => p.2.getLsbD c.toNat)).map (·.1) else none

/-- STOP_TIMEOUT. -/
def effStopTimeout (c : CoreId) (d : Die) : Die :=
  match stoppingParty d c with
  | some party => effPartyReset party c pfStopTimeout d
  | none => d

/-- DRAIN_TIMEOUT: an aborted itinerary of the core has link counts that do not agree. -/
def effDrainTimeout (c : CoreId) (d : Die) : Die :=
  match stoppingParty d c with
  | some party =>
    if d.stew.itins.any (fun i => i.state == .aborted && !i.settled && (hereIds d i).contains c && !linksAgree d i) then
      effPartyReset party c pfDrainTimeout d
    else d
  | none => d

/-- PARTY_RESET_TIMEOUT: a reset that has not ended is die-fatal. -/
def effPartyTimeout (party : BitVec 12) (d : Die) : Die := if partyBusy d party.toNat then raiseFatal dfUnitUe d else d

/-! ### Other dies (R255, R408, R409) -/

/-- An itinerary holds a core, a link's end or a tally window on a die. -/
def touches (die : BitVec 2) (i : Itin) : Bool :=
  i.cores.any (fun e => e.die == die) || i.links.any (fun y => y.die == die || (y.kind == 2 && y.pdie == die)) ||
  (itinWins i).any (fun w => winDie w == die)

/-- TALLY_SUSPECT entries: one for each window on the lost die. -/
def logSuspects (die : BitVec 2) (d : Die) (i : Itin) : Die :=
  ((itinWins i).filter (fun w => winDie w == die)).foldl (fun e w => logFault e (faultEntry e 4 0 0xFFFF i.id 0 0 w)) d

/-- A move that reads or writes a slice of the lost die ends MOVE_FAILED. -/
def moveLost (die : BitVec 2) (m : Move) : Bool :=
  (m.phase == 1 || m.phase == 2) &&
  ((m.srcTier == 0 && locDie m.src.toNat == die.toNat) || (m.target == 0 && locDie m.dst.toNat == die.toNat))

/-- Nothing more is awaited of a lost die: messages to it are given up, what it was to check is asked again, an itinerary it was to
reserve waits, and one it was to stop need not wait for it. -/
def forgetDie (die : BitVec 2) (d : Die) : Die :=
  let drop (i : Itin) : Itin :=
    if !i.asked.contains die then i
    else if i.state == .queued then { i with asked := i.asked.filter (· != die), replies := i.replies ++ [(die, .reserveLater i.id)] }
    else { i with asked := i.asked.filter (· != die) }
  let d1 := { d with stew := { d.stew with
    peerBusy := d.stew.peerBusy.filter (· != die), peerQueue := d.stew.peerQueue.filter (fun q => q.1 != die),
    asks := d.stew.asks.filter (fun a => !a.asked.contains die), itins := d.stew.itins.map drop } }
  (d.stew.itins.filter (fun i => i.stopping)).foldl (fun e i => tryCommit i.id e) d1

/-- DIE_FENCED. -/
def effFenced (die : BitVec 2) (d : Die) : Die :=
  if d.link.state ≠ 7 || die = d.ident.dieNum then d
  else
    let d1 := forgetDie die { d with link := { d.link with fenced := d.link.fenced ||| (1#4 <<< die.toNat) } }
    let run := d.stew.itins.filter (fun i => itinLive i)
    let home := run.filter (fun i => i.state == .running && homeDie i.id == d.ident.dieNum && touches die i)
    let away := run.filter (fun i => homeDie i.id == die)
    let d2 := home.foldl (fun e i => abortFor e i.id cfDieLost (0x1FF + 512 * die.toNat) 0 die.toNat (some die)) d1
    let d3 := away.foldl (fun e i => stopRemote i cfDieLost die.toNat e) d2
    let d4 := (d3.ledger.moves.filter (moveLost die)).foldl revertMove d3
    let d5 := logFault d4 (faultEntry d4 3 cfDieLost 0xFFFF 0 0 die.toNat 0)
    postEvent ((home ++ away.filter (fun i => i.state == .running)).foldl (logSuspects die) d5) 0x0031 [BitVec.ofNat 8 die.toNat]

/-- DIE_REJOINED: survivors hold no state of the lost die to restore. -/
def effRejoined (die : BitVec 2) (d : Die) : Die :=
  if d.link.state ≠ 7 then d
  else { d with link := { d.link with fenced := d.link.fenced &&& ~~~(1#4 <<< die.toNat) } }

/-! ### What the hub and the die's watchers report (R307, R407, R410) -/

/-- PKG_MEM_STATE: recovery, or the handling of loss, follows. -/
def effPkgMem (kept : Bool) (d : Die) : Die :=
  if d.link.state ≠ 7 || d.ledger.memState ≠ 1 then d
  else { d with ledger := { d.ledger with memState := if kept then 2 else 3 },
                pkg := if kept then d.pkg else memClear d.pkg 0 (pkgTop d) }

/-- The runtime has been started (R388). -/
def runtimeUp (d : Die) : Bool := !inReset d && d.trust.khfwUp && decide (9 ≤ d.boot.step.toNat ∧ d.boot.step.toNat ≤ 11)

/-- STEWARD_HEARTBEAT: the Keyholder notes when. -/
def effHeartbeat (d : Die) : Die :=
  if runtimeUp d then { d with trust := { d.trust with heartbeat := d.power.refCnt.toNat } } else d

/-- STEWARD_HANG: 100 ms of REFCLK after the last heartbeat. -/
def effHang (d : Die) : Die :=
  if runtimeUp d then
    raiseFatal dfStewardHang
      { d with power := { d.power with refCnt := BitVec.ofNat 64 (max d.power.refCnt.toNat (d.trust.heartbeat + 10 ^ 7)) } }
  else d

/-- A package-fatal fault governs a die-fatal one being handled; one already standing absorbs it, and PORST_N ends every fault (R402). -/
def raisePackage (d : Die) : Die := if d.boot.porst || bitB d.boot.held 2 then d else fatalPackage d

/-! ### The commands -/

def execPeerMessage (n : Nat) (m : PeerMsg) (s : State) := onDie (effPeer n m) s
def execPartyReset (party : BitVec 12) (core : CoreId) (cause : BitVec 8) (s : State) := onDie (effPartyReset party core cause) s
def execPartyResetEnd (party : BitVec 12) (s : State) := onDie (effPartyResetEnd party) s
def execStopTimeout (c : CoreId) (s : State) := onDie (effStopTimeout c) s
def execDrainTimeout (c : CoreId) (s : State) := onDie (effDrainTimeout c) s
def execPartyResetTimeout (party : BitVec 12) (s : State) := onDie (effPartyTimeout party) s
def execDieFenced (die : BitVec 2) (s : State) := onDie (effFenced die) s
def execDieRejoined (die : BitVec 2) (s : State) := onDie (effRejoined die) s
def execPkgMemState (kept : Bool) (s : State) := onDie (effPkgMem kept) s
def execStewardHeartbeat (s : State) := onDie effHeartbeat s
def execStewardHang (s : State) := onDie effHang s
def execDieFatal (cause : BitVec 8) (s : State) := onDie (raiseFatal cause) s
def execPackageFatalSignal (s : State) := onDie raisePackage s

end Sys2Proof.Machine
end

