-- ==== Sys2Proof/Machine/Flits.lean ====
section
/-! DEFINITION. How what crosses the hub link is laid out: the flit sideband and its bits on the wires (R300 to R302, R328), entries and
groups (R304 to R306), messages, tally entries, budgets and demands (R307 to R309), CREDIT and TRAIN flits (R313, R318), sideband frames
(R317). -/

namespace Sys2Proof.Machine

/-! ### The flit (R300, R301) -/

/-- Bytes of a flit's payload, byte 0 lowest; those not given are 0. -/
def payload (l : List Byte) : BitVec 1024 := BitVec.ofNat 1024 (leNat l)

def payloadBytes (p : BitVec 1024) : List Byte := leBytes 128 p.toNat

/-- The flit sideband: TYPE of a KIND and DATA, CREDIT, SEQ, and the CRC over payload and the rest of the sideband. -/
def sidebandOf (kind : BitVec 4) (dataBit : Bool) (credit : BitVec 16) (seq : BitVec 8) (p : BitVec 1024) : BitVec 64 :=
  let low := packed 32 [(28, 4, kind.toNat), (27, 1, b2n dataBit), (8, 16, credit.toNat), (0, 8, seq.toNat)]
  packed 64 [(32, 32, (crc32 (payloadBytes p ++ leBytes 4 low.toNat)).toNat), (0, 32, low.toNat)]

/-- A received flit's CRC is good. -/
def crcGood (p : BitVec 1024) (sb : BitVec 64) : Bool :=
  fld sb 32 32 == (crc32 (payloadBytes p ++ leBytes 4 (fld sb 0 32))).toNat

/-- The wire that carries w's bits under a spare map: 0 to 63 are D0 to D63, 64 to 67 S0 to S3, 68 and 69 the two spares (R328). -/
def wireOf (spares : BitVec 16) (w : Nat) : Nat :=
  if bitB spares 15 && fld spares 8 7 == w then 69 else if bitB spares 7 && fld spares 0 7 == w then 68 else w

/-- The bit of a flit that belongs to data or sideband wire w in unit interval u. -/
def flitBit (p : BitVec 1024) (sb : BitVec 64) (w u : Nat) : Bool :=
  if w < 64 then p.getLsbD (64 * u + w) else sb.getLsbD (4 * u + (w - 64))

/-- What a flit puts on a wire of its module in unit interval u; none on a wire that carries none of it. -/
def onWire (spares : BitVec 16) (p : BitVec 1024) (sb : BitVec 64) (wire u : Nat) : Option Bool :=
  ((List.range 68).find? (fun w => wireOf spares w == wire)).map (fun w => flitBit p sb w u)

/-! ### Payloads (R304 to R309, R313, R318) -/

/-- A request entry of the die's own (R305). -/
def requestEntry (tag : BitVec 12) (addr : BitVec 48) (mask : BitVec 8) : BitVec 128 :=
  packed 128 [(127, 1, 1), (112, 8, mask.toNat), (100, 12, tag.toNat), (0, 48, addr.toNat / 128 * 128)]

/-- A response entry (R306). -/
def responseEntry (status : BitVec 3) (tag : BitVec 12) : BitVec 32 := packed 32 [(31, 1, 1), (28, 3, status.toNat), (0, 12, tag.toNat)]

/-- A tally entry (R308). -/
def tallyEntryBits (e : TallyEntry) : BitVec 128 :=
  packed 128 [(127, 1, 1), (125, 2, e.kind.toNat), (123, 2, e.srcDie.toNat), (121, 2, e.dstDie.toNat), (108, 12, e.endpoint.toNat),
    (96, 12, e.party.toNat), (88, 8, e.epoch.toNat), (0, 64, e.arg.toNat)]

/-- An MSG flit's payload (R307). -/
def msgPayload (mtype : BitVec 16) (src dst : BitVec 8) (body : List Byte) : BitVec 1024 :=
  payload (leBytes 2 mtype.toNat ++ [src, dst] ++ leBytes 4 0 ++ body)

def hubId : BitVec 8 := 0x0F

/-- A CREDIT flit's payload (R313). -/
def creditPayload (ackSeq : BitVec 8) (nak retrain : Bool) (req rsp ctrl : BitVec 32) : BitVec 1024 :=
  payload ([ackSeq, BitVec.ofNat 8 (b2n nak + 2 * b2n retrain)] ++ leBytes 2 0 ++ leBytes 4 req.toNat ++ leBytes 4 rsp.toNat ++ leBytes 4 ctrl.toNat)

/-- A TRAIN flit's payload up to its PRBS31 bytes (R318). -/
def trainHead (m : BitVec 8) (state : BitVec 4) (last : Bool) (spares : BitVec 16) (sizes : BufSizes) : List Byte :=
  leBytes 2 m.toNat ++ [state.setWidth 8, BitVec.ofNat 8 (b2n last)] ++ leBytes 2 spares.toNat ++ leBytes 2 0 ++
  (if last then leBytes 2 sizes.req.toNat ++ leBytes 2 sizes.rsp.toNat ++ leBytes 2 sizes.ctrl.toNat else leBytes 6 0) ++ leBytes 2 0

/-- The die's receive buffers (R310). -/
def ownSizes : BufSizes := ⟨64, 96, 16⟩

/-- The flits of what leaves die `die` over the link: KIND, DATA and payload of each, in order. Each request and each response makes a
group of its own (R304, assumption log). -/
def groupFlits (die : BitVec 2) : Out → List (BitVec 4 × Bool × BitVec 1024)
  | .request _ tag addr mask none => [(1, false, (requestEntry tag addr mask).setWidth 1024)]
  | .request _ tag addr mask (some v) => [(2, false, (requestEntry tag addr mask).setWidth 1024), (2, true, v)]
  | .response _ tag st (some v) => [(3, false, (responseEntry st tag).setWidth 1024), (3, true, v)]
  | .response _ tag st none => [(4, false, (responseEntry st tag).setWidth 1024)]
  | .msgFlit mtype arg => [(5, false, msgPayload mtype (die.setWidth 8) hubId (leBytes 8 arg.toNat))]
  | .emuTally e => [(5, false, msgPayload 0x0010 (die.setWidth 8) (e.dstDie.setWidth 8) (leBytes 16 (tallyEntryBits e).toNat))]
  | .tallyOp e => [(6, false, (tallyEntryBits e).setWidth 1024)]
  | .demand v q est op flags => [(8, false, payload (leBytes 2 v.toNat ++ leBytes 2 q.toNat ++ leBytes 2 est.toNat ++ [op, flags]))]
  | .credits _ _ true _ => [(0, false, 0)]
  | .creditFlit _ ack nak retrain a b c => [(9, false, creditPayload ack nak retrain a b c)]
  | _ => []

/-! ### Sideband frames (R317) -/

/-- CRC-16 of R317, over bytes. -/
def crc16 (l : List Byte) : BitVec 16 := l.foldl (crcByte 0x1021#16) 0xFFFF#16

/-- A frame's 64 bits, sent most significant first. -/
def frameBits (cmd arg : BitVec 8) (data : BitVec 32) : BitVec 64 :=
  packed 64 [(56, 8, cmd.toNat), (48, 8, arg.toNat), (16, 32, data.toNat),
    (0, 16, (crc16 ([cmd, arg] ++ (leBytes 4 data.toNat).reverse)).toNat)]

/-- The levels of SB_DO over the 66 clocks of a frame: a start bit of 0, the frame bits, a stop bit of 1. -/
def frameLevels (cmd arg : BitVec 8) (data : BitVec 32) : List Bool :=
  false :: (List.range 64).map (fun i => (frameBits cmd arg data).getLsbD (63 - i)) ++ [true]

end Sys2Proof.Machine
end

