-- ==== Sys2Proof/Machine/Link.lean ====
section
/-! DEFINITION. The hub link: flits received, credits, acknowledgement and replay (R301 to R314), gates taken down (R315, R316), the
sideband (R317), training (R318 to R321), loss of the RX clock (R325), and BOOT_GRANT (R18 to R20). -/

namespace Sys2Proof.Machine

/-! ### Gate masks (R245, R246, R315, R316, R319) -/

/-- The narrowest agreed mask of a protocol level. -/
def minGates (d : Die) : Nat := if d.ident.protoLevel = 1 then 8 else 16

def distance (a b : Nat) : Nat := (a - b) + (b - a)

/-- The up gate nearest a column, the lower of two. -/
def servingOf (mask : BitVec 32) (col : Nat) : Nat :=
  (List.range 32).foldl (fun best g =>
    if bitB mask g && (!bitB mask best || decide (distance g col < distance best col)) then g else best) 0

/-- The mesh maps rewritten for the agreed mask, in one ACLK. -/
def setGateMaps (d : Die) : Die :=
  let mask := d.link.agreed
  { d with mesh := { d.mesh with gateUp := mask, gateMap := tabFill 0 [] 0 32 (fun c => BitVec.ofNat 5 (servingOf mask c)) } }

/-- The modules of a gate. -/
def gateModules (g : Nat) : List Nat := (List.range 6).map (· + 6 * g)

def maskModules (mask : BitVec 32) : List Nat := ((List.range 32).filter (fun g => bitB mask g)).flatMap gateModules

def eachMod (l : List Nat) (f : Nat → Module → Module) (d : Die) : Die := l.foldl (fun e n => modMod e n (f n)) d

/-- A module out of the link: its counters stay (R328). -/
def downModule (m : Module) : Module := { Module.reset with retrains := m.retrains, replays := m.replays, crcErrors := m.crcErrors }

/-- The link DOWN: clocks stopped, nothing of its state left. -/
def linkDown (d : Die) : Die :=
  let d1 := eachMod (List.range 192) (fun _ => downModule) d
  { d1 with link := { d1.link with state := 0, agreed := 0, tags := [], atGate := [], draining := [], newMask := none, newMaskIn := false } }

/-! ### The calibration record's HLT section (R320, R370, R373, R374) -/

/-- The HLT section as it stands: rate code, RX spare maps and receive settings are the training's own. -/
def hltBytes (d : Die) : List Byte :=
  leBytes 4 d.link.agreed.toNat ++ [BitVec.ofNat 8 d.ident.protoLevel.toNat, (freeVal d 0).setWidth 8, 0, 0] ++
  (List.range 192).flatMap (fun n => leBytes 2 (getMod d n).spares.toNat ++ leBytes 2 (getMod d n).rxSpares.toNat) ++
  leBytes 8 0 ++ (List.range 27648).map (fun i => BitVec.ofNat 8 ((freeVal d (1 + i)).toNat % 64))

/-- The HLT section written by the Steward, once it runs. -/
def writeHlt (d : Die) : Die :=
  if stewardUp d then
    let d1 := writeSection (drew d) 2 (hltBytes d) 1
    { d1 with link := { d1.link with hltDue := false } }
  else { d with link := { d.link with hltDue := true } }

/-! ### Boot failures (R360) -/

/-- The boot ends, with an ALERT of a cause (R317). -/
def bootFail (fail : Nat) (cause : BitVec 8) (d : Die) : Die :=
  alert { d with boot := { d.boot with step := 15, fail := BitVec.ofNat 8 fail } } cause

/-! ### Exchange and training (R318 to R321) -/

/-- A gate whose fused repairs leave every module of it usable: the mask of word 0x018, and at most two wires of a direction. -/
def gateUsable (d : Die) (g : Nat) : Bool :=
  !(BitVec.ofNat 48 (fuseData d 0x018)).getLsbD g &&
  (gateModules g).all (fun n => ([0, 1] : List Nat).all (fun dir =>
    decide (((List.range 128).filter (fun i =>
      let e : BitVec 24 := BitVec.ofNat 24 (fuseData d (0x0A4 + i / 2) / 2 ^ (24 * (i % 2)))
      bitB e 23 && fld e 15 8 == n && fld e 14 1 == dir)).length ≤ 2)))

def ownOffer (d : Die) : BitVec 32 :=
  d.link.offer &&& packed 32 ((List.range 32).map (fun g => (g, 1, b2n (gateUsable d g))))

def sentDigest (d : Die) : BitVec 64 := if d.link.fastEn then d.link.digest else 0

/-- EXCHANGE: OFFER and the digest sent, the hub's awaited. -/
def startExchange (d0 : Die) : Die :=
  let l := d0.link
  let d : Die := { d0 with link := { l with state := 2, hubOffer := none, digestLo := none, digestHi := none, agreeHub := none,
                                            newMask := none, newMaskIn := false, agreed := 0, digest := savedDigest d0,
                                            frames := l.frames.filter (fun f => f.cmd == sbAlert) } }
  sbSend (sbSend (sbSend d sbOffer 0 (ownOffer d)) sbDigestLo 0 ((sentDigest d).extractLsb' 0 32)) sbDigestHi 0
    ((sentDigest d).extractLsb' 32 32)

/-- A failed attempt: the fourth ends training with ALERT TRAIN_FAILED, an earlier one goes on as given. -/
def failedAttempt (go : Die → Die) (d : Die) : Die :=
  let n := d.link.attempts + 1
  let d1 := { d with link := { d.link with attempts := n } }
  if 4 ≤ n.toNat then bootFail 0x02 1 (linkDown d1)
  else go { d1 with boot := { d1.boot with step := if d1.boot.step = 6 then 5 else d1.boot.step } }

/-- Whether this die's AGREE carries FAST. -/
def ownFast (d : Die) : Bool :=
  match d.link.digestLo, d.link.digestHi with
  | some lo, some hi =>
    sentDigest d != 0 && sentDigest d == (hi ++ lo) && d.link.agreed == BitVec.ofNat 32 (cacheLE d 0 4)
  | _, _ => false

def exchanged (d : Die) : Bool := d.link.hubOffer.isSome && d.link.digestLo.isSome && d.link.digestHi.isSome

/-- A frame is still unanswered. -/
def unanswered (d : Die) (cmd : BitVec 8) : Bool := d.link.frames.any (fun f => f.cmd == cmd)

/-- Training begins on every module of the agreed gates. -/
def startTraining (fast : Bool) (d : Die) : Die :=
  let d1 := eachMod (maskModules d.link.agreed) (fun _ m => { m with state := msTraining }) d
  { d1 with link := { d1.link with state := if fast then 3 else 4, hltFast := fast } }

/-- Both AGREE frames compared, once the die's own is acknowledged and the hub's is here. -/
def compareAgree (d : Die) : Die :=
  match d.link.agreeHub with
  | none => d
  | some (fast, mask) =>
    if d.link.state ≠ 2 || !exchanged d || unanswered d sbAgree then d
    else if mask ≠ d.link.agreed || gateCount mask < minGates d then failedAttempt startExchange d
    else startTraining (fast && ownFast d) d

/-- The agreed mask formed and sent, once all three of the hub's frames are here. -/
def sendAgree (d : Die) : Die :=
  match d.link.hubOffer, d.link.digestLo, d.link.digestHi with
  | some m, some lo, some hi =>
    let miss := sentDigest d != (hi ++ lo) || sentDigest d == 0
    let d1 := { d with link := { d.link with agreed := ownOffer d &&& m, digestMismatch := miss } }
    compareAgree (sbSend d1 sbAgree (BitVec.ofNat 8 (b2n (ownFast d1))) d1.link.agreed)
  | _, _, _ => d

/-- A frame of the exchange: acknowledged, and taken when it is the first of its kind. -/
def takeFrame (cmd : BitVec 8) (fresh : Die → Bool) (f : LinkSt → LinkSt) (d : Die) : Die :=
  if inReset d || d.test.stm then d
  else
    let d1 := sbAnswer d cmd
    if d.link.state = 2 && fresh d then sendAgree { d1 with link := f d1.link } else d1

def effOffer (mask : BitVec 32) (d : Die) : Die :=
  takeFrame sbOffer (fun d => d.link.hubOffer.isNone) (fun l => { l with hubOffer := some mask }) d

def effDigestLo (v : BitVec 32) (d : Die) : Die :=
  takeFrame sbDigestLo (fun d => d.link.digestLo.isNone) (fun l => { l with digestLo := some v }) d

def effDigestHi (v : BitVec 32) (d : Die) : Die :=
  takeFrame sbDigestHi (fun d => d.link.digestHi.isNone) (fun l => { l with digestHi := some v }) d

/-- AGREE. -/
def effAgree (fast : Bool) (mask : BitVec 32) (d : Die) : Die :=
  if inReset d || d.test.stm then d
  else
    let d1 := sbAnswer d sbAgree
    if d.link.state = 2 && d.link.agreeHub.isNone then compareAgree { d1 with link := { d1.link with agreeHub := some (fast, mask) } } else d1

/-- READINESS, step 6 of the boot. -/
def startReadiness (d : Die) : Die :=
  { d with link := { d.link with state := 5 }, boot := { d.boot with step := if d.boot.step = 5 then 6 else d.boot.step } }

/-- TRAIN_FAST_DONE: the saved spare maps are in use, or the whole link trains in full. -/
def effTrainFast (ok : Bool) (d : Die) : Die :=
  if d.link.state ≠ 3 then d
  else if ok then
    startReadiness (eachMod (maskModules d.link.agreed) (fun n m => { m with
      spares := BitVec.ofNat 16 (cacheLE d (8 + 4 * n) 2), rxSpares := BitVec.ofNat 16 (cacheLE d (10 + 4 * n) 2) }) d)
  else startTraining false d

/-- TRAIN_FULL_DONE: spare maps agreed with the hub; those of the RX direction are the training's own. -/
def effTrainFull (ok : Bool) (spares : List SpareMap) (d : Die) : Die :=
  if d.link.state ≠ 4 then d
  else if !ok then failedAttempt startExchange d
  else
    let d1 := eachMod (maskModules d.link.agreed) (fun n m => { m with
      spares := match spares.find? (fun s => s.m.toNat == n) with | some s => s.bits | none => m.spares,
      rxSpares := (freeVal d n).setWidth 16 }) d
    startReadiness (drew d1)

/-- CONFIRM: LINK_UP is sent once no NEWMASK is under way. -/
def enterConfirm (d : Die) : Die :=
  let d1 := { d with link := { d.link with state := 6 } }
  if d.link.newMask.isSome then d1 else sbSend d1 sbLinkUp 0 d.link.agreed

/-- A NEWMASK sent for gates this side has found unrepairable; one below the minimum width is die-fatal. -/
def offerMask (mask : BitVec 32) (d : Die) : Die :=
  if gateCount mask < minGates d then raiseFatal dfLinkWidth d
  else sbSend { d with link := { d.link with newMask := some mask, newMaskIn := false } } sbNewmask 0 mask

/-- READINESS_DONE: after a fast training a failing module sends the whole link to full training; after a full one its wires go to
spares, and the gates of modules that failed again are removed. -/
def effReadiness (failing : List (BitVec 8)) (unrepairable : BitVec 32) (d : Die) : Die :=
  let gone := d.link.agreed &&& unrepairable
  if d.link.state ≠ 5 then d
  else if d.link.hltFast && (!failing.isEmpty || gone ≠ 0) then failedAttempt (startTraining false) d
  else
    let mine := failing.filter (fun m => bitB d.link.agreed (m.toNat / 6))
    let d1 := drew (eachMod (mine.map (·.toNat)) (fun n m => { m with spares := (freeVal d n).setWidth 16 }) d)
    if gone = 0 then enterConfirm d1 else
      let d2 := offerMask (d.link.agreed &&& ~~~gone) d1
      if d2.link.newMask.isSome then enterConfirm d2 else d2

/-- The module as CONFIRM leaves it: SEQ 0 and the announced credits. -/
def freshModule (z : BufSizes) (m : Module) : Module :=
  { downModule m with state := msActive, spares := m.spares, rxSpares := m.rxSpares, credReq := z.req.setWidth 32,
                      credRsp := z.rsp.setWidth 32, credCtrl := z.ctrl.setWidth 32 }

/-- LINK_UP: the frames are exchanged, and the link is ACTIVE. -/
def effLinkUp (mask : BitVec 32) (sizes : BufSizes) (d : Die) : Die :=
  if inReset d || d.test.stm then d
  else
    let d1 := sbAnswer d sbLinkUp
    if d.link.state ≠ 6 || d.link.newMask.isSome || mask ≠ d.link.agreed then d1
    else
      let d2 := eachMod (maskModules mask) (fun _ => freshModule sizes) d1
      let d3 := setGateMaps { d2 with link := { d2.link with state := 7, sizes := sizes, lastFast := d.link.hltFast,
                                                              trainUs := (freeVal d 0).setWidth 32,
                                                              hltDue := d.link.hltDue || !d.link.hltFast } }
      drew { d3 with boot := { d3.boot with fastLink := d.link.hltFast, step := if d.boot.step = 6 then 7 else d.boot.step } }

/-! ### BOOT_GRANT (R18 to R20) -/

/-- The die number and half a grant names. -/
def grantPlace (v : BitVec 32) : BitVec 1 × BitVec 2 := (v.extractLsb' 20 1, v.extractLsb' 16 2)

/-- A grant as it is latched: its ARG above its DATA. -/
def grantWord (arg : BitVec 8) (data : BitVec 32) : BitVec 32 := packed 32 [(16, 8, arg.toNat), (0, 16, data.toNat)]

/-- A grant that names another place than the die's. -/
def grantConflicts (d : Die) (v : BitVec 32) : Bool :=
  (d.ident.granted && grantPlace v != (d.ident.half, d.ident.dieNum)) ||
  (match d.ident.grant with | some g => grantPlace g != grantPlace v | none => false)

/-- The assignment taken, and training begun. GRANTED and the fields of a grant latched before step 4 change here, when it is applied, and
not when it is acknowledged (DESIGN CHOICE, log entry 31). -/
def applyGrant (v : BitVec 32) (d : Die) : Die :=
  let i := d.ident
  let p := grantPlace v
  startExchange { d with
    ident := { i with granted := true, half := p.1, dieNum := p.2, hubGen := v.extractLsb' 12 4, pkgType := v.extractLsb' 8 4,
                      protoLevel := v.extractLsb' 0 4, grant := none },
    link := { d.link with attempts := 0 }, boot := { d.boot with step := 5, fail := 0 } }

/-- BOOT_GRANT: latched before step 4, applied at it or after a failed training; ignored while the die is held. -/
def effGrant (arg : BitVec 8) (data : BitVec 32) (d : Die) : Die :=
  let v := grantWord arg data
  if inReset d || d.test.stm then d
  else
    let d1 := sbAnswer d sbGrant
    if grantConflicts d v then { d1 with ident := { d1.ident with grantConflict := true } }
    else if d.boot.step.toNat < 4 then
      (if d.ident.grant.isSome then d1 else { d1 with ident := { d1.ident with grant := some v } })
    else if d.boot.step = 4 then
      drew (applyGrant v { d1 with boot := { d1.boot with grantWait := (freeVal d 0).setWidth 32 } })
    else if d.boot.step = 15 && d.boot.fail == 0x02 then applyGrant v d1
    else d1

/-! ### Gates taken down (R315, R316) -/

/-- GATE_TAKE_DOWN: the gate of an unrepairable module leaves the mask by NEWMASK. -/
def effTakeDown (m : BitVec 8) (d : Die) : Die :=
  let g := m.toNat / 6
  if d.link.state ≠ 7 || !(getMod d m.toNat).broken || !bitB d.link.agreed g || d.link.newMask.isSome then d
  else offerMask (putFld d.link.agreed g 1 0) d

/-- The gates of a mask become DRAINING, and DRAIN_POINT is sent for each of their unrepairable modules. -/
def drainGates (gone : BitVec 32) (d : Die) : Die :=
  let gates := (List.range 32).filter (fun g => bitB gone g)
  let d1 := { d with link := { d.link with draining := d.link.draining ++ gates.map (BitVec.ofNat 5) } }
  let d2 := eachMod (maskModules gone) (fun _ m => { m with state := msDraining }) d1
  ((maskModules gone).filter (fun n => (getMod d2 n).broken)).foldl (fun e n =>
    sbSend e sbDrainPoint (BitVec.ofNat 8 n) ((getMod e n).rxSeq.setWidth 32)) d2

/-- The new mask adopted, once it is acknowledged and answered. -/
def adoptMask (d : Die) : Die :=
  match d.link.newMask with
  | none => d
  | some mask =>
    if !d.link.newMaskIn || unanswered d sbNewmask then d
    else
      let gone := d.link.agreed &&& ~~~mask
      let d1 := { d with link := { d.link with agreed := mask, newMask := none, newMaskIn := false } }
      if d.link.state = 7 then writeHlt (drainGates gone (setGateMaps d1))
      else
        let d2 := eachMod (maskModules gone) (fun _ => downModule) d1
        if d.link.state = 6 then sbSend d2 sbLinkUp 0 mask else d2

/-- NEWMASK: answered with the AND of both masks; it is adopted after its acknowledgement. -/
def effNewmask (mask : BitVec 32) (d : Die) : Die :=
  if inReset d || d.test.stm then d
  else
    let d1 := sbAnswer d sbNewmask
    if d.link.state.toNat < 5 || 7 < d.link.state.toNat then d1
    else match d.link.newMask with
      | some own =>
        let both := own &&& mask
        if gateCount both < minGates d then raiseFatal dfLinkWidth d1
        else adoptMask { d1 with link := { d1.link with newMask := some both, newMaskIn := true } }
      | none =>
        let both := d.link.agreed &&& mask
        if gateCount both < minGates d then raiseFatal dfLinkWidth d1
        else sbSend { d1 with link := { d1.link with newMask := some both, newMaskIn := true } } sbNewmask 0 both

/-- The SEQs of a replay buffer from one on. -/
def replayFrom (l : List (BitVec 8)) (seq : BitVec 8) : List (BitVec 8) := l.dropWhile (· != seq)

/-- DRAIN_POINT: what the hub has not accepted on a failed module is sent again, first of all, on the lowest module of its gate that
carries flits; what waits for the failed module follows it there. No credit is spent twice. -/
def effDrainPoint (m seq : BitVec 8) (d : Die) : Die :=
  if inReset d || d.test.stm then d
  else
    let n := m.toNat
    let d1 := sbAnswer d sbDrainPoint
    let x := getMod d n
    if !(x.broken && d.link.draining.contains (BitVec.ofNat 5 (n / 6))) then d1
    else match (gateModules (n / 6)).find? (fun k => modCarries (getMod d k)) with
      | none => raiseFatal dfLinkWidth d1
      | some k =>
        let again := replayFrom x.replay seq
        let y := getMod d k
        let seqs := (List.range again.length).map (fun i => y.txSeq + BitVec.ofNat 8 i)
        let d2 := putMod d1 n { x with replay := [], queue := [] }
        let d3 := putMod d2 k { y with txSeq := y.txSeq + BitVec.ofNat 8 again.length, replay := y.replay ++ seqs, queue := x.queue ++ y.queue }
        pumpMod k (if seqs.isEmpty then d3 else send d3 (.replayed (BitVec.ofNat 8 k) seqs))

/-- Nothing of a gate is in use: every tag free, no flit buffered. -/
def gateIdle (d : Die) (g : BitVec 5) : Bool :=
  d.link.tags.all (fun t => t.gate != g) && d.link.atGate.all (fun r => r.gate != g) &&
  (gateModules g.toNat).all (fun n => (getMod d n).queue.isEmpty && (getMod d n).replay.isEmpty)

/-- Credits of a gate's modules that go with it (class HL_CREDIT). -/
def gateCredits (d : Die) (g : BitVec 5) : Nat := ((gateModules g.toNat).map (fun n => creditsOut d (getMod d n))).sum

/-- GATE_DRAIN_DONE: the gate is DOWN; a drain that cannot complete is die-fatal. -/
def effDrainDone (g : BitVec 5) (complete : Bool) (d : Die) : Die :=
  if !d.link.draining.contains g then d
  else if !complete then raiseFatal dfLinkWidth d
  else if !gateIdle d g then d
  else
    let d1 := cons { d with link := { d.link with draining := d.link.draining.erase g } } 2 0 (gateCredits d g)
    eachMod (gateModules g.toNat) (fun _ => downModule) d1

/-! ### The sideband (R317) -/

/-- ACK: the oldest frame of that command is answered; an ALERT no longer sent is answered too. -/
def effAck (cmd : BitVec 8) (d : Die) : Die :=
  match d.link.frames.find? (fun f => f.cmd == cmd) with
  | none => { d with link := { d.link with alert := d.link.alert && cmd != sbAlert } }
  | some f =>
    let fs := d.link.frames.erase f
    let d1 := { d with link := { d.link with frames := fs, alert := d.link.alert && fs.any (fun f => f.cmd == sbAlert) } }
    if cmd = sbAgree then compareAgree d1 else if cmd = sbNewmask then adoptMask d1 else d1

/-- What a frame given up outside training leaves: a mask that is never acknowledged is never applied (R319). -/
def giveUpFrame (f : SbFrame) (d : Die) : Die :=
  let fs := d.link.frames.erase f
  if f.cmd = sbNewmask then { d with link := { d.link with frames := fs, newMask := none, newMaskIn := false } }
  else { d with link := { d.link with frames := fs } }

/-- SIDEBAND_RESEND_TIMEOUT: sent again, up to four sends; a fourth failure is a failed attempt of training. -/
def effResend (cmd : BitVec 8) (d : Die) : Die :=
  match d.link.frames.find? (fun f => f.cmd == cmd) with
  | none => d
  | some f =>
    if f.sends < 4 then
      send { d with link := { d.link with frames := d.link.frames.map (fun y => if y = f then { f with sends := f.sends + 1 } else y) } }
        (.sideband f.cmd f.arg f.data)
    else if 2 ≤ d.link.state.toNat && d.link.state.toNat ≤ 6 then
      failedAttempt startExchange { d with link := { d.link with frames := d.link.frames.erase f } }
    else giveUpFrame f d

/-! ### Flits received (R301, R302, R304, R307, R310 to R313) -/

/-- The channel of a KIND; 3 none. -/
def kindChannel (k : BitVec 4) : BitVec 2 :=
  if k = 1 || k = 2 then chReq else if k = 3 || k = 4 then chRsp else if 5 ≤ k.toNat && k.toNat ≤ 8 then chCtrl else 3

/-- What R302 and R304 count as a CRC failure although the CRC is good. -/
def badFlit (m : Module) (f : RxFlit) : Bool :=
  decide (0xB ≤ f.kind.toNat) ||
  (if f.dataBit then !(f.kind == 2 || f.kind == 3) || m.rxKind != f.kind || m.rxData == 0
   else (1 ≤ f.kind.toNat && f.kind.toNat ≤ 4) && f.entries == 0)

/-- A flit's place in the receive buffer freed: its credit is due (R310). -/
def giveBack (ch : BitVec 2) (m : Module) : Module := match ch.toNat with
  | 0 => { m with dueReq := m.dueReq + 1 }
  | 1 => { m with dueRsp := m.dueRsp + 1 }
  | 2 => { m with dueCtrl := m.dueCtrl + 1 }
  | _ => m

/-- Credits of one half of a CREDIT field applied. -/
def applyCredit (n : Nat) (ch : BitVec 2) (k : BitVec 6) (d : Die) : Die :=
  if ch = 3 then d
  else
    let v : BitVec 32 := k.setWidth 32
    let got (m : Module) : Module := match ch.toNat with
      | 0 => { m with gotReq := m.gotReq + v }
      | 1 => { m with gotRsp := m.gotRsp + v }
      | _ => { m with gotCtrl := m.gotCtrl + v }
    cons (modMod d n (fun m => got (addCredits ch v m))) 2 0 k.toNat

/-- The message types that are no reserved ones. -/
def mtypeKnown (t : BitVec 16) : Bool := ([0x0001, 0x0010, 0x0020, 0x0021, 0x0030, 0x0031] : List Nat).contains t.toNat

/-- A message of no known type, or a TALLY_OP at level 1, is discarded and counted. -/
def noteDiscard (f : RxFlit) (d : Die) : Die :=
  if (f.kind = 5 && !mtypeKnown f.mtype) || (f.kind = 6 && d.ident.protoLevel = 1) then
    { d with link := { d.link with discards := satInc d.link.discards } }
  else d

/-- A CREDIT flit sent: it acknowledges everything accepted, and carries the cumulative counts (R313). -/
def creditFlit (n : Nat) (nak retrain : Bool) (d : Die) : Die :=
  let m := getMod d n
  send (modMod d n (fun m => { m with unacked := 0 }))
    (.creditFlit (BitVec.ofNat 8 n) (m.rxSeq - 1) nak retrain m.retReq m.retRsp m.retCtrl)

/-- A flit that is not accepted. Its receiver refuses until the expected SEQ comes; eight failures ask for a retrain. -/
def refuseFlit (n : Nat) (crcFail : Bool) (d : Die) : Die :=
  let m := getMod d n
  let k := if crcFail || !m.refusing then m.failures + 1 else m.failures
  let d1 := putMod d n { m with crcErrors := if crcFail then satInc m.crcErrors else m.crcErrors, refusing := true, failures := k,
                                retrainAsked := m.retrainAsked || decide (8 ≤ k) }
  if m.refusing then d1 else creditFlit n true false d1

/-- The flit with the expected SEQ and a good CRC. -/
def acceptFlit (n : Nat) (f : RxFlit) (d : Die) : Die :=
  let m := getMod d n
  let left := if f.dataBit then m.rxData - 1 else if f.kind = 2 || f.kind = 3 then f.entries.toNat else 0
  let m1 := giveBack (kindChannel f.kind) { m with
    rxSeq := m.rxSeq + 1, refusing := false, failures := 0, unacked := m.unacked + 1, rxKind := f.kind, rxData := left }
  let d1 := applyCredit n (f.credit.extractLsb' 6 2) (f.credit.extractLsb' 0 6)
    (applyCredit n (f.credit.extractLsb' 14 2) (f.credit.extractLsb' 8 6) (putMod d n m1))
  let d2 := noteDiscard f d1
  let d3 := pumpMod n (if 32 ≤ m1.unacked then creditFlit n false false d2 else d2)
  if 32 ≤ m1.unacked then sendNop n d3 else d3

/-- FLIT_ACCEPT. A CREDIT or TRAIN flit is no sequenced one: a failed CRC of it, or DATA = 1 (R302), is counted and causes no NAK; a
TRAIN flit is the hub's beginning of a quick retrain (R314). -/
def effFlit (m : BitVec 8) (f : RxFlit) (d : Die) : Die :=
  let n := m.toNat
  let x := getMod d n
  if d.link.state ≠ 7 || !modCarries x then d
  else if f.kind = 9 || f.kind = 10 then
    putMod d n (if f.crcOk && !f.dataBit then { x with retrainAsked := x.retrainAsked || f.kind == 10 } else { x with crcErrors := satInc x.crcErrors })
  else if !f.crcOk then refuseFlit n true d
  else if badFlit x f then refuseFlit n true d
  else if f.seq = x.rxSeq then acceptFlit n f d
  else refuseFlit n false d

/-- The whole replay buffer sent again; eight times without progress ask for a retrain. -/
def resend (n : Nat) (d : Die) : Die :=
  let m := getMod d n
  if m.replay.isEmpty then d
  else
    send (putMod d n { m with replays := satInc m.replays, resends := m.resends + 1,
                              retrainAsked := m.retrainAsked || decide (8 ≤ m.resends + 1) }) (.replayed (BitVec.ofNat 8 n) m.replay)

/-- CREDIT: what it acknowledges leaves the replay buffer; a NAK has the rest sent again, RETRAIN asks for a retrain. -/
def effCredit (m : BitVec 8) (f : CreditFlit) (d : Die) : Die :=
  let n := m.toNat
  let x := getMod d n
  if d.link.state ≠ 7 || !modCarries x then d
  else if !f.crcOk then putMod d n { x with crcErrors := satInc x.crcErrors }
  else
    let acked := x.replay.contains f.ackSeq
    let y := { x with replay := if acked then (replayFrom x.replay f.ackSeq).drop 1 else x.replay,
                      resends := if acked then 0 else x.resends, retrainAsked := x.retrainAsked || f.retrain }
    let d1 := putMod d n y
    pumpMod n (if f.nak then resend n d1 else d1)

/-- REPLAY_TIMEOUT. -/
def effReplayTimeout (m : BitVec 8) (d : Die) : Die :=
  if d.link.state ≠ 7 || !modCarries (getMod d m.toNat) || d.link.rxLoss then d else resend m.toNat d

/-- CREDIT_FLIT_TIMER. Credits that no flit has carried back by then go in a NOP. -/
def effCreditTimer (m : BitVec 8) (d : Die) : Die :=
  let x := getMod d m.toNat
  if d.link.state ≠ 7 || !modCarries x || x.unacked = 0 || d.link.rxLoss then d else sendNop m.toNat (creditFlit m.toNat false false d)

/-! ### Quick retrain (R314) -/

/-- QUICK_RETRAIN: once either side has cause and asks for it; the module carries no flits until it ends. -/
def effRetrain (m : BitVec 8) (d : Die) : Die :=
  let x := getMod d m.toNat
  if d.link.state ≠ 7 || !modCarries x || !x.retrainAsked then d
  else modMod (creditFlit m.toNat false true d) m.toNat (fun x => { x with
    state := msRetrain, retrains := satInc x.retrains, retrainAsked := false })

/-- The other side's cumulative counts against this die's. -/
def countsDiffer (m : Module) (r : RetrainResult) : Bool := m.gotReq != r.req || m.gotRsp != r.rsp || m.gotCtrl != r.ctrl

/-- QUICK_RETRAIN_DONE: replay resumes and counts are compared, or the module is unrepairable. A repair that changed the joint
parameters is written to the HLT section. -/
def effRetrainDone (m : BitVec 8) (r : RetrainResult) (d : Die) : Die :=
  let n := m.toNat
  let x := getMod d n
  if x.state ≠ msRetrain || x.broken then d
  else if !r.repaired then putMod d n { x with broken := true }
  else
    let y := { x with state := if d.link.draining.contains (BitVec.ofNat 5 (n / 6)) then msDraining else msActive, spares := r.bits,
                      refusing := false, failures := 0, resends := 0 }
    let d1 := creditFlit n false false (putMod d n y)
    let d2 := if y.replay.isEmpty then d1 else send d1 (.replayed m y.replay)
    let d3 := if countsDiffer x r then imbalance d2 0x01 n else d2
    pumpMod n (if r.bits = x.spares then d3 else writeHlt d3)

/-! ### Loss of the RX clock (R325) -/

/-- RX_CLOCK_LOSS: every module is held. -/
def effRxLoss (d : Die) : Die := if d.link.state = 7 then { d with link := { d.link with rxLoss := true } } else d

/-- RX_CLOCK_EDGE_RETURN: the modules go on. -/
def effRxReturn (d : Die) : Die :=
  if d.link.rxLoss then (List.range 192).foldl (fun e n => pumpMod n e) { d with link := { d.link with rxLoss := false } } else d

/-- LINK_LOST. -/
def effLinkLost (d : Die) : Die := if d.link.rxLoss then raisePackage d else d

/-! ### The commands -/

def execCredit (m : BitVec 8) (f : CreditFlit) (s : State) := onDieIf (moduleOk m) (effCredit m f) s
def execFlitAccept (m : BitVec 8) (f : RxFlit) (s : State) := onDieIf (moduleOk m) (effFlit m f) s
def execReplayTimeout (m : BitVec 8) (s : State) := onDieIf (moduleOk m) (effReplayTimeout m) s
def execCreditFlitTimer (m : BitVec 8) (s : State) := onDieIf (moduleOk m) (effCreditTimer m) s
def execQuickRetrain (m : BitVec 8) (s : State) := onDieIf (moduleOk m) (effRetrain m) s
def execQuickRetrainDone (m : BitVec 8) (r : RetrainResult) (s : State) := onDieIf (moduleOk m) (effRetrainDone m r) s
def execGateTakeDown (m : BitVec 8) (s : State) := onDieIf (moduleOk m) (effTakeDown m) s
def execGateDrainDone (gate : BitVec 5) (complete : Bool) (s : State) := onDie (effDrainDone gate complete) s
def execRxClockLoss (s : State) := onDie effRxLoss s
def execRxClockEdgeReturn (s : State) := onDie effRxReturn s
def execLinkLost (s : State) := onDie effLinkLost s
def execBootGrant (arg : BitVec 8) (data : BitVec 32) (s : State) := onDie (effGrant arg data) s
def execOffer (mask : BitVec 32) (s : State) := onDie (effOffer mask) s
def execDigestLo (d : BitVec 32) (s : State) := onDie (effDigestLo d) s
def execDigestHi (d : BitVec 32) (s : State) := onDie (effDigestHi d) s
def execAgree (fast : Bool) (mask : BitVec 32) (s : State) := onDie (effAgree fast mask) s
def execLinkUp (mask : BitVec 32) (sizes : BufSizes) (s : State) := onDie (effLinkUp mask sizes) s
def execNewmask (mask : BitVec 32) (s : State) := onDie (effNewmask mask) s
def execDrainPoint (m seq : BitVec 8) (s : State) := onDieIf (moduleOk m) (effDrainPoint m seq) s
def execAck (cmd : BitVec 8) (s : State) := onDie (effAck cmd) s
def execSidebandResendTimeout (cmd : BitVec 8) (s : State) := onDie (effResend cmd) s
def execTrainFastDone (ok : Bool) (s : State) := onDie (effTrainFast ok) s
def execTrainFullDone (ok : Bool) (spares : List SpareMap) (s : State) := onDie (effTrainFull ok spares) s
def execReadinessDone (failing : List (BitVec 8)) (unrepairable : BitVec 32) (s : State) := onDie (effReadiness failing unrepairable) s

end Sys2Proof.Machine
end

