-- ==== Sys2Proof/Machine/Boot.lean ====
section
/-! DEFINITION. Resets by pin, rail and clock (R18 to R21, R197, R325, R332, R355, R420), and the boot step by step: PLL lock, fuse
sense, calibration and Lodge test, firmware, core-monitor broadcast, self-test, READY (R330, R357 to R364, R369 to R382, R388). -/

namespace Sys2Proof.Machine

/-! ### Reset inputs (R18, R21, R429, R433) -/

/-- A die whose factory seal is written, as the VDD_AON shadow has it. -/
def isSealed (d : Die) : Bool := match d.test.sealed with
  | some w => bitB w 63
  | none => false

/-- PORST_N asserted: a cold reset; it ends a package-fatal hold and stand-alone test mode. -/
def effPorst (d : Die) : Die :=
  if d.boot.porst then d
  else
    let d1 := dieReset .cold d
    { d1 with
      boot := { d1.boot with porst := true, cold := true, held := d1.boot.held &&& 3 },
      link := { d1.link with frames := [], alert := false },
      test := { d1.test with stm := false } }

/-- What a rising PORST_N does to the TAP: EXTEST becomes BYPASS, and STM_ENTER on an unsealed die starts stand-alone test mode. -/
def porstRise (d : Die) : Die :=
  let t := d.test
  let t1 := if t.ir = 0x03 then { t with ir := 0xFF, bypass := false, driving := false } else t
  { d with test := { t1 with stm := t.ir == 0x20 && t.stmMult.isSome && !isSealed d } }

/-- A boot once nothing holds the die any longer. -/
def bootUnlessHeld (kind : BitVec 2) (d : Die) : Die :=
  if inReset d then d else startBoot (if d.boot.cold then kindCold else kind) d

/-- PORST_N released. -/
def effPorstRise (d : Die) : Die :=
  if d.boot.porst then bootUnlessHeld kindCold (porstRise { d with boot := { d.boot with porst := false } }) else d

/-- A fuse-sense failure holds until PORST_N (R360). -/
def senseFailed (d : Die) : Bool := d.boot.step == 15 && d.boot.fail == 0x01

/-- HUB_RST_N asserted: a warm reset, unless another reset already holds the die. -/
def effHubRst (d : Die) : Die :=
  if d.boot.hubRst then d
  else
    let d1 := if inReset d || senseFailed d then d else dieReset .warm d
    { d1 with boot := { d1.boot with hubRst := true } }

/-- HUB_RST_N released. -/
def effHubRstRise (d : Die) : Die :=
  if !d.boot.hubRst then d
  else
    let d1 := { d with boot := { d.boot with hubRst := false } }
    if senseFailed d then d1 else bootUnlessHeld kindWarm d1

/-! ### Clocks (R330, R332) -/

/-- Both PLLs locked: CPLL at OP0, or at the multiplier of stand-alone test mode. -/
def lockPlls (d : Die) : Die :=
  let p := d.power
  let mhz := if d.test.stm then 100 * ((d.test.stmMult.map (·.toNat)).getD 12) else opMHz 0
  { d with power := { p with refclkOk := true, refLost := false, lpllLock := true, cpllLock := true, cpllMHz := BitVec.ofNat 13 mhz, current := 0, volt := 0x0A } }

/-- PLL_LOCK: PLLs that kept their lock across a reset do not relock. -/
def effPllLock (d : Die) : Die :=
  if inReset d || d.boot.step ≠ 1 then d
  else
    let d1 := if d.power.cpllLock then d else lockPlls d
    { d1 with boot := { d1.boot with step := 2 } }

/-- CLOCK_LOSS: die-fatal in a running die; a held one loses its Lodge content all the same. -/
def effClockLoss (d : Die) : Die :=
  if d.boot.porst || bitB d.boot.held 0 then
    { d with power := { d.power with refclkOk := false, refLost := true }, ledger := { d.ledger with gap := true } }
  else if inReset d then holdClock d
  else raiseFatal dfClockLost d

/-- CLOCK_RECOVERY: the PLLs relock and the die proceeds from fuse sense. -/
def effClockBack (d : Die) : Die :=
  if !bitB d.boot.held 0 then d
  else
    let d1 := lockPlls { d with boot := { d.boot with held := d.boot.held &&& 6 } }
    if inReset d1 then d1
    else
      let d2 := bootUnlessHeld kindClock d1
      { d2 with boot := { d2.boot with step := 3 } }

/-- THERMAL_TRIP_RELEASE. -/
def effTripRelease (d : Die) : Die :=
  if !bitB d.boot.held 1 then d
  else bootUnlessHeld kindWarm (setInterval d.power.current.toNat { d with
    power := { d.power with thermtrip := false }, boot := { d.boot with held := d.boot.held &&& 5 } })

/-! ### Rails (R209, R228, R374, R420, R429) -/

/-- The TAP reset: IDCODE selected, every data register cleared. -/
def resetTap (t : TestSt) : TestSt :=
  { t with ir := 0x01, bypass := false, boundary := 0, driving := false, dbgDone := false, dbgDenied := false, dbgOff := 0, dbgData := 0 }

/-- The VDD_AON domain at its power-on reset: epoch, placements, link cache, DIE_FATAL, BOOTS, the sticky bits and the TAP. -/
def aonReset (d0 : Die) : Die :=
  let d := endSession d0
  { d with
    ledger := { d.ledger with epoch := 0, gap := true, sweptEpoch := none, dirBase := 0, arrayBase := 0, arrayBytes := 0, poolBase := 0,
                              poolBerths := 0, bins := [] },
    link := { d.link with cache := [], cacheLen := 0, cacheCrc := 0 },
    flt := { d.flt with fatalValid := false, fatalCause := 0, fatalCount := 0, fatalEpoch := 0 },
    boot := { d.boot with boots := 0 },
    power := { d.power with clkLost := false, tripped := false, trips := 0 },
    test := { resetTap d.test with sealed := none, stmMult := none, stm := false } }

/-- VDD_AON_LOW. -/
def effAonLow (d : Die) : Die :=
  let d1 := aonReset d
  { d1 with boot := { d1.boot with aon := false } }

/-- VDD_AON_GOOD: the shadow of the seal is sensed. -/
def effAonGood (d : Die) : Die :=
  if d.boot.aon then d
  else
    let d1 := aonReset d
    { d1 with boot := { d1.boot with aon := true }, test := { d1.test with sealed := some (fuseWord d 0x2FF) } }

/-- VDD_LODGE_DIP: the Lodge's content and its remap tables are lost. A Steward that answers Ledger messages marks the berths at once; one
that has yet to run recovery marks them there (R198). -/
def effLodgeDip (d : Die) : Die :=
  let d1 := { d with mem := memClear d.mem 0 0x80000000, lodge := d.lodge.lost }
  if stewardUp d && d.ledger.memState == 0 then
    { loseBerths (tellLoss d1) (fun l => locDie l == d.ident.dieNum.toNat) with lodge := { d1.lodge with lossUnmarked := false } }
  else d1

/-! ### Fuse sense (R360, R362 to R364) -/

/-- A bit field of a good word. -/
def fuseField (d : Die) (w lo n : Nat) : Nat := fuseData d w / 2 ^ lo % 2 ^ n

def fusedOff (d : Die) : BitVec 512 :=
  packed 512 ((List.range 512).map (fun k => (k, 1, fuseField d (0x019 + k / 48) (k % 48) 1)))

/-- The logical row mapped out of a core's array. -/
def fusedRow (d : Die) (k : Nat) : Option (BitVec 5) :=
  let v := fuseField d (0x024 + k / 8) (6 * (k % 8)) 6
  if v < 32 then none else some (BitVec.ofNat 5 v)

/-- The two 24-bit entries of each word of a region, the valid ones. -/
def fusePairs (d : Die) (lo n : Nat) : List (BitVec 24) :=
  ((List.range (2 * n)).map (fun i => BitVec.ofNat 24 (fuseField d (lo + i / 2) (24 * (i % 2)) 24))).filter (fun e => bitB e 23)

/-- Lodge repair entries of the fuse map, soft-repair commits included. -/
def fusedRepairs (d : Die) : List (BitVec 32) :=
  ((List.range 384).filter (fun i => fuseGood (0x0E4 + i) (fuseWord d (0x0E4 + i)))).map (fun i =>
    BitVec.ofNat 32 (fuseField d (0x0E4 + i) 0 32))

/-- The row an entry names, and its spare. -/
def entryKey (e : BitVec 32) : Nat := 1024 * (16 * fld e 23 9 + fld e 19 4) + fld e 9 10
def entrySpare (e : BitVec 32) : Nat := fld e 4 5

/-- A spare map with one wire on a spare (R328). -/
def addWire (e : BitVec 24) (v : BitVec 16) : BitVec 16 :=
  if bitB e 6 then putFld (putFld v 15 1 1) 8 7 (fld e 7 7) else putFld (putFld v 7 1 1) 0 7 (fld e 7 7)

/-- A fused link repair in its module's spare maps. -/
def loadWire (d : Die) (e : BitVec 24) : Die :=
  if 192 ≤ fld e 15 8 then d
  else modMod d (fld e 15 8) (fun m =>
    if bitB e 14 then { m with rxSpares := addWire e m.rxSpares } else { m with spares := addWire e m.spares })

/-- The remap tables rebuilt from the fuses when they were lost, and each slice's counts. -/
def loadRemap (d : Die) : Die :=
  let rs := fusedRepairs d
  let d1 := if d.lodge.contentLost then rs.foldl (fun e r => mapRow e (entryKey r) (entrySpare r)) d else d
  let l := d1.lodge
  { d1 with lodge := { l with slice := tabFill 0 l.slice 0 512 (fun k =>
      let v := tabGet 0 l.slice k
      if d.ident.coreEn.getLsbD k then putFld (putFld v 24 8 (rs.filter (fun r => fld r 23 9 == k)).length) 16 8 (minFree l k) else v) } }

/-- A core as fuse sense leaves it: one in use leaves core reset. -/
def senseCore (d : Die) (k : Nat) : Core :=
  let x := getCore d (BitVec.ofNat 9 k)
  if d.ident.coreFused.getLsbD k then x else { x with repair := fusedRow d k, portReset := false }

/-- What fuse sense loads; refresh and scrub start if they do not run. -/
def loadFuses (d : Die) : Die :=
  let d1 := { d with lodge := { d.lodge with refreshing := true }, ident := { d.ident with coreFused := fusedOff d, coreEn := ~~~(fusedOff d) } }
  let d2 := { d1 with cores := tabFill Core.reset d1.cores 0 512 (senseCore d1),
                      fuse := { d1.fuse with storeRepairs := fusePairs d 0x064 64 } }
  let d3 := applyVariant ((fusePairs d 0x0A4 64).foldl loadWire (loadRemap d2))
  retarget { d3 with
    trust := { d3.trust with secver := BitVec.ofNat 8 (secverFused d3) },
    power := { d3.power with budget := BitVec.ofNat 16 (d3.power.ceil.toNat / 2), safe := true },
    link := { d3.link with state := if d3.test.stm then 0 else 1 } }

/-- FUSE_SENSE_END: a bad word of the part, limits, floor, gate or bad-core regions ends the boot; else the maps and limits are loaded,
the die glides to OP2, and a latched grant is acted on. -/
def effFuseSense (d0 : Die) : Die :=
  if inReset d0 || (d0.boot.step ≠ 2 && d0.boot.step ≠ 3) then d0
  else
    let d := { d0 with fuse := { d0.fuse with seen := d0.fuse.otp, sensed := true },
                       test := { d0.test with sealed := some (fuseWord d0 0x2FF) } }
    if (List.range 0x24).any (fun n => fuseBad n (fuseWord d n)) then
      bootFail 0x01 3 { d with fuse := { d.fuse with senseFail := true } }
    else
      let d1 := loadFuses d
      let d2 := drew { d1 with boot := { d1.boot with step := 4, grantWait := 0 } }
      match d2.ident.grant with
      | some v => if d2.test.stm then d2 else applyGrant v d2
      | none => d2

/-! ### Exclusion (R360, R381) -/

/-- A core leaves use for the boot. -/
def exclude (cause : Nat) (d : Die) (c : CoreId) : Die :=
  if !coreInUse d c then d
  else
    let i := d.ident
    let e : BitVec 32 := packed 32 [(31, 1, 1), (16, 8, cause), (0, 9, c.toNat)]
    let d1 := setCore d c Core.reset
    { d1 with ident := { i with coreEn := i.coreEn &&& ~~~(1#512 <<< c.toNat), excluded := satInc i.excluded },
              boot := { d1.boot with exclLog := if d1.boot.exclLog.length < 32 then d1.boot.exclLog ++ [e] else d1.boot.exclLog } }

def usedCores (d : Die) : List CoreId := ((List.range 512).map (BitVec.ofNat 9)).filter (coreInUse d)

/-! ### Calibration and the Lodge test (R341, R370 to R372, R375) -/

/-- The PWR section, or its defaults. -/
def loadPwr (d : Die) : Die :=
  let ok := secValid d 0
  let leakMax (o : Nat) : Nat := fuseField d (2 + o / 3) (16 * (o % 3)) 16
  let weight (c : Nat) : Nat :=
    if ok then (if c < 18 then max (fuseFloor d c) (calLE d (secOff 0 + 2 * c) 2) else calLE d (secOff 0 + 2 * c) 2)
    else if c < 18 then divUp (5 * fuseFloor d c) 4 else leakMax 8
  let leak (n : Nat) : Nat := if ok then calLE d (secOff 0 + 0x28 + 2 * n) 2 else leakMax (n / 10)
  { d with power := { d.power with weights := tabFill 0 d.power.weights 0 19 (fun c => BitVec.ofNat 32 (weight c)),
                                   leaks := tabFill 0 d.power.leaks 0 80 (fun n => BitVec.ofNat 32 (leak n)) } }

/-- The THM and IVR sections and the LDG trims, or their defaults. -/
def loadTrims (d : Die) : Die :=
  let off (i : Nat) : Nat := if secValid d 1 then calLE d (secOff 1 + 2 * i) 2 else 0
  let trim (n : Nat) : BitVec 4 := if secValid d 4 then BitVec.ofNat 4 (calLE d (secOff 4 + n) 1) else 0
  let ldg (k : Nat) : Nat := if secValid d 3 then calLE d (secOff 3 + k) 1 else 0
  { d with
    power := { d.power with thmOff := tabFill 0 d.power.thmOff 0 24 (fun i => BitVec.ofNat 16 (off i)),
                            domains := (List.range 16).foldl (fun t n => tabMod Domain.reset t n (fun m => { m with trim := trim n })) d.power.domains },
    lodge := { d.lodge with trims := tabFill 0 d.lodge.trims 0 512 (fun k => BitVec.ofNat 8 (ldg k)) } }

/-- A saved soft repair applied when the tables were lost; one whose spare is already used is ignored. -/
def applyRepair (d : Die) (e : BitVec 32) : Die :=
  let key := entryKey e
  if bitB (tabGet 0 d.lodge.sparesUsed (key / 1024)) (entrySpare e) then d
  else
    let d1 := mapRow d key (entrySpare e)
    let l := d1.lodge
    settleFree (key / 16384) { d1 with lodge := { l with
      slice := tabMod 0 l.slice (key / 16384) (fun v => putFld v 32 8 (min 0xFF (fld v 32 8 + 1))) } }

def applyRepairs (d : Die) : Die :=
  if d.lodge.contentLost && secValid d 3 then (ldgEntries d).foldl applyRepair d else d

/-- One failing row of the destructive test: retired to a spare and logged, or its core excluded. -/
def failDestructive (d : Die) (r : RowRef) : Die :=
  if !coreInUse d r.core then d
  else
    let key := 1024 * bankKey r.core r.bank.toNat + r.row.toNat
    match freeSpare d.lodge (key / 1024) with
    | none => exclude 0x0B d r.core
    | some s => logRepair (mapRow d key s) key s r.ue

/-- One failing row of the read-only test: a corrected one counts, an uncorrectable one is retired with poison. -/
def failReadOnly (d : Die) (r : RowRef) : Die :=
  if !coreInUse d r.core then d
  else
    let key := 1024 * bankKey r.core r.bank.toNat + r.row.toNat
    if !r.ue then noteCe d key
    else if (freeSpare d.lodge (key / 1024)).isNone then exclude 0x0B d r.core
    else
      noteUe { d with lodge := { d.lodge with ueMark := if d.lodge.ueMark.contains key then d.lodge.ueMark else d.lodge.ueMark ++ [key] } } srcScrub key

/-- CALIBRATION_LODGE_TEST_END. After the destructive test the slices read as memory that nothing has written. -/
def effCalEnd (failing : List RowRef) (d : Die) : Die :=
  if inReset d || d.boot.step ≠ 7 then d
  else
    let lost := d.lodge.contentLost
    let d1 := applyRepairs (applyTrims (loadTrims (loadPwr d)))
    let d2 := if lost then failing.foldl failDestructive d1 else failing.foldl failReadOnly d1
    let l := d2.lodge
    let l1 := if lost then { l with contentLost := false, ceMark := [], ueMark := [], poison := [] } else l
    { d2 with
      mem := if lost then memClear d2.mem 0 0x80000000 else d2.mem,
      lodge := { l1 with testDone := true },
      boot := { d2.boot with step := 8, destructive := lost,
                             calDefault := packed 5 ((List.range 5).map (fun s => (s, 1, b2n (!secValid d s)))) } }

/-! ### Firmware (R376, R387, R388) -/

/-- The slot an image boots from: the committed one, or the other. -/
def bootSlot (d : Die) (image : Nat) : Option Nat :=
  ([committedSlot d image, 1 - committedSlot d image]).find? (fun s =>
    !slotEmpty d image s && (imageFault d image (slotImage d image s)).isNone)

/-- The 98 blocks of the core monitor: its digest table in blocks 96 and 97, padded with zeros. -/
def monitorBlocks (l : List Byte) : List (List Byte) :=
  let body := l.drop 0x200
  let block (o n : Nat) : List Byte := (slice body o n ++ List.replicate 2048 0).take 2048
  (List.range 96).map (fun b => block (3072 + 2048 * b) 2048) ++ [block 0 2048, block 2048 1024]

/-- The digest of the digest table at every core in use. -/
def loadTdig (l : List Byte) (d : Die) : Die :=
  let dig := Config.shake256 32 (slice l 0x200 3072)
  (usedCores d).foldl (fun e c => modCore e c (fun x => { x with
    monTdig := tabFill 0 x.monTdig 0 4 (fun i => BitVec.ofNat 64 (deLE dig (8 * i) 8)) })) d

/-- The window grants of a runtime image's POLICY. -/
def loadGrants (l : List Byte) (d : Die) : Die :=
  { d with trust := { d.trust with windows := tabFill Window.reset d.trust.windows 0 8 (fun n => grantOf (slice l (0xA0 + 16 * n) 16)) } }

/-- The firmware started from three slots. -/
def startFirmware (slots : List Nat) (d : Die) : Die :=
  let img (i : Nat) : List Byte := slotImage d i (slots.getD i 0)
  let d1 := loadTdig (img 2) (loadGrants (img 1) d)
  let t := d1.trust
  let d2 := { d1 with
    trust := { t with khfwUp := true, locked := true, heartbeat := d.power.refCnt.toNat,
                      fallback := (List.range 3).any (fun i => slots.getD i 0 != committedSlot d i),
                      signers := packed 9 ((List.range 3).map (fun i => (3 * i, 3, deB (img i) 6))),
                      slots := packed 6 ((List.range 3).map (fun i => (2 * i, 2, slots.getD i 0))),
                      measurements := tabFill [] t.measurements 0 3 (fun i => measureOf (img i)) },
    boot := { d1.boot with step := 9, blocks := 0, round := 0, repairs := [], mon := monitorBlocks (img 2) } }
  if !secValid d2 2 && cacheValid d2 then writeSection d2 2 (cacheBytes d2) 1 else d2

/-- FIRMWARE_START: with an image that verifies in neither slot the boot fails. -/
def effFirmware (d : Die) : Die :=
  if inReset d || d.boot.step ≠ 8 then d
  else match bootSlot d 0, bootSlot d 1, bootSlot d 2 with
    | some a, some b, some c => startFirmware [a, b, c] d
    | _, _, _ => bootFail 0x03 3 d

/-! ### Core-monitor broadcast (R376 to R378) -/

/-- The n-th block to be sent in a round: the table first. -/
def blockOrder (n : Nat) : Nat := if n < 2 then 96 + n else n - 2

/-- BROADCAST_BLOCK_SEND: injected at two north ports; in a repair round to the one core that lacks it. -/
def effBlockSend (d : Die) : Die :=
  let b := d.boot
  if b.step ≠ 9 then d
  else if b.round = 0 then
    (if 98 ≤ b.blocks then d
     else
      let n := blockOrder b.blocks
      cons (send { d with boot := { b with blocks := b.blocks + 1 } } (.monitorBlock (BitVec.ofNat 8 n) 0 none (b.mon.getD n []))) 3 2 2)
  else match b.repairs with
    | [] => d
    | (c, n) :: rest =>
      cons (send { d with boot := { b with repairs := rest } }
        (.monitorBlock (BitVec.ofNat 8 n) (BitVec.ofNat 2 b.round) (some c) (b.mon.getD n []))) 3 1 1

/-- A block has been injected in the broadcast round. -/
def blockSent (d : Die) (n : Nat) : Bool := (List.range d.boot.blocks).any (fun i => blockOrder i == n)

def blockOffset (n : Nat) : Nat := if n < 96 then 0x50000 + 0x800 * n else 0x4F000 + 0x800 * (n - 96)

/-- A block in core store whose digest is right: the table against CORE_MON_TDIG, a block against the table. -/
def blockGood (d : Die) (c : CoreId) (n : Nat) : Bool :=
  let store (o k : Nat) : List Byte := memRead d.mem (storeBase c + o) k
  let x := getCore d c
  if n < 96 then
    bitB x.monRx 96 && bitB x.monRx 97 && Config.shake256 32 (store (blockOffset n) 2048) == store (0x4F000 + 32 * n) 32
  else Config.shake256 32 (store 0x4F000 3072) == (List.range 4).flatMap (fun i => leBytes 8 (tabGet 0 x.monTdig i).toNat)

/-- BROADCAST_BLOCK_RECEIVE: stored, checked, and marked when it is right. -/
def effBlockReceive (c : CoreId) (block : BitVec 8) (writeOk : Bool) (d : Die) : Die :=
  let n := block.toNat
  if d.boot.step ≠ 9 || !coreInUse d c || (getCore d c).portReset || !blockSent d n then d
  else
    let d1 := putStore d c (blockOffset n) (d.boot.mon.getD n [])
    if writeOk && blockGood d1 c n then
      modCore d1 c (fun x => { x with
        monRx := if n < 96 then putFld x.monRx n 1 1 else putFld (putFld x.monRx 96 1 1) 97 1 1 })
    else d1

/-- Every block that a core in use lacks, core by core, table blocks first. -/
def missingBlocks (d : Die) : List (CoreId × Nat) :=
  (usedCores d).flatMap (fun c => (((List.range 98).map blockOrder).filter (fun n => !bitB (getCore d c).monRx n)).map (fun n => (c, n)))

/-- Step 10 begins. -/
def startSelfTest (d : Die) : Die := { d with boot := { d.boot with step := 10, reported := 0, repairs := [] } }

/-- BROADCAST_ROUND_CHECK: once a round's blocks are out. -/
def effRoundCheck (d : Die) : Die :=
  let b := d.boot
  if b.step ≠ 9 || b.blocks < 98 || !b.repairs.isEmpty then d
  else
    let miss := missingBlocks d
    if miss.isEmpty then startSelfTest d
    else if b.round = 3 then startSelfTest (((miss.map (·.1)).eraseDups).foldl (exclude 0x01) d)
    else { d with boot := { b with round := b.round + 1, repairs := miss } }

/-! ### Self-test (R379, R380) -/

/-- What self-test leaves of a core: program memory all zero. -/
def testedCore (x : Core) : Core := { x with pmem := [], pmemBad := [] }

/-- Step 10 ends: every core store is free of monitor content. -/
def endSelfTest (d : Die) : Die :=
  let d1 := (usedCores d).foldl (fun e c => modCore e c testedCore) d
  { d1 with mem := memClear d1.mem 0x100000000 0x10000000, boot := { d1.boot with step := 11 } }

/-- CORE_MON_STAT of a report. -/
def monStat (pass retried : Bool) (group : BitVec 8) : BitVec 32 :=
  packed 32 [(31, 1, 1), (30, 1, b2n pass), (29, 1, b2n retried), (16, 8, if pass then 0 else group.toNat + 1), (8, 8, group.toNat)]

def allReported (d : Die) : Bool := (usedCores d).all (fun c => d.boot.reported.getLsbD c.toNat)

/-- SELF_TEST_REPORT: a core's, or the failure of a shared unit. -/
def effReport (r : SelfTest) (d : Die) : Die :=
  if inReset d || d.boot.step ≠ 10 then d
  else match r with
    | .sharedUnit => bootFail 0x04 3 d
    | .core c pass retried group =>
      if !coreInUse d c || d.boot.reported.getLsbD c.toNat then d
      else
        let d1 := modCore d c (fun x => { x with monStat := monStat pass retried group })
        let d2 := { d1 with boot := { d1.boot with reported := d1.boot.reported ||| (1#512 <<< c.toNat) } }
        let d3 := if pass then d2 else exclude (group.toNat + 1) d2 c
        if allReported d3 then endSelfTest d3 else d3

/-- SELF_TEST_TIMEOUT: cores that have not reported are excluded. -/
def effReportTimeout (d : Die) : Die :=
  if inReset d || d.boot.step ≠ 10 then d
  else endSelfTest (((usedCores d).filter (fun c => !d.boot.reported.getLsbD c.toNat)).foldl (exclude 0x0A) d)

/-! ### READY (R269, R357, R361, R373, R397, R416) -/

/-- READY: the count is valid, the event is posted, granted windows open, and what waited for the Steward is done. -/
def effReady (micros : BitVec 32) (d : Die) : Die :=
  if inReset d || d.boot.step ≠ 11 || d.ident.countValid then d
  else
    let d1 := { d with ident := { d.ident with countValid := true }, boot := { d.boot with bootTime := micros } }
    let d2 := postEvent d1 0x0001 (leBytes 4 (dieCores d1).toNat)
    let d3 := eachWindow effWinOpen d2
    let d4 := if d3.flt.fatalValid then logFault d3 (faultEntry d3 6 d3.flt.fatalCause.toNat 0xFFFF 0 0 0 0) else d3
    let d5 := if d4.link.hltDue then writeHlt d4 else d4
    stewardTurn d5

/-! ### The commands -/

def execPorstNAssert (s : State) := onDie effPorst s
def execPorstNRelease (s : State) := onDie effPorstRise s
def execHubRstNAssert (s : State) := onDie effHubRst s
def execHubRstNRelease (s : State) := onDie effHubRstRise s
def execPllLock (s : State) := onDie effPllLock s
def execClockLoss (s : State) := onDie effClockLoss s
def execClockRecovery (s : State) := onDie effClockBack s
def execThermalTripRelease (s : State) := onDie effTripRelease s
def execVddAonLow (s : State) := onDie effAonLow s
def execVddAonGood (s : State) := onDie effAonGood s
def execVddLodgeDip (s : State) := onDie effLodgeDip s
def execFuseSenseEnd (s : State) := onDie effFuseSense s
def execCalibrationLodgeTestEnd (failing : List RowRef) (s : State) := onDie (effCalEnd failing) s
def execFirmwareStart (s : State) := onDie effFirmware s
def execBroadcastBlockSend (s : State) := onDie effBlockSend s
def execBroadcastBlockReceive (c : CoreId) (block : BitVec 8) (_unicast : Bool) (writeOk : Bool) (s : State) :=
  onDieIf (blockOk block) (effBlockReceive c block writeOk) s
def execBroadcastRoundCheck (s : State) := onDie effRoundCheck s
def execSelfTestReport (r : SelfTest) (s : State) := onDie (effReport r) s
def execSelfTestTimeout (s : State) := onDie effReportTimeout s
def execReady (micros : BitVec 32) (s : State) := onDie (effReady micros) s

end Sys2Proof.Machine
end

