-- ==== Sys2Proof/Machine/RegWrite.lean ====
section
/-! DEFINITION. Register writes: who may write, what each access code does, and the clamps (R6, R7, R13, R83, R119, R161, R240, R327,
R383). A write lands on eight aligned bytes of the control-register space; a mask says which of its bits are written. -/

namespace Sys2Proof.Machine

/-- A write: its agent, its value, the bits written. -/
structure RegW where
  agent : Agent
  v : BitVec 64
  m : BitVec 64
deriving DecidableEq, Repr

/-- A 64-bit register with the written bits replaced. -/
def mergeW (w : RegW) (old : BitVec 64) : BitVec 64 := (old &&& ~~~w.m) ||| (w.v &&& w.m)

/-- A bit is written with 1. -/
def hitW (w : RegW) (i : Nat) : Bool := (w.v &&& w.m).getLsbD i

/-- A 32-bit register in the low or the high half, given its value when written. -/
def onLow (w : RegW) (f : BitVec 32 → Die → Die) (d : Die) : Die := if w.m.getLsbD 0 then f (w.v.extractLsb' 0 32) d else d
def onHigh (w : RegW) (f : BitVec 32 → Die → Die) (d : Die) : Die := if w.m.getLsbD 32 then f (w.v.extractLsb' 32 32) d else d

/-- The Steward's rights: its own writes, and a debug session's (R431). -/
def stewRights (a : Agent) : Bool := a == .steward || a == .debug

/-- The Keyholder writes locked fields only at steps 7 and 8 of a boot (R383). -/
def keyStep (d : Die) : Bool := d.boot.step == 7 || d.boot.step == 8

/-! ### DIE, CLK, PWR, THM (R9, R14, R333, R338, R348, R352, R356, R403, R407, R414) -/

/-- A count of classes 6 to 9. -/
def putCons (c i : Nat) (w : RegW) (d : Die) : Die :=
  let f := d.flt
  match i with
  | 0 => { d with flt := { f with snapIssued := tabMod 0 f.snapIssued c (mergeW w) } }
  | 1 => { d with flt := { f with snapReturned := tabMod 0 f.snapReturned c (mergeW w) } }
  | 2 => { d with flt := { f with snapLive := tabMod 0 f.snapLive c (mergeW w) } }
  | _ => d

def writeDie (w : RegW) (o : Nat) (d : Die) : Die :=
  match o with
  | 0x10 => onLow w (fun v e => if bitB v 30 then { e with ident := { e.ident with grantConflict := false } } else e) d
  | 0x18 => if hitW w 63 then { d with ident := { d.ident with refuseLog := putFld d.ident.refuseLog 63 1 0 } } else d
  | 0x20 => onLow w (fun v e => { e with ident := { e.ident with refuseCnt := v } }) d
  | 0x40 => if hitW w 63 then { d with flt := { d.flt with fatalValid := false } } else d
  | 0x48 => { d with flt := { d.flt with ce := mergeW w d.flt.ce } }
  | 0x50 => onLow w (fun v e =>
      let e1 := { e with flt := { e.flt with imbal := e.flt.imbal &&& ~~~(v.setWidth 10) } }
      if bitB v 31 then snapshot e1 else e1) d
  | _ => match entryAt o 0x400 32 10 with
    | some c => if 6 ≤ c then putCons c ((o - 0x400) % 32 / 8) w d else d
    | none => d

def writeClk (w : RegW) (o : Nat) (d : Die) : Die :=
  if o = 0 then onLow w (fun v e => if bitB v 28 then { e with power := { e.power with clkLost := false } } else e) d else d

/-- DROOPS and SKIPPED. -/
def domWrite (w : RegW) (n : Nat) (d : Die) : Die :=
  let new := mergeW w (pwrDom d n)
  modDomain (BitVec.ofNat 4 n) (fun x => { x with droops := new.extractLsb' 48 16, skipped := new.extractLsb' 16 32 }) d

def writePwr (w : RegW) (o : Nat) (d : Die) : Die :=
  match o with
  | 0x00 => onLow w (fun v e => effTarget (v.extractLsb' 16 3) e) d
  | 0x18 => onHigh w (fun v e => { e with power := { e.power with pref := v &&& 0x77777777#32 } }) d
  | _ => match entryAt o 0x400 8 16 with
    | some n => domWrite w n d
    | none => d

/-- THM_HOT between 60 °C and 105 °C. -/
def clampHot (v : BitVec 16) : BitVec 16 :=
  if v.toInt < 0x00F0 then 0x00F0 else if (0x01A4 : Int) < v.toInt then 0x01A4 else v

def writeThm (w : RegW) (o : Nat) (d : Die) : Die :=
  match o with
  | 0x80 => onLow w (fun v e => { e with power := { e.power with thmHot := clampHot (v.setWidth 16) } }) d
  | 0x88 =>
    let new := mergeW w (thmStatus d)
    { d with power := { d.power with tripped := d.power.tripped && !hitW w 63, trips := new.extractLsb' 48 8, peak := new.extractLsb' 16 16 } }
  | _ => d

/-! ### KH, PH, HL, MESH, TLY (R240, R244, R245, R256, R259, R327, R328, R396) -/

def writeKh (w : RegW) (o : Nat) (d : Die) : Die :=
  match entryAt o 0x100 32 8 with
  | some n => if (o - 0x100) % 32 = 16 then
      onLow w (fun v e => if bitB v 31 then effWinOpen (BitVec.ofNat 3 n) e else effWinClose (BitVec.ofNat 3 n) e) d
    else d
  | none => d

def writePhReg (w : RegW) (o : Nat) (d : Die) : Die :=
  match o with
  | 0x08 => giveBits (w.v &&& w.m) d
  | 0x10 => effPhRelease (w.v &&& w.m) d
  | 0x20 => onLow w (fun v e => { e with stew := { e.stew with ownViol := v.extractLsb' 16 16, giveIgn := v.extractLsb' 0 16 } }) d
  | _ => d

/-- HL_OFFER is locked from CONFIRM until the next DOWN. -/
def offerLocked (d : Die) : Bool := decide (6 ≤ d.link.state.toNat)

def modCntWrite (w : RegW) (m : Module) : Module :=
  let new := mergeW w (modCnt m)
  { m with retrains := new.extractLsb' 48 16, replays := new.extractLsb' 32 16, crcErrors := new.extractLsb' 0 32 }

def writeHl (w : RegW) (o : Nat) (d : Die) : Die :=
  match o with
  | 0x00 => onLow w (fun v e => { e with link := { e.link with discards := v.setWidth 12 } }) d
  | 0x08 => onLow w (fun v e => { e with link := { e.link with fastEn := bitB v 31 } }) d
  | 0x10 => onLow w (fun v e => if offerLocked e then e else { e with link := { e.link with offer := v } }) d
  | _ => match entryAt o 0x1000 16 192 with
    | some n => if o % 16 = 8 then { d with link := { d.link with modules := tabMod Module.reset d.link.modules n (modCntWrite w) } } else d
    | none => d

/-- EPOCH and PARTY of a port. -/
def portWrite (c : CoreId) (v : BitVec 64) (d : Die) : Die :=
  modCore d c (fun x => { x with portEpoch := v.extractLsb' 32 8, portParty := v.extractLsb' 16 12 })

def writeMesh (w : RegW) (o : Nat) (d : Die) : Die :=
  match o with
  | 0x1000 => onHigh w (fun v e => { e with mesh := { e.mesh with resetCnt := v } })
      (onLow w (fun v e => { e with mesh := { e.mesh with staleCnt := v } }) d)
  | 0x1008 => if hitW w 63 then { d with mesh := { d.mesh with nackLog := putFld d.mesh.nackLog 63 1 0 } } else d
  | 0x1010 => onLow w (fun v e => { e with mesh := { e.mesh with linkCe := v } }) d
  | _ => match entryAt o 0 8 512 with
    | some k => portWrite (BitVec.ofNat 9 k) (mergeW w (meshPort d k)) d
    | none => d

def writeTly (w : RegW) (o : Nat) (d : Die) : Die :=
  match entryAt o 0 32 4 with
  | some q => if o % 32 = 0 then onLow w (fun v e => { e with tally := { e.tally with staleWakes := tabSet 0 e.tally.staleWakes q v } }) d else d
  | none => d

/-! ### LGR, LDG (R203, R204, R208, R209, R216, R225, R227, R228) -/

def writeLgr (w : RegW) (o : Nat) (d : Die) : Die :=
  let l := d.ledger
  match o with
  | 0x00 => { d with ledger := { l with dirBase := mergeW w l.dirBase &&& 0x8000FFFFFFF00000#64 } }
  | 0x10 => if hitW w 63 then { d with ledger := { l with gap := false } } else d
  | 0x20 => onLow w (fun v e => { e with ledger := { e.ledger with
      retCap := if 0x7FFF < fld v 16 16 then 0x7FFF else v.extractLsb' 16 16, margin := v.extractLsb' 0 16 } }) d
  | 0x28 => onLow w (fun v e => { e with ledger := { e.ledger with lodgeLow := v.extractLsb' 16 16, pkgLow := v.extractLsb' 0 16 } }) d
  | 0x40 => { d with ledger := { l with arrayBase := mergeW w l.arrayBase &&& 0x0000FFFFFFFFFFF0#64 } }
  | 0x48 => { d with ledger := { l with arrayBytes := mergeW w l.arrayBytes &&& 0x0000FFFFFFFFFFFF#64 } }
  | 0x50 => { d with ledger := { l with poolBase := mergeW w l.poolBase &&& 0x0000FFFFFFFF0000#64 } }
  | 0x58 => onLow w (fun v e => { e with ledger := { e.ledger with poolBerths := v } }) d
  | _ => match entryAt o 0x100 32 4 with
    | some q => if o % 32 = 0 then
        onHigh w (fun v e => { e with ledger := { e.ledger with misses := tabSet 0 e.ledger.misses q v } })
          (onLow w (fun v e => { e with ledger := { e.ledger with hits := tabSet 0 e.ledger.hits q v } }) d)
      else d
    | none => d

def writeLdg (w : RegW) (o : Nat) (d : Die) : Die :=
  let l := d.lodge
  match o with
  | 0x00 => onLow w (fun v e => { e with lodge := { e.lodge with
      softEn := bitB v 31, softThresh := if fld v 0 8 = 0 then 1 else v.extractLsb' 0 8 } }) d
  | 0x10 => if hitW w 63 then { d with lodge := { l with ueLog := putFld l.ueLog 63 1 0 } } else d
  | _ => match entryAt o 0x1000 8 512 with
    | some k => { d with lodge := { l with slice := tabMod 0 l.slice k (fun x =>
        putFld (putFld x 48 16 (fld (mergeW w x) 48 16)) 40 8 (fld (mergeW w x) 40 8)) } }
    | none => d

/-! ### TST (R435) -/

/-- A START is ignored while a run is in progress and, in a package, while the gate is agreed or the link trains. -/
def startIgnored (d : Die) (gate : Nat) : Bool :=
  bitB d.test.loop 30 || (!d.test.stm && (bitB d.link.agreed gate || (decide (2 ≤ d.link.state.toNat) && decide (d.link.state.toNat ≤ 6))))

/-- A TST_LOOP write. -/
def loopWrite (v : BitVec 32) (d : Die) : Die :=
  let t := d.test
  let a := if bitB v 29 then putFld t.loop 29 1 0 else t.loop
  let b := putFld (putFld a 24 5 (fld v 24 5)) 18 6 (fld v 18 6)
  if !bitB v 31 then { d with test := { t with loop := b } }
  else if startIgnored d (fld v 24 5) then { d with test := { t with loop := putFld b 29 1 1 } }
  else { d with test := { t with loop := putFld b 30 2 3, loopRun := v.extractLsb' 18 11 } }

def writeTst (w : RegW) (o : Nat) (d : Die) : Die := if o = 0x100 then onLow w loopWrite d else d

/-! ### CORE k (R61, R83, R119, R125, R160, R161, R180, R248) -/

/-- CORE_SR_SEED_t. -/
def seedWrite (t : Bool) (v : BitVec 64) (x : Core) : Core := if t then { x with seed1 := seedLoad v } else { x with seed0 := seedLoad v }

/-- CORE_FLAG_LOG_STAT: a COUNT of 0 empties the log and clears LOST; any other write loads both fields, a COUNT above the log's 64
entries as 64 (DESIGN CHOICE, assumption log). -/
def logStatWrite (v : BitVec 32) (x : Core) : Core :=
  if fld v 0 7 = 0 then emptyLog x else { x with flagCount := min 64 (fld v 0 7), flagLost := v.extractLsb' 16 16 }

/-- A tally window's fields. -/
def winLoad (v : BitVec 64) : BitVec 64 := v &&& 0x8003FFFF0001FFFF#64

def writeCore (w : RegW) (c : CoreId) (o : Nat) (d : Die) : Die :=
  let core (f : BitVec 32 → Core → Core) (v : BitVec 32) (e : Die) : Die := modCore e c (f v)
  match o with
  | 0x120 => onLow w (core accWrite) d
  | 0x140 => onHigh w (core (abftWrite true false)) (onLow w (core (abftWrite false false)) d)
  | 0x148 => onHigh w (core (abftWrite true true)) (onLow w (core (abftWrite false true)) d)
  | 0x200 => modCore d c (fun x => seedWrite false (mergeW w x.seed0) x)
  | 0x208 => modCore d c (fun x => seedWrite true (mergeW w x.seed1) x)
  | 0x310 => if hitW w 63 then modCore d c (fun x => { x with fault := putFld x.fault 63 1 0 }) else d
  | 0x3F8 => onLow w (core logStatWrite) d
  | 0x880 => onHigh w (core (fun v x => { x with stall1 := stallLoad v })) (onLow w (core (fun v x => { x with stall0 := stallLoad v })) d)
  | _ =>
    if 0x800 ≤ o ∧ o < 0x840 then
      writeRing c ((o - 0x800) / 8) (mergeW w (getRing (getCore d c) ((o - 0x800) / 8)).cfg) d
    else if 0xC00 ≤ o ∧ o < 0xC20 then modCore d c (fun x => { x with win0 := tabMod 0 x.win0 ((o - 0xC00) / 8) (fun v => winLoad (mergeW w v)) })
    else if 0xC20 ≤ o ∧ o < 0xC40 then modCore d c (fun x => { x with win1 := tabMod 0 x.win1 ((o - 0xC20) / 8) (fun v => winLoad (mergeW w v)) })
    else d

/-! ### The whole space -/

/-- A write with the Steward's rights, at an offset that is a multiple of 8. -/
def stewRegWrite (w : RegW) (o : Nat) (d : Die) : Die :=
  if o < 0x10000 then writeDie w o d
  else if o < 0x20000 then writeClk w (o - 0x10000) d
  else if o < 0x30000 then writePwr w (o - 0x20000) d
  else if o < 0x40000 then writeThm w (o - 0x30000) d
  else if o < 0x50000 then d
  else if o < 0x60000 then writeKh w (o - 0x50000) d
  else if o < 0x80000 then writePhReg w (o - 0x60000) d
  else if o < 0xC0000 then writeHl w (o - 0x80000) d
  else if o < 0x100000 then writeMesh w (o - 0xC0000) d
  else if o < 0x140000 then writeTly w (o - 0x100000) d
  else if o < 0x180000 then writeLgr w (o - 0x140000) d
  else if o < 0x1F0000 then writeLdg w (o - 0x180000) d
  else if o < 0x200000 then writeTst w (o - 0x1F0000) d
  else if 0x800000 ≤ o ∧ o < 0x2800000 then writeCore w (BitVec.ofNat 9 ((o - 0x800000) / 0x10000)) ((o - 0x800000) % 0x10000) d
  else d

/-- PWR_CEIL: downward only from the fused limit, which a higher write loads (R348). -/
def ceilWrite (v : BitVec 32) (d : Die) : Die :=
  let fused := match variantLimits (effVariant d) with
    | some (_, c) => BitVec.ofNat 16 c
    | none => d.power.ceil
  { d with power := { d.power with ceil := if fused.toNat < fld v 0 16 then fused else v.setWidth 16 } }

/-- A grant field of window n; a grant withdrawn closes the window. -/
def grantWrite (w : RegW) (n i : Nat) (d : Die) : Die :=
  modWin n (fun x => match i with
    | 0 => { x with base := mergeW w x.base &&& 0x0000003FFFFFFFC0#64 }
    | 1 => { x with limit := mergeW w x.limit &&& 0x0000003FFFFFFFC0#64 }
    | _ => if w.m.getLsbD 0 then { x with granted := bitB w.v 29, w := bitB w.v 25, r := bitB w.v 24, pairs := w.v.extractLsb' 16 4 } else x) d

/-- What the Keyholder writes, at steps 7 and 8: the ceiling, the calibration values, the grants, the core monitor's digest. -/
def keyWrite (w : RegW) (o : Nat) (d : Die) : Die :=
  if !keyStep d then d
  else if o = 0x20000 then onHigh w ceilWrite d
  else match entryAt o 0x20100 8 10, entryAt o 0x20200 8 40, entryAt o 0x50100 32 8 with
    | some n, _, _ =>
      let put (k : Nat) (v : BitVec 32) (e : Die) : Die :=
        if k < 19 then { e with power := { e.power with weights := tabSet 0 e.power.weights k (v &&& 0xFFFF#32) } } else e
      onHigh w (put (2 * n + 1)) (onLow w (put (2 * n)) d)
    | _, some n, _ =>
      let put (k : Nat) (v : BitVec 32) (e : Die) : Die := { e with power := { e.power with leaks := tabSet 0 e.power.leaks k (v &&& 0xFFFF#32) } }
      onHigh w (put (2 * n + 1)) (onLow w (put (2 * n)) d)
    | _, _, some n => if (o - 0x50100) % 32 / 8 < 3 then grantWrite w n ((o - 0x50100) % 32 / 8) d else d
    | _, _, _ =>
      let c := (o - 0x800000) % 0x10000
      if 0x800000 ≤ o ∧ 0xD20 ≤ c ∧ c < 0xD40 then
        modCore d (BitVec.ofNat 9 ((o - 0x800000) / 0x10000)) (fun x => { x with monTdig := tabMod 0 x.monTdig ((c - 0xD20) / 8) (mergeW w) })
      else d

/-- A register write that lands: one to an offset that is unmapped, or that its agent's rights do not reach, is discarded. -/
def regWrite (w : RegW) (o : Nat) (d : Die) : Die :=
  if inReset d || !regMapped d o then d
  else if w.agent = .keyholder then keyWrite w o d
  else stewRegWrite w o d

/-- The 64-bit registers, by the eight bytes they fill. -/
def wide (o : Nat) : Bool :=
  let within (a b : Nat) : Bool := decide (a ≤ o) && decide (o < b)
  if o < 0x10000 then o == 0x18 || o == 0x40 || o == 0x48 || within 0x400 0x540
  else if o < 0x20000 then o == 0x10008
  else if o < 0x30000 then o == 0x20008 || o == 0x20010 || within 0x20400 0x20480
  else if o < 0x40000 then o == 0x30088
  else if o < 0x50000 then o != 0x40000
  else if o < 0x60000 then within 0x50100 0x50200 && o % 32 != 16
  else if o < 0x80000 then within 0x60000 0x60020
  else if o < 0xC0000 then o == 0x80018 || within 0x81000 0x81C00
  else if o < 0x100000 then within 0xC0000 0xC1000 || o == 0xC1008
  else if o < 0x140000 then within 0x100000 0x100080
  else if o < 0x180000 then o == 0x140000 || o == 0x140010 || within 0x140040 0x140058 || within 0x140100 0x140180
  else if o < 0x1F0000 then o == 0x180010 || within 0x181000 0x182000
  else if o < 0x200000 then o == 0x1F0008 || within 0x1F1000 0x1F1600
  else
    let c := (o - 0x800000) % 0x10000
    let inC (a b : Nat) : Bool := decide (a ≤ c) && decide (c < b)
    inC 0x128 0x138 || inC 0x200 0x210 || inC 0x300 0x318 || inC 0x330 0x338 || inC 0x400 0x600 || inC 0x800 0x840 ||
      inC 0x900 0xB00 || inC 0xC00 0xC40 || inC 0xD00 0xD10 || inC 0xD20 0xD40

/-- A write of the register at an offset: a 64-bit register whole, a 32-bit register, or the upper word of a 64-bit one. -/
def writeAt (agent : Agent) (o : Nat) (v : BitVec 64) : RegW × Nat :=
  if o % 8 = 4 then (⟨agent, v <<< 32, 0xFFFFFFFF00000000#64⟩, o - 4)
  else (⟨agent, v, if wide o then BitVec.allOnes 64 else 0xFFFFFFFF#64⟩, o)

/-- A debug session that may write registers. -/
def debugWrites (d : Die) : Bool := d.trust.dbgOpen && bitB d.trust.dbgScope 1

def effRegister (agent : Agent) (off : BitVec 26) (v : BitVec 64) (d : Die) : Die :=
  if off.toNat % 4 ≠ 0 || (agent == .debug && !debugWrites d) then d
  else
    let p := writeAt agent off.toNat v
    regWrite p.1 p.2 d

/-- A write of one core's register by the Steward; that of a core not in use lies nowhere. -/
def onDieReg (c : CoreId) (f : Die → Die) (d : Die) : Die := if inReset d || !coreInUse d c then d else f d
def onCoreReg (c : CoreId) (f : Core → Core) : Die → Die := onDieReg c (fun d => modCore d c f)

def effPortWrite (c : CoreId) (v : BitVec 64) (d : Die) : Die := if inReset d then d else portWrite c v d

def execAccCfgWrite (c : CoreId) (v : BitVec 32) (s : State) := onDie (onCoreReg c (accWrite v)) s
def execAbftCfgWrite (c : CoreId) (h : Bool) (floor : Bool) (v : BitVec 32) (s : State) := onDie (onCoreReg c (abftWrite h floor v)) s
def execCoreRingWrite (c : CoreId) (ring : BitVec 3) (v : BitVec 64) (s : State) := onDie (onDieReg c (writeRing c ring.toNat v)) s
def execCoreSrSeedWrite (c : CoreId) (t : Bool) (v : BitVec 64) (s : State) := onDie (onCoreReg c (seedWrite t v)) s
def execMeshPortWrite (c : CoreId) (v : BitVec 64) (s : State) := onDie (effPortWrite c v) s
def execRegisterWrite (agent : Agent) (off : BitVec 26) (v : BitVec 64) (s : State) := onDie (effRegister agent off v) s

end Sys2Proof.Machine
end

