-- ==== Sys2Proof/Machine/TestAccess.lean ====
section
/-! DEFINITION. The test access port: its instructions, debug accesses, halting and stepping, hub-link loopback (R429 to R435). -/

namespace Sys2Proof.Machine

/-! ### The instruction register (R429, R430, R433) -/

/-- The TAP lies in VDD_AON. -/
def tapUp (d : Die) : Bool := d.boot.aon


/-- An instruction loaded where it is available, else BYPASS. -/
def loadIr (code : BitVec 8) (ok : Bool) (f : Die → Die) (d : Die) : Die :=
  if !tapUp d then d
  else if ok then f { d with test := { d.test with ir := code, bypass := code == 0xFF, driving := false } }
  else { d with test := { d.test with ir := 0xFF, bypass := true, driving := false } }

/-- WRAP, SCAN, MBIST, TIER and LOOP need an unsealed die in stand-alone test mode. -/
def bench (d : Die) : Bool := !isSealed d && d.test.stm

/-- TAP_RESET. -/
def effTapReset (d : Die) : Die :=
  if !tapUp d then d
  else
    let e := endSession d
    { e with test := resetTap e.test }

/-- IDCODE of the first stepping. -/
def idcodeWord : BitVec 32 := packed 32 [(28, 4, 0), (12, 16, 0x05A1), (1, 11, 0x2E9), (0, 1, 1)]

def effIdcode (d : Die) : Die := loadIr 0x01 true (fun e => send e (.tap (idcodeWord.setWidth 256))) d

/-- SAMPLE/PRELOAD: the boundary-scan register is loaded, the bumps keep their functional use. -/
def effSample (cells : BitVec 25) (d : Die) : Die :=
  loadIr 0x02 true (fun e => { e with test := { e.test with boundary := cells } }) d

/-- EXTEST: the cells drive their bumps. -/
def effExtest (d : Die) : Die := loadIr 0x03 d.boot.porst (fun e => { e with test := { e.test with driving := true } }) d

/-- STM_ENTER: the CPLL multiplier of stand-alone test mode, 12 to 72; one outside the range is not kept. -/
def effStmEnter (mult : BitVec 8) (d : Die) : Die :=
  loadIr 0x20 (!isSealed d) (fun e =>
    if 12 ≤ mult.toNat ∧ mult.toNat ≤ 72 then { e with test := { e.test with stmMult := some mult } } else e) d

def effLoopSelect (v : BitVec 32) (d : Die) : Die := loadIr 0x25 (bench d) (fun e => if inReset e then e else loopWrite v e) d

/-! ### Debug accesses (R398, R399, R431) -/

def scopeBit (d : Die) (i : Nat) : Bool := d.trust.dbgOpen && bitB d.trust.dbgScope i

def ctlOff : Nat := 0x1F0000
def regOff : Nat := 0x1F0008

/-- KIND of a TST_DBG_CTL value names the scope bit of its target. -/
def kindBit (ctl : BitVec 32) : Nat := if bitB ctl 28 then 4 else 3

/-- Eight bytes of control registers that hold nothing but what the Keyholder owns: its fuse regions, or, of a write, locked fields. -/
def keyOwned (write : Bool) (o : Nat) : Bool :=
  (decide (0x43520 ≤ o) && decide (o < 0x437D8)) ||
  (write && ((decide (0x20100 ≤ o) && decide (o < 0x20150)) || (decide (0x20200 ≤ o) && decide (o < 0x20340)) ||
    (decide (0x50100 ≤ o) && decide (o < 0x50200) && decide (o % 32 < 16)) ||
    (decide (0x800000 ≤ o) && decide (0xD20 ≤ (o - 0x800000) % 0x10000) && decide ((o - 0x800000) % 0x10000 < 0xD40))))

/-- The open session covers a target. -/
def covers (d : Die) (write : Bool) (off : Nat) (data : BitVec 64) : Bool :=
  d.trust.dbgOpen && off % 8 == 0 && (match regionOf d off with
    | .slice _ _ => scopeBit d 2
    | .store _ _ => scopeBit d 2
    | .ssram => scopeBit d 2
    | .reg o =>
      if o = ctlOff then scopeBit d (kindBit (if write then data.setWidth 32 else d.test.dbgCtl))
      else if o = regOff then scopeBit d (kindBit d.test.dbgCtl)
      else !keyOwned write o && scopeBit d (b2n write)
    | _ => false)

/-! ### Halting and stepping (R400, R432) -/

def ctlCore (v : BitVec 32) : CoreId := v.extractLsb' 19 9
def ctlThread (v : BitVec 32) : Bool := bitB v 18
def ctlSteward (v : BitVec 32) : Nat := fld v 16 2
def ctlReg (v : BitVec 32) : Nat := fld v 8 8

/-- HALTED of the selected target. -/
def targetHalted (d : Die) (v : BitVec 32) : Bool :=
  if bitB v 28 then (getThread (getCore d (ctlCore v)) (ctlThread v)).dbgHalted else bitB d.test.stewHalted (ctlSteward v)

/-- The registers a Steward core holds: what its program has put into them is open; x0 reads 0. -/
def openStew (d : Die) (n : Nat) : Die :=
  drew { d with test := { d.test with stewRegs := tabFill 0 d.test.stewRegs (64 * n) 33 (fun r => if r = 0 then 0 else freeVal d r) } }

def haltThread (c : CoreId) (t halt : Bool) (d : Die) : Die :=
  if !coreInUse d c then d else modThread d c t (fun th => { th with dbgHalted := halt, dbgStep := false })

def haltSteward (n : Nat) (halt : Bool) (d : Die) : Die :=
  let d1 := if halt && !bitB d.test.stewHalted n then openStew d n else d
  { d1 with test := { d1.test with stewHalted := putFld d1.test.stewHalted n 1 (b2n halt) } }

/-- STEP of a halted target. -/
def stepTarget (v : BitVec 32) (d : Die) : Die :=
  if !targetHalted d v then d
  else if bitB v 28 then modThread d (ctlCore v) (ctlThread v) (fun th => { th with dbgStep := true })
  else openStew d (ctlSteward v)

/-- What TST_DBG_CTL holds after a write: HALTED as found, HALT 0 at a thread that cannot be halted, STEP done. -/
def ctlAfter (d : Die) (v : BitVec 32) : BitVec 32 :=
  let a := putFld (v &&& 0x5FFFFF00#32) 31 1 (b2n (targetHalted d v))
  if bitB v 28 && !coreInUse d (ctlCore v) then putFld a 30 1 0 else a

/-- A TST_DBG_CTL write. -/
def ctlWrite (v : BitVec 32) (d : Die) : Die :=
  let d1 := if bitB v 28 then haltThread (ctlCore v) (ctlThread v) (bitB v 30) d else haltSteward (ctlSteward v) (bitB v 30) d
  let d2 := if bitB v 29 then stepTarget v d1 else d1
  { d2 with test := { d2.test with dbgCtl := ctlAfter d2 v } }

/-- Register REGIDX of the halted target; an index that names none reads 0. -/
def targetReg (d : Die) : BitVec 64 :=
  let v := d.test.dbgCtl
  if bitB v 28 then (if ctlReg v < 48 then threadReg (getThread (getCore d (ctlCore v)) (ctlThread v)) (ctlReg v) else 0)
  else if ctlReg v < 33 then tabGet 0 d.test.stewRegs (64 * ctlSteward v + ctlReg v) else 0

/-- A TST_DBG_REG write, ignored unless HALTED. -/
def regValueWrite (x : BitVec 64) (d : Die) : Die :=
  let v := d.test.dbgCtl
  if !targetHalted d v then d
  else
    let d1 := { d with test := { d.test with dbgReg := x } }
    if bitB v 28 then
      (if ctlReg v < 48 then modThread d1 (ctlCore v) (ctlThread v) (fun th => setThreadReg th (ctlReg v) x) else d1)
    else if 0 < ctlReg v ∧ ctlReg v < 33 then
      { d1 with test := { d1.test with stewRegs := tabSet 0 d1.test.stewRegs (64 * ctlSteward v + ctlReg v) x } }
    else d1

/-! ### Carrying an access out (R431) -/

/-- Eight bytes of control registers as a debug session reads them. -/
def debugRead (d : Die) (o : Nat) : BitVec 64 :=
  if o = ctlOff then (putFld d.test.dbgCtl 31 1 (b2n (targetHalted d d.test.dbgCtl))).setWidth 64
  else if o = regOff then (if targetHalted d d.test.dbgCtl then targetReg d else d.test.dbgReg)
  else (regRead d true (o + 4)) ++ (regRead d true o)

/-- An access carried out: the data read, and the die after it. A Lodge read of an uncorrectable row returns open data. -/
def carryOut (write : Bool) (off : Nat) (data : BitVec 64) (d : Die) : BitVec 64 × Die :=
  match regionOf d off with
  | .slice c x =>
    if write then (0, putSlice srcOutside d c x (leBytes 8 data.toNat))
    else (if (ueIn d c x 8).isSome then freeVal d 0 else BitVec.ofNat 64 (memLE d.mem off 8), senseRows srcOutside c x 8 (drew d))
  | .reg o =>
    if o = ctlOff then (if write then (0, ctlWrite (data.setWidth 32) d) else (debugRead d o, d))
    else if o = regOff then (if write then (0, regValueWrite data d) else (debugRead d o, d))
    else if write then (0, regWrite ⟨.debug, data, BitVec.allOnes 64⟩ o d)
    else (debugRead d o, drew d)
  | .store c x => if write then (0, putStore d c x (leBytes 8 data.toNat)) else (BitVec.ofNat 64 (memLE d.mem off 8), d)
  | _ => if write then (0, { d with mem := memWrite d.mem off (leBytes 8 data.toNat) }) else (BitVec.ofNat 64 (memLE d.mem off 8), d)

/-- What the next Capture-DR loads. -/
def accessDone (denied : Bool) (off : BitVec 38) (data : BitVec 64) (d : Die) : Die :=
  { d with test := { d.test with dbgDone := true, dbgDenied := denied, dbgOff := off, dbgData := data } }

/-- One Update-DR of DBG_ACCESS. -/
def effAccess (write : Bool) (off : BitVec 38) (data : BitVec 64) (d : Die) : Die :=
  loadIr 0x12 true (fun e =>
    if covers e write off.toNat data then
      let p := carryOut write off.toNat data e
      accessDone false off p.1 p.2
    else accessDone true off 0 e) d

def tstOffset (o : Nat) : BitVec 38 := BitVec.ofNat 38 (regsBase + o)

/-! ### Loopback (R434, R435) -/

def effLoopStart (gate : BitVec 5) (mods : BitVec 6) (d : Die) : Die :=
  if inReset d then d else loopWrite (packed 32 [(31, 1, 1), (24, 5, gate.toNat), (18, 6, mods.toNat)]) d

/-- A module takes part in the run. -/
def inRun (d : Die) (m : Nat) : Bool := m / 6 == fld d.test.loopRun 6 5 && bitB d.test.loopRun (m % 6)

def loopResult (r : LoopResult) : BitVec 64 :=
  packed 64 [(63, 1, 1), (62, 1, b2n r.pass), (40, 7, if r.pass then 0 else r.wire.toNat), (0, 32, if r.pass then 0 else r.errors.toNat)]

def effLoopDone (rs : List LoopResult) (d : Die) : Die :=
  if !bitB d.test.loop 30 then d
  else
    let res := (rs.filter (fun r => inRun d r.m.toNat)).foldl (fun t r => tabSet 0 t r.m.toNat (loopResult r)) d.test.loopRes
    { d with test := { d.test with loop := putFld d.test.loop 30 2 0, loopRes := res } }

/-! ### The commands -/

def execDbgAccess (write : Bool) (off : BitVec 38) (data : BitVec 64) (s : State) := onDie (effAccess write off data) s
def execTstDbgHalt (v : BitVec 32) (s : State) := onDie (effAccess true (tstOffset ctlOff) (v.setWidth 64)) s
def execTstDbgStep (s : State) :=
  onDie (fun d => effAccess true (tstOffset ctlOff) ((d.test.dbgCtl ||| 0x60000000#32).setWidth 64) d) s
def execTapReset (s : State) := onDie effTapReset s
def execIdcode (s : State) := onDie effIdcode s
def execSamplePreload (cells : BitVec 25) (s : State) := onDie (effSample cells) s
def execExtest (s : State) := onDie effExtest s
def execStmEnter (mult : BitVec 8) (s : State) := onDie (effStmEnter mult) s
def execWrap (s : State) := onDie (fun d => loadIr 0x21 (bench d) id d) s
def execScan (s : State) := onDie (fun d => loadIr 0x22 (bench d) id d) s
def execMbist (s : State) := onDie (fun d => loadIr 0x23 (bench d) id d) s
def execTier (s : State) := onDie (fun d => loadIr 0x24 (bench d) id d) s
def execLoopSelect (v : BitVec 32) (s : State) := onDie (effLoopSelect v) s
def execBypass (s : State) := onDie (fun d => loadIr 0xFF true id d) s
def execTstLoopStart (gate : BitVec 5) (mods : BitVec 6) (s : State) := onDie (effLoopStart gate mods) s
def execLoopbackDone (results : List LoopResult) (s : State) := onDie (effLoopDone results) s

end Sys2Proof.Machine
end

