-- ==== Sys2Proof/Machine/Dispatch.lean ====
section
/-! DEFINITION. One arm per command: the meaning it calls. -/

namespace Sys2Proof.Machine

def exec (i : Instr) (s : State) : Host.Outcome State Fault Refusal :=
  match i with
  | .nop c t w => Sys2Proof.Machine.execNop c t w s
  | .halt c t w => Sys2Proof.Machine.execHalt c t w s
  | .br c t w => Sys2Proof.Machine.execBr c t w s
  | .brc c t w => Sys2Proof.Machine.execBrc c t w s
  | .loop c t w => Sys2Proof.Machine.execLoop c t w s
  | .waitev c t w => Sys2Proof.Machine.execWaitev c t w s
  | .waitevResume c t => Sys2Proof.Machine.execWaitevResume c t s
  | .salu c t w => Sys2Proof.Machine.execSalu c t w s
  | .sli c t w => Sys2Proof.Machine.execSli c t w s
  | .scmp c t w => Sys2Proof.Machine.execScmp c t w s
  | .wbl c t w => Sys2Proof.Machine.execWbl c t w s
  | .wbgo c t w => Sys2Proof.Machine.execWbgo c t w s
  | .wbwait c t w => Sys2Proof.Machine.execWbwait c t w s
  | .wbwaitResume c t => Sys2Proof.Machine.execWbwaitResume c t s
  | .wbnext c t w => Sys2Proof.Machine.execWbnext c t w s
  | .wbnextStart c wb => Sys2Proof.Machine.execWbnextStart c wb s
  | .caravan c t w => Sys2Proof.Machine.execCaravan c t w s
  | .relay c t w => Sys2Proof.Machine.execRelay c t w s
  | .mma c t w => Sys2Proof.Machine.execMma c t w s
  | .resload c t w => Sys2Proof.Machine.execResload c t w s
  | .preload c t w => Sys2Proof.Machine.execPreload c t w s
  | .drain c t w => Sys2Proof.Machine.execDrain c t w s
  | .swap c t w => Sys2Proof.Machine.execSwap c t w s
  | .aclr c t w => Sys2Proof.Machine.execAclr c t w s
  | .split c t w => Sys2Proof.Machine.execSplit c t w s
  | .reduce c t w => Sys2Proof.Machine.execReduce c t w s
  | .chainred c t w => Sys2Proof.Machine.execChainred c t w s
  | .merge c t w => Sys2Proof.Machine.execMerge c t w s
  | .vop c t w => Sys2Proof.Machine.execVop c t w s
  | .vcvt c t w => Sys2Proof.Machine.execVcvt c t w s
  | .vfn c t w => Sys2Proof.Machine.execVfn c t w s
  | .vred c t w => Sys2Proof.Machine.execVred c t w s
  | .vperm c t w => Sys2Proof.Machine.execVperm c t w s
  | .ldgrdStream c t w => Sys2Proof.Machine.execLdgrdStream c t w s
  | .ldgrdCopy c t w => Sys2Proof.Machine.execLdgrdCopy c t w s
  | .ldgwr c t w => Sys2Proof.Machine.execLdgwr c t w s
  | .berthLookup c t w => Sys2Proof.Machine.execBerthLookup c t w s
  | .berthTouch c t w => Sys2Proof.Machine.execBerthTouch c t w s
  | .tallyAdd c t w => Sys2Proof.Machine.execTallyAdd c t w s
  | .tallySet c t w => Sys2Proof.Machine.execTallySet c t w s
  | .tallyWait c t w => Sys2Proof.Machine.execTallyWait c t w s
  | .tallyArrive c t w => Sys2Proof.Machine.execTallyArrive c t w s
  | .tallyArm c t w => Sys2Proof.Machine.execTallyArm c t w s
  | .stamp c t w => Sys2Proof.Machine.execStamp c t w s
  | .stampPost c t => Sys2Proof.Machine.execStampPost c t s
  | .fault c t w => Sys2Proof.Machine.execFault c t w s
  | .status c t w => Sys2Proof.Machine.execStatus c t w s
  | .queueIssue c t q => Sys2Proof.Machine.execQueueIssue c t q s
  | .arrayCold c h => Sys2Proof.Machine.execArrayCold c h s
  | .slotComplete c n => Sys2Proof.Machine.execSlotComplete c n s
  | .slotReadVerdict c n => Sys2Proof.Machine.execSlotReadVerdict c n s
  | .statusWordDelivery c n => Sys2Proof.Machine.execStatusWordDelivery c n s
  | .ringBufferFull c ring => Sys2Proof.Machine.execRingBufferFull c ring s
  | .ringBufferRelease c ring => Sys2Proof.Machine.execRingBufferRelease c ring s
  | .waybillTileRequest c wb => Sys2Proof.Machine.execWaybillTileRequest c wb s
  | .porterLineFill c n => Sys2Proof.Machine.execPorterLineFill c n s
  | .outboundWriteAck c n => Sys2Proof.Machine.execOutboundWriteAck c n s
  | .caravanFlitArrival c ring tile count last data => Sys2Proof.Machine.execCaravanFlitArrival c ring tile count last data s
  | .streamCreditArrival c kind id ring => Sys2Proof.Machine.execStreamCreditArrival c kind id ring s
  | .handoverFlitArrival c ring last data => Sys2Proof.Machine.execHandoverFlitArrival c ring last data s
  | .chainFlitArrival c id data => Sys2Proof.Machine.execChainFlitArrival c id data s
  | .caravanStall c ring => Sys2Proof.Machine.execCaravanStall c ring s
  | .relayStall c ring found die => Sys2Proof.Machine.execRelayStall c ring found die s
  | .chainStall c id => Sys2Proof.Machine.execChainStall c id s
  | .itineraryAbort itin => Sys2Proof.Machine.execItineraryAbort itin s
  | .abortLinksSettled itin => Sys2Proof.Machine.execAbortLinksSettled itin s
  | .refreshSlot c bank => Sys2Proof.Machine.execRefreshSlot c bank s
  | .scrubSlot c bank => Sys2Proof.Machine.execScrubSlot c bank s
  | .softRepairRetire c bank => Sys2Proof.Machine.execSoftRepairRetire c bank s
  | .ledgerCommit n => Sys2Proof.Machine.execLedgerCommit n s
  | .ledgerCacheFill n status => Sys2Proof.Machine.execLedgerCacheFill n status s
  | .movePhaseWrite n => Sys2Proof.Machine.execMovePhaseWrite n s
  | .moveCopyDone n readOk writeOk => Sys2Proof.Machine.execMoveCopyDone n readOk writeOk s
  | .moveVerify n hubCrc => Sys2Proof.Machine.execMoveVerify n hubCrc s
  | .moveSwitchWrite n => Sys2Proof.Machine.execMoveSwitchWrite n s
  | .moveRelease n => Sys2Proof.Machine.execMoveRelease n s
  | .ledgerRecovery => Sys2Proof.Machine.execLedgerRecovery s
  | .ledgerLost => Sys2Proof.Machine.execLedgerLost s
  | .demotionStart => Sys2Proof.Machine.execDemotionStart s
  | .cellarRewrite handle => Sys2Proof.Machine.execCellarRewrite handle s
  | .epochTick => Sys2Proof.Machine.execEpochTick s
  | .ageSweep => Sys2Proof.Machine.execAgeSweep s
  | .meshPacketDelivery p => Sys2Proof.Machine.execMeshPacketDelivery p s
  | .nackReceipt p => Sys2Proof.Machine.execNackReceipt p s
  | .meshUe => Sys2Proof.Machine.execMeshUe s
  | .tallyReqArrival n => Sys2Proof.Machine.execTallyReqArrival n s
  | .tallyWakeSend unit => Sys2Proof.Machine.execTallyWakeSend unit s
  | .tallyWakeDelivery n => Sys2Proof.Machine.execTallyWakeDelivery n s
  | .tallyReply n => Sys2Proof.Machine.execTallyReply n s
  | .tallyCancel n => Sys2Proof.Machine.execTallyCancel n s
  | .tallyOp e => Sys2Proof.Machine.execTallyOp e s
  | .emuTally e => Sys2Proof.Machine.execEmuTally e s
  | .phGive src bits => Sys2Proof.Machine.execPhGive src bits s
  | .phRelease bits => Sys2Proof.Machine.execPhRelease bits s
  | .responsePost n => Sys2Proof.Machine.execResponsePost n s
  | .eventPost => Sys2Proof.Machine.execEventPost s
  | .hello n => Sys2Proof.Machine.execHello n s
  | .openContext n => Sys2Proof.Machine.execOpenContext n s
  | .closeContext n => Sys2Proof.Machine.execCloseContext n s
  | .formParty n => Sys2Proof.Machine.execFormParty n s
  | .disbandParty n => Sys2Proof.Machine.execDisbandParty n s
  | .loadProgram n => Sys2Proof.Machine.execLoadProgram n s
  | .saveContext n => Sys2Proof.Machine.execSaveContext n s
  | .restoreContext n => Sys2Proof.Machine.execRestoreContext n s
  | .submit n => Sys2Proof.Machine.execSubmit n s
  | .itineraryAdmit itin party => Sys2Proof.Machine.execItineraryAdmit itin party s
  | .itineraryComplete itin => Sys2Proof.Machine.execItineraryComplete itin s
  | .timeLimit itin => Sys2Proof.Machine.execTimeLimit itin s
  | .abort n => Sys2Proof.Machine.execAbort n s
  | .queryProgress n => Sys2Proof.Machine.execQueryProgress n s
  | .berthAlloc n => Sys2Proof.Machine.execBerthAlloc n s
  | .berthFree n => Sys2Proof.Machine.execBerthFree n s
  | .berthMove n => Sys2Proof.Machine.execBerthMove n s
  | .ledgerQuery n => Sys2Proof.Machine.execLedgerQuery n s
  | .setPhaseOp n => Sys2Proof.Machine.execSetPhaseOp n s
  | .powerStatus n => Sys2Proof.Machine.execPowerStatus n s
  | .tallyMsgAdd n => Sys2Proof.Machine.execTallyMsgAdd n s
  | .tallyMsgSet n => Sys2Proof.Machine.execTallyMsgSet n s
  | .tallyMsgRead n => Sys2Proof.Machine.execTallyMsgRead n s
  | .calRead n => Sys2Proof.Machine.execCalRead n s
  | .calWrite n => Sys2Proof.Machine.execCalWrite n s
  | .fwStage n => Sys2Proof.Machine.execFwStage n s
  | .fwCommit n => Sys2Proof.Machine.execFwCommit n s
  | .attest n => Sys2Proof.Machine.execAttest n s
  | .fuseProgramSecver n => Sys2Proof.Machine.execFuseProgramSecver n s
  | .fuseProgramOwnerKey n => Sys2Proof.Machine.execFuseProgramOwnerKey n s
  | .fuseProgramDowngrade n => Sys2Proof.Machine.execFuseProgramDowngrade n s
  | .fuseProgramDebugDisable n => Sys2Proof.Machine.execFuseProgramDebugDisable n s
  | .fuseProgramSoftRepair n => Sys2Proof.Machine.execFuseProgramSoftRepair n s
  | .diagEcho n => Sys2Proof.Machine.execDiagEcho n s
  | .diagCounters n => Sys2Proof.Machine.execDiagCounters n s
  | .diagLog n => Sys2Proof.Machine.execDiagLog n s
  | .peerMessage n m => Sys2Proof.Machine.execPeerMessage n m s
  | .hubReadRequest r => Sys2Proof.Machine.execHubReadRequest r s
  | .hubWriteRequest r data => Sys2Proof.Machine.execHubWriteRequest r data s
  | .rspData gate tag status data => Sys2Proof.Machine.execRspData gate tag status data s
  | .rspAck gate tag status => Sys2Proof.Machine.execRspAck gate tag status s
  | .pkgMemState kept => Sys2Proof.Machine.execPkgMemState kept s
  | .dieFenced die => Sys2Proof.Machine.execDieFenced die s
  | .dieRejoined die => Sys2Proof.Machine.execDieRejoined die s
  | .cellarBins port first bins => Sys2Proof.Machine.execCellarBins port first bins s
  | .budget budget bseq => Sys2Proof.Machine.execBudget budget bseq s
  | .credit m f => Sys2Proof.Machine.execCredit m f s
  | .flitAccept m f => Sys2Proof.Machine.execFlitAccept m f s
  | .replayTimeout m => Sys2Proof.Machine.execReplayTimeout m s
  | .creditFlitTimer m => Sys2Proof.Machine.execCreditFlitTimer m s
  | .quickRetrain m => Sys2Proof.Machine.execQuickRetrain m s
  | .quickRetrainDone m r => Sys2Proof.Machine.execQuickRetrainDone m r s
  | .gateTakeDown m => Sys2Proof.Machine.execGateTakeDown m s
  | .gateDrainDone gate complete => Sys2Proof.Machine.execGateDrainDone gate complete s
  | .rxClockLoss => Sys2Proof.Machine.execRxClockLoss s
  | .linkLost => Sys2Proof.Machine.execLinkLost s
  | .bootGrant arg data => Sys2Proof.Machine.execBootGrant arg data s
  | .offer mask => Sys2Proof.Machine.execOffer mask s
  | .digestLo d => Sys2Proof.Machine.execDigestLo d s
  | .digestHi d => Sys2Proof.Machine.execDigestHi d s
  | .agree fast mask => Sys2Proof.Machine.execAgree fast mask s
  | .linkUp mask sizes => Sys2Proof.Machine.execLinkUp mask sizes s
  | .newmask mask => Sys2Proof.Machine.execNewmask mask s
  | .drainPoint m seq => Sys2Proof.Machine.execDrainPoint m seq s
  | .ack cmd => Sys2Proof.Machine.execAck cmd s
  | .sidebandResendTimeout cmd => Sys2Proof.Machine.execSidebandResendTimeout cmd s
  | .trainFastDone ok => Sys2Proof.Machine.execTrainFastDone ok s
  | .trainFullDone ok spares => Sys2Proof.Machine.execTrainFullDone ok spares s
  | .readinessDone failing unrepairable => Sys2Proof.Machine.execReadinessDone failing unrepairable s
  | .windowBoundary w => Sys2Proof.Machine.execWindowBoundary w s
  | .sixteenWindowMark => Sys2Proof.Machine.execSixteenWindowMark s
  | .safeBudgetTimeout => Sys2Proof.Machine.execSafeBudgetTimeout s
  | .glideVoltageStep => Sys2Proof.Machine.execGlideVoltageStep s
  | .glideSlewEnd => Sys2Proof.Machine.execGlideSlewEnd s
  | .vctlResponse frame => Sys2Proof.Machine.execVctlResponse frame s
  | .vctlTimeout domain => Sys2Proof.Machine.execVctlTimeout domain s
  | .vctlStatusPoll => Sys2Proof.Machine.execVctlStatusPoll s
  | .droopDetect domain => Sys2Proof.Machine.execDroopDetect domain s
  | .droopRecovery domain skipped => Sys2Proof.Machine.execDroopRecovery domain skipped s
  | .thermalTrip sensor => Sys2Proof.Machine.execThermalTrip sensor s
  | .thermalTripRelease => Sys2Proof.Machine.execThermalTripRelease s
  | .clockLoss => Sys2Proof.Machine.execClockLoss s
  | .clockRecovery => Sys2Proof.Machine.execClockRecovery s
  | .porstNAssert => Sys2Proof.Machine.execPorstNAssert s
  | .porstNRelease => Sys2Proof.Machine.execPorstNRelease s
  | .hubRstNAssert => Sys2Proof.Machine.execHubRstNAssert s
  | .hubRstNRelease => Sys2Proof.Machine.execHubRstNRelease s
  | .pllLock => Sys2Proof.Machine.execPllLock s
  | .fuseSenseEnd => Sys2Proof.Machine.execFuseSenseEnd s
  | .calibrationLodgeTestEnd failing => Sys2Proof.Machine.execCalibrationLodgeTestEnd failing s
  | .firmwareStart => Sys2Proof.Machine.execFirmwareStart s
  | .broadcastBlockSend => Sys2Proof.Machine.execBroadcastBlockSend s
  | .broadcastBlockReceive c block unicast writeOk => Sys2Proof.Machine.execBroadcastBlockReceive c block unicast writeOk s
  | .broadcastRoundCheck => Sys2Proof.Machine.execBroadcastRoundCheck s
  | .selfTestReport r => Sys2Proof.Machine.execSelfTestReport r s
  | .selfTestTimeout => Sys2Proof.Machine.execSelfTestTimeout s
  | .ready micros => Sys2Proof.Machine.execReady micros s
  | .vddEfuseGood => Sys2Proof.Machine.execVddEfuseGood s
  | .vddEfuseLoss => Sys2Proof.Machine.execVddEfuseLoss s
  | .vddAonLow => Sys2Proof.Machine.execVddAonLow s
  | .vddLodgeDip => Sys2Proof.Machine.execVddLodgeDip s
  | .stewardHeartbeat => Sys2Proof.Machine.execStewardHeartbeat s
  | .stewardHang => Sys2Proof.Machine.execStewardHang s
  | .dieFatal cause => Sys2Proof.Machine.execDieFatal cause s
  | .partyReset party core cause => Sys2Proof.Machine.execPartyReset party core cause s
  | .partyResetEnd party => Sys2Proof.Machine.execPartyResetEnd party s
  | .stopTimeout c => Sys2Proof.Machine.execStopTimeout c s
  | .drainTimeout c => Sys2Proof.Machine.execDrainTimeout c s
  | .partyResetTimeout party => Sys2Proof.Machine.execPartyResetTimeout party s
  | .conservationCheck quiescent => Sys2Proof.Machine.execConservationCheck quiescent s
  | .dbgChal => Sys2Proof.Machine.execDbgChal s
  | .dbgResp r => Sys2Proof.Machine.execDbgResp r s
  | .debugSessionOpen => Sys2Proof.Machine.execDebugSessionOpen s
  | .debugSessionExpiry => Sys2Proof.Machine.execDebugSessionExpiry s
  | .dbgAccess write off data => Sys2Proof.Machine.execDbgAccess write off data s
  | .tstDbgHalt v => Sys2Proof.Machine.execTstDbgHalt v s
  | .tstDbgStep => Sys2Proof.Machine.execTstDbgStep s
  | .tapReset => Sys2Proof.Machine.execTapReset s
  | .idcode => Sys2Proof.Machine.execIdcode s
  | .samplePreload cells => Sys2Proof.Machine.execSamplePreload cells s
  | .extest => Sys2Proof.Machine.execExtest s
  | .stmEnter mult => Sys2Proof.Machine.execStmEnter mult s
  | .wrap => Sys2Proof.Machine.execWrap s
  | .scan => Sys2Proof.Machine.execScan s
  | .mbist => Sys2Proof.Machine.execMbist s
  | .tier => Sys2Proof.Machine.execTier s
  | .loopSelect v => Sys2Proof.Machine.execLoopSelect v s
  | .bypass => Sys2Proof.Machine.execBypass s
  | .tstLoopStart gate mods => Sys2Proof.Machine.execTstLoopStart gate mods s
  | .loopbackDone results => Sys2Proof.Machine.execLoopbackDone results s
  | .khFwinOpen n => Sys2Proof.Machine.execKhFwinOpen n s
  | .khFwinClose n => Sys2Proof.Machine.execKhFwinClose n s
  | .windowCloseComplete n => Sys2Proof.Machine.execWindowCloseComplete n s
  | .dieConsSnap => Sys2Proof.Machine.execDieConsSnap s
  | .pwrOpTargetWrite op => Sys2Proof.Machine.execPwrOpTargetWrite op s
  | .accCfgWrite c v => Sys2Proof.Machine.execAccCfgWrite c v s
  | .abftCfgWrite c h floor v => Sys2Proof.Machine.execAbftCfgWrite c h floor v s
  | .coreRingWrite c ring v => Sys2Proof.Machine.execCoreRingWrite c ring v s
  | .coreSrSeedWrite c t v => Sys2Proof.Machine.execCoreSrSeedWrite c t v s
  | .meshPortWrite c v => Sys2Proof.Machine.execMeshPortWrite c v s
  | .registerWrite agent off v => Sys2Proof.Machine.execRegisterWrite agent off v s
  | .vddAonGood => Sys2Proof.Machine.execVddAonGood s
  | .fuseWordProgrammed => Sys2Proof.Machine.execFuseWordProgrammed s
  | .rxClockEdgeReturn => Sys2Proof.Machine.execRxClockEdgeReturn s
  | .packageFatalSignal => Sys2Proof.Machine.execPackageFatalSignal s
  | .vectorInstructionDone c t => Sys2Proof.Machine.execVectorInstructionDone c t s
  | .lodgeCopyDone c t => Sys2Proof.Machine.execLodgeCopyDone c t s

end Sys2Proof.Machine
end

