-- ==== Sys2Proof/Safety.lean ====
section
/-! DEFINITION. What counts as a safe step, and the terms the statements use: when a word dispatches, what dispatch does before its unit
issues it, when a message of the Steward is taken. -/

namespace Sys2Proof

/-- A step that stops neither with a fault nor with a refusal. -/
def Goes (o : Host.Outcome Machine.State Machine.Fault Machine.Refusal) : Prop := ∃ t, o = .next t

/-- No fault: what every command of the block promises, since each fault the spec names is an effect on the die's state. -/
def NoFault (o : Host.Outcome Machine.State Machine.Fault Machine.Refusal) : Prop := ∀ f, o ≠ .fault f

namespace Machine

/-- The state with another die. -/
abbrev State.withDie (s : State) (d : Die) : State := { s with die := d }

/-- The thread of a core. -/
abbrev threadAt (d : Die) (c : CoreId) (t : Bool) : Thread := getThread (getCore d c) t

/-- A word at the thread's pc that dispatch can carry out now: the thread runs and waits for nothing, program memory holds this word
there with no uncorrectable error, its guard holds, and each register it names exists and is owed nothing (R131, R132, R134, R137). -/
def ready (d : Die) (c : CoreId) (t : Bool) (op : Nat) (w : BitVec 58) : Bool :=
  let x := getCore d c
  let th := getThread x t
  let regs := (regUses op (mkWord op w)).1 ++ (regUses op (mkWord op w)).2
  canDispatch th && decide (th.pc ≤ 4095) && !x.pmemBad.contains th.pc && decide (tabGet 0 x.pmem th.pc = mkWord op w) &&
    guardHolds th.preds (mkWord op w) && !regs.any (fun r => decide (48 ≤ r)) &&
    !regs.any (fun r => th.owed.any (fun o => o.1.toNat == r))

/-- The same word with a guard that does not hold. -/
def guardedOut (d : Die) (c : CoreId) (t : Bool) (op : Nat) (w : BitVec 58) : Bool :=
  let x := getCore d c
  let th := getThread x t
  canDispatch th && decide (th.pc ≤ 4095) && !x.pmemBad.contains th.pc && decide (tabGet 0 x.pmem th.pc = mkWord op w) &&
    !guardHolds th.preds (mkWord op w)

/-- What a dispatched word carries to its queue. -/
def wordEntry (d : Die) (c : CoreId) (t : Bool) (op : Nat) (w : BitVec 58) : QEntry :=
  let th := threadAt d c t
  ⟨th.pc, mkWord op w, th.regs, th.streamPtr.toNat, th.seqNo, th.readsOut⟩

/-- A register operand of a word as the thread holds it. -/
abbrev regNow (d : Die) (c : CoreId) (t : Bool) (i : Nat) : BitVec 64 := threadReg (threadAt d c t) i

/-- The second operand of SALU, SCMP and BRC: a register, or IMM16 sign-extended. -/
def secondNow (d : Die) (c : CoreId) (t : Bool) (imm : Bool) (reg v : Nat) : BitVec 64 :=
  if imm then BitVec.ofInt 64 (sext 16 v) else regNow d c t reg

/-- A word put behind others in its queue: the thread has gone on. -/
def behind (q : QueueId) (c : CoreId) (t : Bool) (prep : Thread → Thread) (d : Die) (e : QEntry) : Die :=
  modThread d c t (fun th => advance (prep { (putQueue th q (getQueue th q ++ [e])) with seqNo := th.seqNo + 1 }))

/-- A word dispatched to its unit's empty queue and taken by the unit in the same cycle: the thread has gone on. -/
def handed (q : QueueId) (c : CoreId) (t : Bool) (prep : Thread → Thread) (d : Die) (e : QEntry) : Die :=
  modThread (behind q c t prep d e) c t (fun th => putQueue th q [])

/-- The unit's queue holds nothing; it holds something and has room. -/
def queueFree (d : Die) (c : CoreId) (t : Bool) (q : QueueId) : Bool := (getQueue (threadAt d c t) q).isEmpty
def queueRoom (d : Die) (c : CoreId) (t : Bool) (q : QueueId) : Bool :=
  !(getQueue (threadAt d c t) q).isEmpty && decide ((getQueue (threadAt d c t) q).length < queueDepth q)

/-- A word dispatches now and its unit's queue holds nothing before it; the die as the unit then finds it. -/
def issuesNow (d : Die) (c : CoreId) (t : Bool) (q : QueueId) (op : Nat) (w : BitVec 58) : Bool := ready d c t op w && queueFree d c t q
def asTaken (d : Die) (c : CoreId) (t : Bool) (q : QueueId) (prep : Thread → Thread) (op : Nat) (w : BitVec 58) : Die :=
  handed q c t prep d (wordEntry d c t op w)

/-- What dispatch does to the stream pointer for a word that takes Lodge bytes (R154). -/
def lodgePrep (d : Die) (c : CoreId) (op : Nat) (w : BitVec 58) (th : Thread) : Thread :=
  { th with streamPtr := th.streamPtr + BitVec.ofNat 32 (lodgeTake (getCore d c).split (mkWord op w)) }

/-- The Lodge bytes a word takes lie in the slice, hold no uncorrectable error, and no earlier copy is in their way (R154, R155, R201). -/
def lodgeClear (d : Die) (c : CoreId) (t : Bool) (e : QEntry) : Prop :=
  let x := getCore d c
  let n := lodgeTake x.split e.word
  n = 0 ∨ (e.stream + n ≤ sliceSize ∧ lodgeHeld x t e e.stream n false = false ∧ ueIn d c e.stream n = none)

/-- Only core `c` differs between two dies, the cores apart from the named parts equal. -/
def OnlyCore (c : CoreId) (d u : Die) : Prop := u = { d with cores := u.cores } ∧ ∀ k, k ≠ c → getCore u k = getCore d k

/-- The same, and bytes of memory, free values drawn and Lodge counts may differ. -/
def OnlyCoreMem (c : CoreId) (d u : Die) : Prop :=
  u = { d with cores := u.cores, mem := u.mem, freeCtr := u.freeCtr, lodge := u.lodge, stew := u.stew, out := u.out } ∧
  ∀ k, k ≠ c → getCore u k = getCore d k

/-- Every byte outside [lo, lo + n) reads as before. -/
def ElseSame (m m' : List Host.Cell) (lo n : Nat) : Prop := ∀ a, a < lo ∨ lo + n ≤ a → memGet m' a = memGet m a

/-- Request `n` of the Steward carries `op`, its turn has come, the Ledger serves it when it needs one, and it passes the checks of R266, its
arguments among them; `m0` is the message as taken. -/
def asks (d : Die) (n op minLen : Nat) (bad : Msg → List (Nat × Bool)) (u : CtxUse) (args : Die → Msg → List Arg) (m0 : Msg) : Prop :=
  d.stew.requests[n]? = some m0 ∧ msgOp m0 = op ∧ stewardUp d = true ∧ inTurn d n m0 = true ∧
  (ledgerOp op = true → d.ledger.memState = 0 ∧ dirEn d = true) ∧ checkReq d (clip m0) minLen (bad (clip m0)) u = none ∧
  argsOk d (args d (clip m0)) = true

end Machine

end Sys2Proof
end

