-- ==== Sys2Proof/Certificates/Slice0/Obligations.lean ====
section
/-! DEFINITION. The statements for the provers, one group per family of commands and kind of state. `s.withDie d` is the state with another die
and the same queue; a statement that gives the next state as an equation says with it that nothing else changes. -/

open Sys2Proof Sys2Proof.Machine


/-! ### Words the sequencer carries out (R130 to R142, R146, R154, R157, R160) -/

/-- R132: an instruction executes when p[PRED] XOR NEG is 1, so that guard 0b0000 always and 0b1000 never executes. One whose guard is false is
dispatched as a NOP, whichever row it is: the thread goes to its next word and nothing else changes, whatever the word's other fields. An
opcode not in R138 raises ILLEGAL_OPCODE whatever the guard. -/
def Obligations.FalseGuardIsNop : Prop := ∀ (s : State) (c : CoreId) (t : Bool) (w : BitVec 58),
  let d := s.die
  let x := getCore d c
  let th := threadAt d c t
  let W := tabGet 0 x.pmem th.pc
  let fetched : Prop := canDispatch th = true ∧ th.pc ≤ 4095 ∧ x.pmemBad.contains th.pc = false
  let nops (op : Nat) (i : Instr) : Prop := i.wf = true → fetched → W = mkWord op w → guardHolds th.preds W = false →
    exec i s = .next (s.withDie (modThread d c t advance))
  (∀ (p : BitVec 8) (v : BitVec 64), guardHolds p v = ((decide (fld v 54 3 = 0) || p.getLsbD (fld v 54 3)) ^^ v.getLsbD 57)) ∧
  nops 0x00 (.nop c t w) ∧ nops 0x01 (.halt c t w) ∧ nops 0x02 (.br c t w) ∧ nops 0x03 (.brc c t w) ∧ nops 0x04 (.loop c t w) ∧
  nops 0x06 (.waitev c t w) ∧ nops 0x08 (.salu c t w) ∧ nops 0x09 (.sli c t w) ∧ nops 0x0A (.scmp c t w) ∧ nops 0x10 (.wbl c t w) ∧
  nops 0x11 (.wbgo c t w) ∧ nops 0x12 (.wbwait c t w) ∧ nops 0x13 (.wbnext c t w) ∧ nops 0x14 (.caravan c t w) ∧
  nops 0x15 (.relay c t w) ∧ nops 0x20 (.mma c t w) ∧ nops 0x21 (.resload c t w) ∧ nops 0x22 (.preload c t w) ∧
  nops 0x23 (.drain c t w) ∧ nops 0x24 (.swap c t w) ∧ nops 0x25 (.aclr c t w) ∧ nops 0x26 (.split c t w) ∧
  nops 0x28 (.reduce c t w) ∧ nops 0x29 (.chainred c t w) ∧ nops 0x2A (.merge c t w) ∧ nops 0x30 (.vop c t w) ∧
  nops 0x31 (.vcvt c t w) ∧ nops 0x32 (.vfn c t w) ∧ nops 0x33 (.vred c t w) ∧ nops 0x34 (.vperm c t w) ∧
  nops 0x38 (.ldgrdStream c t w) ∧ nops 0x38 (.ldgrdCopy c t w) ∧ nops 0x39 (.ldgwr c t w) ∧ nops 0x3A (.berthLookup c t w) ∧
  nops 0x3A (.berthTouch c t w) ∧ nops 0x3C (.tallyAdd c t w) ∧ nops 0x3C (.tallySet c t w) ∧ nops 0x3C (.tallyWait c t w) ∧
  nops 0x3C (.tallyArrive c t w) ∧ nops 0x3C (.tallyArm c t w) ∧ nops 0x3D (.stamp c t w) ∧ nops 0x3E (.fault c t w) ∧
  nops 0x3F (.status c t w) ∧
  (fetched → opcodeKnown (fld W 58 6) = false →
    ∃ u : Die, exec (.queueIssue c t .sequencer) s = .next (s.withDie u) ∧ (threadAt u c t).run = .faulted ∧ (threadAt u c t).pc = th.pc ∧
      (bitB x.fault 63 = false → fld (getCore u c).fault 40 8 = 0x01) ∧ u.mem = d.mem)

/-- R139, R140: NOP, BR, BRC and LOOP, with their loops: where the thread goes, and that nothing else changes. -/
def Obligations.BranchAndLoopWords : Prop := ∀ (s : State) (c : CoreId) (t : Bool) (w : BitVec 58),
  let th := threadAt s.die c t
  let dest (op : Nat) : Int := th.pc + sext 16 (fld (mkWord op w) 0 16)
  let jump (op : Nat) : State := s.withDie (modThread s.die c t (fun th =>
    { th with pc := (dest op).toNat, loops := popLoops (dest op) th.loops, dbgStep := false }))
  let on : State := s.withDie (modThread s.die c t advance)
  let brcTaken : Bool := condHolds (fld (mkWord 0x03 w) 51 3) (regNow s.die c t (fld (mkWord 0x03 w) 45 6))
    (secondNow s.die c t (bitB (mkWord 0x03 w) 38) (fld (mkWord 0x03 w) 39 6) (fld (mkWord 0x03 w) 16 16))
  let len := fld (mkWord 0x04 w) 35 12
  let count := if bitB (mkWord 0x04 w) 53 then fld (mkWord 0x04 w) 16 16 else (regNow s.die c t (fld (mkWord 0x04 w) 47 6)).toNat
  (ready s.die c t 0x00 w = true → exec (.nop c t w) s = .next on) ∧
  (ready s.die c t 0x02 w = true → 0 ≤ dest 0x02 → dest 0x02 ≤ 4095 → exec (.br c t w) s = .next (jump 0x02)) ∧
  (ready s.die c t 0x03 w = true → brcTaken = true → 0 ≤ dest 0x03 → dest 0x03 ≤ 4095 → exec (.brc c t w) s = .next (jump 0x03)) ∧
  (ready s.die c t 0x03 w = true → brcTaken = false → exec (.brc c t w) s = .next on) ∧
  (ready s.die c t 0x04 w = true → 0 < len → th.pc + len ≤ 4095 → 0 < count → th.loops.length < 4 →
    (∀ f ∈ th.loops.head?, th.pc + len ≤ f.stop) →
    exec (.loop c t w) s = .next (s.withDie (modThread s.die c t (fun th =>
      advance { th with loops := ⟨th.pc + 1, th.pc + len, count⟩ :: th.loops })))) ∧
  (ready s.die c t 0x04 w = true → 0 < len → th.pc + len ≤ 4095 → count = 0 → (∀ f ∈ th.loops.head?, th.pc ≠ f.stop) →
    exec (.loop c t w) s = .next (s.withDie (modThread s.die c t (fun th => { th with pc := th.pc + len + 1, dbgStep := false }))))

/-- R139: SALU, SLI and SCMP: the register or predicate each writes, and that nothing else changes. -/
def Obligations.ScalarWords : Prop :=
  (∀ (s : State) (c : CoreId) (t : Bool) (w : BitVec 58),
  let W := mkWord 0x08 w
  let a := regNow s.die c t (fld W 38 6)
  let b := secondNow s.die c t (bitB W 31) (fld W 32 6) (fld W 0 16)
  let op := fld W 50 4
  ready s.die c t 0x08 w = true → op ≤ 13 →
  ∃ v : BitVec 64,
    exec (.salu c t w) s = .next (s.withDie (modThread s.die c t (fun th => advance (setThreadReg th (fld W 44 6) v)))) ∧
    (op = 0 → v = a + b) ∧ (op = 1 → v = a - b) ∧ (op = 2 → v = a &&& b) ∧ (op = 3 → v = a ||| b) ∧ (op = 4 → v = a ^^^ b) ∧
    (op = 5 → v = a <<< (b.toNat % 64)) ∧ (op = 6 → v = a >>> (b.toNat % 64)) ∧ (op = 7 → v = a.sshiftRight (b.toNat % 64)) ∧
    (op = 8 → v = a * b) ∧
    (op = 9 → v.toInt = min a.toInt b.toInt) ∧ (op = 10 → v.toInt = max a.toInt b.toInt) ∧
    (op = 11 → v.toNat = min a.toNat b.toNat) ∧ (op = 12 → v.toNat = max a.toNat b.toNat) ∧ (op = 13 → v = a)) ∧
  (∀ (s : State) (c : CoreId) (t : Bool) (w : BitVec 58),
  let L := mkWord 0x09 w
  let M := mkWord 0x0A w
  let a := regNow s.die c t (fld M 42 6)
  let b := secondNow s.die c t (bitB M 35) (fld M 36 6) (fld M 0 16)
  (ready s.die c t 0x09 w = true → bitB L 43 = false →
    exec (.sli c t w) s = .next (s.withDie (modThread s.die c t (fun th =>
      advance (setThreadReg th (fld L 44 6) (BitVec.ofInt 64 (sext 32 (fld L 0 32)))))))) ∧
  (ready s.die c t 0x09 w = true → bitB L 43 = true → fld L 44 6 < 32 →
    exec (.sli c t w) s = .next (s.withDie (modThread s.die c t (fun th =>
      advance (setThreadReg th (fld L 44 6) (putFld (threadReg th (fld L 44 6)) 32 32 (fld L 0 32))))))) ∧
  (ready s.die c t 0x0A w = true → fld M 33 2 ≤ 2 →
    ∃ r : Bool, exec (.scmp c t w) s = .next (s.withDie (modThread s.die c t (fun th => advance { th with
        preds := writePred th.preds (fld M 48 3)
          (if fld M 33 2 = 0 then r else if fld M 33 2 = 1 then readPred th.preds (fld M 48 3) && r
           else readPred th.preds (fld M 48 3) || r) }))) ∧
      (fld M 51 3 = 0 → (r = true ↔ a = b)) ∧ (fld M 51 3 = 1 → (r = true ↔ a ≠ b)) ∧
      (fld M 51 3 = 2 → (r = true ↔ a.toInt < b.toInt)) ∧ (fld M 51 3 = 3 → (r = true ↔ b.toInt ≤ a.toInt)) ∧
      (fld M 51 3 = 4 → (r = true ↔ a.toNat < b.toNat)) ∧ (fld M 51 3 = 5 → (r = true ↔ b.toNat ≤ a.toNat)) ∧
      (6 ≤ fld M 51 3 → r = condHolds (fld M 51 3) a b)) ∧
  (∀ (p : BitVec 8) (v : Bool), readPred (writePred p 0 v) 0 = true))

/-- R141, R142, R146: HALT ends a thread that owes nothing; a WAITEV whose condition holds goes on at once and one whose condition does
not waits; WAITEV_RESUME ends such a wait when it holds; SPLIT enters split mode on an idle array and leaves it once T1 has halted. -/
def Obligations.WaitsAndSplit : Prop := ∀ (s : State) (c : CoreId) (t : Bool) (w : BitVec 58),
  let x := getCore s.die c
  let V := mkWord 0x06 w
  let P := mkWord 0x26 w
  (ready s.die c t 0x01 w = true → haltReady x t = true →
    ∃ u, exec (.halt c t w) s = .next u ∧ (threadAt u.die c t).run = .halted ∧ (threadAt u.die c t).exitCode = w.extractLsb' 0 16 ∧
      (threadAt u.die c t).regs = (threadAt s.die c t).regs ∧ u.die.mem = s.die.mem ∧ u.pending = s.pending) ∧
  (ready s.die c t 0x06 w = true → waitevMet x t (bitB V 53) (V.extractLsb' 0 16) = true →
    exec (.waitev c t w) s = .next (s.withDie (setCore s.die c (resumeWaitev x t (V.extractLsb' 0 16))))) ∧
  (ready s.die c t 0x06 w = true → waitevMet x t (bitB V 53) (V.extractLsb' 0 16) = false →
    exec (.waitev c t w) s = .next (s.withDie (modThread s.die c t (fun th => { th with wait := .waitev (bitB V 53) (V.extractLsb' 0 16) })))) ∧
  (∀ all mask, (threadAt s.die c t).wait = .waitev all mask → waitevMet x t all mask = true →
    exec (.waitevResume c t) s = .next (s.withDie (setCore s.die c (resumeWaitev x t mask)))) ∧
  (ready s.die c false 0x26 w = true → x.split = false → bitB P 53 = false → halfBusy x .full = false →
    ∃ u, exec (.split c false w) s = .next u ∧ (getCore u.die c).split = true ∧ (getCore u.die c).lodgeHalf = bitB P 52 ∧
      (threadAt u.die c true).run = .running ∧ (threadAt u.die c true).pc = fld P 0 12 ∧
      (threadAt u.die c true).regs = (threadAt u.die c false).regs ∧ (threadAt u.die c true).preds = (threadAt s.die c false).preds ∧
      (threadAt u.die c true).loops = [] ∧ u.die.mem = s.die.mem) ∧
  (ready s.die c false 0x26 w = true → x.split = true → bitB P 53 = true → halfBusy x .full = false → x.t1.run = .halted →
    ∃ u, exec (.split c false w) s = .next u ∧ (getCore u.die c).split = false ∧ u.die.mem = s.die.mem)

/-- R154, R157, R160: LDGRD STREAM sets the stream pointer to an aligned offset; STATUS writes its RD with the source SEL names; FAULT
stops its thread and, when none is recorded, records USER_FAULT with its CODE and place in CORE_FAULT. -/
def Obligations.StreamStatusAndFaultWords : Prop := ∀ (s : State) (c : CoreId) (t : Bool) (w : BitVec 58),
  let x := getCore s.die c
  let G := mkWord 0x38 w
  let F := mkWord 0x3E w
  let S := mkWord 0x3F w
  let base := regNow s.die c t (fld G 44 6)
  (ldgrdForm false w = true → ready s.die c t 0x38 w = true → base.toNat % 64 = 0 →
    exec (.ldgrdStream c t w) s = .next (s.withDie (modThread s.die c t (fun th => advance { th with streamPtr := base.setWidth 32 })))) ∧
  (∀ v, ready s.die c t 0x3F w = true → statusSource s.die c t (fld S 32 12) = some v →
    exec (.status c t w) s = .next (s.withDie (modThread s.die c t (fun th => advance
      (if fld S 32 12 = 0x40 ∧ bitB S 31 = true then { (setThreadReg th (fld S 44 6) v) with vstat := 0 }
       else setThreadReg th (fld S 44 6) v))))) ∧
  (statusSource s.die c t 0x43 = some (BitVec.ofNat 64 (c.toNat + 512 * s.die.ident.dieNum.toNat))) ∧
  (statusSource s.die c t 0x40 = some (threadAt s.die c t).vstat) ∧
  (statusSource s.die c t 0x41 = some ((threadAt s.die c t).streamPtr.setWidth 64)) ∧
  (ready s.die c t 0x3E w = true →
    ∃ u, exec (.fault c t w) s = .next u ∧ (threadAt u.die c t).run = .faulted ∧ (threadAt u.die c t).regs = (threadAt s.die c t).regs ∧
      u.die.mem = s.die.mem ∧ u.pending = s.pending ∧
      (bitB x.fault 63 = false →
        bitB (getCore u.die c).fault 63 = true ∧ bitB (getCore u.die c).fault 62 = t ∧
        fld (getCore u.die c).fault 40 8 = 0x13 ∧ fld (getCore u.die c).fault 0 32 = fld F 0 32 ∧
        fld (getCore u.die c).fault 48 12 = (threadAt s.die c t).pc) ∧
      (bitB x.fault 63 = true → (getCore u.die c).fault = x.fault))

/-! ### Queues and the matrix array (R67 to R97, R103 to R108, R133, R134, R143 to R147, R154) -/

/-- R133, R134: a word whose queue holds others waits behind them, and one whose queue is full is held: nothing changes.

R133, R138, R160: QUEUE_ISSUE gives the head of a queue to its unit, which leaves everything as it is while a hold stands; at the
sequencer it rejects an unknown opcode with ILLEGAL_OPCODE. -/
def Obligations.QueuesIssueInOrder : Prop :=
  (∀ (s : State) (c : CoreId) (t : Bool) (w : BitVec 58),
  let waits (q : QueueId) (prep : Thread → Thread) (op : Nat) (i : Instr) : Prop :=
    (ready s.die c t op w = true → queueRoom s.die c t q = true →
      exec i s = .next (s.withDie (behind q c t prep s.die (wordEntry s.die c t op w)))) ∧
    (ready s.die c t op w = true → queueDepth q ≤ (getQueue (threadAt s.die c t) q).length → exec i s = .next s)
  let lodgeFits (op : Nat) : Prop :=
    (threadAt s.die c t).streamPtr.toNat + lodgeTake (getCore s.die c).split (mkWord op w) ≤ sliceSize
  waits .port id 0x10 (.wbl c t w) ∧ waits .port id 0x11 (.wbgo c t w) ∧ waits .port id 0x13 (.wbnext c t w) ∧
  waits .port id 0x14 (.caravan c t w) ∧ waits .port id 0x15 (.relay c t w) ∧
  (lodgeFits 0x20 → waits .feed (lodgePrep s.die c 0x20 w) 0x20 (.mma c t w)) ∧
  (lodgeFits 0x21 → waits .feed (lodgePrep s.die c 0x21 w) 0x21 (.resload c t w)) ∧
  waits .edge id 0x22 (.preload c t w) ∧
  (lodgeFits 0x23 → waits .edge (fun th => countRead (lodgePrep s.die c 0x23 w th)) 0x23 (.drain c t w)) ∧
  waits .feed id 0x24 (.swap c t w) ∧ waits .edge id 0x25 (.aclr c t w) ∧ waits .edge countRead 0x28 (.reduce c t w) ∧
  waits .edge (chainPrep w) 0x29 (.chainred c t w) ∧ waits .vec id 0x2A (.merge c t w) ∧ waits .vec id 0x30 (.vop c t w) ∧
  waits .vec id 0x31 (.vcvt c t w) ∧ waits .vec id 0x32 (.vfn c t w) ∧
  waits .vec (owe (fld (mkWord 0x33 w) 44 6) .vred) 0x33 (.vred c t w) ∧ waits .vec id 0x34 (.vperm c t w) ∧
  (ldgrdForm true w = true → waits .ldg id 0x38 (.ldgrdCopy c t w)) ∧ waits .ldg id 0x39 (.ldgwr c t w) ∧
  (berthForm 1 w = true → waits .msg id 0x3A (.berthTouch c t w)) ∧
  waits .msg (fun th => { th with stampsHeld := th.stampsHeld + 1 }) 0x3D (.stamp c t w)) ∧
  (∀ (s : State) (c : CoreId) (t : Bool) (q : QueueId) (e : QEntry) (rest : List QEntry),
  let th := threadAt s.die c t
  let d := modThread s.die c t (fun th => putQueue th q rest)
  let W := tabGet 0 (getCore s.die c).pmem th.pc
  (getQueue th q = e :: rest → th.run ≠ .faulted → th.run ≠ .stopped → issueAny d c t e = none → exec (.queueIssue c t q) s = .next s) ∧
  (∀ d', getQueue th q = e :: rest → th.run ≠ .faulted → th.run ≠ .stopped → issueAny d c t e = some d' →
    exec (.queueIssue c t q) s = .next (s.withDie d')) ∧
  (getQueue th q = [] → q ≠ .sequencer → exec (.queueIssue c t q) s = .next s) ∧
  (opcodeKnown (fld W 58 6) = false → ready s.die c t (fld W 58 6) (W.setWidth 58) = true →
    ∃ u : Die, exec (.queueIssue c t .sequencer) s = .next (s.withDie u) ∧ (threadAt u c t).run = .faulted ∧
      (threadAt u c t).pc = th.pc ∧ (bitB (getCore s.die c).fault 63 = false → fld (getCore u c).fault 40 8 = 0x01) ∧ u.mem = s.die.mem))

/-- R71, R77, R88, R143: an MMA that nothing rejects or holds accumulates into its register, takes its ring buffers, and is in flight from
its start to T_last, once the holds that end at a known cycle are over; latches, resident words, partial registers, memory and every other core keep what they hold. -/
def Obligations.MultiplyAccumulate : Prop := ∀ (s : State) (c : CoreId) (t : Bool) (w : BitVec 58) (fa fb : Format) (hs : HalfSel),
  let W := mkWord 0x20 w
  let e := wordEntry s.die c t 0x20 w
  let d0 := asTaken s.die c t .feed (lodgePrep s.die c 0x20 w) 0x20 w
  let x0 := getCore d0 c
  let d := waitUntil d0 (mmaFrom d0.aclk x0 hs e)
  let x := getCore d c
  let acc : BitVec 2 := BitVec.ofNat 2 (fld W 34 2)
  let q := slotReg x hs (fld W 50 4)
  let m : MmaRun := ⟨acc, bitB W 33, packing (clsWider fa.cls fb.cls) (acc = accACC16), passesOf fa.cls fb.cls, fld W 0 16, fld W 22 3⟩
  let lodge := fld W 29 4 == 8 || fld W 25 4 == 8
  issuesNow s.die c t .feed 0x20 w = true → throttled d0 c t = false → mmaReject x t W = none → badRing x t (mmaRings W) = none →
  formatOf (fld W 41 5) = some fa → formatOf (fld W 36 5) = some fb → halfField (fld W 46 2) = some hs →
  earlierNames x0 (getThread x0 t).edge e (fld W 50 4) = false → ringsReady x (mmaRings W) = true → lodgeClear d c t e →
  ∃ (u : Die) (o : ArrOp), exec (.mma c t w) s = .next (s.withDie u) ∧
    o.kind = .mma ∧ o.thread = t ∧ o.half = hs ∧ o.reg = BitVec.ofNat 4 q ∧ d.aclk ≤ o.start ∧
    o.accept = o.start + stepStride (acc = accACC16) (fld W 29 4 == 8) (fld W 25 4 == 8) (hs == .full) * fld W 0 16 ∧
    o.tLast = mmaTLast o.start (stepStride (acc = accACC16) (fld W 29 4 == 8) (fld W 25 4 == 8) (hs == .full)) (fld W 0 16)
      (if lodge then 9 else 0) (repairSkew x) (hs == .full) ∧
    o.due = (if abftOn x hs then o.tLast + 2 else o.tLast) ∧
    (getCore u c).ops = x.ops ++ [o] ∧
    (getCore u c).acc = (mmaPlane x q hs m (mmaFeeds d c e hs fa fb m) (abftOn x hs)).acc ∧
    (getCore u c).tag0 = (putTag x hs q (8 + acc.toNat)).tag0 ∧ (getCore u c).tag1 = (putTag x hs q (8 + acc.toNat)).tag1 ∧
    (getCore u c).latch = x.latch ∧ (getCore u c).res0 = x.res0 ∧ (getCore u c).res1 = x.res1 ∧ (getCore u c).partials = x.partials ∧
    (getCore u c).accCfg = x.accCfg ∧ (threadAt u c t).regs = (threadAt d c t).regs ∧
    u.mem = s.die.mem ∧ u.pkg = s.die.pkg ∧ u.tally = s.die.tally ∧ ∀ k, k ≠ c → getCore u k = getCore d k

/-- R67 to R69, R92, R144: RESLOAD loads one side's latches and the resident words, PRELOAD clears its register and loads it from its
ring; neither touches memory or another core. -/
def Obligations.ResidentAndBiasLoads : Prop := ∀ (s : State) (c : CoreId) (t : Bool) (w : BitVec 58) (f : Format) (hs : HalfSel),
  (let W := mkWord 0x21 w
   let e := wordEntry s.die c t 0x21 w
   let d0 := asTaken s.die c t .feed (lodgePrep s.die c 0x21 w) 0x21 w
   let d := waitUntil d0 (resloadFrom d0.aclk (getCore d0 c) hs (fld W 42 4))
   let x := getCore d c
   let src := fld W 42 4
   let rings := if src < 8 then [src] else []
   issuesNow s.die c t .feed 0x21 w = true → throttled d0 c t = false → resloadReject x t W = none → badRing x t rings = none →
   formatOf (fld W 46 5) = some f → halfField (fld W 51 2) = some hs → ringsReady x rings = true → lodgeClear d c t e →
   ∃ (u : Die) (o : ArrOp), exec (.resload c t w) s = .next (s.withDie u) ∧ (getCore u c).ops = x.ops ++ [o] ∧ o.kind = .resload ∧
     o.accept = o.start + 32 ∧
     o.tLast = o.start + 66 + (if src = 8 then 9 else 0) + (if bitB W 53 then 0 else repairSkew x) ∧
     (getCore u c).latch = (resloadLatches x hs (bitB W 53) f (fld W 34 8) (srcReader d c e src (getRing x src).head.toNat)).latch ∧
     (getCore u c).scales = (resloadLatches x hs (bitB W 53) f (fld W 34 8) (srcReader d c e src (getRing x src).head.toNat)).scales ∧
     (getCore u c).res0 = (if hs = .h1 then x.res0 else resWord (bitB W 53) (fld W 46 5) (fld W 34 8)) ∧
     (getCore u c).res1 = (if hs = .h0 then x.res1 else resWord (bitB W 53) (fld W 46 5) (fld W 34 8)) ∧
     (getCore u c).acc = x.acc ∧ (getCore u c).tsw = x.tsw ∧ (threadAt u c t).regs = (threadAt d c t).regs ∧
     u.mem = s.die.mem ∧ ∀ k, k ≠ c → getCore u k = getCore d k) ∧
  (let W := mkWord 0x22 w
   let e := wordEntry s.die c t 0x22 w
   let d0 := asTaken s.die c t .edge id 0x22 w
   let x0 := getCore d0 c
   let d := waitUntil d0 (preloadFrom d0.aclk x0 hs e)
   let x := getCore d c
   let ring := fld W 36 4
   let q := slotReg x hs (fld W 50 4)
   let mode : BitVec 2 := BitVec.ofNat 2 (fld W 46 2)
   issuesNow s.die c t .edge 0x22 w = true → throttled d0 c t = false → preloadReject x t W = none → badRing x t [ring] = none →
   halfField (fld W 48 2) = some hs → formatOf (fld W 41 5) = some f →
   earlierNames x0 (getThread x0 t).feed e (fld W 50 4) = false →
   anyMma (opsOn x0 hs (slotReg x0 hs (fld W 50 4)) e.seq) = false → ringsReady x [ring] = true →
   ∃ (u : Die) (o : ArrOp), exec (.preload c t w) s = .next (s.withDie u) ∧ (getCore u c).ops = x.ops ++ [o] ∧ o.kind = .preload ∧ o.start = d.aclk ∧
     o.tLast = o.start + 3 + preloadE hs W ∧ o.due = o.start + 4 + preloadE hs W ∧
     (getCore u c).acc = (preloadPlane (clearReg x hs q) q hs mode (bitB W 35) (abftOn x hs) (preloadSrc d c e hs f)).acc ∧
     (getCore u c).latch = x.latch ∧ (threadAt u c t).regs = (threadAt d c t).regs ∧
     u.mem = s.die.mem ∧ ∀ k, k ≠ c → getCore u k = getCore d k)

/-- R75, R94 to R97, R145: a DRAIN to core store writes its rows at their pitch and the scale plane after the last, and is in flight, to
clear its register when its last row has passed if CLR is set; every byte outside the area of those rows reads as before. One to a ring puts
the tile into the tail buffer, or sends it when the ring is a hand-over proxy. -/
def Obligations.DrainWritesTile : Prop := ∀ (s : State) (c : CoreId) (t : Bool) (w : BitVec 58) (f : Format) (hs : HalfSel),
  let W := mkWord 0x23 w
  let e := wordEntry s.die c t 0x23 w
  let d := asTaken s.die c t .edge (fun th => countRead (lodgePrep s.die c 0x23 w th)) 0x23 w
  let x := getCore d c
  let dst := fld W 36 4
  let src := fld W 14 4
  let rings := if fld W 24 2 ≠ 0 ∧ src < 8 then [src] else []
  let q := slotReg x hs (fld W 50 4)
  let tile := drainTile d c t e hs f
  let base := (opnd e (fld W 30 6)).toNat
  issuesNow s.die c t .edge 0x23 w = true → drainReject x t e = none → halfField (fld W 48 2) = some hs → formatOf (fld W 43 5) = some f →
  readHeld x t hs q (fld W 50 4) e = false → (dst < 8 → produceReady x dst = true) → ringsReady x rings = true → lodgeClear d c t e →
  ∃ (u : Die) (o : ArrOp), exec (.drain c t w) s = .next (s.withDie u) ∧ (getCore u c).ops = x.ops ++ [o] ∧ o.kind = .drain ∧
    o.half = hs ∧ o.reg = BitVec.ofNat 4 q ∧ o.tLast = o.start + 31 ∧ o.due = o.start + 37 ∧ o.clr = bitB W 40 ∧ o.copied = false ∧
    (getCore u c).acc = x.acc ∧ (getCore u c).latch = x.latch ∧
    (threadAt u c t).regs = (threadAt s.die c t).regs ∧ (threadAt u c t).readsOut = (threadAt s.die c t).readsOut + 1 ∧
    (∀ k, k ≠ c → getCore u k = getCore s.die k) ∧
    (dst = 9 → u.mem = (storeRows s.die c base (drainPitch f hs W) tile).mem ∧
      ElseSame s.die.mem u.mem (storeBase c + base) (tile.rows.length * drainPitch f hs W + (tile.rows.map List.length).sum + tile.plane.length)) ∧
    (dst < 8 → isProxy (getRing x dst) = true → u.mem = s.die.mem) ∧
    (dst < 8 → isProxy (getRing x dst) = false →
      let b := bufBase (getRing x dst) (getRing x dst).tail.toNat
      u.mem = memWrite s.die.mem (storeBase c + b) (tileBytes tile) ∧
      bufState (getRing (getCore u c) dst) (getRing x dst).tail.toNat = 1)

/-- R83, R91, R93: SWAP inverts the SWP bits of its slot and holds the next array instruction for a cycle, ACLR clears its register,
each once the rows that pass are through; nothing else of the die changes.

R105 to R107: a CHAINRED of a register takes the local partial; the first member of a chain sends it at once, as far as credits go,
and any other waits for the incoming flits.

R75, R78, R83, R117 to R119, R126: the events that end array operations. An MMA's completion frees its register and lets held
configuration writes take effect; a verdict without a failed check is only noted; a delivery copies the status word, counts the clean
read and ends it; an idle half becomes cold. -/
def Obligations.ArrayEnds : Prop :=
  (∀ (s : State) (c : CoreId) (t : Bool) (w : BitVec 58) (hs : HalfSel),
  (let W := mkWord 0x24 w
   let e := wordEntry s.die c t 0x24 w
   let d0 := asTaken s.die c t .feed id 0x24 w
   let x0 := getCore d0 c
   let pair := (opsOn x0 hs (fld W 50 4) e.seq ++ opsOn x0 hs (fld W 50 4 + 8) e.seq).filter (fun o => o.kind != .chain)
   let d := waitUntil d0 (maxL [d0.aclk, acceptAt x0 hs true, rowsEnd pair])
   let x := getCore d c
   issuesNow s.die c t .feed 0x24 w = true → halfField (fld W 48 2) = some hs → halfLegal x t hs false = true → shadowOn x = true →
   fld W 50 4 < 8 → earlierNames x0 (getThread x0 t).edge e (fld W 50 4) = false →
   ∃ v : BitVec 32, exec (.swap c t w) s = .next (s.withDie (setCore d c { x with
       accCfg := v, swap0 := if hs = .h1 then x.swap0 else (d.aclk + 1, x.lastL0),
       swap1 := if hs = .h0 then x.swap1 else (d.aclk + 1, x.lastL1) })) ∧
     ∀ i, v.getLsbD i = (x.accCfg.getLsbD i ^^ (decide (hs ≠ .h1 ∧ i = 8 + fld W 50 4) || decide (hs ≠ .h0 ∧ i = 16 + fld W 50 4)))) ∧
  (let W := mkWord 0x25 w
   let e := wordEntry s.die c t 0x25 w
   let d0 := asTaken s.die c t .edge id 0x25 w
   let x0 := getCore d0 c
   let on := opsOn x0 hs (slotReg x0 hs (fld W 50 4)) e.seq
   let d := waitUntil d0 (maxL [d0.aclk, rowsEnd on])
   let x := getCore d c
   issuesNow s.die c t .edge 0x25 w = true → halfField (fld W 48 2) = some hs → halfLegal x t hs false = true →
   earlierNames x0 (getThread x0 t).feed e (fld W 50 4) = false → anyMma on = false →
   exec (.aclr c t w) s = .next (s.withDie (setCore d c (clearReg x hs (slotReg x hs (fld W 50 4))))))) ∧
  (∀ (s : State) (c : CoreId) (t : Bool) (w : BitVec 58) (m : Member),
  let W := mkWord 0x29 w
  let e := wordEntry s.die c t 0x29 w
  let d0 := asTaken s.die c t .edge (chainPrep w) 0x29 w
  let p := fld W 35 2
  let d := waitUntil d0 (max d0.aclk (partFrom (getCore d0 c) p))
  let x := getCore d c
  let recs := (List.range (8 * m.flits)).map (fun r =>
    recEncode (fld W 39 3) (chainInt x W) (partOrIdentity x (fld W 39 3) (chainInt x W) p r))
  issuesNow s.die c t .edge 0x29 w = true → fld W 37 2 = 0 → chainReject x t e = none → chainMember x t (fld W 42 12) = some m →
  m.pending = none → partBusy (getCore d0 c) p = false →
  (m.pos ≠ 0 → m.incoming.length < m.flits → exec (.chainred c t w) s = .next (s.withDie
    (setCore d c (replaceMember x m { m with
      local_ := recs, pending := some e, thread := t, ints := chainInt x W, bare := getUtag x p == 0 })))) ∧
  (m.pos = 0 → 1 < m.count →
    ∃ u : Die, exec (.chainred c t w) s = .next (s.withDie u) ∧ u.mem = s.die.mem ∧ (getCore u c).partials = x.partials ∧
      (∀ k, k ≠ c → getCore u k = getCore d k) ∧
      (m.down.isSome = true → u.out.length = s.die.out.length + min m.credits (m.outgoing ++ toFlits (recs.length + 1) recs).length))) ∧
  (∀ (s : State) (c : CoreId) (n : Nat) (h : Bool) (o : ArrOp),
  let x := getCore s.die c
  let then_ (k : Nat) : Core := getCore (waitUntil s.die k) c
  (x.ops[n]? = some o → isRead o = false →
    exec (.slotComplete c n) s = .next (s.withDie (setCore (waitUntil s.die o.due) c
      (settleIdle { then_ o.due with ops := (then_ o.due).ops.eraseIdx n })))) ∧
  (∀ p, x.ops[n]? = some o → isRead o = true → o.verdictMade = false → o.verdict.failed = false → (then_ (verdictAt o)).ops[n]? = some p →
    exec (.slotReadVerdict c n) s = .next (s.withDie (setCore (waitUntil s.die (verdictAt o)) c
      { then_ (verdictAt o) with ops := (then_ (verdictAt o)).ops.set n { p with verdictMade := true } }))) ∧
  (x.ops[n]? = some o → isRead o = true → o.verdictMade = false → o.verdict.failed = true →
    ∃ u : Die, exec (.slotReadVerdict c n) s = .next (s.withDie u) ∧ (threadAt u c o.thread).run = .faulted ∧
      (bitB x.fault 63 = false → fld (getCore u c).fault 40 8 = 0x10) ∧ u.mem = s.die.mem) ∧
  (∀ p, x.ops[n]? = some o → isRead o = true → o.verdictMade = true → chainWaits x o = false → (then_ o.due).ops[n]? = some p →
    ∃ u : Die, exec (.statusWordDelivery c n) s = .next (s.withDie u) ∧ u.aclk = max s.die.aclk o.due ∧ u.mem = s.die.mem ∧
      (bitB p.copy 30 = true → (getCore u c).ops = (then_ o.due).ops.eraseIdx n ∧
        (p.half ≠ .h1 → (getCore u c).tswLast0 = p.copy) ∧ (p.half ≠ .h0 → (getCore u c).tswLast1 = p.copy) ∧
        (threadAt u c p.thread).readsIn = (threadAt s.die c p.thread).readsIn) ∧
      (bitB p.copy 30 = false → x.stampWait = [] →
        (getCore u c).ops = (then_ o.due).ops.eraseIdx n ∧ (threadAt u c p.thread).readsIn = (threadAt s.die c p.thread).readsIn + 1)) ∧
  (x.ops.all (fun o => !(feedOp o && overlaps o.half (if h then .h1 else .h0))) = true →
    ∃ u : Die, exec (.arrayCold c h) s = .next (s.withDie u) ∧ u.aclk = max s.die.aclk (lastAct x h + 257) ∧ u.mem = s.die.mem ∧
      (if h then (getCore u c).cold1 else (getCore u c).cold0) = true ∧ (x.split = false → (getCore u c).cold0 = (getCore u c).cold1) ∧
      (getCore u c).latch = x.latch ∧ (getCore u c).partials = x.partials))

/-- R98 to R104: REDUCE writes the records of its lines into its partial register and sets its kind tag, keeps the slot, and stores
nothing unless it is an LSE reduction; MERGE writes the merged triples into its third register and the merged o rows to core store. -/
def Obligations.ReductionsWritePartials : Prop := ∀ (s : State) (c : CoreId) (t : Bool) (w : BitVec 58) (hs : HalfSel),
  (let W := mkWord 0x28 w
   let e := wordEntry s.die c t 0x28 w
   let d0 := asTaken s.die c t .edge countRead 0x28 w
   let x0 := getCore d0 c
   let kind := fld W 45 3
   let u2 := fld W 36 2
   let reads := (if bitB W 35 then [u2] else []) ++ (if kind = kLse ∧ bitB W 28 = true then [fld W 26 2] else [])
   let d := waitUntil d0 (maxL (d0.aclk :: reads.map (partFrom x0)))
   let x := getCore d c
   let recs := (reduceCombined d x e hs).map (fun r => recEncode kind (reduceInt x e hs) r.1)
   issuesNow s.die c t .edge 0x28 w = true → halfField (fld W 48 2) = some hs →
   readHeld x0 t hs (slotReg x0 hs (fld W 50 4)) (fld W 50 4) e = false → reads.any (partBusy x0) = false →
   reduceReject x t e = none → (kind = kLse → produceReady x (fld W 23 3) = true) →
   ∃ (u : Die) (o : ArrOp), exec (.reduce c t w) s = .next (s.withDie u) ∧ (getCore u c).ops = x.ops ++ [o] ∧ o.kind = .reduce ∧
     o.part = some (BitVec.ofNat 2 u2) ∧ o.tLast = o.start + 31 ∧ o.due = o.start + 41 ∧
     (getCore u c).partials = (putPart x u2 recs (utagOf kind (reduceInt x e hs))).partials ∧
     (getCore u c).utags = (putPart x u2 recs (utagOf kind (reduceInt x e hs))).utags ∧
     (getCore u c).acc = x.acc ∧ (threadAt u c t).regs = (threadAt d c t).regs ∧
     (kind ≠ kLse → u.mem = s.die.mem) ∧ ∀ k, k ≠ c → getCore u k = getCore d k) ∧
  (let W := mkWord 0x2A w
   let e := wordEntry s.die c t 0x2A w
   let d0 := asTaken s.die c t .vec id 0x2A w
   let x0 := getCore d0 c
   let ps := [fld W 52 2, fld W 50 2]
   let d := waitUntil d0 (maxL (d0.aclk :: ps.map (partFrom x0)))
   let x := getCore d c
   let recs := (mergeRows d c e).map (fun r => recEncode kLse false r.1)
   let out := (mergeOs d c e).flatMap (fun o => leBytes 4 (fp32Bits o.1).toNat)
   let od := (opnd e (fld W 30 6)).toNat
   issuesNow s.die c t .vec 0x2A w = true → throttled d0 c t = false → ps.any (partBusy x0) = false →
   earlierReduce x0 t e.seq ps = false → mergeReject x t e = none →
   ∃ u : Die, exec (.merge c t w) s = .next (s.withDie u) ∧
     (getCore u c).partials = (putPart x (fld W 48 2) recs (utagOf kLse false)).partials ∧
     (getCore u c).utags = (putPart x (fld W 48 2) recs (utagOf kLse false)).utags ∧ (getCore u c).acc = x.acc ∧
     (threadAt u c t).regs = (threadAt d c t).regs ∧ u.mem = memWrite s.die.mem (storeBase c + od) out ∧
     ElseSame s.die.mem u.mem (storeBase c + od) (128 * 32 * (fld W 27 3 + 1)) ∧ ∀ k, k ≠ c → getCore u k = getCore d k)

/-! ### The vector unit, Lodge copies, berth lookups and stamps (R148 to R159) -/

/-- R148 to R152: a vector word writes its elements at RD, little-endian, and posts its work; every other byte of memory reads as before.
A VRED writes no memory and owes RD its value; VECTOR_INSTRUCTION_DONE ends the oldest work and writes VRED's RD.

R149: VOP's ADD, SUB and MUL of two finite FP32 values are the exact result rounded to nearest even, overflow saturating under SAT 0
and INF under SAT 1; NEG changes the sign; an FN past the table's is no operation. -/
def Obligations.VectorWords : Prop :=
  (∀ (s : State) (c : CoreId) (t : Bool) (w : BitVec 58),
  let runs (op : Nat) (i : Instr) (ok : Die → QEntry → Prop) (bytes : Die → QEntry → List Byte) : Prop :=
    let e := wordEntry s.die c t op w
    let d := asTaken s.die c t .vec id op w
    issuesNow s.die c t .vec op w = true → throttled d c t = false → vecN e ≠ 0 → ok d e →
    ∃ u : Die, exec i s = .next (s.withDie u) ∧ u.mem = memWrite s.die.mem (storeBase c + vecRD e) (bytes d e) ∧
      ElseSame s.die.mem u.mem (storeBase c + vecRD e) (bytes d e).length ∧
      (threadAt u c t).regs = (threadAt s.die c t).regs ∧ (threadAt u c t).preds = (threadAt s.die c t).preds ∧
      (threadAt u c t).vecWork.length = (threadAt s.die c t).vecWork.length + 1 ∧ (getCore u c).acc = (getCore s.die c).acc ∧
      u.pkg = s.die.pkg ∧ ∀ k, k ≠ c → getCore u k = getCore s.die k
  let V := mkWord 0x30 w
  let F := mkWord 0x32 w
  let C := mkWord 0x31 w
  let P := mkWord 0x34 w
  runs 0x30 (.vop c t w)
    (fun _ e => fld V 50 4 ≤ 10 ∧ fld V 21 5 = 0 ∧
      vecCheck ((vecRA e, 4 * vecN e) :: (if vopBinary (fld V 50 4) then [(vecRB e, 4 * vecN e)] else [])) (some (vecRD e, 4 * vecN e)) = none)
    (fun d e => (vopResults d c e).flatMap (fun r => leBytes 4 r.1)) ∧
  runs 0x32 (.vfn c t w)
    (fun _ e => fld F 50 4 ≤ 5 ∧ fld F 21 5 = 0 ∧ vecCheck [(vecRA e, 4 * vecN e)] (some (vecRD e, 4 * vecN e)) = none)
    (fun d e => (vfnResults d c e).flatMap (fun r => leBytes 4 r.1)) ∧
  (∀ f g, runs 0x31 (.vcvt c t w)
    (fun _ e => fld C 50 4 = 0 ∧ formatOf (fld C 21 5) = some f ∧ formatOf (fld C 16 5) = some g ∧
      ((f.mx || g.mx) = true → vecN e % 32 = 0) ∧ vecCheck [(vecRA e, fmtBytes f (vecN e))] (some (vecRD e, fmtBytes g (vecN e))) = none)
    (fun d e => tileBytes (vcvtTile d c t e f g))) ∧
  (∀ f, runs 0x34 (.vperm c t w)
    (fun _ e => fld P 50 4 ≤ 2 ∧ formatOf (fld P 21 5) = some f ∧ (fld P 50 4 = 0 → 16 ≤ f.width ∧ vecN e % 1024 = 0) ∧
      vecCheck ((vecRA e, planeBytes f.width (vecN e)) :: (if fld P 50 4 = 2 then [(vecRB e, 4 * vecN e)] else []))
        (some (vecRD e, planeBytes f.width (vpermCount e))) = none)
    (fun d e => packCodes f.width ((List.range (vpermCount e)).map (vpermElem d c e f)))) ∧
  (let e := wordEntry s.die c t 0x33 w
   let R := mkWord 0x33 w
   let d := asTaken s.die c t .vec (owe (fld R 44 6) .vred) 0x33 w
   issuesNow s.die c t .vec 0x33 w = true → throttled d c t = false → fld R 50 4 ≤ 3 → vecN e ≠ 0 →
   vecCheck [(vecRA e, 4 * vecN e)] none = none →
   ∃ (u : Die) (k : Work), exec (.vred c t w) s = .next (s.withDie u) ∧ u.mem = s.die.mem ∧
     (threadAt u c t).regs = (threadAt s.die c t).regs ∧
     (threadAt u c t).owed = (threadAt s.die c t).owed ++ [(BitVec.ofNat 6 (fld R 44 6), .vred)] ∧
     (threadAt u c t).vecWork = (threadAt s.die c t).vecWork ++ [k] ∧ k.due = k.last + 10 ∧
     k.rd = some (BitVec.ofNat 6 (fld R 44 6), (vredRun (fld R 50 4) (bitB R 14) ((List.range (vecN e)).map (fp32At d c (vecRA e)))).1)) ∧
  (∀ k rest, (threadAt s.die c t).vecWork = k :: rest →
    exec (.vectorInstructionDone c t) s = .next (s.withDie (modThread (waitUntil s.die k.due) c t (fun th =>
      match k.rd with
      | some (r, v) => payReg r .vred v { th with vecWork := rest }
      | none => { th with vecWork := rest }))))) ∧
  (∀ (sat n n' : Bool) (m m' : Nat) (e e' : Int) (x y : XVal),
  let a : XVal := .fin n m e
  let b : XVal := .fin n' m' e'
  let sum := dyAdd (xDy a) (xDy b)
  let diff := dyAdd (xDy a) (xDy (xNeg b))
  (sum.m ≠ 0 → (vopElem 0 sat a b x y).map (·.1) = some (convFloat fmtFP32 (xOfDy sum) .rne sat).code) ∧
  (diff.m ≠ 0 → (vopElem 1 sat a b x y).map (·.1) = some (convFloat fmtFP32 (xOfDy diff) .rne sat).code) ∧
  ((vopElem 2 sat a b x y).map (·.1) = some (convFloat fmtFP32 (.fin (n != n') (m * m') (e + e')) .rne sat).code) ∧
  ((vopElem 9 sat a b x y).map (·.1) = some (convFloat fmtFP32 (.fin (!n) m e) .rne sat).code) ∧
  (∀ fn, 10 < fn → vopElem fn sat a b x y = none))

/-- R154, R155, R159: LDGRD COPY moves COUNT bytes from the core's slice to its store, LDGWR from store to slice, and each stays in flight
until LODGE_COPY_DONE; all other memory reads as before.

R39, R156, R214: a LOOKUP the unit's caches answer owes RD the entry as the unit sees it, or TIER NONE and STATE FREE for a stale
handle, 8 ACLK and 6 for each hop later (`TimePasses` pays it); a TOUCH marks the entry with the current epoch. One the caches miss waits for a fill.

R157, R158: a STAMP whose earlier reads are clean and whose bytes have left takes effect at issue: in an itinerary of this die that runs
it sets the tile's bit and counts it once; STAMP_POST gives the head of the MSG queue the same chance. -/
def Obligations.CopiesBerthsAndStamps : Prop :=
  (∀ (s : State) (c : CoreId) (t : Bool) (w : BitVec 58),
  (let W := mkWord 0x38 w
   let e := wordEntry s.die c t 0x38 w
   let d := asTaken s.die c t .ldg id 0x38 w
   let a := (opnd e (fld W 44 6)).toNat
   let b := (opnd e (fld W 38 6)).toNat
   let n := (opnd e (fld W 32 6)).toNat
   ldgrdForm true w = true → issuesNow s.die c t .ldg 0x38 w = true → n ≠ 0 → copyFault a b n = none →
   lodgeHeld (getCore d c) t e a n false = false → ueIn s.die c a n = none →
   ∃ u : Die, exec (.ldgrdCopy c t w) s = .next (s.withDie u) ∧
     (∀ i, i < n → memGet u.mem (storeBase c + b + i) = memGet s.die.mem (sliceBase c + a + i)) ∧
     ElseSame s.die.mem u.mem (storeBase c + b) n ∧ (threadAt u c t).regs = (threadAt s.die c t).regs ∧
     (threadAt u c t).ldgWork.length = (threadAt s.die c t).ldgWork.length + 1) ∧
  (let W := mkWord 0x39 w
   let e := wordEntry s.die c t 0x39 w
   let d := asTaken s.die c t .ldg id 0x39 w
   let a := (opnd e (fld W 44 6)).toNat
   let b := (opnd e (fld W 38 6)).toNat
   let n := (opnd e (fld W 32 6)).toNat
   issuesNow s.die c t .ldg 0x39 w = true → n ≠ 0 → copyFault b a n = none → lodgeHeld (getCore d c) t e b n true = false →
   ∃ u : Die, exec (.ldgwr c t w) s = .next (s.withDie u) ∧
     (∀ i, i < n → memGet u.mem (sliceBase c + b + i) = memGet s.die.mem (storeBase c + a + i)) ∧
     ElseSame s.die.mem u.mem (sliceBase c + b) n ∧ (threadAt u c t).regs = (threadAt s.die c t).regs ∧
     (threadAt u c t).ldgWork.length = (threadAt s.die c t).ldgWork.length + 1) ∧
  (∀ k rest, (threadAt s.die c t).ldgWork = k :: rest →
    exec (.lodgeCopyDone c t) s = .next (s.withDie (modThread (waitUntil s.die k.due) c t (fun th => { th with ldgWork := rest }))))) ∧
  (∀ (s : State) (c : CoreId) (t : Bool) (w : BitVec 58),
  let W := mkWord 0x3A w
  let e := wordEntry s.die c t 0x3A w
  let h := handleOf e
  let q := quarterOf c
  (let rd := fld W 38 6
   let d := asTaken s.die c t .msg (owe (w.toNat / 2 ^ 38 % 64) .berth) 0x3A w
   let a := threadEntry d c t h
   berthForm 0 w = true → issuesNow s.die c t .msg 0x3A w = true →
   (unitHas d q h a = true →
     ∃ u : Die, exec (.berthLookup c t w) s = .next (s.withDie u) ∧
       (threadAt u c t).regs = (threadAt s.die c t).regs ∧
       (threadAt u c t).owed = (threadAt s.die c t).owed ++ [(BitVec.ofNat 6 rd, .berth)] ∧
       (threadAt u c t).answers = (threadAt s.die c t).answers ++ [(s.die.aclk + 8 + 6 * unitHops q c, BitVec.ofNat 6 rd, match a with
         | some a => lookupWord s.die c (entryNow s.die a (freeVal s.die 0))
         | none => lookupNone)] ∧
       tabGet 0 u.ledger.hits q.toNat = satInc (tabGet 0 s.die.ledger.hits q.toNat) ∧ u.mem = s.die.mem ∧ u.pkg = s.die.pkg) ∧
   (unitHas d q h a = false →
     ∃ u : Die, exec (.berthLookup c t w) s = .next (s.withDie u) ∧ (threadAt u c t).regs = (threadAt s.die c t).regs ∧
       u.ledger.waiting.length = s.die.ledger.waiting.length + 1 ∧
       tabGet 0 u.ledger.misses q.toNat = satInc (tabGet 0 s.die.ledger.misses q.toNat) ∧ u.mem = s.die.mem ∧ u.pkg = s.die.pkg)) ∧
  (let d := asTaken s.die c t .msg id 0x3A w
   let a := threadEntry d c t h
   berthForm 1 w = true → issuesNow s.die c t .msg 0x3A w = true → unitHas d q h a = true →
   exec (.berthTouch c t w) s = .next (s.withDie (match a with | some a => touchEntry d q a | none => d)))) ∧
  (∀ (s : State) (c : CoreId) (t : Bool) (w : BitVec 58) (i : Itin),
  let W := mkWord 0x3D w
  let e := wordEntry s.die c t 0x3D w
  let d := asTaken s.die c t .msg (fun th => { th with stampsHeld := th.stampsHeld + 1 }) 0x3D w
  let tile := if bitB W 53 then (opnd e (fld W 44 6)).toNat else fld W 0 32
  let th := threadAt s.die c t
  (issuesNow s.die c t .msg 0x3D w = true → th.readsOut ≤ th.readsIn → unsentBefore (getCore d c) t e.seq = false → th.itin = some i.id →
    findItin s.die i.id = some i → i.state = .running → homeDie i.id = s.die.ident.dieNum → tile < i.tiles.toNat →
    exec (.stamp c t w) s = .next (s.withDie (modItin (modThread d c t (fun th => { th with stampsHeld := th.stampsHeld - 1 })) i.id (fun i =>
      if tabGet 0 i.stamps tile = 1 then i else { i with stamps := tabSet 0 i.stamps tile 1, stamped := i.stamped + 1 })))) ∧
  (∀ f rest, th.msg = f :: rest → fld f.word 58 6 = 0x3D → th.readsIn < f.mark → exec (.stampPost c t) s = .next s) ∧
  (∀ f rest, th.msg = f :: rest → fld f.word 58 6 = 0x3D → f.mark ≤ th.readsIn →
    let d1 := modThread s.die c t (fun th => { th with msg := rest })
    let k := if bitB f.word 53 then (opnd f (fld f.word 44 6)).toNat else fld f.word 0 32
    unsentBefore (getCore d1 c) t f.seq = false → th.itin = some i.id → findItin s.die i.id = some i → i.state = .running →
    homeDie i.id = s.die.ident.dieNum → k < i.tiles.toNat →
    exec (.stampPost c t) s = .next (s.withDie (modItin (modThread d1 c t (fun th => { th with stampsHeld := th.stampsHeld - 1 })) i.id (fun i =>
      if tabGet 0 i.stamps k = 1 then i else { i with stamps := tabSet 0 i.stamps k 1, stamped := i.stamped + 1 })))) ∧
  (∀ f rest, th.msg = f :: rest → fld f.word 58 6 = 0x3D → f.mark ≤ th.readsIn →
    unsentBefore (getCore (modThread s.die c t (fun th => { th with msg := rest })) c) t f.seq = false → th.itin = none →
    exec (.stampPost c t) s = .next (s.withDie (modThread (modThread s.die c t (fun th => { th with msg := rest })) c t (fun th =>
      { th with stampsHeld := th.stampsHeld - 1 })))))

/-! ### Rings, waybills, caravans, relays, chains (R161 to R184) -/

/-- R153, R167, R170, R173: WBL loads a waybill register, 64 bytes of core store; WBGO starts one; WBNEXT arms one; WBWAIT goes on at once
when its level is met and waits when it is not. While the ring's head is not
FULL an outbound waybill takes no tile. -/
def Obligations.WaybillWords : Prop := ∀ (s : State) (c : CoreId) (t : Bool) (w : BitVec 58),
  (let W := mkWord 0x10 w
   let e := wordEntry s.die c t 0x10 w
   let d := asTaken s.die c t .port id 0x10 w
   let n := fld W 50 3
   let o := (opnd e (fld W 44 6)).toNat
   issuesNow s.die c t .port 0x10 w = true → inThreadSet (getCore d c) t n = true → operandFault o 64 = none →
   wbBusy (getWb (getCore d c) n) = false →
   exec (.wbl c t w) s = .next (s.withDie (setCore d c (putWb (getCore d c) n { Waybill.reset with
     bits := wbLoad (BitVec.ofNat 512 (memLE s.die.mem (storeBase c + o) 64)), state := 1, thread := t })))) ∧
  (let W := mkWord 0x11 w
   let e := wordEntry s.die c t 0x11 w
   let d := asTaken s.die c t .port id 0x11 w
   let x := getCore d c
   let n := fld W 50 3
   let b := getWb x n
   issuesNow s.die c t .port 0x11 w = true → inThreadSet x t n = true → wbSt b = 1 → wbCaravan b = false → wbNext b = false →
   ringFed x (wbRing b) n = false → startReject x t n true = none →
   let going (o : Origin) : Die := setCore d c (putWb x n { b with state := 3, origin := o, thread := t, pc := e.pc, first := d.aclk + 6 })
   exec (.wbgo c t w) s = .next (s.withDie (match wbKind b with
     | 0 => pumpOut 4 (going (.package (wbFar b))) c (wbRing b)
     | 1 => unitLookup (going .none) c t e.pc (BitVec.ofNat 48 (wbFar b)) (.waybillLookup (BitVec.ofNat 3 n))
        (fun e a => resolveBerth e c n (BitVec.ofNat 48 (wbFar b)) a)
     | 2 => pumpOut 4 (going (.die (c.toNat * sliceSize + wbFar b))) c (wbRing b)
     | _ => going .own))) ∧
  (∀ k d r, headFull (getRing (getCore d c) r) = false → pumpOut k d c r = d) ∧
  (let W := mkWord 0x13 w
   let e := wordEntry s.die c t 0x13 w
   let d := asTaken s.die c t .port id 0x13 w
   let x := getCore d c
   let n := fld W 50 3
   let p := fld W 47 3
   issuesNow s.die c t .port 0x13 w = true → inThreadSet x t n = true → inThreadSet x t p = true → wbSt (getWb x n) = 1 →
   (wbCaravan (getWb x n) = true → wbNext (getWb x n) = true) → 1 ≤ wbSt (getWb x p) → wbSt (getWb x p) ≤ 4 → wbRing (getWb x p) = wbRing (getWb x n) →
   exec (.wbnext c t w) s = .next (s.withDie (setCore d c (putWb x n { getWb x n with
     state := 2, pair := BitVec.ofNat 3 p, thread := t, pc := e.pc })))) ∧
  (let W := mkWord 0x12 w
   let x := getCore s.die c
   let n := fld W 50 3
   ready s.die c t 0x12 w = true → inThreadSet x t n = true →
   exec (.wbwait c t w) s = .next (s.withDie (if wbLevelMet x n (bitB W 49) then modThread s.die c t advance
     else modThread s.die c t (fun th => { th with wait := .wbwait (BitVec.ofNat 3 n) (bitB W 49) })))) ∧
  (∀ wb level, (threadAt s.die c t).wait = .wbwait wb level → wbLevelMet (getCore s.die c) wb.toNat level = true →
    exec (.wbwaitResume c t) s = .next (s.withDie (modThread s.die c t (fun th => advance { th with wait := .none }))))

/-- R171 to R173: an armed waybill whose pair has fetched its last tile runs. An inbound waybill's next tile starts the tail buffer: from
the own slice its runs are copied at once, from elsewhere its lines are asked for and a line's bytes come with PORTER_LINE_FILL.

R163 to R165, R174: the last byte of a tile makes its buffer FULL and counts the tile to the waybill that brought it; a consumer that
has read it makes it EMPTY and returns a credit upstream; an acknowledged outbound line write has put its bytes at their destination, and no
others.

R108, R180, R184: a stall count past the limit faults the thread with its code and the place it names, at the cycle in which the count
passes; RELAY_STALL names the core to which the waits lead, off this die as the command says. -/
def Obligations.InboundTilesTurnRings : Prop :=
  (∀ (s : State) (c : CoreId) (wb : BitVec 3) (n : Nat) (l : LineReq),
  let x := getCore s.die c
  let b := getWb x wb.toNat
  let r := getRing x (wbRing b)
  let own : Bool := match b.origin with | .die a => a / sliceSize == c.toNat && decide (a < 0x80000000) | _ => false
  let off (run : Int × Nat × Nat) : Nat := ((wbBase b : Int) + run.1).toNat % sliceSize
  let runs := tileRuns b b.issued
  let goes : Prop := wbSt b = 3 ∧ wbOut b = false ∧ b.origin ≠ .none ∧ b.origin ≠ .own ∧ b.issued < wbTiles b ∧
    bufState r r.tail.toNat = 0 ∧ caravanOn x (wbRing b) = none ∧ runs.filterMap (runFault b) = []
  (wbSt b = 2 → (wbSt (getWb x b.pair.toNat) = 4 ∨ wbSt (getWb x b.pair.toNat) = 5) → wbKind b = 0 → caravanOn x (wbRing b) = none →
    startReject x b.thread wb.toNat true = none → headFull r = false →
    exec (.wbnextStart c wb) s = .next (s.withDie (setCore s.die c (putWb x wb.toNat
      { b with state := 3, origin := .package (wbFar b), first := s.die.aclk + 6 })))) ∧
  (goes → own = false → 512 ≤ x.lines.length → exec (.waybillTileRequest c wb) s = .next (s.withDie (waitUntil s.die b.first))) ∧
  (goes → own = false → x.lines.length < 512 →
    ∃ u : Die, exec (.waybillTileRequest c wb) s = .next (s.withDie u) ∧ u.mem = s.die.mem ∧
      (getWb (getCore u c) wb.toNat).issued = b.issued + 1 ∧ bufState (getRing (getCore u c) (wbRing b)) r.tail.toNat = 1 ∧
      (getRing (getCore u c) (wbRing b)).tail = r.tail + 1) ∧
  (goes → own = true → (runs.filterMap (fun run => ueIn s.die c (off run) run.2.1)) = [] →
    ∃ u : Die, exec (.waybillTileRequest c wb) s = .next (s.withDie u) ∧ (getWb (getCore u c) wb.toNat).issued = b.issued + 1 ∧
      u.mem = (runs.foldl (fun e run => putStore e c (bufBase r r.tail.toNat + run.2.2)
        (memRead s.die.mem (sliceBase c + off run) run.2.1)) s.die).mem) ∧
  (x.lines[n]? = some l → l.wb = wb → l.onDie = false → (∃ v, l.rsp = some (0, v)) → (wbSt b = 3 ∨ wbSt b = 4) →
    caravanOn x (wbRing b) = none → x.queued = [] →
    ∃ u : Die, exec (.porterLineFill c n) s = .next (s.withDie u) ∧ (getCore u c).lines = x.lines.eraseIdx n ∧
      (∀ v, l.rsp = some (0, v) → u.mem = memWrite s.die.mem (storeBase c + l.dest) (leBytes l.len (v.toNat / 2 ^ (8 * l.lo)))) ∧
      ElseSame s.die.mem u.mem (storeBase c + l.dest) l.len ∧ u.pkg = s.die.pkg)) ∧
  (∀ (s : State) (c : CoreId) (ring : BitVec 3) (n : Nat) (l : LineWrite),
  let x := getCore s.die c
  let r := getRing x ring.toNat
  (∀ b, oldestWhole r = some b → 8 ≤ (getInfo r b).wb → outWaybill x ring.toNat = none → caravanOn x ring.toNat = none →
    exec (.ringBufferFull c ring) s = .next (s.withDie (modCore (waitUntil s.die (getInfo r b).due) c (fun y =>
      putRing y ring.toNat (putBuf r b 2))))) ∧
  (∀ b, oldestWhole r = some b → outWaybill x ring.toNat = none → caravanOn x ring.toNat = none →
    let w := getWb x (getInfo r b).wb
    (getInfo r b).wb < 8 → (wbSt w = 3 ∨ wbSt w = 4) → wbStamp w = false →
    ∃ u : Die, exec (.ringBufferFull c ring) s = .next (s.withDie u) ∧ bufState (getRing (getCore u c) ring.toNat) b = 2 ∧ u.mem = s.die.mem ∧
      (getWb (getCore u c) (getInfo r b).wb).doneTiles = w.doneTiles + 1 ∧
      ((w.doneTiles + 1).toNat = wbTiles w → wbSt w = 4 → wbSt (getWb (getCore u c) (getInfo r b).wb) = 5)) ∧
  (∀ b, oldest r 3 = some b → ringCons r ≠ 3 → mustForward x r ring.toNat b = false →
    let d := modCore (waitUntil s.die (getInfo r b).due) c (fun y => putRing y ring.toNat (putInfo (putBuf r b 0) b BufInfo.reset))
    exec (.ringBufferRelease c ring) s = .next (s.withDie (match upstreamOf x ring.toNat with
      | some (k, id, die, core, rg) => send d (.streamCredit k id die core rg)
      | none => d))) ∧
  (x.writes[n]? = some l → (x.writes.take n).any (fun y => y.addr == l.addr && y.onDie == l.onDie) = false → l.onDie = false →
    l.rsp = some 0 → l.addr < 0xC000000000 → x.wqueued = [] → wbStamp (getWb x l.wb.toNat) = false →
    ∃ u : Die, exec (.outboundWriteAck c n) s = .next (s.withDie u) ∧ (getCore u c).writes = x.writes.eraseIdx n ∧ u.mem = s.die.mem ∧
      u.pkg = memWrite s.die.pkg (l.addr + l.lo) l.bytes ∧ ElseSame s.die.pkg u.pkg (l.addr + l.lo) l.bytes.length)) ∧
  (∀ (s : State) (c : CoreId) (ring : BitVec 3) (m : Member),
  let x := getCore s.die c
  let here := c.toNat + 512 * s.die.ident.dieNum.toNat
  let stalls (i : Instr) (t : Bool) (code detail count : Nat) : Prop :=
    ∃ u : Die, exec i s = .next (s.withDie u) ∧ (threadAt u c t).run = .faulted ∧ u.mem = s.die.mem ∧
      u.aclk = s.die.aclk + (stallLimit x t + 1 - count) ∧
      (bitB x.fault 63 = false → fld (getCore u c).fault 40 8 = code ∧ fld (getCore u c).fault 0 32 = detail)
  (x.members.find? (fun m => m.kind == .caravan && m.ring == ring && m.up.isSome) = some m → withholds x m = true →
    wanted s.die m true = true → stalls (.caravanStall c ring) (ringThread x ring.toNat) 0x11 here m.blocking) ∧
  (∀ found die, x.members.find? (fun m => m.kind == .relay && m.ring == ring && (m.up.isSome || m.down.isSome)) = some m →
    waitsOnLink x m = true →
    let p := followWaits s.die m.itin 4096 (s.die.ident.dieNum, c)
    stalls (.relayStall c ring found die) (ringThread x ring.toNat) 0x27
      (if p.1 = s.die.ident.dieNum then p.2.toNat + 512 * p.1.toNat else BitVec.toNat found + 512 * BitVec.toNat die)
      (getRing x ring.toNat).waitCount) ∧
  (∀ id, x.members.find? (fun m => m.kind == .chain && m.id == id && m.up.isSome) = some m → m.incoming ≠ [] →
    stalls (.chainStall c id) m.thread 0x12 here m.blocking))

/-- R177, R178, R182, R105, R107: joining a caravan or entering a relay stage grants four credits to each member before, and at the head of
a caravan its waybill starts; a credit that comes back raises the count its end holds.

R177, R178, R182, R183, R105, R242: a flit its port delivers is written at its place in the filling buffer and counted by its member; a
hand-over flit likewise, the last of a tile only once its producer's read is judged; a chain flit joins the incoming partial. Bytes elsewhere stay. -/
def Obligations.LinksAndFlits : Prop :=
  (∀ (s : State) (c : CoreId) (t : Bool) (w : BitVec 58) (m : Member),
  (let W := mkWord 0x14 w
   let e := wordEntry s.die c t 0x14 w
   let d := asTaken s.die c t .port id 0x14 w
   let x := getCore d c
   let n := fld W 50 3
   let b := getWb x n
   issuesNow s.die c t .port 0x14 w = true →
   x.members.find? (fun m => m.kind == .caravan && m.id.toNat == fld W 36 12 && some m.itin == (getThread x t).itin) = some m →
   inThreadSet x t n = true → wbSt b = 1 → wbNext b = false → ringFed x (wbRing b) n = false → wbCaravan b = true →
   wbRing b = m.ring.toNat → startReject x t n (m.pos == 0) = none → ringIdle d c (wbRing b) = true → m.pos ≠ 0 → m.joined = false →
   ∃ u : Die, exec (.caravan c t w) s = .next (s.withDie u) ∧ u.mem = s.die.mem ∧
     (getWb (getCore u c) n).state = 3 ∧ (getWb (getCore u c) n).origin = .own ∧ (getWb (getCore u c) n).pc = e.pc ∧
     (∀ die core ring, m.up = some (die, core, ring) →
       u.out = s.die.out ++ List.replicate 4 (.streamCredit .caravan m.id die core ring)) ∧
     (m.up = none → u.out = s.die.out)) ∧
  (let W := mkWord 0x15 w
   let d := asTaken s.die c t .port id 0x15 w
   let x := getCore d c
   let mine (m : Member) : Bool := m.kind == .relay && m.id.toNat == fld W 36 12 && some m.itin == (getThread x t).itin
   let links := x.members.filter (fun m => mine m && (m.up.isSome || m.down.isSome) && inThreadSet x t m.ring.toNat && !m.joined)
   issuesNow s.die c t .port 0x15 w = true →
   x.members.any (fun m => mine m && m.up.isNone && m.down.isNone && m.stage.toNat == fld W 33 3) = true →
   ∃ u : Die, exec (.relay c t w) s = .next (s.withDie u) ∧ u.mem = s.die.mem ∧
     u.out.length = s.die.out.length + 4 * (links.filter (fun m => m.up.isSome)).length ∧
     (∀ k ∈ links, k.down.isSome = true → (getRing (getCore u c) k.ring.toNat).credits = 0) ∧
     (getCore u c).members = x.members.map (fun m => if links.contains m then { m with joined := true, thread := t, granted := 4 } else m)) ∧
  (∀ id ring, let x := getCore s.die c
    x.members.find? (fun m => m.kind == .relay && m.id == id && m.down.isSome && (LinkKind.relay == .chain || m.ring == ring)) = some m →
    (getRing x ring.toNat).credits.toNat < 4 →
    exec (.streamCreditArrival c .relay id ring) s = .next (s.withDie (setCore s.die c (putRing x ring.toNat
      { getRing x ring.toNat with credits := (getRing x ring.toNat).credits + 1 }))))) ∧
  (∀ (s : State) (c : CoreId) (ring : BitVec 3) (last : Bool) (data : BitVec 1024) (m : Member)
    (r : Ring) (b : Nat),
  let x := getCore s.die c
  let base := storeBase c + bufBase r b + (getInfo r b).bytes
  let k := min 128 ((getInfo r b).size - (getInfo r b).bytes)
  portCheck s.die c m.party m.epoch = none → m.joined = true →
  (∀ tile count bytes total, x.members.find? (fun m => m.kind == .caravan && m.ring == ring && m.up.isSome) = some m →
    m.shape = some (bytes, total) →
    openBuffer (getRing x ring.toNat) { BufInfo.reset with
      clean := true, tile := BitVec.toNat tile, wb := memberWb x ring.toNat, size := bytes, total := total } = some (r, b) →
    BitVec.toNat count = (getInfo r b).total → decide ((getInfo r b).bytes + k = (getInfo r b).size) = last →
    ∃ u : Die, exec (.caravanFlitArrival c ring tile count last data) s = .next (s.withDie u) ∧
      u.mem = memWrite s.die.mem base (leBytes k data.toNat) ∧ ElseSame s.die.mem u.mem base k ∧
      tabGet 0 u.flt.issued 3 = tabGet 0 s.die.flt.issued 3 + 1) ∧
  (x.members.find? (fun m => m.kind == .relay && m.ring == ring && m.up.isSome) = some m → (last = true → tileJudged s.die m = true) →
    openBuffer (getRing x ring.toNat) { BufInfo.reset with clean := true, tile := m.tiles } = some (r, b) →
    ∃ u : Die, exec (.handoverFlitArrival c ring last data) s = .next (s.withDie u) ∧
      u.mem = memWrite s.die.mem base (leBytes (min 128 (ringB r - (getInfo r b).bytes)) data.toNat) ∧
      ElseSame s.die.mem u.mem base (min 128 (ringB r - (getInfo r b).bytes)) ∧
      (getInfo (getRing (getCore u c) ring.toNat) b).whole = last) ∧
  (∀ id, x.members.find? (fun m => m.kind == .chain && m.id == id && m.up.isSome) = some m → m.pending = none →
    exec (.chainFlitArrival c id data) s = .next (s.withDie (setCore (cons s.die 3 1 1) c
      (replaceM x m { m with incoming := m.incoming ++ [data], received := m.received + 1 })))))

/-! ### Tallies (R157, R247 to R256) -/

/-- R157, R249, R250: a tally unit performs an operation whole: ADD and ARRIVE add modulo 2^32, SET replaces, WAIT and ARM leave the count;
a condition that does not hold registers its waiter, and waiters whose condition now holds leave with one wake each.

R253, R254, R308: a remote request is performed at this die's unit and answered toward its sender with the count before it; at protocol
level 1 it comes as EMU_TALLY, at level 2 as TALLY_OP, and the other of the two does nothing. -/
def Obligations.TallyOperations : Prop :=
  (∀ (d : Die) (r : TallyReq),
  let old := tallyCount d r.index
  let new := tallyNew r.op.toNat old r.value
  let u := (tallyPerform d r).1
  (tallyPerform d r).2.1 = old ∧ tallyCount u r.index = new ∧ (∀ i, i ≠ r.index → tallyCount u i = tallyCount d i) ∧
  (r.op = 0 → new = old + r.value) ∧ (r.op = 1 → new = r.value) ∧ (r.op = 3 → new = old + 1) ∧ (r.op = 2 ∨ r.op = 4 → new = old) ∧
  (∀ w ∈ u.tally.waiters, w.index = r.index → new.toNat < w.target.toNat) ∧
  (∀ w ∈ d.tally.waiters, w.index ≠ r.index → w ∈ u.tally.waiters) ∧
  (∀ w ∈ d.tally.waiters, w.index = r.index → w.target.toNat ≤ new.toNat → { w with due := d.aclk + 3 } ∈ u.tally.wakes) ∧
  (2 ≤ r.op.toNat → new.toNat < r.value.toNat → ∃ w ∈ u.tally.waiters, w.target = r.value ∧ w.endpoint = r.endpoint) ∧
  u.mem = d.mem ∧ u.cores = d.cores) ∧
  (∀ (s : State) (e : TallyEntry),
  let r := entryReq e
  let d := s.die
  let after := sendEntry (tallyPerform (headArrives r d) r).1 (unitCol (unitOf r.index)) r.index
    ⟨1, e.srcDie, e.srcDie, e.endpoint, e.party, e.epoch, (tallyCount d r.index).setWidth 64⟩
  (d.ident.protoLevel = 1 → exec (.tallyOp e) s = .next s) ∧ (d.ident.protoLevel ≠ 1 → exec (.emuTally e) s = .next s) ∧
  (d.ident.protoLevel ≠ 1 → e.kind = 0 → r.op.toNat ≤ 4 → exec (.tallyOp e) s = .next (s.withDie after)) ∧
  (d.ident.protoLevel = 1 → e.kind = 0 → r.op.toNat ≤ 4 → exec (.emuTally e) s = .next (s.withDie after)) ∧
  tallyCount after r.index = tallyNew r.op.toNat (tallyCount d r.index) r.value ∧ after.mem = d.mem)

/-- R157, R248, R249: each TALLY word whose name lies in an enabled window sends one request with its operation, value and role to the
tally's unit; a FETCH owes RD, WAIT and ARRIVE stop dispatch, ARM arms the thread. A name in no window raises TALLY_RANGE. -/
def Obligations.TallyWordsSendRequests : Prop := ∀ (s : State) (c : CoreId) (t : Bool) (w : BitVec 58),
  let W := mkWord 0x3C w
  let e := wordEntry s.die c t 0x3C w
  let d := asTaken s.die c t .msg (tallyPrep w e.regs) 0x3C w
  let x := getCore d c
  let name : BitVec 19 := (opnd e (fld W 44 6)).setWidth 19
  let index : BitVec 16 := name.extractLsb' 0 16
  let value : BitVec 32 := if bitB W 37 then BitVec.ofNat 32 (fld W 0 16) else (opnd e (fld W 38 6)).setWidth 32
  let sends (op : Nat) (i : Instr) (extra : Die → Prop) : Prop :=
    tallyForm op w = true → issuesNow s.die c t .msg 0x3C w = true → inWindow x t (nameDie d name) index = true →
    nameDie d name = d.ident.dieNum → (op = 4 → (threadAt s.die c t).armed = false) →
    ∃ (u : Die) (r : TallyReq), exec i s = .next (s.withDie u) ∧ u.tally.reqs = s.die.tally.reqs ++ [r] ∧ r.op = BitVec.ofNat 3 op ∧
      r.index = index ∧ r.unit = unitOf index ∧ r.value = value ∧ r.fetch = (bitB W 50 && decide (op ≤ 1)) ∧ r.party = x.portParty ∧
      r.due = s.die.aclk + 1 + 3 * unitHops (unitOf index) c ∧ r.epoch = x.portEpoch ∧ r.endpoint = coreEndpoint c ∧ r.thread = t ∧ (getCore u c).tags.length = (getCore s.die c).tags.length + 1 ∧
      u.mem = s.die.mem ∧ u.tally.counts = s.die.tally.counts ∧ (threadAt u c t).regs = (threadAt s.die c t).regs ∧ extra u
  let fetched (u : Die) : Prop := (threadAt u c t).wait = .none ∧
    (threadAt u c t).owed = (threadAt s.die c t).owed ++ (if bitB W 50 then [(BitVec.ofNat 6 (fld W 31 6), .tally)] else [])
  let stops (u : Die) : Prop := (threadAt u c t).wait = .tally name value ∧ (threadAt u c t).owed = (threadAt s.die c t).owed
  sends 0 (.tallyAdd c t w) fetched ∧ sends 1 (.tallySet c t w) fetched ∧ sends 2 (.tallyWait c t w) stops ∧
  sends 3 (.tallyArrive c t w) stops ∧
  sends 4 (.tallyArm c t w) (fun u => (threadAt u c t).armed = true ∧ (threadAt u c t).armSeq = (threadAt s.die c t).armSeq + 1 ∧
    (threadAt u c t).armName = name ∧ (threadAt u c t).wait = .none) ∧
  (tallyForm 0 w = true → issuesNow s.die c t .msg 0x3C w = true → inWindow x t (nameDie d name) index = false →
    ∃ u : Die, exec (.tallyAdd c t w) s = .next (s.withDie u) ∧ (threadAt u c t).run = .faulted ∧
      (bitB (getCore s.die c).fault 63 = false → fld (getCore u c).fault 40 8 = 0x0F) ∧ u.tally.reqs = s.die.tally.reqs)

/-- R249 to R251, R253: a request performed at its unit sends its reply back; a wake leaves its unit and reaches its core, where the thread
that waits for that tally goes on; a reply frees its tag and writes a FETCH's RD; a cancelled ARM leaves the table. Each comes at its cycle:
a unit takes one request and lets one wake go in an ACLK, and a reply is there 9 ACLK after its request. -/
def Obligations.TallyEventsDeliver : Prop := ∀ (s : State) (n : Nat) (r : TallyReq) (v : Waiter) (p : TallyRep) (o : OpenTag),
  let y := s.die.tally
  let d := s.die
  let heard := waitUntil d (max r.due (tabGet 0 y.nextHead (unitOf r.index).toNat))
  (y.reqs[n]? = some r → r.op ≠ 5 → reqFirst d n r = true →
    ∃ u : Die, exec (.tallyReqArrival n) s = .next (s.withDie u) ∧ tallyCount u r.index = tallyNew r.op.toNat (tallyCount d r.index) r.value ∧
      u.tally.reqs = y.reqs.eraseIdx n ∧ (∃ q, u.tally.replies = y.replies ++ [q] ∧ q.count = tallyCount d r.index ∧ q.tag = r.tag ∧
        q.endpoint = r.endpoint ∧ q.due = heard.aclk + 9) ∧
      tabGet 0 u.tally.nextHead (unitOf r.index).toNat = heard.aclk + 1 ∧ u.mem = d.mem ∧ u.cores = heard.cores) ∧
  (y.reqs[n]? = some r → r.op = 5 → reqFirst d n r = true →
    ∃ u : Die, exec (.tallyCancel n) s = .next (s.withDie u) ∧ u.tally.reqs = y.reqs.eraseIdx n ∧ u.tally.counts = y.counts ∧
      u.cores = heard.cores ∧
      (∀ w ∈ u.tally.waiters, ¬ (w.arm = true ∧ w.die = r.die ∧ w.endpoint = r.endpoint ∧ w.thread = r.thread ∧ w.armSeq = r.armSeq))) ∧
  (∀ unit, y.wakes.find? (fun w => w.unit == unit) = some v → v.die = d.ident.dieNum →
    let d0 := waitUntil d (max v.due (tabGet 0 y.nextWake (BitVec.toNat unit)))
    exec (.tallyWakeSend unit) s = .next (s.withDie { d0 with tally := { y with
      wakes := y.wakes.erase v, nextWake := tabSet 0 y.nextWake unit.toNat (d0.aclk + 1),
      flying := y.flying ++ [{ v with due := d0.aclk + 3 * unitHops unit (endpointCore v.endpoint) + 2 }] } })) ∧
  (let d0 := waitUntil d v.due
   let c := endpointCore v.endpoint
   y.flying[n]? = some v → (y.flying.take n).any (fun w => w.unit == v.unit && w.endpoint == v.endpoint) = false → v.arm = false →
   portCheck d0 c v.party v.epoch = none →
   (∃ name target, (threadAt d0 c v.thread).wait = .tally name target ∧ name.extractLsb' 0 16 = v.index) →
   ∃ u : Die, exec (.tallyWakeDelivery n) s = .next (s.withDie u) ∧
     (threadAt u c v.thread).wait = .none ∧ u.tally.flying = y.flying.eraseIdx n ∧ u.mem = d.mem ∧
     (threadAt u c v.thread).pc = (threadAt d0 c v.thread).pc) ∧
  (let d0 := waitUntil d p.due
   let c := endpointCore p.endpoint
   y.replies[n]? = some p → (getCore d0 c).tags.find? (fun o => o.tag == p.tag && !o.remote) = some o →
   ∃ u : Die, exec (.tallyReply n) s = .next (s.withDie u) ∧ u.tally.replies = y.replies.eraseIdx n ∧ u.mem = d.mem ∧
     (getCore u c).tags = (getCore d0 c).tags.erase o ∧
     (∀ rd k, o.kind = .tallyFetch rd k →
       (threadAt u c o.thread).regs = writeReg (threadAt d0 c o.thread).regs rd.toNat (p.count.setWidth 64)))

/-! ### The Lodge and the Ledger (R190 to R228) -/

/-- R193, R197, R200, R201: while slots run, a refresh slot advances the bank's refresh row, wrapping after row 527 and counting a pass at slice 0's bank 0; a scrub
slot advances the scrub row and corrects and counts a single-bit error; a retirement moves the oldest row to the bank's lowest spare and
takes two slots. While they do not run, nothing changes.

R210, R214, R217: the n-th entry change, when no earlier one of its entry waits, is committed: package memory holds its 16 bytes and no
other byte changes. A line that comes back from package memory answers the lookup that waited for it.

R221, R222, R228, R307: what the hub says of package memory selects recovery or loss. Recovery gives an interrupted move its old place
back and makes the free maps anew; loss clears the placements and posts LEDGER_LOST with the old directory. The epoch count advances by one
and writes touched ages back; a sweep is made once per epoch whose low 12 bits are 0, and sets an age past 16,384 to it. -/
def Obligations.LodgeAndLedger : Prop :=
  (∀ (s : State) (c : CoreId) (bank : BitVec 4),
  let d := s.die
  let b := bankKey c bank.toNat
  let l := d.lodge
  let p := (tabGet 0 l.refreshRow b).toNat
  let q := (tabGet 0 l.scrubRow b).toNat
  (slotsRun d = false → exec (.refreshSlot c bank) s = .next s ∧ exec (.scrubSlot c bank) s = .next s ∧
    exec (.softRepairRetire c bank) s = .next s) ∧
  (slotsRun d = true → slotIndex d b % 5 ≠ 4 →
    ∃ u : Die, exec (.refreshSlot c bank) s = .next (s.withDie u) ∧ u = { d with lodge := u.lodge } ∧
      (tabGet 0 u.lodge.refreshRow b).toNat = (if 527 ≤ p then 0 else p + 1) ∧ slotIndex u b = slotIndex d b + 1 ∧
      u.lodge.passes = (if 527 ≤ p ∧ b = 0 then l.passes + 1 else l.passes) ∧ u.lodge.scrubRow = l.scrubRow) ∧
  (slotsRun d = true → slotIndex d b % 5 = 4 → logicalRow l b q = none →
    ∃ u : Die, exec (.scrubSlot c bank) s = .next (s.withDie u) ∧ u = { d with lodge := u.lodge } ∧
      (tabGet 0 u.lodge.scrubRow b).toNat = (if 1055 ≤ q then 0 else q + 1) ∧ slotIndex u b = slotIndex d b + 1) ∧
  (∀ r, slotsRun d = true → slotIndex d b % 5 = 4 → logicalRow l b q = some r → rowInBank b r ∉ l.ueMark → rowInBank b r ∈ l.ceMark →
    ∃ u : Die, exec (.scrubSlot c bank) s = .next (s.withDie u) ∧ rowInBank b r ∉ u.lodge.ceMark ∧ u.mem = d.mem ∧
      fld (tabGet 0 u.lodge.slice (rowInBank b r / 16384)) 48 16 =
        min 0xFFFF (fld (tabGet 0 l.slice (rowInBank b r / 16384)) 48 16 + 1)) ∧
  (∀ key ue sp, slotsRun d = true → l.retiring.find? (fun r => r.1 / 1024 == b) = some (key, ue) → b ∉ l.retiredPass → freeSpare l b = some sp →
    ∃ u : Die, exec (.softRepairRetire c bank) s = .next (s.withDie u) ∧ u.mem = d.mem ∧
      tabGet 0 u.lodge.remap key = BitVec.ofNat 6 (sp + 1) ∧ u.lodge.retiring = l.retiring.erase (key, ue) ∧
      slotIndex u b = slotIndex d b + 2 ∧ b ∈ u.lodge.retiredPass ∧
      (l.softLog.length < 256 → u.lodge.softLog = l.softLog ++ [repairEntry key sp ue]))) ∧
  (∀ (s : State) (n : Nat) (w : LedgerWrite) (q : LedgerOp) (o : OpenTag),
  let d := s.die
  (d.ledger.writes[n]? = some w → (d.ledger.writes.take n).any (fun y => y.addr == w.addr) = false →
    (d.ledger.moves.all (fun m => m.addr != w.addr)) = true →
    exec (.ledgerCommit n) s = .next (s.withDie { d with pkg := memPutLE d.pkg w.addr 16 w.value.toNat,
                                                         ledger := { d.ledger with writes := d.ledger.writes.eraseIdx n } }) ∧
    ElseSame d.pkg (memPutLE d.pkg w.addr 16 w.value.toNat) w.addr 16) ∧
  (∀ rd, d.ledger.waiting[n]? = some q → q.touch = false → portCheck d q.core q.party q.epoch = none → (getCore d q.core).tags.find? (fun o => o.tag == q.tag && !o.remote) = some o →
    o.kind = .lookup rd → threadEntry d q.core o.thread q.handle = none →
    ∃ u : Die, exec (.ledgerCacheFill n 0) s = .next (s.withDie u) ∧ u.ledger.waiting = d.ledger.waiting.eraseIdx n ∧
      (threadAt u q.core o.thread).answers = (threadAt d q.core o.thread).answers ++
        [(d.aclk + 8 + 6 * unitHops (quarterOf q.core) q.core, rd, lookupNone)] ∧
      (getCore u q.core).tags = (getCore d q.core).tags.erase o ∧ u.mem = d.mem)) ∧
  (∀ (s : State),
  let d := s.die
  let l := d.ledger
  (l.memState = 1 → d.link.state = 7 → exec (.pkgMemState true) s = .next (s.withDie { d with ledger := { l with memState := 2 } })) ∧
  (l.memState = 2 →
    ∃ u : Die, exec .ledgerRecovery s = .next (s.withDie u) ∧ u.ledger.memState = 0 ∧ u.ledger.used = (usedPlaces u).eraseDups ∧
      u.lodge.lossUnmarked = false ∧ tabGet 0 u.flt.returned 9 = 0 ∧ u.mem = d.mem ∧ (dirEn d = false → u.pkg = d.pkg)) ∧
  (∀ h a, entLegal (pkg128 d a) = true → entTier (pkg128 d a) ≠ tierLodge → entState (pkg128 d a) = stMoving →
    recoverEntry d (h, a) = putPkg128 d a (entPut (pkg128 d a) (entTier (pkg128 d a)) stValid 0 (entLoc (pkg128 d a)) 0 false)) ∧
  (l.memState = 3 →
    ∃ u : Die, exec .ledgerLost s = .next (s.withDie u) ∧ u.ledger.dirBase = 0 ∧ u.ledger.poolBerths = 0 ∧ u.ledger.holds = [] ∧
      u.ledger.memState = 0 ∧ u.stew.opened = [] ∧ u.ledger.epoch = l.epoch ∧ u.pkg = d.pkg ∧ u.mem = d.mem ∧
      u.stew.events = d.stew.events ++ [⟨0x0016, 0, 0, 0, leBytes 8 l.dirBase.toNat⟩]) ∧
  (d.boot.aon = true → d.power.refLost = false → l.touched = [] →
    exec .epochTick s = .next (s.withDie { d with ledger := { l with epoch := l.epoch + 1 } })) ∧
  (l.epoch.extractLsb' 0 12 = 0 → l.sweptEpoch ≠ some l.epoch →
    ∃ u : Die, exec .ageSweep s = .next (s.withDie u) ∧ u.ledger.sweptEpoch = some l.epoch ∧ u.ledger.epoch = l.epoch ∧ u.mem = d.mem ∧
      (∀ h a, allBerths d = [(h, a)] → entTier (pkg128 d a) ≤ 1 → 16384 < ageOf d (pkg128 d a) →
        u = writeAge { d with ledger := { l with sweptEpoch := some l.epoch } } a (BitVec.ofNat 16 (l.epoch.toNat + 0x10000 - 16384)))) ∧
  (l.sweptEpoch = some l.epoch → exec .ageSweep s = .next s))

/-- R217 to R220: the phases of a move. One that is blocked, or finds no place, ends with its status; a placed move whose berth nothing holds
makes its phase write; the copy fills the destination and nothing else of package memory; equal checks go on to the switch, a first mismatch
copies again, a second gives the move up; the switch writes the new place, AGE that of a Cellar write; the release gives the old place back
and clears OLDF. -/
def Obligations.MovesGoThroughPhases : Prop := ∀ (s : State) (n : Nat) (m : Move) (crc : BitVec 64),
  let d := s.die
  let e := entryLast d m.addr
  let put (d : Die) (m' : Move) : Die := putMove d m m'
  let written (m' : Move) (v : BitVec 128) : Die := stewWrite (put d m') m.addr v
  let sensed := senseBerth m.srcTier.toNat m.src.toNat (senseBerth m.target.toNat m.dst.toNat d)
  let srcUe := berthUe d m.srcTier.toNat m.src.toNat
  let dstUe := berthUe d m.target.toNat m.dst.toNat
  let turn : Prop := d.ledger.moves[n]? = some m ∧ m.phase = 0 ∧ uncommitted d m.addr = false ∧
    (d.ledger.moves.take n).any (fun y => y.addr == m.addr) = false ∧ (m.placed = true ∨ inFlight d m.handle < 16)
  (∀ st, turn → moveBlocked d m e = some st → exec (.movePhaseWrite n) s = .next (s.withDie (endMove d m st))) ∧
  (turn → moveBlocked d m e = none → m.placed = false → m.rewrite = false → findPlace d 0 m.target.toNat m.core none = none →
    exec (.movePhaseWrite n) s = .next (s.withDie (endMove (drew d) m 0x0030))) ∧
  (turn → moveBlocked d m e = none → m.placed = true → d.ledger.holds.any (fun h => h.handle == m.handle) = false →
    exec (.movePhaseWrite n) s = .next (s.withDie (written
      { m with phase := 1, srcTier := BitVec.ofNat 2 (entTier e), src := BitVec.ofNat 48 (entLoc e) }
      (entPut e (entTier e) stMoving m.target.toNat (entLoc e) m.dst.toNat false)))) ∧
  (d.ledger.moves[n]? = some m → m.phase = 1 → uncommitted d m.addr = false → m.srcTier = 1 → m.target = 1 →
    ∃ u : Die, exec (.moveCopyDone n true true) s = .next (s.withDie u) ∧
      u = { put d { m with phase := 2, crc := crc64 (memRead d.pkg m.src.toNat 0x10000), hubRead := false,
                           age := d.ledger.epoch.setWidth 16 } with pkg := u.pkg } ∧
      (∀ i, i < 0x10000 → memGet u.pkg (m.dst.toNat + i) = memGet d.pkg (m.src.toNat + i)) ∧
      ElseSame d.pkg u.pkg m.dst.toNat 0x10000) ∧
  (d.ledger.moves[n]? = some m → m.phase = 2 → srcUe = none → dstUe = none → verified d m crc = true →
    exec (.moveVerify n crc) s = .next (s.withDie (put sensed { m with phase := 3 }))) ∧
  (d.ledger.moves[n]? = some m → m.phase = 2 → srcUe = none → (dstUe.isSome = true ∨ verified d m crc = false) → m.again = false →
    exec (.moveVerify n crc) s = .next (s.withDie (put sensed { m with phase := 1, again := true }))) ∧
  (d.ledger.moves[n]? = some m → m.phase = 2 → srcUe = none → dstUe = none → verified d m crc = false → m.again = true →
    entState e = stMoving →
    ∃ u : Die, exec (.moveVerify n crc) s = .next (s.withDie u) ∧ u.ledger.moves = d.ledger.moves.erase m ∧
      u.ledger.writes = d.ledger.writes ++ [⟨m.addr, entPut e m.srcTier.toNat stValid 0 m.src.toNat 0 false⟩] ∧ u.mem = d.mem) ∧
  (d.ledger.moves[n]? = some m → m.phase = 3 → entState e = stMoving →
    let v := entPut e m.target.toNat stValid m.srcTier.toNat m.dst.toNat m.src.toNat true
    exec (.moveSwitchWrite n) s = .next (s.withDie (written { m with phase := 4 } (if m.target = 2 then putFld v 96 16 m.age.toNat else v)))) ∧
  (d.ledger.moves[n]? = some m → m.phase = 3 → entState e ≠ stMoving →
    exec (.moveSwitchWrite n) s = .next (s.withDie (endMove d m stBerthLost))) ∧
  (d.ledger.moves[n]? = some m → m.phase = 4 → m.told = true → uncommitted d m.addr = false →
    d.ledger.holds.any (fun h => h.tier == m.srcTier && h.loc == m.src) = false →
    ∃ u : Die, exec (.moveRelease n) s = .next (s.withDie u) ∧ u.ledger.moves = d.ledger.moves.erase m ∧
      u.ledger.writes = d.ledger.writes ++ [⟨m.addr, entPut e (entTier e) (entState e) (entDtier e) (entLoc e) 0 false⟩] ∧
      u.ledger.used = (if (m.srcTier, m.src) ∈ d.ledger.used then d.ledger.used.erase (m.srcTier, m.src) else d.ledger.used) ∧
      u.pkg = d.pkg ∧ u.mem = d.mem)

/-- R224, R225, R227: a report sets a bin's retention and state, its budget the lower of the report and the die's own count; with enough free
Lodge and pool berths no demotion starts; a Cellar berth that is due begins a move, which takes a place in another bin, else in the pool,
and with neither is reported at risk. -/
def Obligations.CellarAndDemotion : Prop := ∀ (s : State) (port : Bool) (first : BitVec 20) (r : BinReport) (h : BitVec 48) (a n : Nat) (m : Move),
  let d := s.die
  let key := b2n port * 2 ^ 20 + first.toNat
  let b := tabGet Bin.reset d.ledger.bins key
  let e := entryLast d a
  let leaving := (d.ledger.moves.filter (fun m => entTier (entryLast d m.addr) == tierLodge && m.target.toNat != tierLodge)).length
  let bin := findPlace d 0 tierCellar none (some (cellarBin (entLoc (entryLast d m.addr))))
  let goes (tier loc : Nat) : Die :=
    let m1 := { m with placed := true, target := BitVec.ofNat 2 tier, dst := BitVec.ofNat 48 loc }
    phaseWrite (takePlace (putMove (drew d) m m1) tier loc) m1
  let turn : Prop := d.ledger.moves[n]? = some m ∧ m.phase = 0 ∧ m.placed = false ∧ m.rewrite = true ∧ uncommitted d m.addr = false ∧
    (d.ledger.moves.take n).any (fun y => y.addr == m.addr) = false ∧ inFlight d m.handle < 16 ∧ moveBlocked d m (entryLast d m.addr) = none
  (∃ u : Die, exec (.cellarBins port first [r]) s = .next (s.withDie u) ∧ u = { d with ledger := { d.ledger with bins := u.ledger.bins } } ∧
    tabGet Bin.reset u.ledger.bins key =
      ⟨true, if b.reported ∧ b.budget.toNat < r.budget.toNat then b.budget else r.budget, r.retention, r.bad⟩ ∧
    ∀ k, k ≠ key → tabGet Bin.reset u.ledger.bins k = tabGet Bin.reset d.ledger.bins k) ∧
  (d.ledger.lodgeLow.toNat ≤ (freeLodge d none).length → (noCellar d = true ∨ d.ledger.pkgLow.toNat ≤ (freePool d).length) →
    exec .demotionStart s = .next s) ∧
  (noCellar d = true →
    exec .demotionStart s = .next (s.withDie { d with ledger := { d.ledger with moves := d.ledger.moves ++
      ((demotable d tierLodge).take (d.ledger.lodgeLow.toNat - ((freeLodge d none).length + leaving))).map (fun p =>
        newMove p.1 p.2 tierPackage none false false) } })) ∧
  (entryAddr d h = some a → rewriteDue d e = true → entOldf e = false → moving d a = false → d.ledger.gap = false →
    exec (.cellarRewrite h) s = .next (s.withDie (addMove d { newMove h a tierCellar none false false with rewrite := true }))) ∧
  (∀ loc, turn → bin = some loc → exec (.movePhaseWrite n) s = .next (s.withDie (goes tierCellar loc))) ∧
  (∀ loc, turn → bin = none → findPlace d 0 tierPackage none none = some loc →
    exec (.movePhaseWrite n) s = .next (s.withDie (goes tierPackage loc))) ∧
  (turn → bin = none → findPlace d 0 tierPackage none none = none →
    exec (.movePhaseWrite n) s = .next (s.withDie (postEventTo (endMove (drew d) m stNoSpace) 0 0x0015 0
      (BitVec.ofNat 32 (handleCtx m.handle)) (leBytes 8 m.handle.toNat))))

/-! ### Requests, responses, events (R258 to R270, R293) -/

/-- R266, R293, R209, R221: a request of any message row whose turn has come is checked in order; one that fails is answered with the
first failing check's STATUS and DETAIL, one whose argument cannot be read or written with MEM_ERROR, and has no other effect; a Ledger message before a directory is placed is answered PROTOCOL, 1. -/
def Obligations.RequestsAreChecked : Prop := ∀ (s : State) (n : Nat) (m0 : Msg),
  let d := s.die
  let m := clip m0
  let row (i : Instr) (op minLen : Nat) (bad : Msg → List (Nat × Bool)) (u : CtxUse)
      (args : Die → Msg → List Arg) (sub : Bool) : Prop :=
    d.stew.requests[n]? = some m0 → msgOp m0 = op → sub = true → stewardUp d = true → inTurn d n m0 = true →
    (ledgerOp op = true → d.ledger.memState = 0) →
    (∀ st det, checkReq d m minLen (bad m) u = some (st, det) → exec i s = .next (s.withDie (answer d n m0 st det []))) ∧
    (checkReq d m minLen (bad m) u = none → argsOk d (args d m) = false →
      exec i s = .next (s.withDie (answer (drew (senseArgs (args d m) d)) n m0 stMemError 0 []))) ∧
    (checkReq d m minLen (bad m) u = none → argsOk d (args d m) = true → ledgerOp op = true → dirEn d = false →
      exec i s = .next (s.withDie (answer d n m0 stProtocol 1 [])))
  row (.hello n) opHello 44 helloBad .none noArgs true ∧ row (.openContext n) opOpenContext 5 openBad .none noArgs true ∧
  row (.closeContext n) opCloseContext 0 (fun _ => []) .berths noArgs true ∧ row (.formParty n) opFormParty 80 formBad .none noArgs true ∧
  row (.disbandParty n) opDisbandParty 3 disbandBad .none noArgs true ∧ row (.loadProgram n) opLoadProgram 80 loadBad .none loadArgs true ∧
  row (.saveContext n) opSaveContext 16 imageBad .none (imageArgs true) true ∧ row (.restoreContext n) opRestoreContext 16 imageBad .none (imageArgs false) true ∧
  row (.submit n) opSubmit 12 submitBad .optional submitArgs true ∧ row (.abort n) opAbort 4 (fun _ => []) .optional noArgs true ∧
  row (.queryProgress n) opQueryProgress 4 (fun _ => []) .optional noArgs true ∧ row (.berthAlloc n) opBerthAlloc 14 allocBad .berths noArgs true ∧
  row (.berthFree n) opBerthFree 8 (fun _ => []) .berths noArgs true ∧ row (.berthMove n) opBerthMove 14 moveBad .berths noArgs true ∧
  row (.ledgerQuery n) opLedgerQuery 16 queryBad .berths queryArgs true ∧ row (.setPhaseOp n) opSetPhaseOp 2 phaseOpBad .none noArgs true ∧
  row (.powerStatus n) opPowerStatus 0 (fun _ => []) .none noArgs true ∧
  row (.tallyMsgAdd n) opTally 8 tallyBad .none noArgs (tallySub m != 1 && tallySub m != 2) ∧
  row (.tallyMsgSet n) opTally 8 tallyBad .none noArgs (tallySub m == 1) ∧ row (.tallyMsgRead n) opTally 8 tallyBad .none noArgs (tallySub m == 2) ∧
  row (.calRead n) opCalRead 16 calBad .none calReadArgs true ∧ row (.calWrite n) opCalWrite 16 calWriteBad .none calWriteArgs true ∧
  row (.fwStage n) opFwStage 16 fwBad .none stageArgs true ∧ row (.fwCommit n) opFwCommit 1 fwBad .none noArgs true ∧
  row (.attest n) opAttest 40 attestBad .none attestArgs true ∧
  row (.fuseProgramSecver n) opFuseProgram 16 fuseBadFields .none fuseArgs (fuseKind m == 0 || decide (5 ≤ fuseKind m)) ∧
  row (.fuseProgramOwnerKey n) opFuseProgram 16 fuseBadFields .none fuseArgs (fuseKind m == 1) ∧
  row (.fuseProgramDowngrade n) opFuseProgram 16 fuseBadFields .none fuseArgs (fuseKind m == 2) ∧
  row (.fuseProgramDebugDisable n) opFuseProgram 16 fuseBadFields .none fuseArgs (fuseKind m == 3) ∧
  row (.fuseProgramSoftRepair n) opFuseProgram 16 fuseBadFields .none fuseArgs (fuseKind m == 4) ∧
  row (.diagEcho n) opDiag 16 diagBad .none noArgs (diagSub m != 1 && diagSub m != 2) ∧
  row (.diagCounters n) opDiag 16 diagBad .none countersArgs (diagSub m == 1) ∧ row (.diagLog n) opDiag 16 diagBad .none logArgs (diagSub m == 2) ∧
  (∀ minLen bad u, (opAllowed d m = false → checkReq d m minLen bad u = some (stDenied, 0)) ∧
    (opAllowed d m = true → msgLen m < minLen → checkReq d m minLen bad u = some (stBadLength, minLen)) ∧
    (opAllowed d m = true → minLen ≤ msgLen m → 240 < msgLen m → checkReq d m minLen bad u = some (stBadLength, 240)) ∧
    (∀ o, opAllowed d m = true → minLen ≤ msgLen m → msgLen m ≤ 240 → firstBad m bad = some o →
      checkReq d m minLen bad u = some (stBadField, o)) ∧
    (opAllowed d m = true → minLen ≤ msgLen m → msgLen m ≤ 240 → firstBad m bad = none → ctxOk d u (msgCtx m) = false →
      checkReq d m minLen bad u = some (stBadContext, 0)))

/-- R266, R268, R263: an answered request leaves the queue and its response waits, with the request's OPCODE and bit 15, its SEQ, the LEN
of the payload, STATUS, CONTEXT and DETAIL; a peer's request is answered by a reply that frees its pigeonhole. Answering changes
nothing but the Steward's lists and what is sent. -/
def Obligations.AnswersAreResponses : Prop := ∀ (d : Die) (n : Nat) (m : Msg) (st det : Nat) (p : List Byte),
  let r : Msg := { m with bytes := respBytes m st det (msgCtx m) p, poll := msgPoll m }
  let left := d.stew.requests.eraseIdx n
  (answer d n m st det p = { d with stew := (answer d n m st det p).stew, out := (answer d n m st det p).out }) ∧
  ((∀ y ∈ d.stew.requests, unserved y = false) → (∀ q, m.src ≠ .peer q) →
    answer d n m st det p = { d with stew := { d.stew with requests := left, responses := d.stew.responses ++ [r] } }) ∧
  ((∀ y ∈ d.stew.requests, unserved y = false) → ∀ q, m.src = .peer q →
    answer d n m st det p = { d with
      stew := { d.stew with requests := left, own := putFld d.stew.own m.ph.toNat 1 0 },
      out := d.out ++ [.peer q (if st = stProtocol then .protocol else .reply)] }) ∧
  (st < 0x10000 → det < 2 ^ 32 → p.length ≤ 240 →
    msgOp r = msgOp m % 0x8000 + 0x8000 ∧ msgSeq r = msgSeq m ∧ msgLen r = p.length ∧ msgLE r 6 2 = st ∧ msgCtx r = msgCtx m ∧
    msgLE r 0x0C 4 = det ∧ r.bytes.drop 0x10 = p)

/-- R11, R14, R16, R260, R261, R262: a hand-over that the link carries takes a request pigeonhole with its bytes, or holds a response
pigeonhole; one already held is counted; bits another source's alone, or foreign ones that no one window covers, refuse the whole write. A
release gives a pigeonhole back, a response pigeonhole with its MSG flit. -/
def Obligations.PigeonholesChangeHands : Prop := ∀ (s : State) (src : Source) (v : BitVec 64) (k : Nat),
  let d := s.die
  let msg : Msg := ⟨.host, BitVec.ofNat 8 k, false, false, d.stew.taken, memRead d.mem (pigeonBase k) 256⟩
  let settled : Prop := linkServes d = true ∧ (stewardUp d = false ∨ ((∀ y ∈ d.stew.requests, unserved y = false) ∧ d.stew.evtPending = 0))
  let freed (m : Msg) : Msg := if m.ph.toNat = k then { m with freed := true } else m
  let gone : Die := { d with stew := { d.stew with own := putFld d.stew.own k 1 0 } }
  let refused (reason : Nat) : Prop :=
    ∃ u : Die, exec (.phGive src v) s = .next (s.withDie u) ∧ u = { d with ident := u.ident } ∧
      u.ident = { d.ident with refuseCnt := satInc d.ident.refuseCnt, refuseLog := u.ident.refuseLog } ∧
      (bitB d.ident.refuseLog 63 = true → u.ident.refuseLog = d.ident.refuseLog) ∧
      (bitB d.ident.refuseLog 63 = false → bitB u.ident.refuseLog 63 = true ∧ fld u.ident.refuseLog 61 2 = srcCode src ∧
        fld u.ident.refuseLog 59 2 = reason ∧ bitB u.ident.refuseLog 58 = true ∧ fld u.ident.refuseLog 0 48 = (giveAddr d v).toNat)
  (linkServes d = false → exec (.phGive src v) s = .next s) ∧
  (linkServes d = true → v &&& ~~~(giveMask src) ≠ 0 → refused 1) ∧
  (linkServes d = true → src = .foreign → v &&& ~~~(giveMask src) = 0 →
    (∀ i, i < 8 → windowGives v (tabGet Window.reset d.trust.windows i) = false) → refused 2) ∧
  (k < 32 → owns d k = false → settled → (stewardUp d = false ∨ unserved msg = false) →
    exec (.phGive .host (1#64 <<< k)) s = .next (s.withDie { d with stew := { d.stew with
      own := putFld d.stew.own k 1 1, requests := d.stew.requests ++ [msg], taken := d.stew.taken + 1 } })) ∧
  (32 ≤ k → k < 48 → owns d k = false → settled →
    exec (.phGive .host (1#64 <<< k)) s = .next (s.withDie { d with stew := { d.stew with own := putFld d.stew.own k 1 1 } })) ∧
  (k < 48 → owns d k = true → settled →
    exec (.phGive .host (1#64 <<< k)) s = .next (s.withDie { d with stew := { d.stew with giveIgn := satInc d.stew.giveIgn } })) ∧
  (inReset d = false → k < 64 → owns d k = true → responsePh k = false →
    exec (.phRelease (1#64 <<< k)) s = .next (s.withDie { d with stew := { d.stew with
      own := putFld d.stew.own k 1 0, requests := d.stew.requests.map freed, responses := d.stew.responses.map freed } })) ∧
  (inReset d = false → k < 64 → owns d k = true → responsePh k = true →
    exec (.phRelease (1#64 <<< k)) s = .next (s.withDie
      (markFreed (emitCtrl gone (.msgFlit 0x0001 (BitVec.ofNat 64 k))) k)))

/-- R268, R270: a response goes to its destination's lowest held pigeonhole and both pigeonholes go back; an event is posted while a
pigeonhole is free and no response waits, else its class count rises; the PENDING event carries the counts and clears them. -/
def Obligations.ResponsesAndEventsPosted : Prop := ∀ (s : State) (n k : Nat) (m : Msg) (e : Event) (rest : List Event),
  let d := s.die
  let posted (u : Die) (l : List Byte) : Prop := memRead u.mem (pigeonBase k) l.length = l ∧
    ElseSame d.mem u.mem (pigeonBase k) l.length ∧ owns u k = false ∧ u.cores = d.cores ∧ u.pkg = d.pkg
  (heldPh d 0 = some k ↔ (32 ≤ k ∧ k < 48 ∧ owns d k = true ∧ ∀ j, 32 ≤ j → j < k → owns d j = false)) ∧
  (d.stew.responses[n]? = some m → (∀ y ∈ d.stew.responses.take n, respDst y ≠ respDst m) → postable d m = true →
    readyFirst d = none → heldPh d (respDst m) = some k → d.stew.evtPending = 0 →
    ∃ u : Die, exec (.responsePost n) s = .next (s.withDie u) ∧ posted u m.bytes ∧ u.stew.responses = d.stew.responses.eraseIdx n ∧
      u.stew.requests = d.stew.requests ∧ (m.freed = false → owns u m.ph.toNat = false) ∧
      ∀ j, j ≠ k → j ≠ m.ph.toNat → owns u j = owns d j) ∧
  (d.stew.responses[n]? = some m → heldPh d (respDst m) = none → exec (.responsePost n) s = .next s) ∧
  (stewardUp d = true → readyFirst d = none → d.stew.events = e :: rest → heldPh d e.dst.toNat = some k →
    responseWaits d e.dst.toNat = false →
    ∃ u : Die, exec .eventPost s = .next (s.withDie u) ∧ posted u (evtBytes e) ∧ u.stew.events = rest ∧
      u.stew.evtPending = d.stew.evtPending) ∧
  (∀ sh, stewardUp d = true → readyFirst d = none → d.stew.events = e :: rest → heldPh d e.dst.toNat = none →
    evtShift e.kind.toNat = some sh →
    exec .eventPost s = .next (s.withDie { d with stew := { d.stew with
      events := rest, evtPending := putFld d.stew.evtPending sh 8 (min 0xFF (fld d.stew.evtPending sh 8 + 1)) } })) ∧
  (stewardUp d = true → d.stew.events = [] → d.stew.evtPending ≠ 0 → heldPh d 0 = some k → responseWaits d 0 = false →
    ∃ u : Die, exec .eventPost s = .next (s.withDie u) ∧
      posted u (evtBytes ⟨0x0040, 0, 0, 0, leBytes 8 d.stew.evtPending.toNat⟩) ∧ u.stew.evtPending = 0)

/-! ### Sessions, contexts, parties (R209, R271 to R275) -/

/-- R209, R271, R272: HELLO sets the placements it names, EN with a directory, and a directory placed anew is all zero; OPEN_CONTEXT
takes a slot, advances its generation and frees every entry of the array; CLOSE_CONTEXT closes the slot once nothing holds it. -/
def Obligations.SessionsAndContexts : Prop := ∀ (s : State) (n : Nat) (m0 : Msg),
  let d := s.die
  let m := clip m0
  let ask := helloFields m
  let next := replaced ask (inForce d)
  let anew : Prop := ask.dir ≠ 0 ∧ (ask.dir ≠ (inForce d).dir ∨ dirEn d = false)
  let count := msgLE m 0x10 4
  (asks d n opHello 44 helloBad .none noArgs m0 → msgLE m 0x10 2 = 1 → (ask.dir = 0 ∨ ask.dir + 0x100000 ≤ pkgTop d) →
    (next = inForce d ∨ openCtxs d = []) → overlapAt next = none →
    ∃ v : Die, exec (.hello n) s = .next (s.withDie (answer v n m stOk 0 (helloReply v))) ∧
      v = { d with pkg := v.pkg, ledger := v.ledger, stew := v.stew } ∧ v.stew.hello = true ∧ inForce v = next ∧
      (ask.dir ≠ 0 → dirEn v = true) ∧ (anew → ∀ i, i < 0x100000 → memGet v.pkg (ask.dir + i) = 0) ∧
      (anew → ElseSame d.pkg v.pkg ask.dir 0x100000) ∧ (¬ anew → v.pkg = d.pkg)) ∧
  (asks d n opHello 44 helloBad .none noArgs m0 → msgLE m 0x10 2 = 1 → (ask.dir = 0 ∨ ask.dir + 0x100000 ≤ pkgTop d) →
    next ≠ inForce d → openCtxs d ≠ [] → exec (.hello n) s = .next (s.withDie (answer d n m stBusy 0 []))) ∧
  (asks d n opHello 44 helloBad .none noArgs m0 → msgLE m 0x10 2 ≠ 1 → (ask.dir = 0 ∨ ask.dir + 0x100000 ≤ pkgTop d) →
    exec (.hello n) s = .next (s.withDie (answer d n m stProtocol 0 []))) ∧
  (∀ slot a, asks d n opOpenContext 5 openBad .none noArgs m0 → chooseSlot d = some slot → pickFree d 0 (arrayGaps d count) = some a →
    ∃ v : Die, exec (.openContext n) s =
        .next (s.withDie (answerAs v n m stOk 0 ((dirGen (dirEntry d slot) + 1) * 65536 + slot) (leBytes 8 a))) ∧
      dirEntry v slot = dirWord (dirGen (dirEntry d slot) + 1) count a ∧ v.mem = d.mem ∧ v.cores = d.cores ∧
      ∀ i, i < count → (a + 16 * i + 16 ≤ dirAddr d slot ∨ dirAddr d slot + 16 ≤ a + 16 * i) →
        entTier (pkg128 v (a + 16 * i)) = tierNone ∧ entState (pkg128 v (a + 16 * i)) = stFree) ∧
  (asks d n opOpenContext 5 openBad .none noArgs m0 → chooseSlot d = none →
    exec (.openContext n) s = .next (s.withDie (answer d n m stLimit 0 []))) ∧
  (∀ e, asks d n opCloseContext 0 (fun _ => []) .berths noArgs m0 → liveCtx d (msgCtx m) = some e → ctxBusy d (msgCtx m) e = false →
    ∃ (v : Die) (k : Nat), exec (.closeContext n) s = .next (s.withDie (answer v n m stOk 0 (leBytes 4 k))) ∧
      k = ((List.range (dirCount e)).filter (fun i => entState (pkg128 d (dirArray e + 16 * i)) != stFree)).length ∧
      liveCtx v (msgCtx m) = none ∧ v.mem = d.mem ∧ v.cores = d.cores) ∧
  (∀ e, asks d n opCloseContext 0 (fun _ => []) .berths noArgs m0 → liveCtx d (msgCtx m) = some e → ctxBusy d (msgCtx m) e = true →
    exec (.closeContext n) s = .next s)

/-- R273, R274: FORM_PARTY makes the party of cores in use and free, sets PARTY and advances EPOCH on each; DISBAND_PARTY ends it with
PARTY 0 and, with RESET, resets the cores, once the links of aborted itineraries there are settled; LOAD_PROGRAM writes the words into the named cores' program memories. -/
def Obligations.PartiesAndPrograms : Prop := ∀ (s : State) (n : Nat) (m0 : Msg),
  let d := s.die
  let m := clip m0
  let party := msgLE m 0x10 2
  let mask := reqMask m
  (asks d n opFormParty 80 formBad .none noArgs m0 → partyBusy d party = false → party ≠ 0 → partyCores d party = none →
    (∀ c : CoreId, mask.getLsbD c.toNat = true → coreInUse d c = true ∧ epochWaits d c = false ∧
      ∀ p ∈ d.stew.parties, p.2.getLsbD c.toNat = false) →
    ∃ v : Die, exec (.formParty n) s = .next (s.withDie (answer v n m stOk 0 [])) ∧ partyCores v party = some mask ∧
      v = { d with cores := v.cores, stew := { d.stew with parties := d.stew.parties ++ [(BitVec.ofNat 12 party, mask)] } } ∧
      ∀ c : CoreId, getCore v c = if mask.getLsbD c.toNat then
        { getCore d c with portParty := BitVec.ofNat 12 party, portEpoch := (getCore d c).portEpoch + 1 } else getCore d c) ∧
  (asks d n opFormParty 80 formBad .none noArgs m0 → partyBusy d party = false → (party = 0 ∨ (partyCores d party).isSome = true) →
    exec (.formParty n) s = .next (s.withDie (answer d n m stBadParty 0 []))) ∧
  (∀ cores, asks d n opDisbandParty 3 disbandBad .none noArgs m0 → partyBusy d party = false → partyCores d party = some cores →
    partyItins d party itinLive = false → (∀ c : CoreId, cores.getLsbD c.toNat = true → epochWaits d c = false) →
    ∃ v : Die, exec (.disbandParty n) s = .next (s.withDie (answer v n m stOk 0 [])) ∧ partyCores v party = none ∧ v.pkg = d.pkg ∧
      ∀ c : CoreId, (cores.getLsbD c.toNat = false → getCore v c = getCore d c) ∧
        (cores.getLsbD c.toNat = true → (getCore v c).portParty = 0 ∧ (getCore v c).portEpoch = (getCore d c).portEpoch + 1 ∧
          (getCore v c).pmem = (getCore d c).pmem) ∧
        (msgByte m 0x12 ≠ 1 → v.mem = d.mem) ∧
        (cores.getLsbD c.toNat = true → msgByte m 0x12 = 1 →
          (getCore v c).t0 = Thread.reset ∧ (getCore v c).t1 = Thread.reset ∧ (getCore v c).acc = [] ∧
          ∀ i, i < storeSize → memGet v.mem (storeBase c + i) = 0)) ∧
  (∀ cores, asks d n opDisbandParty 3 disbandBad .none noArgs m0 → partyBusy d party = false → partyCores d party = some cores →
    partyItins d party itinLive = true → exec (.disbandParty n) s = .next (s.withDie (answer d n m stBusy 0 []))) ∧
  (∀ (cores : BitVec 512) (c : CoreId), asks d n opDisbandParty 3 disbandBad .none noArgs m0 → partyBusy d party = false →
    partyCores d party = some cores → partyItins d party itinLive = false → cores.getLsbD c.toNat = true → epochWaits d c = true →
    exec (.disbandParty n) s = .next s) ∧
  (∀ cores, let k := msgLE m 0x14 2
    let bytes := argRead d (msgLE m 0x18 8) (8 * k)
    let named := if mask = 0 then cores else mask
    asks d n opLoadProgram 80 loadBad .none loadArgs m0 → partyBusy d party = false →
    partyCores d party = some cores → named &&& ~~~cores = 0 →
    d.stew.itins.any (fun i => i.state == .running && (hereCores d i).any (fun e => named.getLsbD e.core.toNat)) = false →
    ∃ v : Die, exec (.loadProgram n) s = .next (s.withDie (answer v n m stOk 0 [])) ∧
      v = { drew (argSense (msgLE m 0x18 8) (8 * k) d) with cores := v.cores } ∧
      ∀ c : CoreId, (named.getLsbD c.toNat = false → getCore v c = getCore d c) ∧
        (named.getLsbD c.toNat = true →
          (∀ i, i < k → tabGet 0 (getCore v c).pmem (msgLE m 0x12 2 + i) = BitVec.ofNat 64 (deLE bytes (8 * i) 8) ∧
            msgLE m 0x12 2 + i ∉ (getCore v c).pmemBad) ∧
          (∀ j, j < msgLE m 0x12 2 ∨ msgLE m 0x12 2 + k ≤ j → tabGet 0 (getCore v c).pmem j = tabGet 0 (getCore d c).pmem j)))

/-- R110, R111, R275: SAVE_CONTEXT writes each core's image and leaves its array; RESTORE_CONTEXT loads a good image, and clears the array
of a core whose image fails and answers RESTORE_FAILED with that core. -/
def Obligations.ArrayImages : Prop := ∀ (s : State) (n : Nat) (m0 : Msg) (c : CoreId),
  let d := s.die
  let m := clip m0
  let a := msgLE m 0x18 8
  let image := argRead d a imageSize
  (∀ cs, asks d n opSaveContext 16 imageBad .none (imageArgs true) m0 → partyBusy d (msgLE m 0x10 2) = false → imageStart m d = .inr (some cs) →
    ∃ v : Die, exec (.saveContext n) s = .next (s.withDie (answer v n m stOk 0 (leBytes 2 cs.length))) ∧
      ∀ k, imageOf (getCore v k) = imageOf (getCore d k)) ∧
  (asks d n opSaveContext 16 imageBad .none (imageArgs true) m0 → partyBusy d (msgLE m 0x10 2) = false → imageStart m d = .inr (some [c]) →
    (getCore d c).t0.itin = none → (getCore d c).t1.itin = none → ownOffset d a = none →
    exec (.saveContext n) s = .next (s.withDie (answer
      { d with pkg := memWrite d.pkg a (imageOf (getCore d c)), freeCtr := d.freeCtr + 1 } n m stOk 0 (leBytes 2 1)))) ∧
  (∀ cs, asks d n opRestoreContext 16 imageBad .none (imageArgs false) m0 → partyBusy d (msgLE m 0x10 2) = false → imageStart m d = .inr (some cs) →
    ∃ (v : Die) (st det : Nat) (p : List Byte), exec (.restoreContext n) s = .next (s.withDie (answer v n m st det p)) ∧
      v.mem = d.mem ∧ v.pkg = d.pkg ∧ v.freeCtr = d.freeCtr + 1 ∧ (st = stOk ∨ st = stRestoreFailed) ∧
      (∀ k, k ∉ cs → getCore v k = getCore d k) ∧
      ((∀ i, i < cs.length → ownOffset d (a + imageSize * i) = none ∧ imageOk (argRead d (a + imageSize * i) imageSize) = true) →
        st = stOk)) ∧
  (asks d n opRestoreContext 16 imageBad .none (imageArgs false) m0 → partyBusy d (msgLE m 0x10 2) = false → imageStart m d = .inr (some [c]) →
    imageOk image = true →
    exec (.restoreContext n) s = .next (s.withDie (answer
      (drew (modCore (argSense a imageSize d) c (restoreCore (fun o => (argRead d (a + o) 1).headD 0)))) n m stOk 0 (leBytes 2 1)))) ∧
  (asks d n opRestoreContext 16 imageBad .none (imageArgs false) m0 → partyBusy d (msgLE m 0x10 2) = false → imageStart m d = .inr (some [c]) →
    imageOk image = false →
    exec (.restoreContext n) s = .next (s.withDie (answer (drew (modCore (argSense a imageSize d) c clearedCore)) n m stRestoreFailed c.toNat []))) ∧
  (∀ (x : Core) (rd : Nat → Byte), (restoreCore rd x).cold0 = true ∧ (restoreCore rd x).cold1 = true ∧
    (restoreCore rd x).accCfg = BitVec.ofNat 32 (leNat ((List.range 4).map (fun i => rd (4 + i)))) ∧
    (∀ k, k < 128 → tabGet 0 (restoreCore rd x).partials k =
      BitVec.ofNat 128 (leNat ((List.range 16).map (fun i => rd (0x200 + 16 * k + i))))) ∧
    (restoreCore rd x).pmem = x.pmem ∧ (restoreCore rd x).t0 = x.t0)

/-! ### Itineraries (R185 to R188, R276 to R286) -/

/-- R276, R278, R283, R285: SUBMIT queues a sound itinerary of this die and answers ACCEPTED with its ID, and a faulty descriptor is answered
with its lowest faulty byte; one that names other dies is looked at by their Stewards first. ABORT ends a live itinerary with REASON 0x80,
once the other dies that hold it have stopped, and reports one that has ended; QUERY_PROGRESS reports. -/
def Obligations.ItineraryMessages : Prop := ∀ (s : State) (n : Nat) (m0 : Msg) (i : Itin),
  let d := s.die
  let m := clip m0
  let len := msgLE m 0x18 4
  let l := argRead d (msgLE m 0x10 8) len
  let r := argSense (msgLE m 0x10 8) len d
  let id : BitVec 32 := BitVec.ofNat 32 (d.ident.dieNum.toNat * 2 ^ 30 + d.stew.serial.toNat + 1)
  let made : Itin := { (parseItin d l id m.src (eventDst m) (BitVec.ofNat 16 (msgSeq m)) (BitVec.ofNat 32 (msgCtx m))) with
    submitNo := m.no, desc := BitVec.ofNat 64 (msgLE m 0x10 8) }
  let submitted : Prop := asks d n opSubmit 12 submitBad .optional submitArgs m0 ∧ foreignDenied d m made = false
  (submitted → itinPeers d made = [] →
    descFlaws r (msgCtx m) l = [] → regsReadable r l = true → regDetail r l = none → tallyBusy r made = none →
    (waitingOn r (queueKey made)).length < 16 → r.stew.serial ≠ BitVec.allOnes 30 →
    made.state = .queued ∧ made.id = id ∧
    exec (.submit n) s = .next (s.withDie (answer { r with
      freeCtr := r.freeCtr + 1, stew := { r.stew with serial := r.stew.serial + 1, itins := r.stew.itins ++ [made] } }
      n m stAccepted 0 (leBytes 4 id.toNat ++ leBytes 4 0)))) ∧
  (∀ o, submitted → itinPeers d made = [] → o ∈ descFlaws r (msgCtx m) l → (∀ o' ∈ descFlaws r (msgCtx m) l, o ≤ o') →
    exec (.submit n) s = .next (s.withDie (answer (drew r) n m stBadDescriptor o []))) ∧
  (submitted → itinPeers d made ≠ [] → d.stew.asks.find? (fun a => a.no == m.no) = none →
    (itinPeers d made).any (fun p => d.link.fenced.getLsbD p.toNat) = false →
    ∃ u : Die, exec (.submit n) s = .next (s.withDie u) ∧ u.stew.asks = d.stew.asks ++ [⟨m.no, itinPeers d made, none, none⟩] ∧
      u.stew.requests = d.stew.requests ∧ u.stew.itins = d.stew.itins) ∧
  (asks d n opAbort 4 (fun _ => []) .optional noArgs m0 → ownItin d m = none →
    exec (.abort n) s = .next (s.withDie (answer d n m stNoItinerary 0 []))) ∧
  (asks d n opAbort 4 (fun _ => []) .optional noArgs m0 → ownItin d m = some i → i.state = .complete →
    exec (.abort n) s = .next (s.withDie (answer d n m stAlreadyComplete 0 (progress i)))) ∧
  (asks d n opAbort 4 (fun _ => []) .optional noArgs m0 → ownItin d m = some i → itinLive i = true → i.stopping = false →
    livePeers d i = [] →
    ∃ (v : Die) (j : Itin), exec (.abort n) s = .next (s.withDie (answer v n m stAborted 0 (progress j))) ∧
      findItin v i.id = some j ∧ j.state = .aborted ∧ j.reason = 0x80) ∧
  (asks d n opAbort 4 (fun _ => []) .optional noArgs m0 → ownItin d m = some i → i.state = .running → i.stopping = false →
    livePeers d i ≠ [] →
    ∃ (u : Die) (j : Itin), exec (.abort n) s = .next (s.withDie u) ∧ findItin u i.id = some j ∧ j.stopping = true ∧
      j.asked = livePeers d i ∧ j.state = .running ∧ j.reason = 0x80 ∧ u.stew.requests = d.stew.requests) ∧
  (asks d n opQueryProgress 4 (fun _ => []) .optional noArgs m0 → ownItin d m = none →
    exec (.queryProgress n) s = .next (s.withDie (answer d n m stNoItinerary 0 []))) ∧
  (asks d n opQueryProgress 4 (fun _ => []) .optional noArgs m0 → ownItin d m = some i →
    exec (.queryProgress n) s = .next (s.withDie (answer (if i.state = .running then writeMap d i else d) n m stOk 0 (progress i))))

/-- R278 to R280, R185, R186: an itinerary at the head of its queue whose cores are free and whose store fits becomes RUNNING, sets the phase
tag and starts a thread at PC on each core of it; where other dies hold cores of it, they are asked to reserve first and nothing starts
before they have. One whose store cannot be reserved is REFUSED with REASON 0x82, the core and the bytes short.

R187, R188, R281 to R283, R286: an itinerary whose threads have all halted is COMPLETE; one with a fault noted, or past its TIME_LIMIT,
is ABORTED, once the other dies that hold it have stopped; each commits its record and posts its completion event; an aborted one whose links
agree settles and gives its store back. -/
def Obligations.ItinerariesRun : Prop :=
  (∀ (s : State) (id : BitVec 32) (i : Itin),
  let d := s.die
  let head : Prop := findItin d id = some i ∧ i.state = .queued ∧ homeDie id = d.ident.dieNum ∧ i.asked = [] ∧
    (waitingOn d (queueKey i)).head?.map (·.id) = some id ∧ (itinPeers d i).any (fun p => d.link.fenced.getLsbD p.toNat) = false
  let waits : Prop := head ∧ i.replies = [] ∧ blockers d i = false ∧ (hereCores d i).all (entryFits d) = true ∧
    berthMoving d i = false ∧ partyBusy d (i.parties.getD d.ident.dieNum.toNat 0).toNat = false
  let apart (a b : ItinCore) : Prop := a.core ≠ b.core ∨ (a.half = .h0 ∧ b.half = .h1) ∨ (a.half = .h1 ∧ b.half = .h0)
  let refused (c : BitVec 16) (k : Nat) : Prop :=
    ∃ (u : Die) (j : Itin), exec (.itineraryAdmit id (queueKey i).2) s = .next (s.withDie u) ∧ findItin u id = some j ∧ j.state = .refused ∧
      j.reason = 0x82 ∧ j.faultCore = c ∧ j.faultDetail = BitVec.ofNat 32 k ∧ ∀ k t, threadAt u k t = threadAt d k t
  (waits → shortfall d i = none → itinPeers d i = [] → (hereCores d i).Pairwise apart →
    ∃ u : Die, exec (.itineraryAdmit id (queueKey i).2) s = .next (s.withDie u) ∧
      findItin u id = some { i with state := .running, admitted := some d.power.refCnt, asked := [], replies := [] } ∧
      u.power.phase = i.phase ∧
      ∀ e ∈ hereCores d i, let th := threadAt u e.core (e.half == .h1)
        th.run = .running ∧ th.pc = e.pc.toNat ∧ th.itin = some id ∧ th.loops = [] ∧ th.preds = Thread.reset.preds) ∧
  (waits → shortfall d i = none → itinPeers d i ≠ [] →
    ∃ u : Die, exec (.itineraryAdmit id (queueKey i).2) s = .next (s.withDie u) ∧ findItin u id = some { i with asked := itinPeers d i } ∧
      u.mem = d.mem ∧ ∀ k t, threadAt u k t = threadAt d k t) ∧
  (head → i.replies ≠ [] → (∀ r ∈ i.replies, ∃ k, r.2 = .reserveOk k) →
    exec (.itineraryAdmit id (queueKey i).2) s = .next (s.withDie (startItin i d))) ∧
  (∀ c k, waits → shortfall d i = some (c, k) → refused (corePlace d c) k) ∧
  (∀ c k, head → i.replies ≠ [] → refusal i = some (c, k) → refused c k) ∧
  (∀ q, (∀ j, findItin d id = some j → (queueKey j).2 ≠ q) → exec (.itineraryAdmit id q) s = .next s)) ∧
  (∀ (s : State) (id : BitVec 32) (i : Itin),
  let d := s.die
  let ended (c : Instr) (st : ItinState) (reason : BitVec 8) : Prop :=
    ∃ (u : Die) (j : Itin) (e : Event), exec c s = .next (s.withDie u) ∧ findItin u id = some j ∧ j.state = st ∧ j.reason = reason ∧
      u.stew.events.getLast? = some e ∧ e.kind = 0x0000 ∧ e.seq = i.seq ∧ e.context = i.context ∧ e.dst = i.pair ∧
      (ownOffset d i.record.toNat = none → memRead u.pkg i.record.toNat 8 = commitWord j)
  let stops (c : Instr) (reason : BitVec 8) : Prop :=
    ∃ (u : Die) (j : Itin), exec c s = .next (s.withDie u) ∧ findItin u id = some j ∧ j.state = .running ∧ j.reason = reason ∧
      j.stopping = true ∧ j.asked = livePeers d i ∧ ∀ p ∈ itinThreads d i, (threadAt u p.1 p.2).run ≠ .running
  let home : Prop := findItin d id = some i ∧ i.state = .running ∧ homeDie id = d.ident.dieNum ∧ i.stopping = false
  let late := if i.reason = 0 then 0x81 else i.reason
  (home → i.reason = 0 → allHalted i = true → ended (.itineraryComplete id) .complete 0) ∧
  (home → i.reason ≠ 0 → livePeers d i = [] → ended (.itineraryAbort id) .aborted i.reason) ∧
  (home → i.reason ≠ 0 → livePeers d i ≠ [] → stops (.itineraryAbort id) i.reason) ∧
  (home → i.timeLimit ≠ 0 → livePeers d i = [] → ended (.timeLimit id) .aborted late) ∧
  (home → i.timeLimit ≠ 0 → livePeers d i ≠ [] → stops (.timeLimit id) late) ∧
  (∀ p, findItin d id = some i → i.state = .running → homeDie id ≠ d.ident.dieNum →
    (itinThreads d i).find? (fun p => (threadAt d p.1 p.2).run == .faulted) = some p →
    ∃ (u : Die) (j : Itin), exec (.itineraryAbort id) s = .next (s.withDie u) ∧ findItin u id = some j ∧ j.state = .aborted) ∧
  (findItin d id = some i → i.state = .aborted → i.settled = false → linksAgree d i = true →
    ∃ u : Die, exec (.abortLinksSettled id) s = .next (s.withDie u) ∧ findItin u id = some { i with settled := true } ∧
      (∀ c ∈ hereIds d i, (∀ p ∈ (getCore u c).reserved, p.1 ≠ id) ∧ ∀ y ∈ (getCore u c).members, y.itin ≠ id) ∧
      (∀ h ∈ u.ledger.holds, ¬ (h.itin = id ∧ h.waybill = none)) ∧ u.mem = d.mem ∧ u.pkg = d.pkg))

/-! ### Berth and service messages (R287 to R291, R369 to R373, R411 to R416) -/

/-- R213, R220, R287, R288: BERTH_ALLOC gives every berth of its range a VALID entry in the tier or changes nothing; BERTH_FREE makes every
entry FREE; BERTH_MOVE starts a move for each berth and answers when they have ended; LEDGER_QUERY returns the committed entries. -/
def Obligations.BerthMessages : Prop := ∀ (s : State) (n : Nat) (m0 : Msg) (e : BitVec 128),
  let d := s.die
  let m := clip m0
  let bs := namedBerths m e
  let ctx : BitVec 24 := BitVec.ofNat 24 (msgCtx m)
  let alloc : Prop := asks d n opBerthAlloc 14 allocBad .berths noArgs m0 ∧ liveCtx d (msgCtx m) = some e ∧ rangeBad m e = none ∧
    (∀ p ∈ bs, uncommitted d p.2 = false ∧ entState (pkg128 d p.2) ≠ stValid ∧ entState (pkg128 d p.2) ≠ stMoving ∧
      ¬ (entState (pkg128 d p.2) = stLost ∧ moving d p.2 = true)) ∧
    (msgByte m 0x18 = 0 → (askedCore d m).isSome = true)
  (∀ v, alloc → allocAll m ((askedCore d m).getD none) 0 bs d = some v →
    exec (.berthAlloc n) s = .next (s.withDie (answer (drew v) n m stOk 0 (leBytes 4 bs.length))) ∧ v.mem = d.mem ∧ v.cores = d.cores ∧
    ∀ p ∈ bs, entTier (pkg128 v p.2) = msgByte m 0x18 ∧ entState (pkg128 v p.2) = stValid ∧ entClass (pkg128 v p.2) = msgByte m 0x19 ∧
      entOldf (pkg128 v p.2) = false ∧ entAge (pkg128 v p.2) = entAge (pkg128 d p.2)) ∧
  (alloc → allocAll m ((askedCore d m).getD none) 0 bs d = none →
    exec (.berthAlloc n) s = .next (s.withDie (answer (drew d) n m stNoSpace 0 []))) ∧
  (asks d n opBerthFree 8 (fun _ => []) .berths noArgs m0 → liveCtx d (msgCtx m) = some e → rangeBad m e = none → bs.any (freeWaits d) = false →
    ∃ v : Die, exec (.berthFree n) s = .next (s.withDie (answer v n m stOk 0
        (leBytes 4 (bs.filter (fun p => entState (pkg128 d p.2) != stFree)).length))) ∧
      v.mem = d.mem ∧ v.cores = d.cores ∧ ∀ p ∈ bs, entState (pkg128 v p.2) = stFree) ∧
  (asks d n opBerthFree 8 (fun _ => []) .berths noArgs m0 → liveCtx d (msgCtx m) = some e → rangeBad m e = none → bs.any (freeWaits d) = true →
    exec (.berthFree n) s = .next s) ∧
  (∀ core, asks d n opBerthMove 14 moveBad .berths noArgs m0 → liveCtx d (msgCtx m) = some e → rangeBad m e = none →
    d.ledger.jobs.any (fun j => j.ctx == ctx) = false → countIdx m ≠ 0 → askedCore d m = some core →
    ∃ v : Die, exec (.berthMove n) s = .next (s.withDie v) ∧ v.stew = d.stew ∧ v.pkg = d.pkg ∧
      v.ledger.jobs = d.ledger.jobs ++ [⟨ctx, false, bs.map (fun p => handleIdx p.1), 0, []⟩] ∧
      v.ledger.moves.length = d.ledger.moves.length + countIdx m ∧ v.ledger.moves.take d.ledger.moves.length = d.ledger.moves ∧
      ∀ x ∈ v.ledger.moves.drop d.ledger.moves.length, x.phase = 0 ∧ x.placed = false ∧ x.job = true ∧
        x.target = BitVec.ofNat 2 (msgByte m 0x18) ∧ (x.handle, x.addr) ∈ bs) ∧
  (asks d n opLedgerQuery 16 queryBad .berths queryArgs m0 → liveCtx d (msgCtx m) = some e → rangeBad m e = none → msgLE m 0x18 8 = 0 →
    (∀ p ∈ bs, uncommitted d p.2 = false) →
    exec (.ledgerQuery n) s = .next (s.withDie (answer (drew d) n m stOk 0
      (leBytes 4 (countIdx m) ++ leBytes 12 0 ++ bs.flatMap (fun p => leBytes 16 (pkg128 d p.2).toNat)))))

/-- R289, R290, R291, R369, R373: SET_PHASE_OP stores the preference clamped to MAX_OP; POWER_STATUS reports; TALLY adds, sets or reads one
count and returns the count before; CAL_READ copies a section out and CAL_WRITE replaces it with a good CRC; DIAG ECHO returns bytes. -/
def Obligations.ServiceMessages : Prop := ∀ (s : State) (n : Nat) (m0 : Msg),
  let d := s.die
  let m := clip m0
  let index : BitVec 16 := BitVec.ofNat 16 (msgLE m 0x12 2)
  let value : BitVec 32 := BitVec.ofNat 32 (msgLE m 0x14 4)
  let old := tallyCount d index
  let sec := msgByte m 0x10
  let tally (i : Instr) (count : BitVec 32) : Prop := asks d n opTally 8 tallyBad .none noArgs m0 →
    ∃ v : Die, exec i s = .next (s.withDie (answer v n m stOk 0 (leBytes 4 old.toNat))) ∧ tallyCount v index = count ∧
      (∀ j, j ≠ index → tallyCount v j = tallyCount d j) ∧ v.mem = d.mem ∧ v.pkg = d.pkg ∧ v.cores = d.cores
  (asks d n opSetPhaseOp 2 phaseOpBad .none noArgs m0 →
    ∃ v : Die, exec (.setPhaseOp n) s = .next (s.withDie (answer v n m stOk 0
        [BitVec.ofNat 8 (min (msgByte m 0x11) d.power.maxOp.toNat)])) ∧
      v = { d with power := { d.power with pref := v.power.pref } } ∧
      prefOf v (msgByte m 0x10) = min (msgByte m 0x11) d.power.maxOp.toNat ∧
      ∀ t, t < 8 → t ≠ msgByte m 0x10 → prefOf v t = prefOf d t) ∧
  (asks d n opPowerStatus 0 (fun _ => []) .none noArgs m0 →
    exec (.powerStatus n) s = .next (s.withDie (answer d n m stOk 0 (powerPayload d)))) ∧
  (tallySub m = 0 → tally (.tallyMsgAdd n) (old + value)) ∧ (tallySub m = 1 → tally (.tallyMsgSet n) value) ∧
  (tallySub m = 2 → tally (.tallyMsgRead n) old) ∧
  (let k := calReadLen d m
   asks d n opCalRead 16 calBad .none calReadArgs m0 →
    exec (.calRead n) s = .next (s.withDie (answer (argWrite (drew d) (msgLE m 0x18 8) (memRead d.flash (secOff sec) k)) n m
      (if secCheck d sec then stOk else stCalCrc) 0 (leBytes 4 (secLen d sec) ++ leBytes 4 (secCrc d sec))))) ∧
  (let k := msgLE m 0x14 4
   asks d n opCalWrite 16 calWriteBad .none calWriteArgs m0 → recordOk d = true →
    ∃ v : Die, exec (.calWrite n) s = .next (s.withDie (answer v n m stOk 0 [])) ∧ secLen v sec = k ∧
      memRead v.flash (secOff sec) k = argRead d (msgLE m 0x18 8) k ∧ secCheck v sec = true ∧ v.mem = d.mem ∧ v.pkg = d.pkg ∧
      calLE v (0x18 + 16 * sec) 4 = (calLE d (0x18 + 16 * sec) 4 + 1) % 2 ^ 32) ∧
  (diagSub m = 0 → asks d n opDiag 16 diagBad .none noArgs m0 →
    exec (.diagEcho n) s = .next (s.withDie (answer d n m stOk 0 (List.replicate 16 0 ++ m.bytes.drop 0x20))))

/-- R411 to R416: a snapshot copies each class's counts and its live count at one time; the checks compare ISSUED − RETURNED − LIVE and set
IMBAL where it is not 0; DIAG COUNTERS checks every class before it writes them; DIAG LOG writes the fault log, oldest first. -/
def Obligations.ConservationCounts : Prop := ∀ (s : State) (n : Nat) (m0 : Msg) (quiet : Bool),
  let d := s.die
  let m := clip m0
  let taken (u : Die) (c : Nat) : Prop := tabGet 0 u.flt.snapIssued c = tabGet 0 d.flt.issued c ∧
    tabGet 0 u.flt.snapReturned c = tabGet 0 d.flt.returned c ∧ tabGet 0 u.flt.snapLive c = BitVec.ofNat 64 (liveOf d c)
  let checked (u : Die) (cs : List Nat) : Prop :=
    (∀ c ∈ cs, taken u c ∧ (u.flt.imbal.getLsbD c = true ↔ (d.flt.imbal.getLsbD c = true ∨ consGap u c ≠ 0))) ∧
    (∀ c, c ∉ cs → tabGet 0 u.flt.snapLive c = tabGet 0 d.flt.snapLive c ∧ u.flt.imbal.getLsbD c = d.flt.imbal.getLsbD c) ∧
    u.mem = d.mem ∧ u.cores = d.cores ∧ u.flt.issued = d.flt.issued ∧
    ((∀ c ∈ cs, consGap u c = 0) → u.stew = d.stew ∧ u.flt.log = d.flt.log)
  (inReset d = false →
    ∃ u : Die, exec .dieConsSnap s = .next (s.withDie u) ∧ (∀ c, c < 6 → taken u c) ∧ u = { d with flt := u.flt } ∧
      u.flt.issued = d.flt.issued ∧ u.flt.imbal = d.flt.imbal) ∧
  (stewardUp d = true → (quiet = true → dieQuiet d = true) →
    ∃ u : Die, exec (.conservationCheck quiet) s = .next (s.withDie u) ∧ checked u (if quiet then stewClasses else hardClasses)) ∧
  (diagSub m = 1 → asks d n opDiag 16 diagBad .none countersArgs m0 →
    ∃ (v : Die) (l : List Byte), exec (.diagCounters n) s =
        .next (s.withDie (answer (argWrite (drew v) (msgLE m 0x18 8) l) n m stOk 0 (leBytes 4 l.length))) ∧
      checked v (hardClasses ++ stewClasses) ∧ l = counterBytes v) ∧
  (diagSub m = 2 → asks d n opDiag 16 diagBad .none logArgs m0 →
    exec (.diagLog n) s = .next (s.withDie (answer (argWrite (drew d) (msgLE m 0x18 8) d.flt.log.flatten) n m stOk 0
      (leBytes 4 d.flt.log.flatten.length))))

/-! ### Requests from outside, responses, mesh packets (R11 to R16, R196, R233, R242, R243, R306) -/

/-- R13, R14, R196, R201, R242, R261, R306: an admitted request is answered OK with its bytes or writes exactly its bytes; a refused one
is counted, answered REFUSED with zeros and changes no memory; one to a core in reset is answered ERROR and its packet counted as refused;
a read of an uncorrectable row answers status 3; a write to a pigeonhole the
Steward holds changes nothing; a response frees its tag and reaches the line or write that waits. -/
def Obligations.HubRequestsAnswered : Prop := ∀ (s : State) (r : HubReq) (data : BitVec 1024) (o : Nat),
  let d := s.die
  let lo := r.addr.toNat % 128
  let n := r.len.toNat
  let carried : Prop := lineOk r = true ∧ gateCarries d r.gate = true ∧ ownOffset d r.addr.toNat = some o
  let denied (w : Bool) : Option Nat := deny d r.src w [(o, n)]
  let open_ (w : Bool) : Prop := carried ∧ portRefuses d o = none ∧ denied w = none
  let read (st : BitVec 3) (e : Die) (x : BitVec 1024) : Prop :=
    exec (.hubReadRequest r) s = .next (s.withDie (drew (emitResponse (served e) r.gate r.addr.toNat (.response r.gate r.tag st (some x)) 2)))
  let wrote (st : BitVec 3) (e : Die) : Prop :=
    exec (.hubWriteRequest r data) s = .next (s.withDie (emitResponse (served e) r.gate r.addr.toNat (.response r.gate r.tag st none) 1))
  let refused (e : Die) : Prop := e.mem = d.mem ∧ e.pkg = d.pkg ∧ e.cores = d.cores ∧ e.ident.refuseCnt = satInc d.ident.refuseCnt
  (∀ c x, open_ false → slotOfOffset d o = some (c, true, x) → ueIn d c x n = none →
    ∃ (e : Die) (v : BitVec 1024), read 0 e v ∧ e.mem = d.mem ∧ e.cores = d.cores ∧
      ∀ i, i < n → v.extractLsb' (8 * (lo + i)) 8 = memGet d.mem (o + i)) ∧
  (∀ c x k, open_ false → slotOfOffset d o = some (c, true, x) → ueIn d c x n = some k →
    ∃ e : Die, read 3 e 0 ∧ e.mem = d.mem) ∧
  (∀ c x, open_ false → slotOfOffset d o = some (c, false, x) →
    ∃ (e : Die) (v : BitVec 1024), read 0 e v ∧ e.mem = d.mem ∧ e.cores = d.cores ∧ e.lodge = d.lodge ∧
      ∀ i, i < n → v.extractLsb' (8 * (lo + i)) 8 = memGet d.mem (o + i)) ∧
  (∀ why, carried → denied false = some why → ∃ e : Die, read 2 e 0 ∧ refused e) ∧
  (∀ c x b, open_ true → slotOfOffset d o = some (c, b, x) →
    ∃ e : Die, wrote 0 e ∧ ElseSame d.mem e.mem o n ∧ e.pkg = d.pkg ∧ e.cores = d.cores ∧
      ∀ i, i < n → memGet e.mem (o + i) = data.extractLsb' (8 * (lo + i)) 8) ∧
  (∀ why, carried → denied true = some why → ∃ e : Die, wrote 2 e ∧ refused e) ∧
  (∀ c, carried → portRefuses d o = some c → denied false = none → ∃ e : Die, read 1 e 0 ∧ e.mem = d.mem ∧ e.cores = d.cores ∧
    e.mesh.resetCnt = satInc d.mesh.resetCnt) ∧
  (∀ c, carried → portRefuses d o = some c → denied true = none → ∃ e : Die, wrote 1 e ∧ e.mem = d.mem ∧ e.cores = d.cores ∧
    e.mesh.resetCnt = satInc d.mesh.resetCnt) ∧
  (∀ k, open_ true → regionOf d o = .pigeon k → owns d k = true →
    ∃ e : Die, wrote 0 e ∧ e.mem = d.mem ∧ e.stew = { d.stew with ownViol := satInc d.stew.ownViol }) ∧
  (lineOk r = false ∨ gateCarries d r.gate = false →
    exec (.hubReadRequest r) s = .next s ∧ exec (.hubWriteRequest r data) s = .next s) ∧
  (∀ win w, regionOf d o = .ssram → denyByte d r.src win w o = some rsClassDenied) ∧
  (∀ win w, regionOf d o = .unmapped → denyByte d r.src win w o = some rsUnmapped) ∧
  (∀ c x win, regionOf d o = .slice c x → denyByte d .host win true o = some rsClassDenied ∧ denyByte d .host win false o = none ∧
    (win.open_ = false → ∀ w, denyByte d .foreign win w o = some rsWindowDenied)) ∧
  (∀ t c tag st, d.link.tags.find? (fun t => t.gate == r.gate && t.tag == r.tag && t.write == false) = some t →
    t.who = .porterLine c tag → (d.link.atGate.all (fun q => q.gate != r.gate)) = true →
    ∃ u : Die, exec (.rspData r.gate r.tag st data) s = .next (s.withDie u) ∧ u.link.tags = d.link.tags.erase t ∧ u.mem = d.mem ∧
      ∀ y ∈ (getCore u c).lines, y.tag = tag → y.onDie = false → y.rsp = some (st.setWidth 8, if st = 0 then data else 0)) ∧
  (∀ t c tag st, d.link.tags.find? (fun t => t.gate == r.gate && t.tag == r.tag && t.write == true) = some t →
    t.who = .porterWrite c tag → (d.link.atGate.all (fun q => q.gate != r.gate)) = true →
    ∃ u : Die, exec (.rspAck r.gate r.tag st) s = .next (s.withDie u) ∧ u.link.tags = d.link.tags.erase t ∧ u.mem = d.mem ∧
      ∀ y ∈ (getCore u c).writes, y.tag = tag → y.onDie = false → y.rsp = some (st.setWidth 8))

/-- R233, R242, R243: a core's port delivers a packet of its own epoch, or refuses it, counted, with a NACK of party 0 to its source; a
RSP that nothing waits for is stale; a NACK completes a request as an error and counts a stale wake; a double-bit link error is
die-fatal. -/
def Obligations.MeshPacketsDelivered : Prop := ∀ (s : State) (p : Packet),
  let d := s.die
  let c := endpointCore p.dest
  let core : Prop := p.dest.toNat % 8 = 0 ∧ ¬ (p.cls = 2 ∧ p.typ = tyBroadcast)
  let nacked (reason : Nat) (u : Die) : Prop := ∃ q : Packet, u.out = d.out ++ [.packet q] ∧ q.cls = 3 ∧ q.typ = 6 ∧ q.lenm1 = 0 ∧ q.dest = p.src ∧
    q.src = p.dest ∧ q.party = 0 ∧ q.epoch = 0 ∧ q.tag = p.tag ∧ fld q.arg 62 2 = reason ∧ fld q.arg 60 2 = p.cls.toNat ∧
    fld q.arg 56 4 = p.typ.toNat ∧ fld q.arg 47 9 = p.tag.toNat ∧ fld q.arg 0 47 = p.arg.toNat % 2 ^ 47
  (core → (getCore d c).portReset = true → p.cls ≠ 2 →
    ∃ u : Die, exec (.meshPacketDelivery p) s = .next (s.withDie u) ∧ nacked 0 u ∧ u.mesh.resetCnt = satInc d.mesh.resetCnt ∧
      u.mesh.staleCnt = d.mesh.staleCnt ∧ u.cores = d.cores ∧ u.mem = d.mem) ∧
  (core → (getCore d c).portReset = false → p.cls = 1 → hasReq (getCore d c) p.tag = false →
    ∃ u : Die, exec (.meshPacketDelivery p) s = .next (s.withDie u) ∧ nacked 1 u ∧ u.mesh.staleCnt = satInc d.mesh.staleCnt ∧
      u.cores = d.cores ∧ u.mem = d.mem) ∧
  (core → (getCore d c).portReset = false → p.cls = 1 → p.typ = 0 → hasReq (getCore d c) p.tag = true →
    ∃ u : Die, exec (.meshPacketDelivery p) s = .next (s.withDie u) ∧ u.out = d.out ∧ u.mem = d.mem ∧
      (∀ y ∈ (getCore u c).lines, y.tag = p.tag → y.rsp = some (0, p.data)) ∧ (getCore u c).writes = (getCore d c).writes) ∧
  (core → p.cls = 2 → portCheck d c p.party p.epoch = none →
    exec (.meshPacketDelivery p) s = .next (s.withDie (cons (linkErrors d) 3 1 1))) ∧
  (core → p.cls = 3 → ∀ k, portCheck d c p.party p.epoch = some k →
    ∃ u : Die, exec (.meshPacketDelivery p) s = .next (s.withDie u) ∧ nacked k u ∧ u.cores = d.cores ∧ u.mem = d.mem ∧
      u.mesh.staleCnt = (if k = 1 then satInc d.mesh.staleCnt else d.mesh.staleCnt)) ∧
  (p.dest.toNat % 8 = 0 → p.cls = 2 → p.typ = tyBroadcast →
    exec (.meshPacketDelivery p) s = .next (s.withDie (cons (linkErrors d) 3 (p.lenm1.toNat + 1) (p.lenm1.toNat + 1)))) ∧
  (core → p.cls = 0 → p.typ.toNat < 2 → (getCore d c).portReset = false →
    ∃ (u : Die) (q : Packet), exec (.meshPacketDelivery p) s = .next (s.withDie u) ∧ u.out.getLast? = some (.packet q) ∧ q.cls = 1 ∧
      q.dest = p.src ∧ q.tag = p.tag ∧ (p.typ = 0 → u.mem = d.mem)) ∧
  (p.dest.toNat % 8 = 0 → fld p.arg 60 2 = 0 →
    ∃ u : Die, exec (.nackReceipt p) s = .next (s.withDie u) ∧ u.mem = d.mem ∧ u.out = d.out ∧
      (if fld p.arg 56 4 = 0 then ∀ y ∈ (getCore u c).lines, y.tag = p.arg.extractLsb' 47 9 → ∃ v, y.rsp = some (1, v)
       else (getCore u c).lines = (getCore d c).lines) ∧
      (if fld p.arg 56 4 = 1 then ∀ y ∈ (getCore u c).writes, y.tag = p.arg.extractLsb' 47 9 → y.rsp = some 1
       else (getCore u c).writes = (getCore d c).writes)) ∧
  (p.dest.toNat % 8 = 2 → fld p.arg 60 2 = 3 → fld p.arg 56 4 = 4 →
    exec (.nackReceipt p) s = .next (s.withDie { d with ledger := { d.ledger with
      waiting := d.ledger.waiting.filter (fun w => !(w.core == endpointCore p.src && w.tag == p.arg.extractLsb' 47 9)) } })) ∧
  (∀ q : BitVec 2, p.dest = tallyEndpoint q → fld p.arg 60 2 = 3 → fld p.arg 56 4 = 1 →
    ∃ u : Die, exec (.nackReceipt p) s = .next (s.withDie u) ∧
      tabGet 0 u.tally.staleWakes q.toNat = satInc (tabGet 0 d.tally.staleWakes q.toNat) ∧ u.cores = d.cores ∧ u.mem = d.mem) ∧
  (inReset d = false →
    ∃ u : Die, exec .meshUe s = .next (s.withDie u) ∧ u.flt.fatalValid = true ∧ u.flt.fatalCause = 0x04 ∧ u.boot.step = 1 ∧
      u.cores = []) ∧
  (inReset d = true → exec .meshUe s = .next s)

/-! ### Faults of parties, the die and the package (R401 to R410) -/

/-- R402, R407, R410, R197: a die-fatal fault is recorded and reported and a WARM boot begins with Lodge content kept and core stores at 0;
clock loss and a thermal trip hold the die; a package-fatal fault holds it until PORST_N; a fault of a die already held is absorbed. -/
def Obligations.FatalFaultsReset : Prop := ∀ (s : State) (cause : BitVec 8),
  let d := s.die
  let quiet : Prop := d.ledger.writes = [] ∧ openWrites d = [] ∧ d.fuse.event = none
  let noted (u : Die) (c : BitVec 8) : Prop := u.flt.fatalValid = true ∧ u.flt.fatalCause = c ∧
    u.flt.fatalCount = satInc d.flt.fatalCount ∧ u.flt.fatalEpoch = d.ledger.epoch ∧ u.cores = [] ∧ u.link.alert = true ∧
    u.stew.requests = [] ∧ u.fuse.otp = d.fuse.otp ∧ u.pkg = d.pkg ∧ u.ledger.epoch = d.ledger.epoch
  let warm (u : Die) (c : BitVec 8) (alertCause : BitVec 8) : Prop := noted u c ∧ u.boot.step = 1 ∧ inReset u = false ∧
    u.boot.kind = (if d.boot.boots = 0 then kindPowerup else kindWarm) ∧ u.lodge.contentLost = d.lodge.contentLost ∧
    u.lodge.remap = d.lodge.remap ∧ (∃ f ∈ u.link.frames, f.cmd = sbAlert ∧ f.arg = alertCause) ∧
    (∀ a, a < 0x80000000 → memGet u.mem a = memGet d.mem a) ∧ (∀ a, 0x80000000 ≤ a → a < 0x4000000000 → memGet u.mem a = 0)
  (quiet → inReset d = false → 2 ≤ cause.toNat → cause.toNat ≤ 7 →
    ∃ u : Die, exec (.dieFatal cause) s = .next (s.withDie u) ∧ warm u cause (if cause = 3 then 2 else 3)) ∧
  (quiet → inReset d = false → d.trust.khfwUp = true → 9 ≤ d.boot.step.toNat → d.boot.step.toNat ≤ 11 →
    ∃ u : Die, exec .stewardHang s = .next (s.withDie u) ∧ warm u 7 3 ∧
      (d.trust.heartbeat + 10 ^ 7 ≤ 2 ^ 63 → d.trust.heartbeat + 10 ^ 7 ≤ u.power.refCnt.toNat)) ∧
  (inReset d = false → d.trust.khfwUp = true → 9 ≤ d.boot.step.toNat → d.boot.step.toNat ≤ 11 →
    exec .stewardHeartbeat s = .next (s.withDie { d with trust := { d.trust with heartbeat := d.power.refCnt.toNat } })) ∧
  (quiet → inReset d = false →
    ∃ u : Die, exec (.dieFatal 1) s = .next (s.withDie u) ∧ noted u 1 ∧ inReset u = true ∧ bitB u.boot.held 0 = true ∧
      u.lodge.contentLost = true ∧ u.power.clkLost = true ∧ u.ledger.gap = true ∧ u.power.lpllLock = false ∧ u.mem = []) ∧
  (∀ sensor, sensorOk sensor = true → quiet → inReset d = false →
    ∃ u : Die, exec (.thermalTrip sensor) s = .next (s.withDie u) ∧ noted u 8 ∧ inReset u = true ∧ bitB u.boot.held 1 = true ∧
      u.power.thermtrip = true ∧ u.power.tripped = true ∧ u.power.trips = satInc d.power.trips ∧
      u.lodge.contentLost = d.lodge.contentLost ∧ u.lodge.interval = 3) ∧
  (quiet → d.boot.porst = false → bitB d.boot.held 2 = false →
    ∃ u : Die, exec .packageFatalSignal s = .next (s.withDie u) ∧ noted u 0x40 ∧ inReset u = true ∧ bitB u.boot.held 2 = true ∧
      u.lodge.contentLost = true) ∧
  (inReset d = true → exec (.dieFatal cause) s = .next s) ∧ (d.boot.porst = true → exec .packageFatalSignal s = .next s)

/-- R405, R406: a party-fatal cause puts each of the party's cores into reset with its EPOCH advanced and its store at 0; a second cause is
absorbed; the reset ends with the PARTY_RESET event once nothing is owed; a stop or a drain that times out begins one, and a reset that
does not end is die-fatal. -/
def Obligations.PartyResetsRun : Prop := ∀ (s : State) (party : BitVec 12) (core : CoreId) (cause : BitVec 8) (v : BitVec 512),
  let d := s.die
  (stewardUp d = true → partyCores d party.toNat = some v → v.getLsbD core.toNat = true → 1 ≤ cause.toNat → cause.toNat ≤ 3 →
    partyBusy d party.toNat = false →
    ∃ u : Die, exec (.partyReset party core cause) s = .next (s.withDie u) ∧ partyBusy u party.toNat = true ∧
      ∀ c : CoreId, v.getLsbD c.toNat = true → (getCore u c).portReset = true ∧
        (getCore u c).portEpoch = (getCore d c).portEpoch + 1 ∧ (getCore u c).t0 = Thread.reset ∧ (getCore u c).t1 = Thread.reset ∧
        (getCore u c).acc = [] ∧ (getCore u c).pmem = (getCore d c).pmem ∧ ∀ i, i < storeSize → memGet u.mem (storeBase c + i) = 0) ∧
  (partyBusy d party.toNat = true → exec (.partyReset party core cause) s = .next s) ∧
  (∀ p, d.flt.partyResets.find? (fun p => p.party == party) = some p → partyCores d party.toNat = some v →
    (maskIds v).all (nothingOwed d) = true →
    (∀ i ∈ d.stew.itins, i.state = .aborted → i.settled = false → (hereIds d i).any (fun c => v.getLsbD c.toNat) = true →
      linksAgree d i = true) →
    ∃ u : Die, exec (.partyResetEnd party) s = .next (s.withDie u) ∧ partyBusy u party.toNat = false ∧
      (∀ c : CoreId, getCore u c = if v.getLsbD c.toNat then { getCore d c with portReset := false } else getCore d c) ∧
      u.stew.events = d.stew.events ++ [⟨0x0030, 0, 0, 0, leBytes 2 party.toNat ++ leBytes 1 (getCore d p.core).portEpoch.toNat⟩] ∧
      u.mem = d.mem) ∧
  (stoppingParty d core = some party →
    ∃ u : Die, exec (.stopTimeout core) s = .next (s.withDie u) ∧ exec (.partyReset party core 2) s = .next (s.withDie u)) ∧
  (∀ i ∈ d.stew.itins, stoppingParty d core = some party → i.state = .aborted → i.settled = false → core ∈ hereIds d i →
    linksAgree d i = false →
    ∃ u : Die, exec (.drainTimeout core) s = .next (s.withDie u) ∧ exec (.partyReset party core 3) s = .next (s.withDie u)) ∧
  (partyBusy d party.toNat = true →
    ∃ u : Die, exec (.partyResetTimeout party) s = .next (s.withDie u) ∧ exec (.dieFatal 5) s = .next (s.withDie u)) ∧
  (partyBusy d party.toNat = false → exec (.partyResetTimeout party) s = .next s)

/-- R187, R198, R263, R280, R408, R409: a fenced die's itineraries are aborted and DIE_LOST is posted; its return clears the mark; a
message of a peer leaves the queue, frees its pigeonhole and is answered, PROTOCOL to another version, and has its effect. -/
def Obligations.OtherDies : Prop := ∀ (s : State) (die p : BitVec 2) (n : Nat) (m : PeerMsg) (q : Msg),
  let d := s.die
  let due : Prop := d.stew.requests[n]? = some q ∧ q.src = .peer p ∧ stewardUp d = true ∧
    (peerReply q = true ∨ (0x100 ≤ msgOp q ∧ msgOp q ≤ 0x1FF))
  let taken (u : Die) (r : PeerMsg) : Prop := exec (.peerMessage n m) s = .next (s.withDie u) ∧
    u.stew.requests = d.stew.requests.eraseIdx n ∧ owns u q.ph.toNat = false ∧ (peerReply q = false → u.out.getLast? = some (.peer p r))
  (d.link.state = 7 → die ≠ d.ident.dieNum →
    ∃ u : Die, exec (.dieFenced die) s = .next (s.withDie u) ∧ u.link.fenced.getLsbD die.toNat = true ∧
      u.stew.events.getLast? = some ⟨0x0031, 0, 0, 0, [BitVec.ofNat 8 die.toNat]⟩ ∧
      ∀ id i, findItin d id = some i → i.state = .running → homeDie id = d.ident.dieNum → touches die i = true →
        ∃ j, findItin u id = some j ∧ (j.state = .aborted ∨ j.stopping = true)) ∧
  (d.link.state ≠ 7 ∨ die = d.ident.dieNum → exec (.dieFenced die) s = .next s) ∧
  (d.link.state = 7 → exec (.dieRejoined die) s = .next (s.withDie
    { d with link := { d.link with fenced := d.link.fenced &&& ~~~(1#4 <<< die.toNat) } })) ∧
  (due → ∃ u r, taken u r) ∧
  (due → m = .otherVersion → ∃ u, taken u .protocol ∧ u.stew.events = d.stew.events ++
    [⟨0x0013, 0, 0, 0, leBytes 4 (3 + 256 * (p.toNat % 2 ^ 24))⟩]) ∧
  (∀ id tile i, due → m = .stamp id tile → findItin d id = some i → i.state = .running → tile.toNat < i.tiles.toNat →
    ∃ u j, taken u .reply ∧ findItin u id = some j ∧ tabGet 0 j.stamps tile.toNat = 1 ∧
      j.stamped = (if tabGet 0 i.stamps tile.toNat = 1 then i.stamped else i.stamped + 1)) ∧
  (∀ id core code i, due → m = .abort id core code → findItin d id = some i → homeDie id = d.ident.dieNum → p ≠ d.ident.dieNum →
    i.state = .running → i.stopping = false →
    ∃ u j, taken u .reply ∧ findItin u id = some j ∧
      (if livePeers d i = [] then j.state = .aborted else j.state = .running ∧ j.stopping = true ∧ j.asked = livePeers d i)) ∧
  (∀ id flags log lost i, due → m = .stopped id flags log lost → findItin d id = some i → i.state = .running → i.stopping = true →
    i.asked = [p] → ∃ u j, taken u .reply ∧ findItin u id = some j ∧ j.state = .aborted) ∧
  (∀ id i, due → m = .start id → findItin d id = some i → i.state = .queued → homeDie id ≠ d.ident.dieNum →
    ∃ u, taken u .reply ∧
      findItin u id = some { i with state := .running, admitted := some d.power.refCnt, asked := [], replies := [] }) ∧
  (due → m = .reply → peerReply q = true →
    ∃ u, taken u .reply ∧ u.out = d.out ++ ((d.stew.peerQueue.find? (fun x => x.1 == p)).toList.map (fun x => .peer p x.2))) ∧
  (∀ id i, due → m = .release id → findItin d id = some i → homeDie id ≠ d.ident.dieNum → itinLive i = true →
    ∃ u, taken u .reply ∧ findItin u id = none)

/-! ### The hub link (R18 to R20, R301 to R325) -/

/-- R310 to R313: a flit with the expected SEQ and a good CRC is accepted, its credits are added and SEQ advances; any other is refused,
with one NAK until the expected one comes; CREDIT acknowledges and a NAK or a timeout has the replay buffer sent again; a CREDIT flit
acknowledges what was accepted; a CREDIT or TRAIN flit that fails its CRC, or carries DATA, is counted and causes no NAK; a module that
carries no flits takes none.

R300, R328: payload bit b of a flit lies on data wire b mod 64 in unit interval b / 64, sideband bit j on S[j mod 4] in interval j / 4;
a spare carries the bits of the wire its map names, which then carries none, and every other wire its own. -/
def Obligations.FlitsAndWires : Prop :=
  (∀ (s : State) (m : BitVec 8) (f : RxFlit) (g : CreditFlit),
  let d := s.die
  let n := m.toNat
  let x := getMod d n
  let runs : Prop := moduleOk m = true ∧ d.link.state = 7 ∧ modCarries x = true
  let given (ch : BitVec 2) : Nat := (if f.credit.extractLsb' 14 2 = ch then fld f.credit 8 6 else 0) +
    (if f.credit.extractLsb' 6 2 = ch then fld f.credit 0 6 else 0)
  let apart (u : Die) : Prop := u.mem = d.mem ∧ u.pkg = d.pkg ∧ u.cores = d.cores ∧ ∀ k, k ≠ n → getMod u k = getMod d k
  let ackFlit (nak retrain : Bool) : Out := .creditFlit m (x.rxSeq - 1) nak retrain x.retReq x.retRsp x.retCtrl
  let refused (u : Die) (crc : Bool) : Prop := (getMod u n).rxSeq = x.rxSeq ∧ (getMod u n).refusing = true ∧
    (getMod u n).failures = (if crc = true ∨ x.refusing = false then x.failures + 1 else x.failures) ∧
    (getMod u n).crcErrors = (if crc = true then satInc x.crcErrors else x.crcErrors) ∧ apart u ∧
    (x.refusing = true → u.out = d.out) ∧ (x.refusing = false → u.out = d.out ++ [ackFlit true false])
  (runs → f.kind ≠ 9 → f.kind ≠ 10 → f.crcOk = true → badFlit x f = false → f.seq = x.rxSeq → x.queue = [] →
    ∃ u : Die, exec (.flitAccept m f) s = .next (s.withDie u) ∧ (getMod u n).rxSeq = x.rxSeq + 1 ∧ (getMod u n).refusing = false ∧
      (getMod u n).failures = 0 ∧ (getMod u n).crcErrors = x.crcErrors ∧
      (getMod u n).credReq = x.credReq + BitVec.ofNat 32 (given 0) ∧ (getMod u n).credRsp = x.credRsp + BitVec.ofNat 32 (given 1) ∧
      (getMod u n).credCtrl = x.credCtrl + BitVec.ofNat 32 (given 2) ∧ apart u) ∧
  (runs → f.kind ≠ 9 → f.kind ≠ 10 → (f.crcOk = false ∨ badFlit x f = true) →
    ∃ u : Die, exec (.flitAccept m f) s = .next (s.withDie u) ∧ refused u true) ∧
  (runs → f.kind ≠ 9 → f.kind ≠ 10 → f.crcOk = true → badFlit x f = false → f.seq ≠ x.rxSeq →
    ∃ u : Die, exec (.flitAccept m f) s = .next (s.withDie u) ∧ refused u false) ∧
  (runs → (f.kind = 9 ∨ f.kind = 10) → (f.crcOk = false ∨ f.dataBit = true) →
    exec (.flitAccept m f) s = .next (s.withDie (putMod d n { x with crcErrors := satInc x.crcErrors }))) ∧
  (runs → g.crcOk = true → g.nak = false → x.queue = [] →
    ∃ u : Die, exec (.credit m g) s = .next (s.withDie u) ∧ u.out = d.out ∧ apart u ∧
      (getMod u n).replay = (if x.replay.contains g.ackSeq then (replayFrom x.replay g.ackSeq).drop 1 else x.replay) ∧
      (getMod u n).txSeq = x.txSeq ∧ (getMod u n).credReq = x.credReq) ∧
  (runs → g.crcOk = true → g.nak = true → x.replay.contains g.ackSeq = false → x.replay ≠ [] → x.queue = [] →
    ∃ u : Die, exec (.credit m g) s = .next (s.withDie u) ∧ u.out = d.out ++ [.replayed m x.replay] ∧ apart u ∧
      (getMod u n).replay = x.replay ∧ (getMod u n).replays = satInc x.replays) ∧
  (runs → d.link.rxLoss = false → x.replay ≠ [] →
    exec (.replayTimeout m) s = .next (s.withDie (send (putMod d n { x with
      replays := satInc x.replays, resends := x.resends + 1, retrainAsked := x.retrainAsked || decide (8 ≤ x.resends + 1) })
      (.replayed m x.replay)))) ∧
  (runs → d.link.rxLoss = false → x.unacked ≠ 0 → dueOn x = [] →
    exec (.creditFlitTimer m) s = .next (s.withDie (send (putMod d n { x with unacked := 0 }) (ackFlit false false)))) ∧
  (runs → d.link.rxLoss = false → x.unacked ≠ 0 → dueOn x ≠ [] → x.replay.length < 64 →
    ∃ u : Die, exec (.creditFlitTimer m) s = .next (s.withDie u) ∧
      u.out = d.out ++ [ackFlit false false, .credits m x.txSeq true (creditField x).1] ∧ (getMod u n).unacked = 0 ∧
      (getMod u n).txSeq = x.txSeq + 1 ∧ (getMod u n).replay = x.replay ++ [x.txSeq] ∧ (getMod u n).credReq = x.credReq ∧ apart u) ∧
  (moduleOk m = true → (d.link.state ≠ 7 ∨ modCarries x = false) →
    exec (.flitAccept m f) s = .next s ∧ exec (.credit m g) s = .next s ∧ exec (.replayTimeout m) s = .next s ∧
    exec (.creditFlitTimer m) s = .next s ∧ exec (.quickRetrain m) s = .next s)) ∧
  (∀ (spares : BitVec 16) (p : BitVec 1024) (sb : BitVec 64),
  (∀ b, b < 1024 → flitBit p sb (b % 64) (b / 64) = p.getLsbD b) ∧ (∀ j, j < 64 → flitBit p sb (64 + j % 4) (j / 4) = sb.getLsbD j) ∧
  (∀ w u, w < 68 → onWire spares p sb (wireOf spares w) u = some (flitBit p sb w u)) ∧
  (∀ w u, w < 68 → wireOf spares w ≠ w → onWire spares p sb w u = none) ∧
  (∀ w, w < 68 → wireOf spares w = (if bitB spares 15 = true ∧ fld spares 8 7 = w then 69
    else if bitB spares 7 = true ∧ fld spares 0 7 = w then 68 else w)))

/-- R314 to R316, R325: a retrain takes a module out and brings it back or finds it unrepairable; its gate leaves the mask by NEWMASK, or
the die dies below the minimum width; a drained gate is DOWN; what the hub has not accepted goes on by a healthy module; loss of the RX
clock holds the modules until an edge returns, or becomes package-fatal. -/
def Obligations.ModulesAreRepaired : Prop := ∀ (s : State) (m seq : BitVec 8) (r : RetrainResult) (g : BitVec 5) (mask : BitVec 32),
  let d := s.die
  let n := m.toNat
  let x := getMod d n
  let less := putFld d.link.agreed (n / 6) 1 0
  let fatal (c i : Instr) : Prop := ∃ u : Die, exec c s = .next (s.withDie u) ∧ exec i s = .next (s.withDie u)
  let newmask (e : Die) (v : BitVec 32) (came : Bool) : Die := send { e with link := { e.link with
    newMask := some v, newMaskIn := came, frames := e.link.frames ++ [⟨sbNewmask, 0, v, 1⟩] } } (.sideband sbNewmask 0 v)
  (moduleOk m = true → d.link.state = 7 → modCarries x = true → x.retrainAsked = true →
    ∃ u : Die, exec (.quickRetrain m) s = .next (s.withDie u) ∧ getMod u n = { x with
      unacked := 0, state := msRetrain, retrains := satInc x.retrains, retrainAsked := false } ∧
      u.out = d.out ++ [.creditFlit m (x.rxSeq - 1) false true x.retReq x.retRsp x.retCtrl] ∧ u.mem = d.mem ∧ u.cores = d.cores ∧
      ∀ k, k ≠ n → getMod u k = getMod d k) ∧
  (x.retrainAsked = false → exec (.quickRetrain m) s = .next s) ∧
  (moduleOk m = true → x.state = msRetrain → x.broken = false → r.repaired = false →
    exec (.quickRetrainDone m r) s = .next (s.withDie (putMod d n { x with broken := true }))) ∧
  (moduleOk m = true → x.state = msRetrain → x.broken = false → r.repaired = true →
    ∃ u : Die, exec (.quickRetrainDone m r) s = .next (s.withDie u) ∧
      (getMod u n).state = (if d.link.draining.contains (BitVec.ofNat 5 (n / 6)) then msDraining else msActive) ∧
      (getMod u n).spares = r.bits ∧ (getMod u n).failures = 0 ∧ (getMod u n).refusing = false ∧ u.mem = d.mem ∧ u.cores = d.cores ∧
      (countsDiffer x r = true → (⟨0x0013, 0, 0, 0, leBytes 4 (1 + 256 * n)⟩ : Event) ∈ u.stew.events) ∧
      (countsDiffer x r = false → u.stew = d.stew)) ∧
  (moduleOk m = true → d.link.state = 7 → x.broken = true → bitB d.link.agreed (n / 6) = true → d.link.newMask = none →
    minGates d ≤ gateCount less → exec (.gateTakeDown m) s = .next (s.withDie (newmask d less false))) ∧
  (moduleOk m = true → d.link.state = 7 → x.broken = true → bitB d.link.agreed (n / 6) = true → d.link.newMask = none →
    gateCount less < minGates d → fatal (.gateTakeDown m) (.dieFatal 3)) ∧
  (d.link.draining.contains g = true → gateIdle d g = true →
    ∃ u : Die, exec (.gateDrainDone g true) s = .next (s.withDie u) ∧ u.link.draining = d.link.draining.erase g ∧ u.mem = d.mem ∧
      (∀ k, k / 6 = g.toNat → (getMod u k).state = msDown ∧ (getMod u k).retrains = (getMod d k).retrains ∧
        (getMod u k).replays = (getMod d k).replays ∧ (getMod u k).crcErrors = (getMod d k).crcErrors) ∧
      ∀ k, k / 6 ≠ g.toNat → getMod u k = getMod d k) ∧
  (d.link.draining.contains g = true → fatal (.gateDrainDone g false) (.dieFatal 3)) ∧
  (inReset d = false → d.test.stm = false → d.link.state = 7 → d.link.newMask = none → minGates d ≤ gateCount (d.link.agreed &&& mask) →
    exec (.newmask mask) s = .next (s.withDie (newmask (send d (.sideband sbAck sbNewmask 0)) (d.link.agreed &&& mask) true))) ∧
  (∀ k, moduleOk m = true → inReset d = false → d.test.stm = false → x.broken = true →
    d.link.draining.contains (BitVec.ofNat 5 (n / 6)) = true → (gateModules (n / 6)).find? (fun k => modCarries (getMod d k)) = some k →
    ∃ (u e : Die), exec (.drainPoint m seq) s = .next (s.withDie u) ∧ u = pumpMod k e ∧ (getMod e n).replay = [] ∧
      (getMod e n).queue = [] ∧ (getMod e k).queue = x.queue ++ (getMod d k).queue ∧
      (getMod e k).txSeq = (getMod d k).txSeq + BitVec.ofNat 8 (replayFrom x.replay seq).length ∧ (getMod e k).credReq = (getMod d k).credReq ∧
      e.mem = d.mem ∧ e.cores = d.cores) ∧
  (moduleOk m = true → inReset d = false → d.test.stm = false → x.broken = false →
    exec (.drainPoint m seq) s = .next (s.withDie (send d (.sideband sbAck sbDrainPoint 0)))) ∧
  (d.link.state = 7 → exec .rxClockLoss s = .next (s.withDie { d with link := { d.link with rxLoss := true } })) ∧
  (d.link.rxLoss = true → fatal .linkLost .packageFatalSignal) ∧ (d.link.rxLoss = false → exec .linkLost s = .next s) ∧
  (d.link.rxLoss = true → ∃ u : Die, exec .rxClockEdgeReturn s = .next (s.withDie u) ∧ u.link.rxLoss = false ∧ u.mem = d.mem ∧
    u.cores = d.cores ∧ u.link.agreed = d.link.agreed)

/-- R18 to R20, R317 to R321: a grant assigns the place once and begins EXCHANGE, a different one sets GRANT_CONFLICT; the agreed mask is the
AND of both offers; equal AGREE frames begin training, fast when both say so, others fail the attempt and the fourth fails the boot;
training leads to READINESS, CONFIRM and ACTIVE; an unanswered frame is sent four times,
and a NEWMASK given up takes its mask with it (the model's choice, log entry 168). -/
def Obligations.LinkComesUp : Prop := ∀ (s : State) (arg cmd : BitVec 8) (data mask : BitVec 32) (fast : Bool) (z : BufSizes),
  let d := s.die
  let acked (c : BitVec 8) : Die := send d (.sideband sbAck c 0)
  let up : Prop := inReset d = false ∧ d.test.stm = false
  let failed (u : Die) (st : BitVec 4) : Prop := u.link.attempts = d.link.attempts + 1 ∧ u.mem = d.mem ∧
    ((d.link.attempts + 1).toNat < 4 → u.link.state = st ∧ u.boot.step = (if d.boot.step = 6 then 5 else d.boot.step)) ∧
    (4 ≤ (d.link.attempts + 1).toNat → u.link.state = 0 ∧ u.boot.step = 15 ∧ u.boot.fail = 0x02 ∧
      ∃ f ∈ u.link.frames, f.cmd = sbAlert ∧ f.arg = 1)
  (up → grantConflicts d (grantWord arg data) = false → d.boot.step = 4 →
    ∃ u : Die, exec (.bootGrant arg data) s = .next (s.withDie u) ∧ u.ident.granted = true ∧ u.ident.dieNum = arg.extractLsb' 0 2 ∧
      u.ident.half = arg.extractLsb' 4 1 ∧ u.ident.hubGen = data.extractLsb' 12 4 ∧ u.ident.pkgType = data.extractLsb' 8 4 ∧
      u.ident.protoLevel = data.extractLsb' 0 4 ∧ u.boot.step = 5 ∧ u.link.state = 2 ∧ u.mem = d.mem ∧ u.cores = d.cores ∧
      ∃ f ∈ u.link.frames, f.cmd = sbOffer ∧ f.data = ownOffer d) ∧
  (up → grantConflicts d (grantWord arg data) = true →
    exec (.bootGrant arg data) s = .next (s.withDie { acked sbGrant with ident := { d.ident with grantConflict := true } })) ∧
  (up → grantConflicts d (grantWord arg data) = false → d.boot.step.toNat < 4 → d.ident.grant = none →
    exec (.bootGrant arg data) s = .next (s.withDie { acked sbGrant with ident := { d.ident with grant := some (grantWord arg data) } })) ∧
  (inReset d = true → exec (.bootGrant arg data) s = .next s) ∧
  (up → d.link.state = 2 → d.link.hubOffer = none → d.link.digestLo = none →
    exec (.offer mask) s = .next (s.withDie { acked sbOffer with link := { d.link with hubOffer := some mask } }) ∧
    exec (.digestLo data) s = .next (s.withDie { acked sbDigestLo with link := { d.link with digestLo := some data } })) ∧
  (up → d.link.state = 2 → d.link.hubOffer = none → d.link.digestHi = none →
    exec (.digestHi data) s = .next (s.withDie { acked sbDigestHi with link := { d.link with digestHi := some data } })) ∧
  (up → d.link.state = 2 → d.link.hubOffer = none → d.link.digestLo.isSome = true → d.link.digestHi.isSome = true →
    ∃ u : Die, exec (.offer mask) s = .next (s.withDie u) ∧ u.link.agreed = ownOffer d &&& mask ∧ u.link.state = 2 ∧
      ∃ f ∈ u.link.frames, f.cmd = sbAgree ∧ f.data = ownOffer d &&& mask) ∧
  (up → d.link.state = 2 → d.link.agreeHub = none → exchanged d = true → unanswered d sbAgree = false → mask = d.link.agreed →
    minGates d ≤ gateCount mask →
    ∃ u : Die, exec (.agree fast mask) s = .next (s.withDie u) ∧ u.link.state = (if fast = true ∧ ownFast d = true then 3 else 4) ∧
      (∀ k, k < 192 → bitB mask (k / 6) = true → (getMod u k).state = msTraining) ∧ u.mem = d.mem) ∧
  (up → d.link.state = 2 → d.link.agreeHub = none → exchanged d = true → unanswered d sbAgree = false →
    (mask ≠ d.link.agreed ∨ gateCount mask < minGates d) →
    ∃ u : Die, exec (.agree fast mask) s = .next (s.withDie u) ∧ failed u 2) ∧
  (d.link.state = 3 →
    (∃ u : Die, exec (.trainFastDone true) s = .next (s.withDie u) ∧ u.link.state = 5 ∧ u.mem = d.mem) ∧
    (∃ u : Die, exec (.trainFastDone false) s = .next (s.withDie u) ∧ u.link.state = 4 ∧ u.link.attempts = d.link.attempts)) ∧
  (d.link.state = 4 →
    (∃ u : Die, exec (.trainFullDone true []) s = .next (s.withDie u) ∧ u.link.state = 5 ∧ u.mem = d.mem) ∧
    (∃ u : Die, exec (.trainFullDone false []) s = .next (s.withDie u) ∧ failed u 2)) ∧
  (d.link.state = 5 → d.link.newMask = none →
    ∃ u : Die, exec (.readinessDone [] 0) s = .next (s.withDie u) ∧ u.link.state = 6 ∧ u.mem = d.mem ∧
      ∃ f ∈ u.link.frames, f.cmd = sbLinkUp ∧ f.data = d.link.agreed) ∧
  (∀ l k, d.link.state = 5 → d.link.hltFast = true → l ≠ [] →
    ∃ u : Die, exec (.readinessDone l k) s = .next (s.withDie u) ∧ failed u 4) ∧
  (up → d.link.state = 6 → d.link.newMask = none → mask = d.link.agreed →
    ∃ u : Die, exec (.linkUp mask z) s = .next (s.withDie u) ∧ u.link.state = 7 ∧ u.mesh.gateUp = mask ∧
      u.boot.step = (if d.boot.step = 6 then 7 else d.boot.step) ∧ u.mem = d.mem ∧
      (∀ k, k < 192 → bitB mask (k / 6) = true → (getMod u k).state = msActive ∧ (getMod u k).txSeq = 0 ∧ (getMod u k).rxSeq = 0 ∧
        (getMod u k).credReq = z.req.setWidth 32 ∧ (getMod u k).credRsp = z.rsp.setWidth 32 ∧ (getMod u k).credCtrl = z.ctrl.setWidth 32) ∧
      ∀ col, col < 32 → (servingGate u col).toNat = servingOf mask col) ∧
  (∀ f, d.link.frames.find? (fun f => f.cmd == cmd) = some f → cmd ≠ sbAgree → cmd ≠ sbNewmask →
    exec (.ack cmd) s = .next (s.withDie { d with link := { d.link with
      frames := d.link.frames.erase f, alert := d.link.alert && (d.link.frames.erase f).any (fun f => f.cmd == sbAlert) } })) ∧
  (d.link.frames.find? (fun f => f.cmd == cmd) = none →
    exec (.ack cmd) s = .next (s.withDie { d with link := { d.link with alert := d.link.alert && cmd != sbAlert } }) ∧
    exec (.sidebandResendTimeout cmd) s = .next s) ∧
  (∀ f, d.link.frames.find? (fun f => f.cmd == cmd) = some f → f.sends < 4 →
    ∃ u : Die, exec (.sidebandResendTimeout cmd) s = .next (s.withDie u) ∧ u.out = d.out ++ [.sideband f.cmd f.arg f.data] ∧
      { f with sends := f.sends + 1 } ∈ u.link.frames ∧ u.mem = d.mem) ∧
  (∀ f, d.link.frames.find? (fun f => f.cmd == cmd) = some f → 4 ≤ f.sends → (d.link.state.toNat < 2 ∨ 6 < d.link.state.toNat) →
    exec (.sidebandResendTimeout cmd) s = .next (s.withDie { d with link := { d.link with
      frames := d.link.frames.erase f, newMask := if cmd = sbNewmask then none else d.link.newMask, newMaskIn := d.link.newMaskIn && cmd != sbNewmask } })) ∧
  (∀ f, d.link.frames.find? (fun f => f.cmd == cmd) = some f → 4 ≤ f.sends → 2 ≤ d.link.state.toNat → d.link.state.toNat ≤ 6 →
    ∃ u : Die, exec (.sidebandResendTimeout cmd) s = .next (s.withDie u) ∧ failed u 2)

/-! ### Power (R329 to R356) -/

/-- R339 to R347, R353: a window ends at the next multiple of 256 REFCLK with its readings taken; a budget accepted is in force from there,
clamped to the ceiling; without one half the ceiling applies; EST is the estimate; the duty falls in proportion above the cap and rises
by one well below it; OP_L rises by one after 16 quiet windows; TARGET written is limited by OP_L and MAX_OP. -/
def Obligations.PowerWindows : Prop := ∀ (s : State) (w : WindowCounts) (b q : BitVec 16) (op : BitVec 3),
  let d := s.die
  let p := d.power
  let t (i : Nat) : BitVec 16 := w.temps.getD i 0 + tabGet 0 p.thmOff i
  let e := estimate (takeTemps w d) w
  let cap := min p.budget.toNat p.ceil.toNat
  let ends : Prop := p.cpllLock = true
  let live : Prop := ends ∧ d.test.stm = false ∧ d.fuse.sensed = true
  let steady : Prop := live ∧ p.budgetNext = none ∧ p.safeDue = false ∧ p.halved = false ∧ p.thermalDuty = 16 ∧
    ∀ i, i < 24 → (t i).toInt < p.thmHot.toInt - 12
  let duty (v : Nat) : Prop := ∃ u : Die, exec (.windowBoundary w) s = .next (s.withDie u) ∧ u.power.duty.toNat = v
  (ends → ∃ u : Die, exec (.windowBoundary w) s = .next (s.withDie u) ∧ u.power.windows = p.windows + 1 ∧
    (p.refCnt.toNat < 2 ^ 63 → u.power.refCnt.toNat = (p.refCnt.toNat / 256 + 1) * 256) ∧ u.mem = d.mem ∧ u.pkg = d.pkg ∧
    (∀ i, i < 24 → (tabGet 0 u.power.sensors i).extractLsb' 0 16 = t i ∧ (t i).toInt ≤ u.power.hottest.toInt) ∧
    p.peak.toInt ≤ u.power.peak.toInt ∧ u.lodge.hot = (List.range 24).any (fun i => decide (420 < (t i).toInt))) ∧
  (p.cpllLock = false → exec (.windowBoundary w) s = .next s) ∧
  (live → p.budgetNext = some (b, q) →
    ∃ u : Die, exec (.windowBoundary w) s = .next (s.withDie u) ∧ u.power.budget.toNat = min b.toNat p.ceil.toNat ∧
      u.power.bseq = q ∧ u.power.safe = false ∧ u.power.budgetNext = none) ∧
  (live → p.budgetNext = none → p.safeDue = true →
    ∃ u : Die, exec (.windowBoundary w) s = .next (s.withDie u) ∧ u.power.budget.toNat = p.ceil.toNat / 2 ∧ u.power.safe = true) ∧
  (live → e < 65536 → ∃ u : Die, exec (.windowBoundary w) s = .next (s.withDie u) ∧ u.power.est.toNat = e) ∧
  (steady → 1 ≤ p.duty.toNat → p.duty.toNat ≤ 16 → cap < e → duty (max 1 (p.duty.toNat * cap / e))) ∧
  (steady → 1 ≤ p.duty.toNat → p.duty.toNat ≤ 16 → 16 * e < 15 * cap → p.winGlide = false → duty (min 16 (p.duty.toNat + 1))) ∧
  (steady → 1 ≤ p.duty.toNat → p.duty.toNat ≤ 16 → e ≤ cap → 15 * cap ≤ 16 * e → duty p.duty.toNat) ∧
  (p.markDone = false →
    ∃ u : Die, exec .sixteenWindowMark s = .next (s.withDie u) ∧ u.power.markDone = true ∧ u.mem = d.mem ∧ u.cores = d.cores ∧
      u.power.opL = (if p.hist.length = 16 ∧ (∀ h ∈ p.hist, h.lowered = false ∧ h.warm = false ∧ h.limited = false) ∧ p.opL ≠ 7
        then p.opL + 1 else p.opL)) ∧
  (d.link.state = 7 → exec (.budget b q) s = .next (s.withDie { d with power := { p with
    budgetNext := some (b, q), lastBudget := p.refCnt.toNat, safeDue := false } })) ∧
  (p.safe = false → p.safeDue = false → p.budgetNext = none → p.lastBudget + 2 ^ 20 < (p.refCnt.toNat / 256 + 1) * 256 →
    ∃ u : Die, exec .safeBudgetTimeout s = .next (s.withDie u) ∧ u.power.safeDue = true ∧ u.power.budget = p.budget) ∧
  (inReset d = false →
    ∃ u : Die, exec (.pwrOpTargetWrite op) s = .next (s.withDie u) ∧ u.power.target = op ∧
      u.power.effective.toNat = min op.toNat (min p.opL.toNat p.maxOp.toNat) ∧ u.mem = d.mem ∧ u.cores = d.cores)

/-- R334 to R337, R350, R352: a glide raises the voltage before the frequency and lowers it after, in steps of 10 codes; an IVR answer that
echoes sets the setpoint, a failed send is repeated and the third is die-fatal, a bad status halves the duty at the next boundary; a
droop starts skipping and a recovery ends it. -/
def Obligations.GlidesAndSupplies : Prop := ∀ (s : State) (n : BitVec 4) (k : BitVec 32) (frame : BitVec 24) (f : VctlFrame),
  let d := s.die
  let p := d.power
  let v := p.volt.toNat
  let goal := opCode p.effective.toNat
  let mhz := opMHz p.effective.toNat
  let dom := tabGet Domain.reset p.domains n.toNat
  let fresh : Prop := crc8 [frame.extractLsb' 16 8, frame.extractLsb' 8 8] = frame.extractLsb' 0 8
  let oldest : Prop := p.vctl.find? (fun f => f.domain.toNat == fld frame 19 5) = some f
  let rest : List VctlFrame := p.vctl.erase f
  let stepped (c : Instr) (code : Nat) : Prop := ∃ u : Die, exec c s = .next (s.withDie u) ∧ u.power.volt = BitVec.ofNat 6 code ∧
    u.power.gliding = true ∧ u.power.slewing = false ∧ u.power.vctl.length = p.vctl.length + 16 ∧ u.mem = d.mem
  (p.gliding = true → p.slewing = false → p.vctl.any (fun f => f.cmd == 0) = false →
    (v < goal → stepped .glideVoltageStep (min (v + 10) goal)) ∧
    (v ≥ goal → p.cpllMHz.toNat ≠ mhz →
      ∃ u : Die, exec .glideVoltageStep s = .next (s.withDie u) ∧ u.power.slewing = true ∧ u.power.slewTo = BitVec.ofNat 13 mhz ∧
        u.power.volt = p.volt) ∧
    (v > goal → p.cpllMHz.toNat = mhz → stepped .glideVoltageStep (max (v - 10) goal)) ∧
    (v = goal → p.cpllMHz.toNat = mhz →
      ∃ u : Die, exec .glideVoltageStep s = .next (s.withDie u) ∧ u.power.current = p.effective ∧ u.power.gliding = false)) ∧
  (p.slewing = true → p.slewTo.toNat = mhz →
    (v > goal → stepped .glideSlewEnd (max (v - 10) goal)) ∧
    (v = goal → ∃ u : Die, exec .glideSlewEnd s = .next (s.withDie u) ∧ u.power.current = p.effective ∧ u.power.gliding = false ∧
      u.power.cpllMHz = p.slewTo)) ∧
  (oldest → fresh → f.cmd = 0 → fld frame 16 3 = 0 → frame.extractLsb' 8 8 = f.data →
    ∃ u : Die, exec (.vctlResponse frame) s = .next (s.withDie u) ∧ u.power.vctl = rest ∧
      (tabGet Domain.reset u.power.domains f.domain.toNat).setpoint = f.data.setWidth 6 ∧ u.out = d.out ∧ u.mem = d.mem) ∧
  (oldest → fresh → f.cmd = 1 → fld frame 16 3 = 1 → fld frame 8 4 = 1 →
    exec (.vctlResponse frame) s = .next (s.withDie { d with power := { p with vctl := rest } })) ∧
  (oldest → fresh → f.cmd = 1 → fld frame 16 3 = 1 → fld frame 8 4 ≠ 1 →
    ∃ u : Die, exec (.vctlResponse frame) s = .next (s.withDie u) ∧ u.power = { p with vctl := rest, halved := true } ∧
      u.stew.events.length = d.stew.events.length + 1) ∧
  (oldest → ¬ fresh → f.fails < 2 →
    exec (.vctlResponse frame) s = .next (s.withDie (send { d with power := { p with vctl := rest ++ [{ f with fails := f.fails + 1 }] } }
      (.vctl (vctlWord f))))) ∧
  (oldest → ¬ fresh → 2 ≤ f.fails →
    ∃ u : Die, exec (.vctlResponse frame) s = .next (s.withDie u) ∧ exec (.dieFatal 2) s = .next (s.withDie u)) ∧
  (p.vctl.find? (fun f => f.domain == n) = some f → f.fails < 2 →
    exec (.vctlTimeout n) s = .next (s.withDie (send { d with power := { p with vctl := rest ++ [{ f with fails := f.fails + 1 }] } }
      (.vctl (vctlWord f))))) ∧
  (p.vctl.find? (fun f => f.domain == n) = some f → 2 ≤ f.fails →
    ∃ u : Die, exec (.vctlTimeout n) s = .next (s.withDie u) ∧ exec (.dieFatal 2) s = .next (s.withDie u)) ∧
  (inReset d = false →
    ∃ u : Die, exec .vctlStatusPoll s = .next (s.withDie u) ∧
      u.power.vctl = p.vctl ++ (List.range 16).map (fun i => ⟨BitVec.ofNat 4 i, 1, 0, 0⟩) ∧ u.out.length = d.out.length + 16 ∧
      u.mem = d.mem) ∧
  (d.test.stm = false → dom.skipping = false →
    ∃ u : Die, exec (.droopDetect n) s = .next (s.withDie u) ∧ u = { d with power := { p with domains := u.power.domains } } ∧
      tabGet Domain.reset u.power.domains n.toNat = { dom with skipping := true, droops := satInc dom.droops } ∧
      ∀ i, i ≠ n.toNat → tabGet Domain.reset u.power.domains i = tabGet Domain.reset p.domains i) ∧
  (dom.skipping = true → dom.skipped.toNat + k.toNat < 2 ^ 32 →
    ∃ u : Die, exec (.droopRecovery n k) s = .next (s.withDie u) ∧
      tabGet Domain.reset u.power.domains n.toNat = { dom with skipping := false, skipped := dom.skipped + k })

/-! ### Resets and the boot (R18 to R21, R332, R355, R357 to R382) -/

/-- R20, R21, R325, R330, R332, R355, R358, R374, R420: PORST_N takes everything but VDD_AON state, fuses and flash, HUB_RST_N leaves Lodge content
and the assignment; a boot starts when nothing holds the die, of the kind its cause gives; clock loss and a thermal trip hold it until they
end; VDD_AON up starts with nothing kept; a dip of the Lodge's supply loses its content. -/
def Obligations.ResetsHoldTheDie : Prop := ∀ (s : State),
  let d := s.die
  let b := d.boot
  let settled : Prop := d.ledger.writes = [] ∧ openWrites d = [] ∧ d.fuse.event = none
  let started (u : Die) (kind : BitVec 2) : Prop := u.boot.step = 1 ∧ u.boot.kind = (if b.boots = 0 then 0 else kind) ∧
    u.boot.boots = satInc b.boots ∧ u.boot.selftestFull = decide (u.boot.kind.toNat < 2) ∧ inReset u = false ∧ u.mem = d.mem
  let unpowered (u : Die) : Prop := u.ledger.epoch = 0 ∧ u.ledger.gap = true ∧ u.link.cacheLen = 0 ∧ u.flt.fatalValid = false ∧
    u.boot.boots = 0 ∧ u.power.tripped = false ∧ u.test.ir = 0x01 ∧ u.test.stmMult = none ∧ u.trust.dbgOpen = false ∧ u.mem = d.mem
  (b.porst = false → settled →
    ∃ u : Die, exec .porstNAssert s = .next (s.withDie u) ∧ u.boot.porst = true ∧ u.mem = [] ∧ u.cores = [] ∧ u.ident = Ident.reset ∧
      u.lodge = LodgeSt.reset ∧ u.pkg = d.pkg ∧ u.flash = d.flash ∧ u.fuse.otp = d.fuse.otp ∧ u.ledger.epoch = d.ledger.epoch ∧
      u.ledger.dirBase = d.ledger.dirBase ∧ u.link.cache = d.link.cache ∧ u.boot.boots = b.boots ∧ u.test.stm = false ∧
      u.test.ir = d.test.ir) ∧
  (b.porst = true → exec .porstNAssert s = .next s) ∧
  (b.porst = true → b.hubRst = false → b.held = 0 →
    ∃ u : Die, exec .porstNRelease s = .next (s.withDie u) ∧ started u 1 ∧ u.test.ir = (if d.test.ir = 0x03 then 0xFF else d.test.ir) ∧
      u.test.stm = (d.test.ir == 0x20 && d.test.stmMult.isSome && !isSealed d)) ∧
  (b.porst = true → b.hubRst = true →
    ∃ u : Die, exec .porstNRelease s = .next (s.withDie u) ∧ u.boot = { b with porst := false } ∧ u.mem = d.mem) ∧
  (inReset d = false → senseFailed d = false → settled →
    ∃ u : Die, exec .hubRstNAssert s = .next (s.withDie u) ∧ u.boot.hubRst = true ∧ u.ident.dieNum = d.ident.dieNum ∧
      u.ident.granted = d.ident.granted ∧ u.lodge.contentLost = d.lodge.contentLost ∧ u.lodge.remap = d.lodge.remap ∧ u.cores = [] ∧
      u.pkg = d.pkg ∧ (∀ a, a < 0x80000000 → memGet u.mem a = memGet d.mem a) ∧
      (∀ a, 0x80000000 ≤ a → a < 2 ^ 38 → memGet u.mem a = 0) ∧ u.ledger.epoch = d.ledger.epoch ∧ u.link.cache = d.link.cache) ∧
  (b.hubRst = false → (inReset d = true ∨ senseFailed d = true) →
    exec .hubRstNAssert s = .next (s.withDie { d with boot := { b with hubRst := true } })) ∧
  (b.hubRst = true → b.porst = false → b.held = 0 → senseFailed d = false →
    ∃ u : Die, exec .hubRstNRelease s = .next (s.withDie u) ∧ started u (if b.cold = true then 1 else 2)) ∧
  (b.hubRst = true → b.porst = true → exec .hubRstNRelease s = .next (s.withDie { d with boot := { b with hubRst := false } })) ∧
  (inReset d = false → b.step = 1 → d.power.cpllLock = true →
    exec .pllLock s = .next (s.withDie { d with boot := { b with step := 2 } })) ∧
  (inReset d = false → b.step = 1 → d.power.cpllLock = false → d.test.stm = false →
    ∃ u : Die, exec .pllLock s = .next (s.withDie u) ∧ u.boot.step = 2 ∧ u.power.lpllLock = true ∧ u.power.cpllLock = true ∧
      u.power.cpllMHz = 1200 ∧ u.power.current = 0 ∧ u.power.volt = 10 ∧ u.mem = d.mem) ∧
  (inReset d = false →
    ∃ u : Die, exec .clockLoss s = .next (s.withDie u) ∧ exec (.dieFatal 1) s = .next (s.withDie u) ∧ bitB u.boot.held 0 = true ∧
      u.mem = [] ∧ u.ledger.gap = true ∧ u.power.clkLost = true ∧ u.power.cpllLock = false ∧ u.flt.fatalCause = 1) ∧
  (b.porst = true → exec .clockLoss s = .next (s.withDie { d with
    power := { d.power with refclkOk := false, refLost := true }, ledger := { d.ledger with gap := true } })) ∧
  (b.held = 1 → b.porst = false → b.hubRst = false →
    ∃ u : Die, exec .clockRecovery s = .next (s.withDie u) ∧ u.boot.step = 3 ∧ u.boot.held = 0 ∧
      u.boot.kind = (if b.boots = 0 then 0 else if b.cold = true then 1 else 3) ∧ u.power.cpllLock = true ∧ u.mem = d.mem) ∧
  (bitB b.held 0 = false → exec .clockRecovery s = .next s) ∧
  (b.held = 2 → b.porst = false → b.hubRst = false →
    ∃ u : Die, exec .thermalTripRelease s = .next (s.withDie u) ∧ started u (if b.cold = true then 1 else 2) ∧
      u.power.thermtrip = false) ∧
  (bitB b.held 1 = false → exec .thermalTripRelease s = .next s) ∧
  (∃ u : Die, exec .vddAonLow s = .next (s.withDie u) ∧ unpowered u ∧ u.boot.aon = false ∧ u.test.sealed = none) ∧
  (b.aon = false →
    ∃ u : Die, exec .vddAonGood s = .next (s.withDie u) ∧ unpowered u ∧ u.boot.aon = true ∧ u.test.sealed = some (fuseWord d 0x2FF)) ∧
  (b.aon = true → exec .vddAonGood s = .next s) ∧
  (∃ u : Die, exec .vddLodgeDip s = .next (s.withDie u) ∧ u.cores = d.cores ∧ u.pkg = d.pkg ∧ u.lodge.contentLost = true ∧
    u.lodge.remap = [] ∧ (∀ a, a < 0x80000000 → memGet u.mem a = 0) ∧ (∀ a, 0x80000000 ≤ a → memGet u.mem a = memGet d.mem a) ∧
    (if stewardUp d = true ∧ d.ledger.memState = 0 then u.lodge.lossUnmarked = false
     else u.lodge.lossUnmarked = true ∧ u = { d with mem := u.mem, lodge := u.lodge }))

/-- R357, R360, R364, R371, R375 to R381: each boot step does its work and the next one begins; what narrows the die (a core with no spare
row, one that lacks blocks, one that fails or gives no report) takes the core out of use, with its cause in DIE_EXCL_LOG; what ends the boot
sets STEP 15 and FAIL. -/
def Obligations.BootStepsFollow : Prop := ∀ (s : State) (r : RowRef) (c : CoreId) (n group : BitVec 8) (ok pass again : Bool) (us : BitVec 32),
  let d := s.die
  let b := d.boot
  let up : Prop := inReset d = false
  let after (i : Instr) (P : Die → Prop) : Prop := ∃ u : Die, exec i s = .next (s.withDie u) ∧ P u
  let failed (k : BitVec 8) (u : Die) : Prop := u.boot.step = 15 ∧ u.boot.fail = k ∧ u.mem = d.mem ∧ ∃ f ∈ u.link.frames, f.cmd = sbAlert ∧ f.arg = 3
  let gone (u : Die) (k : CoreId) (cause : Nat) : Prop := u.ident.coreEn = d.ident.coreEn &&& ~~~(1#512 <<< k.toNat) ∧
    u.ident.excluded = satInc d.ident.excluded ∧ (b.exclLog.length < 32 →
      u.boot.exclLog = b.exclLog ++ [packed 32 [(31, 1, 1), (16, 8, cause), (0, 9, k.toNat)]])
  let key := 1024 * bankKey r.core r.bank.toNat + r.row.toNat
  let cal : Prop := up ∧ b.step = 7
  let blank : Prop := ∀ k, fuseBad k (fuseWord d k) = false
  let sent : Prop := b.step = 9 ∧ b.blocks = 98 ∧ b.repairs = []
  let last : Prop := ∀ k, coreInUse d k = true → k ≠ c → d.boot.reported.getLsbD k.toNat = true
  (up → (b.step = 2 ∨ b.step = 3) → (∃ k, k < 0x24 ∧ fuseBad k (fuseWord d k) = true) →
    after .fuseSenseEnd (fun u => failed 1 u ∧ u.fuse.senseFail = true)) ∧
  (up → (b.step = 2 ∨ b.step = 3) → blank → d.ident.grant = none → d.test.stm = false → after .fuseSenseEnd (fun u =>
    u.boot.step = 4 ∧ u.link.state = 1 ∧ u.fuse.seen = d.fuse.otp ∧ u.fuse.sensed = true ∧
    (∀ k, k < 512 → u.ident.coreEn.getLsbD k = !bitB (BitVec.ofNat 48 (fuseData d (0x019 + k / 48))) (k % 48)) ∧
    u.ident.coreFused = ~~~u.ident.coreEn ∧ u.ident.variant = BitVec.ofNat 4 (effVariant d) ∧
    (∀ op ceil, variantLimits (effVariant d) = some (op, ceil) → u.power.maxOp = BitVec.ofNat 3 op ∧ u.power.ceil = BitVec.ofNat 16 ceil ∧
      u.power.budget.toNat = ceil / 2) ∧ u.mem = d.mem)) ∧
  (∀ v, up → (b.step = 2 ∨ b.step = 3) → blank → d.ident.grant = some v → d.test.stm = false → after .fuseSenseEnd (fun u =>
    u.boot.step = 5 ∧ u.link.state = 2 ∧ u.ident.granted = true ∧ u.ident.dieNum = v.extractLsb' 16 2)) ∧
  (cal → after (.calibrationLodgeTestEnd []) (fun u => u.boot.step = 8 ∧ u.boot.destructive = d.lodge.contentLost ∧
    u.lodge.testDone = true ∧ u.lodge.contentLost = false ∧
    u.mem = (if d.lodge.contentLost then memClear d.mem 0 0x80000000 else d.mem) ∧
    ∀ k, k < 5 → bitB u.boot.calDefault k = !secValid d k)) ∧
  (cal → d.lodge.contentLost = true → secValid d 3 = false → coreInUse d r.core = true → freeSpare d.lodge (key / 1024) = none →
    after (.calibrationLodgeTestEnd [r]) (fun u => gone u r.core 0x0B)) ∧
  (∀ k, cal → d.lodge.contentLost = true → secValid d 3 = false → coreInUse d r.core = true → freeSpare d.lodge (key / 1024) = some k →
    after (.calibrationLodgeTestEnd [r]) (fun u => tabGet 0 u.lodge.remap key = BitVec.ofNat 6 (k + 1) ∧
      bitB (tabGet 0 u.lodge.sparesUsed (key / 1024)) k = true ∧ u.ident.coreEn = d.ident.coreEn ∧
      (d.lodge.softLog.length < 256 → repairEntry key k r.ue ∈ u.lodge.softLog))) ∧
  (∀ a0 a1 a2, up → b.step = 8 → bootSlot d 0 = some a0 → bootSlot d 1 = some a1 → bootSlot d 2 = some a2 →
    after .firmwareStart (fun u => u.boot.step = 9 ∧ u.trust.khfwUp = true ∧ u.trust.locked = true ∧ u.mem = d.mem ∧
      tabGet [] u.trust.measurements 0 = measureOf (slotImage d 0 a0) ∧ tabGet [] u.trust.measurements 1 = measureOf (slotImage d 1 a1) ∧
      tabGet [] u.trust.measurements 2 = measureOf (slotImage d 2 a2) ∧ u.boot.mon = monitorBlocks (slotImage d 2 a2) ∧
      ∀ k i, coreInUse d k = true → i < 4 → tabGet 0 (getCore u k).monTdig i =
        BitVec.ofNat 64 (deLE (Config.shake256 32 (slice (slotImage d 2 a2) 0x200 3072)) (8 * i) 8))) ∧
  (up → b.step = 8 → (bootSlot d 0 = none ∨ bootSlot d 1 = none ∨ bootSlot d 2 = none) → after .firmwareStart (failed 3)) ∧
  (b.step = 9 → b.round = 0 → b.blocks < 98 → after .broadcastBlockSend (fun u => u.boot = { b with blocks := b.blocks + 1 } ∧
    u.out = d.out ++ [.monitorBlock (BitVec.ofNat 8 (blockOrder b.blocks)) 0 none (b.mon.getD (blockOrder b.blocks) [])] ∧ u.cores = d.cores)) ∧
  (∀ k m l, b.step = 9 → b.round ≠ 0 → b.repairs = (k, m) :: l → after .broadcastBlockSend (fun u => u.boot = { b with repairs := l } ∧
    u.out = d.out ++ [.monitorBlock (BitVec.ofNat 8 m) (BitVec.ofNat 2 b.round) (some k) (b.mon.getD m [])] ∧ u.cores = d.cores)) ∧
  (n.toNat < 98 → b.step = 9 → coreInUse d c = true → (getCore d c).portReset = false → blockSent d n.toNat = true →
    after (.broadcastBlockReceive c n again ok) (fun u =>
      let st := putStore d c (blockOffset n.toNat) (b.mon.getD n.toNat [])
      ((ok && blockGood st c n.toNat) = false → u = st) ∧
      (ok = true → blockGood st c n.toNat = true → u.mem = st.mem ∧ bitB (getCore u c).monRx n.toNat = true ∧
        (96 ≤ n.toNat → bitB (getCore u c).monRx 96 = true ∧ bitB (getCore u c).monRx 97 = true) ∧
        ∀ k, k ≠ c → getCore u k = getCore d k))) ∧
  (sent → missingBlocks d = [] → exec .broadcastRoundCheck s = .next (s.withDie { d with
    boot := { b with step := 10, reported := 0, repairs := [] } })) ∧
  (sent → missingBlocks d ≠ [] → b.round < 3 → exec .broadcastRoundCheck s = .next (s.withDie { d with
    boot := { b with round := b.round + 1, repairs := missingBlocks d } })) ∧
  (∀ m, sent → b.round = 3 → coreInUse d c = true → missingBlocks d = [(c, m)] →
    after .broadcastRoundCheck (fun u => u.boot.step = 10 ∧ gone u c 0x01)) ∧
  (up → b.step = 10 → coreInUse d c = true → d.boot.reported.getLsbD c.toNat = false →
    after (.selfTestReport (.core c pass again group)) (fun u =>
      (pass = true → u.ident = d.ident ∧ (getCore u c).monStat =
        packed 32 [(31, 1, 1), (30, 1, 1), (29, 1, b2n again), (8, 8, group.toNat)]) ∧
      (pass = false → gone u c (group.toNat + 1)) ∧ (last → u.boot.step = 11) ∧
      (∀ k, coreInUse d k = true → d.boot.reported.getLsbD k.toNat = false → k ≠ c → u.boot.step = 10))) ∧
  (up → b.step = 10 → after (.selfTestReport .sharedUnit) (failed 4)) ∧
  (up → b.step = 10 → coreInUse d c = true → d.boot.reported.getLsbD c.toNat = false → last →
    after .selfTestTimeout (fun u => u.boot.step = 11 ∧ gone u c 0x0A)) ∧
  (up → b.step = 10 → d.boot.reported.getLsbD c.toNat = true → coreInUse d c = true → last →
    after .selfTestTimeout (fun u => u.boot.step = 11 ∧ u.ident = d.ident ∧ (getCore u c).pmem = [] ∧
      ∀ a, a < 0x100000000 → memGet u.mem a = memGet d.mem a)) ∧
  (up → b.step = 11 → d.ident.countValid = false → after (.ready us) (fun u => u.ident = { d.ident with countValid := true } ∧
    u.boot = { b with bootTime := us } ∧ u.cores = d.cores ∧
    (∃ e ∈ u.stew.events, e.kind = 1 ∧ e.bytes = leBytes 4 (dieCores u).toNat) ∧ (d.stew.requests = [] → d.stew.events = [] → d.stew.evtPending = 0 → u.mem = d.mem) ∧
    ∀ k, k < 8 → (tabGet Window.reset d.trust.windows k).granted = true → (tabGet Window.reset u.trust.windows k).open_ = true)) ∧
  (up → d.ident.countValid = true → exec (.ready us) s = .next s)

/-! ### The Keyholder and debug (R365 to R367, R383 to R400) -/

/-- R389, R391 to R394: a good image is written to its uncommitted slot, a bad one answered with the first cause; a commit verifies again and
switches the selector; ATTEST writes the report of one snapshot and answers 512, or DETAIL 7 without an identity key. -/
def Obligations.FirmwareIsStaged : Prop := ∀ (s : State) (n : Nat) (m0 : Msg),
  let d := s.die
  let m := clip m0
  let image := msgByte m 0x10
  let src := msgLE m 0x18 8
  let len := msgLE m 0x14 4
  let dest := msgLE m 0x30 8
  let other := 1 - committedSlot d image
  let l := argRead d src len
  let answers (i : Instr) (e : Die) (st det : Nat) (p : List Byte) : Prop := exec i s = .next (s.withDie (answer e n m st det p))
  (asks d n opFwStage 16 fwBad .none stageArgs m0 →
    (∀ st det, imageFault d image l = some (st, det) → answers (.fwStage n) (drew (argSense src len d)) st det []) ∧
    (imageFault d image l = none → ∃ u : Die, answers (.fwStage n) u stOk 0 [BitVec.ofNat 8 (imgSecver l)] ∧
      memRead u.flash (slotOff image other) l.length = l ∧ ElseSame d.flash u.flash (slotOff image other) l.length ∧
      u = { drew (argSense src len d) with flash := u.flash })) ∧
  (asks d n opFwCommit 1 fwBad .none noArgs m0 →
    (slotEmpty d image other = true → answers (.fwCommit n) d stFwVerify 6 []) ∧
    (∀ st det, slotEmpty d image other = false → imageFault d image (slotImage d image other) = some (st, det) →
      answers (.fwCommit n) d st det []) ∧
    (slotEmpty d image other = false → imageFault d image (slotImage d image other) = none →
      ∃ u : Die, answers (.fwCommit n) u stOk 0 [] ∧ committedSlot u image = other ∧ u = { d with flash := u.flash } ∧
        ElseSame d.flash u.flash (selectorOff + image) 1)) ∧
  (∀ k, asks d n opAttest 40 attestBad .none attestArgs m0 → pufOf d = some k →
    answers (.attest n) (argWrite (drew d) dest (report d (slice m.bytes 0x10 32) (identityKey d k))) stOk 0 (leBytes 2 512)) ∧
  (asks d n opAttest 40 attestBad .none attestArgs m0 → pufOf d = none → answers (.attest n) d stKeyholderDenied 7 []) ∧
  (∀ e, imageFault d image l = some e ↔
    ((l.length ≠ 512 + imgBodyLen l ∨ imgHeaderOk image l = false) ∧ e = (stFwVerify, 1)) ∨
    (l.length = 512 + imgBodyLen l ∧ imgHeaderOk image l = true ∧
      ((signerOk d (deB l 6) (slice l 0x60 57) image = false ∧ e = (stFwVerify, 2)) ∨
       (signerOk d (deB l 6) (slice l 0x60 57) image = true ∧
        ((sigOk (slice l 0x60 57) (slice l 0 0x180) (slice l 0x180 114) = false ∧ e = (stFwVerify, 3)) ∨
         (sigOk (slice l 0x60 57) (slice l 0 0x180) (slice l 0x180 114) = true ∧
          ((slice l 0x20 64 ≠ Config.shake256 64 (digested image l) ∧ e = (stFwVerify, 4)) ∨
           (slice l 0x20 64 = Config.shake256 64 (digested image l) ∧
            ((bodyLimit image < imgBodyLen l ∧ e = (stFwVerify, 5)) ∨
             (imgBodyLen l ≤ bodyLimit image ∧ imgSecver l < secverFused d ∧ e = (stFwRollback, imgSecver l)))))))))))

/-- R365 to R367, R390: FUSE_PROGRAM of each KIND refuses what the fuses do not allow, then a full log, a missing supply, a bad authorisation;
else its event begins, log word first; each word programmed is whole, the last one ends the event; loss of VDD_EFUSE leaves one word
incomplete and ends it with DETAIL 1. -/
def Obligations.FusesAreProgrammed : Prop := ∀ (s : State) (n : Nat) (m0 : Msg),
  let d := s.die
  let m := clip m0
  let ran (i : Instr) (e : Die) : Prop := exec i s = .next (s.withDie e)
  let row (i : Instr) (kind : Nat) : Prop := asks d n opFuseProgram 16 fuseBadFields .none fuseArgs m0 → fuseKind m = kind → d.fuse.event = none →
    (∀ st det, fuseRefused d m = some (st, det) → ran i (answer d n m st det [])) ∧
    (fuseRefused d m = none → blankWords d 0x2FF 128 = [] → ran i (answer d n m stFuseLimit 0 [])) ∧
    (fuseRefused d m = none → blankWords d 0x2FF 128 ≠ [] → d.fuse.efusePg = false → ran i (answer d n m stKeyholderDenied 1 [])) ∧
    (∀ det, fuseRefused d m = none → blankWords d 0x2FF 128 ≠ [] → d.fuse.efusePg = true → kind ≠ 4 → authFault d m = some det →
      ran i (answer (drew d) n m stKeyholderDenied det [])) ∧
    (∀ w l, fuseRefused d m = none → blankWords d 0x2FF 128 = w :: l → d.fuse.efusePg = true → (kind = 4 ∨ authFault d m = none) →
      fuseTargets d m ≠ [] →
      ∃ u : Die, ran i u ∧ u.fuse.programming = true ∧ u.trust.busy = true ∧ u.fuse.otp = d.fuse.otp ∧ u.stew = d.stew ∧
        ∃ ev, u.fuse.event = some ev ∧ ev.msg = m ∧
          ev.words = ((w, logData d m) :: fuseTargets d m).map (fun p => (BitVec.ofNat 10 p.1, fuseFull p.1 p.2))) ∧
    (fuseRefused d m = none → blankWords d 0x2FF 128 ≠ [] → d.fuse.efusePg = true → (kind = 4 ∨ authFault d m = none) →
      fuseTargets d m = [] → ran i (answer (drew d) n m stOk 0 (usesReply d kind)))
  (row (.fuseProgramSecver n) 0) ∧ (row (.fuseProgramOwnerKey n) 1) ∧ (row (.fuseProgramDowngrade n) 2) ∧
  (row (.fuseProgramDebugDisable n) 3) ∧ (row (.fuseProgramSoftRepair n) 4) ∧
  (∀ ev w v rest, d.fuse.event = some ev → ev.words = (w, v) :: rest → rest ≠ [] →
    exec .fuseWordProgrammed s = .next (s.withDie { d with fuse := { d.fuse with
      otp := tabSet 0 d.fuse.otp w.toNat v, event := some { ev with words := rest } } })) ∧
  (∀ ev w v, d.fuse.event = some ev → ev.words = [(w, v)] →
    ∃ u : Die, exec .fuseWordProgrammed s = .next (s.withDie u) ∧ u.fuse.event = none ∧ u.fuse.programming = false ∧ u.trust.busy = false ∧
      fuseWord u w.toNat = v ∧ (∀ k, k ≠ w.toNat → fuseWord u k = fuseWord d k) ∧ u.fuse.seen = u.fuse.otp ∧
      u.trust.secver = BitVec.ofNat 8 (secverFused u) ∧
      (ev.kind = 2 → u.ident.variant = BitVec.ofNat 4 (effVariant u)) ∧ u.mem = d.mem) ∧
  (exec .vddEfuseGood s = .next (s.withDie { d with fuse := { d.fuse with efusePg := true } })) ∧
  (d.fuse.event = none → exec .vddEfuseLoss s = .next (s.withDie { d with fuse := { d.fuse with efusePg := false } })) ∧
  (∀ ev w v rest, d.fuse.event = some ev → ev.words = (w, v) :: rest →
    ∃ u : Die, exec .vddEfuseLoss s = .next (s.withDie u) ∧ u.fuse.efusePg = false ∧ u.fuse.event = none ∧
      fuseIncomplete (fuseWord u w.toNat) = true ∧ (∀ k, k ≠ w.toNat → fuseWord u k = fuseWord d k))

/-- R396 to R400, R16: OPEN is set only where GRANTED is 1, clearing it leaves the window CLOSING until it completes; a challenge gives a fresh
nonce and ends every earlier one, or zeros; every response consumes the nonce, a rejected one counts; an accepted one opens its session with
its scope once no window is CLOSING; the end of the session lets every halted target go on and opens the windows again. -/
def Obligations.WindowsAndSessions : Prop := ∀ (s : State) (n : BitVec 3) (l : List Byte),
  let d := s.die
  let t := d.trust
  let w := tabGet Window.reset t.windows n.toNat
  let win (i : Instr) (w' : Window) : Prop := ∃ u : Die, exec i s = .next (s.withDie u) ∧ u = { d with trust := { t with
    windows := u.trust.windows } } ∧ tabGet Window.reset u.trust.windows n.toNat = w' ∧
    ∀ k, k ≠ n.toNat → tabGet Window.reset u.trust.windows k = tabGet Window.reset t.windows k
  let open_ (u : Die) (k : Nat) : Bool := (tabGet Window.reset u.trust.windows k).open_
  win (.khFwinOpen n) (if w.granted then { w with open_ := true } else w) ∧
  win (.khFwinClose n) (if w.open_ then { w with open_ := false, closing := true } else w) ∧
  (stillOpen d w = false → win (.windowCloseComplete n) { w with closing := false, admitted := [] }) ∧
  (stillOpen d w = true → exec (.windowCloseComplete n) s = .next s) ∧
  (khAnswers d = true → exec .dbgChal s = .next (s.withDie { d with
    test := { d.test with ir := 0x10, bypass := false, driving := false },
    trust := { t with nonce := some (Config.nonce t.nonces), nonces := t.nonces + 1 },
    out := d.out ++ [.tap (Config.nonce t.nonces)] })) ∧
  (d.boot.aon = false → exec .dbgChal s = .next s ∧ exec (.dbgResp l) s = .next s) ∧
  (khAnswers d = false → d.boot.aon = true → exec .dbgChal s = .next (s.withDie { d with
    test := { d.test with ir := 0x10, bypass := false, driving := false }, out := d.out ++ [.tap 0] })) ∧
  (khAnswers d = true → respOk d l = true →
    ∃ u : Die, exec (.dbgResp l) s = .next (s.withDie u) ∧ u.trust.nonce = none ∧ u.trust.dbgFails = t.dbgFails ∧
      u.trust.pendingSession = some (BitVec.ofNat 5 (deB l 4), BitVec.ofNat 12 (deLE l 0x30 2)) ∧
      ∀ k, k < 8 → open_ u k = false ∧ (open_ d k = true → (tabGet Window.reset u.trust.windows k).closing = true)) ∧
  (khAnswers d = true → respOk d l = false → exec (.dbgResp l) s = .next (s.withDie { d with
    test := { d.test with ir := 0x11, bypass := false, driving := false },
    trust := { t with nonce := none, dbgFails := t.dbgFails + 1 } })) ∧
  (khAnswers d = false → ∃ u : Die, exec (.dbgResp l) s = .next (s.withDie u) ∧ u.trust = t) ∧
  ((debugOff d = true ∨ t.dbgFails = 8) → khAnswers d = false) ∧
  (∀ scope secs, t.pendingSession = some (scope, secs) → (∀ k, k < 8 → (tabGet Window.reset t.windows k).closing = false) →
    exec .debugSessionOpen s = .next (s.withDie { d with
      trust := { t with dbgOpen := true, dbgScope := scope, dbgSeconds := secs, dbgSince := d.power.refCnt.toNat, pendingSession := none } })) ∧
  (∀ k, k < 8 → (tabGet Window.reset t.windows k).closing = true → exec .debugSessionOpen s = .next s) ∧
  (t.pendingSession = none → exec .debugSessionOpen s = .next s) ∧
  (t.dbgOpen = true →
    ∃ u : Die, exec .debugSessionExpiry s = .next (s.withDie u) ∧ u.trust.dbgOpen = false ∧ u.trust.dbgScope = 0 ∧
      u.trust.dbgSeconds = 0 ∧ u.test.stewHalted = 0 ∧ u.mem = d.mem ∧
      (∀ c x, (threadAt u c x).dbgHalted = false ∧ (threadAt u c x).dbgStep = false) ∧
      (stewardUp d = true → ∀ k, k < 8 → (tabGet Window.reset t.windows k).granted = true → open_ u k = true)) ∧
  (t.dbgOpen = false → exec .debugSessionExpiry s = .next s)

/-! ### The test access port and loopback (R429 to R435) -/

/-- R429, R430, R433: an instruction is selected where it is available, else BYPASS; IDCODE reads 0x005A_15D3, PRELOAD fills the boundary cells,
EXTEST drives them, STM_ENTER keeps a multiplier of 12 to 72; a TAP reset selects IDCODE and ends the session; with VDD_AON down the port
does nothing.

R435: a START sets BUSY with its gate and modules unless a run is in progress or the gate is in use in a package, which sets REFUSED; the
end of a run clears BUSY and writes DONE, PASS and the first failing wire for the modules of the run, and for no other. -/
def Obligations.TapAndLoopback : Prop :=
  (∀ (s : State) (cells : BitVec 25) (mult : BitVec 8) (v : BitVec 32),
  let d := s.die
  let t := d.test
  let ir (code : BitVec 8) (byp : Bool) : TestSt := { t with ir := code, bypass := byp, driving := false }
  let sets (i : Instr) (t' : TestSt) : Prop := tapUp d = true → exec i s = .next (s.withDie { d with test := t' })
  let row (i : Instr) (avail : Bool) (t' : TestSt) : Prop := sets i (if avail then t' else ir 0xFF true)
  let sealed := isSealed d
  (tapUp d = true → exec .idcode s = .next (s.withDie { d with test := ir 0x01 false, out := d.out ++ [.tap 0x005A15D3] })) ∧
  row (.samplePreload cells) true { ir 0x02 false with boundary := cells } ∧
  row .extest d.boot.porst { ir 0x03 false with driving := true } ∧
  row (.stmEnter mult) (!sealed) (if 12 ≤ mult.toNat ∧ mult.toNat ≤ 72 then { ir 0x20 false with stmMult := some mult } else ir 0x20 false) ∧
  row .wrap (!sealed && t.stm) (ir 0x21 false) ∧ row .scan (!sealed && t.stm) (ir 0x22 false) ∧
  row .mbist (!sealed && t.stm) (ir 0x23 false) ∧ row .tier (!sealed && t.stm) (ir 0x24 false) ∧ row .bypass true (ir 0xFF true) ∧
  ((sealed = true ∨ t.stm = false) → sets (.loopSelect v) (ir 0xFF true)) ∧
  (sealed = false → t.stm = true → inReset d = false → tapUp d = true →
    ∃ u : Die, exec (.loopSelect v) s = .next (s.withDie u) ∧ exec (.registerWrite .steward 0x1F0100 (v.setWidth 64))
      (s.withDie { d with test := ir 0x25 false }) = .next (s.withDie u)) ∧
  (tapUp d = true → ∃ u : Die, exec .tapReset s = .next (s.withDie u) ∧ u.test.ir = 0x01 ∧ u.test.boundary = 0 ∧ u.test.driving = false ∧
    u.test.dbgDone = false ∧ u.trust.dbgOpen = false ∧ u.mem = d.mem ∧ ∀ c x, d.trust.dbgOpen = false →
    threadAt u c x = threadAt d c x) ∧
  (∀ i ∈ ([.tapReset, .idcode, .samplePreload cells, .extest, .stmEnter mult, .wrap, .scan, .mbist, .tier, .loopSelect v, .bypass] : List Instr),
    tapUp d = false → exec i s = .next s)) ∧
  (∀ (s : State) (g : BitVec 5) (mods : BitVec 6) (r : LoopResult),
  let d := s.die
  let t := d.test
  let busy := bitB t.loop 30
  let training : Prop := 2 ≤ d.link.state.toNat ∧ d.link.state.toNat ≤ 6
  let held : Prop := t.stm = false ∧ (bitB d.link.agreed g.toNat = true ∨ training)
  let took (u : Die) : Prop := u = { d with test := { t with loop := u.test.loop, loopRun := u.test.loopRun } } ∧
    fld u.test.loop 24 5 = g.toNat ∧ fld u.test.loop 18 6 = mods.toNat
  (inReset d = false → busy = false → ¬ held →
    ∃ u : Die, exec (.tstLoopStart g mods) s = .next (s.withDie u) ∧ took u ∧ bitB u.test.loop 30 = true ∧
      fld u.test.loopRun 6 5 = g.toNat ∧ fld u.test.loopRun 0 6 = mods.toNat) ∧
  (inReset d = false → (busy = true ∨ held) →
    ∃ u : Die, exec (.tstLoopStart g mods) s = .next (s.withDie u) ∧ took u ∧ bitB u.test.loop 30 = busy ∧ bitB u.test.loop 29 = true ∧
      u.test.loopRun = t.loopRun) ∧
  (inReset d = true → exec (.tstLoopStart g mods) s = .next s) ∧
  (busy = true → inRun d r.m.toNat = true →
    ∃ u : Die, exec (.loopbackDone [r]) s = .next (s.withDie u) ∧ bitB u.test.loop 30 = false ∧
      tabGet 0 u.test.loopRes r.m.toNat = packed 64 [(63, 1, 1), (62, 1, b2n r.pass), (40, 7, if r.pass then 0 else r.wire.toNat),
        (0, 32, if r.pass then 0 else r.errors.toNat)] ∧
      (∀ k, k ≠ r.m.toNat → tabGet 0 u.test.loopRes k = tabGet 0 t.loopRes k) ∧ u = { d with test := u.test }) ∧
  (busy = true → inRun d r.m.toNat = false →
    ∃ u : Die, exec (.loopbackDone [r]) s = .next (s.withDie u) ∧ bitB u.test.loop 30 = false ∧ u.test.loopRes = t.loopRes) ∧
  (busy = false → exec (.loopbackDone [r]) s = .next s))

/-- R398, R399, R431, R432: an access outside an open session's scope is refused and changes nothing but what Capture-DR shows; one inside it
reads or writes eight bytes; TST_DBG_CTL halts, resumes and steps the thread or Steward core it selects. -/
def Obligations.DebugAccesses : Prop := ∀ (s : State) (write : Bool) (off : BitVec 38) (x : BitVec 64) (v : BitVec 32) (c : CoreId),
  let d := s.die
  let t := d.test
  let o := off.toNat
  let scope (i : Nat) : Bool := d.trust.dbgOpen && bitB d.trust.dbgScope i
  let shown (u : Die) (denied : Bool) (at_ : BitVec 38) (y : BitVec 64) : Prop := u.test.dbgDone = true ∧ u.test.dbgDenied = denied ∧
    u.test.dbgOff = at_ ∧ u.test.dbgData = y
  let ctl : BitVec 38 := 0x3001F0000
  let who := v.extractLsb' 19 9
  let thr := bitB v 18
  let core := fld v 16 2
  (tapUp d = true → covers d write o x = false → exec (.dbgAccess write off x) s = .next (s.withDie { d with test := { t with
    ir := 0x12, bypass := false, driving := false, dbgDone := true, dbgDenied := true, dbgOff := off, dbgData := 0 } })) ∧
  (∀ w, (d.trust.dbgOpen = false ∨ o % 8 ≠ 0) → covers d w o x = false) ∧
  (tapUp d = true → coreInUse d c = true → scope 2 = true → o % 8 = 0 → storeBase c ≤ o → o < storeBase c + storeSize →
    (∃ u : Die, exec (.dbgAccess true off x) s = .next (s.withDie u) ∧ shown u false off 0 ∧ u.mem = memWrite d.mem o (leBytes 8 x.toNat) ∧
      u.cores = d.cores) ∧
    (∃ u : Die, exec (.dbgAccess false off x) s = .next (s.withDie u) ∧ shown u false off (BitVec.ofNat 64 (memLE d.mem o 8)) ∧
      u.mem = d.mem ∧ u.cores = d.cores)) ∧
  (tapUp d = true → coreInUse d c = true → scope 2 = true → o % 8 = 0 → sliceBase c ≤ o → o < sliceBase c + sliceSize →
    (∃ u : Die, exec (.dbgAccess true off x) s = .next (s.withDie u) ∧ shown u false off 0 ∧ u.mem = memWrite d.mem o (leBytes 8 x.toNat) ∧
      u.cores = d.cores) ∧
    (ueIn d c (o % sliceSize) 8 = none → ∃ u : Die, exec (.dbgAccess false off x) s = .next (s.withDie u) ∧
      shown u false off (BitVec.ofNat 64 (memLE d.mem o 8)) ∧ u.mem = d.mem ∧ u.cores = d.cores)) ∧
  (tapUp d = true → scope 4 = true → coreInUse d who = true → bitB v 28 = true → bitB v 29 = false →
    ∃ u : Die, exec (.tstDbgHalt v) s = .next (s.withDie u) ∧ shown u false ctl 0 ∧ u.mem = d.mem ∧ bitB u.test.dbgCtl 31 = bitB v 30 ∧
      threadAt u who thr = { threadAt d who thr with dbgHalted := bitB v 30, dbgStep := false } ∧
      threadAt u who (!thr) = threadAt d who (!thr) ∧ ∀ k, k ≠ who → getCore u k = getCore d k) ∧
  (tapUp d = true → scope 4 = true → coreInUse d who = false → bitB v 28 = true → bitB v 30 = true → (threadAt d who thr).dbgHalted = false →
    ∃ u : Die, exec (.tstDbgHalt v) s = .next (s.withDie u) ∧ u.cores = d.cores ∧ bitB u.test.dbgCtl 30 = false) ∧
  (tapUp d = true → scope 3 = true → bitB v 28 = false →
    ∃ u : Die, exec (.tstDbgHalt v) s = .next (s.withDie u) ∧ shown u false ctl 0 ∧ u.cores = d.cores ∧ u.mem = d.mem ∧
      bitB u.test.stewHalted core = bitB v 30 ∧ ∀ k, k < 4 → k ≠ core → bitB u.test.stewHalted k = bitB t.stewHalted k) ∧
  (v = t.dbgCtl → tapUp d = true → scope 4 = true → coreInUse d who = true → bitB v 28 = true →
    ∃ u : Die, exec .tstDbgStep s = .next (s.withDie u) ∧ u.mem = d.mem ∧
      threadAt u who thr = { threadAt d who thr with dbgHalted := true, dbgStep := true } ∧
      threadAt u who (!thr) = threadAt d who (!thr)) ∧
  (tapUp d = false → exec (.dbgAccess write off x) s = .next s ∧ exec (.tstDbgHalt v) s = .next s ∧ exec .tstDbgStep s = .next s)

/-! ### Registers (R6, R7, R61, R83, R119, R161, R203, R208, R240, R348, R352, R356, R383, R390, R396) -/

/-- R7, R383: each register write loads what its register keeps, with its clamps, and nothing else: the array's registers wait until their half
is idle, a ring's until it is IDLE; a write to a core that is not in use, an unmapped offset, a held die, without a session that allows it, or
by the Keyholder outside steps 7 and 8 changes nothing; the ceiling only goes down from the fused limit. -/
def Obligations.RegisterWritesLoad : Prop := ∀ (s : State) (c : CoreId) (t h : Bool) (v : BitVec 64) (w : BitVec 32) (r n : BitVec 3)
    (off : BitVec 26) (a : Agent),
  let d := s.die
  let x := getCore d c
  let up : Prop := inReset d = false
  let core (i : Instr) (P : Core → Prop) : Prop := inReset d = false → coreInUse d c = true →
    ∃ u : Die, exec i s = .next (s.withDie u) ∧ OnlyCore c d u ∧ P (getCore u c)
  let busy := halfBusy x (if h then .h1 else .h0)
  let reg (o : Nat) (v : BitVec 64) : Instr := .registerWrite .steward (BitVec.ofNat 26 o) v
  let coreAt (o : Nat) : Nat := 0x800000 + 0x10000 * c.toNat + o
  let die (i : Instr) (u : Die) : Prop := up → exec i s = .next (s.withDie u)
  let same (i j : Instr) : Prop := up → coreInUse d c = true → exec i s = exec j s
  core (.coreSrSeedWrite c t v) (fun y => y = if t then { x with seed1 := if v = 0 then 1 else v }
    else { x with seed0 := if v = 0 then 1 else v }) ∧
  core (.accCfgWrite c w) (fun y => y.acc = x.acc ∧ y.ops = x.ops ∧
    (halfBusy x .full = true → y.accHeld = some w ∧ y.accCfg = x.accCfg) ∧
    (halfBusy x .full = false → y.accHeld = none ∧ bitB y.accCfg 0 = bitB w 0 ∧
      (bitB w 0 = bitB x.accCfg 0 → y.accCfg = x.accCfg) ∧
      (bitB w 0 ≠ bitB x.accCfg 0 → fld y.accCfg 8 16 = 0))) ∧
  core (.abftCfgWrite c h false w) (fun y => (busy = true → (h, false, w) ∈ y.abftHeld ∧
      (if h then y.abftCfg1 = x.abftCfg1 else y.abftCfg0 = x.abftCfg0)) ∧
    (busy = false → let z := if h then y.abftCfg1 else y.abftCfg0
      fld z 0 5 = max 8 (min 24 (fld w 0 5)) ∧ bitB z 31 = bitB w 31 ∧ fld z 5 26 = 0)) ∧
  core (.abftCfgWrite c h true w) (fun y => (busy = true → (h, true, w) ∈ y.abftHeld) ∧
    (busy = false → (if h then y.abftFloor1 else y.abftFloor0) = if w = 0x80000000#32 then w
      else if bitB w 31 = true ∨ fld w 23 8 = 255 then 0x00800000#32 else w)) ∧
  core (.coreRingWrite c r v) (fun y => (ringIdle d c r.toNat = false → y = x) ∧
    (ringIdle d c r.toNat = true → (∀ k, k ≠ r.toNat → getRing y k = getRing x k) ∧
      ∃ cfg, getRing y r.toNat = { getRing x r.toNat with cfg := cfg } ∧
        (bitB cfg 63 = true ↔ bitB v 63 = true ∧ ringPairOk (fld v 61 2) (fld v 59 2) = true ∧
          (fld v 59 2 = 2 ∨ 512 * fld v 0 10 + 4 * (512 * (fld v 16 6 + 1)) ≤ 524288)) ∧
        fld cfg 59 4 = fld v 59 4 ∧ fld cfg 33 14 = fld v 33 14 ∧ fld cfg 16 6 = fld v 16 6 ∧ fld cfg 0 10 = fld v 0 10 ∧
        fld cfg 47 12 = 0 ∧ fld cfg 22 11 = 0 ∧ fld cfg 10 6 = 0)) ∧
  (up → ∃ u : Die, exec (.meshPortWrite c v) s = .next (s.withDie u) ∧ OnlyCore c d u ∧
    getCore u c = { x with portEpoch := v.extractLsb' 32 8, portParty := v.extractLsb' 16 12 }) ∧
  (∀ i ∈ ([.coreSrSeedWrite c t v, .accCfgWrite c w, .abftCfgWrite c h t w, .coreRingWrite c r v] : List Instr),
    (coreInUse d c = false ∨ inReset d = true) → exec i s = .next s) ∧
  ((inReset d = true ∨ off.toNat % 4 ≠ 0 ∨ regMapped d off.toNat = false ∨ (a = .debug ∧ debugWrites d = false) ∨
    (a = .keyholder ∧ d.boot.step ≠ 7 ∧ d.boot.step ≠ 8)) → exec (.registerWrite a off v) s = .next s) ∧
  same (reg (coreAt (0x200 + 8 * b2n t)) v) (.coreSrSeedWrite c t v) ∧
  same (reg (coreAt 0x120) v) (.accCfgWrite c (v.setWidth 32)) ∧
  same (reg (coreAt (0x140 + 8 * b2n t + 4 * b2n h)) v) (.abftCfgWrite c h t (v.setWidth 32)) ∧
  same (reg (coreAt (0x800 + 8 * r.toNat)) v) (.coreRingWrite c r v) ∧
  same (reg (0xC0000 + 8 * c.toNat) v) (.meshPortWrite c v) ∧
  same (reg 0x20000 v) (.pwrOpTargetWrite (v.extractLsb' 16 3)) ∧
  same (reg (0x50110 + 32 * n.toNat) v) (if bitB v 31 then .khFwinOpen n else .khFwinClose n) ∧
  (die (reg 0x20004 v) d) ∧
  (∀ op ceil, up → (d.boot.step = 7 ∨ d.boot.step = 8) → variantLimits (effVariant d) = some (op, ceil) →
    ∃ u : Die, exec (.registerWrite .keyholder 0x20004 v) s = .next (s.withDie u) ∧ u.power.ceil.toNat = min (fld v 0 16) ceil ∧
      u = { d with power := { d.power with ceil := u.power.ceil } }) ∧
  (up → ∃ u : Die, exec (reg 0x30080 v) s = .next (s.withDie u) ∧ u = { d with power := { d.power with thmHot := u.power.thmHot } } ∧
    u.power.thmHot.toInt = max 240 (min 420 (v.setWidth 16).toInt)) ∧
  (die (reg 0x80010 v) (if 6 ≤ d.link.state.toNat then d else { d with link := { d.link with offer := v.setWidth 32 } })) ∧
  (die (reg 0x140000 v) { d with ledger := { d.ledger with dirBase := v &&& 0x8000FFFFFFF00000#64 } }) ∧
  (die (reg 0x40 v) (if bitB v 63 then { d with flt := { d.flt with fatalValid := false } } else d)) ∧
  (die (reg 0x180000 v) { d with lodge := { d.lodge with
    softEn := bitB v 31, softThresh := if fld v 0 8 = 0 then 1 else v.extractLsb' 0 8 } })

/-- R390: a security-version step is refused with KEYHOLDER_DENIED, DETAIL 6, while the committed slot of an image holds one below the new
version; after a step no image below it verifies, and none is booted from either slot. -/
def Obligations.SecurityVersionSteps : Prop := ∀ (s : State) (n : Nat) (m0 : Msg),
  let d := s.die
  let m := clip m0
  let l := authBytes d m
  let key := slice l 0x58 57
  (asks d n opFuseProgram 16 fuseBadFields .none fuseArgs m0 → fuseKind m = 0 → d.fuse.event = none → fuseRefused d m = none →
    blankWords d 0x2FF 128 ≠ [] → d.fuse.efusePg = true → authShape m l = true →
    signerOk d (deB l 6) key useFuse = true → sigOk key (slice l 0 0x100) (slice l 0x100 114) = true →
    deLE l 8 8 = dieSerial d → deB l 7 = 128 - logFree d →
    ((∃ i, i < 3 ∧ slotEmpty d i (committedSlot d i) = false ∧ calLE d (slotOff i (committedSlot d i) + 5) 1 < fuseArg m) →
      exec (.fuseProgramSecver n) s = .next (s.withDie (answer (drew d) n m stKeyholderDenied 6 []))) ∧
    ((∀ i, i < 3 → slotEmpty d i (committedSlot d i) = true ∨ fuseArg m ≤ calLE d (slotOff i (committedSlot d i) + 5) 1) →
      ∃ u : Die, exec (.fuseProgramSecver n) s = .next (s.withDie u) ∧ u.stew = d.stew ∧ u.fuse.event.isSome = true)) ∧
  (∀ ev w v, d.fuse.event = some ev → ev.kind = 0 → ev.words = [(w, v)] →
    ∃ u : Die, exec .fuseWordProgrammed s = .next (s.withDie u) ∧ u.trust.secver = BitVec.ofNat 8 (secverFused u) ∧
      ∀ image, (∀ b, imgSecver b < secverFused u → (imageFault u image b).isSome = true) ∧
        ∀ slot, imgSecver (slotImage u image slot) < secverFused u → bootSlot u image ≠ some slot)

/-! ### The block as a whole -/

/-- A step carries out the command at the front of the queue, with the queue's rest; on an empty queue one ACLK passes (the model's choice:
assumption log 2). -/
def Obligations.StepRunsTheFront : Prop := ∀ (c : Instr) (s : State),
  step { s with pending := c :: s.pending } = exec c s ∧ (s.pending = [] → step s = .next { s with die := idle s.die })

/-- R65, R78, R156: an ACLK that brings no command (the model's choice: assumption log 2) counts; the answers of Ledger hits whose cycle has
come are written; a half goes cold once 256 idle ACLK have passed, both alike in full mode; a core with nothing under way keeps its array; no
memory, message, request or clock changes. -/
def Obligations.TimePasses : Prop := ∀ (s : State), s.pending = [] →
  let d := s.die
  ∃ u : Die, step s = .next (s.withDie u) ∧ u.aclk = d.aclk + 1 ∧
    u = { d with aclk := u.aclk, cores := u.cores, flt := u.flt, lodge := u.lodge, freeCtr := u.freeCtr } ∧
    ∀ c : CoreId,
      let x := getCore d c
      let y := getCore u c
      y.pmem = x.pmem ∧ y.waybills = x.waybills ∧ y.lines = x.lines ∧ y.latch = x.latch ∧ y.partials = x.partials ∧ y.fault = x.fault ∧
      (x.split = false → y.cold0 = y.cold1) ∧ (x.ops = [] → x.lastAct0 + 257 ≤ d.aclk + 1 → y.cold0 = true) ∧
      (x.ops = [] → y.ops = [] ∧ y.acc = x.acc ∧ y.tag0 = x.tag0 ∧ y.tag1 = x.tag1 ∧ y.tsw = x.tsw ∧ y.flagMem = x.flagMem) ∧
      ∀ t : Bool,
        let th := threadAt d c t
        let uh := threadAt u c t
        ((∀ a ∈ th.answers, d.aclk + 1 < a.1) → uh = th) ∧ (∀ a ∈ uh.answers, d.aclk + 1 < a.1) ∧
        (∀ n r v, th.answers = [(n, r, v)] → n ≤ d.aclk + 1 → uh = { payReg r .berth v th with answers := [] })

/-- Every command completes, whatever its operands and the state: it answers a next state with the queue as it was, and neither faults nor is
refused; one whose operands name what the hardware does not have changes nothing. -/
def Obligations.EveryCommandCompletes : Prop := ∀ (i : Instr) (s : State),
  (∃ u : Die, exec i s = .next (s.withDie u)) ∧ (∀ m f, moduleOk m = false → exec (.flitAccept m f) s = .next s) ∧
  (∀ r, lineOk r = false → exec (.hubReadRequest r) s = .next s) ∧ (∀ n, sensorOk n = false → exec (.thermalTrip n) s = .next s)

/-- A queue of commands is worked off first in, first out: one step for each, none stops, and the queue is then empty. -/
def Obligations.QueueIsWorkedOff : Prop := ∀ (s : State),
  ∃ run : Nat → State, run 0 = s ∧ (run s.pending.length).pending = [] ∧
    ∀ k, k < s.pending.length → step (run k) = .next (run (k + 1)) ∧ (run k).pending = s.pending.drop k

/-- Every step keeps die-local memory, package memory and the flash in their canonical form, so that equal memories are equal data. -/
def Obligations.MemoriesStayCanonical : Prop := ∀ (s t : State),
  Memory.wf s.die.mem = true → Memory.wf s.die.pkg = true → Memory.wf s.die.flash = true → step s = .next t →
  Memory.wf t.die.mem = true ∧ Memory.wf t.die.pkg = true ∧ Memory.wf t.die.flash = true

/-- R334, R336: the effective operating point stays the least of TARGET, OP_L and MAX_OP through every step. -/
def Obligations.EffectiveOpStaysLeast : Prop := ∀ (s t : State),
  s.die.power.effective.toNat = effectiveOp s.die.power → step s = .next t → t.die.power.effective.toNat = effectiveOp t.die.power

/-- What reset leaves: the queue empty, the die held by PORST_N, the memories empty and canonical, the effective point the least of the three
(values the spec gives: PH_OWN, DIE_BOOT.STEP, CORE_SR_SEED, ACC_CFG.SHADOW, MESH_PORT.RESET, THM_HOT, CONTENT_LOST). -/
def Obligations.ResetLeaves : Prop :=
  let d := State.reset.die
  State.reset.pending = [] ∧ inReset d = true ∧ Memory.wf d.mem = true ∧ Memory.wf d.pkg = true ∧ Memory.wf d.flash = true ∧
  d.power.effective.toNat = effectiveOp d.power ∧ d.stew.own = 0xF000FFFF00000000#64 ∧ d.boot.step = 1 ∧ d.lodge.contentLost = true ∧
  d.power.thmHot = 0x0190 ∧ (∀ c, (getCore d c).seed0 = 1 ∧ (getCore d c).seed1 = 1 ∧ bitB (getCore d c).accCfg 0 = true ∧
    (getCore d c).portReset = true ∧ (getCore d c).portEpoch = 0 ∧ (getCore d c).abftFloor0 = 0x00800000)
end

