-- ==== Sys2Proof/Laws/State.lean ====
section
/-! SUPPORT. What each named update of the die leaves as it was, one lemma per field, and what the shape of a meaning answers. -/

namespace Sys2Proof.Machine

/-! ### send: a record of what leaves the die -/

@[simp] theorem send_aclk (d : Die) (o : Out) : (send d o).aclk = d.aclk := rfl
@[simp] theorem send_freeCtr (d : Die) (o : Out) : (send d o).freeCtr = d.freeCtr := rfl
@[simp] theorem send_mem (d : Die) (o : Out) : (send d o).mem = d.mem := rfl
@[simp] theorem send_pkg (d : Die) (o : Out) : (send d o).pkg = d.pkg := rfl
@[simp] theorem send_flash (d : Die) (o : Out) : (send d o).flash = d.flash := rfl
@[simp] theorem send_cores (d : Die) (o : Out) : (send d o).cores = d.cores := rfl
@[simp] theorem send_ident (d : Die) (o : Out) : (send d o).ident = d.ident := rfl
@[simp] theorem send_lodge (d : Die) (o : Out) : (send d o).lodge = d.lodge := rfl
@[simp] theorem send_ledger (d : Die) (o : Out) : (send d o).ledger = d.ledger := rfl
@[simp] theorem send_mesh (d : Die) (o : Out) : (send d o).mesh = d.mesh := rfl
@[simp] theorem send_tally (d : Die) (o : Out) : (send d o).tally = d.tally := rfl
@[simp] theorem send_stew (d : Die) (o : Out) : (send d o).stew = d.stew := rfl
@[simp] theorem send_link (d : Die) (o : Out) : (send d o).link = d.link := rfl
@[simp] theorem send_power (d : Die) (o : Out) : (send d o).power = d.power := rfl
@[simp] theorem send_boot (d : Die) (o : Out) : (send d o).boot = d.boot := rfl
@[simp] theorem send_fuse (d : Die) (o : Out) : (send d o).fuse = d.fuse := rfl
@[simp] theorem send_trust (d : Die) (o : Out) : (send d o).trust = d.trust := rfl
@[simp] theorem send_flt (d : Die) (o : Out) : (send d o).flt = d.flt := rfl
@[simp] theorem send_test (d : Die) (o : Out) : (send d o).test = d.test := rfl
@[simp] theorem send_out (d : Die) (o : Out) : (send d o).out = d.out ++ [o] := rfl

/-! ### drew: the free-value counter -/

@[simp] theorem drew_aclk (d : Die) : (drew d).aclk = d.aclk := rfl
@[simp] theorem drew_mem (d : Die) : (drew d).mem = d.mem := rfl
@[simp] theorem drew_pkg (d : Die) : (drew d).pkg = d.pkg := rfl
@[simp] theorem drew_flash (d : Die) : (drew d).flash = d.flash := rfl
@[simp] theorem drew_cores (d : Die) : (drew d).cores = d.cores := rfl
@[simp] theorem drew_ident (d : Die) : (drew d).ident = d.ident := rfl
@[simp] theorem drew_lodge (d : Die) : (drew d).lodge = d.lodge := rfl
@[simp] theorem drew_ledger (d : Die) : (drew d).ledger = d.ledger := rfl
@[simp] theorem drew_mesh (d : Die) : (drew d).mesh = d.mesh := rfl
@[simp] theorem drew_tally (d : Die) : (drew d).tally = d.tally := rfl
@[simp] theorem drew_stew (d : Die) : (drew d).stew = d.stew := rfl
@[simp] theorem drew_link (d : Die) : (drew d).link = d.link := rfl
@[simp] theorem drew_power (d : Die) : (drew d).power = d.power := rfl
@[simp] theorem drew_boot (d : Die) : (drew d).boot = d.boot := rfl
@[simp] theorem drew_fuse (d : Die) : (drew d).fuse = d.fuse := rfl
@[simp] theorem drew_trust (d : Die) : (drew d).trust = d.trust := rfl
@[simp] theorem drew_flt (d : Die) : (drew d).flt = d.flt := rfl
@[simp] theorem drew_test (d : Die) : (drew d).test = d.test := rfl
@[simp] theorem drew_out (d : Die) : (drew d).out = d.out := rfl
@[simp] theorem drew_freeCtr (d : Die) : (drew d).freeCtr = d.freeCtr + 1 := rfl

/-! ### waitUntil: time brought forward -/

@[simp] theorem waitUntil_freeCtr (d : Die) (t : Nat) : (waitUntil d t).freeCtr = d.freeCtr := rfl
@[simp] theorem waitUntil_mem (d : Die) (t : Nat) : (waitUntil d t).mem = d.mem := rfl
@[simp] theorem waitUntil_pkg (d : Die) (t : Nat) : (waitUntil d t).pkg = d.pkg := rfl
@[simp] theorem waitUntil_flash (d : Die) (t : Nat) : (waitUntil d t).flash = d.flash := rfl
@[simp] theorem waitUntil_ident (d : Die) (t : Nat) : (waitUntil d t).ident = d.ident := rfl
@[simp] theorem waitUntil_lodge (d : Die) (t : Nat) : (waitUntil d t).lodge = d.lodge := rfl
@[simp] theorem waitUntil_ledger (d : Die) (t : Nat) : (waitUntil d t).ledger = d.ledger := rfl
@[simp] theorem waitUntil_mesh (d : Die) (t : Nat) : (waitUntil d t).mesh = d.mesh := rfl
@[simp] theorem waitUntil_tally (d : Die) (t : Nat) : (waitUntil d t).tally = d.tally := rfl
@[simp] theorem waitUntil_stew (d : Die) (t : Nat) : (waitUntil d t).stew = d.stew := rfl
@[simp] theorem waitUntil_link (d : Die) (t : Nat) : (waitUntil d t).link = d.link := rfl
@[simp] theorem waitUntil_power (d : Die) (t : Nat) : (waitUntil d t).power = d.power := rfl
@[simp] theorem waitUntil_boot (d : Die) (t : Nat) : (waitUntil d t).boot = d.boot := rfl
@[simp] theorem waitUntil_fuse (d : Die) (t : Nat) : (waitUntil d t).fuse = d.fuse := rfl
@[simp] theorem waitUntil_trust (d : Die) (t : Nat) : (waitUntil d t).trust = d.trust := rfl
@[simp] theorem waitUntil_flt (d : Die) (t : Nat) : (waitUntil d t).flt = d.flt := rfl
@[simp] theorem waitUntil_test (d : Die) (t : Nat) : (waitUntil d t).test = d.test := rfl
@[simp] theorem waitUntil_out (d : Die) (t : Nat) : (waitUntil d t).out = d.out := rfl
@[simp] theorem waitUntil_cores (d : Die) (t : Nat) :
    (waitUntil d t).cores = tabMap Core.reset (fun _ x => passTime (max d.aclk t) x) d.cores := rfl
@[simp] theorem waitUntil_aclk (d : Die) (t : Nat) : (waitUntil d t).aclk = max d.aclk t := rfl

/-! ### setCore and modCore -/

@[simp] theorem setCore_aclk (d : Die) (c : CoreId) (x : Core) : (setCore d c x).aclk = d.aclk := rfl
@[simp] theorem setCore_freeCtr (d : Die) (c : CoreId) (x : Core) : (setCore d c x).freeCtr = d.freeCtr := rfl
@[simp] theorem setCore_mem (d : Die) (c : CoreId) (x : Core) : (setCore d c x).mem = d.mem := rfl
@[simp] theorem setCore_pkg (d : Die) (c : CoreId) (x : Core) : (setCore d c x).pkg = d.pkg := rfl
@[simp] theorem setCore_flash (d : Die) (c : CoreId) (x : Core) : (setCore d c x).flash = d.flash := rfl
@[simp] theorem setCore_ident (d : Die) (c : CoreId) (x : Core) : (setCore d c x).ident = d.ident := rfl
@[simp] theorem setCore_lodge (d : Die) (c : CoreId) (x : Core) : (setCore d c x).lodge = d.lodge := rfl
@[simp] theorem setCore_ledger (d : Die) (c : CoreId) (x : Core) : (setCore d c x).ledger = d.ledger := rfl
@[simp] theorem setCore_mesh (d : Die) (c : CoreId) (x : Core) : (setCore d c x).mesh = d.mesh := rfl
@[simp] theorem setCore_tally (d : Die) (c : CoreId) (x : Core) : (setCore d c x).tally = d.tally := rfl
@[simp] theorem setCore_stew (d : Die) (c : CoreId) (x : Core) : (setCore d c x).stew = d.stew := rfl
@[simp] theorem setCore_link (d : Die) (c : CoreId) (x : Core) : (setCore d c x).link = d.link := rfl
@[simp] theorem setCore_power (d : Die) (c : CoreId) (x : Core) : (setCore d c x).power = d.power := rfl
@[simp] theorem setCore_boot (d : Die) (c : CoreId) (x : Core) : (setCore d c x).boot = d.boot := rfl
@[simp] theorem setCore_fuse (d : Die) (c : CoreId) (x : Core) : (setCore d c x).fuse = d.fuse := rfl
@[simp] theorem setCore_trust (d : Die) (c : CoreId) (x : Core) : (setCore d c x).trust = d.trust := rfl
@[simp] theorem setCore_flt (d : Die) (c : CoreId) (x : Core) : (setCore d c x).flt = d.flt := rfl
@[simp] theorem setCore_test (d : Die) (c : CoreId) (x : Core) : (setCore d c x).test = d.test := rfl
@[simp] theorem setCore_out (d : Die) (c : CoreId) (x : Core) : (setCore d c x).out = d.out := rfl

@[simp] theorem modCore_aclk (d : Die) (c : CoreId) (f : Core → Core) : (modCore d c f).aclk = d.aclk := rfl
@[simp] theorem modCore_freeCtr (d : Die) (c : CoreId) (f : Core → Core) : (modCore d c f).freeCtr = d.freeCtr := rfl
@[simp] theorem modCore_mem (d : Die) (c : CoreId) (f : Core → Core) : (modCore d c f).mem = d.mem := rfl
@[simp] theorem modCore_pkg (d : Die) (c : CoreId) (f : Core → Core) : (modCore d c f).pkg = d.pkg := rfl
@[simp] theorem modCore_flash (d : Die) (c : CoreId) (f : Core → Core) : (modCore d c f).flash = d.flash := rfl
@[simp] theorem modCore_ident (d : Die) (c : CoreId) (f : Core → Core) : (modCore d c f).ident = d.ident := rfl
@[simp] theorem modCore_lodge (d : Die) (c : CoreId) (f : Core → Core) : (modCore d c f).lodge = d.lodge := rfl
@[simp] theorem modCore_ledger (d : Die) (c : CoreId) (f : Core → Core) : (modCore d c f).ledger = d.ledger := rfl
@[simp] theorem modCore_mesh (d : Die) (c : CoreId) (f : Core → Core) : (modCore d c f).mesh = d.mesh := rfl
@[simp] theorem modCore_tally (d : Die) (c : CoreId) (f : Core → Core) : (modCore d c f).tally = d.tally := rfl
@[simp] theorem modCore_stew (d : Die) (c : CoreId) (f : Core → Core) : (modCore d c f).stew = d.stew := rfl
@[simp] theorem modCore_link (d : Die) (c : CoreId) (f : Core → Core) : (modCore d c f).link = d.link := rfl
@[simp] theorem modCore_power (d : Die) (c : CoreId) (f : Core → Core) : (modCore d c f).power = d.power := rfl
@[simp] theorem modCore_boot (d : Die) (c : CoreId) (f : Core → Core) : (modCore d c f).boot = d.boot := rfl
@[simp] theorem modCore_fuse (d : Die) (c : CoreId) (f : Core → Core) : (modCore d c f).fuse = d.fuse := rfl
@[simp] theorem modCore_trust (d : Die) (c : CoreId) (f : Core → Core) : (modCore d c f).trust = d.trust := rfl
@[simp] theorem modCore_flt (d : Die) (c : CoreId) (f : Core → Core) : (modCore d c f).flt = d.flt := rfl
@[simp] theorem modCore_test (d : Die) (c : CoreId) (f : Core → Core) : (modCore d c f).test = d.test := rfl
@[simp] theorem modCore_out (d : Die) (c : CoreId) (f : Core → Core) : (modCore d c f).out = d.out := rfl

/-! ### modThread -/

@[simp] theorem modThread_aclk (d : Die) (c : CoreId) (t : Bool) (f : Thread → Thread) : (modThread d c t f).aclk = d.aclk := rfl
@[simp] theorem modThread_freeCtr (d : Die) (c : CoreId) (t : Bool) (f : Thread → Thread) : (modThread d c t f).freeCtr = d.freeCtr := rfl
@[simp] theorem modThread_mem (d : Die) (c : CoreId) (t : Bool) (f : Thread → Thread) : (modThread d c t f).mem = d.mem := rfl
@[simp] theorem modThread_pkg (d : Die) (c : CoreId) (t : Bool) (f : Thread → Thread) : (modThread d c t f).pkg = d.pkg := rfl
@[simp] theorem modThread_flash (d : Die) (c : CoreId) (t : Bool) (f : Thread → Thread) : (modThread d c t f).flash = d.flash := rfl
@[simp] theorem modThread_ident (d : Die) (c : CoreId) (t : Bool) (f : Thread → Thread) : (modThread d c t f).ident = d.ident := rfl
@[simp] theorem modThread_lodge (d : Die) (c : CoreId) (t : Bool) (f : Thread → Thread) : (modThread d c t f).lodge = d.lodge := rfl
@[simp] theorem modThread_ledger (d : Die) (c : CoreId) (t : Bool) (f : Thread → Thread) : (modThread d c t f).ledger = d.ledger := rfl
@[simp] theorem modThread_mesh (d : Die) (c : CoreId) (t : Bool) (f : Thread → Thread) : (modThread d c t f).mesh = d.mesh := rfl
@[simp] theorem modThread_tally (d : Die) (c : CoreId) (t : Bool) (f : Thread → Thread) : (modThread d c t f).tally = d.tally := rfl
@[simp] theorem modThread_stew (d : Die) (c : CoreId) (t : Bool) (f : Thread → Thread) : (modThread d c t f).stew = d.stew := rfl
@[simp] theorem modThread_link (d : Die) (c : CoreId) (t : Bool) (f : Thread → Thread) : (modThread d c t f).link = d.link := rfl
@[simp] theorem modThread_power (d : Die) (c : CoreId) (t : Bool) (f : Thread → Thread) : (modThread d c t f).power = d.power := rfl
@[simp] theorem modThread_boot (d : Die) (c : CoreId) (t : Bool) (f : Thread → Thread) : (modThread d c t f).boot = d.boot := rfl
@[simp] theorem modThread_fuse (d : Die) (c : CoreId) (t : Bool) (f : Thread → Thread) : (modThread d c t f).fuse = d.fuse := rfl
@[simp] theorem modThread_trust (d : Die) (c : CoreId) (t : Bool) (f : Thread → Thread) : (modThread d c t f).trust = d.trust := rfl
@[simp] theorem modThread_flt (d : Die) (c : CoreId) (t : Bool) (f : Thread → Thread) : (modThread d c t f).flt = d.flt := rfl
@[simp] theorem modThread_test (d : Die) (c : CoreId) (t : Bool) (f : Thread → Thread) : (modThread d c t f).test = d.test := rfl
@[simp] theorem modThread_out (d : Die) (c : CoreId) (t : Bool) (f : Thread → Thread) : (modThread d c t f).out = d.out := rfl

/-! ### cons, sendPeer, modItin -/

@[simp] theorem cons_aclk (d : Die) (k i r : Nat) : (cons d k i r).aclk = d.aclk := rfl
@[simp] theorem cons_freeCtr (d : Die) (k i r : Nat) : (cons d k i r).freeCtr = d.freeCtr := rfl
@[simp] theorem cons_mem (d : Die) (k i r : Nat) : (cons d k i r).mem = d.mem := rfl
@[simp] theorem cons_pkg (d : Die) (k i r : Nat) : (cons d k i r).pkg = d.pkg := rfl
@[simp] theorem cons_flash (d : Die) (k i r : Nat) : (cons d k i r).flash = d.flash := rfl
@[simp] theorem cons_cores (d : Die) (k i r : Nat) : (cons d k i r).cores = d.cores := rfl
@[simp] theorem cons_ident (d : Die) (k i r : Nat) : (cons d k i r).ident = d.ident := rfl
@[simp] theorem cons_lodge (d : Die) (k i r : Nat) : (cons d k i r).lodge = d.lodge := rfl
@[simp] theorem cons_ledger (d : Die) (k i r : Nat) : (cons d k i r).ledger = d.ledger := rfl
@[simp] theorem cons_mesh (d : Die) (k i r : Nat) : (cons d k i r).mesh = d.mesh := rfl
@[simp] theorem cons_tally (d : Die) (k i r : Nat) : (cons d k i r).tally = d.tally := rfl
@[simp] theorem cons_stew (d : Die) (k i r : Nat) : (cons d k i r).stew = d.stew := rfl
@[simp] theorem cons_link (d : Die) (k i r : Nat) : (cons d k i r).link = d.link := rfl
@[simp] theorem cons_power (d : Die) (k i r : Nat) : (cons d k i r).power = d.power := rfl
@[simp] theorem cons_boot (d : Die) (k i r : Nat) : (cons d k i r).boot = d.boot := rfl
@[simp] theorem cons_fuse (d : Die) (k i r : Nat) : (cons d k i r).fuse = d.fuse := rfl
@[simp] theorem cons_trust (d : Die) (k i r : Nat) : (cons d k i r).trust = d.trust := rfl
@[simp] theorem cons_test (d : Die) (k i r : Nat) : (cons d k i r).test = d.test := rfl
@[simp] theorem cons_out (d : Die) (k i r : Nat) : (cons d k i r).out = d.out := rfl

@[simp] theorem modItin_aclk (d : Die) (id : BitVec 32) (f : Itin → Itin) : (modItin d id f).aclk = d.aclk := rfl
@[simp] theorem modItin_freeCtr (d : Die) (id : BitVec 32) (f : Itin → Itin) : (modItin d id f).freeCtr = d.freeCtr := rfl
@[simp] theorem modItin_mem (d : Die) (id : BitVec 32) (f : Itin → Itin) : (modItin d id f).mem = d.mem := rfl
@[simp] theorem modItin_pkg (d : Die) (id : BitVec 32) (f : Itin → Itin) : (modItin d id f).pkg = d.pkg := rfl
@[simp] theorem modItin_flash (d : Die) (id : BitVec 32) (f : Itin → Itin) : (modItin d id f).flash = d.flash := rfl
@[simp] theorem modItin_cores (d : Die) (id : BitVec 32) (f : Itin → Itin) : (modItin d id f).cores = d.cores := rfl
@[simp] theorem modItin_ident (d : Die) (id : BitVec 32) (f : Itin → Itin) : (modItin d id f).ident = d.ident := rfl
@[simp] theorem modItin_lodge (d : Die) (id : BitVec 32) (f : Itin → Itin) : (modItin d id f).lodge = d.lodge := rfl
@[simp] theorem modItin_ledger (d : Die) (id : BitVec 32) (f : Itin → Itin) : (modItin d id f).ledger = d.ledger := rfl
@[simp] theorem modItin_mesh (d : Die) (id : BitVec 32) (f : Itin → Itin) : (modItin d id f).mesh = d.mesh := rfl
@[simp] theorem modItin_tally (d : Die) (id : BitVec 32) (f : Itin → Itin) : (modItin d id f).tally = d.tally := rfl
@[simp] theorem modItin_link (d : Die) (id : BitVec 32) (f : Itin → Itin) : (modItin d id f).link = d.link := rfl
@[simp] theorem modItin_power (d : Die) (id : BitVec 32) (f : Itin → Itin) : (modItin d id f).power = d.power := rfl
@[simp] theorem modItin_boot (d : Die) (id : BitVec 32) (f : Itin → Itin) : (modItin d id f).boot = d.boot := rfl
@[simp] theorem modItin_fuse (d : Die) (id : BitVec 32) (f : Itin → Itin) : (modItin d id f).fuse = d.fuse := rfl
@[simp] theorem modItin_trust (d : Die) (id : BitVec 32) (f : Itin → Itin) : (modItin d id f).trust = d.trust := rfl
@[simp] theorem modItin_flt (d : Die) (id : BitVec 32) (f : Itin → Itin) : (modItin d id f).flt = d.flt := rfl
@[simp] theorem modItin_test (d : Die) (id : BitVec 32) (f : Itin → Itin) : (modItin d id f).test = d.test := rfl
@[simp] theorem modItin_out (d : Die) (id : BitVec 32) (f : Itin → Itin) : (modItin d id f).out = d.out := rfl

/-! ### setOwn, postEvent -/

@[simp] theorem setOwn_aclk (d : Die) (n : Nat) (v : Bool) : (setOwn d n v).aclk = d.aclk := rfl
@[simp] theorem setOwn_freeCtr (d : Die) (n : Nat) (v : Bool) : (setOwn d n v).freeCtr = d.freeCtr := rfl
@[simp] theorem setOwn_mem (d : Die) (n : Nat) (v : Bool) : (setOwn d n v).mem = d.mem := rfl
@[simp] theorem setOwn_pkg (d : Die) (n : Nat) (v : Bool) : (setOwn d n v).pkg = d.pkg := rfl
@[simp] theorem setOwn_flash (d : Die) (n : Nat) (v : Bool) : (setOwn d n v).flash = d.flash := rfl
@[simp] theorem setOwn_cores (d : Die) (n : Nat) (v : Bool) : (setOwn d n v).cores = d.cores := rfl
@[simp] theorem setOwn_ident (d : Die) (n : Nat) (v : Bool) : (setOwn d n v).ident = d.ident := rfl
@[simp] theorem setOwn_lodge (d : Die) (n : Nat) (v : Bool) : (setOwn d n v).lodge = d.lodge := rfl
@[simp] theorem setOwn_ledger (d : Die) (n : Nat) (v : Bool) : (setOwn d n v).ledger = d.ledger := rfl
@[simp] theorem setOwn_mesh (d : Die) (n : Nat) (v : Bool) : (setOwn d n v).mesh = d.mesh := rfl
@[simp] theorem setOwn_tally (d : Die) (n : Nat) (v : Bool) : (setOwn d n v).tally = d.tally := rfl
@[simp] theorem setOwn_link (d : Die) (n : Nat) (v : Bool) : (setOwn d n v).link = d.link := rfl
@[simp] theorem setOwn_power (d : Die) (n : Nat) (v : Bool) : (setOwn d n v).power = d.power := rfl
@[simp] theorem setOwn_boot (d : Die) (n : Nat) (v : Bool) : (setOwn d n v).boot = d.boot := rfl
@[simp] theorem setOwn_fuse (d : Die) (n : Nat) (v : Bool) : (setOwn d n v).fuse = d.fuse := rfl
@[simp] theorem setOwn_trust (d : Die) (n : Nat) (v : Bool) : (setOwn d n v).trust = d.trust := rfl
@[simp] theorem setOwn_flt (d : Die) (n : Nat) (v : Bool) : (setOwn d n v).flt = d.flt := rfl
@[simp] theorem setOwn_test (d : Die) (n : Nat) (v : Bool) : (setOwn d n v).test = d.test := rfl
@[simp] theorem setOwn_out (d : Die) (n : Nat) (v : Bool) : (setOwn d n v).out = d.out := rfl

@[simp] theorem postEvent_aclk (d : Die) (k : BitVec 16) (l : List Byte) : (postEvent d k l).aclk = d.aclk := rfl
@[simp] theorem postEvent_freeCtr (d : Die) (k : BitVec 16) (l : List Byte) : (postEvent d k l).freeCtr = d.freeCtr := rfl
@[simp] theorem postEvent_mem (d : Die) (k : BitVec 16) (l : List Byte) : (postEvent d k l).mem = d.mem := rfl
@[simp] theorem postEvent_pkg (d : Die) (k : BitVec 16) (l : List Byte) : (postEvent d k l).pkg = d.pkg := rfl
@[simp] theorem postEvent_flash (d : Die) (k : BitVec 16) (l : List Byte) : (postEvent d k l).flash = d.flash := rfl
@[simp] theorem postEvent_cores (d : Die) (k : BitVec 16) (l : List Byte) : (postEvent d k l).cores = d.cores := rfl
@[simp] theorem postEvent_ident (d : Die) (k : BitVec 16) (l : List Byte) : (postEvent d k l).ident = d.ident := rfl
@[simp] theorem postEvent_lodge (d : Die) (k : BitVec 16) (l : List Byte) : (postEvent d k l).lodge = d.lodge := rfl
@[simp] theorem postEvent_ledger (d : Die) (k : BitVec 16) (l : List Byte) : (postEvent d k l).ledger = d.ledger := rfl
@[simp] theorem postEvent_mesh (d : Die) (k : BitVec 16) (l : List Byte) : (postEvent d k l).mesh = d.mesh := rfl
@[simp] theorem postEvent_tally (d : Die) (k : BitVec 16) (l : List Byte) : (postEvent d k l).tally = d.tally := rfl
@[simp] theorem postEvent_link (d : Die) (k : BitVec 16) (l : List Byte) : (postEvent d k l).link = d.link := rfl
@[simp] theorem postEvent_power (d : Die) (k : BitVec 16) (l : List Byte) : (postEvent d k l).power = d.power := rfl
@[simp] theorem postEvent_boot (d : Die) (k : BitVec 16) (l : List Byte) : (postEvent d k l).boot = d.boot := rfl
@[simp] theorem postEvent_fuse (d : Die) (k : BitVec 16) (l : List Byte) : (postEvent d k l).fuse = d.fuse := rfl
@[simp] theorem postEvent_trust (d : Die) (k : BitVec 16) (l : List Byte) : (postEvent d k l).trust = d.trust := rfl
@[simp] theorem postEvent_flt (d : Die) (k : BitVec 16) (l : List Byte) : (postEvent d k l).flt = d.flt := rfl
@[simp] theorem postEvent_test (d : Die) (k : BitVec 16) (l : List Byte) : (postEvent d k l).test = d.test := rfl
@[simp] theorem postEvent_out (d : Die) (k : BitVec 16) (l : List Byte) : (postEvent d k l).out = d.out := rfl

@[simp] theorem postEvent_own (d : Die) (k : BitVec 16) (l : List Byte) : (postEvent d k l).stew.own = d.stew.own := rfl

/-! ### Threads of a core -/

@[simp] theorem getThread_setThread (x : Core) (t : Bool) (th : Thread) : getThread (setThread x t th) t = th := by
  cases t <;> rfl

@[simp] theorem getThread_setThread_other (x : Core) (t : Bool) (th : Thread) : getThread (setThread x t th) (!t) = getThread x (!t) := by
  cases t <;> rfl

/-! ### The shape of a meaning -/

@[simp] theorem onDie_next (f : Die → Die) (s : State) : onDie f s = .next { s with die := f s.die } := rfl

@[simp] theorem onDieIf_ok (f : Die → Die) (s : State) : onDieIf true f s = .next { s with die := f s.die } := rfl

@[simp] theorem onDieIf_not (f : Die → Die) (s : State) : onDieIf false f s = .next s := rfl

end Sys2Proof.Machine
end

