-- ==== Sys2Proof/Laws/Ops.lean ====
section
/-! SUPPORT. What the shared operations do, once each: sparse tables and memories keep their canonical form and read back what was
written; cores, threads, scalar registers and predicates read back what was written, and nothing else moves. -/

namespace Sys2Proof.Machine

variable {α : Type}

/-! ### The canonical form as an ordering of keys -/

/-- Canonical: keys strictly rising, no entry equal to the default. -/
theorem tabWf_iff [DecidableEq α] (d : α) (t : Tab α) :
    tabWf d t = true ↔ t.Pairwise (fun p q => p.1 < q.1) ∧ ∀ p ∈ t, p.2 ≠ d := by
  induction t with
  | nil => simp [tabWf]
  | cons p t ih =>
    obtain ⟨k, v⟩ := p
    cases t with
    | nil => simp [tabWf]
    | cons q t =>
      obtain ⟨k', v'⟩ := q
      simp only [tabWf, Bool.and_eq_true, decide_eq_true_eq] at ih ⊢
      constructor
      · rintro ⟨⟨hv, hk⟩, h⟩
        obtain ⟨hp, hn⟩ := ih.mp h
        refine ⟨List.pairwise_cons.mpr ⟨fun r hr => ?_, hp⟩, ?_⟩
        · rcases List.mem_cons.mp hr with rfl | hr
          · exact hk
          · exact lt_trans hk ((List.pairwise_cons.mp hp).1 r hr)
        · intro r hr
          rcases List.mem_cons.mp hr with rfl | hr
          · exact hv
          · exact hn r hr
      · rintro ⟨hp, hn⟩
        have hc := List.pairwise_cons.mp hp
        exact ⟨⟨hn _ List.mem_cons_self, hc.1 _ List.mem_cons_self⟩,
          ih.mpr ⟨hc.2, fun r hr => hn r (List.mem_cons_of_mem _ hr)⟩⟩

theorem mem_tabRun [DecidableEq α] {d : α} {lo n : Nat} {f : Nat → α} {p : Nat × α} (h : p ∈ tabRun d lo n f) :
    lo ≤ p.1 ∧ p.1 < lo + n ∧ p.2 ≠ d := by
  simp only [tabRun, List.mem_filterMap, List.mem_range] at h
  obtain ⟨i, hi, h⟩ := h
  split at h
  · simp at h
  · rename_i hne
    simp only [Option.some.injEq] at h
    subst h
    exact ⟨by simp, by simpa using hi, hne⟩

theorem tabRun_pairwise [DecidableEq α] (d : α) (lo n : Nat) (f : Nat → α) :
    (tabRun d lo n f).Pairwise (fun p q => p.1 < q.1) := by
  unfold tabRun
  rw [List.pairwise_filterMap]
  refine (List.pairwise_lt_range (n := n)).imp ?_
  intro i j hij p hp q hq
  split at hp <;> split at hq <;> simp_all
  subst hp hq
  simpa using hij

/-- The one writer of a table keeps the canonical form. -/
theorem tabFill_wf [DecidableEq α] {d : α} {t : Tab α} (lo n : Nat) (f : Nat → α) (h : tabWf d t = true) :
    tabWf d (tabFill d t lo n f) = true := by
  rw [tabWf_iff] at h ⊢
  obtain ⟨hp, hn⟩ := h
  unfold tabFill
  refine ⟨?_, ?_⟩
  · rw [List.pairwise_append]
    refine ⟨?_, hp.filter _, ?_⟩
    · rw [List.pairwise_append]
      refine ⟨hp.filter _, tabRun_pairwise d lo n f, ?_⟩
      intro p hp' q hq
      have h1 := (List.mem_filter.mp hp').2
      have h2 := mem_tabRun hq
      simp at h1
      omega
    · intro p hp' q hq
      have h2 := (List.mem_filter.mp hq).2
      simp at h2
      rcases List.mem_append.mp hp' with h | h
      · have h1 := (List.mem_filter.mp h).2
        simp at h1
        omega
      · have h1 := mem_tabRun h
        omega
  · intro p hp'
    rcases List.mem_append.mp hp' with h | h
    · rcases List.mem_append.mp h with h | h
      · exact hn p (List.mem_filter.mp h).1
      · exact (mem_tabRun h).2.2
    · exact hn p (List.mem_filter.mp h).1

theorem tabSet_wf [DecidableEq α] {d : α} {t : Tab α} (k : Nat) (v : α) (h : tabWf d t = true) :
    tabWf d (tabSet d t k v) = true := tabFill_wf k 1 _ h

theorem tabMod_wf [DecidableEq α] {d : α} {t : Tab α} (k : Nat) (f : α → α) (h : tabWf d t = true) :
    tabWf d (tabMod d t k f) = true := tabSet_wf k _ h

theorem mem_tabMap [DecidableEq α] {d : α} {f : Nat → α → α} {t : Tab α} {p : Nat × α} (h : p ∈ tabMap d f t) :
    p.2 ≠ d ∧ ∃ v, (p.1, v) ∈ t := by
  induction t with
  | nil => simp [tabMap] at h
  | cons q t ih =>
    obtain ⟨k, v⟩ := q
    simp only [tabMap] at h
    split at h
    · obtain ⟨h1, v', h2⟩ := ih (List.mem_filter.mp h).1
      exact ⟨h1, v', List.mem_cons_of_mem _ h2⟩
    · rcases List.mem_cons.mp h with rfl | h
      · exact ⟨by assumption, v, List.mem_cons_self⟩
      · obtain ⟨h1, v', h2⟩ := ih h
        exact ⟨h1, v', List.mem_cons_of_mem _ h2⟩

/-- A map over a table keeps the canonical form. -/
theorem tabMap_wf [DecidableEq α] {d : α} {t : Tab α} (f : Nat → α → α) (h : tabWf d t = true) :
    tabWf d (tabMap d f t) = true := by
  rw [tabWf_iff] at h ⊢
  refine ⟨?_, fun p hp => (mem_tabMap hp).1⟩
  obtain ⟨h, -⟩ := h
  induction t with
  | nil => exact List.Pairwise.nil
  | cons q t ih =>
    obtain ⟨k, v⟩ := q
    obtain ⟨hk, ht⟩ := List.pairwise_cons.mp h
    simp only [tabMap]
    split
    · exact (ih ht).filter _
    · refine List.pairwise_cons.mpr ⟨fun p hp => ?_, ih ht⟩
      obtain ⟨-, v', hv⟩ := mem_tabMap hp
      exact hk (p.1, v') hv

/-! ### Reading back -/

theorem tabGet_append (d : α) (t u : Tab α) (k : Nat) :
    tabGet d (t ++ u) k = if t.any (fun p => decide (p.1 = k)) then tabGet d t k else tabGet d u k := by
  induction t with
  | nil => simp
  | cons p t ih =>
    obtain ⟨k', v⟩ := p
    by_cases h : k' = k
    · simp [tabGet, h]
    · simp only [List.cons_append, tabGet, h, if_false, List.any_cons, decide_false, Bool.false_or, ih]

theorem tabGet_filter (d : α) (t : Tab α) (k : Nat) (p : Nat → Bool) (h : p k = true) :
    tabGet d (t.filter (fun q => p q.1)) k = tabGet d t k := by
  induction t with
  | nil => rfl
  | cons q t ih =>
    obtain ⟨k', v⟩ := q
    by_cases hk : k' = k
    · subst hk
      simp [List.filter, h, tabGet]
    · by_cases hp : p k' = true
      · simp [List.filter, hp, tabGet, hk, ih]
      · simp [List.filter, hp, tabGet, hk, ih]

theorem tabGet_absent (d : α) (t : Tab α) (k : Nat) (h : ∀ q ∈ t, q.1 ≠ k) : tabGet d t k = d := by
  induction t with
  | nil => rfl
  | cons q t ih =>
    obtain ⟨k', v⟩ := q
    have h1 : k' ≠ k := h (k', v) List.mem_cons_self
    simp [tabGet, h1, ih (fun q hq => h q (List.mem_cons_of_mem _ hq))]

theorem tabGet_run [DecidableEq α] (d : α) (lo n k : Nat) (f : Nat → α) :
    tabGet d (tabRun d lo n f) (lo + k) = if k < n then f k else d := by
  induction n with
  | zero => simp [tabRun, tabGet]
  | succ n ih =>
    have hs : tabRun d lo (n + 1) f = tabRun d lo n f ++ (if f n = d then [] else [(lo + n, f n)]) := by
      simp only [tabRun, List.range_succ, List.filterMap_append]
      split <;> simp [*]
    rw [hs, tabGet_append]
    split
    · rename_i hany
      obtain ⟨p, hp, hk⟩ := List.any_eq_true.mp hany
      have := mem_tabRun hp
      simp only [decide_eq_true_eq] at hk
      have hkn : k < n := by omega
      rw [ih]
      simp [hkn, Nat.lt_succ_of_lt hkn]
    · rename_i hany
      by_cases hkn : k < n
      · have hd : f k = d := by
          by_contra hne
          refine hany (List.any_eq_true.mpr ⟨(lo + k, f k), ?_, by simp⟩)
          simp only [tabRun, List.mem_filterMap, List.mem_range]
          exact ⟨k, hkn, by simp [hne]⟩
        have : lo + n ≠ lo + k := by omega
        split
        · simp [tabGet, Nat.lt_succ_of_lt hkn, hd]
        · simp [tabGet, Nat.lt_succ_of_lt hkn, hd]
          omega
      · by_cases hk : k = n
        · subst hk
          split
          · simp [tabGet, *]
          · simp [tabGet]
        · have : ¬ k < n + 1 := by omega
          split
          · simp [tabGet]
          · simp [tabGet]
            omega

/-- A map over a table that keeps the default reads, at every key, as the map of what was there. -/
theorem tabGet_map [DecidableEq α] {d : α} {f : Nat → α → α} (t : Tab α) (k : Nat) (hd : f k d = d) :
    tabGet d (tabMap d f t) k = f k (tabGet d t k) := by
  induction t with
  | nil => simp [tabMap, tabGet, hd]
  | cons q t ih =>
    obtain ⟨k', v⟩ := q
    simp only [tabMap, tabGet]
    by_cases hk : k' = k
    · subst hk
      split
      · rename_i hv
        rw [if_pos rfl, hv]
        exact tabGet_absent d _ _ (fun q hq => by simpa using (List.mem_filter.mp hq).2)
      · simp [tabGet]
    · rw [if_neg hk, ← ih]
      split
      · exact tabGet_filter d _ k (fun i => decide (i ≠ k')) (decide_eq_true (fun h => hk h.symm))
      · simp [tabGet, hk]

/-- A written range reads what was written; every other key reads as before. -/
theorem tabGet_fill [DecidableEq α] (d : α) (t : Tab α) (lo n k : Nat) (f : Nat → α) :
    tabGet d (tabFill d t lo n f) k = if lo ≤ k ∧ k < lo + n then f (k - lo) else tabGet d t k := by
  unfold tabFill
  have hlow : k < lo → tabGet d (t.filter (fun p => decide (p.1 < lo))) k = tabGet d t k := fun h =>
    tabGet_filter d t k (fun i => decide (i < lo)) (by simpa using h)
  have hhigh : lo + n ≤ k → tabGet d (t.filter (fun p => decide (lo + n ≤ p.1))) k = tabGet d t k := fun h =>
    tabGet_filter d t k (fun i => decide (lo + n ≤ i)) (by simpa using h)
  have hrun : lo ≤ k → tabGet d (tabRun d lo n f) k = if k - lo < n then f (k - lo) else d := fun h => by
    have := tabGet_run d lo n (k - lo) f
    rwa [Nat.add_sub_cancel' h] at this
  have hnoLow : ¬ k < lo → (t.filter (fun p => decide (p.1 < lo))).any (fun p => decide (p.1 = k)) = false := fun h => by
    rw [List.any_eq_false]
    intro p hp
    have := (List.mem_filter.mp hp).2
    simp at this ⊢
    omega
  have hnoRun : ¬ (lo ≤ k ∧ k < lo + n) → (tabRun d lo n f).any (fun p => decide (p.1 = k)) = false := fun h => by
    rw [List.any_eq_false]
    intro p hp
    have := mem_tabRun hp
    simp
    omega
  rw [tabGet_append, List.any_append]
  by_cases h1 : k < lo
  · have h2 : ¬ (lo ≤ k ∧ k < lo + n) := by omega
    rw [hnoRun h2, Bool.or_false, tabGet_append]
    rw [if_neg h2]
    by_cases ha : (t.filter (fun p => decide (p.1 < lo))).any (fun p => decide (p.1 = k)) = true
    · simp [ha, hlow h1]
    · simp only [ha, Bool.false_eq_true, if_false]
      rw [← hlow h1, tabGet_absent, tabGet_absent]
      · intro q hq he
        exact ha (List.any_eq_true.mpr ⟨q, hq, by simpa using he⟩)
      · intro q hq he
        have := (List.mem_filter.mp hq).2
        simp at this
        omega
  · rw [hnoLow h1, Bool.false_or, tabGet_append, hnoLow h1]
    simp only [Bool.false_eq_true, if_false]
    by_cases h2 : k < lo + n
    · have h3 : lo ≤ k ∧ k < lo + n := by omega
      have hr := hrun h3.1
      rw [if_pos (show k - lo < n by omega)] at hr
      rw [if_pos h3, hr]
      split
      · rfl
      · rename_i ha
        rw [tabGet_absent]
        · by_contra hne
          refine ha (List.any_eq_true.mpr ⟨(k, f (k - lo)), ?_, by simp⟩)
          simp only [tabRun, List.mem_filterMap, List.mem_range]
          refine ⟨k - lo, by omega, ?_⟩
          rw [if_neg (fun he => hne he.symm)]
          simp
          omega
        · intro q hq he
          have := (List.mem_filter.mp hq).2
          simp at this
          omega
    · have h3 : ¬ (lo ≤ k ∧ k < lo + n) := by omega
      rw [if_neg h3, hnoRun h3]
      simp only [Bool.false_eq_true, if_false]
      exact hhigh (by omega)

@[simp] theorem tabGet_set [DecidableEq α] (d : α) (t : Tab α) (k : Nat) (v : α) : tabGet d (tabSet d t k v) k = v := by
  simp [tabSet, tabGet_fill]

theorem tabGet_set_ne [DecidableEq α] (d : α) (t : Tab α) {k j : Nat} (v : α) (h : j ≠ k) :
    tabGet d (tabSet d t k v) j = tabGet d t j := by
  rw [tabSet, tabGet_fill, if_neg]
  omega

@[simp] theorem tabGet_mod [DecidableEq α] (d : α) (t : Tab α) (k : Nat) (f : α → α) :
    tabGet d (tabMod d t k f) k = f (tabGet d t k) := by
  simp [tabMod]

theorem tabGet_mod_ne [DecidableEq α] (d : α) (t : Tab α) {k j : Nat} (f : α → α) (h : j ≠ k) :
    tabGet d (tabMod d t k f) j = tabGet d t j := tabGet_set_ne d t _ h

/-- A later fill of the same range is all that stays. -/
theorem tabFill_fill [DecidableEq α] (d : α) (t : Tab α) (lo n : Nat) (f g : Nat → α) :
    tabFill d (tabFill d t lo n f) lo n g = tabFill d t lo n g := by
  have hrun : ∀ p ∈ tabRun d lo n f, lo ≤ p.1 ∧ p.1 < lo + n := fun p hp => by have := mem_tabRun hp; omega
  have h1 : (tabRun d lo n f).filter (fun p => decide (p.1 < lo)) = [] := List.filter_eq_nil_iff.mpr fun p hp => by
    have := hrun p hp
    simp
    omega
  have h2 : (tabRun d lo n f).filter (fun p => decide (lo + n ≤ p.1)) = [] := List.filter_eq_nil_iff.mpr fun p hp => by
    have := hrun p hp
    simp
    omega
  have h3 : (t.filter (fun p => decide (lo + n ≤ p.1))).filter (fun p => decide (p.1 < lo)) = [] := List.filter_eq_nil_iff.mpr fun p hp => by
    have := (List.mem_filter.mp hp).2
    simp at this ⊢
    omega
  have h4 : (t.filter (fun p => decide (p.1 < lo))).filter (fun p => decide (lo + n ≤ p.1)) = [] := List.filter_eq_nil_iff.mpr fun p hp => by
    have := (List.mem_filter.mp hp).2
    simp at this ⊢
    omega
  simp only [tabFill, List.filter_append, h1, h2, h3, h4, List.filter_filter, Bool.and_self, List.append_nil, List.nil_append]

@[simp] theorem tabSet_set [DecidableEq α] (d : α) (t : Tab α) (k : Nat) (v w : α) : tabSet d (tabSet d t k v) k w = tabSet d t k w :=
  tabFill_fill d t k 1 _ _

/-! ### Memories -/

/-- Every memory operation keeps the canonical form. -/
theorem memFill_wf {m : List Host.Cell} (a n : Nat) (f : Nat → Byte) (h : Memory.wf m = true) : Memory.wf (memFill m a n f) = true :=
  tabFill_wf a n f h

theorem memWrite_wf {m : List Host.Cell} (a : Nat) (l : List Byte) (h : Memory.wf m = true) : Memory.wf (memWrite m a l) = true :=
  memFill_wf a _ _ h

theorem memPutLE_wf {m : List Host.Cell} (a n v : Nat) (h : Memory.wf m = true) : Memory.wf (memPutLE m a n v) = true :=
  memWrite_wf a _ h

theorem memGet_fill (m : List Host.Cell) (a n k : Nat) (f : Nat → Byte) :
    memGet (memFill m a n f) k = if a ≤ k ∧ k < a + n then f (k - a) else memGet m k := tabGet_fill 0#8 m a n k f

/-- A cleared range keeps the form, reads 0, and leaves every other address as it was. -/
theorem memClear_wf {m : List Host.Cell} (a n : Nat) (h : Memory.wf m = true) : Memory.wf (memClear m a n) = true := by
  rw [Memory.wf, tabWf_iff] at h ⊢
  exact ⟨h.1.sublist List.filter_sublist, fun p hp => h.2 p (List.mem_filter.mp hp).1⟩

theorem memGet_clear (m : List Host.Cell) (a n k : Nat) :
    memGet (memClear m a n) k = if a ≤ k ∧ k < a + n then 0 else memGet m k := by
  split
  · rename_i hk
    refine tabGet_absent 0#8 _ k fun q hq he => ?_
    have := (List.mem_filter.mp hq).2
    simp at this
    omega
  · exact tabGet_filter 0#8 m k (fun i => decide (i < a) || decide (a + n ≤ i)) (by simp; omega)

/-- A written range reads back; every other byte reads as before. -/
theorem memGet_write (m : List Host.Cell) (a k : Nat) (l : List Byte) :
    memGet (memWrite m a l) k = if a ≤ k ∧ k < a + l.length then l.getD (k - a) 0 else memGet m k :=
  memGet_fill m a l.length k _

/-! ### Ranges read -/

theorem memRead_take (m : List Host.Cell) (a n k : Nat) (h : k ≤ n) : (memRead m a n).take k = memRead m a k := by
  simp [memRead, ← List.map_take, List.take_range, Nat.min_eq_left h]

theorem memRead_drop (m : List Host.Cell) (a n k : Nat) : (memRead m a n).drop k = memRead m (a + k) (n - k) := by
  apply List.ext_getElem?
  intro i
  simp only [memRead, List.getElem?_drop, List.getElem?_map]
  by_cases h : k + i < n
  · rw [List.getElem?_range h, List.getElem?_range (by omega)]
    simp [Nat.add_assoc]
  · rw [List.getElem?_eq_none (by simp; omega), List.getElem?_eq_none (by simp; omega)]
    rfl

theorem memRead_congr {m m' : List Host.Cell} {a n : Nat} (h : ∀ i, i < n → memGet m (a + i) = memGet m' (a + i)) :
    memRead m a n = memRead m' a n := by
  simp only [memRead]
  exact List.map_congr_left (fun i hi => h i (List.mem_range.mp hi))

/-- What is written reads back whole. -/
theorem memRead_write (m : List Host.Cell) (a : Nat) (l : List Byte) : memRead (memWrite m a l) a l.length = l := by
  apply List.ext_getElem?
  intro i
  by_cases h : i < l.length
  · simp [memRead, memGet_write, h, List.getD]
  · rw [List.getElem?_eq_none (by simp [memRead]; omega), List.getElem?_eq_none (by omega)]

/-- A number that fits reads back from its bytes. -/
theorem leNat_leBytes : ∀ (n v : Nat), v < 256 ^ n → leNat (leBytes n v) = v
  | 0, v, h => by simp at h; simp [leBytes, leNat, h]
  | n + 1, v, h => by
    rw [leBytes, leNat, leNat_leBytes n (v / 256) (by rw [Nat.pow_succ] at h; omega)]
    simp; omega

theorem reset_mem_wf : Memory.wf State.reset.die.mem = true ∧ Memory.wf State.reset.die.pkg = true ∧
    Memory.wf State.reset.die.flash = true := by decide

/-! ### Cores, threads, registers -/

@[simp] theorem getCore_setCore (d : Die) (c : CoreId) (x : Core) : getCore (setCore d c x) c = x := by
  simp [getCore, setCore]

theorem getCore_setCore_ne (d : Die) {c e : CoreId} (x : Core) (h : e ≠ c) : getCore (setCore d c x) e = getCore d e := by
  have : e.toNat ≠ c.toNat := fun hh => h (BitVec.eq_of_toNat_eq hh)
  simp [getCore, setCore, tabGet_set_ne _ _ _ this]

@[simp] theorem getCore_modCore (d : Die) (c : CoreId) (f : Core → Core) : getCore (modCore d c f) c = f (getCore d c) := by
  simp [modCore]

@[simp] theorem setCore_setCore (d : Die) (c : CoreId) (x y : Core) : setCore (setCore d c x) c y = setCore d c y := by
  simp [setCore]

theorem getCore_modCore_ne (d : Die) {c e : CoreId} (f : Core → Core) (h : e ≠ c) : getCore (modCore d c f) e = getCore d e :=
  getCore_setCore_ne d _ h

/-- Time leaves a core at reset as it is. -/
theorem passTime_reset (now : Nat) : passTime now Core.reset = Core.reset := by
  have h : ∀ h, coldAt Core.reset now h = true := by
    intro h
    unfold coldAt
    split
    · rfl
    · cases h <;> rfl
  have e : passTime now Core.reset = { Core.reset with cold0 := coldAt Core.reset now false || coldAt Core.reset now true,
                                                       cold1 := coldAt Core.reset now false || coldAt Core.reset now true } := rfl
  rw [e, h false, h true]
  rfl

/-- Time brought forward brings every core there. -/
@[simp] theorem getCore_waitUntil (d : Die) (t : Nat) (c : CoreId) :
    getCore (waitUntil d t) c = passTime (max d.aclk t) (getCore d c) :=
  tabGet_map _ _ (passTime_reset _)

@[simp] theorem coreInUse_setCore (d : Die) (c e : CoreId) (x : Core) : coreInUse (setCore d c x) e = coreInUse d e := rfl

/-- A scalar register reads back what was written, an address register its low 32 bits (R131). -/
theorem readReg_write (regs : Tab (BitVec 64)) (i : Nat) (v : BitVec 64) :
    readReg (writeReg regs i v) i = if 32 ≤ i then (v.setWidth 32).setWidth 64 else v := by
  simp [readReg, writeReg]

theorem readReg_write_ne (regs : Tab (BitVec 64)) {i j : Nat} (v : BitVec 64) (h : j ≠ i) :
    readReg (writeReg regs i v) j = readReg regs j := by
  simp [readReg, writeReg, tabGet_set_ne _ _ _ h]

/-- p0 reads 1 whatever is written (R131). -/
theorem readPred_zero (p : BitVec 8) : readPred p 0 = true := rfl

theorem writePred_zero (p : BitVec 8) (v : Bool) : writePred p 0 v = p := rfl

end Sys2Proof.Machine
end

