-- ==== Sys2Proof/Laws/Dispatch.lean ====
section
/-! SUPPORT. What dispatch and the queues do, once: a ready word reaches its body, a word whose guard fails is a NOP, a word for a unit's
empty queue is issued at once, one behind others is queued. -/

namespace Sys2Proof.Machine

theorem getThread_modThread (d : Die) (c : CoreId) (t : Bool) (f : Thread → Thread) :
    threadAt (modThread d c t f) c t = f (threadAt d c t) := by
  simp [threadAt, modThread]

theorem getThread_modThread_other (d : Die) (c : CoreId) (t : Bool) (f : Thread → Thread) :
    threadAt (modThread d c t f) c (!t) = threadAt d c (!t) := by
  simp [threadAt, modThread]

/-- A ready word reaches its body with the entry it carries. -/
theorem dispatch_ready {d : Die} {c : CoreId} {t : Bool} {op : Nat} {w : BitVec 58} (body : Die → QEntry → Die)
    (h : ready d c t op w = true) : dispatch c t op w body d = body d (wordEntry d c t op w) := by
  simp only [ready, Bool.and_eq_true, decide_eq_true_eq, Bool.not_eq_true'] at h
  obtain ⟨⟨⟨⟨⟨⟨h1, h2⟩, h3⟩, h4⟩, h5⟩, h6⟩, h7⟩ := h
  have h2' : ¬ 4095 < (getThread (getCore d c) t).pc := by omega
  simp only [dispatch, h1, h2', h3, h4, h5, h6, h7, Bool.not_true, Bool.false_eq_true, if_false, ne_eq, not_true_eq_false]
  rfl

/-- A word whose guard does not hold is a NOP (R132). -/
theorem dispatch_guarded {d : Die} {c : CoreId} {t : Bool} {op : Nat} {w : BitVec 58} (body : Die → QEntry → Die)
    (h : guardedOut d c t op w = true) : dispatch c t op w body d = modThread d c t advance := by
  simp only [guardedOut, Bool.and_eq_true, decide_eq_true_eq, Bool.not_eq_true'] at h
  obtain ⟨⟨⟨⟨h1, h2⟩, h3⟩, h4⟩, h5⟩ := h
  have h2' : ¬ 4095 < (getThread (getCore d c) t).pc := by omega
  simp only [dispatch, h1, h2', h3, h4, h5, Bool.not_true, Bool.not_false, Bool.false_eq_true, if_false, if_true, ne_eq, not_true_eq_false]

/-- A word for an empty queue is issued at once when nothing holds it. -/
theorem enqueue_issues {q : QueueId} {c : CoreId} {t : Bool} {prep : Thread → Thread} {f : IssueFn} {d d' : Die} {e : QEntry}
    (hq : queueFree d c t q = true) (hs : q ≠ .sequencer)
    (hp : ∀ th, getQueue (advance (prep th)) q = getQueue th q)
    (hf : f (handed q c t prep d e) c t e = some d') : enqueue q c t prep f d e = d' := by
  have hnil : getQueue (getThread (getCore d c) t) q = [] := by simpa [queueFree] using hq
  have hget : getQueue (getThread (getCore (behind q c t prep d e) c) t) q = [e] := by
    have h := getThread_modThread d c t (fun th => advance (prep { (putQueue th q (getQueue th q ++ [e])) with seqNo := th.seqNo + 1 }))
    simp only [threadAt] at h
    rw [behind, h, hp, hnil]
    cases q <;> first | rfl | exact absurd rfl hs
  have hd : enqueue q c t prep f d e = issueHead f c t q (behind q c t prep d e) := by
    unfold enqueue behind
    simp only [hnil, List.length_nil, List.isEmpty_nil, if_true]
    rw [if_neg (by cases q <;> simp [queueDepth])]
  rw [hd, issueHead, hget]
  simp only [handed] at hf
  simp only [hf]

/-- A word behind others waits in its queue. -/
theorem enqueue_waits {q : QueueId} {c : CoreId} {t : Bool} {prep : Thread → Thread} {f : IssueFn} {d : Die} {e : QEntry}
    (hq : queueRoom d c t q = true) : enqueue q c t prep f d e = behind q c t prep d e := by
  simp only [queueRoom, Bool.and_eq_true, Bool.not_eq_true', decide_eq_true_eq] at hq
  have h2 : ¬ queueDepth q ≤ (getQueue (getThread (getCore d c) t) q).length := by
    have := hq.2
    simp only [threadAt] at this
    omega
  simp only [threadAt] at hq
  simp [enqueue, h2, hq.1, behind]

end Sys2Proof.Machine
end

