-- ==== Sys2Proof/Laws/Requests.lean ====
section
/-! SUPPORT. What a message row does, once for all of them: each case of the checks of R266 with its outcome, for the provers to cite in
place of `onRequest`. -/

namespace Sys2Proof.Machine

variable {n op minLen : Nat} {bad : Msg → List (Nat × Bool)} {u : CtxUse} {args : Die → Msg → List Arg} {run : Msg → Die → Die}
  {d : Die} {m0 : Msg}

/-- A request that passes every check is carried out. -/
theorem onRequest_asks (h : asks d n op minLen bad u args m0) : onRequest n op minLen bad u args run d = run (clip m0) d := by
  obtain ⟨hget, hop, hup, hturn, hled, hchk, hargs⟩ := h
  cases hl : ledgerOp op <;> simp_all [onRequest]

/-- A request that fails a check of its fields, its context or its sender is answered with the status of the first that fails. -/
theorem onRequest_refused {st det : Nat} (hget : d.stew.requests[n]? = some m0) (hop : msgOp m0 = op) (hup : stewardUp d = true)
    (hturn : inTurn d n m0 = true) (hled : ledgerOp op = true → d.ledger.memState = 0)
    (hchk : checkReq d (clip m0) minLen (bad (clip m0)) u = some (st, det)) :
    onRequest n op minLen bad u args run d = answer d n m0 st det [] := by
  cases hl : ledgerOp op <;> simp_all [onRequest]

/-- One whose arguments cannot be read or written is answered MEM_ERROR. -/
theorem onRequest_memError (hget : d.stew.requests[n]? = some m0) (hop : msgOp m0 = op) (hup : stewardUp d = true)
    (hturn : inTurn d n m0 = true) (hled : ledgerOp op = true → d.ledger.memState = 0)
    (hchk : checkReq d (clip m0) minLen (bad (clip m0)) u = none) (hargs : argsOk d (args d (clip m0)) = false) :
    onRequest n op minLen bad u args run d = answer (drew (senseArgs (args d (clip m0)) d)) n m0 stMemError 0 [] := by
  cases hl : ledgerOp op <;> simp_all [onRequest]

/-- A Ledger message before a directory is placed is answered PROTOCOL, DETAIL 1. -/
theorem onRequest_noDirectory (hget : d.stew.requests[n]? = some m0) (hop : msgOp m0 = op) (hup : stewardUp d = true)
    (hturn : inTurn d n m0 = true) (hled : ledgerOp op = true) (hmem : d.ledger.memState = 0) (hdir : dirEn d = false)
    (hchk : checkReq d (clip m0) minLen (bad (clip m0)) u = none) (hargs : argsOk d (args d (clip m0)) = true) :
    onRequest n op minLen bad u args run d = answer d n m0 stProtocol 1 [] := by
  simp_all [onRequest]

/-- A row whose message is not there, is another row's, comes before its turn, or finds no running Steward changes nothing. -/
theorem onRequest_idle (h : ∀ m, d.stew.requests[n]? = some m → msgOp m ≠ op ∨ stewardUp d = false ∨ inTurn d n m = false) :
    onRequest n op minLen bad u args run d = d := by
  unfold onRequest
  cases hget : d.stew.requests[n]? with
  | none => rfl
  | some m => rcases h m hget with h | h | h <;> simp [h]

/-- A Ledger message waits until recovery has ended. -/
theorem onRequest_recovering (hled : ledgerOp op = true) (hmem : d.ledger.memState ≠ 0) : onRequest n op minLen bad u args run d = d := by
  unfold onRequest
  cases d.stew.requests[n]? with
  | none => rfl
  | some m =>
    simp only [hled, Bool.true_and, decide_eq_true hmem, if_true, ite_self]

end Sys2Proof.Machine
end

