-- ==== Sys2Proof/Tests/Slice0.lean ====
section
/-! SUPPORT. Tests: the checks of the commands' operands, the spec's worked examples, and for the statements of Obligations.lean one
theorem each that states, clause by clause, a state and operands which meet its hypotheses together. A hypothesis that turns on an
uninterpreted constant of Config (a digest, a signature, a free value) has no such witness here: no value of it is known. -/

namespace Sys2Proof.Tests

open Sys2Proof Sys2Proof.Machine

set_option linter.unusedVariables false
set_option maxRecDepth 100000
set_option Elab.async false

/-! ### Small states -/

/-- A die that runs: no reset asserted, every core in use, boot done, link active. -/
def upDie : Die := { Die.reset with
  boot := { BootSt.reset with porst := false, cold := false, step := 11, boots := 1 },
  ident := { Ident.reset with coreEn := BitVec.allOnes 512, countValid := true, granted := true, protoLevel := 2, variant := 0 },
  fuse := { FuseSt.reset with sensed := true },
  power := { PowerSt.reset with refclkOk := true, lpllLock := true, cpllLock := true, cpllMHz := 1200 },
  trust := { TrustSt.reset with khfwUp := true },
  link := { LinkSt.reset with state := 7, agreed := 0xFFFFFFFF },
  lodge := { LodgeSt.reset with refreshing := true, contentLost := false, lossUnmarked := false, testDone := true },
  ledger := { LedgerSt.reset with memState := 0, gap := false } }
def stateOf (d : Die) : State := ⟨[], d⟩
def withCore (x : Core) (d : Die := upDie) (c : CoreId := 0) : State := stateOf (setCore d c x)
def runThread : Thread := { Thread.reset with run := .running }
def runCore (f : Thread → Thread := id) (g : Core → Core := id) : Core := g { Core.reset with portReset := false, t0 := f runThread }
/-- Fields (position, value) added into a word. -/
def bitsOf (l : List (Nat × Nat)) : BitVec 58 := BitVec.ofNat 58 (l.foldl (fun n p => n + p.2 * 2 ^ p.1) 0)
/-- Core 0 about to dispatch this word at pc 0. -/
def wordState (op : Nat) (w : BitVec 58) (f : Thread → Thread := id) (g : Core → Core := id) (d : Die := upDie) : State :=
  withCore { (runCore f g) with pmem := tabSet 0 [] (getThread (runCore f g) false).pc (mkWord op w) } d
/-- A ring of M+1 lines of 512 bytes at store line `base`, PROD and CONS kinds, buffers' states. -/
def ringOf (prod cons base m : Nat) (buf : BitVec 8) : Ring :=
  { Ring.reset with cfg := BitVec.ofNat 64 (2 ^ 63 + prod * 2 ^ 61 + cons * 2 ^ 59 + m * 2 ^ 16 + base), buf := buf }
def memAt (d : Die) (o : Nat) (n : Nat) (k : Nat) : Die := { d with mem := memFill d.mem o n (fun i => BitVec.ofNat 8 (i * k + 3)) }
def qe (op : Nat) (l : List (Nat × Nat)) (seq : Nat := 0) (mark : Nat := 0) : QEntry := ⟨0, mkWord op (bitsOf l), [(1, 7), (2, 640), (32, 0x4000), (33, 0x100)], 0, seq, mark⟩
def dm : Die := memAt (memAt upDie (storeBase 0) 4 7) (sliceBase 0) 4 11
def rin : Core → Core := fun x => { x with accCfg := 1, rings := [(0, ringOf 0 0 0 3 0xAA), (1, ringOf 0 0 8 3 0xAA), (2, ringOf 1 3 16 7 0), (3, { ringOf 1 2 16 7 0 with credits := 4 })], acc := [(0, 0x123456789ABCD), (35, 0x3F80000000000), (70, 0x3f8000000)] }
def stD (d : Die) (op : Nat) (l : List (Nat × Nat)) (f : Thread → Thread := id) (g : Core → Core := id) : State :=
  wordState op (bitsOf l) (fun th => f { th with regs := [(1, 7), (2, 640), (32, 0x4000), (33, 0x100)] }) (g ∘ rin) d
def st (op : Nat) (l : List (Nat × Nat)) (f : Thread → Thread := id) (g : Core → Core := id) : State := stD dm op l f g
/-- A ledger with one open context 0x10001: four berths, at 0x300000. -/
def ent (tier state loc : Nat) (oldf := false) (dtier := 0) (dest := 0) (cls := 3) (age := 5) : BitVec 128 :=
  putFld (putFld (entPut 0 tier state dtier loc dest oldf) 115 4 cls) 96 16 age
def ledDie (d : Die := upDie) (es : List (BitVec 128) := [ent 0 1 0x10000, ent 1 1 0x800000, ent 2 1 3, 0]) : Die :=
  let d1 := { d with ledger := { d.ledger with dirBase := 0x8000000000100000, poolBase := 0x800000, poolBerths := 16, arrayBase := 0x300000, arrayBytes := 0x100000 } }
  let d2 := putPkg128 d1 0x100010 (dirWord 1 4 0x300000)
  es.zipIdx.foldl (fun d p => putPkg128 d (0x300000 + 16 * p.2) p.1) d2
def itin0 : Itin := { id := 1, src := .host, pair := 0, submitNo := 0, desc := 0, len := 0, seq := 7, context := 0x10001, state := .running, phase := 2, abftEn := false, abftM := 0, floor := 0, tiles := 8, record := 0x700000, seed := 0, stall := 0, timeLimit := 0, flagMax := 0, parties := [], tallyInit := 0, cores := [], rings := [], links := [], berths := [], stamps := [], stamped := 0, flags := 0, reason := 0, faultCore := 0, faultPc := 0, faultDetail := 0, flagLog := [], flagLost := 0, exitCore := 0, exitCode := 0, npoison := 0, settled := false, admitted := some 0, asked := [], replies := [], stopping := false }
def withItins (l : List Itin) (d : Die) : Die := { d with stew := { d.stew with itins := l } }
def wbBits (l : List (Nat × Nat)) : BitVec 512 := BitVec.ofNat 512 (l.foldl (fun n p => n + p.2 * 2 ^ p.1) 0)
def wbx (ring : Nat) (kind far : Nat) (out : Nat := 0) (more : List (Nat × Nat) := []) : BitVec 512 :=
  wbBits ([(55, ring), (54, out), (52, kind), (0, far), (96, 1), (80, 4), (64, 128), (128, 128), (192, 2), (208, 1), (224, 1), (256, 512)] ++ more)
def wb (b : BitVec 512) (st : Nat) (pair : Nat := 0) (o : Origin := .none) : Waybill := { Waybill.reset with bits := b, state := BitVec.ofNat 3 st, pair := BitVec.ofNat 3 pair, origin := o }
def mem0 : Member := { kind := .caravan, id := 5, ring := 0, pos := 1, count := 3, joined := true, stage := 0, up := some (0, 1, 0), down := some (0, 2, 0), credits := 3, granted := 4, sent := 0, received := 0, discarded := 0, blocking := 0, shape := none, tiles := 0, party := 0, epoch := 0, downParty := 0, downEpoch := 0, ints := false, reg := 0, bare := false, fwdFlits := 0, fwdOpen := false, thread := false, itin := 1, incoming := [], flits := 4, local_ := [], outgoing := [], pending := none }
def msgB (op ctx : Nat) (p : List Byte) (seq : Nat := 0x55) : List Byte := leBytes 2 op ++ leBytes 2 seq ++ [BitVec.ofNat 8 p.length, 0, 0, 0] ++ leBytes 4 ctx ++ leBytes 4 0 ++ p
def mkMsg (op ctx : Nat) (p : List Byte) (src : Source := .host) (ph : BitVec 8 := 3) : Msg := ⟨src, ph, false, false, 1, msgB op ctx p⟩
def withReqs (l : List Msg) (d : Die) : Die := { d with stew := { d.stew with requests := l, taken := 9 } }
/-- a payload of n bytes with fields (offset from 0x10, width, value) -/
def payl (n : Nat) (fs : List (Nat × Nat × Nat)) : List Byte := fs.foldl (fun l f => l.take f.1 ++ leBytes f.2.1 f.2.2 ++ l.drop (f.1 + f.2.1)) (List.replicate n 0)

/-- The i-th state of a list. -/
def nth (l : List State) (i : Nat) : State := l.getD i State.reset
/-- A value named in what follows. -/
def withVal {α β : Type} (v : α) (f : α → β) : β := f v
def noMsg : Msg := ⟨.host, 0, false, false, 0, []⟩
/-- The i-th message of a state. -/
def rqs (s : State) (i : Nat) : Msg := (s.die.stew.requests ++ s.die.stew.responses).getD i noMsg
/-- The i-th itinerary of a state. -/
def itinAt (s : State) (i : Nat) : Itin := (s.die.stew.itins ++ s.die.stew.itins).getD i itin0

/-! ### Operands that name what the hardware does not have -/

theorem test_wf_ldgrd : Instr.wf (.ldgrdStream 0 false (1#58 <<< 53)) = false ∧ Instr.wf (.ldgrdStream 0 false 0) = true ∧
    Instr.wf (.ldgrdCopy 0 false 0) = false := by decide

theorem test_wf_berth : Instr.wf (.berthLookup 0 false (1#58 <<< 52)) = false ∧ Instr.wf (.berthTouch 0 false 0) = false := by decide

theorem test_wf_tally : Instr.wf (.tallyAdd 0 false (1#58 <<< 51)) = false ∧ Instr.wf (.tallySet 0 false 0) = false ∧
    Instr.wf (.tallyWait 0 false 0) = false ∧ Instr.wf (.tallyArrive 0 false 0) = false ∧ Instr.wf (.tallyArm 0 false 0) = false := by decide

theorem test_wf_line : Instr.wf (.hubReadRequest ⟨.host, 0, 0, 0, 0⟩) = false ∧ Instr.wf (.hubReadRequest ⟨.host, 120, 9, 0, 0⟩) = false ∧
    Instr.wf (.hubReadRequest ⟨.host, 120, 8, 0, 0⟩) = true ∧ Instr.wf (.hubWriteRequest ⟨.host, 1, 128, 0, 0⟩ 0) = false := by decide

theorem test_wf_module : Instr.wf (.replayTimeout 192) = false ∧ Instr.wf (.replayTimeout 191) = true ∧ Instr.wf (.creditFlitTimer 192) = false ∧
    Instr.wf (.quickRetrain 192) = false ∧ Instr.wf (.gateTakeDown 192) = false ∧ Instr.wf (.drainPoint 192 0) = false ∧
    Instr.wf (.credit 192 ⟨true, 0, false, false, 0, 0, 0⟩) = false ∧ Instr.wf (.quickRetrainDone 192 ⟨true, 0, 0, 0, 0⟩) = false ∧
    Instr.wf (.flitAccept 192 ⟨true, 0, false, 0, 0, 0, 0⟩) = false := by decide

theorem test_wf_window : Instr.wf (.windowBoundary ⟨[], 0, 0, List.replicate 24 0⟩) = false ∧
    Instr.wf (.windowBoundary ⟨List.replicate 256 0, 0, 0, List.replicate 23 0⟩) = false ∧
    Instr.wf (.windowBoundary ⟨List.replicate 256 0, 0, 0, List.replicate 24 0⟩) = true := by decide +kernel

theorem test_wf_sensor : Instr.wf (.thermalTrip 24) = false ∧ Instr.wf (.thermalTrip 23) = true := by decide

theorem test_wf_block : Instr.wf (.broadcastBlockReceive 0 98 false true) = false ∧ Instr.wf (.broadcastBlockReceive 0 97 false true) = true := by decide

/-! ### The spec's worked examples -/

/-- Decoding three operands (03_number_formats.md): E4M3 0x03, FP16 0x0001, and the two pieces of FP32 0x3FAA_AAAB. -/
theorem test_decode_examples : decodeFloat fmtE4M3 0x03 = .fin false 3 (-9) ∧ decodeFloat fmtFP16 0x0001 = .fin false 1 (-24) ∧
    fp32Pieces (decodeFP32 0x3FAAAAAB) = (.fin false 2730 (-11), .fin false 2731 (-23)) := by decide

/-- A mixed pair (03_number_formats.md): 3 × 0.75 × 2^-3 = 0.28125. -/
theorem test_product_mixed :
    (dySub (xDy (product (.flt fmtE2M1) (.flt fmtE5M2) true (some (-3)) (decodeFloat fmtE2M1 5) (decodeFloat fmtE5M2 0x3A)).v) ⟨9, -5⟩).m = 0 := by
  decide

/-- Ties (03_number_formats.md). -/
theorem test_ties : (convFloat fmtBF16 (decodeFP32 0x3F808000) .rne true).code = 0x3F80 ∧
    (convFloat fmtBF16 (decodeFP32 0x3F818000) .rne true).code = 0x3F82 ∧
    ([XVal.fin false 5 (-1), .fin false 5 0, .fin false 1 (-2), .fin true 1 (-2)].map (fun x => (convFloat fmtE2M1 x .rne true).code)) =
      [0x4, 0x6, 0x0, 0x8] := by decide

/-- Near the largest value (03_number_formats.md), under CLAMP and PROPAGATE. -/
theorem test_near_largest : convFloat fmtE4M3 (.fin false 455 0) .rne false = ⟨0x7E, flNone⟩ ∧
    convFloat fmtE4M3 (.fin false 464 0) .rne false = ⟨0x7E, flOvf⟩ ∧ convFloat fmtE4M3 (.fin false 464 0) .rne true = ⟨0x7F, flOvf⟩ ∧
    convFloat fmtFP16 (.fin true 65519 0) .rne true = ⟨0xFBFF, flNone⟩ ∧ convFloat fmtFP16 (.fin true 65520 0) .rne true = ⟨0xFC00, flOvf⟩ ∧
    convFloat fmtE2M1 (.fin false 7 0) .rne true = ⟨0x7, flOvf⟩ := by decide

/-- One MXFP4 row (03_number_formats.md): scale code 0x7F and codes 0x7, 0x3, 0xD. -/
theorem test_mxfp4_row : convMxBlock (.flt fmtE2M1) [.fin false 11 (-1), .fin false 13 (-3), .fin true 11 (-2), .fin false 3 (-4)]
    (fun _ => .rne) true = ⟨0x7F, [0x7, 0x3, 0xD, 0x0], flNone⟩ := by decide +kernel

/-- Cancellation (05_accumulators_and_reductions.md): ACC32C keeps 8.25 in COMP and ends with it, ACC32 ends with 0. -/
theorem test_cancellation :
    let ts : List XVal := [.fin false 1 30, .fin false 3 0, .fin false 5 0, .fin false 1 (-2), .fin true 1 30]
    (ts.take 4).foldl (addMain true) 0 = 0x041044E800000#52 ∧ ts.foldl (addMain true) 0 = 0x0000041040000#52 ∧
    ts.foldl (addMain false) 0 = 0 := by decide +kernel

/-- Naming a slice and a pigeonhole (01_in_the_package.md): offset 0x1234 of core 37 and pigeonhole 5 of die 2. -/
theorem test_addresses : windowBase 2 + sliceBase 37 + 0x1234 = 0x108009401234 ∧ windowBase 2 + pigeonBase 5 = 0x108304000500 := by decide

/-- Two array words (07_tile_programs.md): the fields of 0x8001_0631_F000_0020 put together make its word. -/
theorem test_mma_word : mkWord 0x20 (bitsOf [(48, 1), (41, 3), (36, 3), (29, 0xF), (25, 8), (0, 32)]) = 0x80010631F0000020#64 ∧
    mkWord 0x21 (bitsOf [(46, 3), (34, 64)]) = 0x8400C10000000000#64 := by decide

/-! ### Check values of the CRC catalogue, for the bytes "123456789" -/

theorem test_crc : crc32 [0x31, 0x32, 0x33, 0x34, 0x35, 0x36, 0x37, 0x38, 0x39] = 0xFC891918#32 ∧
    crc64 [0x31, 0x32, 0x33, 0x34, 0x35, 0x36, 0x37, 0x38, 0x39] = 0x62EC59E3F1A4F00A#64 ∧
    crc16 [0x31, 0x32, 0x33, 0x34, 0x35, 0x36, 0x37, 0x38, 0x39] = 0x29B1#16 ∧
    crc8 [0x31, 0x32, 0x33, 0x34, 0x35, 0x36, 0x37, 0x38, 0x39] = 0xF4#8 := by decide +kernel

/-! ### Fuses, the queue and the table -/

/-- A written fuse word is good, and is not another word's (R361, R362). -/
theorem test_fuses : fuseGood 0x264 (fuseFull 0x264 5) = true ∧ fuseGood 0x265 (fuseFull 0x264 5) = false := by decide +kernel

/-- The table gives no row bits. -/
theorem test_no_bits : decodeTableWord 64 0x80010631F0000020 = none ∧ State.reset.withFetchWord 64 5 = State.reset := by decide +kernel

/-- A command at the front of the queue is taken from it. -/
theorem test_step_takes_front : (match step { State.reset with pending := [.vddEfuseGood, .idcode] } with
    | .next s => s.pending == [.idcode] && s.die.fuse.efusePg
    | _ => false) = true := by decide +kernel

/-! ### Witnesses -/

namespace Wa2

def th1 (th : Thread) : Thread := { th with pc := 10, regs := [(1, 7), (2, 0xFFFFFFFFFFFFFFF0), (3, 64), (33, 0x1000)], preds := 0b101 }
def ws (op : Nat) (l : List (Nat × Nat)) (f : Thread → Thread := id) (g : Core → Core := id) : State := wordState op (bitsOf l) (f ∘ th1) g
def swords : List (List (Nat × Nat)) := (List.range 14).flatMap (fun op => [[(50,op),(44,2),(38,2),(32,1)], [(50,op),(44,6),(38,1),(31,1),(0,0xFFFE)], [(50,op),(44,5),(38,2),(32,3)]]) ++
  [[(44,3),(0,0xFFFFFFF0)], [(43,1),(44,2),(0,0x12345678)],[(43,1),(44,33),(0,0x12345678)]] ++
  (List.range 8).flatMap (fun c => [[(51,c),(42,1),(36,2)], [(51,c),(42,1),(36,2),(33,1),(48,2)], [(51,c),(42,2),(35,1),(0,0xFFF0),(33,2),(48,1)]])
def e3_states : List State := swords.flatMap (fun l => [ws 8 l, ws 9 l, ws 0xA l])
def cws : List (List (Nat × Nat)) := [
  [], [(0, 5)], [(0, 0xFFF6)], [(0,7),(45,1),(39,2),(51,2)], [(0,7),(45,1),(39,2),(51,3)], [(0,7),(45,1),(38,1),(16,7),(51,0)],
  [(35,3),(53,1),(16,4)], [(35,3),(53,1),(16,0)], [(35,4085),(47,1)], [(35,3),(47,5)],
  [(0,0x1000)], [(53,1),(0,0x3)], [(0, 77)], [(0,77),(52,1)],[(53,1)]]
def e2_states : List State := ([0,2,3,4,1,6,0x26].flatMap (fun op => cws.flatMap (fun l =>
     [ws op l, ws op l (fun th => { th with loops := [⟨8, 13, 2⟩] }), ws op l (fun th => { th with loops := [⟨8, 10, 1⟩] }),
      ws op l id (fun x => { x with split := true, t1 := { Thread.reset with run := .halted } })]))) ++
     [withCore (runCore (fun th => { th with wait := .waitev true 0, tallyEvent := true })), withCore (runCore (fun th => { th with wait := .waitev false 0x100, tallyEvent := true }))]
def stw : List (List (Nat × Nat)) := [[(44,3)], [(44,33)], [(32,0x40),(31,1),(44,2)], [(32,0x40),(44,2)], [(32,0x43),(44,2)], [(32,0x41),(44,34)], [(32,0)], [(32,3)], [(0,0x1234)]] ++ (List.range 0x60).map (fun i => [(32,i),(44,4)])
def e4_states : List State := stw.flatMap (fun l => [ws 0x38 l, ws 0x3E l, ws 0x3E l id (fun x => { x with fault := 0x8000000000000000 }), ws 0x3F l (fun th => { th with vstat := 9, streamPtr := 640 })])
def ws0 : List State := e3_states

theorem test_witness_ScalarWords_ScalarArithmetic :
    (withVal (mkWord 8 35738422870016#58) (fun (W : BitVec 64) => withVal (fld W 50 4) (fun (op : ℕ) => decide ((ready (nth ws0 0).die (0#9) false 8 35738422870016#58 = true) ∧ (op ≤ 13)))) = true) := by
  decide +kernel

def ws1 : List State := e3_states

theorem test_witness_ScalarWords_ImmediatesAndCompares :
    (withVal (mkWord 9 35738422870016#58) (fun (L : BitVec 64) => withVal (mkWord 10 35738422870016#58) (fun (M : BitVec 64) => decide ((ready (nth ws1 1).die (0#9) false 9 35738422870016#58 = true) ∧ (bitB L 43 = false)))) = true) ∧
    (withVal (mkWord 10 35738422870016#58) (fun (M : BitVec 64) => decide ((ready (nth ws1 2).die (0#9) false 10 35738422870016#58 = true) ∧ (fld M 33 2 ≤ 2))) = true) ∧
    (withVal (mkWord 9 43980770530936#58) (fun (L : BitVec 64) => withVal (mkWord 10 43980770530936#58) (fun (M : BitVec 64) => decide ((ready (nth ws1 130).die (0#9) false 9 43980770530936#58 = true) ∧ (bitB L 43 = true) ∧ (fld L 44 6 < 32)))) = true) := by
  decide +kernel

def ws2 : List State := e2_states

theorem test_witness_BranchAndLoopWords :
    ((ready (nth ws2 0).die (0#9) false 0 0#58 = true)) ∧
    (withVal (threadAt (nth ws2 60).die (0#9) false) (fun (th : Thread) => decide ((ready (nth ws2 60).die (0#9) false 2 0#58 = true) ∧ (0 ≤ ↑th.pc + sext 16 (fld (mkWord 2 0#58) 0 16)) ∧ (↑th.pc + sext 16 (fld (mkWord 2 0#58) 0 16) ≤ 4095))) = true) ∧
    (withVal (threadAt (nth ws2 120).die (0#9) false) (fun (th : Thread) => withVal (condHolds (fld (mkWord 3 0#58) 51 3) (regNow (nth ws2 120).die (0#9) false (fld (mkWord 3 0#58) 45 6)) (secondNow (nth ws2 120).die (0#9) false (bitB (mkWord 3 0#58) 38) (fld (mkWord 3 0#58) 39 6) (fld (mkWord 3 0#58) 16 16))) (fun (brcTaken : Bool) => decide ((ready (nth ws2 120).die (0#9) false 3 0#58 = true) ∧ (brcTaken = true) ∧ (0 ≤ ↑th.pc + sext 16 (fld (mkWord 3 0#58) 0 16)) ∧ (↑th.pc + sext 16 (fld (mkWord 3 0#58) 0 16) ≤ 4095)))) = true) ∧
    (withVal (condHolds (fld (mkWord 3 4539883511087111#58) 51 3) (regNow (nth ws2 132).die (0#9) false (fld (mkWord 3 4539883511087111#58) 45 6)) (secondNow (nth ws2 132).die (0#9) false (bitB (mkWord 3 4539883511087111#58) 38) (fld (mkWord 3 4539883511087111#58) 39 6) (fld (mkWord 3 4539883511087111#58) 16 16))) (fun (brcTaken : Bool) => decide ((ready (nth ws2 132).die (0#9) false 3 4539883511087111#58 = true) ∧ (brcTaken = false))) = true) ∧
    (withVal (threadAt (nth ws2 192).die (0#9) false) (fun (th : Thread) => withVal (fld (mkWord 4 4539883511087111#58) 35 12) (fun (len : ℕ) => withVal (if bitB (mkWord 4 4539883511087111#58) 53 = true then fld (mkWord 4 4539883511087111#58) 16 16 else (regNow (nth ws2 192).die (0#9) false (fld (mkWord 4 4539883511087111#58) 47 6)).toNat) (fun (count : ℕ) => decide ((ready (nth ws2 192).die (0#9) false 4 4539883511087111#58 = true) ∧ (0 < len) ∧ (th.pc + len ≤ 4095) ∧ (count = 0) ∧ (∀ f ∈ th.loops.head?, th.pc ≠ f.stop))))) = true) ∧
    (withVal (threadAt (nth ws2 204).die (0#9) false) (fun (th : Thread) => withVal (fld (mkWord 4 9007302334218240#58) 35 12) (fun (len : ℕ) => withVal (if bitB (mkWord 4 9007302334218240#58) 53 = true then fld (mkWord 4 9007302334218240#58) 16 16 else (regNow (nth ws2 204).die (0#9) false (fld (mkWord 4 9007302334218240#58) 47 6)).toNat) (fun (count : ℕ) => decide ((ready (nth ws2 204).die (0#9) false 4 9007302334218240#58 = true) ∧ (0 < len) ∧ (th.pc + len ≤ 4095) ∧ (0 < count) ∧ (th.loops.length < 4) ∧ (∀ f ∈ th.loops.head?, th.pc + len ≤ f.stop))))) = true) := by
  decide +kernel

def ws3 : List State := e2_states

theorem test_witness_WaitsAndSplit :
    (withVal (getCore (nth ws3 240).die 0#9) (fun (x : Core) => decide ((ready (nth ws3 240).die (0#9) false 1 0#58 = true) ∧ (haltReady x false = true))) = true) ∧
    (withVal (getCore (nth ws3 300).die 0#9) (fun (x : Core) => withVal (mkWord 6 0#58) (fun (V : BitVec 64) => decide ((ready (nth ws3 300).die (0#9) false 6 0#58 = true) ∧ (waitevMet x false (bitB V 53) (BitVec.extractLsb' 0 16 V) = true)))) = true) ∧
    (withVal (getCore (nth ws3 304).die 0#9) (fun (x : Core) => withVal (mkWord 6 5#58) (fun (V : BitVec 64) => decide ((ready (nth ws3 304).die (0#9) false 6 5#58 = true) ∧ (waitevMet x false (bitB V 53) (BitVec.extractLsb' 0 16 V) = false)))) = true) ∧
    (withVal (getCore (nth ws3 360).die 0#9) (fun (x : Core) => withVal (mkWord 38 0#58) (fun (P : BitVec 64) => decide ((ready (nth ws3 360).die (0#9) false 38 0#58 = true) ∧ (x.split = false) ∧ (bitB P 53 = false) ∧ (halfBusy x HalfSel.full = false)))) = true) ∧
    (withVal (getCore (nth ws3 387).die 0#9) (fun (x : Core) => withVal (mkWord 38 9007302334218240#58) (fun (P : BitVec 64) => decide ((ready (nth ws3 387).die (0#9) false 38 9007302334218240#58 = true) ∧ (x.split = true) ∧ (bitB P 53 = true) ∧ (halfBusy x HalfSel.full = false) ∧ (x.t1.run = Run.halted)))) = true) ∧
    (withVal (getCore (nth ws3 420).die 0#9) (fun (x : Core) => decide (((threadAt (nth ws3 420).die (0#9) false).wait = Wait.waitev true 0#16) ∧ (waitevMet x false true 0#16 = true))) = true) := by
  decide +kernel

def ws4 : List State := e4_states

theorem test_witness_StreamStatusAndFaultWords :
    (withVal (mkWord 56 52776558133248#58) (fun (G : BitVec 64) => withVal (regNow (nth ws4 0).die (0#9) false (fld G 44 6)) (fun (base : BitVec 64) => decide ((ldgrdForm false 52776558133248#58 = true) ∧ (ready (nth ws4 0).die (0#9) false 56 52776558133248#58 = true) ∧ (base.toNat % 64 = 0)))) = true) ∧
    (withVal (mkWord 56 52776558133248#58) (fun (G : BitVec 64) => decide ((ready (nth ws4 1).die (0#9) false 62 52776558133248#58 = true))) = true) ∧
    (withVal (mkWord 56 35472134897664#58) (fun (G : BitVec 64) => withVal (mkWord 63 35472134897664#58) (fun (S : BitVec 64) => decide ((ready (nth ws4 19).die (0#9) false 63 35472134897664#58 = true) ∧ (statusSource (nth ws4 19).die (0#9) false (fld S 32 12) = some 0#64)))) = true) := by
  decide +kernel


end Wa2

namespace Wb1

def mmaW : List (List (Nat × Nat)) := [
  [(50,1),(41,1),(36,1),(29,0),(25,1),(0,2)], [(50,1),(41,8),(36,8),(29,0),(25,1),(0,2),(22,1),(34,3)],
  [(50,9),(41,1),(36,1),(29,0),(25,1),(0,1)],[(50,1),(46,1),(41,1),(36,1),(29,0),(25,8),(0,1)]]
def eM_states : List State := mmaW.map (fun l => st 0x20 l)
def rlW : List (List (Nat × Nat)) := [[(46,1),(42,0),(34,16)], [(46,1),(42,8),(34,4)], [(53,1),(46,3),(42,1),(34,8)], [(36,0),(50,1),(41,0)], [(36,1),(50,2),(41,1),(40,1)]]
def eR_states : List State := rlW.flatMap (fun l => [st 0x21 l, st 0x22 l])
def ws0 : List State := eM_states

theorem test_witness_MultiplyAccumulate :
    (withVal (mkWord 32 1128167683129346#58) (fun (W : BitVec 64) => withVal (wordEntry (nth ws0 0).die (0#9) false 32 1128167683129346#58) (fun (e : QEntry) => withVal (asTaken (nth ws0 0).die (0#9) false QueueId.feed (lodgePrep (nth ws0 0).die (0#9) 32 1128167683129346#58) 32 1128167683129346#58) (fun (d0 : Die) => withVal (getCore d0 0#9) (fun (x0 : Core) => withVal (waitUntil d0 (mmaFrom d0.aclk x0 HalfSel.full e)) (fun (d : Die) => withVal (getCore d 0#9) (fun (x : Core) => withVal (BitVec.ofNat 2 (fld W 34 2)) (fun (acc : BitVec 2) => decide ((issuesNow (nth ws0 0).die (0#9) false QueueId.feed 32 1128167683129346#58 = true) ∧ (throttled d0 (0#9) false = false) ∧ (mmaReject x false W = none) ∧ (badRing x false (mmaRings W) = none) ∧ (halfField (fld W 46 2) = some HalfSel.full) ∧ (earlierNames x0 (getThread x0 false).edge e (fld W 50 4) = false) ∧ (ringsReady x (mmaRings W) = true) ∧ (lodgeTake (getCore d 0#9).split e.word = 0 ∨ e.stream + lodgeTake (getCore d 0#9).split e.word ≤ sliceSize ∧ lodgeHeld (getCore d 0#9) false e e.stream (lodgeTake (getCore d 0#9).split e.word) false = false ∧ ueIn d (0#9) e.stream (lodgeTake (getCore d 0#9).split e.word) = none) ∧ ((formatOf (fld W 41 5)).any (fun (fa : Format) => (formatOf (fld W 36 5)).any (fun (fb : Format) => true)) = true))))))))) = true) := by
  decide +kernel

def ws1 : List State := eR_states

theorem test_witness_ResidentAndBiasLoads :
    (withVal (mkWord 33 70643622084608#58) (fun (W : BitVec 64) => withVal (wordEntry (nth ws1 0).die (0#9) false 33 70643622084608#58) (fun (e : QEntry) => withVal (asTaken (nth ws1 0).die (0#9) false QueueId.feed (lodgePrep (nth ws1 0).die (0#9) 33 70643622084608#58) 33 70643622084608#58) (fun (d0 : Die) => withVal (waitUntil d0 (resloadFrom d0.aclk (getCore d0 0#9) HalfSel.full (fld W 42 4))) (fun (d : Die) => withVal (getCore d 0#9) (fun (x : Core) => withVal (fld W 42 4) (fun (src : ℕ) => withVal (if src < 8 then [src] else []) (fun (rings : List ℕ) => decide ((issuesNow (nth ws1 0).die (0#9) false QueueId.feed 33 70643622084608#58 = true) ∧ (throttled d0 (0#9) false = false) ∧ (resloadReject x false W = none) ∧ (badRing x false rings = none) ∧ (halfField (fld W 51 2) = some HalfSel.full) ∧ (ringsReady x rings = true) ∧ (lodgeTake (getCore d 0#9).split e.word = 0 ∨ e.stream + lodgeTake (getCore d 0#9).split e.word ≤ sliceSize ∧ lodgeHeld (getCore d 0#9) false e e.stream (lodgeTake (getCore d 0#9).split e.word) false = false ∧ ueIn d (0#9) e.stream (lodgeTake (getCore d 0#9).split e.word) = none) ∧ ((formatOf (fld W 46 5)).any (fun (f : Format) => true) = true))))))))) = true) ∧
    (withVal (mkWord 34 1125899906842624#58) (fun (W : BitVec 64) => withVal (wordEntry (nth ws1 7).die (0#9) false 34 1125899906842624#58) (fun (e : QEntry) => withVal (asTaken (nth ws1 7).die (0#9) false QueueId.edge id 34 1125899906842624#58) (fun (d0 : Die) => withVal (getCore d0 0#9) (fun (x0 : Core) => withVal (waitUntil d0 (preloadFrom d0.aclk x0 HalfSel.full e)) (fun (d : Die) => withVal (getCore d 0#9) (fun (x : Core) => withVal (fld W 36 4) (fun (ring : ℕ) => decide ((issuesNow (nth ws1 7).die (0#9) false QueueId.edge 34 1125899906842624#58 = true) ∧ (throttled d0 (0#9) false = false) ∧ (preloadReject x false W = none) ∧ (badRing x false [ring] = none) ∧ (halfField (fld W 48 2) = some HalfSel.full) ∧ (earlierNames x0 (getThread x0 false).feed e (fld W 50 4) = false) ∧ (anyMma (opsOn x0 HalfSel.full (slotReg x0 HalfSel.full (fld W 50 4)) e.seq) = false) ∧ (ringsReady x [ring] = true) ∧ ((formatOf (fld W 41 5)).any (fun (f : Format) => true) = true))))))))) = true) := by
  decide +kernel


end Wb1

namespace Wb3

def rl : Member := { kind := .relay, id := 5, ring := 3, pos := 0, count := 2, joined := true, stage := 0, up := none, down := some (0, 2, 0), credits := 3, granted := 0, sent := 0, received := 0, discarded := 0, blocking := 0, shape := none, tiles := 0, party := 0, epoch := 0, downParty := 0, downEpoch := 0, ints := false, reg := 0, bare := false, fwdFlits := 0, fwdOpen := false, thread := false, itin := 1, incoming := [], flits := 4, local_ := [], outgoing := [], pending := none }
def drW : List (List (Nat × Nat)) := [[(43,1),(36,3)], [(43,1),(36,9),(30,32)], [(43,1),(36,2)]]
def eD_states : List State := drW.map (fun l => st 0x23 l id (fun x => { x with members := [rl] }))
def ws0 : List State := eD_states

theorem test_witness_DrainWritesTile :
    (withVal (mkWord 35 9002251452416#58) (fun (W : BitVec 64) => withVal (wordEntry (nth ws0 0).die (0#9) false 35 9002251452416#58) (fun (e : QEntry) => withVal (asTaken (nth ws0 0).die (0#9) false QueueId.edge (fun (th : Thread) => countRead (lodgePrep (nth ws0 0).die (0#9) 35 (9002251452416#58) th)) 35 9002251452416#58) (fun (d : Die) => withVal (getCore d 0#9) (fun (x : Core) => withVal (fld W 36 4) (fun (dst : ℕ) => withVal (fld W 14 4) (fun (src : ℕ) => withVal (if fld W 24 2 ≠ 0 ∧ src < 8 then [src] else []) (fun (rings : List ℕ) => withVal (slotReg x HalfSel.full (fld W 50 4)) (fun (q : ℕ) => decide ((issuesNow (nth ws0 0).die (0#9) false QueueId.edge 35 9002251452416#58 = true) ∧ (drainReject x false e = none) ∧ (halfField (fld W 48 2) = some HalfSel.full) ∧ (readHeld x false HalfSel.full q (fld W 50 4) e = false) ∧ (dst < 8 → produceReady x dst = true) ∧ (ringsReady x rings = true) ∧ (lodgeTake (getCore d 0#9).split e.word = 0 ∨ e.stream + lodgeTake (getCore d 0#9).split e.word ≤ sliceSize ∧ lodgeHeld (getCore d 0#9) false e e.stream (lodgeTake (getCore d 0#9).split e.word) false = false ∧ ueIn d (0#9) e.stream (lodgeTake (getCore d 0#9).split e.word) = none) ∧ ((formatOf (fld W 43 5)).any (fun (f : Format) => true) = true)))))))))) = true) := by
  decide +kernel


end Wb3

namespace Wc1

def ops : List (Nat × QueueId) := [(0x10,.port),(0x11,.port),(0x13,.port),(0x14,.port),(0x15,.port),(0x20,.feed),(0x21,.feed),(0x22,.edge),(0x23,.edge),(0x24,.feed),(0x25,.edge),(0x28,.edge),(0x29,.edge),(0x2A,.vec),(0x30,.vec),(0x31,.vec),(0x32,.vec),(0x33,.vec),(0x34,.vec),(0x38,.ldg),(0x39,.ldg),(0x3A,.msg),(0x3D,.msg)]
def ws_ : List (List (Nat × Nat)) := [[(1,1)], [(53,1)], [(52,1)]]
def fill (q : QueueId) (n : Nat) (th : Thread) : Thread := putQueue th q ((List.range n).map (fun i => { qe 0x30 [] i with seq := i }))
def e0_states : List State := ops.flatMap (fun (op, q) => ws_.flatMap (fun l => [st op l (fill q 1), st op l (fill q (queueDepth q))]))
def e1_states : List State := [withCore (runCore (fun th => { th with edge := [qe 0x22 [(36,5)]] }) (fun x => { x with rings := [(5, ringOf 0 0 0 3 0)] })) dm, withCore (runCore (fun th => { th with edge := [qe 0x25 [(48,1)]] })) dm, st 0x05 [] , st 0x07 []]
def hq (s : State) : List Die := [QueueId.edge, .feed].filterMap (fun q => match getQueue (threadAt s.die 0 false) q with | e :: r => issueAny (modThread s.die 0 false (fun th => putQueue th q r)) 0 false e | [] => none)
def ws0 : List State := e0_states

theorem test_witness_QueuesIssueInOrder_QueuesHoldWords :
    ((ready (nth ws0 0).die (0#9) false 16 2#58 = true) ∧ (queueRoom (nth ws0 0).die (0#9) false QueueId.port = true)) ∧
    ((ready (nth ws0 1).die (0#9) false 16 2#58 = true) ∧ (queueDepth QueueId.port ≤ (getQueue (threadAt (nth ws0 1).die (0#9) false) QueueId.port).length)) ∧
    ((ready (nth ws0 6).die (0#9) false 17 2#58 = true) ∧ (queueRoom (nth ws0 6).die (0#9) false QueueId.port = true)) ∧
    ((ready (nth ws0 7).die (0#9) false 17 2#58 = true) ∧ (queueDepth QueueId.port ≤ (getQueue (threadAt (nth ws0 7).die (0#9) false) QueueId.port).length)) ∧
    ((ready (nth ws0 12).die (0#9) false 19 2#58 = true) ∧ (queueRoom (nth ws0 12).die (0#9) false QueueId.port = true)) ∧
    ((ready (nth ws0 13).die (0#9) false 19 2#58 = true) ∧ (queueDepth QueueId.port ≤ (getQueue (threadAt (nth ws0 13).die (0#9) false) QueueId.port).length)) ∧
    ((ready (nth ws0 18).die (0#9) false 20 2#58 = true) ∧ (queueRoom (nth ws0 18).die (0#9) false QueueId.port = true)) ∧
    ((ready (nth ws0 19).die (0#9) false 20 2#58 = true) ∧ (queueDepth QueueId.port ≤ (getQueue (threadAt (nth ws0 19).die (0#9) false) QueueId.port).length)) := by
  decide +kernel

theorem test_witness_QueuesIssueInOrder_QueuesHoldWords_b :
    ((ready (nth ws0 24).die (0#9) false 21 2#58 = true) ∧ (queueRoom (nth ws0 24).die (0#9) false QueueId.port = true)) ∧
    ((ready (nth ws0 25).die (0#9) false 21 2#58 = true) ∧ (queueDepth QueueId.port ≤ (getQueue (threadAt (nth ws0 25).die (0#9) false) QueueId.port).length)) ∧
    (((threadAt (nth ws0 30).die (0#9) false).streamPtr.toNat + lodgeTake (getCore (nth ws0 30).die 0#9).split (mkWord 32 2#58) ≤ sliceSize) ∧ (ready (nth ws0 30).die (0#9) false 32 2#58 = true) ∧ (queueRoom (nth ws0 30).die (0#9) false QueueId.feed = true)) ∧
    (((threadAt (nth ws0 31).die (0#9) false).streamPtr.toNat + lodgeTake (getCore (nth ws0 31).die 0#9).split (mkWord 32 2#58) ≤ sliceSize) ∧ (ready (nth ws0 31).die (0#9) false 32 2#58 = true) ∧ (queueDepth QueueId.feed ≤ (getQueue (threadAt (nth ws0 31).die (0#9) false) QueueId.feed).length)) ∧
    (((threadAt (nth ws0 36).die (0#9) false).streamPtr.toNat + lodgeTake (getCore (nth ws0 36).die 0#9).split (mkWord 33 2#58) ≤ sliceSize) ∧ (ready (nth ws0 36).die (0#9) false 33 2#58 = true) ∧ (queueRoom (nth ws0 36).die (0#9) false QueueId.feed = true)) ∧
    (((threadAt (nth ws0 37).die (0#9) false).streamPtr.toNat + lodgeTake (getCore (nth ws0 37).die 0#9).split (mkWord 33 2#58) ≤ sliceSize) ∧ (ready (nth ws0 37).die (0#9) false 33 2#58 = true) ∧ (queueDepth QueueId.feed ≤ (getQueue (threadAt (nth ws0 37).die (0#9) false) QueueId.feed).length)) ∧
    ((ready (nth ws0 42).die (0#9) false 34 2#58 = true) ∧ (queueRoom (nth ws0 42).die (0#9) false QueueId.edge = true)) ∧
    ((ready (nth ws0 43).die (0#9) false 34 2#58 = true) ∧ (queueDepth QueueId.edge ≤ (getQueue (threadAt (nth ws0 43).die (0#9) false) QueueId.edge).length)) := by
  decide +kernel

theorem test_witness_QueuesIssueInOrder_QueuesHoldWords_c :
    (((threadAt (nth ws0 48).die (0#9) false).streamPtr.toNat + lodgeTake (getCore (nth ws0 48).die 0#9).split (mkWord 35 2#58) ≤ sliceSize) ∧ (ready (nth ws0 48).die (0#9) false 35 2#58 = true) ∧ (queueRoom (nth ws0 48).die (0#9) false QueueId.edge = true)) ∧
    (((threadAt (nth ws0 49).die (0#9) false).streamPtr.toNat + lodgeTake (getCore (nth ws0 49).die 0#9).split (mkWord 35 2#58) ≤ sliceSize) ∧ (ready (nth ws0 49).die (0#9) false 35 2#58 = true) ∧ (queueDepth QueueId.edge ≤ (getQueue (threadAt (nth ws0 49).die (0#9) false) QueueId.edge).length)) ∧
    ((ready (nth ws0 54).die (0#9) false 36 2#58 = true) ∧ (queueRoom (nth ws0 54).die (0#9) false QueueId.feed = true)) ∧
    ((ready (nth ws0 55).die (0#9) false 36 2#58 = true) ∧ (queueDepth QueueId.feed ≤ (getQueue (threadAt (nth ws0 55).die (0#9) false) QueueId.feed).length)) ∧
    ((ready (nth ws0 60).die (0#9) false 37 2#58 = true) ∧ (queueRoom (nth ws0 60).die (0#9) false QueueId.edge = true)) ∧
    ((ready (nth ws0 61).die (0#9) false 37 2#58 = true) ∧ (queueDepth QueueId.edge ≤ (getQueue (threadAt (nth ws0 61).die (0#9) false) QueueId.edge).length)) ∧
    ((ready (nth ws0 66).die (0#9) false 40 2#58 = true) ∧ (queueRoom (nth ws0 66).die (0#9) false QueueId.edge = true)) ∧
    ((ready (nth ws0 67).die (0#9) false 40 2#58 = true) ∧ (queueDepth QueueId.edge ≤ (getQueue (threadAt (nth ws0 67).die (0#9) false) QueueId.edge).length)) := by
  decide +kernel

theorem test_witness_QueuesIssueInOrder_QueuesHoldWords_d :
    ((ready (nth ws0 72).die (0#9) false 41 2#58 = true) ∧ (queueRoom (nth ws0 72).die (0#9) false QueueId.edge = true)) ∧
    ((ready (nth ws0 73).die (0#9) false 41 2#58 = true) ∧ (queueDepth QueueId.edge ≤ (getQueue (threadAt (nth ws0 73).die (0#9) false) QueueId.edge).length)) ∧
    ((ready (nth ws0 78).die (0#9) false 42 2#58 = true) ∧ (queueRoom (nth ws0 78).die (0#9) false QueueId.vec = true)) ∧
    ((ready (nth ws0 79).die (0#9) false 42 2#58 = true) ∧ (queueDepth QueueId.vec ≤ (getQueue (threadAt (nth ws0 79).die (0#9) false) QueueId.vec).length)) ∧
    ((ready (nth ws0 84).die (0#9) false 48 2#58 = true) ∧ (queueRoom (nth ws0 84).die (0#9) false QueueId.vec = true)) ∧
    ((ready (nth ws0 85).die (0#9) false 48 2#58 = true) ∧ (queueDepth QueueId.vec ≤ (getQueue (threadAt (nth ws0 85).die (0#9) false) QueueId.vec).length)) ∧
    ((ready (nth ws0 90).die (0#9) false 49 2#58 = true) ∧ (queueRoom (nth ws0 90).die (0#9) false QueueId.vec = true)) ∧
    ((ready (nth ws0 91).die (0#9) false 49 2#58 = true) ∧ (queueDepth QueueId.vec ≤ (getQueue (threadAt (nth ws0 91).die (0#9) false) QueueId.vec).length)) := by
  decide +kernel

theorem test_witness_QueuesIssueInOrder_QueuesHoldWords_e :
    ((ready (nth ws0 96).die (0#9) false 50 2#58 = true) ∧ (queueRoom (nth ws0 96).die (0#9) false QueueId.vec = true)) ∧
    ((ready (nth ws0 97).die (0#9) false 50 2#58 = true) ∧ (queueDepth QueueId.vec ≤ (getQueue (threadAt (nth ws0 97).die (0#9) false) QueueId.vec).length)) ∧
    ((ready (nth ws0 102).die (0#9) false 51 2#58 = true) ∧ (queueRoom (nth ws0 102).die (0#9) false QueueId.vec = true)) ∧
    ((ready (nth ws0 103).die (0#9) false 51 2#58 = true) ∧ (queueDepth QueueId.vec ≤ (getQueue (threadAt (nth ws0 103).die (0#9) false) QueueId.vec).length)) ∧
    ((ready (nth ws0 108).die (0#9) false 52 2#58 = true) ∧ (queueRoom (nth ws0 108).die (0#9) false QueueId.vec = true)) ∧
    ((ready (nth ws0 109).die (0#9) false 52 2#58 = true) ∧ (queueDepth QueueId.vec ≤ (getQueue (threadAt (nth ws0 109).die (0#9) false) QueueId.vec).length)) ∧
    ((ldgrdForm true 9007199254740992#58 = true) ∧ (ready (nth ws0 116).die (0#9) false 56 9007199254740992#58 = true) ∧ (queueRoom (nth ws0 116).die (0#9) false QueueId.ldg = true)) ∧
    ((ldgrdForm true 9007199254740992#58 = true) ∧ (ready (nth ws0 117).die (0#9) false 56 9007199254740992#58 = true) ∧ (queueDepth QueueId.ldg ≤ (getQueue (threadAt (nth ws0 117).die (0#9) false) QueueId.ldg).length)) := by
  decide +kernel

theorem test_witness_QueuesIssueInOrder_QueuesHoldWords_f :
    ((ready (nth ws0 120).die (0#9) false 57 2#58 = true) ∧ (queueRoom (nth ws0 120).die (0#9) false QueueId.ldg = true)) ∧
    ((ready (nth ws0 121).die (0#9) false 57 2#58 = true) ∧ (queueDepth QueueId.ldg ≤ (getQueue (threadAt (nth ws0 121).die (0#9) false) QueueId.ldg).length)) ∧
    ((berthForm 1 4503599627370496#58 = true) ∧ (ready (nth ws0 130).die (0#9) false 58 4503599627370496#58 = true) ∧ (queueRoom (nth ws0 130).die (0#9) false QueueId.msg = true)) ∧
    ((berthForm 1 4503599627370496#58 = true) ∧ (ready (nth ws0 131).die (0#9) false 58 4503599627370496#58 = true) ∧ (queueDepth QueueId.msg ≤ (getQueue (threadAt (nth ws0 131).die (0#9) false) QueueId.msg).length)) ∧
    ((ready (nth ws0 132).die (0#9) false 61 2#58 = true) ∧ (queueRoom (nth ws0 132).die (0#9) false QueueId.msg = true)) ∧
    ((ready (nth ws0 133).die (0#9) false 61 2#58 = true) ∧ (queueDepth QueueId.msg ≤ (getQueue (threadAt (nth ws0 133).die (0#9) false) QueueId.msg).length)) := by
  decide +kernel

def ws1 : List State := e1_states

theorem test_witness_QueuesIssueInOrder_QueueIssueTakesHead :
    (withVal (threadAt (nth ws1 0).die (0#9) false) (fun (th : Thread) => withVal (modThread (nth ws1 0).die (0#9) false fun (th : Thread) => putQueue th QueueId.edge []) (fun (d : Die) => decide ((th.run ≠ Run.faulted) ∧ (th.run ≠ Run.stopped) ∧ ((getQueue th QueueId.edge).head?.any (fun (hd : QEntry) => decide (((getQueue th QueueId.edge).tail = []) ∧ (issueAny d (0#9) false hd = none))) = true)))) = true) ∧
    (withVal (threadAt (nth ws1 0).die (0#9) false) (fun (th : Thread) => decide ((getQueue th QueueId.feed = []) ∧ (QueueId.feed ≠ QueueId.sequencer))) = true) ∧
    (withVal (threadAt (nth ws1 1).die (0#9) false) (fun (th : Thread) => withVal (modThread (nth ws1 1).die (0#9) false fun (th : Thread) => putQueue th QueueId.edge []) (fun (d : Die) => decide ((th.run ≠ Run.faulted) ∧ (th.run ≠ Run.stopped) ∧ ((getQueue th QueueId.edge).head?.any (fun (hd : QEntry) => decide (((getQueue th QueueId.edge).tail = []) ∧ ((issueAny d (0#9) false hd).any (fun (d' : Die) => true) = true))) = true)))) = true) ∧
    (withVal (threadAt (nth ws1 2).die (0#9) false) (fun (th : Thread) => withVal (tabGet 0 (getCore (nth ws1 2).die 0#9).pmem th.pc) (fun (W : BitVec 64) => decide ((opcodeKnown (fld W 58 6) = false) ∧ (ready (nth ws1 2).die (0#9) false (fld W 58 6) (BitVec.setWidth 58 W) = true)))) = true) := by
  decide +kernel


end Wc1

namespace Wc2

def mem1 : Member := { kind := .chain, id := 5, ring := 0, pos := 1, count := 3, joined := true, stage := 0, up := some (0, 1, 0), down := some (0, 2, 0), credits := 3, granted := 0, sent := 0, received := 0, discarded := 0, blocking := 0, shape := none, tiles := 0, party := 0, epoch := 0, downParty := 0, downEpoch := 0, ints := false, reg := 0, bare := false, fwdFlits := 0, fwdOpen := false, thread := false, itin := 1, incoming := [], flits := 4, local_ := [], outgoing := [], pending := none }
def op1 : ArrOp := { kind := .mma, thread := false, half := .full, reg := 1, start := 100, accept := 120, tLast := 200, due := 202, lodge := false, latch := none, verdict := ⟨false,false,false,0,0⟩, verdictMade := false, ports := 0, portsTo := 0, wports := 0, evs := [], clr := false, copied := false, copy := 0, cleared := false, ring := none, part := none, seq := 3, pc := 0 }
def opR : ArrOp := { op1 with kind := .drain, copy := 0x0000000F }
def ww : List (List (Nat × Nat)) := [[(50,3)], [(50,1),(48,0)], [(42,5),(35,1)], [(42,5),(35,1),(39,1)]]
def e2_states : List State := ww.flatMap (fun l => [st 0x24 l, st 0x25 l, st 0x29 l (fun th => { th with itin := some 1 }) (fun x => { x with members := [mem1] }),
     st 0x29 l (fun th => { th with itin := some 1 }) (fun x => { x with members := [{ mem1 with pos := 0 }] }),
     st 0x29 l (fun th => { th with itin := some 1 }) (fun x => { x with members := [{ mem1 with pos := 0, credits := 20, down := none }] })]) ++
   [ withCore (runCore id (fun x => { x with ops := [op1, opR, { opR with verdict := ⟨true, true, false, 3, 4⟩ }, { opR with verdictMade := true }, { opR with verdictMade := true, copied := true, copy := 0x4000000F }, { opR with verdictMade := true, half := .h0 }] }))]
def ws0 : List State := e2_states

theorem test_witness_ArrayEnds_SwapAndClear :
    (withVal (mkWord 36 3377699720527872#58) (fun (W : BitVec 64) => withVal (wordEntry (nth ws0 0).die (0#9) false 36 3377699720527872#58) (fun (e : QEntry) => withVal (asTaken (nth ws0 0).die (0#9) false QueueId.feed id 36 3377699720527872#58) (fun (d0 : Die) => withVal (getCore d0 0#9) (fun (x0 : Core) => withVal (List.filter (fun (o : ArrOp) => o.kind != ArrKind.chain) (opsOn x0 HalfSel.full (fld W 50 4) e.seq ++ opsOn x0 HalfSel.full (fld W 50 4 + 8) e.seq)) (fun (pair : List ArrOp) => withVal (waitUntil d0 (maxL [d0.aclk, acceptAt x0 HalfSel.full true, rowsEnd pair])) (fun (d : Die) => withVal (getCore d 0#9) (fun (x : Core) => decide ((issuesNow (nth ws0 0).die (0#9) false QueueId.feed 36 3377699720527872#58 = true) ∧ (halfField (fld W 48 2) = some HalfSel.full) ∧ (halfLegal x false HalfSel.full false = true) ∧ (shadowOn x = true) ∧ (fld W 50 4 < 8) ∧ (earlierNames x0 (getThread x0 false).edge e (fld W 50 4) = false))))))))) = true) ∧
    (withVal (mkWord 37 3377699720527872#58) (fun (W : BitVec 64) => withVal (wordEntry (nth ws0 1).die (0#9) false 37 3377699720527872#58) (fun (e : QEntry) => withVal (asTaken (nth ws0 1).die (0#9) false QueueId.edge id 37 3377699720527872#58) (fun (d0 : Die) => withVal (getCore d0 0#9) (fun (x0 : Core) => withVal (opsOn x0 HalfSel.full (slotReg x0 HalfSel.full (fld W 50 4)) e.seq) (fun (on : List ArrOp) => withVal (waitUntil d0 (maxL [d0.aclk, rowsEnd on])) (fun (d : Die) => withVal (getCore d 0#9) (fun (x : Core) => decide ((issuesNow (nth ws0 1).die (0#9) false QueueId.edge 37 3377699720527872#58 = true) ∧ (halfField (fld W 48 2) = some HalfSel.full) ∧ (halfLegal x false HalfSel.full false = true) ∧ (earlierNames x0 (getThread x0 false).feed e (fld W 50 4) = false) ∧ (anyMma on = false))))))))) = true) := by
  decide +kernel

def ws1 : List State := e2_states

theorem test_witness_ArrayEnds_ChainMemberActs :
    (withVal (mkWord 41 22024592293888#58) (fun (W : BitVec 64) => withVal (wordEntry (nth ws1 12).die (0#9) false 41 22024592293888#58) (fun (e : QEntry) => withVal (asTaken (nth ws1 12).die (0#9) false QueueId.edge (chainPrep 22024592293888#58) 41 22024592293888#58) (fun (d0 : Die) => withVal (fld W 35 2) (fun (p : ℕ) => withVal (waitUntil d0 (max d0.aclk (partFrom (getCore d0 0#9) p))) (fun (d : Die) => withVal (getCore d 0#9) (fun (x : Core) => decide ((issuesNow (nth ws1 12).die (0#9) false QueueId.edge 41 22024592293888#58 = true) ∧ (fld W 37 2 = 0) ∧ (chainReject x false e = none) ∧ (partBusy (getCore d0 0#9) p = false) ∧ ((chainMember x false (fld W 42 12)).any (fun (m : Member) => decide ((m.pending = none) ∧ (m.pos ≠ 0) ∧ (m.incoming.length < m.flits))) = true)))))))) = true) ∧
    (withVal (mkWord 41 22024592293888#58) (fun (W : BitVec 64) => withVal (wordEntry (nth ws1 13).die (0#9) false 41 22024592293888#58) (fun (e : QEntry) => withVal (asTaken (nth ws1 13).die (0#9) false QueueId.edge (chainPrep 22024592293888#58) 41 22024592293888#58) (fun (d0 : Die) => withVal (fld W 35 2) (fun (p : ℕ) => withVal (waitUntil d0 (max d0.aclk (partFrom (getCore d0 0#9) p))) (fun (d : Die) => withVal (getCore d 0#9) (fun (x : Core) => decide ((issuesNow (nth ws1 13).die (0#9) false QueueId.edge 41 22024592293888#58 = true) ∧ (fld W 37 2 = 0) ∧ (chainReject x false e = none) ∧ (partBusy (getCore d0 0#9) p = false) ∧ ((chainMember x false (fld W 42 12)).any (fun (m : Member) => decide ((m.pending = none) ∧ (m.pos = 0) ∧ (1 < m.count))) = true)))))))) = true) := by
  decide +kernel

def ws2 : List State := e2_states

theorem test_witness_ArrayEnds_ArrayEventsEnd :
    (withVal (getCore (nth ws2 0).die 0#9) (fun (x : Core) => decide (((x.ops.all fun (o : ArrOp) => !(feedOp o && overlaps o.half (if false = true then HalfSel.h1 else HalfSel.h0))) = true))) = true) ∧
    (withVal (getCore (nth ws2 20).die 0#9) (fun (x : Core) => (x.ops[0]?).any (fun (o : ArrOp) => decide ((isRead o = false)))) = true) ∧
    (withVal (getCore (nth ws2 20).die 0#9) (fun (x : Core) => (x.ops[1]?).any (fun (o : ArrOp) => decide ((isRead o = true) ∧ (o.verdictMade = false) ∧ (o.verdict.failed = false) ∧ (((getCore (waitUntil (nth ws2 20).die (verdictAt o)) 0#9).ops[1]?).any (fun (p : ArrOp) => true) = true)))) = true) ∧
    (withVal (getCore (nth ws2 20).die 0#9) (fun (x : Core) => (x.ops[2]?).any (fun (o : ArrOp) => decide ((isRead o = true) ∧ (o.verdictMade = false) ∧ (o.verdict.failed = true)))) = true) ∧
    (withVal (getCore (nth ws2 20).die 0#9) (fun (x : Core) => (x.ops[3]?).any (fun (o : ArrOp) => decide ((isRead o = true) ∧ (o.verdictMade = true) ∧ (chainWaits x o = false) ∧ (((getCore (waitUntil (nth ws2 20).die o.due) 0#9).ops[3]?).any (fun (p : ArrOp) => true) = true)))) = true) := by
  decide +kernel


end Wc2

namespace Wc3

def ww : List (List (Nat × Nat)) := [[(45,0),(38,8),(36,1)], [(45,1),(38,32),(44,1),(36,2),(35,1)], [(45,4),(38,16),(23,2),(18,1),(36,3)], [(52,0),(50,1),(48,2),(42,32),(36,34),(30,33),(27,0)]]
def lse : Core → Core := fun x => { x with utags := [(0, utagOf kLse false), (1, utagOf kLse false)], partials := [(0, 0x3F8000003F800000), (33, 0x40000000)] }
def e3_states : List State := ww.flatMap (fun l => [st 0x28 l, st 0x2A l (fun th => { th with regs := [(32, 0x4000), (33, 0x8000), (34, 0x10000)] }) lse])
def ws0 : List State := e3_states

theorem test_witness_ReductionsWritePartials :
    (withVal (mkWord 40 2267742732288#58) (fun (W : BitVec 64) => withVal (wordEntry (nth ws0 0).die (0#9) false 40 2267742732288#58) (fun (e : QEntry) => withVal (asTaken (nth ws0 0).die (0#9) false QueueId.edge countRead 40 2267742732288#58) (fun (d0 : Die) => withVal (getCore d0 0#9) (fun (x0 : Core) => withVal (fld W 45 3) (fun (kind : ℕ) => withVal (fld W 36 2) (fun (u2 : ℕ) => withVal ((if bitB W 35 = true then [u2] else []) ++ if kind = kLse ∧ bitB W 28 = true then [fld W 26 2] else []) (fun (reads : List ℕ) => withVal (waitUntil d0 (maxL (d0.aclk :: List.map (partFrom x0) reads))) (fun (d : Die) => withVal (getCore d 0#9) (fun (x : Core) => decide ((issuesNow (nth ws0 0).die (0#9) false QueueId.edge 40 2267742732288#58 = true) ∧ (halfField (fld W 48 2) = some HalfSel.full) ∧ (readHeld x0 false HalfSel.full (slotReg x0 HalfSel.full (fld W 50 4)) (fld W 50 4) e = false) ∧ (reads.any (partBusy x0) = false) ∧ (reduceReject x false e = none) ∧ (kind = kLse → produceReady x (fld W 23 3) = true))))))))))) = true) ∧
    (withVal (mkWord 42 2267742732288#58) (fun (W : BitVec 64) => withVal (wordEntry (nth ws0 1).die (0#9) false 42 2267742732288#58) (fun (e : QEntry) => withVal (asTaken (nth ws0 1).die (0#9) false QueueId.vec id 42 2267742732288#58) (fun (d0 : Die) => withVal (getCore d0 0#9) (fun (x0 : Core) => withVal ([fld W 52 2, fld W 50 2]) (fun (ps : List ℕ) => withVal (waitUntil d0 (maxL (d0.aclk :: List.map (partFrom x0) ps))) (fun (d : Die) => withVal (getCore d 0#9) (fun (x : Core) => decide ((issuesNow (nth ws0 1).die (0#9) false QueueId.vec 42 2267742732288#58 = true) ∧ (throttled d0 (0#9) false = false) ∧ (ps.any (partBusy x0) = false) ∧ (earlierReduce x0 false e.seq ps = false) ∧ (mergeReject x false e = none))))))))) = true) := by
  decide +kernel


end Wc3

namespace Wd1

def R (th : Thread) : Thread := { th with regs := [(1, 64), (2, 32), (3, 1024), (32, 0x4000), (33, 0x100), (34, 0x8000)], vecWork := [⟨none, 5, 5, 0, 0⟩] }
def vw : List (List (Nat × Nat)) :=
  ((List.range 11).map (fun fn => [(50,fn),(44,32),(38,33),(32,34),(26,2),(14,fn % 2),(9,1)])) ++
  [[(50,11),(44,32),(38,33),(32,34),(26,2)], [(44,32),(38,33),(26,2),(21,1),(16,3)], [(44,32),(38,33),(26,1),(21,0x10),(16,0),(15,1)], [(50,0),(44,32),(38,33),(26,3),(21,1)],[(50,1),(44,32),(38,33),(26,2),(21,8)],[(50,2),(44,32),(38,33),(32,34),(26,2),(21,8)]] ++
  [[(50,0),(44,5),(38,33),(26,1)],[(50,1),(44,5),(38,33),(26,1)],[(50,2),(44,5),(38,33),(26,1)],[(50,3),(44,5),(38,33),(26,1)]]
def e1_states : List State := vw.flatMap (fun l => [st 0x30 l R, st 0x31 l R, st 0x32 l R, st 0x33 l R, st 0x34 l R]) ++
    [withCore (runCore (fun th => { th with vecWork := [⟨some (5, 77), 90, 80, 0, 0⟩, ⟨none, 100, 90, 0, 0⟩], owed := [(5, .vred)] })), withCore (runCore (fun th => { th with vecWork := [⟨none, 100, 90, 0, 0⟩] }))]
def ws0 : List State := e1_states

theorem test_witness_VectorWords_VectorWordsWriteStore :
    (((threadAt (nth ws0 0).die (0#9) false).vecWork = [{ rd := none, due := 5, last := 5, reads := 0, writes := 0 : Work }])) ∧
    (withVal (mkWord 48 572167087456768#58) (fun (V : BitVec 64) => withVal (wordEntry (nth ws0 0).die (0#9) false 48 572167087456768#58) (fun (e : QEntry) => withVal (asTaken (nth ws0 0).die (0#9) false QueueId.vec id 48 572167087456768#58) (fun (d : Die) => decide ((issuesNow (nth ws0 0).die (0#9) false QueueId.vec 48 572167087456768#58 = true) ∧ (throttled d (0#9) false = false) ∧ (vecN e ≠ 0) ∧ (fld V 50 4 ≤ 10) ∧ (fld V 21 5 = 0) ∧ (vecCheck ((vecRA e, 4 * vecN e) :: if vopBinary (fld V 50 4) = true then [(vecRB e, 4 * vecN e)] else []) (some (vecRD e, 4 * vecN e)) = none))))) = true) ∧
    (withVal (mkWord 49 572167087456768#58) (fun (C : BitVec 64) => withVal (wordEntry (nth ws0 1).die (0#9) false 49 572167087456768#58) (fun (e : QEntry) => withVal (asTaken (nth ws0 1).die (0#9) false QueueId.vec id 49 572167087456768#58) (fun (d : Die) => decide ((issuesNow (nth ws0 1).die (0#9) false QueueId.vec 49 572167087456768#58 = true) ∧ (throttled d (0#9) false = false) ∧ (vecN e ≠ 0) ∧ (fld C 50 4 = 0) ∧ ((formatOf (fld C 21 5)).any (fun (f : Format) => (formatOf (fld C 16 5)).any (fun (g : Format) => decide (((f.mx || g.mx) = true → vecN e % 32 = 0) ∧ (vecCheck [(vecRA e, fmtBytes f (vecN e))] (some (vecRD e, fmtBytes g (vecN e))) = none)))) = true))))) = true) ∧
    (withVal (mkWord 50 572167087456768#58) (fun (F : BitVec 64) => withVal (wordEntry (nth ws0 2).die (0#9) false 50 572167087456768#58) (fun (e : QEntry) => withVal (asTaken (nth ws0 2).die (0#9) false QueueId.vec id 50 572167087456768#58) (fun (d : Die) => decide ((issuesNow (nth ws0 2).die (0#9) false QueueId.vec 50 572167087456768#58 = true) ∧ (throttled d (0#9) false = false) ∧ (vecN e ≠ 0) ∧ (fld F 50 4 ≤ 5) ∧ (fld F 21 5 = 0) ∧ (vecCheck [(vecRA e, 4 * vecN e)] (some (vecRD e, 4 * vecN e)) = none))))) = true) ∧
    (withVal (wordEntry (nth ws0 3).die (0#9) false 51 572167087456768#58) (fun (e : QEntry) => withVal (mkWord 51 572167087456768#58) (fun (R : BitVec 64) => withVal (asTaken (nth ws0 3).die (0#9) false QueueId.vec (owe (fld R 44 6) Owed.vred) 51 572167087456768#58) (fun (d : Die) => decide ((issuesNow (nth ws0 3).die (0#9) false QueueId.vec 51 572167087456768#58 = true) ∧ (throttled d (0#9) false = false) ∧ (fld R 50 4 ≤ 3) ∧ (vecN e ≠ 0) ∧ (vecCheck [(vecRA e, 4 * vecN e)] none = none))))) = true) ∧
    (withVal (mkWord 52 1698066994315776#58) (fun (P : BitVec 64) => withVal (wordEntry (nth ws0 9).die (0#9) false 52 1698066994315776#58) (fun (e : QEntry) => withVal (asTaken (nth ws0 9).die (0#9) false QueueId.vec id 52 1698066994315776#58) (fun (d : Die) => decide ((issuesNow (nth ws0 9).die (0#9) false QueueId.vec 52 1698066994315776#58 = true) ∧ (throttled d (0#9) false = false) ∧ (vecN e ≠ 0) ∧ (fld P 50 4 ≤ 2) ∧ ((formatOf (fld P 21 5)).any (fun (f : Format) => decide ((fld P 50 4 = 0 → 16 ≤ f.width ∧ vecN e % 1024 = 0) ∧ (vecCheck ((vecRA e, planeBytes f.width (vecN e)) :: if fld P 50 4 = 2 then [(vecRB e, 4 * vecN e)] else []) (some (vecRD e, planeBytes f.width (vpermCount e))) = none))) = true))))) = true) := by
  decide +kernel

def ws1 : List State := e1_states

theorem test_witness_VectorWords_VectorArithmeticRounds :
    (withVal (XVal.fin false 0 0) (fun (a : XVal) => withVal (XVal.fin false 3 0) (fun (b : XVal) => withVal (dyAdd (xDy a) (xDy (xNeg b))) (fun (diff : Dy) => decide ((diff.m ≠ 0))))) = true) ∧
    (withVal (XVal.fin false 0 0) (fun (a : XVal) => withVal (XVal.fin false 3 0) (fun (b : XVal) => withVal (dyAdd (xDy a) (xDy b)) (fun (sum : Dy) => decide ((sum.m ≠ 0))))) = true) ∧
    (withVal (XVal.fin false 0 0) (fun (a : XVal) => withVal (XVal.fin false 0 0) (fun (b : XVal) => decide ((10 < 16777215)))) = true) := by
  decide +kernel


end Wd1

namespace Wd2

def R (th : Thread) : Thread := { th with regs := [(1, 0x10001000002), (2, 0x10001000009), (3, 128), (4, 5), (32, 0x4000), (33, 0x100)], itin := some 1, ldgWork := [⟨true, 0x8000, 64, 55⟩] }
def cw : List (List (Nat × Nat)) := [[(53,1),(44,33),(38,32),(32,3)], [(44,32),(38,33),(32,3)], [(44,1),(38,6)], [(44,2),(38,6)], [(52,1),(44,1)], [(52,1),(44,2)], [(0,3)], [(53,1),(44,4)]]
def dl : Die := let d := withItins [itin0] (ledDie dm); { d with ledger := { d.ledger with dirCache := [(0, 1)], cache := [(0, 0x300020)] } }
def dl' : Die := let d := withItins [itin0] (ledDie dm); { d with ledger := { d.ledger with dirCache := [], cache := [] } }
def stm (l : List QEntry) (rd : Nat) (it : Option (BitVec 32)) : State := stateOf (setCore dl 0 (runCore (fun th => { th with msg := l, readsIn := rd, itin := it, stampsHeld := 2 })))
def e1_states : List State := cw.flatMap (fun l => [stD dl 0x38 l R, stD dl 0x39 l R, stD dl 0x3A l R, stD dl' 0x3A l R, stD dl 0x3D l R, stD (withItins [{ itin0 with stamps := [(3,1)] }] dl) 0x3D l R]) ++
    [stm [qe 0x3D [(0,3)] 0 1] 3 (some 1), stm [qe 0x3D [(0,3)] 0 4] 3 none, stm [qe 0x3D [(0,3)] 0 2, qe 0x3D [(0,3)] 0 8] 3 none]
def ws0 : List State := e1_states

theorem test_witness_CopiesBerthsAndStamps_LodgeCopiesMoveBytes :
    (((threadAt (nth ws0 0).die (0#9) false).ldgWork = [{ write := true, lo := 32768, len := 64, due := 55 : LdgWork }])) ∧
    (withVal (mkWord 56 9596550372130816#58) (fun (W : BitVec 64) => withVal (wordEntry (nth ws0 0).die (0#9) false 56 9596550372130816#58) (fun (e : QEntry) => withVal (asTaken (nth ws0 0).die (0#9) false QueueId.ldg id 56 9596550372130816#58) (fun (d : Die) => withVal ((opnd e (fld W 44 6)).toNat) (fun (a : ℕ) => withVal ((opnd e (fld W 38 6)).toNat) (fun (b : ℕ) => withVal ((opnd e (fld W 32 6)).toNat) (fun (n : ℕ) => decide ((ldgrdForm true 9596550372130816#58 = true) ∧ (issuesNow (nth ws0 0).die (0#9) false QueueId.ldg 56 9596550372130816#58 = true) ∧ (n ≠ 0) ∧ (copyFault a b n = none) ∧ (lodgeHeld (getCore d 0#9) false e a n false = false) ∧ (ueIn (nth ws0 0).die (0#9) a n = none)))))))) = true) ∧
    (withVal (mkWord 57 9596550372130816#58) (fun (W : BitVec 64) => withVal (wordEntry (nth ws0 1).die (0#9) false 57 9596550372130816#58) (fun (e : QEntry) => withVal (asTaken (nth ws0 1).die (0#9) false QueueId.ldg id 57 9596550372130816#58) (fun (d : Die) => withVal ((opnd e (fld W 44 6)).toNat) (fun (a : ℕ) => withVal ((opnd e (fld W 38 6)).toNat) (fun (b : ℕ) => withVal ((opnd e (fld W 32 6)).toNat) (fun (n : ℕ) => decide ((issuesNow (nth ws0 1).die (0#9) false QueueId.ldg 57 9596550372130816#58 = true) ∧ (n ≠ 0) ∧ (copyFault b a n = none) ∧ (lodgeHeld (getCore d 0#9) false e b n true = false)))))))) = true) := by
  decide +kernel

def ws1 : List State := e1_states

theorem test_witness_CopiesBerthsAndStamps_BerthWordsAsk :
    (withVal (mkWord 58 572033809252352#58) (fun (W : BitVec 64) => withVal (wordEntry (nth ws1 8).die (0#9) false 58 572033809252352#58) (fun (e : QEntry) => withVal (handleOf e) (fun (h : BitVec 48) => withVal (quarterOf 0#9) (fun (q : BitVec 2) => withVal (asTaken (nth ws1 8).die (0#9) false QueueId.msg (owe ((572033809252352#58).toNat / 2 ^ 38 % 64) Owed.berth) 58 572033809252352#58) (fun (d : Die) => withVal (threadEntry d (0#9) false h) (fun (a : Option ℕ) => decide ((berthForm 0 572033809252352#58 = true) ∧ (issuesNow (nth ws1 8).die (0#9) false QueueId.msg 58 572033809252352#58 = true) ∧ (unitHas d q h a = false)))))))) = true) ∧
    (withVal (mkWord 58 19241453486080#58) (fun (W : BitVec 64) => withVal (wordEntry (nth ws1 14).die (0#9) false 58 19241453486080#58) (fun (e : QEntry) => withVal (handleOf e) (fun (h : BitVec 48) => withVal (quarterOf 0#9) (fun (q : BitVec 2) => withVal (asTaken (nth ws1 14).die (0#9) false QueueId.msg (owe ((19241453486080#58).toNat / 2 ^ 38 % 64) Owed.berth) 58 19241453486080#58) (fun (d : Die) => withVal (threadEntry d (0#9) false h) (fun (a : Option ℕ) => decide ((berthForm 0 19241453486080#58 = true) ∧ (issuesNow (nth ws1 14).die (0#9) false QueueId.msg 58 19241453486080#58 = true) ∧ (unitHas d q h a = true)))))))) = true) ∧
    (withVal (wordEntry (nth ws1 26).die (0#9) false 58 4521191813414912#58) (fun (e : QEntry) => withVal (handleOf e) (fun (h : BitVec 48) => withVal (quarterOf 0#9) (fun (q : BitVec 2) => withVal (asTaken (nth ws1 26).die (0#9) false QueueId.msg id 58 4521191813414912#58) (fun (d : Die) => withVal (threadEntry d (0#9) false h) (fun (a : Option ℕ) => decide ((berthForm 1 4521191813414912#58 = true) ∧ (issuesNow (nth ws1 26).die (0#9) false QueueId.msg 58 4521191813414912#58 = true) ∧ (unitHas d q h a = true))))))) = true) := by
  decide +kernel

def ws2 : List State := e1_states

theorem test_witness_CopiesBerthsAndStamps_StampsMarkTiles :
    (withVal (mkWord 61 572033809252352#58) (fun (W : BitVec 64) => withVal (wordEntry (nth ws2 10).die (0#9) false 61 572033809252352#58) (fun (e : QEntry) => withVal (asTaken (nth ws2 10).die (0#9) false QueueId.msg (fun (th : Thread) => { th with stampsHeld := th.stampsHeld + 1 }) 61 572033809252352#58) (fun (d : Die) => withVal (if bitB W 53 = true then (opnd e (fld W 44 6)).toNat else fld W 0 32) (fun (tile : ℕ) => withVal (threadAt (nth ws2 10).die (0#9) false) (fun (th : Thread) => decide ((issuesNow (nth ws2 10).die (0#9) false QueueId.msg 61 572033809252352#58 = true) ∧ (th.readsOut ≤ th.readsIn) ∧ (unsentBefore (getCore d 0#9) false e.seq = false) ∧ (th.itin = some (itinAt (nth ws2 10) 0).id) ∧ (findItin (nth ws2 10).die (itinAt (nth ws2 10) 0).id = some (itinAt (nth ws2 10) 0)) ∧ ((itinAt (nth ws2 10) 0).state = ItinState.running) ∧ (homeDie (itinAt (nth ws2 10) 0).id = (nth ws2 10).die.ident.dieNum) ∧ (tile < (itinAt (nth ws2 10) 0).tiles.toNat))))))) = true) ∧
    (withVal (mkWord 61 9596550372130816#58) (fun (W : BitVec 64) => withVal (wordEntry (nth ws2 48).die (0#9) false 61 9596550372130816#58) (fun (e : QEntry) => withVal (threadAt (nth ws2 48).die (0#9) false) (fun (th : Thread) => withVal (modThread (nth ws2 48).die (0#9) false fun (th : Thread) => { run := th.run, pc := th.pc, regs := th.regs, preds := th.preds, loops := th.loops, wait := th.wait, feed := th.feed, edge := th.edge, vec := th.vec, port := th.port, ldg := th.ldg, msg := [], owed := th.owed, answers := th.answers, streamPtr := th.streamPtr, armed := th.armed, tallyEvent := th.tallyEvent, armSeq := th.armSeq, armName := th.armName, vstat := th.vstat, vecWork := th.vecWork, ldgWork := th.ldgWork, unacked := th.unacked, stampsHeld := th.stampsHeld, readsOut := th.readsOut, readsIn := th.readsIn, seqNo := th.seqNo, exitCode := th.exitCode, tokens := th.tokens, tokensAt := th.tokensAt, itin := th.itin, dbgHalted := th.dbgHalted, dbgStep := th.dbgStep : Thread }) (fun (d1 : Die) => decide ((th.itin = some (itinAt (nth ws2 48) 0).id) ∧ (findItin (nth ws2 48).die (itinAt (nth ws2 48) 0).id = some (itinAt (nth ws2 48) 0)) ∧ ((itinAt (nth ws2 48) 0).state = ItinState.running) ∧ (homeDie (itinAt (nth ws2 48) 0).id = (nth ws2 48).die.ident.dieNum) ∧ ((th.msg).head?.any (fun (hd : QEntry) => withVal (if bitB hd.word 53 = true then (opnd hd (fld hd.word 44 6)).toNat else fld hd.word 0 32) (fun (k : ℕ) => decide ((th.msg.tail = []) ∧ (fld hd.word 58 6 = 61) ∧ (hd.mark ≤ th.readsIn) ∧ (unsentBefore (getCore d1 0#9) false hd.seq = false) ∧ (k < (itinAt (nth ws2 48) 0).tiles.toNat)))) = true)))))) = true) ∧
    (withVal (mkWord 61 9596550372130816#58) (fun (W : BitVec 64) => withVal (wordEntry (nth ws2 49).die (0#9) false 61 9596550372130816#58) (fun (e : QEntry) => withVal (threadAt (nth ws2 49).die (0#9) false) (fun (th : Thread) => (th.msg).head?.any (fun (hd : QEntry) => decide ((th.msg.tail = []) ∧ (fld hd.word 58 6 = 61) ∧ (th.readsIn < hd.mark)))))) = true) ∧
    (withVal (mkWord 61 9596550372130816#58) (fun (W : BitVec 64) => withVal (wordEntry (nth ws2 50).die (0#9) false 61 9596550372130816#58) (fun (e : QEntry) => withVal (threadAt (nth ws2 50).die (0#9) false) (fun (th : Thread) => decide ((th.itin = none) ∧ ((th.msg).head?.any (fun (hd : QEntry) => decide ((fld hd.word 58 6 = 61) ∧ (hd.mark ≤ th.readsIn) ∧ (unsentBefore (getCore (modThread (nth ws2 50).die (0#9) false fun (th_1 : Thread) => { run := th_1.run, pc := th_1.pc, regs := th_1.regs, preds := th_1.preds, loops := th_1.loops, wait := th_1.wait, feed := th_1.feed, edge := th_1.edge, vec := th_1.vec, port := th_1.port, ldg := th_1.ldg, msg := th.msg.tail, owed := th_1.owed, answers := th_1.answers, streamPtr := th_1.streamPtr, armed := th_1.armed, tallyEvent := th_1.tallyEvent, armSeq := th_1.armSeq, armName := th_1.armName, vstat := th_1.vstat, vecWork := th_1.vecWork, ldgWork := th_1.ldgWork, unacked := th_1.unacked, stampsHeld := th_1.stampsHeld, readsOut := th_1.readsOut, readsIn := th_1.readsIn, seqNo := th_1.seqNo, exitCode := th_1.exitCode, tokens := th_1.tokens, tokensAt := th_1.tokensAt, itin := th_1.itin, dbgHalted := th_1.dbgHalted, dbgStep := th_1.dbgStep : Thread }) 0#9) false hd.seq = false))) = true))))) = true) := by
  decide +kernel


end Wd2

namespace Wd3

def G (l : List (Nat × Waybill)) : Core → Core := fun x => { x with waybills := l, rings := [(0, ringOf 0 0 0 3 0), (1, ringOf 1 1 8 3 0), (2, ringOf 1 3 16 7 0)] }
def R (th : Thread) : Thread := { th with regs := [(32, 0x100), (33, 0x140)] }
def ww : List (List (Nat × Nat)) := [[(50,2),(44,32)], [(50,0)], [(50,1)], [(50,1),(47,0)], [(50,2),(47,0)], [(50,0),(49,1)]]
def wbs : List (List (Nat × Waybill)) := [
  [(0, wb (wbx 0 0 0x900000) 1)], [(0, wb (wbx 1 0 0x900000 1) 1)], [(0, wb (wbx 0 1 0x10001000002) 1)], [(0, wb (wbx 0 2 0x1000) 1)], [(0, wb (wbx 2 3 0) 1)],
  [(0, wb (wbx 0 0 0x900000) 3), (1, wb (wbx 0 0 0x910000) 1)], [(0, wb (wbx 0 0 0x900000) 4), (1, wb (wbx 0 0 0x910000) 1)], [(0, wb (wbx 0 0 0x900000) 5)]]
def dl : Die := withItins [itin0] (ledDie dm)
def e1_states : List State := wbs.flatMap (fun ws => ww.flatMap (fun l => [0x10,0x11,0x12,0x13].map (fun op => stD dl op l R (G ws)))) ++
    [withCore (runCore (fun th => { th with wait := .wbwait 0 false }) (G [(0, wb (wbx 0 0 0x900000) 4)]))]
def ws0 : List State := e1_states

theorem test_witness_WaybillWords :
    ((headFull (getRing (getCore (nth ws0 0).die 0#9) 0) = false)) ∧
    (withVal (mkWord 16 2814749767106560#58) (fun (W : BitVec 64) => withVal (wordEntry (nth ws0 0).die (0#9) false 16 2814749767106560#58) (fun (e : QEntry) => withVal (asTaken (nth ws0 0).die (0#9) false QueueId.port id 16 2814749767106560#58) (fun (d : Die) => withVal (fld W 50 3) (fun (n : ℕ) => withVal ((opnd e (fld W 44 6)).toNat) (fun (o : ℕ) => decide ((issuesNow (nth ws0 0).die (0#9) false QueueId.port 16 2814749767106560#58 = true) ∧ (inThreadSet (getCore d 0#9) false n = true) ∧ (operandFault o 64 = none) ∧ (wbBusy (getWb (getCore d 0#9) n) = false))))))) = true) ∧
    (withVal (mkWord 18 2814749767106560#58) (fun (W : BitVec 64) => withVal (getCore (nth ws0 2).die 0#9) (fun (x : Core) => withVal (fld W 50 3) (fun (n : ℕ) => decide ((ready (nth ws0 2).die (0#9) false 18 2814749767106560#58 = true) ∧ (inThreadSet x false n = true))))) = true) ∧
    (withVal (mkWord 17 0#58) (fun (W : BitVec 64) => withVal (asTaken (nth ws0 5).die (0#9) false QueueId.port id 17 0#58) (fun (d : Die) => withVal (getCore d 0#9) (fun (x : Core) => withVal (fld W 50 3) (fun (n : ℕ) => withVal (getWb x n) (fun (b : Waybill) => decide ((issuesNow (nth ws0 5).die (0#9) false QueueId.port 17 0#58 = true) ∧ (inThreadSet x false n = true) ∧ (wbSt b = 1) ∧ (wbCaravan b = false) ∧ (wbNext b = false) ∧ (ringFed x (wbRing b) n = false) ∧ (startReject x false n true = none))))))) = true) ∧
    (withVal (mkWord 19 0#58) (fun (W : BitVec 64) => withVal (asTaken (nth ws0 7).die (0#9) false QueueId.port id 19 0#58) (fun (d : Die) => withVal (getCore d 0#9) (fun (x : Core) => withVal (fld W 50 3) (fun (n : ℕ) => withVal (fld W 47 3) (fun (p : ℕ) => decide ((issuesNow (nth ws0 7).die (0#9) false QueueId.port 19 0#58 = true) ∧ (inThreadSet x false n = true) ∧ (inThreadSet x false p = true) ∧ (wbSt (getWb x n) = 1) ∧ (wbCaravan (getWb x n) = true → wbNext (getWb x n) = true) ∧ (1 ≤ wbSt (getWb x p)) ∧ (wbSt (getWb x p) ≤ 4) ∧ (wbRing (getWb x p) = wbRing (getWb x n)))))))) = true) ∧
    (((threadAt (nth ws0 192).die (0#9) false).wait = Wait.wbwait (0#3) false) ∧ (wbLevelMet (getCore (nth ws0 192).die 0#9) (0#3).toNat false = true)) := by
  decide +kernel


end Wd3

namespace Wf1

def lr (wb : BitVec 3) (r : Option (BitVec 8 × BitVec 1024)) : LineReq := ⟨wb, 0, 0, false, 0x900000, 5, 64, 0x80, 3, 0, r⟩
def lw (l : List Byte) : LineWrite := ⟨1, 0, false, 0x900000, 7, l, 4, 0, some 0⟩
def rg := [(0, ringOf 0 0 0 3 0), (1, ringOf 1 1 8 3 0), (2, ringOf 1 3 16 7 0)]
def C (f : Core → Core) : State := withCore (runCore id (fun x => f { x with rings := rg })) dm
def info (b : BufInfo) (r : Ring) : Ring := putInfo r 0 b
def e1_states : List State := [
    C (fun x => { x with waybills := [(0, wb (wbx 0 0 0x900000) 4), (1, wb (wbx 0 0 0x910000) 2 0)] }),
    C (fun x => { x with waybills := [(0, wb (wbx 0 0 0x900000) 3 0 (.package 0x900000))] }),
    C (fun x => { x with waybills := [(0, wb (wbx 0 2 0x100) 3 0 (.die 0x100))] }),
    C (fun x => { x with waybills := [(0, wb (wbx 0 0 0x900000) 3 0 (.package 0x900000))], lines := [lr 0 (some (0, 0x123456789ABCDEF0)), lr 1 none, lr 0 (some (0, 99))] }),
    C (fun x => { x with rings := [(0, info ⟨2048, true, true, 0, 40, 0, false, 8, 2048, 0⟩ (ringOf 0 0 0 3 1)), (1, info ⟨2048, true, true, 0, 40, 0, false, 8, 2048, 0⟩ (ringOf 1 1 0 3 3))] }),
    C (fun x => { x with rings := [(0, info ⟨2048, true, true, 0, 40, 0, false, 8, 2048, 0⟩ (ringOf 0 0 0 3 3)), (1, info ⟨2048, true, true, 0, 40, 0, false, 8, 2048, 0⟩ (ringOf 2 0 0 3 3))], members := [{ mem0 with kind := .relay, ring := 1, down := none }] }),
    C (fun x => { x with waybills := [(1, wb (wbx 1 0 0x900000 1) 3 0 (.package 0x900000))], writes := [lw [1,2,3], { lw [9] with addr := 0x900080 }] }),
    C (fun x => { x with waybills := [(0, wb (wbx 0 0 0x900000) 3 0 (.package 0x900000))], lines := List.replicate 512 (lr 0 none) }),
    C (fun x => { x with waybills := [(0, wb (wbx 0 0 0x900000) 3 0 (.package 0x900000)), (2, let w := wb (wbx 0 0 0x900000) 4 0 (.package 0x900000); { w with doneTiles := BitVec.ofNat 24 (wbTiles w - 1) })], rings := [(0, info ⟨2048, true, true, 0, 40, 0, false, 2, 2048, 0⟩ (ringOf 1 0 0 3 1))] }),
    C (fun x => { x with members := [{ mem0 with up := some (2, 1, 0), joined := false, blocking := 100 }] }),
    withCore (runCore (fun th => { th with wait := .waitev true 1 }) (fun x => { x with rings := rg, members := [{ mem0 with kind := .relay, up := some (0, 1, 0), down := none }] })) dm,
    C (fun x => { x with members := [{ mem0 with joined := false, blocking := 100 }] }),
    C (fun x => { x with members := [{ mem0 with kind := .relay }], fault := 0x8000000000000000 }),
    C (fun x => { x with members := [{ mem0 with kind := .relay, down := none }] }),
    C (fun x => { x with members := [{ mem0 with kind := .chain, incoming := [1], blocking := 7 }] })]
def ws0 : List State := e1_states

theorem test_witness_InboundTilesTurnRings_InboundTiles :
    (withVal (getCore (nth ws0 0).die 0#9) (fun (x : Core) => withVal (getWb x (1#3).toNat) (fun (b : Waybill) => withVal (getRing x (wbRing b)) (fun (r : Machine.Ring) => decide ((wbSt b = 2) ∧ (wbSt (getWb x b.pair.toNat) = 4 ∨ wbSt (getWb x b.pair.toNat) = 5) ∧ (wbKind b = 0) ∧ (caravanOn x (wbRing b) = none) ∧ (startReject x b.thread (1#3).toNat true = none) ∧ (headFull r = false))))) = true) ∧
    (withVal (getCore (nth ws0 1).die 0#9) (fun (x : Core) => withVal (getWb x (0#3).toNat) (fun (b : Waybill) => withVal (getRing x (wbRing b)) (fun (r : Machine.Ring) => withVal (match b.origin with | Origin.die a => a / sliceSize == (0#9).toNat && decide (a < 2147483648) | x => false) (fun (own : Bool) => withVal (tileRuns b b.issued) (fun (runs : List (ℤ × ℕ × ℕ)) => decide ((wbSt b = 3) ∧ (wbOut b = false) ∧ (b.origin ≠ Origin.none) ∧ (b.origin ≠ Origin.own) ∧ (b.issued < wbTiles b) ∧ (bufState r r.tail.toNat = 0) ∧ (caravanOn x (wbRing b) = none) ∧ (List.filterMap (runFault b) runs = []) ∧ (own = false) ∧ (x.lines.length < 512))))))) = true) ∧
    (withVal (getCore (nth ws0 2).die 0#9) (fun (x : Core) => withVal (getWb x (0#3).toNat) (fun (b : Waybill) => withVal (getRing x (wbRing b)) (fun (r : Machine.Ring) => withVal (match b.origin with | Origin.die a => a / sliceSize == (0#9).toNat && decide (a < 2147483648) | x => false) (fun (own : Bool) => withVal (tileRuns b b.issued) (fun (runs : List (ℤ × ℕ × ℕ)) => decide ((wbSt b = 3) ∧ (wbOut b = false) ∧ (b.origin ≠ Origin.none) ∧ (b.origin ≠ Origin.own) ∧ (b.issued < wbTiles b) ∧ (bufState r r.tail.toNat = 0) ∧ (caravanOn x (wbRing b) = none) ∧ (List.filterMap (runFault b) runs = []) ∧ (own = true) ∧ (List.filterMap (fun (run : ℤ × ℕ × ℕ) => ueIn (nth ws0 2).die (0#9) ((↑(wbBase b) + run.1).toNat % sliceSize) run.2.1) runs = []))))))) = true) ∧
    (withVal (getCore (nth ws0 3).die 0#9) (fun (x : Core) => withVal (getWb x (0#3).toNat) (fun (b : Waybill) => decide ((wbSt b = 3 ∨ wbSt b = 4) ∧ (caravanOn x (wbRing b) = none) ∧ (x.queued = []) ∧ ((x.lines[0]?).any (fun (l : LineReq) => decide ((l.wb = 0#3) ∧ (l.onDie = false) ∧ ((l.rsp).any (fun (pr : BitVec 8 × BitVec 1024) => decide ((pr.1 = 0))) = true))) = true)))) = true) ∧
    (withVal (getCore (nth ws0 7).die 0#9) (fun (x : Core) => withVal (getWb x (0#3).toNat) (fun (b : Waybill) => withVal (getRing x (wbRing b)) (fun (r : Machine.Ring) => withVal (match b.origin with | Origin.die a => a / sliceSize == (0#9).toNat && decide (a < 2147483648) | x => false) (fun (own : Bool) => withVal (tileRuns b b.issued) (fun (runs : List (ℤ × ℕ × ℕ)) => decide ((wbSt b = 3) ∧ (wbOut b = false) ∧ (b.origin ≠ Origin.none) ∧ (b.origin ≠ Origin.own) ∧ (b.issued < wbTiles b) ∧ (bufState r r.tail.toNat = 0) ∧ (caravanOn x (wbRing b) = none) ∧ (List.filterMap (runFault b) runs = []) ∧ (own = false) ∧ (512 ≤ x.lines.length))))))) = true) := by
  decide +kernel

def ws1 : List State := e1_states

theorem test_witness_InboundTilesTurnRings_RingBuffersTurn :
    (withVal (getCore (nth ws1 4).die 0#9) (fun (x : Core) => withVal (getRing x (0#3).toNat) (fun (r : Machine.Ring) => decide ((outWaybill x (0#3).toNat = none) ∧ (caravanOn x (0#3).toNat = none) ∧ ((oldestWhole r).any (fun (b : ℕ) => decide ((8 ≤ (getInfo r b).wb))) = true)))) = true) ∧
    (withVal (getCore (nth ws1 4).die 0#9) (fun (x : Core) => withVal (getRing x (1#3).toNat) (fun (r : Machine.Ring) => decide ((ringCons r ≠ 3) ∧ ((oldest r 3).any (fun (b : ℕ) => decide ((mustForward x r (1#3).toNat b = false))) = true)))) = true) ∧
    (withVal (getCore (nth ws1 6).die 0#9) (fun (x : Core) => decide ((x.wqueued = []) ∧ ((x.writes[0]?).any (fun (l : LineWrite) => decide ((((List.take 0 x.writes).any fun (y : LineWrite) => y.addr == l.addr && y.onDie == l.onDie) = false) ∧ (l.onDie = false) ∧ (l.rsp = some 0) ∧ (l.addr < 824633720832) ∧ (wbStamp (getWb x l.wb.toNat) = false))) = true))) = true) ∧
    (withVal (getCore (nth ws1 8).die 0#9) (fun (x : Core) => withVal (getRing x (0#3).toNat) (fun (r : Machine.Ring) => decide ((outWaybill x (0#3).toNat = none) ∧ (caravanOn x (0#3).toNat = none) ∧ ((oldestWhole r).any (fun (b : ℕ) => withVal (getWb x (getInfo r b).wb) (fun (w : Waybill) => decide (((getInfo r b).wb < 8) ∧ (wbSt w = 3 ∨ wbSt w = 4) ∧ (wbStamp w = false)))) = true)))) = true) := by
  decide +kernel

def ws2 : List State := e1_states

theorem test_witness_InboundTilesTurnRings_StallsFault :
    (withVal (getCore (nth ws2 9).die 0#9) (fun (x : Core) => (List.find? (fun (m : Member) => m.kind == LinkKind.caravan && m.ring == 0#3 && m.up.isSome) x.members).any (fun (m : Member) => decide ((withholds x m = true) ∧ (wanted (nth ws2 9).die m true = true)))) = true) ∧
    (withVal (getCore (nth ws2 10).die 0#9) (fun (x : Core) => (List.find? (fun (m : Member) => m.kind == LinkKind.relay && m.ring == 0#3 && (m.up.isSome || m.down.isSome)) x.members).any (fun (m : Member) => decide ((waitsOnLink x m = true)))) = true) ∧
    (withVal (getCore (nth ws2 14).die 0#9) (fun (x : Core) => (List.find? (fun (m : Member) => m.kind == LinkKind.chain && m.id == 5#12 && m.up.isSome) x.members).any (fun (m : Member) => decide ((m.incoming ≠ [])))) = true) := by
  decide +kernel


end Wf1

namespace Wf2

def rg := [(0, ringOf 0 0 0 3 0), (1, ringOf 1 1 8 3 0), (2, ringOf 2 0 16 7 0), (3, ringOf 1 2 16 7 0)]
def ww : List (List (Nat × Nat)) := [[(50,0),(36,5)],[(33,2),(36,5)]]
def S (op : Nat) (l : List (Nat × Nat)) (f : Core → Core) : State := wordState op (bitsOf l) (fun th => { th with itin := some 1 }) (fun x => f { x with rings := rg }) dm
def C (f : Core → Core) : State := withCore (runCore id (fun x => f { x with rings := rg })) dm
def car : BitVec 512 := wbx 0 0 0x900000 0 [(59,1)]
def rel (ring : BitVec 3) (up down : Option (BitVec 2 × BitVec 9 × BitVec 3)) (joined := false) : Member := { mem0 with kind := .relay, ring := ring, up := up, down := down, stage := 2, joined := joined }
def e1_states : List State := ww.flatMap (fun l => [
    S 0x14 l (fun x => { x with waybills := [(0, wb car 1)], members := [{ mem0 with joined := false }] }),
    S 0x14 l (fun x => { x with waybills := [(0, wb car 1)], members := [{ mem0 with joined := false, up := none }] }),
    S 0x15 l (fun x => { x with members := [rel 0 none none, rel 2 (some (0,1,3)) none, rel 3 none (some (0,2,2))] })]) ++
   [C (fun x => { x with members := [rel 3 none (some (0,2,2)) true], rings := rg }),
    C (fun x => { x with members := [{ mem0 with shape := some (200, 6) }] }),
    C (fun x => { x with members := [{ mem0 with shape := some (200, 6) }], rings := [(0, putInfo (ringOf 0 0 0 3 0x40) 3 ⟨128, false, true, 1, 0, 0, false, 0, 200, 6⟩)] }),
    C (fun x => { x with members := [rel 2 (some (0,1,3)) none true] }),
    C (fun x => { x with members := [{ mem0 with kind := .chain, incoming := [1] }] })]
def ws0 : List State := e1_states

theorem test_witness_LinksAndFlits_LinksGrantCredits :
    (withVal (mkWord 20 343597383680#58) (fun (W : BitVec 64) => withVal (asTaken (nth ws0 0).die (0#9) false QueueId.port id 20 343597383680#58) (fun (d : Die) => withVal (getCore d 0#9) (fun (x : Core) => withVal (fld W 50 3) (fun (n : ℕ) => withVal (getWb x n) (fun (b : Waybill) => decide ((issuesNow (nth ws0 0).die (0#9) false QueueId.port 20 343597383680#58 = true) ∧ (inThreadSet x false n = true) ∧ (wbSt b = 1) ∧ (wbNext b = false) ∧ (ringFed x (wbRing b) n = false) ∧ (wbCaravan b = true) ∧ (ringIdle d (0#9) (wbRing b) = true) ∧ ((List.find? (fun (m : Member) => m.kind == LinkKind.caravan && m.id.toNat == fld W 36 12 && some m.itin == (getThread x false).itin) x.members).any (fun (m : Member) => decide ((wbRing b = m.ring.toNat) ∧ (startReject x false n (m.pos == 0) = none) ∧ (m.pos ≠ 0) ∧ (m.joined = false))) = true))))))) = true) ∧
    (withVal (getCore (nth ws0 2).die 0#9) (fun (x : Core) => decide (((getRing x (3#3).toNat).credits.toNat < 4) ∧ ((List.find? (fun (m : Member) => m.kind == LinkKind.relay && m.id == 5#12 && m.down.isSome && (LinkKind.relay == LinkKind.chain || m.ring == 3#3)) x.members).any (fun (m : Member) => true) = true))) = true) ∧
    (withVal (mkWord 21 360777252864#58) (fun (W : BitVec 64) => withVal (asTaken (nth ws0 5).die (0#9) false QueueId.port id 21 360777252864#58) (fun (d : Die) => withVal (getCore d 0#9) (fun (x : Core) => decide ((issuesNow (nth ws0 5).die (0#9) false QueueId.port 21 360777252864#58 = true) ∧ ((x.members.any fun (m : Member) => m.kind == LinkKind.relay && m.id.toNat == fld W 36 12 && some m.itin == (getThread x false).itin && m.up.isNone && m.down.isNone && m.stage.toNat == fld W 33 3) = true))))) = true) := by
  decide +kernel

def ws1 : List State := e1_states

theorem test_witness_LinksAndFlits_FlitsArrive :
    (withVal (getCore (nth ws1 8).die 0#9) (fun (x : Core) => (List.find? (fun (m : Member) => m.kind == LinkKind.caravan && m.ring == 0#3 && m.up.isSome) x.members).any (fun (m : Member) => decide ((portCheck (nth ws1 8).die (0#9) m.party m.epoch = none) ∧ (m.joined = true) ∧ (m.shape = some (200, 6)) ∧ ((openBuffer (getRing x (0#3).toNat) { bytes := BufInfo.reset.bytes, whole := BufInfo.reset.whole, clean := true, tile := (0#24).toNat, due := BufInfo.reset.due, src := BufInfo.reset.src, fwd := BufInfo.reset.fwd, wb := memberWb x (0#3).toNat, size := 200, total := 6 : BufInfo }).any (fun (pr : Machine.Ring × ℕ) => withVal (min 128 ((getInfo pr.1 3).size - (getInfo pr.1 3).bytes)) (fun (k : ℕ) => decide ((pr.2 = 3) ∧ ((6#24).toNat = (getInfo pr.1 3).total) ∧ (decide ((getInfo pr.1 3).bytes + k = (getInfo pr.1 3).size) = true)))) = true)))) = true) ∧
    (withVal (getCore (nth ws1 9).die 0#9) (fun (x : Core) => (List.find? (fun (m : Member) => m.kind == LinkKind.relay && m.ring == 2#3 && m.up.isSome) x.members).any (fun (m : Member) => decide ((portCheck (nth ws1 9).die (0#9) m.party m.epoch = none) ∧ (m.joined = true) ∧ (false = true → tileJudged (nth ws1 9).die m = true) ∧ ((openBuffer (getRing x (2#3).toNat) { bytes := BufInfo.reset.bytes, whole := BufInfo.reset.whole, clean := true, tile := m.tiles, due := BufInfo.reset.due, src := BufInfo.reset.src, fwd := BufInfo.reset.fwd, wb := BufInfo.reset.wb, size := BufInfo.reset.size, total := BufInfo.reset.total : BufInfo }).any (fun (pr : Machine.Ring × ℕ) => decide ((pr.2 = 0))) = true)))) = true) ∧
    (withVal (getCore (nth ws1 10).die 0#9) (fun (x : Core) => (List.find? (fun (m : Member) => m.kind == LinkKind.chain && m.id == 5#12 && m.up.isSome) x.members).any (fun (m : Member) => decide ((portCheck (nth ws1 10).die (0#9) m.party m.epoch = none) ∧ (m.joined = true) ∧ (m.pending = none)))) = true) := by
  decide +kernel


end Wf2

namespace Wg1

def rq (unit op idx val : Nat) (f := false) : TallyReq := ⟨BitVec.ofNat 2 unit, BitVec.ofNat 3 op, f, BitVec.ofNat 16 idx, BitVec.ofNat 32 val, 8, 0, false, 3, 1, 7, 2, 0⟩
def wt (idx tgt : Nat) (arm := false) : Waiter := ⟨0, BitVec.ofNat 16 idx, BitVec.ofNat 32 tgt, 8, 0, false, 3, 1, arm, 2, 0, false⟩
def T (f : TallySt → TallySt) (d : Die := upDie) : Die := { d with tally := f { d.tally with counts := [(5, 10), (9, 0xFFFFFFFF)], waiters := [wt 5 12, wt 5 11 true, wt 9 3, wt 6 1] } }
def e1_states : List State := [stateOf (T (fun y => { y with reqs := [rq 0 0 5 2, rq 0 1 5 100, rq 0 2 5 11, rq 0 3 9 0, rq 0 4 5 50, rq 0 2 5 10] })), stateOf { T id with ident := { upDie.ident with protoLevel := 1 } }]
def d1 : Die := T (fun y => { y with reqs := [rq 0 0 5 2, rq 0 1 5 100, rq 0 2 5 11, rq 0 3 9 0, rq 0 4 5 50, rq 0 2 5 10] })
def R (th : Thread) : Thread := { th with regs := [(1, 5), (2, 0x40005), (3, 9), (4, 4000)] }
def G (x : Core) : Core := { x with win0 := [(0, BitVec.ofNat 64 (2 ^ 63 + 0 * 2 ^ 32 + 100))], portParty := 3, portEpoch := 1 }
def tw : List (List (Nat × Nat)) := (List.range 5).flatMap (fun op => [[(51,op),(44,1),(37,1),(0,7),(50,1),(31,9)], [(51,op),(44,1),(38,3)], [(51,op),(44,2),(38,3)], [(51,op),(44,4),(38,3)]])
def e2_states : List State := tw.map (fun l => st 0x3C l R G)
def cr (f : Thread → Thread) (tags : List OpenTag := []) : Core := runCore f (fun x => { x with tags := tags, portParty := 3, portEpoch := 1 })
def S (f : TallySt → TallySt) (x : Core) : State := stateOf (setCore (T f) 1 x)
def e3_states : List State := [S (fun y => { y with reqs := [rq 0 0 5 2 true, rq 1 0 5 1, rq 0 5 5 0], waiters := [wt 5 11 true, wt 5 60] }) (cr id),
    S (fun y => { y with reqs := [{ rq 0 5 5 0 with endpoint := 8 }], waiters := [wt 5 11 true, wt 5 60] }) (cr id),
    S (fun y => { y with wakes := [wt 5 11, wt 6 11] }) (cr id),
    S (fun y => { y with flying := [wt 5 11, wt 6 11 true] }) (cr (fun th => { th with wait := .tally 5 11 })),
    S (fun y => { y with replies := [⟨8, 0, false, 3, 1, 7, 42, true, false, 0, 0⟩] }) (cr (fun th => { th with owed := [(4, .tally)] }) [⟨7, false, .tallyFetch 4 .tally, false, 0, 0, 0⟩]),
    S (fun y => { y with replies := [⟨8, 0, false, 3, 1, 7, 42, true, false, 0, 0⟩] }) (cr (fun th => { th with wait := .tally 5 11 }) [⟨7, false, .tallyWait false, false, 0, 11, 0⟩]),
    S (fun y => { y with replies := [⟨8, 0, false, 3, 1, 7, 4, false, false, 0, 0⟩] }) (cr (fun th => { th with wait := .tally 5 11 }) [⟨7, false, .tallyWait true, false, 0, 11, 0⟩])]
def ws0 : List State := e1_states
def hintAt0 (i : Nat) : Die := ([d1] : List Die).getD i Die.reset

theorem test_witness_TallyOperations_TallyUnitPerforms :
    (withVal (tallyCount (hintAt0 0) { unit := 0#2, op := 0#3, fetch := false, index := 5#16, value := 2#32, endpoint := 8#12, die := 0#2, thread := false, party := 3#12, epoch := 1#8, tag := 7#9, armSeq := 2#4, due := 0 : TallyReq }.index) (fun (old : BitVec 32) => decide ((0#16 ≠ { unit := 0#2, op := 0#3, fetch := false, index := 5#16, value := 2#32, endpoint := 8#12, die := 0#2, thread := false, party := 3#12, epoch := 1#8, tag := 7#9, armSeq := 2#4, due := 0 : TallyReq }.index))) = true) ∧
    (withVal (tallyCount (hintAt0 0) { unit := 0#2, op := 0#3, fetch := false, index := 5#16, value := 2#32, endpoint := 8#12, die := 0#2, thread := false, party := 3#12, epoch := 1#8, tag := 7#9, armSeq := 2#4, due := 0 : TallyReq }.index) (fun (old : BitVec 32) => decide (({ unit := 0#2, op := 0#3, fetch := false, index := 5#16, value := 2#32, endpoint := 8#12, die := 0#2, thread := false, party := 3#12, epoch := 1#8, tag := 7#9, armSeq := 2#4, due := 0 : TallyReq }.op = 0))) = true) ∧
    (((hintAt0 0).tally.waiters).any (fun (w : Waiter) => withVal (tallyCount (hintAt0 0) { unit := 0#2, op := 0#3, fetch := false, index := 5#16, value := 2#32, endpoint := 8#12, die := 0#2, thread := false, party := 3#12, epoch := 1#8, tag := 7#9, armSeq := 2#4, due := 0 : TallyReq }.index) (fun (old : BitVec 32) => decide ((w.index ≠ { unit := 0#2, op := 0#3, fetch := false, index := 5#16, value := 2#32, endpoint := 8#12, die := 0#2, thread := false, party := 3#12, epoch := 1#8, tag := 7#9, armSeq := 2#4, due := 0 : TallyReq }.index)))) = true) ∧
    (((hintAt0 0).tally.waiters).any (fun (w : Waiter) => withVal (tallyCount (hintAt0 0) { unit := 0#2, op := 0#3, fetch := false, index := 5#16, value := 2#32, endpoint := 8#12, die := 0#2, thread := false, party := 3#12, epoch := 1#8, tag := 7#9, armSeq := 2#4, due := 0 : TallyReq }.index) (fun (old : BitVec 32) => withVal (tallyNew { unit := 0#2, op := 0#3, fetch := false, index := 5#16, value := 2#32, endpoint := 8#12, die := 0#2, thread := false, party := 3#12, epoch := 1#8, tag := 7#9, armSeq := 2#4, due := 0 : TallyReq }.op.toNat old { unit := 0#2, op := 0#3, fetch := false, index := 5#16, value := 2#32, endpoint := 8#12, die := 0#2, thread := false, party := 3#12, epoch := 1#8, tag := 7#9, armSeq := 2#4, due := 0 : TallyReq }.value) (fun (new : BitVec 32) => decide ((w.index = { unit := 0#2, op := 0#3, fetch := false, index := 5#16, value := 2#32, endpoint := 8#12, die := 0#2, thread := false, party := 3#12, epoch := 1#8, tag := 7#9, armSeq := 2#4, due := 0 : TallyReq }.index) ∧ (w.target.toNat ≤ new.toNat))))) = true) ∧
    (withVal (tallyCount (hintAt0 0) { unit := 0#2, op := 1#3, fetch := false, index := 5#16, value := 100#32, endpoint := 8#12, die := 0#2, thread := false, party := 3#12, epoch := 1#8, tag := 7#9, armSeq := 2#4, due := 0 : TallyReq }.index) (fun (old : BitVec 32) => decide (({ unit := 0#2, op := 1#3, fetch := false, index := 5#16, value := 100#32, endpoint := 8#12, die := 0#2, thread := false, party := 3#12, epoch := 1#8, tag := 7#9, armSeq := 2#4, due := 0 : TallyReq }.op = 1))) = true) ∧
    (withVal (tallyCount (hintAt0 0) { unit := 0#2, op := 2#3, fetch := false, index := 5#16, value := 11#32, endpoint := 8#12, die := 0#2, thread := false, party := 3#12, epoch := 1#8, tag := 7#9, armSeq := 2#4, due := 0 : TallyReq }.index) (fun (old : BitVec 32) => decide (({ unit := 0#2, op := 2#3, fetch := false, index := 5#16, value := 11#32, endpoint := 8#12, die := 0#2, thread := false, party := 3#12, epoch := 1#8, tag := 7#9, armSeq := 2#4, due := 0 : TallyReq }.op = 2 ∨ { unit := 0#2, op := 2#3, fetch := false, index := 5#16, value := 11#32, endpoint := 8#12, die := 0#2, thread := false, party := 3#12, epoch := 1#8, tag := 7#9, armSeq := 2#4, due := 0 : TallyReq }.op = 4))) = true) ∧
    (withVal (tallyCount (hintAt0 0) { unit := 0#2, op := 2#3, fetch := false, index := 5#16, value := 11#32, endpoint := 8#12, die := 0#2, thread := false, party := 3#12, epoch := 1#8, tag := 7#9, armSeq := 2#4, due := 0 : TallyReq }.index) (fun (old : BitVec 32) => withVal ((tallyPerform (hintAt0 0) { unit := 0#2, op := 2#3, fetch := false, index := 5#16, value := 11#32, endpoint := 8#12, die := 0#2, thread := false, party := 3#12, epoch := 1#8, tag := 7#9, armSeq := 2#4, due := 0 : TallyReq }).1) (fun (u : Die) => (u.tally.waiters).any (fun (w : Waiter) => decide ((w.index = { unit := 0#2, op := 2#3, fetch := false, index := 5#16, value := 11#32, endpoint := 8#12, die := 0#2, thread := false, party := 3#12, epoch := 1#8, tag := 7#9, armSeq := 2#4, due := 0 : TallyReq }.index))))) = true) ∧
    (withVal (tallyCount (hintAt0 0) { unit := 0#2, op := 2#3, fetch := false, index := 5#16, value := 11#32, endpoint := 8#12, die := 0#2, thread := false, party := 3#12, epoch := 1#8, tag := 7#9, armSeq := 2#4, due := 0 : TallyReq }.index) (fun (old : BitVec 32) => withVal (tallyNew { unit := 0#2, op := 2#3, fetch := false, index := 5#16, value := 11#32, endpoint := 8#12, die := 0#2, thread := false, party := 3#12, epoch := 1#8, tag := 7#9, armSeq := 2#4, due := 0 : TallyReq }.op.toNat old { unit := 0#2, op := 2#3, fetch := false, index := 5#16, value := 11#32, endpoint := 8#12, die := 0#2, thread := false, party := 3#12, epoch := 1#8, tag := 7#9, armSeq := 2#4, due := 0 : TallyReq }.value) (fun (new : BitVec 32) => decide ((2 ≤ { unit := 0#2, op := 2#3, fetch := false, index := 5#16, value := 11#32, endpoint := 8#12, die := 0#2, thread := false, party := 3#12, epoch := 1#8, tag := 7#9, armSeq := 2#4, due := 0 : TallyReq }.op.toNat) ∧ (new.toNat < { unit := 0#2, op := 2#3, fetch := false, index := 5#16, value := 11#32, endpoint := 8#12, die := 0#2, thread := false, party := 3#12, epoch := 1#8, tag := 7#9, armSeq := 2#4, due := 0 : TallyReq }.value.toNat)))) = true) := by
  decide +kernel

theorem test_witness_TallyOperations_TallyUnitPerforms_b :
    (withVal (tallyCount (hintAt0 0) { unit := 0#2, op := 3#3, fetch := false, index := 9#16, value := 0#32, endpoint := 8#12, die := 0#2, thread := false, party := 3#12, epoch := 1#8, tag := 7#9, armSeq := 2#4, due := 0 : TallyReq }.index) (fun (old : BitVec 32) => decide (({ unit := 0#2, op := 3#3, fetch := false, index := 9#16, value := 0#32, endpoint := 8#12, die := 0#2, thread := false, party := 3#12, epoch := 1#8, tag := 7#9, armSeq := 2#4, due := 0 : TallyReq }.op = 3))) = true) := by
  decide +kernel

def ws1 : List State := e1_states

theorem test_witness_TallyOperations_RemoteTallies :
    (withVal ((nth ws1 0).die) (fun (d : Die) => withVal (entryReq { kind := 0#2, srcDie := 2#2, dstDie := 0#2, endpoint := 16#12, party := 5#12, epoch := 1#8, arg := 21474836482#64 : TallyEntry }) (fun (r : TallyReq) => decide ((d.ident.protoLevel ≠ 1) ∧ ({ kind := 0#2, srcDie := 2#2, dstDie := 0#2, endpoint := 16#12, party := 5#12, epoch := 1#8, arg := 21474836482#64 : TallyEntry }.kind = 0) ∧ (r.op.toNat ≤ 4)))) = true) ∧
    (withVal ((nth ws1 0).die) (fun (d : Die) => decide ((d.ident.protoLevel ≠ 1))) = true) ∧
    (withVal ((nth ws1 1).die) (fun (d : Die) => withVal (entryReq { kind := 0#2, srcDie := 2#2, dstDie := 0#2, endpoint := 16#12, party := 5#12, epoch := 1#8, arg := 21474836482#64 : TallyEntry }) (fun (r : TallyReq) => decide ((d.ident.protoLevel = 1) ∧ ({ kind := 0#2, srcDie := 2#2, dstDie := 0#2, endpoint := 16#12, party := 5#12, epoch := 1#8, arg := 21474836482#64 : TallyEntry }.kind = 0) ∧ (r.op.toNat ≤ 4)))) = true) ∧
    (withVal ((nth ws1 1).die) (fun (d : Die) => decide ((d.ident.protoLevel = 1))) = true) := by
  decide +kernel

def ws2 : List State := e2_states

theorem test_witness_TallyWordsSendRequests :
    (withVal (mkWord 60 1143648859193351#58) (fun (W : BitVec 64) => withVal (wordEntry (nth ws2 0).die (0#9) false 60 1143648859193351#58) (fun (e : QEntry) => withVal (asTaken (nth ws2 0).die (0#9) false QueueId.msg (tallyPrep (1143648859193351#58) e.regs) 60 1143648859193351#58) (fun (d : Die) => withVal (getCore d 0#9) (fun (x : Core) => withVal (BitVec.setWidth 19 (opnd e (fld W 44 6))) (fun (name : BitVec 19) => withVal (BitVec.extractLsb' 0 16 name) (fun (index : BitVec 16) => decide ((tallyForm 0 1143648859193351#58 = true) ∧ (issuesNow (nth ws2 0).die (0#9) false QueueId.msg 60 1143648859193351#58 = true) ∧ (inWindow x false (nameDie d name) index = true) ∧ (nameDie d name = d.ident.dieNum) ∧ (0 = 4 → (threadAt (nth ws2 0).die (0#9) false).armed = false)))))))) = true) ∧
    (withVal (mkWord 60 71193377898496#58) (fun (W : BitVec 64) => withVal (wordEntry (nth ws2 3).die (0#9) false 60 71193377898496#58) (fun (e : QEntry) => withVal (asTaken (nth ws2 3).die (0#9) false QueueId.msg (tallyPrep (71193377898496#58) e.regs) 60 71193377898496#58) (fun (d : Die) => withVal (getCore d 0#9) (fun (x : Core) => withVal (BitVec.setWidth 19 (opnd e (fld W 44 6))) (fun (name : BitVec 19) => withVal (BitVec.extractLsb' 0 16 name) (fun (index : BitVec 16) => decide ((tallyForm 0 71193377898496#58 = true) ∧ (issuesNow (nth ws2 3).die (0#9) false QueueId.msg 60 71193377898496#58 = true) ∧ (inWindow x false (nameDie d name) index = false)))))))) = true) ∧
    (withVal (mkWord 60 3395448672878599#58) (fun (W : BitVec 64) => withVal (wordEntry (nth ws2 4).die (0#9) false 60 3395448672878599#58) (fun (e : QEntry) => withVal (asTaken (nth ws2 4).die (0#9) false QueueId.msg (tallyPrep (3395448672878599#58) e.regs) 60 3395448672878599#58) (fun (d : Die) => withVal (getCore d 0#9) (fun (x : Core) => withVal (BitVec.setWidth 19 (opnd e (fld W 44 6))) (fun (name : BitVec 19) => withVal (BitVec.extractLsb' 0 16 name) (fun (index : BitVec 16) => decide ((tallyForm 1 3395448672878599#58 = true) ∧ (issuesNow (nth ws2 4).die (0#9) false QueueId.msg 60 3395448672878599#58 = true) ∧ (inWindow x false (nameDie d name) index = true) ∧ (nameDie d name = d.ident.dieNum) ∧ (1 = 4 → (threadAt (nth ws2 4).die (0#9) false).armed = false)))))))) = true) ∧
    (withVal (mkWord 60 5647248486563847#58) (fun (W : BitVec 64) => withVal (wordEntry (nth ws2 8).die (0#9) false 60 5647248486563847#58) (fun (e : QEntry) => withVal (asTaken (nth ws2 8).die (0#9) false QueueId.msg (tallyPrep (5647248486563847#58) e.regs) 60 5647248486563847#58) (fun (d : Die) => withVal (getCore d 0#9) (fun (x : Core) => withVal (BitVec.setWidth 19 (opnd e (fld W 44 6))) (fun (name : BitVec 19) => withVal (BitVec.extractLsb' 0 16 name) (fun (index : BitVec 16) => decide ((tallyForm 2 5647248486563847#58 = true) ∧ (issuesNow (nth ws2 8).die (0#9) false QueueId.msg 60 5647248486563847#58 = true) ∧ (inWindow x false (nameDie d name) index = true) ∧ (nameDie d name = d.ident.dieNum) ∧ (2 = 4 → (threadAt (nth ws2 8).die (0#9) false).armed = false)))))))) = true) ∧
    (withVal (mkWord 60 7899048300249095#58) (fun (W : BitVec 64) => withVal (wordEntry (nth ws2 12).die (0#9) false 60 7899048300249095#58) (fun (e : QEntry) => withVal (asTaken (nth ws2 12).die (0#9) false QueueId.msg (tallyPrep (7899048300249095#58) e.regs) 60 7899048300249095#58) (fun (d : Die) => withVal (getCore d 0#9) (fun (x : Core) => withVal (BitVec.setWidth 19 (opnd e (fld W 44 6))) (fun (name : BitVec 19) => withVal (BitVec.extractLsb' 0 16 name) (fun (index : BitVec 16) => decide ((tallyForm 3 7899048300249095#58 = true) ∧ (issuesNow (nth ws2 12).die (0#9) false QueueId.msg 60 7899048300249095#58 = true) ∧ (inWindow x false (nameDie d name) index = true) ∧ (nameDie d name = d.ident.dieNum) ∧ (3 = 4 → (threadAt (nth ws2 12).die (0#9) false).armed = false)))))))) = true) ∧
    (withVal (mkWord 60 10150848113934343#58) (fun (W : BitVec 64) => withVal (wordEntry (nth ws2 16).die (0#9) false 60 10150848113934343#58) (fun (e : QEntry) => withVal (asTaken (nth ws2 16).die (0#9) false QueueId.msg (tallyPrep (10150848113934343#58) e.regs) 60 10150848113934343#58) (fun (d : Die) => withVal (getCore d 0#9) (fun (x : Core) => withVal (BitVec.setWidth 19 (opnd e (fld W 44 6))) (fun (name : BitVec 19) => withVal (BitVec.extractLsb' 0 16 name) (fun (index : BitVec 16) => decide ((tallyForm 4 10150848113934343#58 = true) ∧ (issuesNow (nth ws2 16).die (0#9) false QueueId.msg 60 10150848113934343#58 = true) ∧ (inWindow x false (nameDie d name) index = true) ∧ (nameDie d name = d.ident.dieNum) ∧ (4 = 4 → (threadAt (nth ws2 16).die (0#9) false).armed = false)))))))) = true) := by
  decide +kernel

def ws3 : List State := e3_states

theorem test_witness_TallyEventsDeliver :
    (withVal ((nth ws3 0).die.tally) (fun (y : TallySt) => withVal ((nth ws3 0).die) (fun (d : Die) => (y.reqs[0]?).any (fun (r : TallyReq) => decide ((r.op ≠ 5) ∧ (reqFirst d 0 r = true))))) = true) ∧
    (withVal ((nth ws3 1).die.tally) (fun (y : TallySt) => withVal ((nth ws3 1).die) (fun (d : Die) => (y.reqs[0]?).any (fun (r : TallyReq) => decide ((r.op = 5) ∧ (reqFirst d 0 r = true))))) = true) ∧
    (withVal ((nth ws3 2).die.tally) (fun (y : TallySt) => withVal ((nth ws3 2).die) (fun (d : Die) => (List.find? (fun (w : Waiter) => w.unit == 0#2) y.wakes).any (fun (v : Waiter) => decide ((v.die = d.ident.dieNum))))) = true) ∧
    (withVal ((nth ws3 4).die.tally) (fun (y : TallySt) => withVal ((nth ws3 4).die) (fun (d : Die) => (y.replies[0]?).any (fun (p : TallyRep) => withVal (waitUntil d p.due) (fun (d0 : Die) => withVal (endpointCore p.endpoint) (fun (c : CoreId) => (List.find? (fun (o : OpenTag) => o.tag == p.tag && !o.remote) (getCore d0 c).tags).any (fun (o : OpenTag) => true)))))) = true) := by
  decide +kernel


end Wg1

namespace Wg2a

def L (f : LodgeSt → LodgeSt) (d : Die := upDie) : State := stateOf { d with lodge := f d.lodge }
def D (f : LedgerSt → LedgerSt) (d : Die := ledDie) : State := stateOf { d with ledger := f d.ledger }
def q1 : LedgerOp := ⟨0, 1, 7, 0x10001000009, false, 0, 0⟩
def xt : Core := runCore (fun th => { th with itin := some 1, owed := [(4, .berth)] }) (fun x => { x with tags := [⟨7, false, .lookup 4, false, 0, 0, 0⟩] })
def e1_states : List State := [L (fun l => { l with refreshing := false }), stateOf (putPkg128 ledDie 0x300010 (ent 1 2 0x800000 false 1 0x900000)), D (fun l => { l with epoch := 0x5000 }) (putPkg128 (putPkg128 ledDie 0x100010 (dirWord 1 1 0x300000)) 0x300000 (ent 0 1 0x10000 false 0 0 3 1)), L id, L (fun l => { l with refreshRow := [(0, 527)], scrubRow := [(0, 1055)] }), L (fun l => { l with slotIdx := [(0, 4)], scrubRow := [(0, 1055)] }), L (fun l => { l with slotIdx := [(0, 4)], scrubRow := [(0, 5)] , ceMark := [5] }),
    L (fun l => { l with slotIdx := [(0, 9)], scrubRow := [(0, 2)], ceMark := [2, 3] }), L (fun l => { l with retiring := [(5, true), (16384, false)], sparesUsed := [(0, 1)] }),
    D (fun l => { l with writes := [⟨0x300000, 5⟩, ⟨0x300010, 6⟩, ⟨0x300000, 7⟩] }),
    D (fun l => { l with waiting := [q1] }) (setCore (withItins [itin0] ledDie) 1 xt),
    D (fun l => { l with memState := 1, dirBase := 0 }), D (fun l => { l with memState := 2, dirBase := 0, used := [(0, 5)] }), D (fun l => { l with memState := 3 }),
    D (fun l => { l with epoch := 0x1000, dirBase := 0 }), D (fun l => { l with epoch := 0x1000, sweptEpoch := some 0x1000 })]
def ws0 : List State := e1_states

theorem test_witness_LodgeAndLedger_LodgeSlots :
    (withVal ((nth ws0 0).die) (fun (d : Die) => withVal (bankKey (0#9) (0#4).toNat) (fun (b : ℕ) => withVal (d.lodge) (fun (l : LodgeSt) => decide ((slotsRun d = false))))) = true) ∧
    (withVal ((nth ws0 1).die) (fun (d : Die) => withVal (bankKey (0#9) (0#4).toNat) (fun (b : ℕ) => withVal (d.lodge) (fun (l : LodgeSt) => decide ((slotsRun d = true) ∧ (slotIndex d b % 5 ≠ 4))))) = true) ∧
    (withVal ((nth ws0 5).die) (fun (d : Die) => withVal (bankKey (0#9) (0#4).toNat) (fun (b : ℕ) => withVal (d.lodge) (fun (l : LodgeSt) => withVal ((tabGet 0 l.scrubRow b).toNat) (fun (q : ℕ) => decide ((slotsRun d = true) ∧ (slotIndex d b % 5 = 4) ∧ (logicalRow l b q = none)))))) = true) ∧
    (withVal ((nth ws0 6).die) (fun (d : Die) => withVal (bankKey (0#9) (0#4).toNat) (fun (b : ℕ) => withVal (d.lodge) (fun (l : LodgeSt) => withVal ((tabGet 0 l.scrubRow b).toNat) (fun (q : ℕ) => decide ((slotsRun d = true) ∧ (slotIndex d b % 5 = 4) ∧ (logicalRow l b q = some 5) ∧ (rowInBank b 5 ∉ l.ueMark) ∧ (rowInBank b 5 ∈ l.ceMark)))))) = true) ∧
    (withVal ((nth ws0 8).die) (fun (d : Die) => withVal (bankKey (0#9) (0#4).toNat) (fun (b : ℕ) => withVal (d.lodge) (fun (l : LodgeSt) => decide ((slotsRun d = true) ∧ (List.find? (fun (r : ℕ × Bool) => r.1 / 1024 == b) l.retiring = some (5, true)) ∧ (b ∉ l.retiredPass) ∧ (freeSpare l b = some 1))))) = true) := by
  decide +kernel

def ws1 : List State := e1_states

theorem test_witness_LodgeAndLedger_LedgerCommitsEntries :
    (withVal ((nth ws1 9).die) (fun (d : Die) => (d.ledger.writes[0]?).any (fun (w : LedgerWrite) => decide ((((List.take 0 d.ledger.writes).any fun (y : LedgerWrite) => y.addr == w.addr) = false) ∧ ((d.ledger.moves.all fun (m : Move) => m.addr != w.addr) = true)))) = true) ∧
    (withVal ((nth ws1 10).die) (fun (d : Die) => (d.ledger.waiting[0]?).any (fun (q : LedgerOp) => decide ((q.touch = false) ∧ (portCheck d q.core q.party q.epoch = none) ∧ ((List.find? (fun (o : OpenTag) => o.tag == q.tag && !o.remote) (getCore d q.core).tags).any (fun (o : OpenTag) => decide ((o.kind = TagKind.lookup 4#6) ∧ (threadEntry d q.core o.thread q.handle = none))) = true)))) = true) := by
  decide +kernel

def ws2 : List State := e1_states

theorem test_witness_LodgeAndLedger_LedgerRecoversAndAges :
    (withVal ((nth ws2 0).die) (fun (d : Die) => withVal (d.ledger) (fun (l : LedgerSt) => decide ((d.boot.aon = true) ∧ (d.power.refLost = false) ∧ (l.touched = [])))) = true) ∧
    (withVal ((nth ws2 0).die) (fun (d : Die) => withVal (d.ledger) (fun (l : LedgerSt) => decide ((BitVec.extractLsb' 0 12 l.epoch = 0) ∧ (l.sweptEpoch ≠ some l.epoch)))) = true) ∧
    (withVal ((nth ws2 1).die) (fun (d : Die) => decide ((entLegal (pkg128 d 3145744) = true) ∧ (entTier (pkg128 d 3145744) ≠ tierLodge) ∧ (entState (pkg128 d 3145744) = stMoving))) = true) ∧
    (withVal ((nth ws2 11).die) (fun (d : Die) => withVal (d.ledger) (fun (l : LedgerSt) => decide ((l.memState = 1) ∧ (d.link.state = 7)))) = true) ∧
    (withVal ((nth ws2 12).die) (fun (d : Die) => withVal (d.ledger) (fun (l : LedgerSt) => decide ((l.memState = 2)))) = true) ∧
    (withVal ((nth ws2 13).die) (fun (d : Die) => withVal (d.ledger) (fun (l : LedgerSt) => decide ((l.memState = 3)))) = true) ∧
    (withVal ((nth ws2 15).die) (fun (d : Die) => withVal (d.ledger) (fun (l : LedgerSt) => decide ((l.sweptEpoch = some l.epoch)))) = true) := by
  decide +kernel


end Wg2a

namespace Wg2b

def D (f : LedgerSt → LedgerSt) (d : Die := ledDie) : State := stateOf { d with ledger := f d.ledger }
def mv : Move := { newMove 0x10001000001 0x300010 1 none false false with placed := true, dst := 0x900000, srcTier := 1, src := 0x800000 }
def dmm : Die := { ledDie with pkg := memFill ledDie.pkg 0x800000 4 (fun i => BitVec.ofNat 8 (i * 5 + 1)) }
def cp : Die := { dmm with pkg := memFill dmm.pkg 0x900000 4 (fun i => BitVec.ofNat 8 (i * 5 + 1)) }
def goodCrc : BitVec 64 := crc64 (memRead cp.pkg 0x800000 0x10000)
def mvg (d : Die) : Die := putPkg128 d 0x300010 (ent 1 2 0x800000 false 1 0x900000)
def e2_states : List State := [D (fun l => { l with moves := [{ newMove 0x10001000003 0x300030 1 none false false with phase := 0 }] }) dmm, D (fun l => { l with poolBerths := 0, moves := [newMove 0x10001000000 0x300000 1 none false false] }) dmm, D (fun l => { l with moves := [{ mv with phase := 2, again := true }] }) (mvg cp), D (fun l => { l with moves := [{ mv with phase := 3 }] }) (mvg cp), D (fun l => { l with moves := [mv] }) dmm, D (fun l => { l with moves := [{ mv with phase := 1 }] }) dmm,
    D (fun l => { l with moves := [{ mv with phase := 2, crc := goodCrc }] }) cp, D (fun l => { l with moves := [{ mv with phase := 2 }] }) cp, D (fun l => { l with moves := [{ mv with phase := 2, again := true }] }) cp,
    D (fun l => { l with moves := [{ mv with phase := 3 }] }) cp, D (fun l => { l with moves := [{ mv with phase := 4, told := true }], used := [(1, 0x800000), (1, 0x900000)] }) cp]
def ws0 : List State := e2_states

theorem test_witness_MovesGoThroughPhases :
    (withVal ((nth ws0 3).die) (fun (d : Die) => (d.ledger.moves[0]?).any (fun (m : Move) => withVal (entryLast d m.addr) (fun (e : BitVec 128) => decide ((m.phase = 3) ∧ (entState e = stMoving))))) = true) ∧
    (withVal ((nth ws0 4).die) (fun (d : Die) => (d.ledger.moves[0]?).any (fun (m : Move) => withVal (entryLast d m.addr) (fun (e : BitVec 128) => decide ((m.phase = 0) ∧ (uncommitted d m.addr = false) ∧ (((List.take 0 d.ledger.moves).any fun (y : Move) => y.addr == m.addr) = false) ∧ (m.placed = true ∨ inFlight d m.handle < 16) ∧ (moveBlocked d m e = none) ∧ (m.placed = true) ∧ ((d.ledger.holds.any fun (h : Hold) => h.handle == m.handle) = false))))) = true) ∧
    (withVal ((nth ws0 5).die) (fun (d : Die) => (d.ledger.moves[0]?).any (fun (m : Move) => decide ((m.phase = 1) ∧ (uncommitted d m.addr = false) ∧ (m.srcTier = 1) ∧ (m.target = 1)))) = true) ∧
    (withVal ((nth ws0 9).die) (fun (d : Die) => (d.ledger.moves[0]?).any (fun (m : Move) => withVal (entryLast d m.addr) (fun (e : BitVec 128) => decide ((m.phase = 3) ∧ (entState e ≠ stMoving))))) = true) ∧
    (withVal ((nth ws0 10).die) (fun (d : Die) => (d.ledger.moves[0]?).any (fun (m : Move) => decide ((m.phase = 4) ∧ (m.told = true) ∧ (uncommitted d m.addr = false) ∧ ((d.ledger.holds.any fun (h : Hold) => h.tier == m.srcTier && h.loc == m.src) = false)))) = true) := by
  decide +kernel


end Wg2b

namespace Wg2c

def D (f : LedgerSt → LedgerSt) (d : Die := ledDie) : State := stateOf { d with ledger := f d.ledger }
def few (d : Die) : Die := { d with ident := { d.ident with coreEn := 3 } }
def e3_states : List State := [D (fun l => { l with lodgeLow := 100, used := [(0,0),(0,1)] }) (few ledDie), D (fun l => { l with lodgeLow := 128, used := [(0,0),(0,1)] }) (few ledDie),
    D (fun l => { l with epoch := 0x100000, pkgLow := 0, poolBerths := 0 }) (few (ledDie upDie [ent 2 1 0])), D (fun l => { l with bins := [(0, ⟨true, 0, 0, true⟩), (1, ⟨true, 9, 9, false⟩)] }) (few (ledDie upDie [ent 2 1 0])),
    D (fun l => { l with bins := [(0, ⟨true, 0, 0, true⟩)], poolBerths := 0 }) (few (ledDie upDie [ent 2 1 0])) ]
def rw : Move := { newMove 0x10001000000 0x300000 2 none false false with rewrite := true }
def rws : List State := [D (fun l => { l with moves := [rw], bins := [(0, ⟨true, 0, 0, true⟩), (1, ⟨true, 9, 9, false⟩)] }) (few (ledDie upDie [ent 2 1 0])),
  D (fun l => { l with moves := [rw], bins := [(0, ⟨true, 0, 0, true⟩)] }) (few (ledDie upDie [ent 2 1 0])),
  D (fun l => { l with moves := [rw], bins := [(0, ⟨true, 0, 0, true⟩)], poolBerths := 0 }) (few (ledDie upDie [ent 2 1 0]))]
def ws0 : List State := e3_states

theorem test_witness_CellarAndDemotion :
    (withVal ((nth ws0 0).die) (fun (d : Die) => withVal (b2n false * 2 ^ 20 + (0#20).toNat) (fun (key : ℕ) => decide ((noCellar d = true)))) = true) ∧
    (withVal ((nth ws0 0).die) (fun (d : Die) => withVal (b2n false * 2 ^ 20 + (0#20).toNat) (fun (key : ℕ) => decide ((d.ledger.lodgeLow.toNat ≤ (freeLodge d none).length) ∧ (noCellar d = true ∨ d.ledger.pkgLow.toNat ≤ (freePool d).length)))) = true) ∧
    (withVal ((nth ws0 2).die) (fun (d : Die) => withVal (b2n false * 2 ^ 20 + (0#20).toNat) (fun (key : ℕ) => withVal (entryLast d 3145728) (fun (e : BitVec 128) => decide ((entryAddr d 1099528404992#48 = some 3145728) ∧ (rewriteDue d e = true) ∧ (entOldf e = false) ∧ (moving d 3145728 = false) ∧ (d.ledger.gap = false))))) = true) := by
  decide +kernel

def ws1 : List State := rws

theorem test_witness_CellarAndDemotion_2 :
    (withVal ((nth ws1 2).die) (fun (d : Die) => withVal (b2n false * 2 ^ 20 + (0#20).toNat) (fun (key : ℕ) => decide ((findPlace d 0 tierPackage none none = none) ∧ ((d.ledger.moves[0]?).any (fun (m : Move) => withVal (findPlace d 0 tierCellar none (some (cellarBin (entLoc (entryLast d m.addr))))) (fun (bin : Option ℕ) => decide ((m.phase = 0) ∧ (m.placed = false) ∧ (m.rewrite = true) ∧ (uncommitted d m.addr = false) ∧ (((List.take 0 d.ledger.moves).any fun (y : Move) => y.addr == m.addr) = false) ∧ (inFlight d m.handle < 16) ∧ (moveBlocked d m (entryLast d m.addr) = none) ∧ (bin = none)))) = true)))) = true) := by
  decide +kernel


end Wg2c

namespace Wh10

def S (m : Msg) (d : Die) : State := stateOf (withReqs [m] d)
def hello (v dir arr by_ pool n : Nat) : Msg := mkMsg opHello 0 (payl 44 [(0,2,v),(8,8,dir),(16,8,arr),(24,8,by_),(32,8,pool),(40,4,n)])
def e1_states : List State := [S (hello 1 0x200000 0x400000 0x1000 0x800000 4) upDie, S (hello 1 0 0 0 0 0) ledDie, S (hello 1 0x200000 0 0 0 0) ledDie, S (hello 2 0 0 0 0 0) ledDie,
    S (mkMsg opOpenContext 0 (payl 5 [(0,4,3),(4,1,1)])) (ledDie), S (mkMsg opCloseContext 0x10001 []) ledDie, S (mkMsg opCloseContext 0x10001 []) (withItins [itin0] ledDie)]
def ws0 : List State := (e1_states.drop 0).take 1

theorem test_witness_SessionsAndContexts :
    (withVal ((nth ws0 0).die) (fun (d : Die) => withVal (clip (rqs (nth ws0 0) 0)) (fun (m : Msg) => withVal (helloFields m) (fun (ask : Placement) => withVal (replaced ask (inForce d)) (fun (next : Placement) => decide ((d.stew.requests[0]? = some (rqs (nth ws0 0) 0) ∧ msgOp (rqs (nth ws0 0) 0) = opHello ∧ stewardUp d = true ∧ inTurn d 0 (rqs (nth ws0 0) 0) = true ∧ (ledgerOp opHello = true → d.ledger.memState = 0 ∧ dirEn d = true) ∧ checkReq d (clip (rqs (nth ws0 0) 0)) 44 (helloBad (clip (rqs (nth ws0 0) 0))) CtxUse.none = none ∧ argsOk d (noArgs d (clip (rqs (nth ws0 0) 0))) = true) ∧ (msgLE m 16 2 = 1) ∧ (ask.dir = 0 ∨ ask.dir + 1048576 ≤ pkgTop d) ∧ (next = inForce d ∨ openCtxs d = []) ∧ (overlapAt next = none)))))) = true) := by
  decide +kernel


end Wh10

namespace Wh11

def S (m : Msg) (d : Die) : State := stateOf (withReqs [m] d)
def hello (v dir arr by_ pool n : Nat) : Msg := mkMsg opHello 0 (payl 44 [(0,2,v),(8,8,dir),(16,8,arr),(24,8,by_),(32,8,pool),(40,4,n)])
def l : List State := [S (hello 1 0x200000 0x400000 0x1000 0x800000 4) upDie, S (hello 1 0 0 0 0 0) ledDie, S (hello 1 0x200000 0 0 0 0) ledDie, S (hello 2 0 0 0 0 0) ledDie,
    S (mkMsg opOpenContext 0 (payl 5 [(0,4,3),(4,1,1)])) (ledDie), S (mkMsg opCloseContext 0x10001 []) ledDie, S (mkMsg opCloseContext 0x10001 []) (withItins [itin0] ledDie)]
def e1_states : List State := (l.drop 1).take 1
def ws0 : List State := e1_states

theorem test_witness_SessionsAndContexts_2 :
    (withVal ((nth ws0 0).die) (fun (d : Die) => withVal (clip (rqs (nth ws0 0) 0)) (fun (m : Msg) => withVal (helloFields m) (fun (ask : Placement) => withVal (replaced ask (inForce d)) (fun (next : Placement) => decide ((d.stew.requests[0]? = some (rqs (nth ws0 0) 0) ∧ msgOp (rqs (nth ws0 0) 0) = opHello ∧ stewardUp d = true ∧ inTurn d 0 (rqs (nth ws0 0) 0) = true ∧ (ledgerOp opHello = true → d.ledger.memState = 0 ∧ dirEn d = true) ∧ checkReq d (clip (rqs (nth ws0 0) 0)) 44 (helloBad (clip (rqs (nth ws0 0) 0))) CtxUse.none = none ∧ argsOk d (noArgs d (clip (rqs (nth ws0 0) 0))) = true) ∧ (msgLE m 16 2 = 1) ∧ (ask.dir = 0 ∨ ask.dir + 1048576 ≤ pkgTop d) ∧ (next = inForce d ∨ openCtxs d = []) ∧ (overlapAt next = none)))))) = true) := by
  decide +kernel


end Wh11

namespace Wh12

def S (m : Msg) (d : Die) : State := stateOf (withReqs [m] d)
def hello (v dir arr by_ pool n : Nat) : Msg := mkMsg opHello 0 (payl 44 [(0,2,v),(8,8,dir),(16,8,arr),(24,8,by_),(32,8,pool),(40,4,n)])
def l : List State := [S (hello 1 0x200000 0x400000 0x1000 0x800000 4) upDie, S (hello 1 0 0 0 0 0) ledDie, S (hello 1 0x200000 0 0 0 0) ledDie, S (hello 2 0 0 0 0 0) ledDie,
    S (mkMsg opOpenContext 0 (payl 5 [(0,4,3),(4,1,1)])) (ledDie), S (mkMsg opCloseContext 0x10001 []) ledDie, S (mkMsg opCloseContext 0x10001 []) (withItins [itin0] ledDie)]
def e1_states : List State := (l.drop 2).take 1
def ws0 : List State := e1_states

theorem test_witness_SessionsAndContexts_3 :
    (withVal ((nth ws0 0).die) (fun (d : Die) => withVal (clip (rqs (nth ws0 0) 0)) (fun (m : Msg) => withVal (helloFields m) (fun (ask : Placement) => withVal (replaced ask (inForce d)) (fun (next : Placement) => decide ((d.stew.requests[0]? = some (rqs (nth ws0 0) 0) ∧ msgOp (rqs (nth ws0 0) 0) = opHello ∧ stewardUp d = true ∧ inTurn d 0 (rqs (nth ws0 0) 0) = true ∧ (ledgerOp opHello = true → d.ledger.memState = 0 ∧ dirEn d = true) ∧ checkReq d (clip (rqs (nth ws0 0) 0)) 44 (helloBad (clip (rqs (nth ws0 0) 0))) CtxUse.none = none ∧ argsOk d (noArgs d (clip (rqs (nth ws0 0) 0))) = true) ∧ (msgLE m 16 2 = 1) ∧ (ask.dir = 0 ∨ ask.dir + 1048576 ≤ pkgTop d) ∧ (next ≠ inForce d) ∧ (openCtxs d ≠ [])))))) = true) := by
  decide +kernel


end Wh12

namespace Wh13

def S (m : Msg) (d : Die) : State := stateOf (withReqs [m] d)
def hello (v dir arr by_ pool n : Nat) : Msg := mkMsg opHello 0 (payl 44 [(0,2,v),(8,8,dir),(16,8,arr),(24,8,by_),(32,8,pool),(40,4,n)])
def l : List State := [S (hello 1 0x200000 0x400000 0x1000 0x800000 4) upDie, S (hello 1 0 0 0 0 0) ledDie, S (hello 1 0x200000 0 0 0 0) ledDie, S (hello 2 0 0 0 0 0) ledDie,
    S (mkMsg opOpenContext 0 (payl 5 [(0,4,3),(4,1,1)])) (ledDie), S (mkMsg opCloseContext 0x10001 []) ledDie, S (mkMsg opCloseContext 0x10001 []) (withItins [itin0] ledDie)]
def e1_states : List State := (l.drop 3).take 1
def ws0 : List State := e1_states

theorem test_witness_SessionsAndContexts_4 :
    (withVal ((nth ws0 0).die) (fun (d : Die) => withVal (clip (rqs (nth ws0 0) 0)) (fun (m : Msg) => withVal (helloFields m) (fun (ask : Placement) => decide ((d.stew.requests[0]? = some (rqs (nth ws0 0) 0) ∧ msgOp (rqs (nth ws0 0) 0) = opHello ∧ stewardUp d = true ∧ inTurn d 0 (rqs (nth ws0 0) 0) = true ∧ (ledgerOp opHello = true → d.ledger.memState = 0 ∧ dirEn d = true) ∧ checkReq d (clip (rqs (nth ws0 0) 0)) 44 (helloBad (clip (rqs (nth ws0 0) 0))) CtxUse.none = none ∧ argsOk d (noArgs d (clip (rqs (nth ws0 0) 0))) = true) ∧ (msgLE m 16 2 ≠ 1) ∧ (ask.dir = 0 ∨ ask.dir + 1048576 ≤ pkgTop d))))) = true) := by
  decide +kernel


end Wh13

namespace Wh15

def S (m : Msg) (d : Die) : State := stateOf (withReqs [m] d)
def hello (v dir arr by_ pool n : Nat) : Msg := mkMsg opHello 0 (payl 44 [(0,2,v),(8,8,dir),(16,8,arr),(24,8,by_),(32,8,pool),(40,4,n)])
def l : List State := [S (hello 1 0x200000 0x400000 0x1000 0x800000 4) upDie, S (hello 1 0 0 0 0 0) ledDie, S (hello 1 0x200000 0 0 0 0) ledDie, S (hello 2 0 0 0 0 0) ledDie,
    S (mkMsg opOpenContext 0 (payl 5 [(0,4,3),(4,1,1)])) (ledDie), S (mkMsg opCloseContext 0x10001 []) ledDie, S (mkMsg opCloseContext 0x10001 []) (withItins [itin0] ledDie)]
def e1_states : List State := (l.drop 5).take 1
def ws0 : List State := e1_states

theorem test_witness_SessionsAndContexts_5 :
    (withVal ((nth ws0 0).die) (fun (d : Die) => withVal (clip (rqs (nth ws0 0) 0)) (fun (m : Msg) => withVal (helloFields m) (fun (ask : Placement) => decide ((d.stew.requests[0]? = some (rqs (nth ws0 0) 0) ∧ msgOp (rqs (nth ws0 0) 0) = opCloseContext ∧ stewardUp d = true ∧ inTurn d 0 (rqs (nth ws0 0) 0) = true ∧ (ledgerOp opCloseContext = true → d.ledger.memState = 0 ∧ dirEn d = true) ∧ checkReq d (clip (rqs (nth ws0 0) 0)) 0 ((fun (x : Msg) => []) (clip (rqs (nth ws0 0) 0))) CtxUse.berths = none ∧ argsOk d (noArgs d (clip (rqs (nth ws0 0) 0))) = true) ∧ (liveCtx d (msgCtx m) = some 1993841993677392698821642069004517376#128) ∧ (ctxBusy d (msgCtx m) 1993841993677392698821642069004517376#128 = false))))) = true) := by
  decide +kernel


end Wh15

namespace Wh16

def S (m : Msg) (d : Die) : State := stateOf (withReqs [m] d)
def hello (v dir arr by_ pool n : Nat) : Msg := mkMsg opHello 0 (payl 44 [(0,2,v),(8,8,dir),(16,8,arr),(24,8,by_),(32,8,pool),(40,4,n)])
def l : List State := [S (hello 1 0x200000 0x400000 0x1000 0x800000 4) upDie, S (hello 1 0 0 0 0 0) ledDie, S (hello 1 0x200000 0 0 0 0) ledDie, S (hello 2 0 0 0 0 0) ledDie,
    S (mkMsg opOpenContext 0 (payl 5 [(0,4,3),(4,1,1)])) (ledDie), S (mkMsg opCloseContext 0x10001 []) ledDie, S (mkMsg opCloseContext 0x10001 []) (withItins [itin0] ledDie)]
def e1_states : List State := (l.drop 6).take 1
def ws0 : List State := e1_states

theorem test_witness_SessionsAndContexts_6 :
    (withVal ((nth ws0 0).die) (fun (d : Die) => withVal (clip (rqs (nth ws0 0) 0)) (fun (m : Msg) => withVal (helloFields m) (fun (ask : Placement) => decide ((d.stew.requests[0]? = some (rqs (nth ws0 0) 0) ∧ msgOp (rqs (nth ws0 0) 0) = opCloseContext ∧ stewardUp d = true ∧ inTurn d 0 (rqs (nth ws0 0) 0) = true ∧ (ledgerOp opCloseContext = true → d.ledger.memState = 0 ∧ dirEn d = true) ∧ checkReq d (clip (rqs (nth ws0 0) 0)) 0 ((fun (x : Msg) => []) (clip (rqs (nth ws0 0) 0))) CtxUse.berths = none ∧ argsOk d (noArgs d (clip (rqs (nth ws0 0) 0))) = true) ∧ (liveCtx d (msgCtx m) = some 1993841993677392698821642069004517376#128) ∧ (ctxBusy d (msgCtx m) 1993841993677392698821642069004517376#128 = true))))) = true) := by
  decide +kernel


end Wh16

namespace Wh1c

def S (m : Msg) (d : Die) : State := stateOf (withReqs [m] d)
def P (l : List (BitVec 12 × BitVec 512)) (d : Die) : Die := { d with stew := { d.stew with parties := l } }
def cored (d : Die) : Die := setCore (memAt d (storeBase 0) 100 3) 0 { (runCore) with pmem := [(0, 5)], acc := [(3, 4)], pmemBad := [2] }
def pld (d : Die) : Die := { d with pkg := memFill d.pkg 0x600000 64 (fun i => BitVec.ofNat 8 (i + 1)) }
def e2_states : List State := [S (mkMsg opFormParty 0 (payl 80 [(0,2,5),(16,1,3)])) upDie, S (mkMsg opFormParty 0 (payl 80 [(0,2,0),(16,1,3)])) upDie,
    S (mkMsg opDisbandParty 0 (payl 3 [(0,2,5),(2,1,0)])) (P [(5, 3)] (cored upDie)), S (mkMsg opDisbandParty 0 (payl 3 [(0,2,5),(2,1,1)])) (P [(5, 3)] (cored upDie)),
    S (mkMsg opDisbandParty 0 (payl 3 [(0,2,5),(2,1,1)])) (withItins [{ itin0 with parties := [5] }] (P [(5, 3)] (cored upDie))),
    S (mkMsg opLoadProgram 0 (payl 80 [(0,2,5),(2,2,2),(4,2,3),(8,8,0x600000),(16,1,1)])) (pld (P [(5, 3)] (cored upDie)))]
def ws0 : List State := e2_states

theorem test_witness_PartiesAndPrograms :
    (withVal ((nth ws0 1).die) (fun (d : Die) => withVal (clip (rqs (nth ws0 1) 0)) (fun (m : Msg) => withVal (msgLE m 16 2) (fun (party : ℕ) => decide ((d.stew.requests[0]? = some (rqs (nth ws0 1) 0) ∧ msgOp (rqs (nth ws0 1) 0) = opFormParty ∧ stewardUp d = true ∧ inTurn d 0 (rqs (nth ws0 1) 0) = true ∧ (ledgerOp opFormParty = true → d.ledger.memState = 0 ∧ dirEn d = true) ∧ checkReq d (clip (rqs (nth ws0 1) 0)) 80 (formBad (clip (rqs (nth ws0 1) 0))) CtxUse.none = none ∧ argsOk d (noArgs d (clip (rqs (nth ws0 1) 0))) = true) ∧ (partyBusy d party = false) ∧ (party = 0 ∨ (partyCores d party).isSome = true))))) = true) ∧
    (withVal ((nth ws0 2).die) (fun (d : Die) => withVal (clip (rqs (nth ws0 2) 0)) (fun (m : Msg) => withVal (msgLE m 16 2) (fun (party : ℕ) => decide ((d.stew.requests[0]? = some (rqs (nth ws0 2) 0) ∧ msgOp (rqs (nth ws0 2) 0) = opDisbandParty ∧ stewardUp d = true ∧ inTurn d 0 (rqs (nth ws0 2) 0) = true ∧ (ledgerOp opDisbandParty = true → d.ledger.memState = 0 ∧ dirEn d = true) ∧ checkReq d (clip (rqs (nth ws0 2) 0)) 3 (disbandBad (clip (rqs (nth ws0 2) 0))) CtxUse.none = none ∧ argsOk d (noArgs d (clip (rqs (nth ws0 2) 0))) = true) ∧ (partyBusy d party = false) ∧ (partyItins d party itinLive = false) ∧ ((partyCores d party).any (fun (cores : BitVec 512) => decide ((∀ (c : CoreId), cores.getLsbD (BitVec.toNat c) = true → epochWaits d c = false))) = true))))) = true) ∧
    (withVal ((nth ws0 4).die) (fun (d : Die) => withVal (clip (rqs (nth ws0 4) 0)) (fun (m : Msg) => withVal (msgLE m 16 2) (fun (party : ℕ) => decide ((d.stew.requests[0]? = some (rqs (nth ws0 4) 0) ∧ msgOp (rqs (nth ws0 4) 0) = opDisbandParty ∧ stewardUp d = true ∧ inTurn d 0 (rqs (nth ws0 4) 0) = true ∧ (ledgerOp opDisbandParty = true → d.ledger.memState = 0 ∧ dirEn d = true) ∧ checkReq d (clip (rqs (nth ws0 4) 0)) 3 (disbandBad (clip (rqs (nth ws0 4) 0))) CtxUse.none = none ∧ argsOk d (noArgs d (clip (rqs (nth ws0 4) 0))) = true) ∧ (partyBusy d party = false) ∧ (partyItins d party itinLive = true) ∧ ((partyCores d party).any (fun (cores : BitVec 512) => true) = true))))) = true) ∧
    (withVal ((nth ws0 5).die) (fun (d : Die) => withVal (clip (rqs (nth ws0 5) 0)) (fun (m : Msg) => withVal (msgLE m 16 2) (fun (party : ℕ) => withVal (reqMask m) (fun (mask : BitVec 512) => withVal (msgLE m 20 2) (fun (k : ℕ) => decide ((d.stew.requests[0]? = some (rqs (nth ws0 5) 0) ∧ msgOp (rqs (nth ws0 5) 0) = opLoadProgram ∧ stewardUp d = true ∧ inTurn d 0 (rqs (nth ws0 5) 0) = true ∧ (ledgerOp opLoadProgram = true → d.ledger.memState = 0 ∧ dirEn d = true) ∧ checkReq d (clip (rqs (nth ws0 5) 0)) 80 (loadBad (clip (rqs (nth ws0 5) 0))) CtxUse.none = none ∧ argsOk d (loadArgs d (clip (rqs (nth ws0 5) 0))) = true) ∧ (partyBusy d party = false) ∧ ((partyCores d party).any (fun (cores : BitVec 512) => withVal (if mask = 0 then cores else mask) (fun (named : BitVec 512) => decide ((named &&& ~~~cores = 0) ∧ ((d.stew.itins.any fun (i : Itin) => i.state == ItinState.running && (hereCores d i).any fun (e : ItinCore) => named.getLsbD (BitVec.toNat e.core)) = false)))) = true))))))) = true) := by
  decide +kernel


end Wh1c

namespace Wh2b

def S (m : Msg) (d : Die := upDie) : State := stateOf (withReqs [m] d)
def e1_states (l : List Nat) : List State := l.flatMap (fun op => [S (mkMsg op 0 (payl 1 [])), S (mkMsg op 0 (payl 240 [(0,1,0xFF)])), S (mkMsg op 0 (payl 80 [(0x08,8,2^46)]))])
def ws0 : List State := e1_states [0x1,0x10,0x11,0x12,0x20,0x21,0x30,0x40,0x50,0x52,0x90,0x91,0xA0,0xB0]

theorem test_witness_RequestsAreChecked :
    (withVal ((nth ws0 0).die) (fun (d : Die) => withVal (clip { src := Source.host, ph := 3#8, poll := false, freed := false, no := 1, bytes := [1#8, 0#8, 85#8, 0#8, 1#8, 0#8, 0#8, 0#8, 0#8, 0#8, 0#8, 0#8, 0#8, 0#8, 0#8, 0#8, 0#8] : Msg }) (fun (m : Msg) => decide ((opAllowed d m = true) ∧ (msgLen m < 16)))) = true) ∧
    (withVal ((nth ws0 0).die) (fun (d : Die) => withVal (clip { src := Source.host, ph := 3#8, poll := false, freed := false, no := 1, bytes := [1#8, 0#8, 85#8, 0#8, 1#8, 0#8, 0#8, 0#8, 0#8, 0#8, 0#8, 0#8, 0#8, 0#8, 0#8, 0#8, 0#8] : Msg }) (fun (m : Msg) => decide ((opAllowed d m = true) ∧ (0 ≤ msgLen m) ∧ (msgLen m ≤ 240) ∧ (firstBad m [(16, true)] = some 16)))) = true) ∧
    (withVal ((nth ws0 4).die) (fun (d : Die) => decide ((true = true) ∧ (stewardUp d = true) ∧ (ledgerOp opOpenContext = true → d.ledger.memState = 0) ∧ (ledgerOp opOpenContext = true) ∧ (dirEn d = false) ∧ ((d.stew.requests[0]?).any (fun (m0 : Msg) => withVal (clip m0) (fun (m : Msg) => decide ((msgOp m0 = opOpenContext) ∧ (inTurn d 0 m0 = true) ∧ (checkReq d m 5 (openBad m) CtxUse.none = none) ∧ (argsOk d (noArgs d m) = true)))) = true))) = true) ∧
    (withVal ((nth ws0 5).die) (fun (d : Die) => decide ((true = true) ∧ (stewardUp d = true) ∧ (ledgerOp opOpenContext = true → d.ledger.memState = 0) ∧ ((d.stew.requests[0]?).any (fun (m0 : Msg) => withVal (clip m0) (fun (m : Msg) => decide ((msgOp m0 = opOpenContext) ∧ (inTurn d 0 m0 = true) ∧ (checkReq d m 5 (openBad m) CtxUse.none = some (18, 16))))) = true))) = true) ∧
    (withVal ((nth ws0 6).die) (fun (d : Die) => decide ((true = true) ∧ (stewardUp d = true) ∧ (ledgerOp opCloseContext = true → d.ledger.memState = 0) ∧ (ledgerOp opCloseContext = true) ∧ (dirEn d = false) ∧ ((d.stew.requests[0]?).any (fun (m0 : Msg) => withVal (clip m0) (fun (m : Msg) => decide ((msgOp m0 = opCloseContext) ∧ (inTurn d 0 m0 = true) ∧ (checkReq d m 0 [] CtxUse.berths = none) ∧ (argsOk d (noArgs d m) = true)))) = true))) = true) ∧
    (withVal ((nth ws0 9).die) (fun (d : Die) => decide ((true = true) ∧ (stewardUp d = true) ∧ (ledgerOp opSaveContext = true → d.ledger.memState = 0) ∧ ((d.stew.requests[0]?).any (fun (m0 : Msg) => withVal (clip m0) (fun (m : Msg) => decide ((msgOp m0 = opSaveContext) ∧ (inTurn d 0 m0 = true) ∧ (checkReq d m 16 (imageBad m) CtxUse.none = some (17, 16))))) = true))) = true) ∧
    (withVal ((nth ws0 19).die) (fun (d : Die) => decide ((true = true) ∧ (stewardUp d = true) ∧ (ledgerOp opLoadProgram = true → d.ledger.memState = 0) ∧ ((d.stew.requests[0]?).any (fun (m0 : Msg) => withVal (clip m0) (fun (m : Msg) => decide ((msgOp m0 = opLoadProgram) ∧ (inTurn d 0 m0 = true) ∧ (checkReq d m 80 (loadBad m) CtxUse.none = some (18, 20))))) = true))) = true) ∧
    (withVal ((nth ws0 22).die) (fun (d : Die) => decide ((true = true) ∧ (stewardUp d = true) ∧ (ledgerOp opSubmit = true → d.ledger.memState = 0) ∧ ((d.stew.requests[0]?).any (fun (m0 : Msg) => withVal (clip m0) (fun (m : Msg) => decide ((msgOp m0 = opSubmit) ∧ (inTurn d 0 m0 = true) ∧ (checkReq d m 12 (submitBad m) CtxUse.optional = some (18, 16))))) = true))) = true) := by
  decide +kernel

theorem test_witness_RequestsAreChecked_b :
    (withVal ((nth ws0 25).die) (fun (d : Die) => decide ((true = true) ∧ (stewardUp d = true) ∧ (ledgerOp opBerthAlloc = true → d.ledger.memState = 0) ∧ (ledgerOp opBerthAlloc = true) ∧ (dirEn d = false) ∧ ((d.stew.requests[0]?).any (fun (m0 : Msg) => withVal (clip m0) (fun (m : Msg) => decide ((msgOp m0 = opBerthAlloc) ∧ (inTurn d 0 m0 = true) ∧ (checkReq d m 14 (allocBad m) CtxUse.berths = none) ∧ (argsOk d (noArgs d m) = true)))) = true))) = true) ∧
    (withVal ((nth ws0 28).die) (fun (d : Die) => decide ((true = true) ∧ (stewardUp d = true) ∧ (ledgerOp opBerthMove = true → d.ledger.memState = 0) ∧ (ledgerOp opBerthMove = true) ∧ (dirEn d = false) ∧ ((d.stew.requests[0]?).any (fun (m0 : Msg) => withVal (clip m0) (fun (m : Msg) => decide ((msgOp m0 = opBerthMove) ∧ (inTurn d 0 m0 = true) ∧ (checkReq d m 14 (moveBad m) CtxUse.berths = none) ∧ (argsOk d (noArgs d m) = true)))) = true))) = true) ∧
    (withVal ((nth ws0 30).die) (fun (d : Die) => decide ((true = true) ∧ (stewardUp d = true) ∧ (ledgerOp opFwStage = true → d.ledger.memState = 0) ∧ ((d.stew.requests[0]?).any (fun (m0 : Msg) => withVal (clip m0) (fun (m : Msg) => decide ((msgOp m0 = opFwStage) ∧ (inTurn d 0 m0 = true) ∧ (checkReq d m 16 (fwBad m) CtxUse.none = some (17, 16))))) = true))) = true) ∧
    (withVal ((nth ws0 34).die) (fun (d : Die) => decide ((true = true) ∧ (stewardUp d = true) ∧ (ledgerOp opFwCommit = true → d.ledger.memState = 0) ∧ ((d.stew.requests[0]?).any (fun (m0 : Msg) => withVal (clip m0) (fun (m : Msg) => decide ((msgOp m0 = opFwCommit) ∧ (inTurn d 0 m0 = true) ∧ (checkReq d m 1 (fwBad m) CtxUse.none = some (18, 16))))) = true))) = true) ∧
    (withVal ((nth ws0 39).die) (fun (d : Die) => decide ((stewardUp d = true) ∧ (ledgerOp opFuseProgram = true → d.ledger.memState = 0) ∧ ((d.stew.requests[0]?).any (fun (m0 : Msg) => withVal (clip m0) (fun (m : Msg) => decide ((msgOp m0 = opFuseProgram) ∧ ((fuseKind m == 0 || decide (5 ≤ fuseKind m)) = true) ∧ (inTurn d 0 m0 = true) ∧ (checkReq d m 16 (fuseBadFields m) CtxUse.none = some (17, 16))))) = true))) = true) := by
  decide +kernel


end Wh2b

namespace Wh3

def S (d : Die) : State := stateOf d
def own (v : BitVec 64) (d : Die := upDie) : Die := { d with stew := { d.stew with own := v } }
def withMsgAt (k op : Nat) (d : Die) : Die := { d with mem := memWrite d.mem (pigeonBase k) (msgB op 0 [1,2,3]) }
def r1 : Msg := { mkMsg 0x8040 0 [9,8] with ph := 3 }
def E_ (d : Die) (evs : List Event) (rs : List Msg) (pend : BitVec 56) : Die := { d with stew := { d.stew with events := evs, responses := rs, evtPending := pend } }
def e1_states : List State := [S { own 0 with link := { upDie.link with state := 5 } }, S (own 0), S (own 0xFFFFFFFFFFFFFFFF), S (withMsgAt 3 0x40 (withMsgAt 0 0x40 (withMsgAt 1 1 (withMsgAt 31 1 (own 0))))), S { own 0 with ident := { upDie.ident with refuseLog := 0x8000000000000000 } },
    S { (E_ (own 0xFFFFFFFFFFFFFFFF) [] [r1] 0) with stew := { (E_ (own 0xFFFFFFFFFFFFFFFF) [] [r1] 0).stew with requests := [mkMsg 0x40 0 []] } }]
def ev (k : Nat) (dst : Nat) : Event := ⟨BitVec.ofNat 16 k, 1, 2, BitVec.ofNat 8 dst, [1,2]⟩
def e2_states : List State := [S (E_ (own 0) [] [r1] 0), S (E_ (own 0xFFFFFFFFFFFFFFFF) [ev 0x10 0] [r1, { r1 with src := .foreign, ph := 28 }] 0), S (E_ (own 0xFFFFFFFF0000FFFF) [ev 0x10 0] [r1] 0), S (E_ (own 0x0000FFFF00000000) [ev 0x10 0, ev 0 0] [] 5),
    S (E_ (own 0) [ev 0x10 0, ev 0 0] [] 0xFF00), S (E_ (own 0x0000FFFE00000000) [] [] 5), S (E_ (own 0xF000FFFF00000000) [] [{ r1 with freed := true }] 0)]
def ws0 : List State := e1_states

theorem test_witness_PigeonholesChangeHands :
    (withVal ((nth ws0 0).die) (fun (d : Die) => decide ((linkServes d = false))) = true) ∧
    (withVal ((nth ws0 1).die) (fun (d : Die) => decide ((32 ≤ 32) ∧ (32 < 48) ∧ (owns d 32 = false) ∧ (linkServes d = true) ∧ (stewardUp d = false ∨ (∀ y ∈ d.stew.requests, unserved y = false) ∧ d.stew.evtPending = 0))) = true) ∧
    (withVal ((nth ws0 1).die) (fun (d : Die) => decide ((linkServes d = true) ∧ (72057594037927936#64 &&& ~~~giveMask Source.host ≠ 0))) = true) ∧
    (withVal ((nth ws0 2).die) (fun (d : Die) => decide ((inReset d = false) ∧ (32 < 64) ∧ (owns d 32 = true) ∧ (responsePh 32 = true))) = true) ∧
    (withVal ((nth ws0 2).die) (fun (d : Die) => decide ((inReset d = false) ∧ (0 < 64) ∧ (owns d 0 = true) ∧ (responsePh 0 = false))) = true) ∧
    (withVal ((nth ws0 2).die) (fun (d : Die) => decide ((0 < 48) ∧ (owns d 0 = true) ∧ (linkServes d = true) ∧ (stewardUp d = false ∨ (∀ y ∈ d.stew.requests, unserved y = false) ∧ d.stew.evtPending = 0))) = true) ∧
    (withVal ((nth ws0 3).die) (fun (d : Die) => withVal ({ src := Source.host, ph := 0#8, poll := false, freed := false, no := d.stew.taken, bytes := memRead d.mem (pigeonBase 0) 256 : Msg }) (fun (msg : Msg) => decide ((0 < 32) ∧ (owns d 0 = false) ∧ (linkServes d = true) ∧ (stewardUp d = false ∨ (∀ y ∈ d.stew.requests, unserved y = false) ∧ d.stew.evtPending = 0) ∧ (stewardUp d = false ∨ unserved msg = false)))) = true) := by
  decide +kernel

def ws1 : List State := e2_states

theorem test_witness_ResponsesAndEventsPosted :
    (withVal ((nth ws1 0).die) (fun (d : Die) => decide ((d.stew.responses[0]? = some (rqs (nth ws1 0) 0)) ∧ (heldPh d (respDst (rqs (nth ws1 0) 0)) = none))) = true) ∧
    (withVal ((nth ws1 1).die) (fun (d : Die) => decide ((d.stew.responses[0]? = some (rqs (nth ws1 1) 0)) ∧ (∀ y ∈ List.take 0 d.stew.responses, respDst y ≠ respDst (rqs (nth ws1 1) 0)) ∧ (postable d (rqs (nth ws1 1) 0) = true) ∧ (readyFirst d = none) ∧ (heldPh d (respDst (rqs (nth ws1 1) 0)) = some 32) ∧ (d.stew.evtPending = 0))) = true) ∧
    (withVal ((nth ws1 3).die) (fun (d : Die) => decide ((stewardUp d = true) ∧ (readyFirst d = none) ∧ ((d.stew.events).head?.any (fun (hd : Event) => decide ((heldPh d hd.dst.toNat = some 32) ∧ (responseWaits d hd.dst.toNat = false))) = true))) = true) ∧
    (withVal ((nth ws1 4).die) (fun (d : Die) => decide ((stewardUp d = true) ∧ (readyFirst d = none) ∧ ((d.stew.events).head?.any (fun (hd : Event) => decide ((heldPh d hd.dst.toNat = none) ∧ (evtShift hd.kind.toNat = some 8))) = true))) = true) ∧
    (withVal ((nth ws1 5).die) (fun (d : Die) => decide ((stewardUp d = true) ∧ (d.stew.events = []) ∧ (d.stew.evtPending ≠ 0) ∧ (heldPh d 0 = some 33) ∧ (responseWaits d 0 = false))) = true) := by
  decide +kernel


end Wh3

namespace Wh3b

def S (d : Die) : State := stateOf d
def own (v : BitVec 64) (d : Die := upDie) : Die := { d with stew := { d.stew with own := v } }
def r1 : Msg := { mkMsg 0x8040 0 [9,8] with ph := 3 }
def ev (k : Nat) (dst : Nat) : Event := ⟨BitVec.ofNat 16 k, 1, 2, BitVec.ofNat 8 dst, [1,2]⟩
def E_ (d : Die) (evs : List Event) (rs : List Msg) (pend : BitVec 56) : Die := { d with stew := { d.stew with events := evs, responses := rs, evtPending := pend } }
def e2_states : List State := [S (E_ (own 0) [] [r1] 0), S (E_ (own 0) [ev 0x10 0, ev 0 0] [] 0xFF00)]
def ws0 : List State := e2_states

theorem test_witness_ResponsesAndEventsPosted_2 :
    (withVal ((nth ws0 0).die) (fun (d : Die) => decide ((d.stew.responses[0]? = some (rqs (nth ws0 0) 0)) ∧ (heldPh d (respDst (rqs (nth ws0 0) 0)) = none))) = true) ∧
    (withVal ((nth ws0 1).die) (fun (d : Die) => decide ((stewardUp d = true) ∧ (readyFirst d = none) ∧ ((d.stew.events).head?.any (fun (hd : Event) => decide ((heldPh d hd.dst.toNat = none) ∧ (evtShift hd.kind.toNat = some 8))) = true))) = true) := by
  decide +kernel


end Wh3b

namespace Wh5

def S (m : Msg) (d : Die) : State := stateOf (withReqs [m] d)
def P (l : List (BitVec 12 × BitVec 512)) (d : Die) : Die := { d with stew := { d.stew with parties := l } }
/-- one core entry: core 0, H0/FULL; head fields -/
def desc (hd : List (Nat × Nat × Nat)) (ce : List (Nat × Nat × Nat)) : List Byte :=
  payl 64 ([(0,1,1),(2,1,2),(4,1,12),(6,2,1),(0xC,4,8),(0x10,8,0x700000),(0x2C,2,4),(0x30,2,5)] ++ hd) ++ payl 64 ([(0,2,0),(2,1,0),(4,2,0x20),(6,2,8)] ++ ce)
def dp (l : List Byte) (d : Die) : Die := { d with pkg := memWrite d.pkg 0x600000 l }
def live : Core := { Core.reset with portReset := false }
def base : Die := setCore (setCore (P [(5, 3)] ledDie) 0 live) 1 live
def sub (n : Nat) : Msg := mkMsg opSubmit 0x10001 (payl 12 [(0,8,0x600000),(8,4,n)])
def ab (op : Nat) (id : Nat) : Msg := mkMsg op 0x10001 (payl 4 [(0,4,id)])
def e1_states : List State := [S (sub 128) (dp (desc [] []) base), S (sub 128) (dp (desc [(0xF,1,1)] []) base), S (sub 128) (dp (desc [] [(2,1,3)]) base),
    S (sub 128) (dp (desc [(0x34,2,7)] [(0,2,0x400)]) base), S (ab opAbort 1) (withItins [{ itin0 with cores := [⟨0, 0, .full, true, false, 0x20, 8, [], [], false, false⟩, ⟨2, 5, .full, true, false, 0x20, 8, [], [], false, false⟩] }] base),
    S (ab opAbort 1) base, S (ab opQueryProgress 1) base, S (ab opAbort 1) (withItins [{ itin0 with state := .complete }] base), S (ab opAbort 1) (withItins [itin0] base), S (ab opAbort 1) (withItins [{ itin0 with state := .queued, reason := 3 }] base), S (ab opQueryProgress 1) (withItins [itin0] base)]
def ce0 : ItinCore := ⟨0, 0, .full, true, false, 0x20, 8, [(3, false, 99), (33, true, 0x40)], [], false, false⟩
def iq : Itin := { itin0 with state := .queued, parties := [5,0,0,0], cores := [ce0, { ce0 with core := 1, half := .h0 }], links := [], rings := [] }
def SI (l : List Itin) (d : Die := base) : State := stateOf (withItins l d)
def ih : Itin := { itin0 with parties := [5,0,0,0], cores := [{ ce0 with halted := true, halted1 := true }], flags := 3 }
def remote : Itin := { itin0 with id := 0x40000001, cores := [ce0] }
def far : Itin := { iq with cores := iq.cores ++ [{ ce0 with die := 2, core := 5 }] }
def farR : Itin := { far with state := .running }
def e2_states : List State := [SI [far], SI [{ far with replies := [(2, .reserveOk 1)] }], SI [{ far with replies := [(2, .reserveRefused 1 0x405 64)] }], SI [{ farR with reason := 5 }], SI [{ farR with timeLimit := 5 }], SI [iq], SI [{ iq with cores := [{ ce0 with work := 0xFFFF }] }], SI [ih], SI [{ ih with reason := 5, faultPc := 7 }], SI [{ ih with timeLimit := 5 }] , SI [{ ih with timeLimit := 5, reason := 9 }],
    SI [remote] (setCore base 0 { (runCore (fun th => { th with run := .faulted, itin := some 0x40000001 })) with fault := 0x8000000000000000 }),
    SI [{ ih with state := .aborted, settled := false }] (setCore base 0 { runCore with reserved := [(1, 3)], members := [mem0] })]
def ws0 : List State := e1_states

theorem test_witness_ItineraryMessages :
    (withVal ((nth ws0 0).die) (fun (d : Die) => withVal (clip (rqs (nth ws0 0) 0)) (fun (m : Msg) => withVal (msgLE m 24 4) (fun (len : ℕ) => withVal (argRead d (msgLE m 16 8) len) (fun (l : List Byte) => withVal (argSense (msgLE m 16 8) len d) (fun (r : Die) => withVal (BitVec.ofNat 32 (d.ident.dieNum.toNat * 2 ^ 30 + d.stew.serial.toNat + 1)) (fun (id : BitVec 32) => withVal (have __src := parseItin d l id m.src (eventDst m) (BitVec.ofNat 16 (msgSeq m)) (BitVec.ofNat 32 (msgCtx m)); { id := __src.id, src := __src.src, pair := __src.pair, submitNo := m.no, desc := BitVec.ofNat 64 (msgLE m 16 8), len := __src.len, seq := __src.seq, context := __src.context, state := __src.state, phase := __src.phase, abftEn := __src.abftEn, abftM := __src.abftM, floor := __src.floor, tiles := __src.tiles, record := __src.record, seed := __src.seed, stall := __src.stall, timeLimit := __src.timeLimit, flagMax := __src.flagMax, parties := __src.parties, tallyInit := __src.tallyInit, cores := __src.cores, rings := __src.rings, links := __src.links, berths := __src.berths, stamps := __src.stamps, stamped := __src.stamped, flags := __src.flags, reason := __src.reason, faultCore := __src.faultCore, faultPc := __src.faultPc, faultDetail := __src.faultDetail, flagLog := __src.flagLog, flagLost := __src.flagLost, exitCore := __src.exitCore, exitCode := __src.exitCode, npoison := __src.npoison, settled := __src.settled, admitted := __src.admitted, asked := __src.asked, replies := __src.replies, stopping := __src.stopping : Itin }) (fun (made : Itin) => decide ((d.stew.requests[0]? = some (rqs (nth ws0 0) 0) ∧ msgOp (rqs (nth ws0 0) 0) = opSubmit ∧ stewardUp d = true ∧ inTurn d 0 (rqs (nth ws0 0) 0) = true ∧ (ledgerOp opSubmit = true → d.ledger.memState = 0 ∧ dirEn d = true) ∧ checkReq d (clip (rqs (nth ws0 0) 0)) 12 (submitBad (clip (rqs (nth ws0 0) 0))) CtxUse.optional = none ∧ argsOk d (submitArgs d (clip (rqs (nth ws0 0) 0))) = true) ∧ (foreignDenied d m made = false) ∧ (itinPeers d made = []) ∧ (descFlaws r (msgCtx m) l = []) ∧ (regsReadable r l = true) ∧ (regDetail r l = none) ∧ (tallyBusy r made = none) ∧ ((waitingOn r (queueKey made)).length < 16) ∧ (r.stew.serial ≠ BitVec.allOnes 30))))))))) = true) ∧
    (withVal ((nth ws0 1).die) (fun (d : Die) => withVal (clip (rqs (nth ws0 1) 0)) (fun (m : Msg) => withVal (msgLE m 24 4) (fun (len : ℕ) => withVal (argRead d (msgLE m 16 8) len) (fun (l : List Byte) => withVal (argSense (msgLE m 16 8) len d) (fun (r : Die) => withVal (BitVec.ofNat 32 (d.ident.dieNum.toNat * 2 ^ 30 + d.stew.serial.toNat + 1)) (fun (id : BitVec 32) => withVal (have __src := parseItin d l id m.src (eventDst m) (BitVec.ofNat 16 (msgSeq m)) (BitVec.ofNat 32 (msgCtx m)); { id := __src.id, src := __src.src, pair := __src.pair, submitNo := m.no, desc := BitVec.ofNat 64 (msgLE m 16 8), len := __src.len, seq := __src.seq, context := __src.context, state := __src.state, phase := __src.phase, abftEn := __src.abftEn, abftM := __src.abftM, floor := __src.floor, tiles := __src.tiles, record := __src.record, seed := __src.seed, stall := __src.stall, timeLimit := __src.timeLimit, flagMax := __src.flagMax, parties := __src.parties, tallyInit := __src.tallyInit, cores := __src.cores, rings := __src.rings, links := __src.links, berths := __src.berths, stamps := __src.stamps, stamped := __src.stamped, flags := __src.flags, reason := __src.reason, faultCore := __src.faultCore, faultPc := __src.faultPc, faultDetail := __src.faultDetail, flagLog := __src.flagLog, flagLost := __src.flagLost, exitCore := __src.exitCore, exitCode := __src.exitCode, npoison := __src.npoison, settled := __src.settled, admitted := __src.admitted, asked := __src.asked, replies := __src.replies, stopping := __src.stopping : Itin }) (fun (made : Itin) => decide ((d.stew.requests[0]? = some (rqs (nth ws0 1) 0) ∧ msgOp (rqs (nth ws0 1) 0) = opSubmit ∧ stewardUp d = true ∧ inTurn d 0 (rqs (nth ws0 1) 0) = true ∧ (ledgerOp opSubmit = true → d.ledger.memState = 0 ∧ dirEn d = true) ∧ checkReq d (clip (rqs (nth ws0 1) 0)) 12 (submitBad (clip (rqs (nth ws0 1) 0))) CtxUse.optional = none ∧ argsOk d (submitArgs d (clip (rqs (nth ws0 1) 0))) = true) ∧ (foreignDenied d m made = false) ∧ (itinPeers d made = []) ∧ (15 ∈ descFlaws r (msgCtx m) l) ∧ (∀ o' ∈ descFlaws r (msgCtx m) l, 15 ≤ o'))))))))) = true) ∧
    (withVal ((nth ws0 3).die) (fun (d : Die) => withVal (clip (rqs (nth ws0 3) 0)) (fun (m : Msg) => withVal (msgLE m 24 4) (fun (len : ℕ) => withVal (argRead d (msgLE m 16 8) len) (fun (l : List Byte) => withVal (BitVec.ofNat 32 (d.ident.dieNum.toNat * 2 ^ 30 + d.stew.serial.toNat + 1)) (fun (id : BitVec 32) => withVal (have __src := parseItin d l id m.src (eventDst m) (BitVec.ofNat 16 (msgSeq m)) (BitVec.ofNat 32 (msgCtx m)); { id := __src.id, src := __src.src, pair := __src.pair, submitNo := m.no, desc := BitVec.ofNat 64 (msgLE m 16 8), len := __src.len, seq := __src.seq, context := __src.context, state := __src.state, phase := __src.phase, abftEn := __src.abftEn, abftM := __src.abftM, floor := __src.floor, tiles := __src.tiles, record := __src.record, seed := __src.seed, stall := __src.stall, timeLimit := __src.timeLimit, flagMax := __src.flagMax, parties := __src.parties, tallyInit := __src.tallyInit, cores := __src.cores, rings := __src.rings, links := __src.links, berths := __src.berths, stamps := __src.stamps, stamped := __src.stamped, flags := __src.flags, reason := __src.reason, faultCore := __src.faultCore, faultPc := __src.faultPc, faultDetail := __src.faultDetail, flagLog := __src.flagLog, flagLost := __src.flagLost, exitCore := __src.exitCore, exitCode := __src.exitCode, npoison := __src.npoison, settled := __src.settled, admitted := __src.admitted, asked := __src.asked, replies := __src.replies, stopping := __src.stopping : Itin }) (fun (made : Itin) => decide ((d.stew.requests[0]? = some (rqs (nth ws0 3) 0) ∧ msgOp (rqs (nth ws0 3) 0) = opSubmit ∧ stewardUp d = true ∧ inTurn d 0 (rqs (nth ws0 3) 0) = true ∧ (ledgerOp opSubmit = true → d.ledger.memState = 0 ∧ dirEn d = true) ∧ checkReq d (clip (rqs (nth ws0 3) 0)) 12 (submitBad (clip (rqs (nth ws0 3) 0))) CtxUse.optional = none ∧ argsOk d (submitArgs d (clip (rqs (nth ws0 3) 0))) = true) ∧ (foreignDenied d m made = false) ∧ (itinPeers d made ≠ []) ∧ (List.find? (fun (a : Ask) => a.no == m.no) d.stew.asks = none) ∧ (((itinPeers d made).any fun (p : BitVec 2) => d.link.fenced.getLsbD p.toNat) = false)))))))) = true) ∧
    (withVal ((nth ws0 4).die) (fun (d : Die) => withVal (clip (rqs (nth ws0 4) 0)) (fun (m : Msg) => withVal (msgLE m 24 4) (fun (len : ℕ) => withVal (argRead d (msgLE m 16 8) len) (fun (l : List Byte) => withVal (BitVec.ofNat 32 (d.ident.dieNum.toNat * 2 ^ 30 + d.stew.serial.toNat + 1)) (fun (id : BitVec 32) => decide ((d.stew.requests[0]? = some (rqs (nth ws0 4) 0) ∧ msgOp (rqs (nth ws0 4) 0) = opAbort ∧ stewardUp d = true ∧ inTurn d 0 (rqs (nth ws0 4) 0) = true ∧ (ledgerOp opAbort = true → d.ledger.memState = 0 ∧ dirEn d = true) ∧ checkReq d (clip (rqs (nth ws0 4) 0)) 4 ((fun (x : Msg) => []) (clip (rqs (nth ws0 4) 0))) CtxUse.optional = none ∧ argsOk d (noArgs d (clip (rqs (nth ws0 4) 0))) = true) ∧ (ownItin d m = some (itinAt (nth ws0 4) 0)) ∧ ((itinAt (nth ws0 4) 0).state = ItinState.running) ∧ ((itinAt (nth ws0 4) 0).stopping = false) ∧ (livePeers d (itinAt (nth ws0 4) 0) ≠ []))))))) = true) ∧
    (withVal ((nth ws0 5).die) (fun (d : Die) => withVal (clip (rqs (nth ws0 5) 0)) (fun (m : Msg) => withVal (msgLE m 24 4) (fun (len : ℕ) => withVal (argRead d (msgLE m 16 8) len) (fun (l : List Byte) => withVal (BitVec.ofNat 32 (d.ident.dieNum.toNat * 2 ^ 30 + d.stew.serial.toNat + 1)) (fun (id : BitVec 32) => decide ((d.stew.requests[0]? = some (rqs (nth ws0 5) 0) ∧ msgOp (rqs (nth ws0 5) 0) = opAbort ∧ stewardUp d = true ∧ inTurn d 0 (rqs (nth ws0 5) 0) = true ∧ (ledgerOp opAbort = true → d.ledger.memState = 0 ∧ dirEn d = true) ∧ checkReq d (clip (rqs (nth ws0 5) 0)) 4 ((fun (x : Msg) => []) (clip (rqs (nth ws0 5) 0))) CtxUse.optional = none ∧ argsOk d (noArgs d (clip (rqs (nth ws0 5) 0))) = true) ∧ (ownItin d m = none))))))) = true) ∧
    (withVal ((nth ws0 6).die) (fun (d : Die) => withVal (clip (rqs (nth ws0 6) 0)) (fun (m : Msg) => withVal (msgLE m 24 4) (fun (len : ℕ) => withVal (argRead d (msgLE m 16 8) len) (fun (l : List Byte) => withVal (BitVec.ofNat 32 (d.ident.dieNum.toNat * 2 ^ 30 + d.stew.serial.toNat + 1)) (fun (id : BitVec 32) => decide ((d.stew.requests[0]? = some (rqs (nth ws0 6) 0) ∧ msgOp (rqs (nth ws0 6) 0) = opQueryProgress ∧ stewardUp d = true ∧ inTurn d 0 (rqs (nth ws0 6) 0) = true ∧ (ledgerOp opQueryProgress = true → d.ledger.memState = 0 ∧ dirEn d = true) ∧ checkReq d (clip (rqs (nth ws0 6) 0)) 4 ((fun (x : Msg) => []) (clip (rqs (nth ws0 6) 0))) CtxUse.optional = none ∧ argsOk d (noArgs d (clip (rqs (nth ws0 6) 0))) = true) ∧ (ownItin d m = none))))))) = true) ∧
    (withVal ((nth ws0 7).die) (fun (d : Die) => withVal (clip (rqs (nth ws0 7) 0)) (fun (m : Msg) => withVal (msgLE m 24 4) (fun (len : ℕ) => withVal (argRead d (msgLE m 16 8) len) (fun (l : List Byte) => withVal (BitVec.ofNat 32 (d.ident.dieNum.toNat * 2 ^ 30 + d.stew.serial.toNat + 1)) (fun (id : BitVec 32) => decide ((d.stew.requests[0]? = some (rqs (nth ws0 7) 0) ∧ msgOp (rqs (nth ws0 7) 0) = opAbort ∧ stewardUp d = true ∧ inTurn d 0 (rqs (nth ws0 7) 0) = true ∧ (ledgerOp opAbort = true → d.ledger.memState = 0 ∧ dirEn d = true) ∧ checkReq d (clip (rqs (nth ws0 7) 0)) 4 ((fun (x : Msg) => []) (clip (rqs (nth ws0 7) 0))) CtxUse.optional = none ∧ argsOk d (noArgs d (clip (rqs (nth ws0 7) 0))) = true) ∧ (ownItin d m = some (itinAt (nth ws0 7) 0)) ∧ ((itinAt (nth ws0 7) 0).state = ItinState.complete))))))) = true) ∧
    (withVal ((nth ws0 8).die) (fun (d : Die) => withVal (clip (rqs (nth ws0 8) 0)) (fun (m : Msg) => withVal (msgLE m 24 4) (fun (len : ℕ) => withVal (argRead d (msgLE m 16 8) len) (fun (l : List Byte) => withVal (BitVec.ofNat 32 (d.ident.dieNum.toNat * 2 ^ 30 + d.stew.serial.toNat + 1)) (fun (id : BitVec 32) => decide ((d.stew.requests[0]? = some (rqs (nth ws0 8) 0) ∧ msgOp (rqs (nth ws0 8) 0) = opAbort ∧ stewardUp d = true ∧ inTurn d 0 (rqs (nth ws0 8) 0) = true ∧ (ledgerOp opAbort = true → d.ledger.memState = 0 ∧ dirEn d = true) ∧ checkReq d (clip (rqs (nth ws0 8) 0)) 4 ((fun (x : Msg) => []) (clip (rqs (nth ws0 8) 0))) CtxUse.optional = none ∧ argsOk d (noArgs d (clip (rqs (nth ws0 8) 0))) = true) ∧ (ownItin d m = some (itinAt (nth ws0 8) 0)) ∧ (itinLive (itinAt (nth ws0 8) 0) = true) ∧ ((itinAt (nth ws0 8) 0).stopping = false) ∧ (livePeers d (itinAt (nth ws0 8) 0) = []))))))) = true) := by
  decide +kernel

theorem test_witness_ItineraryMessages_b :
    (withVal ((nth ws0 10).die) (fun (d : Die) => withVal (clip (rqs (nth ws0 10) 0)) (fun (m : Msg) => withVal (msgLE m 24 4) (fun (len : ℕ) => withVal (argRead d (msgLE m 16 8) len) (fun (l : List Byte) => withVal (BitVec.ofNat 32 (d.ident.dieNum.toNat * 2 ^ 30 + d.stew.serial.toNat + 1)) (fun (id : BitVec 32) => decide ((d.stew.requests[0]? = some (rqs (nth ws0 10) 0) ∧ msgOp (rqs (nth ws0 10) 0) = opQueryProgress ∧ stewardUp d = true ∧ inTurn d 0 (rqs (nth ws0 10) 0) = true ∧ (ledgerOp opQueryProgress = true → d.ledger.memState = 0 ∧ dirEn d = true) ∧ checkReq d (clip (rqs (nth ws0 10) 0)) 4 ((fun (x : Msg) => []) (clip (rqs (nth ws0 10) 0))) CtxUse.optional = none ∧ argsOk d (noArgs d (clip (rqs (nth ws0 10) 0))) = true) ∧ (ownItin d m = some (itinAt (nth ws0 10) 0)))))))) = true) := by
  decide +kernel

def ws1 : List State := e2_states

theorem test_witness_ItinerariesRun_ItinerariesAreAdmitted :
    (withVal ((nth ws1 0).die) (fun (d : Die) => decide ((findItin d 1#32 = some (itinAt (nth ws1 0) 0)) ∧ ((itinAt (nth ws1 0) 0).state = ItinState.queued) ∧ (homeDie 1#32 = d.ident.dieNum) ∧ ((itinAt (nth ws1 0) 0).asked = []) ∧ (Option.map (fun (x : Itin) => x.id) (waitingOn d (queueKey (itinAt (nth ws1 0) 0))).head? = some 1#32) ∧ (((itinPeers d (itinAt (nth ws1 0) 0)).any fun (p : BitVec 2) => d.link.fenced.getLsbD p.toNat) = false) ∧ ((itinAt (nth ws1 0) 0).replies = []) ∧ (blockers d (itinAt (nth ws1 0) 0) = false) ∧ ((hereCores d (itinAt (nth ws1 0) 0)).all (entryFits d) = true) ∧ (berthMoving d (itinAt (nth ws1 0) 0) = false) ∧ (partyBusy d ((itinAt (nth ws1 0) 0).parties.getD d.ident.dieNum.toNat 0).toNat = false) ∧ (shortfall d (itinAt (nth ws1 0) 0) = none) ∧ (itinPeers d (itinAt (nth ws1 0) 0) ≠ []))) = true) ∧
    (withVal ((nth ws1 0).die) (fun (d : Die) => decide ((∀ (j : Itin), findItin d 0#32 = some j → (queueKey j).2 ≠ 0#16))) = true) ∧
    (withVal ((nth ws1 2).die) (fun (d : Die) => decide ((findItin d 1#32 = some (itinAt (nth ws1 2) 0)) ∧ ((itinAt (nth ws1 2) 0).state = ItinState.queued) ∧ (homeDie 1#32 = d.ident.dieNum) ∧ ((itinAt (nth ws1 2) 0).asked = []) ∧ (Option.map (fun (x : Itin) => x.id) (waitingOn d (queueKey (itinAt (nth ws1 2) 0))).head? = some 1#32) ∧ (((itinPeers d (itinAt (nth ws1 2) 0)).any fun (p : BitVec 2) => d.link.fenced.getLsbD p.toNat) = false) ∧ ((itinAt (nth ws1 2) 0).replies ≠ []) ∧ (refusal (itinAt (nth ws1 2) 0) = some (1029#16, 64)))) = true) ∧
    (withVal ((nth ws1 5).die) (fun (d : Die) => decide ((findItin d 1#32 = some (itinAt (nth ws1 5) 0)) ∧ ((itinAt (nth ws1 5) 0).state = ItinState.queued) ∧ (homeDie 1#32 = d.ident.dieNum) ∧ ((itinAt (nth ws1 5) 0).asked = []) ∧ (Option.map (fun (x : Itin) => x.id) (waitingOn d (queueKey (itinAt (nth ws1 5) 0))).head? = some 1#32) ∧ (((itinPeers d (itinAt (nth ws1 5) 0)).any fun (p : BitVec 2) => d.link.fenced.getLsbD p.toNat) = false) ∧ ((itinAt (nth ws1 5) 0).replies = []) ∧ (blockers d (itinAt (nth ws1 5) 0) = false) ∧ ((hereCores d (itinAt (nth ws1 5) 0)).all (entryFits d) = true) ∧ (berthMoving d (itinAt (nth ws1 5) 0) = false) ∧ (partyBusy d ((itinAt (nth ws1 5) 0).parties.getD d.ident.dieNum.toNat 0).toNat = false) ∧ (shortfall d (itinAt (nth ws1 5) 0) = none) ∧ (itinPeers d (itinAt (nth ws1 5) 0) = []) ∧ (List.Pairwise (fun (a b : ItinCore) => a.core ≠ b.core ∨ a.half = HalfSel.h0 ∧ b.half = HalfSel.h1 ∨ a.half = HalfSel.h1 ∧ b.half = HalfSel.h0) (hereCores d (itinAt (nth ws1 5) 0))))) = true) ∧
    (withVal ((nth ws1 6).die) (fun (d : Die) => decide ((findItin d 1#32 = some (itinAt (nth ws1 6) 0)) ∧ ((itinAt (nth ws1 6) 0).state = ItinState.queued) ∧ (homeDie 1#32 = d.ident.dieNum) ∧ ((itinAt (nth ws1 6) 0).asked = []) ∧ (Option.map (fun (x : Itin) => x.id) (waitingOn d (queueKey (itinAt (nth ws1 6) 0))).head? = some 1#32) ∧ (((itinPeers d (itinAt (nth ws1 6) 0)).any fun (p : BitVec 2) => d.link.fenced.getLsbD p.toNat) = false) ∧ ((itinAt (nth ws1 6) 0).replies = []) ∧ (blockers d (itinAt (nth ws1 6) 0) = false) ∧ ((hereCores d (itinAt (nth ws1 6) 0)).all (entryFits d) = true) ∧ (berthMoving d (itinAt (nth ws1 6) 0) = false) ∧ (partyBusy d ((itinAt (nth ws1 6) 0).parties.getD d.ident.dieNum.toNat 0).toNat = false) ∧ (shortfall d (itinAt (nth ws1 6) 0) = some (0#9, 33029632)))) = true) := by
  decide +kernel

def ws2 : List State := e2_states

theorem test_witness_ItinerariesRun_ItinerariesEnd :
    (withVal ((nth ws2 3).die) (fun (d : Die) => decide ((findItin d 1#32 = some (itinAt (nth ws2 3) 0)) ∧ ((itinAt (nth ws2 3) 0).state = ItinState.running) ∧ (homeDie 1#32 = d.ident.dieNum) ∧ ((itinAt (nth ws2 3) 0).stopping = false) ∧ ((itinAt (nth ws2 3) 0).reason ≠ 0) ∧ (livePeers d (itinAt (nth ws2 3) 0) ≠ []))) = true) ∧
    (withVal ((nth ws2 4).die) (fun (d : Die) => decide ((findItin d 1#32 = some (itinAt (nth ws2 4) 0)) ∧ ((itinAt (nth ws2 4) 0).state = ItinState.running) ∧ (homeDie 1#32 = d.ident.dieNum) ∧ ((itinAt (nth ws2 4) 0).stopping = false) ∧ ((itinAt (nth ws2 4) 0).timeLimit ≠ 0) ∧ (livePeers d (itinAt (nth ws2 4) 0) ≠ []))) = true) ∧
    (withVal ((nth ws2 7).die) (fun (d : Die) => decide ((findItin d 1#32 = some (itinAt (nth ws2 7) 0)) ∧ ((itinAt (nth ws2 7) 0).state = ItinState.running) ∧ (homeDie 1#32 = d.ident.dieNum) ∧ ((itinAt (nth ws2 7) 0).stopping = false) ∧ ((itinAt (nth ws2 7) 0).reason = 0) ∧ (allHalted (itinAt (nth ws2 7) 0) = true))) = true) ∧
    (withVal ((nth ws2 8).die) (fun (d : Die) => decide ((findItin d 1#32 = some (itinAt (nth ws2 8) 0)) ∧ ((itinAt (nth ws2 8) 0).state = ItinState.running) ∧ (homeDie 1#32 = d.ident.dieNum) ∧ ((itinAt (nth ws2 8) 0).stopping = false) ∧ ((itinAt (nth ws2 8) 0).reason ≠ 0) ∧ (livePeers d (itinAt (nth ws2 8) 0) = []))) = true) ∧
    (withVal ((nth ws2 9).die) (fun (d : Die) => decide ((findItin d 1#32 = some (itinAt (nth ws2 9) 0)) ∧ ((itinAt (nth ws2 9) 0).state = ItinState.running) ∧ (homeDie 1#32 = d.ident.dieNum) ∧ ((itinAt (nth ws2 9) 0).stopping = false) ∧ ((itinAt (nth ws2 9) 0).timeLimit ≠ 0) ∧ (livePeers d (itinAt (nth ws2 9) 0) = []))) = true) ∧
    (withVal ((nth ws2 11).die) (fun (d : Die) => decide ((findItin d 1073741825#32 = some (itinAt (nth ws2 11) 0)) ∧ ((itinAt (nth ws2 11) 0).state = ItinState.running) ∧ (homeDie 1073741825#32 ≠ d.ident.dieNum) ∧ (List.find? (fun (p : CoreId × Bool) => (threadAt d p.1 p.2).run == Run.faulted) (itinThreads d (itinAt (nth ws2 11) 0)) = some (0#9, false)))) = true) ∧
    (withVal ((nth ws2 12).die) (fun (d : Die) => decide ((findItin d 1#32 = some (itinAt (nth ws2 12) 0)) ∧ ((itinAt (nth ws2 12) 0).state = ItinState.aborted) ∧ ((itinAt (nth ws2 12) 0).settled = false) ∧ (linksAgree d (itinAt (nth ws2 12) 0) = true))) = true) := by
  decide +kernel


end Wh5

namespace Wh5b

def P (l : List (BitVec 12 × BitVec 512)) (d : Die) : Die := { d with stew := { d.stew with parties := l } }
def base : Die := P [(5, 3)] ledDie
def ce0 : ItinCore := ⟨0, 0, .full, true, false, 0x20, 8, [(3, false, 99), (33, true, 0x40)], [], false, false⟩
def iq : Itin := { itin0 with state := .queued, parties := [5,0,0,0], cores := [ce0, { ce0 with core := 1, half := .h0 }], links := [], rings := [] }
def SI (l : List Itin) (d : Die := base) : State := stateOf (withItins l d)
def b2 : Die := setCore (setCore base 0 { Core.reset with portReset := false }) 1 { Core.reset with portReset := false }
def e3_states : List State := [SI [iq] b2, SI [{ iq with cores := [{ ce0 with half := .h0 }, { ce0 with half := .h1, core := 0 }] }] b2, SI [{ iq with cores := [{ ce0 with work := 0xFFFF }] }] b2]
def ws0 : List State := e3_states

theorem test_witness_ItinerariesRun_ItinerariesAreAdmitted_2 :
    (withVal ((nth ws0 0).die) (fun (d : Die) => decide ((findItin d 1#32 = some (itinAt (nth ws0 0) 0)) ∧ ((itinAt (nth ws0 0) 0).state = ItinState.queued) ∧ (homeDie 1#32 = d.ident.dieNum) ∧ ((itinAt (nth ws0 0) 0).asked = []) ∧ (Option.map (fun (x : Itin) => x.id) (waitingOn d (queueKey (itinAt (nth ws0 0) 0))).head? = some 1#32) ∧ (((itinPeers d (itinAt (nth ws0 0) 0)).any fun (p : BitVec 2) => d.link.fenced.getLsbD p.toNat) = false) ∧ ((itinAt (nth ws0 0) 0).replies = []) ∧ (blockers d (itinAt (nth ws0 0) 0) = false) ∧ ((hereCores d (itinAt (nth ws0 0) 0)).all (entryFits d) = true) ∧ (berthMoving d (itinAt (nth ws0 0) 0) = false) ∧ (partyBusy d ((itinAt (nth ws0 0) 0).parties.getD d.ident.dieNum.toNat 0).toNat = false) ∧ (shortfall d (itinAt (nth ws0 0) 0) = none) ∧ (itinPeers d (itinAt (nth ws0 0) 0) = []) ∧ (List.Pairwise (fun (a b : ItinCore) => a.core ≠ b.core ∨ a.half = HalfSel.h0 ∧ b.half = HalfSel.h1 ∨ a.half = HalfSel.h1 ∧ b.half = HalfSel.h0) (hereCores d (itinAt (nth ws0 0) 0))))) = true) ∧
    (withVal ((nth ws0 0).die) (fun (d : Die) => decide ((∀ (j : Itin), findItin d 0#32 = some j → (queueKey j).2 ≠ 0#16))) = true) ∧
    (withVal ((nth ws0 2).die) (fun (d : Die) => decide ((findItin d 1#32 = some (itinAt (nth ws0 2) 0)) ∧ ((itinAt (nth ws0 2) 0).state = ItinState.queued) ∧ (homeDie 1#32 = d.ident.dieNum) ∧ ((itinAt (nth ws0 2) 0).asked = []) ∧ (Option.map (fun (x : Itin) => x.id) (waitingOn d (queueKey (itinAt (nth ws0 2) 0))).head? = some 1#32) ∧ (((itinPeers d (itinAt (nth ws0 2) 0)).any fun (p : BitVec 2) => d.link.fenced.getLsbD p.toNat) = false) ∧ ((itinAt (nth ws0 2) 0).replies = []) ∧ (blockers d (itinAt (nth ws0 2) 0) = false) ∧ ((hereCores d (itinAt (nth ws0 2) 0)).all (entryFits d) = true) ∧ (berthMoving d (itinAt (nth ws0 2) 0) = false) ∧ (partyBusy d ((itinAt (nth ws0 2) 0).parties.getD d.ident.dieNum.toNat 0).toNat = false) ∧ (shortfall d (itinAt (nth ws0 2) 0) = some (0#9, 33029632)))) = true) := by
  decide +kernel


end Wh5b

namespace Wh6

def S (m : Msg) (d : Die) : State := stateOf (withReqs [m] d)
def few (d : Die) : Die := { d with ident := { d.ident with coreEn := 3 } }
def base : Die := few (ledDie upDie [0xC0000000000000000000000000000000, ent 1 1 0x800000, ent 2 1 3, 0xC0000000000000000000000000000000])
def al (i n tier cls core : Nat) : Msg := mkMsg opBerthAlloc 0x10001 (payl 14 [(0,4,i),(4,4,n),(8,1,tier),(9,1,cls),(12,2,core)])
def fr (i n : Nat) : Msg := mkMsg opBerthFree 0x10001 (payl 8 [(0,4,i),(4,4,n)])
def mvm (i n tier : Nat) : Msg := mkMsg opBerthMove 0x10001 (payl 14 [(0,4,i),(4,4,n),(8,1,tier),(12,2,0xFFFF)])
def qy (i n : Nat) : Msg := mkMsg opLedgerQuery 0x10001 (payl 16 [(0,4,i),(4,4,n)])
def sts : List State := [S (al 0 1 1 3 0xFFFF) base, S (al 3 1 0 2 1) base, S (al 0 1 2 2 0xFFFF) base, S (fr 0 3) base, S (fr 1 1) { base with ledger := { base.ledger with holds := [⟨0x10001000001, 1, 0x800000, false, 1, none⟩] } }, S (al 0 1 1 3 0xFFFF) { base with ledger := { base.ledger with poolBerths := 0 } }, S (mvm 1 2 0) base, S (qy 0 4) base]
def res (s : State) : List Die := match s.die.stew.requests with
  | m0 :: _ => let m := clip m0; match liveCtx s.die (msgCtx m) with
    | some e => (allocAll m ((askedCore s.die m).getD none) 0 (namedBerths m e) s.die).toList
    | none => []
  | _ => []
def e1_states : List State := sts
def ms (op : Nat) (p : List Byte) : Msg := mkMsg op 0 p
def tly (d : Die) : Die := { d with tally := { d.tally with counts := [(5, 0xFFFFFFFF)] }, power := { d.power with maxOp := 5 } }
def rec0 (d : Die) : Die := { d with flash := memWrite d.flash 0 (leBytes 4 0x52434B5A ++ leBytes 2 1 ++ leBytes 2 0 ++ leBytes 8 (dieSerial d)) }
def e2_states : List State := [S (ms opSetPhaseOp (payl 2 [(0,1,3),(1,1,7)])) (tly ledDie), S (ms opPowerStatus []) (tly ledDie)] ++
   [0,1,2].map (fun k => S (ms opTally (payl 8 [(0,1,k),(2,2,5),(4,4,3)])) (tly ledDie)) ++
   [S (ms opTally (payl 8 [(0,1,2),(2,2,5)])) (tly ledDie)] ++ [S (ms opCalRead (payl 16 [(0,1,1),(4,4,16),(8,8,0x600000)])) (tly ledDie), S (ms opCalWrite (payl 16 [(0,1,1),(4,4,16),(8,8,0x600000)])) (rec0 { tly ledDie with pkg := memFill ledDie.pkg 0x600000 16 (fun i => BitVec.ofNat 8 (i+1)) }), S (ms opDiag (payl 30 [(20,4,0x1234)])) ledDie]
def cons1 (d : Die) : Die := { d with flt := { d.flt with issued := [(0, 5), (3, 9), (8, 2)], returned := [(0, 5), (3, 9)], log := [[1,2],[3]] }, ident := { d.ident with coreEn := 3 } }
def e3_states : List State := [stateOf (cons1 upDie), stateOf (cons1 ledDie), S (ms opDiag (payl 16 [(0,2,1),(8,8,0x600000)])) (cons1 ledDie), S (ms opDiag (payl 16 [(0,2,2),(8,8,0x600000)])) (cons1 ledDie)]
def ws0 : List State := e1_states

theorem test_witness_BerthMessages :
    (withVal ((nth ws0 3).die) (fun (d : Die) => withVal (clip (rqs (nth ws0 3) 0)) (fun (m : Msg) => withVal (namedBerths m 1993841993677392698821642069004517376#128) (fun (bs : List (BitVec 48 × ℕ)) => decide ((d.stew.requests[0]? = some (rqs (nth ws0 3) 0) ∧ msgOp (rqs (nth ws0 3) 0) = opBerthFree ∧ stewardUp d = true ∧ inTurn d 0 (rqs (nth ws0 3) 0) = true ∧ (ledgerOp opBerthFree = true → d.ledger.memState = 0 ∧ dirEn d = true) ∧ checkReq d (clip (rqs (nth ws0 3) 0)) 8 ((fun (x : Msg) => []) (clip (rqs (nth ws0 3) 0))) CtxUse.berths = none ∧ argsOk d (noArgs d (clip (rqs (nth ws0 3) 0))) = true) ∧ (liveCtx d (msgCtx m) = some 1993841993677392698821642069004517376#128) ∧ (rangeBad m 1993841993677392698821642069004517376#128 = none) ∧ (bs.any (freeWaits d) = false))))) = true) ∧
    (withVal ((nth ws0 4).die) (fun (d : Die) => withVal (clip (rqs (nth ws0 4) 0)) (fun (m : Msg) => withVal (namedBerths m 1993841993677392698821642069004517376#128) (fun (bs : List (BitVec 48 × ℕ)) => decide ((d.stew.requests[0]? = some (rqs (nth ws0 4) 0) ∧ msgOp (rqs (nth ws0 4) 0) = opBerthFree ∧ stewardUp d = true ∧ inTurn d 0 (rqs (nth ws0 4) 0) = true ∧ (ledgerOp opBerthFree = true → d.ledger.memState = 0 ∧ dirEn d = true) ∧ checkReq d (clip (rqs (nth ws0 4) 0)) 8 ((fun (x : Msg) => []) (clip (rqs (nth ws0 4) 0))) CtxUse.berths = none ∧ argsOk d (noArgs d (clip (rqs (nth ws0 4) 0))) = true) ∧ (liveCtx d (msgCtx m) = some 1993841993677392698821642069004517376#128) ∧ (rangeBad m 1993841993677392698821642069004517376#128 = none) ∧ (bs.any (freeWaits d) = true))))) = true) ∧
    (withVal ((nth ws0 5).die) (fun (d : Die) => withVal (clip (rqs (nth ws0 5) 0)) (fun (m : Msg) => withVal (namedBerths m 1993841993677392698821642069004517376#128) (fun (bs : List (BitVec 48 × ℕ)) => decide ((d.stew.requests[0]? = some (rqs (nth ws0 5) 0) ∧ msgOp (rqs (nth ws0 5) 0) = opBerthAlloc ∧ stewardUp d = true ∧ inTurn d 0 (rqs (nth ws0 5) 0) = true ∧ (ledgerOp opBerthAlloc = true → d.ledger.memState = 0 ∧ dirEn d = true) ∧ checkReq d (clip (rqs (nth ws0 5) 0)) 14 (allocBad (clip (rqs (nth ws0 5) 0))) CtxUse.berths = none ∧ argsOk d (noArgs d (clip (rqs (nth ws0 5) 0))) = true) ∧ (liveCtx d (msgCtx m) = some 1993841993677392698821642069004517376#128) ∧ (rangeBad m 1993841993677392698821642069004517376#128 = none) ∧ (∀ p ∈ bs, uncommitted d p.2 = false ∧ entState (pkg128 d p.2) ≠ stValid ∧ entState (pkg128 d p.2) ≠ stMoving ∧ ¬(entState (pkg128 d p.2) = stLost ∧ moving d p.2 = true)) ∧ (msgByte m 24 = 0 → (askedCore d m).isSome = true) ∧ (allocAll m ((askedCore d m).getD none) 0 bs d = none))))) = true) ∧
    (withVal ((nth ws0 6).die) (fun (d : Die) => withVal (clip (rqs (nth ws0 6) 0)) (fun (m : Msg) => withVal (BitVec.ofNat 24 (msgCtx m)) (fun (ctx : BitVec 24) => decide ((d.stew.requests[0]? = some (rqs (nth ws0 6) 0) ∧ msgOp (rqs (nth ws0 6) 0) = opBerthMove ∧ stewardUp d = true ∧ inTurn d 0 (rqs (nth ws0 6) 0) = true ∧ (ledgerOp opBerthMove = true → d.ledger.memState = 0 ∧ dirEn d = true) ∧ checkReq d (clip (rqs (nth ws0 6) 0)) 14 (moveBad (clip (rqs (nth ws0 6) 0))) CtxUse.berths = none ∧ argsOk d (noArgs d (clip (rqs (nth ws0 6) 0))) = true) ∧ (liveCtx d (msgCtx m) = some 1993841993677392698821642069004517376#128) ∧ (rangeBad m 1993841993677392698821642069004517376#128 = none) ∧ ((d.ledger.jobs.any fun (j : MoveJob) => j.ctx == ctx) = false) ∧ (countIdx m ≠ 0) ∧ (askedCore d m = some none))))) = true) ∧
    (withVal ((nth ws0 7).die) (fun (d : Die) => withVal (clip (rqs (nth ws0 7) 0)) (fun (m : Msg) => withVal (namedBerths m 1993841993677392698821642069004517376#128) (fun (bs : List (BitVec 48 × ℕ)) => decide ((d.stew.requests[0]? = some (rqs (nth ws0 7) 0) ∧ msgOp (rqs (nth ws0 7) 0) = opLedgerQuery ∧ stewardUp d = true ∧ inTurn d 0 (rqs (nth ws0 7) 0) = true ∧ (ledgerOp opLedgerQuery = true → d.ledger.memState = 0 ∧ dirEn d = true) ∧ checkReq d (clip (rqs (nth ws0 7) 0)) 16 (queryBad (clip (rqs (nth ws0 7) 0))) CtxUse.berths = none ∧ argsOk d (queryArgs d (clip (rqs (nth ws0 7) 0))) = true) ∧ (liveCtx d (msgCtx m) = some 1993841993677392698821642069004517376#128) ∧ (rangeBad m 1993841993677392698821642069004517376#128 = none) ∧ (msgLE m 24 8 = 0) ∧ (∀ p ∈ bs, uncommitted d p.2 = false))))) = true) := by
  decide +kernel

def ws1 : List State := e2_states

theorem test_witness_ServiceMessages :
    (withVal ((nth ws1 0).die) (fun (d : Die) => withVal (clip (rqs (nth ws1 0) 0)) (fun (m : Msg) => withVal (BitVec.ofNat 16 (msgLE m 18 2)) (fun (index : BitVec 16) => decide ((d.stew.requests[0]? = some (rqs (nth ws1 0) 0) ∧ msgOp (rqs (nth ws1 0) 0) = opSetPhaseOp ∧ stewardUp d = true ∧ inTurn d 0 (rqs (nth ws1 0) 0) = true ∧ (ledgerOp opSetPhaseOp = true → d.ledger.memState = 0 ∧ dirEn d = true) ∧ checkReq d (clip (rqs (nth ws1 0) 0)) 2 (phaseOpBad (clip (rqs (nth ws1 0) 0))) CtxUse.none = none ∧ argsOk d (noArgs d (clip (rqs (nth ws1 0) 0))) = true))))) = true) ∧
    (withVal ((nth ws1 1).die) (fun (d : Die) => withVal (clip (rqs (nth ws1 1) 0)) (fun (m : Msg) => withVal (BitVec.ofNat 16 (msgLE m 18 2)) (fun (index : BitVec 16) => decide ((d.stew.requests[0]? = some (rqs (nth ws1 1) 0) ∧ msgOp (rqs (nth ws1 1) 0) = opPowerStatus ∧ stewardUp d = true ∧ inTurn d 0 (rqs (nth ws1 1) 0) = true ∧ (ledgerOp opPowerStatus = true → d.ledger.memState = 0 ∧ dirEn d = true) ∧ checkReq d (clip (rqs (nth ws1 1) 0)) 0 ((fun (x : Msg) => []) (clip (rqs (nth ws1 1) 0))) CtxUse.none = none ∧ argsOk d (noArgs d (clip (rqs (nth ws1 1) 0))) = true))))) = true) ∧
    (withVal ((nth ws1 2).die) (fun (d : Die) => withVal (clip (rqs (nth ws1 2) 0)) (fun (m : Msg) => withVal (BitVec.ofNat 16 (msgLE m 18 2)) (fun (index : BitVec 16) => decide ((tallySub m = 0) ∧ (d.stew.requests[0]? = some (rqs (nth ws1 2) 0) ∧ msgOp (rqs (nth ws1 2) 0) = opTally ∧ stewardUp d = true ∧ inTurn d 0 (rqs (nth ws1 2) 0) = true ∧ (ledgerOp opTally = true → d.ledger.memState = 0 ∧ dirEn d = true) ∧ checkReq d (clip (rqs (nth ws1 2) 0)) 8 (tallyBad (clip (rqs (nth ws1 2) 0))) CtxUse.none = none ∧ argsOk d (noArgs d (clip (rqs (nth ws1 2) 0))) = true))))) = true) ∧
    (withVal ((nth ws1 3).die) (fun (d : Die) => withVal (clip (rqs (nth ws1 3) 0)) (fun (m : Msg) => withVal (BitVec.ofNat 16 (msgLE m 18 2)) (fun (index : BitVec 16) => decide ((tallySub m = 1) ∧ (d.stew.requests[0]? = some (rqs (nth ws1 3) 0) ∧ msgOp (rqs (nth ws1 3) 0) = opTally ∧ stewardUp d = true ∧ inTurn d 0 (rqs (nth ws1 3) 0) = true ∧ (ledgerOp opTally = true → d.ledger.memState = 0 ∧ dirEn d = true) ∧ checkReq d (clip (rqs (nth ws1 3) 0)) 8 (tallyBad (clip (rqs (nth ws1 3) 0))) CtxUse.none = none ∧ argsOk d (noArgs d (clip (rqs (nth ws1 3) 0))) = true))))) = true) ∧
    (withVal ((nth ws1 5).die) (fun (d : Die) => withVal (clip (rqs (nth ws1 5) 0)) (fun (m : Msg) => withVal (BitVec.ofNat 16 (msgLE m 18 2)) (fun (index : BitVec 16) => decide ((tallySub m = 2) ∧ (d.stew.requests[0]? = some (rqs (nth ws1 5) 0) ∧ msgOp (rqs (nth ws1 5) 0) = opTally ∧ stewardUp d = true ∧ inTurn d 0 (rqs (nth ws1 5) 0) = true ∧ (ledgerOp opTally = true → d.ledger.memState = 0 ∧ dirEn d = true) ∧ checkReq d (clip (rqs (nth ws1 5) 0)) 8 (tallyBad (clip (rqs (nth ws1 5) 0))) CtxUse.none = none ∧ argsOk d (noArgs d (clip (rqs (nth ws1 5) 0))) = true))))) = true) ∧
    (withVal ((nth ws1 6).die) (fun (d : Die) => withVal (clip (rqs (nth ws1 6) 0)) (fun (m : Msg) => withVal (BitVec.ofNat 16 (msgLE m 18 2)) (fun (index : BitVec 16) => decide ((d.stew.requests[0]? = some (rqs (nth ws1 6) 0) ∧ msgOp (rqs (nth ws1 6) 0) = opCalRead ∧ stewardUp d = true ∧ inTurn d 0 (rqs (nth ws1 6) 0) = true ∧ (ledgerOp opCalRead = true → d.ledger.memState = 0 ∧ dirEn d = true) ∧ checkReq d (clip (rqs (nth ws1 6) 0)) 16 (calBad (clip (rqs (nth ws1 6) 0))) CtxUse.none = none ∧ argsOk d (calReadArgs d (clip (rqs (nth ws1 6) 0))) = true))))) = true) ∧
    (withVal ((nth ws1 7).die) (fun (d : Die) => withVal (clip (rqs (nth ws1 7) 0)) (fun (m : Msg) => withVal (BitVec.ofNat 16 (msgLE m 18 2)) (fun (index : BitVec 16) => decide ((d.stew.requests[0]? = some (rqs (nth ws1 7) 0) ∧ msgOp (rqs (nth ws1 7) 0) = opCalWrite ∧ stewardUp d = true ∧ inTurn d 0 (rqs (nth ws1 7) 0) = true ∧ (ledgerOp opCalWrite = true → d.ledger.memState = 0 ∧ dirEn d = true) ∧ checkReq d (clip (rqs (nth ws1 7) 0)) 16 (calWriteBad (clip (rqs (nth ws1 7) 0))) CtxUse.none = none ∧ argsOk d (calWriteArgs d (clip (rqs (nth ws1 7) 0))) = true) ∧ (recordOk d = true))))) = true) ∧
    (withVal ((nth ws1 8).die) (fun (d : Die) => withVal (clip (rqs (nth ws1 8) 0)) (fun (m : Msg) => withVal (BitVec.ofNat 16 (msgLE m 18 2)) (fun (index : BitVec 16) => decide ((diagSub m = 0) ∧ (d.stew.requests[0]? = some (rqs (nth ws1 8) 0) ∧ msgOp (rqs (nth ws1 8) 0) = opDiag ∧ stewardUp d = true ∧ inTurn d 0 (rqs (nth ws1 8) 0) = true ∧ (ledgerOp opDiag = true → d.ledger.memState = 0 ∧ dirEn d = true) ∧ checkReq d (clip (rqs (nth ws1 8) 0)) 16 (diagBad (clip (rqs (nth ws1 8) 0))) CtxUse.none = none ∧ argsOk d (noArgs d (clip (rqs (nth ws1 8) 0))) = true))))) = true) := by
  decide +kernel

def ws2 : List State := e3_states

theorem test_witness_ConservationCounts :
    (withVal ((nth ws2 0).die) (fun (d : Die) => decide ((stewardUp d = true) ∧ (false = true → dieQuiet d = true))) = true) ∧
    (withVal ((nth ws2 0).die) (fun (d : Die) => decide ((inReset d = false))) = true) ∧
    (withVal ((nth ws2 2).die) (fun (d : Die) => withVal (clip (rqs (nth ws2 2) 0)) (fun (m : Msg) => decide ((diagSub m = 1) ∧ (d.stew.requests[0]? = some (rqs (nth ws2 2) 0) ∧ msgOp (rqs (nth ws2 2) 0) = opDiag ∧ stewardUp d = true ∧ inTurn d 0 (rqs (nth ws2 2) 0) = true ∧ (ledgerOp opDiag = true → d.ledger.memState = 0 ∧ dirEn d = true) ∧ checkReq d (clip (rqs (nth ws2 2) 0)) 16 (diagBad (clip (rqs (nth ws2 2) 0))) CtxUse.none = none ∧ argsOk d (countersArgs d (clip (rqs (nth ws2 2) 0))) = true)))) = true) ∧
    (withVal ((nth ws2 3).die) (fun (d : Die) => withVal (clip (rqs (nth ws2 3) 0)) (fun (m : Msg) => decide ((diagSub m = 2) ∧ (d.stew.requests[0]? = some (rqs (nth ws2 3) 0) ∧ msgOp (rqs (nth ws2 3) 0) = opDiag ∧ stewardUp d = true ∧ inTurn d 0 (rqs (nth ws2 3) 0) = true ∧ (ledgerOp opDiag = true → d.ledger.memState = 0 ∧ dirEn d = true) ∧ checkReq d (clip (rqs (nth ws2 3) 0)) 16 (diagBad (clip (rqs (nth ws2 3) 0))) CtxUse.none = none ∧ argsOk d (logArgs d (clip (rqs (nth ws2 3) 0))) = true)))) = true) := by
  decide +kernel


end Wh6

namespace Wh6b

def S (m : Msg) (d : Die) : State := stateOf (withReqs [m] d)
def few (d : Die) : Die := { d with ident := { d.ident with coreEn := 3 } }
def base : Die := few (ledDie upDie [0xC0000000000000000000000000000000, ent 1 1 0x800000, ent 2 1 3, 0xC0000000000000000000000000000000])
def al (i n tier cls core : Nat) : Msg := mkMsg opBerthAlloc 0x10001 (payl 14 [(0,4,i),(4,4,n),(8,1,tier),(9,1,cls),(12,2,core)])
def ms (op : Nat) (p : List Byte) : Msg := mkMsg op 0 p
def tly (d : Die) : Die := { d with tally := { d.tally with counts := [(5, 0xFFFFFFFF)] }, power := { d.power with maxOp := 5 } }
def fl (d : Die) : Die := { d with flash := memWrite [] 0 (leBytes 4 0x52434B5A ++ leBytes 2 1) }
def cons1 (d : Die) : Die := { d with flt := { d.flt with issued := [(0, 5), (3, 9), (8, 2)], returned := [(0, 5), (3, 9)], log := [[1,2],[3]] }, ident := { d.ident with coreEn := 3 } }
def sc : State := S (ms opDiag (payl 16 [(0,2,1),(8,8,0x600000)])) (cons1 ledDie)
def ws0 : List State := [S (al 0 1 1 3 0xFFFF) { base with ledger := { base.ledger with poolBerths := 0 } }]

theorem test_witness_BerthMessages_2 :
    (withVal ((nth ws0 0).die) (fun (d : Die) => withVal (clip (rqs (nth ws0 0) 0)) (fun (m : Msg) => withVal (namedBerths m 1993841993677392698821642069004517376#128) (fun (bs : List (BitVec 48 × ℕ)) => decide ((d.stew.requests[0]? = some (rqs (nth ws0 0) 0) ∧ msgOp (rqs (nth ws0 0) 0) = opBerthAlloc ∧ stewardUp d = true ∧ inTurn d 0 (rqs (nth ws0 0) 0) = true ∧ (ledgerOp opBerthAlloc = true → d.ledger.memState = 0 ∧ dirEn d = true) ∧ checkReq d (clip (rqs (nth ws0 0) 0)) 14 (allocBad (clip (rqs (nth ws0 0) 0))) CtxUse.berths = none ∧ argsOk d (noArgs d (clip (rqs (nth ws0 0) 0))) = true) ∧ (liveCtx d (msgCtx m) = some 1993841993677392698821642069004517376#128) ∧ (rangeBad m 1993841993677392698821642069004517376#128 = none) ∧ (∀ p ∈ bs, uncommitted d p.2 = false ∧ entState (pkg128 d p.2) ≠ stValid ∧ entState (pkg128 d p.2) ≠ stMoving ∧ ¬(entState (pkg128 d p.2) = stLost ∧ moving d p.2 = true)) ∧ (msgByte m 24 = 0 → (askedCore d m).isSome = true) ∧ (allocAll m ((askedCore d m).getD none) 0 bs d = none))))) = true) := by
  decide +kernel

def ws1 : List State := [S (ms opTally (payl 8 [(0,1,2),(2,2,5),(4,4,0)])) (tly ledDie), S (ms opCalWrite (payl 16 [(0,1,1),(4,4,16),(8,8,0x600000)])) (fl { tly ledDie with pkg := memFill ledDie.pkg 0x600000 16 (fun i => BitVec.ofNat 8 (i+1)) })]

theorem test_witness_ServiceMessages_2 :
    (withVal ((nth ws1 0).die) (fun (d : Die) => withVal (clip (rqs (nth ws1 0) 0)) (fun (m : Msg) => withVal (BitVec.ofNat 16 (msgLE m 18 2)) (fun (index : BitVec 16) => decide ((tallySub m = 2) ∧ (d.stew.requests[0]? = some (rqs (nth ws1 0) 0) ∧ msgOp (rqs (nth ws1 0) 0) = opTally ∧ stewardUp d = true ∧ inTurn d 0 (rqs (nth ws1 0) 0) = true ∧ (ledgerOp opTally = true → d.ledger.memState = 0 ∧ dirEn d = true) ∧ checkReq d (clip (rqs (nth ws1 0) 0)) 8 (tallyBad (clip (rqs (nth ws1 0) 0))) CtxUse.none = none ∧ argsOk d (noArgs d (clip (rqs (nth ws1 0) 0))) = true))))) = true) ∧
    (withVal ((nth ws1 1).die) (fun (d : Die) => withVal (clip (rqs (nth ws1 1) 0)) (fun (m : Msg) => withVal (BitVec.ofNat 16 (msgLE m 18 2)) (fun (index : BitVec 16) => decide ((d.stew.requests[0]? = some (rqs (nth ws1 1) 0) ∧ msgOp (rqs (nth ws1 1) 0) = opCalWrite ∧ stewardUp d = true ∧ inTurn d 0 (rqs (nth ws1 1) 0) = true ∧ (ledgerOp opCalWrite = true → d.ledger.memState = 0 ∧ dirEn d = true) ∧ checkReq d (clip (rqs (nth ws1 1) 0)) 16 (calWriteBad (clip (rqs (nth ws1 1) 0))) CtxUse.none = none ∧ argsOk d (calWriteArgs d (clip (rqs (nth ws1 1) 0))) = true) ∧ (recordOk d = true))))) = true) := by
  decide +kernel

def ws2 : List State := [sc]

theorem test_witness_ConservationCounts_2 :
    (withVal ((nth ws2 0).die) (fun (d : Die) => withVal (clip (rqs (nth ws2 0) 0)) (fun (m : Msg) => decide ((diagSub m = 1) ∧ (d.stew.requests[0]? = some (rqs (nth ws2 0) 0) ∧ msgOp (rqs (nth ws2 0) 0) = opDiag ∧ stewardUp d = true ∧ inTurn d 0 (rqs (nth ws2 0) 0) = true ∧ (ledgerOp opDiag = true → d.ledger.memState = 0 ∧ dirEn d = true) ∧ checkReq d (clip (rqs (nth ws2 0) 0)) 16 (diagBad (clip (rqs (nth ws2 0) 0))) CtxUse.none = none ∧ argsOk d (countersArgs d (clip (rqs (nth ws2 0) 0))) = true)))) = true) ∧
    (withVal ((nth ws2 0).die) (fun (d : Die) => decide ((stewardUp d = true) ∧ (false = true → dieQuiet d = true))) = true) ∧
    (withVal ((nth ws2 0).die) (fun (d : Die) => decide ((inReset d = false))) = true) := by
  decide +kernel


end Wh6b

namespace Wi2

def lr : LineReq := ⟨0, 0, 0, true, 0x900000, 5, 64, 0x80, 3, 0, none⟩
def xc (rst : Bool) : Core := { Core.reset with portReset := rst, portParty := 3, portEpoch := 1, lines := [lr], writes := [⟨1, 0, true, 0x900000, 7, [1], 4, 0, none⟩] }
def D (rst : Bool) : Die := setCore (memAt upDie (storeBase 1) 64 3) 1 (xc rst)
def e1_states : List State := [stateOf (D true), stateOf (D false), stateOf { D true with boot := { upDie.boot with porst := true } }]
def ws0 : List State := e1_states

theorem test_witness_MeshPacketsDelivered :
    (({ cls := 3#2, lenm1 := 0#4, typ := 6#4, dest := 1913#12, src := 24#12, party := 0#12, epoch := 0#8, tag := 0#9, arg := 3530822107858468864#64, data := 4660#1024 : Packet }.dest = tallyEndpoint 0#2) ∧ (fld { cls := 3#2, lenm1 := 0#4, typ := 6#4, dest := 1913#12, src := 24#12, party := 0#12, epoch := 0#8, tag := 0#9, arg := 3530822107858468864#64, data := 4660#1024 : Packet }.arg 60 2 = 3) ∧ (fld { cls := 3#2, lenm1 := 0#4, typ := 6#4, dest := 1913#12, src := 24#12, party := 0#12, epoch := 0#8, tag := 0#9, arg := 3530822107858468864#64, data := 4660#1024 : Packet }.arg 56 4 = 1)) ∧
    (withVal ((nth ws0 0).die) (fun (d : Die) => withVal (endpointCore { cls := 3#2, lenm1 := 0#4, typ := 0#4, dest := 8#12, src := 24#12, party := 3#12, epoch := 1#8, tag := 3#9, arg := 0#64, data := 4660#1024 : Packet }.dest) (fun (c : CoreId) => decide (({ cls := 3#2, lenm1 := 0#4, typ := 0#4, dest := 8#12, src := 24#12, party := 3#12, epoch := 1#8, tag := 3#9, arg := 0#64, data := 4660#1024 : Packet }.dest.toNat % 8 = 0) ∧ (¬({ cls := 3#2, lenm1 := 0#4, typ := 0#4, dest := 8#12, src := 24#12, party := 3#12, epoch := 1#8, tag := 3#9, arg := 0#64, data := 4660#1024 : Packet }.cls = 2 ∧ { cls := 3#2, lenm1 := 0#4, typ := 0#4, dest := 8#12, src := 24#12, party := 3#12, epoch := 1#8, tag := 3#9, arg := 0#64, data := 4660#1024 : Packet }.typ = tyBroadcast)) ∧ ({ cls := 3#2, lenm1 := 0#4, typ := 0#4, dest := 8#12, src := 24#12, party := 3#12, epoch := 1#8, tag := 3#9, arg := 0#64, data := 4660#1024 : Packet }.cls = 3) ∧ ((portCheck d c { cls := 3#2, lenm1 := 0#4, typ := 0#4, dest := 8#12, src := 24#12, party := 3#12, epoch := 1#8, tag := 3#9, arg := 0#64, data := 4660#1024 : Packet }.party { cls := 3#2, lenm1 := 0#4, typ := 0#4, dest := 8#12, src := 24#12, party := 3#12, epoch := 1#8, tag := 3#9, arg := 0#64, data := 4660#1024 : Packet }.epoch).any (fun (k : ℕ) => true) = true)))) = true) ∧
    (({ cls := 2#2, lenm1 := 0#4, typ := 3#4, dest := 8#12, src := 24#12, party := 3#12, epoch := 1#8, tag := 3#9, arg := 0#64, data := 4660#1024 : Packet }.dest.toNat % 8 = 0) ∧ ({ cls := 2#2, lenm1 := 0#4, typ := 3#4, dest := 8#12, src := 24#12, party := 3#12, epoch := 1#8, tag := 3#9, arg := 0#64, data := 4660#1024 : Packet }.cls = 2) ∧ ({ cls := 2#2, lenm1 := 0#4, typ := 3#4, dest := 8#12, src := 24#12, party := 3#12, epoch := 1#8, tag := 3#9, arg := 0#64, data := 4660#1024 : Packet }.typ = tyBroadcast)) ∧
    (withVal ((nth ws0 0).die) (fun (d : Die) => decide ((inReset d = false))) = true) ∧
    (({ cls := 0#2, lenm1 := 0#4, typ := 0#4, dest := 8#12, src := 24#12, party := 3#12, epoch := 1#8, tag := 3#9, arg := 0#64, data := 4660#1024 : Packet }.dest.toNat % 8 = 0) ∧ (fld { cls := 0#2, lenm1 := 0#4, typ := 0#4, dest := 8#12, src := 24#12, party := 3#12, epoch := 1#8, tag := 3#9, arg := 0#64, data := 4660#1024 : Packet }.arg 60 2 = 0)) ∧
    (withVal ((nth ws0 0).die) (fun (d : Die) => withVal (endpointCore { cls := 0#2, lenm1 := 0#4, typ := 0#4, dest := 8#12, src := 24#12, party := 3#12, epoch := 1#8, tag := 3#9, arg := 0#64, data := 4660#1024 : Packet }.dest) (fun (c : CoreId) => decide (({ cls := 0#2, lenm1 := 0#4, typ := 0#4, dest := 8#12, src := 24#12, party := 3#12, epoch := 1#8, tag := 3#9, arg := 0#64, data := 4660#1024 : Packet }.dest.toNat % 8 = 0) ∧ (¬({ cls := 0#2, lenm1 := 0#4, typ := 0#4, dest := 8#12, src := 24#12, party := 3#12, epoch := 1#8, tag := 3#9, arg := 0#64, data := 4660#1024 : Packet }.cls = 2 ∧ { cls := 0#2, lenm1 := 0#4, typ := 0#4, dest := 8#12, src := 24#12, party := 3#12, epoch := 1#8, tag := 3#9, arg := 0#64, data := 4660#1024 : Packet }.typ = tyBroadcast)) ∧ ((getCore d c).portReset = true) ∧ ({ cls := 0#2, lenm1 := 0#4, typ := 0#4, dest := 8#12, src := 24#12, party := 3#12, epoch := 1#8, tag := 3#9, arg := 0#64, data := 4660#1024 : Packet }.cls ≠ 2)))) = true) ∧
    (withVal ((nth ws0 1).die) (fun (d : Die) => withVal (endpointCore { cls := 2#2, lenm1 := 0#4, typ := 0#4, dest := 8#12, src := 24#12, party := 3#12, epoch := 1#8, tag := 3#9, arg := 0#64, data := 4660#1024 : Packet }.dest) (fun (c : CoreId) => decide (({ cls := 2#2, lenm1 := 0#4, typ := 0#4, dest := 8#12, src := 24#12, party := 3#12, epoch := 1#8, tag := 3#9, arg := 0#64, data := 4660#1024 : Packet }.dest.toNat % 8 = 0) ∧ (¬({ cls := 2#2, lenm1 := 0#4, typ := 0#4, dest := 8#12, src := 24#12, party := 3#12, epoch := 1#8, tag := 3#9, arg := 0#64, data := 4660#1024 : Packet }.cls = 2 ∧ { cls := 2#2, lenm1 := 0#4, typ := 0#4, dest := 8#12, src := 24#12, party := 3#12, epoch := 1#8, tag := 3#9, arg := 0#64, data := 4660#1024 : Packet }.typ = tyBroadcast)) ∧ ({ cls := 2#2, lenm1 := 0#4, typ := 0#4, dest := 8#12, src := 24#12, party := 3#12, epoch := 1#8, tag := 3#9, arg := 0#64, data := 4660#1024 : Packet }.cls = 2) ∧ (portCheck d c { cls := 2#2, lenm1 := 0#4, typ := 0#4, dest := 8#12, src := 24#12, party := 3#12, epoch := 1#8, tag := 3#9, arg := 0#64, data := 4660#1024 : Packet }.party { cls := 2#2, lenm1 := 0#4, typ := 0#4, dest := 8#12, src := 24#12, party := 3#12, epoch := 1#8, tag := 3#9, arg := 0#64, data := 4660#1024 : Packet }.epoch = none)))) = true) ∧
    (withVal ((nth ws0 1).die) (fun (d : Die) => withVal (endpointCore { cls := 1#2, lenm1 := 0#4, typ := 0#4, dest := 8#12, src := 24#12, party := 3#12, epoch := 1#8, tag := 5#9, arg := 0#64, data := 4660#1024 : Packet }.dest) (fun (c : CoreId) => decide (({ cls := 1#2, lenm1 := 0#4, typ := 0#4, dest := 8#12, src := 24#12, party := 3#12, epoch := 1#8, tag := 5#9, arg := 0#64, data := 4660#1024 : Packet }.dest.toNat % 8 = 0) ∧ (¬({ cls := 1#2, lenm1 := 0#4, typ := 0#4, dest := 8#12, src := 24#12, party := 3#12, epoch := 1#8, tag := 5#9, arg := 0#64, data := 4660#1024 : Packet }.cls = 2 ∧ { cls := 1#2, lenm1 := 0#4, typ := 0#4, dest := 8#12, src := 24#12, party := 3#12, epoch := 1#8, tag := 5#9, arg := 0#64, data := 4660#1024 : Packet }.typ = tyBroadcast)) ∧ ((getCore d c).portReset = false) ∧ ({ cls := 1#2, lenm1 := 0#4, typ := 0#4, dest := 8#12, src := 24#12, party := 3#12, epoch := 1#8, tag := 5#9, arg := 0#64, data := 4660#1024 : Packet }.cls = 1) ∧ (hasReq (getCore d c) { cls := 1#2, lenm1 := 0#4, typ := 0#4, dest := 8#12, src := 24#12, party := 3#12, epoch := 1#8, tag := 5#9, arg := 0#64, data := 4660#1024 : Packet }.tag = false)))) = true) := by
  decide +kernel

theorem test_witness_MeshPacketsDelivered_b :
    (withVal ((nth ws0 1).die) (fun (d : Die) => withVal (endpointCore { cls := 1#2, lenm1 := 0#4, typ := 0#4, dest := 8#12, src := 24#12, party := 3#12, epoch := 1#8, tag := 3#9, arg := 0#64, data := 4660#1024 : Packet }.dest) (fun (c : CoreId) => decide (({ cls := 1#2, lenm1 := 0#4, typ := 0#4, dest := 8#12, src := 24#12, party := 3#12, epoch := 1#8, tag := 3#9, arg := 0#64, data := 4660#1024 : Packet }.dest.toNat % 8 = 0) ∧ (¬({ cls := 1#2, lenm1 := 0#4, typ := 0#4, dest := 8#12, src := 24#12, party := 3#12, epoch := 1#8, tag := 3#9, arg := 0#64, data := 4660#1024 : Packet }.cls = 2 ∧ { cls := 1#2, lenm1 := 0#4, typ := 0#4, dest := 8#12, src := 24#12, party := 3#12, epoch := 1#8, tag := 3#9, arg := 0#64, data := 4660#1024 : Packet }.typ = tyBroadcast)) ∧ ((getCore d c).portReset = false) ∧ ({ cls := 1#2, lenm1 := 0#4, typ := 0#4, dest := 8#12, src := 24#12, party := 3#12, epoch := 1#8, tag := 3#9, arg := 0#64, data := 4660#1024 : Packet }.cls = 1) ∧ ({ cls := 1#2, lenm1 := 0#4, typ := 0#4, dest := 8#12, src := 24#12, party := 3#12, epoch := 1#8, tag := 3#9, arg := 0#64, data := 4660#1024 : Packet }.typ = 0) ∧ (hasReq (getCore d c) { cls := 1#2, lenm1 := 0#4, typ := 0#4, dest := 8#12, src := 24#12, party := 3#12, epoch := 1#8, tag := 3#9, arg := 0#64, data := 4660#1024 : Packet }.tag = true)))) = true) ∧
    (withVal ((nth ws0 1).die) (fun (d : Die) => withVal (endpointCore { cls := 0#2, lenm1 := 0#4, typ := 0#4, dest := 8#12, src := 24#12, party := 3#12, epoch := 1#8, tag := 3#9, arg := 0#64, data := 4660#1024 : Packet }.dest) (fun (c : CoreId) => decide (({ cls := 0#2, lenm1 := 0#4, typ := 0#4, dest := 8#12, src := 24#12, party := 3#12, epoch := 1#8, tag := 3#9, arg := 0#64, data := 4660#1024 : Packet }.dest.toNat % 8 = 0) ∧ (¬({ cls := 0#2, lenm1 := 0#4, typ := 0#4, dest := 8#12, src := 24#12, party := 3#12, epoch := 1#8, tag := 3#9, arg := 0#64, data := 4660#1024 : Packet }.cls = 2 ∧ { cls := 0#2, lenm1 := 0#4, typ := 0#4, dest := 8#12, src := 24#12, party := 3#12, epoch := 1#8, tag := 3#9, arg := 0#64, data := 4660#1024 : Packet }.typ = tyBroadcast)) ∧ ({ cls := 0#2, lenm1 := 0#4, typ := 0#4, dest := 8#12, src := 24#12, party := 3#12, epoch := 1#8, tag := 3#9, arg := 0#64, data := 4660#1024 : Packet }.cls = 0) ∧ ({ cls := 0#2, lenm1 := 0#4, typ := 0#4, dest := 8#12, src := 24#12, party := 3#12, epoch := 1#8, tag := 3#9, arg := 0#64, data := 4660#1024 : Packet }.typ.toNat < 2) ∧ ((getCore d c).portReset = false)))) = true) ∧
    (withVal ((nth ws0 2).die) (fun (d : Die) => decide ((inReset d = true))) = true) := by
  decide +kernel


end Wi2

namespace Wk1

def S (m : Msg) (d : Die) : State := stateOf (withReqs [m] d)
def P (l : List (BitVec 12 × BitVec 512)) (d : Die) : Die := { d with stew := { d.stew with parties := l } }
def cored (d : Die) : Die := setCore (memAt d (storeBase 0) 100 3) 0 { (runCore) with pmem := [(0, 5)], acc := [(3, 4), (35, 9)], partials := [(2, 77)], t0 := { runThread with itin := none } }
def sv (op : Nat) : Msg := mkMsg op 0 (payl 16 [(0,2,5),(8,8,0x600000)])
def crcOf (d : Die) : Nat := let l := argRead d 0x600000 imageSize; (crc32 (l.take 508 ++ l.drop 512)).toNat
def good (d : Die) : Die := let d1 := { d with pkg := memWrite d.pkg 0x600000 [1, 0, 0, 0, 5, 6] }; { d1 with pkg := memWrite d1.pkg (0x600000 + 508) (leBytes 4 (crcOf d1)) }
def sts : List State := [S (sv opSaveContext) (P [(5, 1)] (cored upDie)), S (sv opRestoreContext) (good (P [(5, 1)] (cored upDie))), S (sv opRestoreContext) (P [(5, 1)] (cored upDie))]
def e1_states : List State := sts.drop 1
def ws0 : List State := e1_states

theorem test_witness_ArrayImages :
    (withVal ((nth ws0 0).die) (fun (d : Die) => decide ((0 < 128))) = true) ∧
    (withVal ((nth ws0 0).die) (fun (d : Die) => withVal (clip { src := Source.host, ph := 3#8, poll := false, freed := false, no := 1, bytes := [19#8, 0#8, 85#8, 0#8, 16#8, 0#8, 0#8, 0#8, 0#8, 0#8, 0#8, 0#8, 0#8, 0#8, 0#8, 0#8, 5#8, 0#8, 0#8, 0#8, 0#8, 0#8, 0#8, 0#8, 0#8, 0#8, 96#8, 0#8, 0#8, 0#8, 0#8, 0#8] : Msg }) (fun (m : Msg) => withVal (msgLE m 24 8) (fun (a : ℕ) => decide ((d.stew.requests[0]? = some { src := Source.host, ph := 3#8, poll := false, freed := false, no := 1, bytes := [19#8, 0#8, 85#8, 0#8, 16#8, 0#8, 0#8, 0#8, 0#8, 0#8, 0#8, 0#8, 0#8, 0#8, 0#8, 0#8, 5#8, 0#8, 0#8, 0#8, 0#8, 0#8, 0#8, 0#8, 0#8, 0#8, 96#8, 0#8, 0#8, 0#8, 0#8, 0#8] : Msg } ∧ msgOp { src := Source.host, ph := 3#8, poll := false, freed := false, no := 1, bytes := [19#8, 0#8, 85#8, 0#8, 16#8, 0#8, 0#8, 0#8, 0#8, 0#8, 0#8, 0#8, 0#8, 0#8, 0#8, 0#8, 5#8, 0#8, 0#8, 0#8, 0#8, 0#8, 0#8, 0#8, 0#8, 0#8, 96#8, 0#8, 0#8, 0#8, 0#8, 0#8] : Msg } = opRestoreContext ∧ stewardUp d = true ∧ inTurn d 0 { src := Source.host, ph := 3#8, poll := false, freed := false, no := 1, bytes := [19#8, 0#8, 85#8, 0#8, 16#8, 0#8, 0#8, 0#8, 0#8, 0#8, 0#8, 0#8, 0#8, 0#8, 0#8, 0#8, 5#8, 0#8, 0#8, 0#8, 0#8, 0#8, 0#8, 0#8, 0#8, 0#8, 96#8, 0#8, 0#8, 0#8, 0#8, 0#8] : Msg } = true ∧ (ledgerOp opRestoreContext = true → d.ledger.memState = 0 ∧ dirEn d = true) ∧ checkReq d (clip { src := Source.host, ph := 3#8, poll := false, freed := false, no := 1, bytes := [19#8, 0#8, 85#8, 0#8, 16#8, 0#8, 0#8, 0#8, 0#8, 0#8, 0#8, 0#8, 0#8, 0#8, 0#8, 0#8, 5#8, 0#8, 0#8, 0#8, 0#8, 0#8, 0#8, 0#8, 0#8, 0#8, 96#8, 0#8, 0#8, 0#8, 0#8, 0#8] : Msg }) 16 (imageBad (clip { src := Source.host, ph := 3#8, poll := false, freed := false, no := 1, bytes := [19#8, 0#8, 85#8, 0#8, 16#8, 0#8, 0#8, 0#8, 0#8, 0#8, 0#8, 0#8, 0#8, 0#8, 0#8, 0#8, 5#8, 0#8, 0#8, 0#8, 0#8, 0#8, 0#8, 0#8, 0#8, 0#8, 96#8, 0#8, 0#8, 0#8, 0#8, 0#8] : Msg })) CtxUse.none = none ∧ argsOk d (imageArgs false d (clip { src := Source.host, ph := 3#8, poll := false, freed := false, no := 1, bytes := [19#8, 0#8, 85#8, 0#8, 16#8, 0#8, 0#8, 0#8, 0#8, 0#8, 0#8, 0#8, 0#8, 0#8, 0#8, 0#8, 5#8, 0#8, 0#8, 0#8, 0#8, 0#8, 0#8, 0#8, 0#8, 0#8, 96#8, 0#8, 0#8, 0#8, 0#8, 0#8] : Msg })) = true) ∧ (partyBusy d (msgLE m 16 2) = false) ∧ (imageStart m d = Sum.inr (some [0#9])))))) = true) := by
  decide +kernel


end Wk1

namespace Wk1s

def S (m : Msg) (d : Die) : State := stateOf (withReqs [m] d)
def P (l : List (BitVec 12 × BitVec 512)) (d : Die) : Die := { d with stew := { d.stew with parties := l } }
def cored (d : Die) : Die := setCore (memAt d (storeBase 0) 100 3) 0 { (runCore) with pmem := [(0, 5)], acc := [(3, 4), (35, 9)], partials := [(2, 77)], t0 := { runThread with itin := none } }
def sv (op : Nat) : Msg := mkMsg op 0 (payl 16 [(0,2,5),(8,8,0x600000)])
def crcOf (d : Die) : Nat := let l := argRead d 0x600000 imageSize; (crc32 (l.take 508 ++ l.drop 512)).toNat
def good (d : Die) : Die := let d1 := { d with pkg := memWrite d.pkg 0x600000 [1, 0, 0, 0, 5, 6] }; { d1 with pkg := memWrite d1.pkg (0x600000 + 508) (leBytes 4 (crcOf d1)) }
def sts : List State := [S (sv opSaveContext) (P [(5, 1)] (cored upDie)), S (sv opRestoreContext) (good (P [(5, 1)] (cored upDie))), S (sv opRestoreContext) (P [(5, 1)] (cored upDie))]
def e1_states : List State := sts.take 1
def ws0 : List State := e1_states

theorem test_witness_ArrayImages_2 :
    (withVal ((nth ws0 0).die) (fun (d : Die) => withVal (clip (rqs (nth ws0 0) 0)) (fun (m : Msg) => withVal (msgLE m 24 8) (fun (a : ℕ) => decide ((0 < 128))))) = true) ∧
    (withVal ((nth ws0 0).die) (fun (d : Die) => withVal (clip (rqs (nth ws0 0) 0)) (fun (m : Msg) => withVal (msgLE m 24 8) (fun (a : ℕ) => decide ((d.stew.requests[0]? = some (rqs (nth ws0 0) 0) ∧ msgOp (rqs (nth ws0 0) 0) = opSaveContext ∧ stewardUp d = true ∧ inTurn d 0 (rqs (nth ws0 0) 0) = true ∧ (ledgerOp opSaveContext = true → d.ledger.memState = 0 ∧ dirEn d = true) ∧ checkReq d (clip (rqs (nth ws0 0) 0)) 16 (imageBad (clip (rqs (nth ws0 0) 0))) CtxUse.none = none ∧ argsOk d (imageArgs true d (clip (rqs (nth ws0 0) 0))) = true) ∧ (partyBusy d (msgLE m 16 2) = false) ∧ (imageStart m d = Sum.inr (some [0#9])) ∧ ((getCore d 0#9).t0.itin = none) ∧ ((getCore d 0#9).t1.itin = none) ∧ (ownOffset d a = none))))) = true) ∧
    (withVal ((nth ws0 0).die) (fun (d : Die) => withVal (clip (rqs (nth ws0 0) 0)) (fun (m : Msg) => withVal (msgLE m 24 8) (fun (a : ℕ) => decide ((d.stew.requests[0]? = some (rqs (nth ws0 0) 0) ∧ msgOp (rqs (nth ws0 0) 0) = opSaveContext ∧ stewardUp d = true ∧ inTurn d 0 (rqs (nth ws0 0) 0) = true ∧ (ledgerOp opSaveContext = true → d.ledger.memState = 0 ∧ dirEn d = true) ∧ checkReq d (clip (rqs (nth ws0 0) 0)) 16 (imageBad (clip (rqs (nth ws0 0) 0))) CtxUse.none = none ∧ argsOk d (imageArgs true d (clip (rqs (nth ws0 0) 0))) = true) ∧ (partyBusy d (msgLE m 16 2) = false) ∧ (imageStart m d = Sum.inr (some [0#9])))))) = true) := by
  decide +kernel


end Wk1s

namespace Wk2

def base : Die := setCore (memAt (memAt (memAt upDie (sliceBase 0) 10 3) 0x60000000 5 1) (storeBase 0) 10 5) 0 (runCore id)
def bs (f : BootSt → BootSt) (d : Die := base) : State := stateOf { d with boot := f d.boot }
def sts : List State := [stateOf base, bs (fun b => { b with step := 10, boots := 0 }), bs (fun b => { b with porst := true }), bs (fun b => { b with held := 1 })]
def e1_states : List State := sts
def P (l : List (BitVec 12 × BitVec 512)) (d : Die) : Die := { d with stew := { d.stew with parties := l } }
def two (f : Core → Core := id) : Die := setCore (setCore base 0 (f { (runCore id) with acc := [(1, 1)], pmem := [(0, 9)] })) 1 (runCore id)
def pr (f : Core → Core := id) (d : Die := P [(5, 3)] (two f)) : Die := { d with flt := { d.flt with partyResets := [⟨5, 0, 1⟩] } }
def stopW : Core → Core := fun x => { x with stoppedWait := true }
def ce0 : ItinCore := ⟨0, 0, .full, true, false, 0x20, 8, [(3, false, 99), (33, true, 0x40)], [], false, false⟩
def abIt : Itin := { itin0 with state := .aborted, settled := false, parties := [5], cores := [ce0] }
def held (x : Core) : Core := { x with portReset := true }
def sts2 : List State := [stateOf (P [(5, 3)] (two)), stateOf (pr), stateOf (pr held (P [(5, 3)] (setCore (setCore base 0 (held Core.reset)) 1 (held Core.reset)))), stateOf (P [(5, 3)] (two stopW)),
  stateOf (withItins [abIt] (P [(5, 3)] (two (fun x => { x with stoppedWait := true, writes := [⟨1, 0, false, 0x900000, 7, [1], 4, 0, none⟩] }))))]
def e2_states : List State := sts2
def ws0 : List State := e1_states

theorem test_witness_FatalFaultsReset :
    (withVal ((nth ws0 0).die) (fun (d : Die) => decide ((d.ledger.writes = []) ∧ (openWrites d = []) ∧ (d.fuse.event = none) ∧ (d.boot.porst = false) ∧ (bitB d.boot.held 2 = false))) = true) ∧
    (withVal ((nth ws0 0).die) (fun (d : Die) => decide ((sensorOk 0#5 = true) ∧ (d.ledger.writes = []) ∧ (openWrites d = []) ∧ (d.fuse.event = none) ∧ (inReset d = false))) = true) ∧
    (withVal ((nth ws0 0).die) (fun (d : Die) => decide ((d.ledger.writes = []) ∧ (openWrites d = []) ∧ (d.fuse.event = none) ∧ (inReset d = false))) = true) ∧
    (withVal ((nth ws0 0).die) (fun (d : Die) => decide ((inReset d = false) ∧ (d.trust.khfwUp = true) ∧ (9 ≤ d.boot.step.toNat) ∧ (d.boot.step.toNat ≤ 11))) = true) ∧
    (withVal ((nth ws0 0).die) (fun (d : Die) => decide ((d.ledger.writes = []) ∧ (openWrites d = []) ∧ (d.fuse.event = none) ∧ (inReset d = false) ∧ (d.trust.khfwUp = true) ∧ (9 ≤ d.boot.step.toNat) ∧ (d.boot.step.toNat ≤ 11))) = true) ∧
    (withVal ((nth ws0 0).die) (fun (d : Die) => decide ((d.ledger.writes = []) ∧ (openWrites d = []) ∧ (d.fuse.event = none) ∧ (inReset d = false) ∧ (2 ≤ (2#8).toNat) ∧ ((2#8).toNat ≤ 7))) = true) ∧
    (withVal ((nth ws0 2).die) (fun (d : Die) => decide ((d.boot.porst = true))) = true) ∧
    (withVal ((nth ws0 2).die) (fun (d : Die) => decide ((inReset d = true))) = true) := by
  decide +kernel

def ws1 : List State := e2_states

theorem test_witness_PartyResetsRun :
    (withVal ((nth ws1 0).die) (fun (d : Die) => decide ((stewardUp d = true) ∧ (1 ≤ (1#8).toNat) ∧ ((1#8).toNat ≤ 3) ∧ (partyBusy d (5#12).toNat = false) ∧ ((partyCores d (5#12).toNat).any (fun (v : BitVec 512) => decide ((v.getLsbD (0#9).toNat = true))) = true))) = true) ∧
    (withVal ((nth ws1 0).die) (fun (d : Die) => decide ((partyBusy d (5#12).toNat = false))) = true) ∧
    (withVal ((nth ws1 1).die) (fun (d : Die) => decide ((partyBusy d (5#12).toNat = true))) = true) ∧
    (withVal ((nth ws1 1).die) (fun (d : Die) => (List.find? (fun (p : PartyReset) => p.party == 5#12) d.flt.partyResets).any (fun (p : PartyReset) => (partyCores d (5#12).toNat).any (fun (v : BitVec 512) => decide (((maskIds v).all (nothingOwed d) = true) ∧ (∀ i ∈ d.stew.itins, i.state = ItinState.aborted → i.settled = false → ((hereIds d i).any fun (c : CoreId) => v.getLsbD (BitVec.toNat c)) = true → linksAgree d i = true))))) = true) ∧
    (withVal ((nth ws1 3).die) (fun (d : Die) => decide ((stoppingParty d 0#9 = some 5#12))) = true) := by
  decide +kernel


end Wk2

namespace Wk3a

def S (d : Die) : State := stateOf d
def ce0 : ItinCore := ⟨0, 0, .full, true, false, 0x20, 8, [(3, false, 99), (33, true, 0x40)], [], false, false⟩
def pm (ph : BitVec 8) (op : Nat := 0x100) : Msg := mkMsg op 0 [1] (.peer 2) ph
def base : Die := setCore (memAt upDie (sliceBase 0) 10 3) 0 (runCore id)
def far : ItinCore := { ce0 with die := 2, core := 5 }
def its : List Itin := [{ itin0 with cores := [ce0, far] }, { itin0 with id := 0x80000001, state := .queued, cores := [{ ce0 with core := 1 }] }, { itin0 with id := 0x80000002, state := .running, cores := [{ ce0 with core := 1 }] }]
def pd (m : Msg) : State := S (withItins its (withReqs [m] base))
def sts1 : List State := [pd (pm 50), pd (pm 51), S (withItins its base), S { base with link := { base.link with state := 5 } }]
def e1_states : List State := sts1
def oA_states (i : Nat) : List State := (e1_states.drop i).take 1
def oB_states : List State := oA_states 0
def oC_states : List State := [S (withItins [{ itin0 with cores := [ce0, far], stopping := true, asked := [2] }] (withReqs [pm 50] base)), S (withItins [{ itin0 with cores := [ce0] }] (withReqs [pm 50] base))]
def oD_states : List State := [S (withItins its (withReqs [pm 51] { base with stew := { base.stew with peerBusy := [2], peerQueue := [(2, .start 1), (2, .stamp 1 1)] } }))]
def ws0 : List State := oA_states 0

theorem test_witness_OtherDies :
    (withVal ((nth ws0 0).die) (fun (d : Die) => decide ((d.link.state = 7) ∧ (2#2 ≠ d.ident.dieNum))) = true) ∧
    (withVal ((nth ws0 0).die) (fun (d : Die) => decide ((d.link.state = 7))) = true) ∧
    (withVal ((nth ws0 0).die) (fun (d : Die) => decide ((d.link.state ≠ 7 ∨ 0#2 = d.ident.dieNum))) = true) ∧
    (withVal ((nth ws0 0).die) (fun (d : Die) => decide ((stewardUp d = true) ∧ (PeerMsg.otherVersion = PeerMsg.otherVersion) ∧ ((d.stew.requests[0]?).any (fun (q : Msg) => decide ((q.src = Source.peer 2#2) ∧ (peerReply q = true ∨ 256 ≤ msgOp q ∧ msgOp q ≤ 511))) = true))) = true) ∧
    (withVal ((nth ws0 0).die) (fun (d : Die) => decide ((stewardUp d = true) ∧ ((d.stew.requests[0]?).any (fun (q : Msg) => decide ((q.src = Source.peer 2#2) ∧ (peerReply q = true ∨ 256 ≤ msgOp q ∧ msgOp q ≤ 511))) = true))) = true) ∧
    (withVal ((nth ws0 0).die) (fun (d : Die) => decide ((stewardUp d = true) ∧ (PeerMsg.abort 1#32 3#11 17#8 = PeerMsg.abort 1#32 3#11 17#8) ∧ (homeDie 1#32 = d.ident.dieNum) ∧ (2#2 ≠ d.ident.dieNum) ∧ ((d.stew.requests[0]?).any (fun (q : Msg) => decide ((q.src = Source.peer 2#2) ∧ (peerReply q = true ∨ 256 ≤ msgOp q ∧ msgOp q ≤ 511) ∧ ((findItin d 1#32).any (fun (i : Itin) => decide ((i.state = ItinState.running) ∧ (i.stopping = false))) = true))) = true))) = true) ∧
    (withVal ((nth ws0 0).die) (fun (d : Die) => decide ((stewardUp d = true) ∧ (PeerMsg.stamp 1#32 1#32 = PeerMsg.stamp 1#32 1#32) ∧ ((d.stew.requests[0]?).any (fun (q : Msg) => decide ((q.src = Source.peer 2#2) ∧ (peerReply q = true ∨ 256 ≤ msgOp q ∧ msgOp q ≤ 511) ∧ ((findItin d 1#32).any (fun (i : Itin) => decide ((i.state = ItinState.running) ∧ ((1#32).toNat < i.tiles.toNat))) = true))) = true))) = true) := by
  decide +kernel

def ws1 : List State := oA_states 1

theorem test_witness_OtherDies_2 :
    (withVal ((nth ws1 0).die) (fun (d : Die) => decide ((d.link.state = 7) ∧ (2#2 ≠ d.ident.dieNum))) = true) ∧
    (withVal ((nth ws1 0).die) (fun (d : Die) => decide ((d.link.state = 7))) = true) ∧
    (withVal ((nth ws1 0).die) (fun (d : Die) => decide ((d.link.state ≠ 7 ∨ 0#2 = d.ident.dieNum))) = true) ∧
    (withVal ((nth ws1 0).die) (fun (d : Die) => decide ((stewardUp d = true) ∧ (PeerMsg.otherVersion = PeerMsg.otherVersion) ∧ ((d.stew.requests[0]?).any (fun (q : Msg) => decide ((q.src = Source.peer 2#2) ∧ (peerReply q = true ∨ 256 ≤ msgOp q ∧ msgOp q ≤ 511))) = true))) = true) ∧
    (withVal ((nth ws1 0).die) (fun (d : Die) => decide ((stewardUp d = true) ∧ ((d.stew.requests[0]?).any (fun (q : Msg) => decide ((q.src = Source.peer 2#2) ∧ (peerReply q = true ∨ 256 ≤ msgOp q ∧ msgOp q ≤ 511))) = true))) = true) ∧
    (withVal ((nth ws1 0).die) (fun (d : Die) => decide ((stewardUp d = true) ∧ (PeerMsg.abort 1#32 3#11 17#8 = PeerMsg.abort 1#32 3#11 17#8) ∧ (homeDie 1#32 = d.ident.dieNum) ∧ (2#2 ≠ d.ident.dieNum) ∧ ((d.stew.requests[0]?).any (fun (q : Msg) => decide ((q.src = Source.peer 2#2) ∧ (peerReply q = true ∨ 256 ≤ msgOp q ∧ msgOp q ≤ 511) ∧ ((findItin d 1#32).any (fun (i : Itin) => decide ((i.state = ItinState.running) ∧ (i.stopping = false))) = true))) = true))) = true) ∧
    (withVal ((nth ws1 0).die) (fun (d : Die) => decide ((stewardUp d = true) ∧ (PeerMsg.stamp 1#32 1#32 = PeerMsg.stamp 1#32 1#32) ∧ ((d.stew.requests[0]?).any (fun (q : Msg) => decide ((q.src = Source.peer 2#2) ∧ (peerReply q = true ∨ 256 ≤ msgOp q ∧ msgOp q ≤ 511) ∧ ((findItin d 1#32).any (fun (i : Itin) => decide ((i.state = ItinState.running) ∧ ((1#32).toNat < i.tiles.toNat))) = true))) = true))) = true) ∧
    (withVal ((nth ws1 0).die) (fun (d : Die) => decide ((stewardUp d = true) ∧ (PeerMsg.reply = PeerMsg.reply) ∧ ((d.stew.requests[0]?).any (fun (q : Msg) => decide ((q.src = Source.peer 2#2) ∧ (peerReply q = true ∨ 256 ≤ msgOp q ∧ msgOp q ≤ 511) ∧ (peerReply q = true))) = true))) = true) := by
  decide +kernel

def ws2 : List State := oA_states 2

theorem test_witness_OtherDies_3 :
    (withVal ((nth ws2 0).die) (fun (d : Die) => decide ((d.link.state = 7) ∧ (2#2 ≠ d.ident.dieNum))) = true) ∧
    (withVal ((nth ws2 0).die) (fun (d : Die) => decide ((d.link.state = 7))) = true) ∧
    (withVal ((nth ws2 0).die) (fun (d : Die) => decide ((d.link.state ≠ 7 ∨ 0#2 = d.ident.dieNum))) = true) := by
  decide +kernel

def ws3 : List State := oA_states 3

theorem test_witness_OtherDies_4 :
    (withVal ((nth ws3 0).die) (fun (d : Die) => decide ((d.link.state ≠ 7 ∨ 0#2 = d.ident.dieNum))) = true) := by
  decide +kernel

def ws4 : List State := oB_states

theorem test_witness_OtherDies_5 :
    (withVal ((nth ws4 0).die) (fun (d : Die) => decide ((stewardUp d = true) ∧ (PeerMsg.start 2147483649#32 = PeerMsg.start 2147483649#32) ∧ (homeDie 2147483649#32 ≠ d.ident.dieNum) ∧ ((d.stew.requests[0]?).any (fun (q : Msg) => decide ((q.src = Source.peer 2#2) ∧ (peerReply q = true ∨ 256 ≤ msgOp q ∧ msgOp q ≤ 511) ∧ ((findItin d 2147483649#32).any (fun (i : Itin) => decide ((i.state = ItinState.queued))) = true))) = true))) = true) ∧
    (withVal ((nth ws4 0).die) (fun (d : Die) => decide ((stewardUp d = true) ∧ ((d.stew.requests[0]?).any (fun (q : Msg) => decide ((q.src = Source.peer 2#2) ∧ (peerReply q = true ∨ 256 ≤ msgOp q ∧ msgOp q ≤ 511))) = true))) = true) ∧
    (withVal ((nth ws4 0).die) (fun (d : Die) => decide ((d.link.state = 7))) = true) ∧
    (withVal ((nth ws4 0).die) (fun (d : Die) => decide ((d.link.state = 7) ∧ (2#2 ≠ d.ident.dieNum))) = true) ∧
    (withVal ((nth ws4 0).die) (fun (d : Die) => decide ((stewardUp d = true) ∧ (PeerMsg.release 2147483650#32 = PeerMsg.release 2147483650#32) ∧ (homeDie 2147483650#32 ≠ d.ident.dieNum) ∧ ((d.stew.requests[0]?).any (fun (q : Msg) => decide ((q.src = Source.peer 2#2) ∧ (peerReply q = true ∨ 256 ≤ msgOp q ∧ msgOp q ≤ 511) ∧ ((findItin d 2147483650#32).any (fun (i : Itin) => decide ((itinLive i = true))) = true))) = true))) = true) := by
  decide +kernel

def ws5 : List State := oC_states

theorem test_witness_OtherDies_6 :
    (withVal ((nth ws5 0).die) (fun (d : Die) => decide ((stewardUp d = true) ∧ (PeerMsg.stopped 1#32 3#5 [] 0#16 = PeerMsg.stopped 1#32 3#5 [] 0#16) ∧ ((d.stew.requests[0]?).any (fun (q : Msg) => decide ((q.src = Source.peer 2#2) ∧ (peerReply q = true ∨ 256 ≤ msgOp q ∧ msgOp q ≤ 511) ∧ ((findItin d 1#32).any (fun (i : Itin) => decide ((i.state = ItinState.running) ∧ (i.stopping = true) ∧ (i.asked = [2#2]))) = true))) = true))) = true) ∧
    (withVal ((nth ws5 0).die) (fun (d : Die) => decide ((stewardUp d = true) ∧ ((d.stew.requests[0]?).any (fun (q : Msg) => decide ((q.src = Source.peer 2#2) ∧ (peerReply q = true ∨ 256 ≤ msgOp q ∧ msgOp q ≤ 511))) = true))) = true) ∧
    (withVal ((nth ws5 0).die) (fun (d : Die) => decide ((d.link.state = 7))) = true) ∧
    (withVal ((nth ws5 0).die) (fun (d : Die) => decide ((d.link.state = 7) ∧ (2#2 ≠ d.ident.dieNum))) = true) ∧
    (withVal ((nth ws5 1).die) (fun (d : Die) => decide ((stewardUp d = true) ∧ (PeerMsg.abort 1#32 3#11 17#8 = PeerMsg.abort 1#32 3#11 17#8) ∧ (homeDie 1#32 = d.ident.dieNum) ∧ (2#2 ≠ d.ident.dieNum) ∧ ((d.stew.requests[0]?).any (fun (q : Msg) => decide ((q.src = Source.peer 2#2) ∧ (peerReply q = true ∨ 256 ≤ msgOp q ∧ msgOp q ≤ 511) ∧ ((findItin d 1#32).any (fun (i : Itin) => decide ((i.state = ItinState.running) ∧ (i.stopping = false))) = true))) = true))) = true) := by
  decide +kernel

def ws6 : List State := oD_states

theorem test_witness_OtherDies_7 :
    (withVal ((nth ws6 0).die) (fun (d : Die) => decide ((stewardUp d = true) ∧ (PeerMsg.reply = PeerMsg.reply) ∧ ((d.stew.requests[0]?).any (fun (q : Msg) => decide ((q.src = Source.peer 2#2) ∧ (peerReply q = true ∨ 256 ≤ msgOp q ∧ msgOp q ≤ 511) ∧ (peerReply q = true))) = true))) = true) ∧
    (withVal ((nth ws6 0).die) (fun (d : Die) => decide ((stewardUp d = true) ∧ ((d.stew.requests[0]?).any (fun (q : Msg) => decide ((q.src = Source.peer 2#2) ∧ (peerReply q = true ∨ 256 ≤ msgOp q ∧ msgOp q ≤ 511))) = true))) = true) ∧
    (withVal ((nth ws6 0).die) (fun (d : Die) => decide ((d.link.state = 7))) = true) ∧
    (withVal ((nth ws6 0).die) (fun (d : Die) => decide ((d.link.state = 7) ∧ (2#2 ≠ d.ident.dieNum))) = true) := by
  decide +kernel


end Wk3a

namespace Wk3b

def S (d : Die) : State := stateOf d
def base : Die := setCore (memAt upDie (sliceBase 0) 10 3) 0 (runCore id)
def md (n : Nat) (f : Module → Module) (d : Die) : Die := { d with link := { d.link with modules := tabSet Module.reset d.link.modules n (f (tabGet Module.reset d.link.modules n)) } }
def act (f : Module → Module := id) (d : Die := base) : Die := md 5 (fun m => f { m with state := msActive, rxSeq := 7, txSeq := 9, credReq := 4, credRsp := 4, credCtrl := 2 }) d
def sts2 : List State := [S (act), S (act (fun m => { m with dueReq := 3, unacked := 2 })), S (act (fun m => { m with refusing := true })), S (act (fun m => { m with replay := [4, 5, 6], unacked := 3 })), S (act (fun m => { m with rxKind := 2, rxData := 1, failures := 7 })), S (md 5 (fun m => { m with broken := true }) (act))]
def e2_states : List State := sts2
def ws0 : List State := e2_states

theorem test_witness_FlitsAndWires_FlitsAndCredits :
    (withVal ((nth ws0 0).die) (fun (d : Die) => withVal ((5#8).toNat) (fun (n : ℕ) => withVal (getMod d n) (fun (x : Machine.Module) => decide ((moduleOk 5#8 = true) ∧ (d.link.state = 7) ∧ (modCarries x = true) ∧ ({ crcOk := true, ackSeq := 5#8, nak := false, retrain := false, req := 6#32, rsp := 5#32, ctrl := 3#32 : CreditFlit }.crcOk = true) ∧ ({ crcOk := true, ackSeq := 5#8, nak := false, retrain := false, req := 6#32, rsp := 5#32, ctrl := 3#32 : CreditFlit }.nak = false) ∧ (x.queue = []))))) = true) ∧
    (withVal ((nth ws0 0).die) (fun (d : Die) => withVal ((5#8).toNat) (fun (n : ℕ) => withVal (getMod d n) (fun (x : Machine.Module) => decide ((moduleOk 5#8 = true) ∧ (d.link.state = 7) ∧ (modCarries x = true) ∧ ({ crcOk := true, kind := 1#4, dataBit := false, credit := 16834#16, seq := 7#8, entries := 2#6, mtype := 0#16 : RxFlit }.kind ≠ 9) ∧ ({ crcOk := true, kind := 1#4, dataBit := false, credit := 16834#16, seq := 7#8, entries := 2#6, mtype := 0#16 : RxFlit }.kind ≠ 10) ∧ ({ crcOk := true, kind := 1#4, dataBit := false, credit := 16834#16, seq := 7#8, entries := 2#6, mtype := 0#16 : RxFlit }.crcOk = true) ∧ (badFlit x { crcOk := true, kind := 1#4, dataBit := false, credit := 16834#16, seq := 7#8, entries := 2#6, mtype := 0#16 : RxFlit } = false) ∧ ({ crcOk := true, kind := 1#4, dataBit := false, credit := 16834#16, seq := 7#8, entries := 2#6, mtype := 0#16 : RxFlit }.seq = x.rxSeq) ∧ (x.queue = []))))) = true) ∧
    (withVal ((nth ws0 0).die) (fun (d : Die) => withVal ((5#8).toNat) (fun (n : ℕ) => withVal (getMod d n) (fun (x : Machine.Module) => decide ((moduleOk 5#8 = true) ∧ (d.link.state = 7) ∧ (modCarries x = true) ∧ ({ crcOk := true, kind := 1#4, dataBit := false, credit := 16641#16, seq := 8#8, entries := 1#6, mtype := 0#16 : RxFlit }.kind ≠ 9) ∧ ({ crcOk := true, kind := 1#4, dataBit := false, credit := 16641#16, seq := 8#8, entries := 1#6, mtype := 0#16 : RxFlit }.kind ≠ 10) ∧ ({ crcOk := true, kind := 1#4, dataBit := false, credit := 16641#16, seq := 8#8, entries := 1#6, mtype := 0#16 : RxFlit }.crcOk = true) ∧ (badFlit x { crcOk := true, kind := 1#4, dataBit := false, credit := 16641#16, seq := 8#8, entries := 1#6, mtype := 0#16 : RxFlit } = false) ∧ ({ crcOk := true, kind := 1#4, dataBit := false, credit := 16641#16, seq := 8#8, entries := 1#6, mtype := 0#16 : RxFlit }.seq ≠ x.rxSeq))))) = true) ∧
    (withVal ((nth ws0 0).die) (fun (d : Die) => withVal ((5#8).toNat) (fun (n : ℕ) => withVal (getMod d n) (fun (x : Machine.Module) => decide ((moduleOk 5#8 = true) ∧ (d.link.state = 7) ∧ (modCarries x = true) ∧ ({ crcOk := false, kind := 1#4, dataBit := false, credit := 0#16, seq := 7#8, entries := 1#6, mtype := 0#16 : RxFlit }.kind ≠ 9) ∧ ({ crcOk := false, kind := 1#4, dataBit := false, credit := 0#16, seq := 7#8, entries := 1#6, mtype := 0#16 : RxFlit }.kind ≠ 10) ∧ ({ crcOk := false, kind := 1#4, dataBit := false, credit := 0#16, seq := 7#8, entries := 1#6, mtype := 0#16 : RxFlit }.crcOk = false ∨ badFlit x { crcOk := false, kind := 1#4, dataBit := false, credit := 0#16, seq := 7#8, entries := 1#6, mtype := 0#16 : RxFlit } = true))))) = true) ∧
    (withVal ((nth ws0 1).die) (fun (d : Die) => withVal ((5#8).toNat) (fun (n : ℕ) => withVal (getMod d n) (fun (x : Machine.Module) => decide ((moduleOk 5#8 = true) ∧ (d.link.state = 7) ∧ (modCarries x = true) ∧ (d.link.rxLoss = false) ∧ (x.unacked ≠ 0) ∧ (dueOn x ≠ []) ∧ (x.replay.length < 64))))) = true) ∧
    (withVal ((nth ws0 3).die) (fun (d : Die) => withVal ((5#8).toNat) (fun (n : ℕ) => withVal (getMod d n) (fun (x : Machine.Module) => decide ((moduleOk 5#8 = true) ∧ (d.link.state = 7) ∧ (modCarries x = true) ∧ ({ crcOk := true, ackSeq := 77#8, nak := true, retrain := true, req := 0#32, rsp := 0#32, ctrl := 0#32 : CreditFlit }.crcOk = true) ∧ ({ crcOk := true, ackSeq := 77#8, nak := true, retrain := true, req := 0#32, rsp := 0#32, ctrl := 0#32 : CreditFlit }.nak = true) ∧ (x.replay.contains { crcOk := true, ackSeq := 77#8, nak := true, retrain := true, req := 0#32, rsp := 0#32, ctrl := 0#32 : CreditFlit }.ackSeq = false) ∧ (x.replay ≠ []) ∧ (x.queue = []))))) = true) ∧
    (withVal ((nth ws0 3).die) (fun (d : Die) => withVal ((5#8).toNat) (fun (n : ℕ) => withVal (getMod d n) (fun (x : Machine.Module) => decide ((moduleOk 5#8 = true) ∧ (d.link.state = 7) ∧ (modCarries x = true) ∧ (d.link.rxLoss = false) ∧ (x.unacked ≠ 0) ∧ (dueOn x = []))))) = true) ∧
    (withVal ((nth ws0 3).die) (fun (d : Die) => withVal ((5#8).toNat) (fun (n : ℕ) => withVal (getMod d n) (fun (x : Machine.Module) => decide ((moduleOk 5#8 = true) ∧ (d.link.state = 7) ∧ (modCarries x = true) ∧ (d.link.rxLoss = false) ∧ (x.replay ≠ []))))) = true) := by
  decide +kernel

theorem test_witness_FlitsAndWires_FlitsAndCredits_b :
    (withVal ((nth ws0 5).die) (fun (d : Die) => withVal ((5#8).toNat) (fun (n : ℕ) => withVal (getMod d n) (fun (x : Machine.Module) => decide ((moduleOk 5#8 = true) ∧ (d.link.state ≠ 7 ∨ modCarries x = false))))) = true) := by
  decide +kernel


end Wk3b

namespace Wk3c

def S (d : Die) : State := stateOf d
def base : Die := setCore (memAt upDie (sliceBase 0) 10 3) 0 (runCore id)
def md (n : Nat) (f : Module → Module) (d : Die) : Die := { d with link := { d.link with modules := tabSet Module.reset d.link.modules n (f (tabGet Module.reset d.link.modules n)) } }
def act (f : Module → Module := id) (d : Die := base) : Die := md 5 (fun m => f { m with state := msActive, rxSeq := 7, txSeq := 9, credReq := 4, credRsp := 4, credCtrl := 2 }) d
def lk (f : LinkSt → LinkSt) (d : Die) : Die := { d with link := f d.link }
def rt : Module → Module := fun m => { m with state := msRetrain }
def br : Module → Module := fun m => { m with broken := true }
def drn (d : Die) : Die := lk (fun l => { l with draining := [0] }) d
def sts3 : List State := [S (act), S (act (fun m => { m with retrainAsked := true })), S (act rt), S (drn (act rt)), S (act br), S (lk (fun l => { l with agreed := 0xFFFF }) (act br)), S (drn base), S (drn (act br (md 3 (fun m => { m with state := msActive, queue := [] , txSeq := 3 }) base))), S (lk (fun l => { l with rxLoss := true }) (act)),
  S (drn (act (fun m => { m with broken := true, replay := [4,5,6] }) (md 3 (fun m => { m with state := msActive, txSeq := 3, credReq := 9 }) base)))]
def e3_states : List State := sts3
def ws0 : List State := e3_states

theorem test_witness_ModulesAreRepaired :
    (withVal ((nth ws0 0).die) (fun (d : Die) => withVal ((5#8).toNat) (fun (n : ℕ) => decide ((d.link.rxLoss = false)))) = true) ∧
    (withVal ((nth ws0 0).die) (fun (d : Die) => withVal ((5#8).toNat) (fun (n : ℕ) => decide ((d.link.state = 7)))) = true) ∧
    (withVal ((nth ws0 0).die) (fun (d : Die) => withVal ((5#8).toNat) (fun (n : ℕ) => withVal (getMod d n) (fun (x : Machine.Module) => decide ((moduleOk 5#8 = true) ∧ (inReset d = false) ∧ (d.test.stm = false) ∧ (x.broken = false))))) = true) ∧
    (withVal ((nth ws0 0).die) (fun (d : Die) => withVal ((5#8).toNat) (fun (n : ℕ) => decide ((inReset d = false) ∧ (d.test.stm = false) ∧ (d.link.state = 7) ∧ (d.link.newMask = none) ∧ (minGates d ≤ gateCount (d.link.agreed &&& 4294967280#32))))) = true) ∧
    (withVal ((nth ws0 0).die) (fun (d : Die) => withVal ((5#8).toNat) (fun (n : ℕ) => withVal (getMod d n) (fun (x : Machine.Module) => decide ((x.retrainAsked = false))))) = true) ∧
    (withVal ((nth ws0 1).die) (fun (d : Die) => withVal ((5#8).toNat) (fun (n : ℕ) => withVal (getMod d n) (fun (x : Machine.Module) => decide ((moduleOk 5#8 = true) ∧ (d.link.state = 7) ∧ (modCarries x = true) ∧ (x.retrainAsked = true))))) = true) ∧
    (withVal ((nth ws0 2).die) (fun (d : Die) => withVal ((5#8).toNat) (fun (n : ℕ) => withVal (getMod d n) (fun (x : Machine.Module) => decide ((moduleOk 5#8 = true) ∧ (x.state = msRetrain) ∧ (x.broken = false) ∧ ({ repaired := false, bits := 0#16, req := 0#32, rsp := 0#32, ctrl := 0#32 : RetrainResult }.repaired = false))))) = true) ∧
    (withVal ((nth ws0 2).die) (fun (d : Die) => withVal ((5#8).toNat) (fun (n : ℕ) => withVal (getMod d n) (fun (x : Machine.Module) => decide ((moduleOk 5#8 = true) ∧ (x.state = msRetrain) ∧ (x.broken = false) ∧ ({ repaired := true, bits := 119#16, req := 4#32, rsp := 4#32, ctrl := 2#32 : RetrainResult }.repaired = true))))) = true) := by
  decide +kernel

theorem test_witness_ModulesAreRepaired_b :
    (withVal ((nth ws0 3).die) (fun (d : Die) => withVal ((5#8).toNat) (fun (n : ℕ) => decide ((d.link.draining.contains 0#5 = true)))) = true) ∧
    (withVal ((nth ws0 3).die) (fun (d : Die) => withVal ((5#8).toNat) (fun (n : ℕ) => decide ((d.link.draining.contains 0#5 = true) ∧ (gateIdle d 0#5 = true)))) = true) ∧
    (withVal ((nth ws0 4).die) (fun (d : Die) => withVal ((5#8).toNat) (fun (n : ℕ) => withVal (getMod d n) (fun (x : Machine.Module) => withVal (putFld d.link.agreed (n / 6) 1 0) (fun (less : BitVec 32) => decide ((moduleOk 5#8 = true) ∧ (d.link.state = 7) ∧ (x.broken = true) ∧ (bitB d.link.agreed (n / 6) = true) ∧ (d.link.newMask = none) ∧ (minGates d ≤ gateCount less)))))) = true) ∧
    (withVal ((nth ws0 5).die) (fun (d : Die) => withVal ((5#8).toNat) (fun (n : ℕ) => withVal (getMod d n) (fun (x : Machine.Module) => withVal (putFld d.link.agreed (n / 6) 1 0) (fun (less : BitVec 32) => decide ((moduleOk 5#8 = true) ∧ (d.link.state = 7) ∧ (x.broken = true) ∧ (bitB d.link.agreed (n / 6) = true) ∧ (d.link.newMask = none) ∧ (gateCount less < minGates d)))))) = true) ∧
    (withVal ((nth ws0 7).die) (fun (d : Die) => withVal ((5#8).toNat) (fun (n : ℕ) => withVal (getMod d n) (fun (x : Machine.Module) => decide ((moduleOk 5#8 = true) ∧ (inReset d = false) ∧ (d.test.stm = false) ∧ (x.broken = true) ∧ (d.link.draining.contains (BitVec.ofNat 5 (n / 6)) = true) ∧ (List.find? (fun (k : ℕ) => modCarries (getMod d k)) (gateModules (n / 6)) = some 3))))) = true) ∧
    (withVal ((nth ws0 8).die) (fun (d : Die) => withVal ((5#8).toNat) (fun (n : ℕ) => decide ((d.link.rxLoss = true)))) = true) := by
  decide +kernel


end Wk3c

namespace Wk3d

def S (d : Die) : State := stateOf d
def base : Die := setCore (memAt upDie (sliceBase 0) 10 3) 0 (runCore id)
def bt (st : Nat) (f : LinkSt → LinkSt := id) (step : Nat := 4) (g : Ident → Ident := id) : State := S { base with ident := g { base.ident with granted := false, dieNum := 0, half := 0 }, boot := { base.boot with step := BitVec.ofNat 4 step }, link := f { base.link with state := BitVec.ofNat 4 st, agreed := 0 } }
def ex : LinkSt → LinkSt := fun l => { l with hubOffer := some 0xFFFFFFFF, digestLo := some 5, digestHi := some 6, agreed := 0xFFFFFFFF }
def fr (c : BitVec 8) (n : Nat) : LinkSt → LinkSt := fun l => { l with frames := [⟨c, 1, 2, n⟩] }
def sts4 : List State := [bt 1, bt 1 id 4 (fun i => { i with granted := true, dieNum := 2 }), bt 0 id 2, S { base with boot := { base.boot with porst := true } }, bt 2, bt 2 (fun l => { l with digestLo := some 1 }), bt 2 (fun l => { l with digestHi := some 1, digestLo := some 2 }) 5,
  bt 2 (fun l => { l with digestHi := some 1, digestLo := some 2 }) 6, bt 2 ex 6, bt 2 (fun l => { (ex l) with attempts := 3 }) 6, bt 2 (fun l => { (ex l) with agreed := 0xFF }) 6, bt 3 ex 6, bt 4 ex 6, bt 4 (fun l => { (ex l) with attempts := 3 }) 6, bt 5 ex 6, bt 5 (fun l => { (ex l) with hltFast := true }) 6, bt 6 ex 6, bt 6 ex 11,
  bt 7 (fr sbOffer 2) 11, bt 7 (fr 0x30 4) 11, bt 2 (fr sbOffer 4) 5, bt 2 (fun l => { (fr sbOffer 4 l) with attempts := 3 }) 5]
def e4_states : List State := sts4
def ws0 : List State := e4_states

theorem test_witness_LinkComesUp :
    (withVal ((nth ws0 0).die) (fun (d : Die) => decide ((inReset d = false) ∧ (d.test.stm = false) ∧ (grantConflicts d (grantWord 2#8 4294967295#32) = false) ∧ (d.boot.step = 4))) = true) ∧
    (withVal ((nth ws0 1).die) (fun (d : Die) => decide ((inReset d = false) ∧ (d.test.stm = false) ∧ (grantConflicts d (grantWord 16#8 4294967295#32) = true))) = true) ∧
    (withVal ((nth ws0 2).die) (fun (d : Die) => decide ((inReset d = false) ∧ (d.test.stm = false) ∧ (grantConflicts d (grantWord 2#8 4294967295#32) = false) ∧ (d.boot.step.toNat < 4) ∧ (d.ident.grant = none))) = true) ∧
    (withVal ((nth ws0 3).die) (fun (d : Die) => decide ((inReset d = true))) = true) ∧
    (withVal ((nth ws0 4).die) (fun (d : Die) => decide ((inReset d = false) ∧ (d.test.stm = false) ∧ (d.link.state = 2) ∧ (d.link.hubOffer = none) ∧ (d.link.digestLo = none))) = true) ∧
    (withVal ((nth ws0 4).die) (fun (d : Die) => decide ((inReset d = false) ∧ (d.test.stm = false) ∧ (d.link.state = 2) ∧ (d.link.hubOffer = none) ∧ (d.link.digestHi = none))) = true) ∧
    (withVal ((nth ws0 6).die) (fun (d : Die) => decide ((inReset d = false) ∧ (d.test.stm = false) ∧ (d.link.state = 2) ∧ (d.link.hubOffer = none) ∧ (d.link.digestLo.isSome = true) ∧ (d.link.digestHi.isSome = true))) = true) ∧
    (withVal ((nth ws0 8).die) (fun (d : Die) => decide ((inReset d = false) ∧ (d.test.stm = false) ∧ (d.link.state = 2) ∧ (d.link.agreeHub = none) ∧ (exchanged d = true) ∧ (unanswered d sbAgree = false) ∧ (4294967295#32 = d.link.agreed) ∧ (minGates d ≤ gateCount 4294967295#32))) = true) := by
  decide +kernel

theorem test_witness_LinkComesUp_b :
    (withVal ((nth ws0 8).die) (fun (d : Die) => decide ((inReset d = false) ∧ (d.test.stm = false) ∧ (d.link.state = 2) ∧ (d.link.agreeHub = none) ∧ (exchanged d = true) ∧ (unanswered d sbAgree = false) ∧ (4660#32 ≠ d.link.agreed ∨ gateCount 4660#32 < minGates d))) = true) ∧
    (withVal ((nth ws0 11).die) (fun (d : Die) => decide ((d.link.state = 3))) = true) ∧
    (withVal ((nth ws0 12).die) (fun (d : Die) => decide ((d.link.state = 4))) = true) ∧
    (withVal ((nth ws0 14).die) (fun (d : Die) => decide ((d.link.state = 5) ∧ (d.link.newMask = none))) = true) ∧
    (withVal ((nth ws0 16).die) (fun (d : Die) => decide ((inReset d = false) ∧ (d.test.stm = false) ∧ (d.link.state = 6) ∧ (d.link.newMask = none) ∧ (4294967295#32 = d.link.agreed))) = true) ∧
    (withVal ((nth ws0 18).die) (fun (d : Die) => decide ((16#8 ≠ sbAgree) ∧ (16#8 ≠ sbNewmask) ∧ ((List.find? (fun (f : SbFrame) => f.cmd == 16#8) d.link.frames).any (fun (f : SbFrame) => true) = true))) = true) ∧
    (withVal ((nth ws0 18).die) (fun (d : Die) => (List.find? (fun (f : SbFrame) => f.cmd == 16#8) d.link.frames).any (fun (f : SbFrame) => decide ((f.sends < 4)))) = true) ∧
    (withVal ((nth ws0 19).die) (fun (d : Die) => decide ((d.link.state.toNat < 2 ∨ 6 < d.link.state.toNat) ∧ ((List.find? (fun (f : SbFrame) => f.cmd == 48#8) d.link.frames).any (fun (f : SbFrame) => decide ((4 ≤ f.sends))) = true))) = true) := by
  decide +kernel

theorem test_witness_LinkComesUp_c :
    (withVal ((nth ws0 20).die) (fun (d : Die) => decide ((2 ≤ d.link.state.toNat) ∧ (d.link.state.toNat ≤ 6) ∧ ((List.find? (fun (f : SbFrame) => f.cmd == 16#8) d.link.frames).any (fun (f : SbFrame) => decide ((4 ≤ f.sends))) = true))) = true) := by
  decide +kernel


end Wk3d

namespace Wk4

def S (d : Die) : State := stateOf d
def base : Die := setCore (memAt upDie (sliceBase 0) 10 3) 0 (runCore id)
def pw (f : PowerSt → PowerSt) (d : Die := base) : State := S { d with power := f { d.power with ceil := 1000, budget := 800, maxOp := 7, weights := [(0, 6000), (18, 50)], refCnt := 1000 } }
def rec0 : WindowRec := ⟨100, 50, 16, false, false, false⟩
def ws : List WindowCounts := [⟨List.replicate 256 0, 0, 0, List.replicate 24 100⟩, ⟨List.replicate 256 100, 50, 20, List.replicate 24 200⟩, ⟨List.replicate 256 20000, 0, 0, List.replicate 24 100⟩, ⟨List.replicate 256 100, 50, 20, 430 :: List.replicate 23 200⟩, ⟨List.replicate 256 6500, 50, 20, List.replicate 24 200⟩, ⟨List.replicate 256 2000000, 50, 20, List.replicate 24 200⟩, ⟨List.replicate 256 335000, 0, 0, List.replicate 24 100⟩, ⟨List.replicate 256 330000, 0, 0, List.replicate 24 100⟩]
def sts : List State := [pw id, pw (fun p => { p with duty := 9, effective := 2, current := 2, cpllMHz := 3600, volt := 20 }), pw (fun p => { p with cpllLock := false }), pw (fun p => { p with budgetNext := some (700, 4) }), pw (fun p => { p with budgetNext := some (1700, 4) }), pw (fun p => { p with safeDue := true }),
  pw (fun p => { p with markDone := false, opL := 3, hist := List.replicate 16 rec0 }), pw (fun p => { p with markDone := false, opL := 3, hist := List.replicate 15 rec0 }), pw (fun p => { p with markDone := false, opL := 7, hist := List.replicate 16 rec0 }), pw (fun p => { p with markDone := false, opL := 3, hist := List.replicate 15 rec0 ++ [{ rec0 with warm := true }] }),
  pw (fun p => { p with safe := false, refCnt := 0x200000, lastBudget := 5 })]
def e1_states : List State := sts
def gl (f : PowerSt → PowerSt) : State := pw (fun p => f { p with gliding := true, effective := 3, current := 0, cpllMHz := 1200, volt := 10 })
def fr (dom cmd data : Nat) (fails : Nat := 0) : VctlFrame := ⟨BitVec.ofNat 4 dom, BitVec.ofNat 4 cmd, BitVec.ofNat 8 data, fails⟩
def sts2 : List State := [gl id, gl (fun p => { p with volt := 30 }), gl (fun p => { p with volt := 45, cpllMHz := 4800 }), gl (fun p => { p with volt := 30, cpllMHz := 4800 }), gl (fun p => { p with volt := 45, slewing := true, slewTo := 4800 }), gl (fun p => { p with volt := 30, slewing := true, slewTo := 4800 }),
  pw (fun p => { p with vctl := [fr 2 0 25, fr 3 1 0] }), pw (fun p => { p with vctl := [fr 2 0 25 1, fr 3 1 0 2] }), pw (fun p => { p with vctl := [fr 3 1 0 1, fr 2 0 25 2] }), pw (fun p => { p with domains := [(2, { Domain.reset with skipping := true, skipped := 9, droops := 4 })] })]
def e2_states : List State := sts2
def ws0 : List State := e1_states
def winAt0 (i : Nat) : WindowCounts := (ws : List WindowCounts).getD i ⟨[], 0, 0, []⟩

theorem test_witness_PowerWindows :
    (withVal ((nth ws0 0).die) (fun (d : Die) => withVal (d.power) (fun (p : PowerSt) => decide ((p.cpllLock = true)))) = true) ∧
    (withVal ((nth ws0 0).die) (fun (d : Die) => withVal (d.power) (fun (p : PowerSt) => withVal (estimate (takeTemps (winAt0 0) d) (winAt0 0)) (fun (e : ℕ) => decide ((p.cpllLock = true) ∧ (d.test.stm = false) ∧ (d.fuse.sensed = true) ∧ (e < 65536))))) = true) ∧
    (withVal ((nth ws0 0).die) (fun (d : Die) => withVal (d.power) (fun (p : PowerSt) => decide ((d.link.state = 7)))) = true) ∧
    (withVal ((nth ws0 0).die) (fun (d : Die) => withVal (d.power) (fun (p : PowerSt) => decide ((inReset d = false)))) = true) ∧
    (withVal ((nth ws0 2).die) (fun (d : Die) => withVal (d.power) (fun (p : PowerSt) => decide ((p.cpllLock = false)))) = true) ∧
    (withVal ((nth ws0 3).die) (fun (d : Die) => withVal (d.power) (fun (p : PowerSt) => decide ((p.cpllLock = true) ∧ (d.test.stm = false) ∧ (d.fuse.sensed = true) ∧ (p.budgetNext = some (700#16, 4#16))))) = true) ∧
    (withVal ((nth ws0 5).die) (fun (d : Die) => withVal (d.power) (fun (p : PowerSt) => decide ((p.cpllLock = true) ∧ (d.test.stm = false) ∧ (d.fuse.sensed = true) ∧ (p.budgetNext = none) ∧ (p.safeDue = true)))) = true) ∧
    (withVal ((nth ws0 6).die) (fun (d : Die) => withVal (d.power) (fun (p : PowerSt) => decide ((p.markDone = false)))) = true) := by
  decide +kernel

theorem test_witness_PowerWindows_b :
    (withVal ((nth ws0 10).die) (fun (d : Die) => withVal (d.power) (fun (p : PowerSt) => decide ((p.safe = false) ∧ (p.safeDue = false) ∧ (p.budgetNext = none) ∧ (p.lastBudget + 2 ^ 20 < (p.refCnt.toNat / 256 + 1) * 256)))) = true) := by
  decide +kernel

def ws1 : List State := e2_states

theorem test_witness_GlidesAndSupplies :
    (withVal ((nth ws1 0).die) (fun (d : Die) => withVal (d.power) (fun (p : PowerSt) => withVal (p.volt.toNat) (fun (v : ℕ) => withVal (opCode p.effective.toNat) (fun (goal : ℕ) => decide ((p.gliding = true) ∧ (p.slewing = false) ∧ ((p.vctl.any fun (f : VctlFrame) => f.cmd == 0) = false) ∧ (v < goal)))))) = true) ∧
    (withVal ((nth ws1 0).die) (fun (d : Die) => withVal (d.power) (fun (p : PowerSt) => decide ((inReset d = false)))) = true) ∧
    (withVal ((nth ws1 0).die) (fun (d : Die) => withVal (d.power) (fun (p : PowerSt) => withVal (tabGet Domain.reset p.domains (2#4).toNat) (fun (dom : Domain) => decide ((d.test.stm = false) ∧ (dom.skipping = false))))) = true) ∧
    (withVal ((nth ws1 1).die) (fun (d : Die) => withVal (d.power) (fun (p : PowerSt) => withVal (p.volt.toNat) (fun (v : ℕ) => withVal (opCode p.effective.toNat) (fun (goal : ℕ) => withVal (opMHz p.effective.toNat) (fun (mhz : ℕ) => decide ((p.gliding = true) ∧ (p.slewing = false) ∧ ((p.vctl.any fun (f : VctlFrame) => f.cmd == 0) = false) ∧ (v ≥ goal) ∧ (p.cpllMHz.toNat ≠ mhz))))))) = true) ∧
    (withVal ((nth ws1 2).die) (fun (d : Die) => withVal (d.power) (fun (p : PowerSt) => withVal (p.volt.toNat) (fun (v : ℕ) => withVal (opCode p.effective.toNat) (fun (goal : ℕ) => withVal (opMHz p.effective.toNat) (fun (mhz : ℕ) => decide ((p.gliding = true) ∧ (p.slewing = false) ∧ ((p.vctl.any fun (f : VctlFrame) => f.cmd == 0) = false) ∧ (v > goal) ∧ (p.cpllMHz.toNat = mhz))))))) = true) ∧
    (withVal ((nth ws1 3).die) (fun (d : Die) => withVal (d.power) (fun (p : PowerSt) => withVal (p.volt.toNat) (fun (v : ℕ) => withVal (opCode p.effective.toNat) (fun (goal : ℕ) => withVal (opMHz p.effective.toNat) (fun (mhz : ℕ) => decide ((p.gliding = true) ∧ (p.slewing = false) ∧ ((p.vctl.any fun (f : VctlFrame) => f.cmd == 0) = false) ∧ (v = goal) ∧ (p.cpllMHz.toNat = mhz))))))) = true) ∧
    (withVal ((nth ws1 4).die) (fun (d : Die) => withVal (d.power) (fun (p : PowerSt) => withVal (p.volt.toNat) (fun (v : ℕ) => withVal (opCode p.effective.toNat) (fun (goal : ℕ) => withVal (opMHz p.effective.toNat) (fun (mhz : ℕ) => decide ((p.slewing = true) ∧ (p.slewTo.toNat = mhz) ∧ (v > goal))))))) = true) ∧
    (withVal ((nth ws1 5).die) (fun (d : Die) => withVal (d.power) (fun (p : PowerSt) => withVal (p.volt.toNat) (fun (v : ℕ) => withVal (opCode p.effective.toNat) (fun (goal : ℕ) => withVal (opMHz p.effective.toNat) (fun (mhz : ℕ) => decide ((p.slewing = true) ∧ (p.slewTo.toNat = mhz) ∧ (v = goal))))))) = true) := by
  decide +kernel

theorem test_witness_GlidesAndSupplies_b :
    (withVal ((nth ws1 6).die) (fun (d : Die) => withVal (d.power) (fun (p : PowerSt) => decide ((¬crc8 [BitVec.extractLsb' 16 8 1055001#24, BitVec.extractLsb' 8 8 1055001#24] = BitVec.extractLsb' 0 8 1055001#24) ∧ ((List.find? (fun (f : VctlFrame) => f.domain.toNat == fld (1055001#24) 19 5) p.vctl).any (fun (f : VctlFrame) => decide ((f.fails < 2))) = true)))) = true) ∧
    (withVal ((nth ws1 6).die) (fun (d : Die) => withVal (d.power) (fun (p : PowerSt) => decide ((crc8 [BitVec.extractLsb' 16 8 1639140#24, BitVec.extractLsb' 8 8 1639140#24] = BitVec.extractLsb' 0 8 1639140#24) ∧ (fld (1639140#24) 16 3 = 1) ∧ (fld (1639140#24) 8 4 ≠ 1) ∧ ((List.find? (fun (f : VctlFrame) => f.domain.toNat == fld (1639140#24) 19 5) p.vctl).any (fun (f : VctlFrame) => decide ((f.cmd = 1))) = true)))) = true) ∧
    (withVal ((nth ws1 6).die) (fun (d : Die) => withVal (d.power) (fun (p : PowerSt) => decide ((crc8 [BitVec.extractLsb' 16 8 1638893#24, BitVec.extractLsb' 8 8 1638893#24] = BitVec.extractLsb' 0 8 1638893#24) ∧ (fld (1638893#24) 16 3 = 1) ∧ (fld (1638893#24) 8 4 = 1) ∧ ((List.find? (fun (f : VctlFrame) => f.domain.toNat == fld (1638893#24) 19 5) p.vctl).any (fun (f : VctlFrame) => decide ((f.cmd = 1))) = true)))) = true) ∧
    (withVal ((nth ws1 6).die) (fun (d : Die) => withVal (d.power) (fun (p : PowerSt) => decide ((crc8 [BitVec.extractLsb' 16 8 1055000#24, BitVec.extractLsb' 8 8 1055000#24] = BitVec.extractLsb' 0 8 1055000#24) ∧ (fld (1055000#24) 16 3 = 0) ∧ ((List.find? (fun (f : VctlFrame) => f.domain.toNat == fld (1055000#24) 19 5) p.vctl).any (fun (f : VctlFrame) => decide ((f.cmd = 0) ∧ (BitVec.extractLsb' 8 8 1055000#24 = f.data))) = true)))) = true) ∧
    (withVal ((nth ws1 6).die) (fun (d : Die) => withVal (d.power) (fun (p : PowerSt) => (List.find? (fun (f : VctlFrame) => f.domain == 2#4) p.vctl).any (fun (f : VctlFrame) => decide ((f.fails < 2))))) = true) ∧
    (withVal ((nth ws1 7).die) (fun (d : Die) => withVal (d.power) (fun (p : PowerSt) => (List.find? (fun (f : VctlFrame) => f.domain == 3#4) p.vctl).any (fun (f : VctlFrame) => decide ((2 ≤ f.fails))))) = true) ∧
    (withVal ((nth ws1 7).die) (fun (d : Die) => withVal (d.power) (fun (p : PowerSt) => decide ((¬crc8 [BitVec.extractLsb' 16 8 1638894#24, BitVec.extractLsb' 8 8 1638894#24] = BitVec.extractLsb' 0 8 1638894#24) ∧ ((List.find? (fun (f : VctlFrame) => f.domain.toNat == fld (1638894#24) 19 5) p.vctl).any (fun (f : VctlFrame) => decide ((2 ≤ f.fails))) = true)))) = true) ∧
    (withVal ((nth ws1 9).die) (fun (d : Die) => withVal (d.power) (fun (p : PowerSt) => withVal (tabGet Domain.reset p.domains (2#4).toNat) (fun (dom : Domain) => decide ((dom.skipping = true) ∧ (dom.skipped.toNat + (0#32).toNat < 2 ^ 32))))) = true) := by
  decide +kernel


end Wk4

namespace Wk5

def S (d : Die) : State := stateOf d
def K : List Byte := List.replicate 57 9#8
def fz (l : List (Nat × BitVec 64)) (d : Die) : Die := { d with fuse := { d.fuse with otp := l.foldl (fun t p => tabSet 0 t p.1 p.2) d.fuse.otp, seen := l.foldl (fun t p => tabSet 0 t p.1 p.2) d.fuse.seen } }
def recWords (base : Nat) (use : Nat) : List (Nat × BitVec 64) := let r := Config.shake256 64 K ++ leBytes 2 use; (List.range 11).map (fun i => (base + i, fuseFull (base + i) (BitVec.ofNat 64 (deLE r (6 * i) 6))))
def put (l : List Byte) (o : Nat) (v : List Byte) : List Byte := l.take o ++ v ++ l.drop (o + v.length)
def mkImg (image sec : Nat) (body : List Byte) (len : Nat) (sig : Byte := 1) : List Byte :=
  let h := List.replicate 512 (0 : Byte)
  let h := put (put (put (put h 0 (leBytes 4 0x4D495A4B)) 4 [BitVec.ofNat 8 image, BitVec.ofNat 8 sec, 0, 0]) 8 (leBytes 4 len)) 0x60 K
  let h := put h 0x20 (Config.shake256 64 (if image = 2 then List.replicate 3072 0 else body))
  put h 0x180 [sig] ++ body
def fl (o : Nat) (l : List Byte) (d : Die) : Die := { d with flash := memWrite d.flash o l }
def rooted (d : Die) : Die := fz (recWords 0x2D0 0) d
def body1 : List Byte := [1,2,3,4,5,6,7,8]
/-- three committed images in slot 0 -/
def imgs (d : Die) : Die := fl (slotOff 0 0) (mkImg 0 3 body1 8) (fl (slotOff 1 0) (mkImg 1 3 body1 8) (fl (slotOff 2 0) (mkImg 2 3 [] 199680) d))
def base : Die := setCore (memAt (memAt upDie (sliceBase 0) 10 3) (storeBase 0) 10 7) 0 (runCore id)
def bs (f : BootSt → BootSt) (d : Die := base) : Die := { d with boot := f d.boot }
def few (d : Die) : Die := { d with ident := { d.ident with coreEn := 3 } }
def bt (step : Nat) (f : Die → Die := id) : Die := f (few (bs (fun b => { b with step := BitVec.ofNat 4 step }) base))
def gr (d : Die) : Die := { d with ident := { d.ident with granted := false, grant := some 0x00020012 } }
def ung (d : Die) : Die := { d with ident := { d.ident with granted := false } , fuse := { d.fuse with sensed := false } }
def goodW (n v : Nat) : Nat × BitVec 64 := (n, fuseFull n (BitVec.ofNat 64 v))
def mon (f : BootSt → BootSt) (d : Die) : Die := { d with boot := f d.boot }
def blk (c : CoreId) (l : List Nat) (d : Die) : Die := setCore d c { getCore d c with portReset := false, monRx := BitVec.ofNat 98 (2 ^ 98 - 1 - (l.map (2 ^ ·)).sum) }
def sts2 : List State := [S (bt 2 (fun d => fz [(3, 0x8000000000000000 ||| 0x4000000000000000 ||| 5)] (ung d))), S (bt 2 (fun d => fz [goodW 1 2, goodW 0x19 5, goodW 0x1A 1] (ung d))), S (bt 3 (fun d => gr (ung d))),
  S (bt 7), S (bt 7 (fun d => { d with lodge := { d.lodge with contentLost := true } })), S (bt 7 (fun d => { d with lodge := { d.lodge with contentLost := true, sparesUsed := [(0, BitVec.allOnes 32)] } })),
  S (bt 8 (fun d => imgs (rooted d))), S (bt 8 rooted),
  S (bt 9 (mon (fun b => { b with blocks := 4, mon := List.replicate 98 [1,2] }))), S (bt 9 (mon (fun b => { b with round := 1, blocks := 98, repairs := [(1, 7), (0, 3)], mon := List.replicate 98 [1,2] }))),
  S (bt 9 (fun d => blk 0 [] (blk 1 [] (mon (fun b => { b with blocks := 98 }) d)))), S (bt 9 (fun d => blk 0 [] (blk 1 [5] (mon (fun b => { b with blocks := 98 }) d)))), S (bt 9 (fun d => blk 0 [] (blk 1 [5] (mon (fun b => { b with blocks := 98, round := 3 }) d)))),
  S (bt 10), S (bt 10 (mon (fun b => { b with reported := 1 }))), S (bt 10 (mon (fun b => { b with reported := 3 }))), S (bt 11 (fun d => { d with ident := { d.ident with countValid := false }, trust := { d.trust with windows := [(0, ⟨0, 0x1000, false, false, true, true, true, 1, []⟩)] } })), S (bt 11)]
def pick (l : List Nat) : List State := l.filterMap (sts2[·]?)
def ws0 : List State := pick [13,14,15,16,17]

theorem test_witness_BootStepsFollow :
    (withVal ((nth ws0 0).die) (fun (d : Die) => withVal (d.boot) (fun (b : BootSt) => decide ((inReset d = false) ∧ (b.step = 10) ∧ (coreInUse d 0#9 = true) ∧ (d.boot.reported.getLsbD (0#9).toNat = false)))) = true) ∧
    (withVal ((nth ws0 0).die) (fun (d : Die) => withVal (d.boot) (fun (b : BootSt) => decide ((inReset d = false) ∧ (b.step = 10)))) = true) ∧
    (withVal ((nth ws0 0).die) (fun (d : Die) => decide ((inReset d = false) ∧ (d.ident.countValid = true))) = true) ∧
    (withVal ((nth ws0 1).die) (fun (d : Die) => withVal (d.boot) (fun (b : BootSt) => decide ((inReset d = false) ∧ (b.step = 10) ∧ (coreInUse d 1#9 = true) ∧ (d.boot.reported.getLsbD (1#9).toNat = false) ∧ (∀ (k : CoreId), coreInUse d k = true → k ≠ 1#9 → d.boot.reported.getLsbD (BitVec.toNat k) = true)))) = true) ∧
    (withVal ((nth ws0 2).die) (fun (d : Die) => withVal (d.boot) (fun (b : BootSt) => decide ((inReset d = false) ∧ (b.step = 10) ∧ (d.boot.reported.getLsbD (0#9).toNat = true) ∧ (coreInUse d 0#9 = true) ∧ (∀ (k : CoreId), coreInUse d k = true → k ≠ 0#9 → d.boot.reported.getLsbD (BitVec.toNat k) = true)))) = true) ∧
    (withVal ((nth ws0 3).die) (fun (d : Die) => withVal (d.boot) (fun (b : BootSt) => decide ((inReset d = false) ∧ (b.step = 11) ∧ (d.ident.countValid = false)))) = true) := by
  decide +kernel

def ws1 : List State := pick [0,1,2]

theorem test_witness_BootStepsFollow_2 :
    (withVal ((nth ws1 0).die) (fun (d : Die) => decide ((inReset d = false) ∧ (d.ident.countValid = true))) = true) := by
  decide +kernel

def ws2 : List State := pick [9,12,10,11]

theorem test_witness_BootStepsFollow_3 :
    (withVal ((nth ws2 0).die) (fun (d : Die) => withVal (d.boot) (fun (b : BootSt) => decide ((b.step = 9) ∧ (b.round ≠ 0) ∧ (b.repairs = [(1#9, 7), (0#9, 3)])))) = true) ∧
    (withVal ((nth ws2 0).die) (fun (d : Die) => withVal (d.boot) (fun (b : BootSt) => decide (((5#8).toNat < 98) ∧ (b.step = 9) ∧ (coreInUse d 0#9 = true) ∧ ((getCore d 0#9).portReset = false) ∧ (blockSent d (5#8).toNat = true)))) = true) ∧
    (withVal ((nth ws2 0).die) (fun (d : Die) => decide ((inReset d = false) ∧ (d.ident.countValid = true))) = true) ∧
    (withVal ((nth ws2 1).die) (fun (d : Die) => withVal (d.boot) (fun (b : BootSt) => decide ((b.step = 9) ∧ (b.blocks = 98) ∧ (b.repairs = []) ∧ (b.round = 3) ∧ (coreInUse d 1#9 = true) ∧ (missingBlocks d = [(1#9, 5)])))) = true) ∧
    (withVal ((nth ws2 2).die) (fun (d : Die) => withVal (d.boot) (fun (b : BootSt) => decide ((b.step = 9) ∧ (b.blocks = 98) ∧ (b.repairs = []) ∧ (missingBlocks d = [])))) = true) ∧
    (withVal ((nth ws2 3).die) (fun (d : Die) => withVal (d.boot) (fun (b : BootSt) => decide ((b.step = 9) ∧ (b.blocks = 98) ∧ (b.repairs = []) ∧ (missingBlocks d ≠ []) ∧ (b.round < 3)))) = true) := by
  decide +kernel


end Wk5

namespace Wm1

def S (d : Die) : State := stateOf d
def base : Die := setCore (memAt (memAt upDie (sliceBase 0) 10 3) (storeBase 0) 10 7) 0 (runCore id)
def bs (f : BootSt → BootSt) (d : Die := base) : Die := { d with boot := f d.boot }
def tst (f : TestSt → TestSt) (d : Die) : Die := { d with test := f d.test }
def noPll (d : Die) : Die := { d with power := { d.power with cpllLock := false } }
def lost (d : Die) : Die := { d with lodge := { d.lodge with contentLost := false }, ledger := { d.ledger with memState := 0 } }
def sts : List State := [S base, S (bs (fun b => { b with porst := true })), S (tst (fun t => { t with ir := 0x20, stmMult := some 20 }) (bs (fun b => { b with porst := true, boots := 0 }))), S (tst (fun t => { t with ir := 0x03 }) (bs (fun b => { b with porst := true }))), S (bs (fun b => { b with porst := true, hubRst := true })),
  S (bs (fun b => { b with hubRst := true, cold := true })), S (bs (fun b => { b with hubRst := true })), S (bs (fun b => { b with step := 15, fail := 1 })), S (bs (fun b => { b with step := 1 })), S (noPll (bs (fun b => { b with step := 1 }))),
  S (bs (fun b => { b with held := 1 })), S (bs (fun b => { b with held := 1, cold := true, boots := 0 })), S (bs (fun b => { b with held := 2 })), S (bs (fun b => { b with held := 3 })), S (bs (fun b => { b with held := 1, porst := true })), S (bs (fun b => { b with aon := false })), S (lost (ledDie base)), S Die.reset]
def e1_states : List State := sts
def ws0 : List State := e1_states

theorem test_witness_ResetsHoldTheDie :
    (withVal ((nth ws0 0).die) (fun (d : Die) => withVal (d.boot) (fun (b : BootSt) => decide ((b.porst = false) ∧ (d.ledger.writes = []) ∧ (openWrites d = []) ∧ (d.fuse.event = none)))) = true) ∧
    (withVal ((nth ws0 0).die) (fun (d : Die) => decide ((inReset d = false) ∧ (senseFailed d = false) ∧ (d.ledger.writes = []) ∧ (openWrites d = []) ∧ (d.fuse.event = none))) = true) ∧
    (withVal ((nth ws0 0).die) (fun (d : Die) => decide ((inReset d = false))) = true) ∧
    (withVal ((nth ws0 0).die) (fun (d : Die) => withVal (d.boot) (fun (b : BootSt) => decide ((bitB b.held 0 = false)))) = true) ∧
    (withVal ((nth ws0 0).die) (fun (d : Die) => withVal (d.boot) (fun (b : BootSt) => decide ((bitB b.held 1 = false)))) = true) ∧
    (withVal ((nth ws0 0).die) (fun (d : Die) => withVal (d.boot) (fun (b : BootSt) => decide ((b.aon = true)))) = true) ∧
    (withVal ((nth ws0 1).die) (fun (d : Die) => withVal (d.boot) (fun (b : BootSt) => decide ((b.porst = true)))) = true) ∧
    (withVal ((nth ws0 1).die) (fun (d : Die) => withVal (d.boot) (fun (b : BootSt) => decide ((b.porst = true) ∧ (b.hubRst = false) ∧ (b.held = 0)))) = true) := by
  decide +kernel

theorem test_witness_ResetsHoldTheDie_b :
    (withVal ((nth ws0 1).die) (fun (d : Die) => withVal (d.boot) (fun (b : BootSt) => decide ((b.hubRst = false) ∧ (inReset d = true ∨ senseFailed d = true)))) = true) ∧
    (withVal ((nth ws0 4).die) (fun (d : Die) => withVal (d.boot) (fun (b : BootSt) => decide ((b.porst = true) ∧ (b.hubRst = true)))) = true) ∧
    (withVal ((nth ws0 4).die) (fun (d : Die) => withVal (d.boot) (fun (b : BootSt) => decide ((b.hubRst = true) ∧ (b.porst = true)))) = true) ∧
    (withVal ((nth ws0 5).die) (fun (d : Die) => withVal (d.boot) (fun (b : BootSt) => decide ((b.hubRst = true) ∧ (b.porst = false) ∧ (b.held = 0) ∧ (senseFailed d = false)))) = true) ∧
    (withVal ((nth ws0 8).die) (fun (d : Die) => withVal (d.boot) (fun (b : BootSt) => decide ((inReset d = false) ∧ (b.step = 1) ∧ (d.power.cpllLock = true)))) = true) ∧
    (withVal ((nth ws0 9).die) (fun (d : Die) => withVal (d.boot) (fun (b : BootSt) => decide ((inReset d = false) ∧ (b.step = 1) ∧ (d.power.cpllLock = false) ∧ (d.test.stm = false)))) = true) ∧
    (withVal ((nth ws0 10).die) (fun (d : Die) => withVal (d.boot) (fun (b : BootSt) => decide ((b.held = 1) ∧ (b.porst = false) ∧ (b.hubRst = false)))) = true) ∧
    (withVal ((nth ws0 12).die) (fun (d : Die) => withVal (d.boot) (fun (b : BootSt) => decide ((b.held = 2) ∧ (b.porst = false) ∧ (b.hubRst = false)))) = true) := by
  decide +kernel

theorem test_witness_ResetsHoldTheDie_c :
    (withVal ((nth ws0 15).die) (fun (d : Die) => withVal (d.boot) (fun (b : BootSt) => decide ((b.aon = false)))) = true) := by
  decide +kernel


end Wm1

namespace Wm2

def S (d : Die) : State := stateOf d
def base : Die := setCore (memAt (memAt upDie (sliceBase 0) 4 3) (storeBase 0) 100 7) 0 (rin (runCore id))
def tst (f : TestSt → TestSt) (d : Die) : Die := { d with test := f d.test }
def rst (d : Die) : Die := { d with boot := { d.boot with hubRst := true } }
def aon0 (d : Die) : Die := { d with boot := { d.boot with aon := false } }
def sealed' (d : Die) : Die := { d with test := { d.test with sealed := some (fuseFull 0x2FF 1) } }
def porst (d : Die) : Die := { d with boot := { d.boot with porst := true } }
def dbg (sc : Nat) (d : Die := base) : Die := { d with trust := { d.trust with dbgOpen := true, dbgScope := BitVec.ofNat 5 sc } }
def sts : List State := [S base, S (tst (fun t => { t with stm := true }) base), S (porst base), S (sealed' (tst (fun t => { t with stm := true }) base)), S (aon0 base), S (dbg 31), S (rst (tst (fun t => { t with stm := true }) base))]
def e1_states : List State := sts
def dsts : List State := [S base, S (dbg 31), S (dbg 0), S (dbg 31 (aon0 base)), S (dbg 31 (tst (fun t => { t with dbgCtl := 0x50000000 }) base)), S (dbg 31 { base with ident := { base.ident with coreEn := 3 } })]
def lpp (f : LinkSt → LinkSt) (d : Die) : Die := { d with link := f d.link }
def lsts : List State := [S base, S (tst (fun t => { t with loop := 0x40000000, loopRun := 5 * 64 + 3 }) base), S (tst (fun t => { t with stm := true }) base), S (lpp (fun l => { l with agreed := 0, state := 3 }) base), S (lpp (fun l => { l with agreed := 0 }) base), S (rst base), S (tst (fun t => { t with loop := 0x40000000, loopRun := 5 * 64 + 3, loopRes := [(0, 7), (2, 9)] }) base)]
def ws0 : List State := e1_states

theorem test_witness_TapAndLoopback_TapSelects :
    (withVal ((nth ws0 0).die) (fun (d : Die) => decide ((tapUp d = true))) = true) ∧
    (withVal ((nth ws0 0).die) (fun (d : Die) => withVal (d.test) (fun (t : TestSt) => withVal (isSealed d) (fun (sealed : Bool) => decide ((sealed = true ∨ t.stm = false) ∧ (tapUp d = true))))) = true) ∧
    (withVal ((nth ws0 1).die) (fun (d : Die) => withVal (d.test) (fun (t : TestSt) => withVal (isSealed d) (fun (sealed : Bool) => decide ((sealed = false) ∧ (t.stm = true) ∧ (inReset d = false) ∧ (tapUp d = true))))) = true) ∧
    (withVal ((nth ws0 4).die) (fun (d : Die) => decide ((tapUp d = false) ∧ (([Instr.tapReset, Instr.idcode, Instr.samplePreload 0#25, Instr.extest, Instr.stmEnter 0#8, Instr.wrap, Instr.scan, Instr.mbist, Instr.tier, Instr.loopSelect 0#32, Instr.bypass]).any (fun (i : Instr) => true) = true))) = true) := by
  decide +kernel

def ws1 : List State := dsts

theorem test_witness_DebugAccesses :
    (withVal ((nth ws1 0).die) (fun (d : Die) => withVal ((0#38).toNat) (fun (o : ℕ) => decide ((d.trust.dbgOpen = false ∨ o % 8 ≠ 0)))) = true) ∧
    (withVal ((nth ws1 0).die) (fun (d : Die) => withVal ((0#38).toNat) (fun (o : ℕ) => decide ((tapUp d = true) ∧ (covers d false o 0#64 = false)))) = true) ∧
    (withVal ((nth ws1 1).die) (fun (d : Die) => withVal (BitVec.extractLsb' 19 9 268435456#32) (fun (who : BitVec 9) => decide ((tapUp d = true) ∧ ((d.trust.dbgOpen && bitB d.trust.dbgScope 4) = true) ∧ (coreInUse d who = true) ∧ (bitB (268435456#32) 28 = true) ∧ (bitB (268435456#32) 29 = false)))) = true) ∧
    (withVal ((nth ws1 1).die) (fun (d : Die) => withVal ((0#38).toNat) (fun (o : ℕ) => decide ((tapUp d = true) ∧ (coreInUse d 0#9 = true) ∧ ((d.trust.dbgOpen && bitB d.trust.dbgScope 2) = true) ∧ (o % 8 = 0) ∧ (sliceBase 0#9 ≤ o) ∧ (o < sliceBase 0#9 + sliceSize) ∧ (ueIn d (0#9) (o % sliceSize) 8 = none)))) = true) ∧
    (withVal ((nth ws1 1).die) (fun (d : Die) => withVal ((0#38).toNat) (fun (o : ℕ) => decide ((tapUp d = true) ∧ (coreInUse d 0#9 = true) ∧ ((d.trust.dbgOpen && bitB d.trust.dbgScope 2) = true) ∧ (o % 8 = 0) ∧ (sliceBase 0#9 ≤ o) ∧ (o < sliceBase 0#9 + sliceSize)))) = true) ∧
    (withVal ((nth ws1 1).die) (fun (d : Die) => decide ((tapUp d = true) ∧ ((d.trust.dbgOpen && bitB d.trust.dbgScope 3) = true) ∧ (bitB (1073807360#32) 28 = false))) = true) ∧
    (withVal ((nth ws1 1).die) (fun (d : Die) => withVal ((4294967296#38).toNat) (fun (o : ℕ) => decide ((tapUp d = true) ∧ (coreInUse d 0#9 = true) ∧ ((d.trust.dbgOpen && bitB d.trust.dbgScope 2) = true) ∧ (o % 8 = 0) ∧ (storeBase 0#9 ≤ o) ∧ (o < storeBase 0#9 + storeSize)))) = true) ∧
    (withVal ((nth ws1 3).die) (fun (d : Die) => decide ((tapUp d = false))) = true) := by
  decide +kernel

theorem test_witness_DebugAccesses_b :
    (withVal ((nth ws1 4).die) (fun (d : Die) => withVal (d.test) (fun (t : TestSt) => withVal (BitVec.extractLsb' 19 9 1342177280#32) (fun (who : BitVec 9) => decide ((1342177280#32 = t.dbgCtl) ∧ (tapUp d = true) ∧ ((d.trust.dbgOpen && bitB d.trust.dbgScope 4) = true) ∧ (coreInUse d who = true) ∧ (bitB (1342177280#32) 28 = true))))) = true) ∧
    (withVal ((nth ws1 5).die) (fun (d : Die) => withVal (BitVec.extractLsb' 19 9 1344798720#32) (fun (who : BitVec 9) => withVal (bitB (1344798720#32) 18) (fun (thr : Bool) => decide ((tapUp d = true) ∧ ((d.trust.dbgOpen && bitB d.trust.dbgScope 4) = true) ∧ (coreInUse d who = false) ∧ (bitB (1344798720#32) 28 = true) ∧ (bitB (1344798720#32) 30 = true) ∧ ((threadAt d who thr).dbgHalted = false))))) = true) := by
  decide +kernel

def ws2 : List State := lsts

theorem test_witness_TapAndLoopback_LoopbackRuns :
    (withVal ((nth ws2 0).die) (fun (d : Die) => withVal (d.test) (fun (t : TestSt) => withVal (bitB t.loop 30) (fun (busy : Bool) => decide ((busy = false))))) = true) ∧
    (withVal ((nth ws2 0).die) (fun (d : Die) => withVal (d.test) (fun (t : TestSt) => withVal (bitB t.loop 30) (fun (busy : Bool) => decide ((inReset d = false) ∧ (busy = true ∨ t.stm = false ∧ (bitB d.link.agreed (0#5).toNat = true ∨ 2 ≤ d.link.state.toNat ∧ d.link.state.toNat ≤ 6)))))) = true) ∧
    (withVal ((nth ws2 1).die) (fun (d : Die) => withVal (d.test) (fun (t : TestSt) => withVal (bitB t.loop 30) (fun (busy : Bool) => decide ((busy = true) ∧ (inRun d { m := 0#8, pass := true, wire := 0#7, errors := 0#32 : LoopResult }.m.toNat = false))))) = true) ∧
    (withVal ((nth ws2 2).die) (fun (d : Die) => withVal (d.test) (fun (t : TestSt) => withVal (bitB t.loop 30) (fun (busy : Bool) => decide ((inReset d = false) ∧ (busy = false) ∧ (¬(t.stm = false ∧ (bitB d.link.agreed (0#5).toNat = true ∨ 2 ≤ d.link.state.toNat ∧ d.link.state.toNat ≤ 6))))))) = true) ∧
    (withVal ((nth ws2 5).die) (fun (d : Die) => withVal (d.test) (fun (t : TestSt) => decide ((inReset d = true)))) = true) := by
  decide +kernel


end Wm2

namespace Wm3

def S (d : Die) : State := stateOf d
def K : List Byte := List.replicate 57 9#8
def fz (l : List (Nat × BitVec 64)) (d : Die) : Die := { d with fuse := { d.fuse with otp := l.foldl (fun t p => tabSet 0 t p.1 p.2) d.fuse.otp, seen := l.foldl (fun t p => tabSet 0 t p.1 p.2) d.fuse.seen } }
def recWords (base : Nat) (use : Nat) : List (Nat × BitVec 64) := let r := Config.shake256 64 K ++ leBytes 2 use; (List.range 11).map (fun i => (base + i, fuseFull (base + i) (BitVec.ofNat 64 (deLE r (6 * i) 6))))
def put (l : List Byte) (o : Nat) (v : List Byte) : List Byte := l.take o ++ v ++ l.drop (o + v.length)
def mkImg (image sec : Nat) (body : List Byte) (len : Nat) (sig : Byte := 1) (signer := 0) : List Byte :=
  let h := List.replicate 512 (0 : Byte)
  let h := put (put (put (put h 0 (leBytes 4 0x4D495A4B)) 4 [BitVec.ofNat 8 image, BitVec.ofNat 8 sec, BitVec.ofNat 8 signer, 0]) 8 (leBytes 4 len)) 0x60 K
  let h := put h 0x20 (Config.shake256 64 (if image = 2 then List.replicate 3072 0 else body))
  put h 0x180 [sig] ++ body
def fl (o : Nat) (l : List Byte) (d : Die) : Die := { d with flash := memWrite d.flash o l }
def rooted (d : Die) : Die := fz (recWords 0x2D0 0) d
def body1 : List Byte := [1,2,3,4,5,6,7,8]
def base : Die := rooted (setCore upDie 0 (runCore id))
def S0 : Nat := 0x600000
def memW (o : Nat) (l : List Byte) (d : Die) : Die := { d with pkg := memWrite d.pkg o l }
def sec2 (d : Die) : Die := fz [(0x264, fuseFull 0x264 1), (0x265, fuseFull 0x265 1)] d
def rq (op : Nat) (p : List Byte) (d : Die) (src : Source := .host) : State := S (withReqs [mkMsg op 0 p src] d)
def stg (image : Nat) (l : List Byte) (d : Die) : State := rq opFwStage (payl 16 [(0, 1, image), (4, 4, l.length), (8, 8, S0)]) (memW S0 l d)
def cmt (image : Nat) (d : Die) : State := rq opFwCommit [BitVec.ofNat 8 image] d
def good0 : List Byte := mkImg 0 3 body1 8
def good1 : List Byte := mkImg 1 3 body1 8
def puf (d : Die) : Die := fz [(0x2DB, 5)] d
def fsts : List State := [stg 0 good0 base, stg 0 (good0 ++ [1]) base, stg 1 good1 base, stg 0 (mkImg 0 3 body1 8 2) base, stg 0 (mkImg 0 3 body1 8 1 1) base, stg 0 (mkImg 0 1 body1 8) (sec2 base),
  stg 0 (put good0 0x20 [0xAA, 0x55]) base, cmt 0 base, cmt 0 (fl (slotOff 0 1) good0 base), cmt 0 (fl (slotOff 0 1) (mkImg 0 3 body1 8 2) base), cmt 1 (fl (slotOff 1 1) (mkImg 1 1 body1 8) (sec2 base)),
  rq opAttest (payl 40 [(0, 8, 0x123456), (32, 8, S0 + 1024)]) base, rq opAttest (payl 40 [(0, 8, 0x123456), (32, 8, S0 + 1024)]) (puf base)]
def kH : List Byte := K
def auth (kind arg : Nat) (d : Die) (more : List (Nat × Nat × Nat) := []) (sig : Byte := 1) : List Byte :=
  let h := List.replicate 384 (0 : Byte)
  let h := put (put (put (put h 0 (leBytes 4 0x41465A4B)) 4 [BitVec.ofNat 8 kind, BitVec.ofNat 8 arg, 0, BitVec.ofNat 8 (128 - logFree d)]) 8 (leBytes 8 (dieSerial d))) 0x58 kH
  put (more.foldl (fun l f => put l f.1 (leBytes f.2.1 f.2.2)) h) 0x100 [sig]
def pg (b : Bool) (d : Die) : Die := { d with fuse := { d.fuse with efusePg := b } }
def fp (kind arg : Nat) (d : Die) (l : List Byte) (pgood : Bool := true) : State := rq opFuseProgram (payl 16 ([(0, 1, kind), (1, 1, arg)] ++ (if kind = 4 then [] else [(8, 8, S0)]))) (pg pgood (memW S0 l d))
def full (d : Die) : Die := fz ((List.range 128).map (fun i => (0x2FF + i, fuseFull (0x2FF + i) 1))) d
def soft (d : Die) : Die := { d with lodge := { d.lodge with softLog := [0x00000100, 0x00000210] } }
def ev (kind : Nat) (ws : List (Nat × Nat)) (d : Die) : State := S (withReqs [mkMsg opFuseProgram 0 (payl 16 [(0, 1, kind), (1, 1, 1)])] { d with fuse := { d.fuse with programming := true, efusePg := true, event := some ⟨ws.map (fun p => (BitVec.ofNat 10 p.1, fuseFull p.1 (BitVec.ofNat 64 p.2))), mkMsg opFuseProgram 0 (payl 16 [(0, 1, kind), (1, 1, 1)]), BitVec.ofNat 8 kind⟩ }, trust := { d.trust with busy := true } })
def psts : List State := [fp 0 1 base (auth 0 1 base), fp 0 2 base (auth 0 2 base), fp 0 1 (sec2 base) [], fp 0 65 base [], fp 0 1 base (auth 0 1 base) false, fp 0 1 (full base) (auth 0 1 base), fp 0 1 base (auth 0 1 base [] 3), fp 0 1 base (auth 0 2 base),
  fp 0 2 (fl (slotOff 0 0) (mkImg 0 1 body1 8) base) (auth 0 2 base),
  fp 1 0 base (auth 1 0 base [(0x10, 8, 0x1234567890)]), fp 1 0 (fz [(0x2A4, 3)] base) [], fp 2 2 base (auth 2 2 base), fp 2 2 (fz [(1, fuseFull 1 3)] base) [], fp 3 0 base (auth 3 0 base), fp 3 0 (fz [(0x2FE, fuseFull 0x2FE 1)] base) [], fp 4 1 (soft base) [], fp 4 2 (soft base) [], fp 4 1 base [], fp 4 1 (soft base) [] false,
  ev 0 [(0x2FF, 5), (0x264, 3)] base, ev 0 [(0x264, 3)] base, ev 2 [(0x2FB, 2)] base, ev 3 [(0x2FE, 2)] base, S base, S (pg true base)]
def ws0 : List State := fsts

theorem test_witness_FirmwareIsStaged :
    (withVal ((nth ws0 7).die) (fun (d : Die) => withVal (clip (rqs (nth ws0 7) 0)) (fun (m : Msg) => withVal (msgByte m 16) (fun (image : ℕ) => withVal (msgLE m 24 8) (fun (src : ℕ) => withVal (msgLE m 20 4) (fun (len : ℕ) => withVal (1 - committedSlot d image) (fun (other : ℕ) => decide ((d.stew.requests[0]? = some (rqs (nth ws0 7) 0) ∧ msgOp (rqs (nth ws0 7) 0) = opFwCommit ∧ stewardUp d = true ∧ inTurn d 0 (rqs (nth ws0 7) 0) = true ∧ (ledgerOp opFwCommit = true → d.ledger.memState = 0 ∧ dirEn d = true) ∧ checkReq d (clip (rqs (nth ws0 7) 0)) 1 (fwBad (clip (rqs (nth ws0 7) 0))) CtxUse.none = none ∧ argsOk d (noArgs d (clip (rqs (nth ws0 7) 0))) = true) ∧ (slotEmpty d image other = true)))))))) = true) := by
  decide +kernel

def ws1 : List State := psts

theorem test_witness_FusesAreProgrammed :
    (withVal ((nth ws1 0).die) (fun (d : Die) => decide ((d.fuse.event = none))) = true) ∧
    (withVal ((nth ws1 19).die) (fun (d : Die) => decide (([(612#10, 13878405201695604739#64)] ≠ []) ∧ ((d.fuse.event).any (fun (ev : FuseEvent) => decide ((ev.words = [(767#10, 13872775702161391621#64), (612#10, 13878405201695604739#64)]))) = true))) = true) ∧
    (withVal ((nth ws1 19).die) (fun (d : Die) => (d.fuse.event).any (fun (ev : FuseEvent) => decide ((ev.words = [(767#10, 13872775702161391621#64), (612#10, 13878405201695604739#64)])))) = true) ∧
    (withVal ((nth ws1 20).die) (fun (d : Die) => (d.fuse.event).any (fun (ev : FuseEvent) => decide ((ev.words = [(612#10, 13878405201695604739#64)])))) = true) := by
  decide +kernel

def ws2 : List State := psts ++ [ev 0 [(0x264, 3)] (fl (slotOff 0 0) (mkImg 0 0 body1 8) base)]

theorem test_witness_SecurityVersionSteps :
    (withVal ((nth ws2 20).die) (fun (d : Die) => withVal (clip (rqs (nth ws2 20) 0)) (fun (m : Msg) => withVal (authBytes d m) (fun (l : List Byte) => (d.fuse.event).any (fun (ev : FuseEvent) => decide ((ev.kind = 0) ∧ (ev.words = [(612#10, 13878405201695604739#64)])))))) = true) := by
  decide +kernel


end Wm3

namespace Wm4

def S (d : Die) : State := stateOf d
def K : List Byte := List.replicate 57 9#8
def fz (l : List (Nat × BitVec 64)) (d : Die) : Die := { d with fuse := { d.fuse with otp := l.foldl (fun t p => tabSet 0 t p.1 p.2) d.fuse.otp, seen := l.foldl (fun t p => tabSet 0 t p.1 p.2) d.fuse.seen } }
def recWords (base : Nat) (use : Nat) : List (Nat × BitVec 64) := let r := Config.shake256 64 K ++ leBytes 2 use; (List.range 11).map (fun i => (base + i, fuseFull (base + i) (BitVec.ofNat 64 (deLE r (6 * i) 6))))
def base : Die := fz (recWords 0x2D0 0) (setCore upDie 0 (runCore id))
def tr (f : TrustSt → TrustSt) (d : Die := base) : Die := { d with trust := f d.trust }
def wi (g o c : Bool) (ad := false) : Window := { Window.reset with base := 0, limit := 0xFC0, granted := g, open_ := o, closing := c, r := true, w := true, pairs := 1 , admitted := if ad then [(0, 5)] else [] }
def nn (d : Die) : Die := tr (fun t => { t with nonce := some 0x1234, windows := [(0, wi true true false), (1, wi true false true), (3, wi false false false)] }) d
def halt (d : Die) : Die := setCore d 0 { getCore d 0 with t0 := { (getCore d 0).t0 with dbgHalted := true }, t1 := { (getCore d 0).t1 with dbgStep := true } }
def opn (d : Die) : Die := halt { (tr (fun t => { t with dbgOpen := true, dbgScope := 5, dbgSeconds := 77 }) d) with test := { d.test with stewHalted := 5 } }
def dq (d : Die) : Die := putMod (tr (fun t => { t with windows := t.windows.map (fun p => (p.1, { p.2 with admitted := [(0, 5)] })) }) d) 3 { Module.reset with queue := [⟨1, 1, .response 0 5 0 none⟩] }
def sts : List State := [S base, S (nn base), S (dq (nn base)), S (opn (nn base)), S (tr (fun t => { t with pendingSession := some (3, 60) })), S (tr (fun t => { t with pendingSession := some (3, 60) }) (nn base)), S (tr (fun t => { t with dbgFails := 8 }) (nn base)), S { (nn base) with boot := { base.boot with aon := false } }, S { (nn base) with boot := { base.boot with hubRst := true } },
  S (fz [(0x2FE, fuseFull 0x2FE 1)] (nn base)), S { (opn (nn base)) with boot := { base.boot with step := 5 } }, S { (nn base) with test := { base.test with stm := true } }]
def ws0 : List State := sts

theorem test_witness_WindowsAndSessions :
    (withVal ((nth ws0 0).die) (fun (d : Die) => withVal (d.trust) (fun (t : TrustSt) => withVal (tabGet Window.reset t.windows (0#3).toNat) (fun (w : Window) => decide ((stillOpen d w = false))))) = true) ∧
    (withVal ((nth ws0 0).die) (fun (d : Die) => withVal (d.trust) (fun (t : TrustSt) => decide ((t.pendingSession = none)))) = true) ∧
    (withVal ((nth ws0 0).die) (fun (d : Die) => withVal (d.trust) (fun (t : TrustSt) => decide ((t.dbgOpen = false)))) = true) ∧
    (withVal ((nth ws0 1).die) (fun (d : Die) => withVal (d.trust) (fun (t : TrustSt) => decide ((1 < 8) ∧ ((tabGet Window.reset t.windows 1).closing = true)))) = true) ∧
    (withVal ((nth ws0 2).die) (fun (d : Die) => withVal (d.trust) (fun (t : TrustSt) => withVal (tabGet Window.reset t.windows (0#3).toNat) (fun (w : Window) => decide ((stillOpen d w = true))))) = true) ∧
    (withVal ((nth ws0 3).die) (fun (d : Die) => withVal (d.trust) (fun (t : TrustSt) => decide ((t.dbgOpen = true)))) = true) ∧
    (withVal ((nth ws0 7).die) (fun (d : Die) => withVal (d.trust) (fun (t : TrustSt) => decide ((d.boot.aon = false)))) = true) := by
  decide +kernel


end Wm4

namespace Wm5

def S (d : Die) : State := stateOf d
def up2 : Die := { upDie with ident := { upDie.ident with coreEn := 3 } }
def op0 : ArrOp := { kind := .mma, thread := false, half := .full, reg := 1, start := 1, accept := 120, tLast := 200, due := 1000, lodge := false, latch := none, verdict := ⟨false,false,false,0,0⟩, verdictMade := false, ports := 0, portsTo := 1, wports := 0, evs := [], clr := false, copied := false, copy := 0, cleared := false, ring := none, part := none, seq := 3, pc := 0 }
def base : Die := setCore up2 0 (rin (runCore id))
def busyC (f : Core → Core := id) : Die := setCore up2 0 (f (rin { (runCore id) with ops := [op0] }))
def rst (d : Die) : Die := { d with boot := { d.boot with hubRst := true } }
def stp (n : Nat) (d : Die) : Die := { d with boot := { d.boot with step := BitVec.ofNat 4 n } }
def fzv (d : Die) : Die := { d with fuse := { d.fuse with otp := [(1, fuseFull 1 2)], seen := [(1, fuseFull 1 2)] } }
def lk (n : Nat) (d : Die) : Die := { d with link := { d.link with state := BitVec.ofNat 4 n } }
def dbg (d : Die) : Die := { d with trust := { d.trust with dbgOpen := true, dbgScope := 0x1F } }
def sts : List State := [S base, S (busyC), S (busyC (fun x => { x with split := true })), S (rst base), S (stp 7 (fzv base)), S (lk 3 base), S (dbg base), S (setCore up2 0 (rin { (runCore id) with accCfg := 0 })) , S (setCore up2 0 (rin { (runCore id) with accCfg := 0x1F00 }))]
def e1_states : List State := sts
def ws0 : List State := e1_states

theorem test_witness_RegisterWritesLoad :
    (withVal ((nth ws0 0).die) (fun (d : Die) => withVal (getCore d 0#9) (fun (x : Core) => decide ((inReset d = false)))) = true) ∧
    (withVal ((nth ws0 0).die) (fun (d : Die) => withVal (getCore d 0#9) (fun (x : Core) => decide ((inReset d = false) ∧ (coreInUse d 0#9 = true)))) = true) ∧
    (withVal ((nth ws0 0).die) (fun (d : Die) => withVal (getCore d 0#9) (fun (x : Core) => decide ((inReset d = true ∨ (131072#26).toNat % 4 ≠ 0 ∨ regMapped d (131072#26).toNat = false ∨ Agent.keyholder = Agent.debug ∧ debugWrites d = false ∨ Agent.keyholder = Agent.keyholder ∧ d.boot.step ≠ 7 ∧ d.boot.step ≠ 8)))) = true) ∧
    (withVal ((nth ws0 3).die) (fun (d : Die) => withVal (getCore d 0#9) (fun (x : Core) => decide ((coreInUse d 0#9 = false ∨ inReset d = true) ∧ (([Instr.coreSrSeedWrite (0#9) false 0#64, Instr.accCfgWrite 0#9 1#32, Instr.abftCfgWrite (0#9) false false 1#32, Instr.coreRingWrite 0#9 0#3 0#64]).any (fun (i : Instr) => true) = true)))) = true) := by
  decide +kernel


end Wm5

namespace Wm6

def S (d : Die) : State := stateOf d
def up2 : Die := { upDie with ident := { upDie.ident with coreEn := 3 } }
def op0 : ArrOp := { kind := .mma, thread := false, half := .full, reg := 1, start := 1, accept := 120, tLast := 200, due := 1000, lodge := false, latch := none, verdict := ⟨false,false,false,0,0⟩, verdictMade := false, ports := 0, portsTo := 1, wports := 0, evs := [], clr := false, copied := false, copy := 0, cleared := false, ring := none, part := none, seq := 3, pc := 0 }
def base : Die := setCore up2 0 (rin (runCore id))
def ac (n : Nat) (d : Die) : Die := { d with aclk := n }
def an (l : List (Nat × BitVec 6 × BitVec 64)) : Die := setCore up2 0 (rin (runCore (fun t => { t with answers := l })))
def cold (f : Core → Core) : Die := setCore up2 0 (f (rin (runCore id)))
def sts : List State := [S base, S Die.reset, S (ac 300 base), S (an [(1, 3, 7)]), S (an [(5, 3, 7)]), S (an [(1, 3, 7), (9, 4, 8)]), S (an [(0, 3, 7), (1, 3, 8)]), S (ac 300 (cold (fun x => { x with split := true, cold0 := false, cold1 := true, lastAct0 := 3, lastAct1 := 200 }))), S (ac 300 (cold (fun x => { x with cold0 := false, cold1 := false, lastAct0 := 3, lastAct1 := 3 }))),
  S (ac 256 (cold (fun x => { x with cold0 := false, cold1 := false, lastAct0 := 0, lastAct1 := 0 }))), S (ac 255 (cold (fun x => { x with cold0 := false, cold1 := false, lastAct0 := 0, lastAct1 := 0 }))), S (cold (fun x => { x with ops := [op0], cold0 := false, cold1 := false })), S (ac 1000 (cold (fun x => { x with ops := [op0], cold0 := false, cold1 := false })))]
def e1_states : List State := sts
def ws0 : List State := e1_states

theorem test_witness_TimePasses :
    (((nth ws0 0).pending = [])) := by
  decide +kernel


end Wm6

namespace Wm7

def e1_states : List State := []
def ws0 : List State := e1_states

theorem test_witness_FlitsAndWires_WiresCarryFlits :
    ((0 < 68) ∧ (wireOf (32896#16) 0 ≠ 0)) ∧
    ((0 < 68)) ∧
    ((0 < 64)) ∧
    ((0 < 1024)) := by
  decide +kernel


end Wm7

namespace Wa14

def w1 (i : Nat) : BitVec 58 := bitsOf [(54, 1), (50, i)]
def e1_states : List State := ([0,1,2,3,4,6,8,9,0xA,0x10,0x11,0x12,0x13,0x14,0x15,0x20,0x21,0x22,0x23,0x24,0x25,0x26,0x28,0x29,0x2A,0x30,0x31,0x32,0x33,0x34,0x38,0x39,0x3A,0x3C,0x3D,0x3E,0x3F,0x05].flatMap (fun op =>
    (([0, 4, 8, 2, 6, 10]).map (fun i => wordState op (w1 i)))))
def ws0 : List State := e1_states

theorem test_witness_FalseGuardIsNop :
    (withVal ((nth ws0 0).die) (fun (d : Die) => withVal (getCore d 0#9) (fun (x : Core) => withVal (threadAt d (0#9) false) (fun (th : Thread) => withVal (tabGet 0 x.pmem th.pc) (fun (W : BitVec 64) => decide (((Instr.nop (0#9) false 18014398509481984#58).wf = true) ∧ (canDispatch th = true) ∧ (th.pc ≤ 4095) ∧ (x.pmemBad.contains th.pc = false) ∧ (W = mkWord 0 18014398509481984#58) ∧ (guardHolds th.preds W = false)))))) = true) ∧
    (withVal ((nth ws0 6).die) (fun (d : Die) => withVal (getCore d 0#9) (fun (x : Core) => withVal (threadAt d (0#9) false) (fun (th : Thread) => withVal (tabGet 0 x.pmem th.pc) (fun (W : BitVec 64) => decide (((Instr.halt (0#9) false 18014398509481984#58).wf = true) ∧ (canDispatch th = true) ∧ (th.pc ≤ 4095) ∧ (x.pmemBad.contains th.pc = false) ∧ (W = mkWord 1 18014398509481984#58) ∧ (guardHolds th.preds W = false)))))) = true) ∧
    (withVal ((nth ws0 12).die) (fun (d : Die) => withVal (getCore d 0#9) (fun (x : Core) => withVal (threadAt d (0#9) false) (fun (th : Thread) => withVal (tabGet 0 x.pmem th.pc) (fun (W : BitVec 64) => decide (((Instr.br (0#9) false 18014398509481984#58).wf = true) ∧ (canDispatch th = true) ∧ (th.pc ≤ 4095) ∧ (x.pmemBad.contains th.pc = false) ∧ (W = mkWord 2 18014398509481984#58) ∧ (guardHolds th.preds W = false)))))) = true) ∧
    (withVal ((nth ws0 18).die) (fun (d : Die) => withVal (getCore d 0#9) (fun (x : Core) => withVal (threadAt d (0#9) false) (fun (th : Thread) => withVal (tabGet 0 x.pmem th.pc) (fun (W : BitVec 64) => decide (((Instr.brc (0#9) false 18014398509481984#58).wf = true) ∧ (canDispatch th = true) ∧ (th.pc ≤ 4095) ∧ (x.pmemBad.contains th.pc = false) ∧ (W = mkWord 3 18014398509481984#58) ∧ (guardHolds th.preds W = false)))))) = true) ∧
    (withVal ((nth ws0 24).die) (fun (d : Die) => withVal (getCore d 0#9) (fun (x : Core) => withVal (threadAt d (0#9) false) (fun (th : Thread) => withVal (tabGet 0 x.pmem th.pc) (fun (W : BitVec 64) => decide (((Instr.loop (0#9) false 18014398509481984#58).wf = true) ∧ (canDispatch th = true) ∧ (th.pc ≤ 4095) ∧ (x.pmemBad.contains th.pc = false) ∧ (W = mkWord 4 18014398509481984#58) ∧ (guardHolds th.preds W = false)))))) = true) ∧
    (withVal ((nth ws0 30).die) (fun (d : Die) => withVal (getCore d 0#9) (fun (x : Core) => withVal (threadAt d (0#9) false) (fun (th : Thread) => withVal (tabGet 0 x.pmem th.pc) (fun (W : BitVec 64) => decide (((Instr.waitev (0#9) false 18014398509481984#58).wf = true) ∧ (canDispatch th = true) ∧ (th.pc ≤ 4095) ∧ (x.pmemBad.contains th.pc = false) ∧ (W = mkWord 6 18014398509481984#58) ∧ (guardHolds th.preds W = false)))))) = true) ∧
    (withVal ((nth ws0 36).die) (fun (d : Die) => withVal (getCore d 0#9) (fun (x : Core) => withVal (threadAt d (0#9) false) (fun (th : Thread) => withVal (tabGet 0 x.pmem th.pc) (fun (W : BitVec 64) => decide (((Instr.salu (0#9) false 18014398509481984#58).wf = true) ∧ (canDispatch th = true) ∧ (th.pc ≤ 4095) ∧ (x.pmemBad.contains th.pc = false) ∧ (W = mkWord 8 18014398509481984#58) ∧ (guardHolds th.preds W = false)))))) = true) ∧
    (withVal ((nth ws0 42).die) (fun (d : Die) => withVal (getCore d 0#9) (fun (x : Core) => withVal (threadAt d (0#9) false) (fun (th : Thread) => withVal (tabGet 0 x.pmem th.pc) (fun (W : BitVec 64) => decide (((Instr.sli (0#9) false 18014398509481984#58).wf = true) ∧ (canDispatch th = true) ∧ (th.pc ≤ 4095) ∧ (x.pmemBad.contains th.pc = false) ∧ (W = mkWord 9 18014398509481984#58) ∧ (guardHolds th.preds W = false)))))) = true) := by
  decide +kernel

theorem test_witness_FalseGuardIsNop_b :
    (withVal ((nth ws0 48).die) (fun (d : Die) => withVal (getCore d 0#9) (fun (x : Core) => withVal (threadAt d (0#9) false) (fun (th : Thread) => withVal (tabGet 0 x.pmem th.pc) (fun (W : BitVec 64) => decide (((Instr.scmp (0#9) false 18014398509481984#58).wf = true) ∧ (canDispatch th = true) ∧ (th.pc ≤ 4095) ∧ (x.pmemBad.contains th.pc = false) ∧ (W = mkWord 10 18014398509481984#58) ∧ (guardHolds th.preds W = false)))))) = true) ∧
    (withVal ((nth ws0 54).die) (fun (d : Die) => withVal (getCore d 0#9) (fun (x : Core) => withVal (threadAt d (0#9) false) (fun (th : Thread) => withVal (tabGet 0 x.pmem th.pc) (fun (W : BitVec 64) => decide (((Instr.wbl (0#9) false 18014398509481984#58).wf = true) ∧ (canDispatch th = true) ∧ (th.pc ≤ 4095) ∧ (x.pmemBad.contains th.pc = false) ∧ (W = mkWord 16 18014398509481984#58) ∧ (guardHolds th.preds W = false)))))) = true) ∧
    (withVal ((nth ws0 60).die) (fun (d : Die) => withVal (getCore d 0#9) (fun (x : Core) => withVal (threadAt d (0#9) false) (fun (th : Thread) => withVal (tabGet 0 x.pmem th.pc) (fun (W : BitVec 64) => decide (((Instr.wbgo (0#9) false 18014398509481984#58).wf = true) ∧ (canDispatch th = true) ∧ (th.pc ≤ 4095) ∧ (x.pmemBad.contains th.pc = false) ∧ (W = mkWord 17 18014398509481984#58) ∧ (guardHolds th.preds W = false)))))) = true) ∧
    (withVal ((nth ws0 66).die) (fun (d : Die) => withVal (getCore d 0#9) (fun (x : Core) => withVal (threadAt d (0#9) false) (fun (th : Thread) => withVal (tabGet 0 x.pmem th.pc) (fun (W : BitVec 64) => decide (((Instr.wbwait (0#9) false 18014398509481984#58).wf = true) ∧ (canDispatch th = true) ∧ (th.pc ≤ 4095) ∧ (x.pmemBad.contains th.pc = false) ∧ (W = mkWord 18 18014398509481984#58) ∧ (guardHolds th.preds W = false)))))) = true) ∧
    (withVal ((nth ws0 72).die) (fun (d : Die) => withVal (getCore d 0#9) (fun (x : Core) => withVal (threadAt d (0#9) false) (fun (th : Thread) => withVal (tabGet 0 x.pmem th.pc) (fun (W : BitVec 64) => decide (((Instr.wbnext (0#9) false 18014398509481984#58).wf = true) ∧ (canDispatch th = true) ∧ (th.pc ≤ 4095) ∧ (x.pmemBad.contains th.pc = false) ∧ (W = mkWord 19 18014398509481984#58) ∧ (guardHolds th.preds W = false)))))) = true) ∧
    (withVal ((nth ws0 78).die) (fun (d : Die) => withVal (getCore d 0#9) (fun (x : Core) => withVal (threadAt d (0#9) false) (fun (th : Thread) => withVal (tabGet 0 x.pmem th.pc) (fun (W : BitVec 64) => decide (((Instr.caravan (0#9) false 18014398509481984#58).wf = true) ∧ (canDispatch th = true) ∧ (th.pc ≤ 4095) ∧ (x.pmemBad.contains th.pc = false) ∧ (W = mkWord 20 18014398509481984#58) ∧ (guardHolds th.preds W = false)))))) = true) ∧
    (withVal ((nth ws0 84).die) (fun (d : Die) => withVal (getCore d 0#9) (fun (x : Core) => withVal (threadAt d (0#9) false) (fun (th : Thread) => withVal (tabGet 0 x.pmem th.pc) (fun (W : BitVec 64) => decide (((Instr.relay (0#9) false 18014398509481984#58).wf = true) ∧ (canDispatch th = true) ∧ (th.pc ≤ 4095) ∧ (x.pmemBad.contains th.pc = false) ∧ (W = mkWord 21 18014398509481984#58) ∧ (guardHolds th.preds W = false)))))) = true) ∧
    (withVal ((nth ws0 90).die) (fun (d : Die) => withVal (getCore d 0#9) (fun (x : Core) => withVal (threadAt d (0#9) false) (fun (th : Thread) => withVal (tabGet 0 x.pmem th.pc) (fun (W : BitVec 64) => decide (((Instr.mma (0#9) false 18014398509481984#58).wf = true) ∧ (canDispatch th = true) ∧ (th.pc ≤ 4095) ∧ (x.pmemBad.contains th.pc = false) ∧ (W = mkWord 32 18014398509481984#58) ∧ (guardHolds th.preds W = false)))))) = true) := by
  decide +kernel

theorem test_witness_FalseGuardIsNop_c :
    (withVal ((nth ws0 96).die) (fun (d : Die) => withVal (getCore d 0#9) (fun (x : Core) => withVal (threadAt d (0#9) false) (fun (th : Thread) => withVal (tabGet 0 x.pmem th.pc) (fun (W : BitVec 64) => decide (((Instr.resload (0#9) false 18014398509481984#58).wf = true) ∧ (canDispatch th = true) ∧ (th.pc ≤ 4095) ∧ (x.pmemBad.contains th.pc = false) ∧ (W = mkWord 33 18014398509481984#58) ∧ (guardHolds th.preds W = false)))))) = true) ∧
    (withVal ((nth ws0 102).die) (fun (d : Die) => withVal (getCore d 0#9) (fun (x : Core) => withVal (threadAt d (0#9) false) (fun (th : Thread) => withVal (tabGet 0 x.pmem th.pc) (fun (W : BitVec 64) => decide (((Instr.preload (0#9) false 18014398509481984#58).wf = true) ∧ (canDispatch th = true) ∧ (th.pc ≤ 4095) ∧ (x.pmemBad.contains th.pc = false) ∧ (W = mkWord 34 18014398509481984#58) ∧ (guardHolds th.preds W = false)))))) = true) ∧
    (withVal ((nth ws0 108).die) (fun (d : Die) => withVal (getCore d 0#9) (fun (x : Core) => withVal (threadAt d (0#9) false) (fun (th : Thread) => withVal (tabGet 0 x.pmem th.pc) (fun (W : BitVec 64) => decide (((Instr.drain (0#9) false 18014398509481984#58).wf = true) ∧ (canDispatch th = true) ∧ (th.pc ≤ 4095) ∧ (x.pmemBad.contains th.pc = false) ∧ (W = mkWord 35 18014398509481984#58) ∧ (guardHolds th.preds W = false)))))) = true) ∧
    (withVal ((nth ws0 114).die) (fun (d : Die) => withVal (getCore d 0#9) (fun (x : Core) => withVal (threadAt d (0#9) false) (fun (th : Thread) => withVal (tabGet 0 x.pmem th.pc) (fun (W : BitVec 64) => decide (((Instr.swap (0#9) false 18014398509481984#58).wf = true) ∧ (canDispatch th = true) ∧ (th.pc ≤ 4095) ∧ (x.pmemBad.contains th.pc = false) ∧ (W = mkWord 36 18014398509481984#58) ∧ (guardHolds th.preds W = false)))))) = true) ∧
    (withVal ((nth ws0 120).die) (fun (d : Die) => withVal (getCore d 0#9) (fun (x : Core) => withVal (threadAt d (0#9) false) (fun (th : Thread) => withVal (tabGet 0 x.pmem th.pc) (fun (W : BitVec 64) => decide (((Instr.aclr (0#9) false 18014398509481984#58).wf = true) ∧ (canDispatch th = true) ∧ (th.pc ≤ 4095) ∧ (x.pmemBad.contains th.pc = false) ∧ (W = mkWord 37 18014398509481984#58) ∧ (guardHolds th.preds W = false)))))) = true) ∧
    (withVal ((nth ws0 126).die) (fun (d : Die) => withVal (getCore d 0#9) (fun (x : Core) => withVal (threadAt d (0#9) false) (fun (th : Thread) => withVal (tabGet 0 x.pmem th.pc) (fun (W : BitVec 64) => decide (((Instr.split (0#9) false 18014398509481984#58).wf = true) ∧ (canDispatch th = true) ∧ (th.pc ≤ 4095) ∧ (x.pmemBad.contains th.pc = false) ∧ (W = mkWord 38 18014398509481984#58) ∧ (guardHolds th.preds W = false)))))) = true) ∧
    (withVal ((nth ws0 132).die) (fun (d : Die) => withVal (getCore d 0#9) (fun (x : Core) => withVal (threadAt d (0#9) false) (fun (th : Thread) => withVal (tabGet 0 x.pmem th.pc) (fun (W : BitVec 64) => decide (((Instr.reduce (0#9) false 18014398509481984#58).wf = true) ∧ (canDispatch th = true) ∧ (th.pc ≤ 4095) ∧ (x.pmemBad.contains th.pc = false) ∧ (W = mkWord 40 18014398509481984#58) ∧ (guardHolds th.preds W = false)))))) = true) ∧
    (withVal ((nth ws0 138).die) (fun (d : Die) => withVal (getCore d 0#9) (fun (x : Core) => withVal (threadAt d (0#9) false) (fun (th : Thread) => withVal (tabGet 0 x.pmem th.pc) (fun (W : BitVec 64) => decide (((Instr.chainred (0#9) false 18014398509481984#58).wf = true) ∧ (canDispatch th = true) ∧ (th.pc ≤ 4095) ∧ (x.pmemBad.contains th.pc = false) ∧ (W = mkWord 41 18014398509481984#58) ∧ (guardHolds th.preds W = false)))))) = true) := by
  decide +kernel

theorem test_witness_FalseGuardIsNop_d :
    (withVal ((nth ws0 144).die) (fun (d : Die) => withVal (getCore d 0#9) (fun (x : Core) => withVal (threadAt d (0#9) false) (fun (th : Thread) => withVal (tabGet 0 x.pmem th.pc) (fun (W : BitVec 64) => decide (((Instr.merge (0#9) false 18014398509481984#58).wf = true) ∧ (canDispatch th = true) ∧ (th.pc ≤ 4095) ∧ (x.pmemBad.contains th.pc = false) ∧ (W = mkWord 42 18014398509481984#58) ∧ (guardHolds th.preds W = false)))))) = true) ∧
    (withVal ((nth ws0 150).die) (fun (d : Die) => withVal (getCore d 0#9) (fun (x : Core) => withVal (threadAt d (0#9) false) (fun (th : Thread) => withVal (tabGet 0 x.pmem th.pc) (fun (W : BitVec 64) => decide (((Instr.vop (0#9) false 18014398509481984#58).wf = true) ∧ (canDispatch th = true) ∧ (th.pc ≤ 4095) ∧ (x.pmemBad.contains th.pc = false) ∧ (W = mkWord 48 18014398509481984#58) ∧ (guardHolds th.preds W = false)))))) = true) ∧
    (withVal ((nth ws0 156).die) (fun (d : Die) => withVal (getCore d 0#9) (fun (x : Core) => withVal (threadAt d (0#9) false) (fun (th : Thread) => withVal (tabGet 0 x.pmem th.pc) (fun (W : BitVec 64) => decide (((Instr.vcvt (0#9) false 18014398509481984#58).wf = true) ∧ (canDispatch th = true) ∧ (th.pc ≤ 4095) ∧ (x.pmemBad.contains th.pc = false) ∧ (W = mkWord 49 18014398509481984#58) ∧ (guardHolds th.preds W = false)))))) = true) ∧
    (withVal ((nth ws0 162).die) (fun (d : Die) => withVal (getCore d 0#9) (fun (x : Core) => withVal (threadAt d (0#9) false) (fun (th : Thread) => withVal (tabGet 0 x.pmem th.pc) (fun (W : BitVec 64) => decide (((Instr.vfn (0#9) false 18014398509481984#58).wf = true) ∧ (canDispatch th = true) ∧ (th.pc ≤ 4095) ∧ (x.pmemBad.contains th.pc = false) ∧ (W = mkWord 50 18014398509481984#58) ∧ (guardHolds th.preds W = false)))))) = true) ∧
    (withVal ((nth ws0 168).die) (fun (d : Die) => withVal (getCore d 0#9) (fun (x : Core) => withVal (threadAt d (0#9) false) (fun (th : Thread) => withVal (tabGet 0 x.pmem th.pc) (fun (W : BitVec 64) => decide (((Instr.vred (0#9) false 18014398509481984#58).wf = true) ∧ (canDispatch th = true) ∧ (th.pc ≤ 4095) ∧ (x.pmemBad.contains th.pc = false) ∧ (W = mkWord 51 18014398509481984#58) ∧ (guardHolds th.preds W = false)))))) = true) ∧
    (withVal ((nth ws0 174).die) (fun (d : Die) => withVal (getCore d 0#9) (fun (x : Core) => withVal (threadAt d (0#9) false) (fun (th : Thread) => withVal (tabGet 0 x.pmem th.pc) (fun (W : BitVec 64) => decide (((Instr.vperm (0#9) false 18014398509481984#58).wf = true) ∧ (canDispatch th = true) ∧ (th.pc ≤ 4095) ∧ (x.pmemBad.contains th.pc = false) ∧ (W = mkWord 52 18014398509481984#58) ∧ (guardHolds th.preds W = false)))))) = true) ∧
    (withVal ((nth ws0 180).die) (fun (d : Die) => withVal (getCore d 0#9) (fun (x : Core) => withVal (threadAt d (0#9) false) (fun (th : Thread) => withVal (tabGet 0 x.pmem th.pc) (fun (W : BitVec 64) => decide (((Instr.ldgrdStream (0#9) false 18014398509481984#58).wf = true) ∧ (canDispatch th = true) ∧ (th.pc ≤ 4095) ∧ (x.pmemBad.contains th.pc = false) ∧ (W = mkWord 56 18014398509481984#58) ∧ (guardHolds th.preds W = false)))))) = true) ∧
    (withVal ((nth ws0 182).die) (fun (d : Die) => withVal (getCore d 0#9) (fun (x : Core) => withVal (threadAt d (0#9) false) (fun (th : Thread) => withVal (tabGet 0 x.pmem th.pc) (fun (W : BitVec 64) => decide (((Instr.ldgrdCopy (0#9) false 27021597764222976#58).wf = true) ∧ (canDispatch th = true) ∧ (th.pc ≤ 4095) ∧ (x.pmemBad.contains th.pc = false) ∧ (W = mkWord 56 27021597764222976#58) ∧ (guardHolds th.preds W = false)))))) = true) := by
  decide +kernel

theorem test_witness_FalseGuardIsNop_e :
    (withVal ((nth ws0 186).die) (fun (d : Die) => withVal (getCore d 0#9) (fun (x : Core) => withVal (threadAt d (0#9) false) (fun (th : Thread) => withVal (tabGet 0 x.pmem th.pc) (fun (W : BitVec 64) => decide (((Instr.ldgwr (0#9) false 18014398509481984#58).wf = true) ∧ (canDispatch th = true) ∧ (th.pc ≤ 4095) ∧ (x.pmemBad.contains th.pc = false) ∧ (W = mkWord 57 18014398509481984#58) ∧ (guardHolds th.preds W = false)))))) = true) ∧
    (withVal ((nth ws0 192).die) (fun (d : Die) => withVal (getCore d 0#9) (fun (x : Core) => withVal (threadAt d (0#9) false) (fun (th : Thread) => withVal (tabGet 0 x.pmem th.pc) (fun (W : BitVec 64) => decide (((Instr.berthLookup (0#9) false 18014398509481984#58).wf = true) ∧ (canDispatch th = true) ∧ (th.pc ≤ 4095) ∧ (x.pmemBad.contains th.pc = false) ∧ (W = mkWord 58 18014398509481984#58) ∧ (guardHolds th.preds W = false)))))) = true) ∧
    (withVal ((nth ws0 193).die) (fun (d : Die) => withVal (getCore d 0#9) (fun (x : Core) => withVal (threadAt d (0#9) false) (fun (th : Thread) => withVal (tabGet 0 x.pmem th.pc) (fun (W : BitVec 64) => decide (((Instr.berthTouch (0#9) false 22517998136852480#58).wf = true) ∧ (canDispatch th = true) ∧ (th.pc ≤ 4095) ∧ (x.pmemBad.contains th.pc = false) ∧ (W = mkWord 58 22517998136852480#58) ∧ (guardHolds th.preds W = false)))))) = true) ∧
    (withVal ((nth ws0 198).die) (fun (d : Die) => withVal (getCore d 0#9) (fun (x : Core) => withVal (threadAt d (0#9) false) (fun (th : Thread) => withVal (tabGet 0 x.pmem th.pc) (fun (W : BitVec 64) => decide (((Instr.tallyAdd (0#9) false 18014398509481984#58).wf = true) ∧ (canDispatch th = true) ∧ (th.pc ≤ 4095) ∧ (x.pmemBad.contains th.pc = false) ∧ (W = mkWord 60 18014398509481984#58) ∧ (guardHolds th.preds W = false)))))) = true) ∧
    (withVal ((nth ws0 199).die) (fun (d : Die) => withVal (getCore d 0#9) (fun (x : Core) => withVal (threadAt d (0#9) false) (fun (th : Thread) => withVal (tabGet 0 x.pmem th.pc) (fun (W : BitVec 64) => decide (((Instr.tallyWait (0#9) false 22517998136852480#58).wf = true) ∧ (canDispatch th = true) ∧ (th.pc ≤ 4095) ∧ (x.pmemBad.contains th.pc = false) ∧ (W = mkWord 60 22517998136852480#58) ∧ (guardHolds th.preds W = false)))))) = true) ∧
    (withVal ((nth ws0 200).die) (fun (d : Die) => withVal (getCore d 0#9) (fun (x : Core) => withVal (threadAt d (0#9) false) (fun (th : Thread) => withVal (tabGet 0 x.pmem th.pc) (fun (W : BitVec 64) => decide (((Instr.tallyArm (0#9) false 27021597764222976#58).wf = true) ∧ (canDispatch th = true) ∧ (th.pc ≤ 4095) ∧ (x.pmemBad.contains th.pc = false) ∧ (W = mkWord 60 27021597764222976#58) ∧ (guardHolds th.preds W = false)))))) = true) ∧
    (withVal ((nth ws0 201).die) (fun (d : Die) => withVal (getCore d 0#9) (fun (x : Core) => withVal (threadAt d (0#9) false) (fun (th : Thread) => withVal (tabGet 0 x.pmem th.pc) (fun (W : BitVec 64) => decide (((Instr.tallySet (0#9) false 20266198323167232#58).wf = true) ∧ (canDispatch th = true) ∧ (th.pc ≤ 4095) ∧ (x.pmemBad.contains th.pc = false) ∧ (W = mkWord 60 20266198323167232#58) ∧ (guardHolds th.preds W = false)))))) = true) ∧
    (withVal ((nth ws0 202).die) (fun (d : Die) => withVal (getCore d 0#9) (fun (x : Core) => withVal (threadAt d (0#9) false) (fun (th : Thread) => withVal (tabGet 0 x.pmem th.pc) (fun (W : BitVec 64) => decide (((Instr.tallyArrive (0#9) false 24769797950537728#58).wf = true) ∧ (canDispatch th = true) ∧ (th.pc ≤ 4095) ∧ (x.pmemBad.contains th.pc = false) ∧ (W = mkWord 60 24769797950537728#58) ∧ (guardHolds th.preds W = false)))))) = true) := by
  decide +kernel

theorem test_witness_FalseGuardIsNop_f :
    (withVal ((nth ws0 204).die) (fun (d : Die) => withVal (getCore d 0#9) (fun (x : Core) => withVal (threadAt d (0#9) false) (fun (th : Thread) => withVal (tabGet 0 x.pmem th.pc) (fun (W : BitVec 64) => decide (((Instr.stamp (0#9) false 18014398509481984#58).wf = true) ∧ (canDispatch th = true) ∧ (th.pc ≤ 4095) ∧ (x.pmemBad.contains th.pc = false) ∧ (W = mkWord 61 18014398509481984#58) ∧ (guardHolds th.preds W = false)))))) = true) ∧
    (withVal ((nth ws0 210).die) (fun (d : Die) => withVal (getCore d 0#9) (fun (x : Core) => withVal (threadAt d (0#9) false) (fun (th : Thread) => withVal (tabGet 0 x.pmem th.pc) (fun (W : BitVec 64) => decide (((Instr.fault (0#9) false 18014398509481984#58).wf = true) ∧ (canDispatch th = true) ∧ (th.pc ≤ 4095) ∧ (x.pmemBad.contains th.pc = false) ∧ (W = mkWord 62 18014398509481984#58) ∧ (guardHolds th.preds W = false)))))) = true) ∧
    (withVal ((nth ws0 216).die) (fun (d : Die) => withVal (getCore d 0#9) (fun (x : Core) => withVal (threadAt d (0#9) false) (fun (th : Thread) => withVal (tabGet 0 x.pmem th.pc) (fun (W : BitVec 64) => decide (((Instr.status (0#9) false 18014398509481984#58).wf = true) ∧ (canDispatch th = true) ∧ (th.pc ≤ 4095) ∧ (x.pmemBad.contains th.pc = false) ∧ (W = mkWord 63 18014398509481984#58) ∧ (guardHolds th.preds W = false)))))) = true) ∧
    (withVal ((nth ws0 222).die) (fun (d : Die) => withVal (getCore d 0#9) (fun (x : Core) => withVal (threadAt d (0#9) false) (fun (th : Thread) => withVal (tabGet 0 x.pmem th.pc) (fun (W : BitVec 64) => decide ((canDispatch th = true) ∧ (th.pc ≤ 4095) ∧ (x.pmemBad.contains th.pc = false) ∧ (opcodeKnown (fld W 58 6) = false)))))) = true) := by
  decide +kernel


end Wa14

namespace Wi14

def core1 : Core := { Core.reset with portReset := false }
def hb : Die := { setCore (memAt (memAt upDie (sliceBase 0) 4 7) (storeBase 0) 4 5) 0 core1 with trust := { upDie.trust with windows := [(0, ⟨0, 0x1000, true, false, true, true, true, 1, []⟩)] } }
def ue : Die := { hb with lodge := { hb.lodge with ueMark := [0] } }
def noG (d : Die) : Die := { d with link := { d.link with agreed := 0xFFFFFFF7 } }
def tg (w : Bool) : HubTag := ⟨3, 7, w, 0x900000, if w then .porterWrite 0 4 else .porterLine 0 3⟩
def tagged : Die := { setCore hb 0 { core1 with lines := [⟨0, 0, 0, false, 0x900000, 5, 64, 0x80, 3, 0, none⟩], writes := [⟨1, 0, false, 0x900000, 7, [1], 4, 0, none⟩] } with link := { hb.link with tags := [tg false, tg true] } }
def dies : List Die := [setCore hb 0 Core.reset, hb, ue, noG hb, { hb with stew := { hb.stew with own := 0 } }, tagged, { hb with stew := { hb.stew with own := 0xFFFFFFFFFFFFFFFF } }, { hb with trust := { hb.trust with windows := [(0, ⟨0, 0x1000, false, false, false, false, false, 1, []⟩)] } }]
def e1_states : List State := dies.map stateOf
def ws0 : List State := e1_states

theorem test_witness_HubRequestsAnswered :
    (withVal ((nth ws0 0).die) (fun (d : Die) => decide ((lineOk { src := Source.host, addr := 0#48, len := 0#8, gate := 0#5, tag := 0#12 : HubReq } = false ∨ gateCarries d { src := Source.host, addr := 0#48, len := 0#8, gate := 0#5, tag := 0#12 : HubReq }.gate = false))) = true) ∧
    (withVal ((nth ws0 0).die) (fun (d : Die) => withVal ({ src := Source.host, addr := 17605154832384#48, len := 8#8, gate := 3#5, tag := 7#12 : HubReq }.len.toNat) (fun (n : ℕ) => decide ((lineOk { src := Source.host, addr := 17605154832384#48, len := 8#8, gate := 3#5, tag := 7#12 : HubReq } = true) ∧ (gateCarries d { src := Source.host, addr := 17605154832384#48, len := 8#8, gate := 3#5, tag := 7#12 : HubReq }.gate = true) ∧ (ownOffset d { src := Source.host, addr := 17605154832384#48, len := 8#8, gate := 3#5, tag := 7#12 : HubReq }.addr.toNat = some 12968787968) ∧ (deny d { src := Source.host, addr := 17605154832384#48, len := 8#8, gate := 3#5, tag := 7#12 : HubReq }.src true [(12968787968, n)] = some 0)))) = true) ∧
    (withVal ((nth ws0 0).die) (fun (d : Die) => withVal ({ src := Source.host, addr := 17605154832384#48, len := 8#8, gate := 3#5, tag := 7#12 : HubReq }.len.toNat) (fun (n : ℕ) => decide ((lineOk { src := Source.host, addr := 17605154832384#48, len := 8#8, gate := 3#5, tag := 7#12 : HubReq } = true) ∧ (gateCarries d { src := Source.host, addr := 17605154832384#48, len := 8#8, gate := 3#5, tag := 7#12 : HubReq }.gate = true) ∧ (ownOffset d { src := Source.host, addr := 17605154832384#48, len := 8#8, gate := 3#5, tag := 7#12 : HubReq }.addr.toNat = some 12968787968) ∧ (deny d { src := Source.host, addr := 17605154832384#48, len := 8#8, gate := 3#5, tag := 7#12 : HubReq }.src false [(12968787968, n)] = some 0)))) = true) ∧
    (withVal ((nth ws0 0).die) (fun (d : Die) => withVal ({ src := Source.foreign, addr := 17592186044480#48, len := 16#8, gate := 3#5, tag := 7#12 : HubReq }.len.toNat) (fun (n : ℕ) => decide ((lineOk { src := Source.foreign, addr := 17592186044480#48, len := 16#8, gate := 3#5, tag := 7#12 : HubReq } = true) ∧ (gateCarries d { src := Source.foreign, addr := 17592186044480#48, len := 16#8, gate := 3#5, tag := 7#12 : HubReq }.gate = true) ∧ (ownOffset d { src := Source.foreign, addr := 17592186044480#48, len := 16#8, gate := 3#5, tag := 7#12 : HubReq }.addr.toNat = some 64) ∧ (portRefuses d 64 = some 0#9) ∧ (deny d { src := Source.foreign, addr := 17592186044480#48, len := 16#8, gate := 3#5, tag := 7#12 : HubReq }.src true [(64, n)] = none)))) = true) ∧
    (withVal ((nth ws0 0).die) (fun (d : Die) => decide ((regionOf d 12968787968 = Region.unmapped))) = true) ∧
    (withVal ((nth ws0 0).die) (fun (d : Die) => decide ((regionOf d 8589934592 = Region.ssram))) = true) ∧
    (withVal ((nth ws0 0).die) (fun (d : Die) => withVal ({ src := Source.host, addr := 17592186044421#48, len := 64#8, gate := 3#5, tag := 7#12 : HubReq }.len.toNat) (fun (n : ℕ) => decide ((lineOk { src := Source.host, addr := 17592186044421#48, len := 64#8, gate := 3#5, tag := 7#12 : HubReq } = true) ∧ (gateCarries d { src := Source.host, addr := 17592186044421#48, len := 64#8, gate := 3#5, tag := 7#12 : HubReq }.gate = true) ∧ (ownOffset d { src := Source.host, addr := 17592186044421#48, len := 64#8, gate := 3#5, tag := 7#12 : HubReq }.addr.toNat = some 5) ∧ (portRefuses d 5 = some 0#9) ∧ (deny d { src := Source.host, addr := 17592186044421#48, len := 64#8, gate := 3#5, tag := 7#12 : HubReq }.src false [(5, n)] = none)))) = true) ∧
    (withVal ((nth ws0 0).die) (fun (d : Die) => decide ((regionOf d 4 = Region.slice (0#9) 4))) = true) := by
  decide +kernel

theorem test_witness_HubRequestsAnswered_b :
    (withVal ((nth ws0 1).die) (fun (d : Die) => withVal ({ src := Source.host, addr := 17596481011715#48, len := 9#8, gate := 3#5, tag := 7#12 : HubReq }.len.toNat) (fun (n : ℕ) => decide ((lineOk { src := Source.host, addr := 17596481011715#48, len := 9#8, gate := 3#5, tag := 7#12 : HubReq } = true) ∧ (gateCarries d { src := Source.host, addr := 17596481011715#48, len := 9#8, gate := 3#5, tag := 7#12 : HubReq }.gate = true) ∧ (ownOffset d { src := Source.host, addr := 17596481011715#48, len := 9#8, gate := 3#5, tag := 7#12 : HubReq }.addr.toNat = some 4294967299) ∧ (portRefuses d 4294967299 = none) ∧ (deny d { src := Source.host, addr := 17596481011715#48, len := 9#8, gate := 3#5, tag := 7#12 : HubReq }.src false [(4294967299, n)] = none) ∧ (slotOfOffset d 4294967299 = some (0#9, false, 3))))) = true) ∧
    (withVal ((nth ws0 1).die) (fun (d : Die) => withVal ({ src := Source.foreign, addr := 17592186044480#48, len := 16#8, gate := 3#5, tag := 7#12 : HubReq }.len.toNat) (fun (n : ℕ) => decide ((lineOk { src := Source.foreign, addr := 17592186044480#48, len := 16#8, gate := 3#5, tag := 7#12 : HubReq } = true) ∧ (gateCarries d { src := Source.foreign, addr := 17592186044480#48, len := 16#8, gate := 3#5, tag := 7#12 : HubReq }.gate = true) ∧ (ownOffset d { src := Source.foreign, addr := 17592186044480#48, len := 16#8, gate := 3#5, tag := 7#12 : HubReq }.addr.toNat = some 64) ∧ (portRefuses d 64 = none) ∧ (deny d { src := Source.foreign, addr := 17592186044480#48, len := 16#8, gate := 3#5, tag := 7#12 : HubReq }.src true [(64, n)] = none) ∧ (slotOfOffset d 64 = some (0#9, true, 64))))) = true) ∧
    (withVal ((nth ws0 1).die) (fun (d : Die) => withVal ({ src := Source.host, addr := 17592186044421#48, len := 64#8, gate := 3#5, tag := 7#12 : HubReq }.len.toNat) (fun (n : ℕ) => decide ((lineOk { src := Source.host, addr := 17592186044421#48, len := 64#8, gate := 3#5, tag := 7#12 : HubReq } = true) ∧ (gateCarries d { src := Source.host, addr := 17592186044421#48, len := 64#8, gate := 3#5, tag := 7#12 : HubReq }.gate = true) ∧ (ownOffset d { src := Source.host, addr := 17592186044421#48, len := 64#8, gate := 3#5, tag := 7#12 : HubReq }.addr.toNat = some 5) ∧ (portRefuses d 5 = none) ∧ (deny d { src := Source.host, addr := 17592186044421#48, len := 64#8, gate := 3#5, tag := 7#12 : HubReq }.src false [(5, n)] = none) ∧ (slotOfOffset d 5 = some (0#9, true, 5)) ∧ (ueIn d (0#9) 5 n = none)))) = true) ∧
    (withVal ((nth ws0 2).die) (fun (d : Die) => withVal ({ src := Source.host, addr := 17592186044421#48, len := 64#8, gate := 3#5, tag := 7#12 : HubReq }.len.toNat) (fun (n : ℕ) => decide ((lineOk { src := Source.host, addr := 17592186044421#48, len := 64#8, gate := 3#5, tag := 7#12 : HubReq } = true) ∧ (gateCarries d { src := Source.host, addr := 17592186044421#48, len := 64#8, gate := 3#5, tag := 7#12 : HubReq }.gate = true) ∧ (ownOffset d { src := Source.host, addr := 17592186044421#48, len := 64#8, gate := 3#5, tag := 7#12 : HubReq }.addr.toNat = some 5) ∧ (portRefuses d 5 = none) ∧ (deny d { src := Source.host, addr := 17592186044421#48, len := 64#8, gate := 3#5, tag := 7#12 : HubReq }.src false [(5, n)] = none) ∧ (slotOfOffset d 5 = some (0#9, true, 5)) ∧ (ueIn d (0#9) 5 n = some 0)))) = true) ∧
    (withVal ((nth ws0 5).die) (fun (d : Die) => decide (((d.link.atGate.all fun (q : GateReq) => q.gate != { src := Source.host, addr := 17592186044421#48, len := 64#8, gate := 3#5, tag := 7#12 : HubReq }.gate) = true) ∧ ((List.find? (fun (t : HubTag) => t.gate == { src := Source.host, addr := 17592186044421#48, len := 64#8, gate := 3#5, tag := 7#12 : HubReq }.gate && t.tag == { src := Source.host, addr := 17592186044421#48, len := 64#8, gate := 3#5, tag := 7#12 : HubReq }.tag && t.write == true) d.link.tags).any (fun (t : HubTag) => decide ((t.who = HubWait.porterWrite 0#9 4#9))) = true))) = true) ∧
    (withVal ((nth ws0 5).die) (fun (d : Die) => decide (((d.link.atGate.all fun (q : GateReq) => q.gate != { src := Source.host, addr := 17592186044421#48, len := 64#8, gate := 3#5, tag := 7#12 : HubReq }.gate) = true) ∧ ((List.find? (fun (t : HubTag) => t.gate == { src := Source.host, addr := 17592186044421#48, len := 64#8, gate := 3#5, tag := 7#12 : HubReq }.gate && t.tag == { src := Source.host, addr := 17592186044421#48, len := 64#8, gate := 3#5, tag := 7#12 : HubReq }.tag && t.write == false) d.link.tags).any (fun (t : HubTag) => decide ((t.who = HubWait.porterLine 0#9 3#9))) = true))) = true) ∧
    (withVal ((nth ws0 6).die) (fun (d : Die) => withVal ({ src := Source.host, addr := 17605138055176#48, len := 16#8, gate := 3#5, tag := 7#12 : HubReq }.len.toNat) (fun (n : ℕ) => decide ((lineOk { src := Source.host, addr := 17605138055176#48, len := 16#8, gate := 3#5, tag := 7#12 : HubReq } = true) ∧ (gateCarries d { src := Source.host, addr := 17605138055176#48, len := 16#8, gate := 3#5, tag := 7#12 : HubReq }.gate = true) ∧ (ownOffset d { src := Source.host, addr := 17605138055176#48, len := 16#8, gate := 3#5, tag := 7#12 : HubReq }.addr.toNat = some 12952010760) ∧ (portRefuses d 12952010760 = none) ∧ (deny d { src := Source.host, addr := 17605138055176#48, len := 16#8, gate := 3#5, tag := 7#12 : HubReq }.src true [(12952010760, n)] = none) ∧ (regionOf d 12952010760 = Region.pigeon 0) ∧ (owns d 0 = true)))) = true) ∧
    (withVal ((nth ws0 7).die) (fun (d : Die) => decide ((regionOf d 4 = Region.slice (0#9) 4) ∧ ({ base := 0#64, limit := 4096#64, open_ := false, closing := false, granted := false, w := false, r := false, pairs := 1#4, admitted := [] : Window }.open_ = false))) = true) := by
  decide +kernel


end Wi14

/-! ### Witnesses of the statements about the block as a whole -/

theorem test_witness_AnswersAreResponses :
    let d := withReqs [mkMsg 0x40 0x999 [1, 2, 3]] upDie
    let e := withReqs [mkMsg 0x100 0 [] (.peer 2) 50] upDie
    ((∀ y ∈ d.stew.requests, unserved y = false) ∧ (rqs (stateOf d) 0).src = .host ∧ (rqs (stateOf d) 0).ph = 3) ∧
    ((∀ y ∈ e.stew.requests, unserved y = false) ∧ (rqs (stateOf e) 0).src = .peer 2) := by decide +kernel

theorem test_witness_EveryCommandCompletes : moduleOk 192 = false ∧ lineOk ⟨.host, 127, 2, 0, 0⟩ = false ∧ sensorOk 24 = false := by decide

/-- The queue is empty at reset; one with a command in front takes it. -/
theorem test_witness_StepRunsTheFront : State.reset.pending = [] ∧ ({ State.reset with pending := [.idcode, .clockLoss] } : State).pending.length = 2 := by
  decide

/-- The canonical memories and the least operating point of a running die, and a step from it. -/
theorem test_witness_MemoriesStayCanonical :
    let s : State := { stateOf (memAt upDie (sliceBase 0) 3 3) with pending := [.vddEfuseGood] }
    Memory.wf s.die.mem = true ∧ Memory.wf s.die.pkg = true ∧ Memory.wf s.die.flash = true ∧ s.die.mem ≠ [] ∧
    (match step s with | .next t => t.pending == [] | _ => false) = true := by decide +kernel

theorem test_witness_EffectiveOpStaysLeast :
    let s : State := { stateOf { upDie with power := { upDie.power with maxOp := 5, target := 4, effective := 4 } } with pending := [.vddEfuseGood] }
    s.die.power.effective.toNat = effectiveOp s.die.power ∧ (match step s with | .next t => t.pending == [] | _ => false) = true := by decide +kernel

/-- A TRAIN flit that carries DATA, at a module that carries flits. -/
theorem test_witness_FlitsAndWires_train :
    let d := { upDie with link := { upDie.link with modules := [(5, { Module.reset with state := msActive })] } }
    let f : RxFlit := ⟨true, 10, true, 0, 0, 0, 0⟩
    moduleOk 5 = true ∧ d.link.state = 7 ∧ modCarries (getMod d 5) = true ∧ (f.kind = 9 ∨ f.kind = 10) ∧ (f.crcOk = false ∨ f.dataBit = true) := by
  decide +kernel

/-- No frame waits for an answer; a NEWMASK sent four times of a link that runs. -/
theorem test_witness_LinkComesUp_frames :
    let f : SbFrame := ⟨sbNewmask, 0, 0xFF, 4⟩
    let d := { upDie with link := { upDie.link with frames := [f] } }
    upDie.link.frames.find? (fun f => f.cmd == sbAlert) = none ∧ d.link.frames.find? (fun f => f.cmd == sbNewmask) = some f ∧ 4 ≤ f.sends ∧
    6 < d.link.state.toNat := by decide +kernel

/-! ### Witnesses on states chosen by hand -/

namespace Hand

def otpOf (l : List (Nat × BitVec 64)) (d : Die) : Die :=
  let put (t : Tab (BitVec 64)) : Tab (BitVec 64) := l.foldl (fun t p => tabSet 0 t p.1 p.2) t
  { d with fuse := { d.fuse with otp := put d.fuse.otp, seen := put d.fuse.seen } }
def powered (d : Die) : Die := { d with fuse := { d.fuse with efusePg := true } }
/-- A FUSE_PROGRAM of each KIND, with an authorisation of zeros where one is read. -/
def fuseMsg (kind : Nat) : Msg :=
  mkMsg opFuseProgram 0 (payl 16 [(0, 1, kind), (1, 1, [1, 0, 2, 0, 1].getD kind 0), (8, 8, if kind = 4 then 0 else 0x600000)])
def logFull (d : Die) : Die := otpOf ((List.range 128).map (fun i => (0x2FF + i, 1#64 <<< 63))) d
def repaired (d : Die) : Die := { d with lodge := { d.lodge with softLog := [0x12345670] } }

/-- The clauses of FUSE_PROGRAM that ask for no signature, for every KIND: the event log full; VDD_EFUSE absent. -/
theorem test_witness_FusesAreProgrammed_rows :
    (∀ k ∈ List.range 5, let m0 := fuseMsg k; let d := withReqs [m0] (logFull (powered upDie))
      asks d 0 opFuseProgram 16 fuseBadFields .none fuseArgs m0 ∧ fuseKind (clip m0) = k ∧ d.fuse.event = none ∧
      fuseRefused d (clip m0) = none ∧ blankWords d 0x2FF 128 = []) ∧
    (∀ k ∈ List.range 5, let m0 := fuseMsg k; let d := withReqs [m0] upDie
      asks d 0 opFuseProgram 16 fuseBadFields .none fuseArgs m0 ∧ fuseKind (clip m0) = k ∧ d.fuse.event = none ∧
      fuseRefused d (clip m0) = none ∧ blankWords d 0x2FF 128 ≠ [] ∧ d.fuse.efusePg = false) := by
  unfold asks; decide +kernel

/-- A malformed authorisation of KINDs 0 to 3; a soft-repair commit with a row to commit, and with none. -/
theorem test_witness_FusesAreProgrammed_ends :
    (∀ k ∈ List.range 4, let m0 := fuseMsg k; let d := withReqs [m0] (powered upDie)
      asks d 0 opFuseProgram 16 fuseBadFields .none fuseArgs m0 ∧ fuseKind (clip m0) = k ∧ d.fuse.event = none ∧
      fuseRefused d (clip m0) = none ∧ blankWords d 0x2FF 128 ≠ [] ∧ d.fuse.efusePg = true ∧ authFault d (clip m0) = some 2) ∧
    (let m0 := fuseMsg 4; let d := withReqs [m0] (repaired (powered upDie))
      asks d 0 opFuseProgram 16 fuseBadFields .none fuseArgs m0 ∧ fuseKind (clip m0) = 4 ∧ d.fuse.event = none ∧
      fuseRefused d (clip m0) = none ∧ (blankWords d 0x2FF 128).head? = some 0x2FF ∧ d.fuse.efusePg = true ∧ fuseTargets d (clip m0) ≠ []) ∧
    (let m0 := fuseMsg 4; let d := withReqs [m0] (powered upDie)
      asks d 0 opFuseProgram 16 fuseBadFields .none fuseArgs m0 ∧ fuseKind (clip m0) = 4 ∧ d.fuse.event = none ∧
      fuseRefused d (clip m0) = none ∧ blankWords d 0x2FF 128 ≠ [] ∧ d.fuse.efusePg = true ∧ fuseTargets d (clip m0) = []) := by
  unfold asks; decide +kernel

def khUp : Die := { upDie with boot := { upDie.boot with aon := true } }
def eightFails : Die := { khUp with trust := { khUp.trust with dbgFails := 8 } }

/-- The Keyholder answers, and rejects an empty response; after eight rejections it does not answer. -/
theorem test_witness_WindowsAndSessions_keyholder :
    (khAnswers khUp = true ∧ respOk khUp [] = false) ∧ (khAnswers eightFails = false ∧ eightFails.boot.aon = true) ∧
    (debugOff (otpOf [(0x2FE, fuseFull 0x2FE 1)] khUp) = true ∧ debugOff khUp = false) := by decide +kernel

def withMove (m : Move) (d : Die) : Die := { d with ledger := { d.ledger with moves := [m] } }
/-- A rewrite of a Cellar slot into another, its entry MOVING. -/
def cellarMove (again : Bool) : Move :=
  { newMove 0x10001000002 0x300020 2 none false false with phase := 2, placed := true, srcTier := 2, src := 3, dst := 4, crc := 5, again := again }
def cellarDie (again : Bool) : Die := withMove (cellarMove again) (putPkg128 ledDie 0x300020 (ent 2 2 3 false 2 4))

/-- A copy that verifies, one that does not and is done again, one that has been. -/
theorem test_witness_MovesGoThroughPhases_verify :
    (∀ b ∈ [false, true], let m := cellarMove b; let d := cellarDie b
      d.ledger.moves[0]? = some m ∧ m.phase = 2 ∧ berthUe d m.srcTier.toNat m.src.toNat = none ∧
      berthUe d m.target.toNat m.dst.toNat = none ∧ verified d m 5 = true ∧ verified d m 6 = false ∧ m.again = b ∧
      entState (entryLast d m.addr) = stMoving) := by decide +kernel

def turnsOf (d : Die) (m : Move) : Bool :=
  d.ledger.moves[0]? == some m && m.phase == 0 && !uncommitted d m.addr && decide (m.placed = true ∨ inFlight d m.handle < 16)

/-- A move of a berth that is free; one whose tier has no place left. -/
theorem test_witness_MovesGoThroughPhases_ends :
    (let m := newMove 0x10001000003 0x300030 1 none false false; let d := withMove m ledDie
      turnsOf d m = true ∧ (moveBlocked d m (entryLast d m.addr)).isSome = true) ∧
    (let m := newMove 0x10001000000 0x300000 1 none false false
     let d := withMove m { ledDie with ledger := { ledDie.ledger with poolBerths := 0 } }
     turnsOf d m = true ∧ moveBlocked d m (entryLast d m.addr) = none ∧ m.placed = false ∧ m.rewrite = false ∧
       findPlace d 0 m.target.toNat m.core none = none) := by decide +kernel

/-- An aborted itinerary whose core waits for a write. -/
def stuck : Die :=
  let x : Core := { Core.reset with
    portReset := false, stoppedWait := true, t0 := { Thread.reset with itin := some 1 },
    writes := [⟨1, 0, false, 0x900000, 7, [1], 4, 0, none⟩] }
  withItins [{ itin0 with
    state := .aborted, settled := false, parties := [5],
    cores := [⟨0, 0, .full, true, false, 0x20, 8, [], [], false, false⟩] }]
    { setCore upDie 0 x with stew := { upDie.stew with parties := [(5, 1)] } }

theorem test_witness_PartyResetsRun_drain :
    stoppingParty stuck 0 = some 5 ∧ (∃ i ∈ stuck.stew.itins, i.state = .aborted ∧ i.settled = false ∧ (0 : CoreId) ∈ hereIds stuck i ∧
      linksAgree stuck i = false) := by decide +kernel

/-- Two free berths, allocated in no tier. -/
theorem test_witness_BerthMessages_alloc :
    let d0 := ledDie upDie [0, 0, 0, 0]
    let m0 := mkMsg opBerthAlloc 0x10001 (payl 14 [(0, 4, 0), (4, 4, 2), (8, 1, 3), (9, 1, 3), (12, 2, 0xFFFF)])
    let d := withReqs [m0] d0
    let m := clip m0
    asks d 0 opBerthAlloc 14 allocBad .berths noArgs m0 ∧
    (liveCtx d (msgCtx m)).any (fun e => (rangeBad m e).isNone && (namedBerths m e).all (fun p => !uncommitted d p.2 &&
      entState (pkg128 d p.2) == stFree) && (askedCore d m).isSome && (allocAll m none 0 (namedBerths m e) d).isSome) = true := by
  unfold asks; decide +kernel

/-- A queued itinerary whose peer has reserved. -/
def replied : Itin := { itin0 with
  state := .queued, parties := [5, 0, 0, 0], replies := [(2, .reserveOk 1)],
  cores := [⟨0, 0, .full, true, false, 0x20, 8, [], [], false, false⟩, ⟨2, 5, .full, true, false, 0x20, 8, [], [], false, false⟩] }

theorem test_witness_ItinerariesRun_replied :
    let d := withItins [replied] upDie
    (findItin d 1 = some replied ∧ replied.state = .queued ∧ homeDie 1 = d.ident.dieNum ∧ replied.asked = [] ∧
      (waitingOn d (queueKey replied)).head?.map (·.id) = some 1 ∧
      (itinPeers d replied).any (fun p => d.link.fenced.getLsbD p.toNat) = false) ∧ replied.replies ≠ [] ∧
    (∀ r ∈ replied.replies, ∃ k, r.2 = .reserveOk k) := by
  refine ⟨by decide +kernel, by decide, ?_⟩
  intro r h
  simp only [replied, List.mem_singleton] at h
  subst h
  exact ⟨_, rfl⟩

/-- A memory with a good image at a. -/
def goodImage (m : List Host.Cell) (a : Nat) : List Host.Cell :=
  memWrite m (a + 508) (leBytes 4 (crc32 (memRead m a 508 ++ memRead m (a + 512) (imageSize - 512))).toNat)

theorem goodImage_ok (m : List Host.Cell) (a : Nat) (h : memGet m a = 1 ∧ memGet m (a + 1) = 0) :
    imageOk (memRead (goodImage m a) a imageSize) = true := by
  have far : ∀ k, (k < 508 ∨ 512 ≤ k) → memGet (goodImage m a) (a + k) = memGet m (a + k) := by
    intro k hk
    rw [goodImage, memGet_write, if_neg]
    simp [leBytes]; omega
  have hs : 512 ≤ imageSize := by decide
  simp only [imageOk, Bool.and_eq_true, beq_iff_eq]
  refine ⟨?_, ?_⟩
  · rw [deLE, List.drop_zero, memRead_take _ _ _ _ (by omega)]
    have h0 := far 0 (by omega)
    have h1 := far 1 (by omega)
    simp only [Nat.add_zero] at h0
    simp [memRead, List.range_succ, leNat, h0, h1, h.1, h.2]
  · rw [memRead_take _ _ _ _ (by omega), memRead_drop, deLE, memRead_drop, memRead_take _ _ _ _ (by omega),
      memRead_congr (m' := m) (a := a) (fun i hi => far i (by omega)),
      memRead_congr (m' := m) (a := a + 512) (fun i _ => by rw [Nat.add_assoc]; exact far _ (by omega))]
    have back : memRead (goodImage m a) (a + 508) 4 = leBytes 4 (crc32 (memRead m a 508 ++ memRead m (a + 512) (imageSize - 512))).toNat :=
      memRead_write m (a + 508) (leBytes 4 _)
    rw [back, leNat_leBytes]
    exact BitVec.isLt _

theorem argRead_pkg {d : Die} {a : Nat} (n : Nat) (h : ownOffset d a = none) : argRead d a n = memRead d.pkg a n := by rw [argRead, h]

def restoreMsg : Msg := mkMsg opRestoreContext 0 (payl 16 [(0, 2, 5), (8, 8, 0x600000)])
/-- A party of one core, its image in package memory. -/
def imaged (pkg : List Host.Cell) : Die :=
  withReqs [restoreMsg] { setCore upDie 0 (runCore) with pkg := pkg, stew := { upDie.stew with parties := [(5, 1)] } }

def goodDie : Die := imaged (goodImage (memWrite [] 0x600000 [1]) 0x600000)

theorem imaged_pkg (pkg : List Host.Cell) : (imaged pkg).pkg = pkg := rfl

theorem image_at : msgLE (clip restoreMsg) 0x18 8 = 0x600000 ∧ ownOffset goodDie 0x600000 = none ∧ ownOffset (imaged []) 0x600000 = none := by
  decide +kernel

theorem image_asks :
    (asks goodDie 0 opRestoreContext 16 imageBad .none (imageArgs false) restoreMsg ∧
      partyBusy goodDie (msgLE (clip restoreMsg) 0x10 2) = false ∧ imageStart (clip restoreMsg) goodDie = .inr (some [0])) ∧
    (asks (imaged []) 0 opRestoreContext 16 imageBad .none (imageArgs false) restoreMsg ∧
      partyBusy (imaged []) (msgLE (clip restoreMsg) 0x10 2) = false ∧ imageStart (clip restoreMsg) (imaged []) = .inr (some [0])) := by
  unfold asks; decide +kernel

/-- A good image of the one core named, and none at all. -/
theorem test_witness_ArrayImages_restore :
    (let d := goodDie; let m := clip restoreMsg
      (asks d 0 opRestoreContext 16 imageBad .none (imageArgs false) restoreMsg ∧ partyBusy d (msgLE m 0x10 2) = false ∧
        imageStart m d = .inr (some [0])) ∧ imageOk (argRead d (msgLE m 0x18 8) imageSize) = true) ∧
    (let d := imaged []; let m := clip restoreMsg
      (asks d 0 opRestoreContext 16 imageBad .none (imageArgs false) restoreMsg ∧ partyBusy d (msgLE m 0x10 2) = false ∧
        imageStart m d = .inr (some [0])) ∧ imageOk (argRead d (msgLE m 0x18 8) imageSize) = false) := by
  obtain ⟨at_, own, own'⟩ := image_at
  refine ⟨⟨image_asks.1, ?_⟩, image_asks.2, ?_⟩
  · show imageOk (argRead goodDie (msgLE (clip restoreMsg) 0x18 8) imageSize) = true
    rw [at_, argRead_pkg _ own, goodDie, imaged_pkg]
    exact goodImage_ok (memWrite [] 0x600000 [1]) 0x600000 (by decide)
  · show imageOk (argRead (imaged []) (msgLE (clip restoreMsg) 0x18 8) imageSize) = false
    rw [at_, argRead_pkg _ own', imaged_pkg, imageOk, deLE, List.drop_zero, memRead_take _ _ _ 2 (by decide)]
    have h : memRead [] 0x600000 2 = [0, 0] := by decide
    rw [h]
    rfl

end Hand

end Sys2Proof.Tests
end

section
/-! PROOF. Fields of words after a field is put in, and after a mask: what the clamps and masks of register writes keep (R6, R119, R161). -/

namespace Sys2Proof.Machine

/-! ### Fields as bits -/

/-- A word reads, after a field is put in, the field's bits inside it and its own outside. -/
theorem getLsbD_putFld {w : Nat} (x : BitVec w) (lo n v i : Nat) (hi : i < w) :
    (putFld x lo n v).getLsbD i = if lo ≤ i ∧ i < lo + n then v.testBit (i - lo) else x.getLsbD i := by
  have hmask : ((2 ^ n - 1) <<< lo).testBit i = decide (lo ≤ i ∧ i < lo + n) := by
    rw [Nat.testBit_shiftLeft, Nat.testBit_two_pow_sub_one, ← Bool.decide_and, decide_eq_decide]
    omega
  have hval : ((v % 2 ^ n) <<< lo).testBit i = (decide (lo ≤ i ∧ i < lo + n) && v.testBit (i - lo)) := by
    rw [Nat.testBit_shiftLeft, Nat.testBit_mod_two_pow, ← Bool.and_assoc, ← Bool.decide_and]
    congr 1
    rw [decide_eq_decide]
    omega
  simp only [putFld, BitVec.getLsbD_or, BitVec.getLsbD_and, BitVec.getLsbD_not, BitVec.getLsbD_ofNat, hi, hmask, hval, decide_true,
    Bool.true_and]
  by_cases h : lo ≤ i ∧ i < lo + n <;> simp [h]

/-- A field put in reads back, modulo its width. -/
theorem fld_putFld_same {w : Nat} (x : BitVec w) {lo n : Nat} (v : Nat) (h : lo + n ≤ w) : fld (putFld x lo n v) lo n = v % 2 ^ n := by
  refine Nat.eq_of_testBit_eq fun i => ?_
  rw [fld, BitVec.testBit_toNat, BitVec.getLsbD_extractLsb', Nat.testBit_mod_two_pow]
  by_cases hi : i < n
  · rw [getLsbD_putFld _ _ _ _ _ (by omega), if_pos (by omega), Nat.add_sub_cancel_left]
  · simp [hi]

/-- A field put in elsewhere leaves a field as it was. -/
theorem fld_putFld_apart {w : Nat} (x : BitVec w) {lo n lo' n' : Nat} (v : Nat) (hw : lo' + n' ≤ w) (h : lo' + n' ≤ lo ∨ lo + n ≤ lo') :
    fld (putFld x lo n v) lo' n' = fld x lo' n' := by
  unfold fld
  congr 1
  refine BitVec.eq_of_getLsbD_eq fun i hi => ?_
  rw [BitVec.getLsbD_extractLsb', BitVec.getLsbD_extractLsb', getLsbD_putFld _ _ _ _ _ (by omega), if_neg (by omega)]

/-- A field no bit of which is outside the mask is kept by it. -/
theorem fld_and_ones {w lo n : Nat} {m : BitVec w} (v : BitVec w) (h : m.extractLsb' lo n = BitVec.allOnes n) :
    fld (v &&& m) lo n = fld v lo n := by
  rw [fld, BitVec.extractLsb'_and, h, BitVec.and_allOnes, fld]

/-- A field no bit of which is in the mask reads 0. -/
theorem fld_and_zeros {w lo n : Nat} {m : BitVec w} (v : BitVec w) (h : m.extractLsb' lo n = 0#n) : fld (v &&& m) lo n = 0 := by
  rw [fld, BitVec.extractLsb'_and, h, BitVec.and_zero]
  rfl

/-- A field of the low part of a word is the word's. -/
theorem fld_setWidth {w k lo n : Nat} (v : BitVec w) (h : lo + n ≤ k) : fld (v.setWidth k) lo n = fld v lo n :=
  congrArg BitVec.toNat (BitVec.extractLsb'_setWidth_of_le h)

theorem bitB_setWidth {w k i : Nat} (v : BitVec w) (h : i < k) : bitB (v.setWidth k) i = bitB v i := by
  simp [bitB, h]

/-- A one-bit field reads 1 exactly where its bit is set. -/
theorem fld_one {w : Nat} (v : BitVec w) (i : Nat) : fld v i 1 = b2n (bitB v i) := by
  refine Nat.eq_of_testBit_eq fun k => ?_
  rw [fld, BitVec.testBit_toNat, BitVec.getLsbD_extractLsb']
  cases k with
  | zero => cases h : v.getLsbD i <;> simp [bitB, b2n, h]
  | succ k => cases h : v.getLsbD i <;> simp [bitB, b2n, h, Nat.testBit_succ]

/-! ### The clamps of R119 -/

theorem fld_clampM_m (w : BitVec 32) : fld (clampM w) 0 5 = max 8 (min 24 (fld w 0 5)) := by
  rw [clampM, fld_putFld_same _ _ (by decide)]
  split
  · omega
  · split <;> omega

theorem bitB_clampM_en (w : BitVec 32) : bitB (clampM w) 31 = bitB w 31 := by
  rw [bitB, clampM, getLsbD_putFld _ _ _ _ _ (by decide), if_neg (by decide), getLsbD_putFld _ _ _ _ _ (by decide), if_pos (by decide),
    fld_one]
  cases bitB w 31 <;> rfl

/-- Nothing lies between M and EN. -/
theorem fld_clampM_rest (w : BitVec 32) : fld (clampM w) 5 26 = 0 := by
  rw [clampM, fld_putFld_apart _ _ (by decide) (by decide), fld_putFld_apart _ _ (by decide) (by decide)]
  rfl

theorem clampFloor_eq (w : BitVec 32) : clampFloor w = if w = 0x80000000#32 then w
    else if bitB w 31 = true ∨ fld w 23 8 = 255 then 0x00800000#32 else w := by
  rw [clampFloor, fld_one]
  cases bitB w 31 <;> simp [b2n]

/-! ### CORE_RING_n (R161) -/

/-- A field of CORE_RING_n below EN is what the register's mask keeps of the value. -/
theorem fld_ringLoad (v : BitVec 64) {lo n : Nat} (h : lo + n ≤ 63) :
    fld (ringLoad v) lo n = fld (v &&& 0xF8007FFE003F03FF#64) lo n := by
  unfold ringLoad
  dsimp only
  split
  · rfl
  · exact fld_putFld_apart _ _ (by omega) (.inl h)

theorem fld_ringLoad_kept (v : BitVec 64) {lo n : Nat} (h : lo + n ≤ 63)
    (hm : (0xF8007FFE003F03FF#64).extractLsb' lo n = BitVec.allOnes n) : fld (ringLoad v) lo n = fld v lo n :=
  (fld_ringLoad v h).trans (fld_and_ones v hm)

theorem fld_ringLoad_zero (v : BitVec 64) {lo n : Nat} (h : lo + n ≤ 63)
    (hm : (0xF8007FFE003F03FF#64).extractLsb' lo n = 0#n) : fld (ringLoad v) lo n = 0 :=
  (fld_ringLoad v h).trans (fld_and_zeros v hm)

/-- EN loads only with a pair of R162 and, unless the consumer is on another core, buffers that end within the core store. -/
theorem bitB_ringLoad_en (v : BitVec 64) : bitB (ringLoad v) 63 = true ↔ bitB v 63 = true ∧ ringPairOk (fld v 61 2) (fld v 59 2) = true ∧
    (fld v 59 2 = 2 ∨ 512 * fld v 0 10 + 4 * (512 * (fld v 16 6 + 1)) ≤ 524288) := by
  have hprod := fld_and_ones (m := 0xF8007FFE003F03FF#64) v (lo := 61) (n := 2) rfl
  have hcons := fld_and_ones (m := 0xF8007FFE003F03FF#64) v (lo := 59) (n := 2) rfl
  have hbase := fld_and_ones (m := 0xF8007FFE003F03FF#64) v (lo := 0) (n := 10) rfl
  have hsize := fld_and_ones (m := 0xF8007FFE003F03FF#64) v (lo := 16) (n := 6) rfl
  have hen : (v &&& 0xF8007FFE003F03FF#64).getLsbD 63 = v.getLsbD 63 := by
    rw [BitVec.getLsbD_and, show (0xF8007FFE003F03FF#64).getLsbD 63 = true from rfl, Bool.and_true]
  simp only [ringLoad, hprod, hcons, hbase, hsize, bitB, storeSize]
  split
  · rename_i hok
    simp only [Bool.and_eq_true, Bool.or_eq_true, beq_iff_eq, decide_eq_true_eq] at hok
    rw [hen]
    exact ⟨fun h => ⟨h, hok⟩, And.left⟩
  · rename_i hok
    simp only [Bool.and_eq_true, Bool.or_eq_true, beq_iff_eq, decide_eq_true_eq] at hok
    rw [getLsbD_putFld _ _ _ _ _ (by decide), if_pos (by decide), Nat.zero_testBit]
    exact ⟨fun h => absurd h Bool.false_ne_true, fun ⟨_, h⟩ => absurd h hok⟩

end Sys2Proof.Machine
end

section
/-! PROOF. The array's held writes: ACC_CFG, ABFT_CFG_h and ABFT_FLOOR_h wait until their halves are idle (R83, R119). -/

namespace Sys2Proof.Machine

/-- ABFT_CFG_h, or ABFT_FLOOR_h. -/
def abftReg (x : Core) (h floor : Bool) : BitVec 32 :=
  if floor then (if h then x.abftFloor1 else x.abftFloor0) else (if h then x.abftCfg1 else x.abftCfg0)

/-- The half h of the array. -/
def halfSel (h : Bool) : HalfSel := if h then .h1 else .h0

/-- What a value is loaded as: M, or a floor, within its limits. -/
def abftClamp (floor : Bool) (v : BitVec 32) : BitVec 32 := if floor then clampFloor v else clampM v

/-- The held write of ACC_CFG, taken once the array is idle. -/
def accSettled (x : Core) : Core := match x.accHeld with
  | some v => if halfBusy x .full then x else accCfgTake x v
  | none => x

/-- One held write of a checksum register of core `x`, taken into `y` when its half is idle. -/
def abftSettled (x y : Core) (p : Bool × Bool × BitVec 32) : Core :=
  if halfBusy x (halfSel p.1) then y else abftTake y p.1 p.2.1 p.2.2

theorem accSettled_of_busy {x : Core} (h : halfBusy x .full = true) : accSettled x = x := by
  unfold accSettled
  cases x.accHeld <;> simp [h]

theorem accSettled_of_idle {x : Core} {v : BitVec 32} (hv : x.accHeld = some v) (h : halfBusy x .full = false) :
    accSettled x = accCfgTake x v := by
  simp [accSettled, hv, h]

/-- Taking ACC_CFG changes ACC_CFG and what is held of it. -/
theorem accSettled_frame (x : Core) :
    accSettled x = { x with accCfg := (accSettled x).accCfg, accHeld := (accSettled x).accHeld } := by
  unfold accSettled
  cases x.accHeld with
  | none => rfl
  | some v => cases halfBusy x .full <;> rfl

theorem accSettled_acc (x : Core) : (accSettled x).acc = x.acc := by rw [accSettled_frame]
theorem accSettled_ops (x : Core) : (accSettled x).ops = x.ops := by rw [accSettled_frame]
theorem accSettled_abftHeld (x : Core) : (accSettled x).abftHeld = x.abftHeld := by rw [accSettled_frame]
theorem accSettled_abftReg (x : Core) (h floor : Bool) : abftReg (accSettled x) h floor = abftReg x h floor := by
  rw [accSettled_frame]
  rfl

theorem halfBusy_accSettled (x : Core) (hs : HalfSel) : halfBusy (accSettled x) hs = halfBusy x hs := by
  rw [halfBusy, accSettled_ops, halfBusy]

/-- Settling takes ACC_CFG, then the checksum registers' writes in the order they came, and keeps those of busy halves. -/
theorem settleIdle_eq (x : Core) : settleIdle x = { x.abftHeld.foldl (abftSettled x) (accSettled x) with
    abftHeld := x.abftHeld.filter (fun p => halfBusy x (halfSel p.1)) } := by
  have h : settleIdle x = { (accSettled x).abftHeld.foldl (abftSettled (accSettled x)) (accSettled x) with
      abftHeld := (accSettled x).abftHeld.filter (fun p => halfBusy (accSettled x) (halfSel p.1)) } := rfl
  have hstep : abftSettled (accSettled x) = abftSettled x := by
    funext y p
    simp only [abftSettled, halfBusy_accSettled]
  rw [h, hstep]
  simp only [accSettled_abftHeld, halfBusy_accSettled]

/-! ### What a checksum register's write leaves -/

theorem abftTake_acc (x : Core) (h floor : Bool) (v : BitVec 32) : (abftTake x h floor v).acc = x.acc := by
  cases floor <;> cases h <;> rfl
theorem abftTake_ops (x : Core) (h floor : Bool) (v : BitVec 32) : (abftTake x h floor v).ops = x.ops := by
  cases floor <;> cases h <;> rfl
theorem abftTake_accCfg (x : Core) (h floor : Bool) (v : BitVec 32) : (abftTake x h floor v).accCfg = x.accCfg := by
  cases floor <;> cases h <;> rfl
theorem abftTake_accHeld (x : Core) (h floor : Bool) (v : BitVec 32) : (abftTake x h floor v).accHeld = x.accHeld := by
  cases floor <;> cases h <;> rfl

theorem abftReg_take_same (x : Core) (h floor : Bool) (v : BitVec 32) : abftReg (abftTake x h floor v) h floor = abftClamp floor v := by
  cases floor <;> cases h <;> rfl

/-- A write of one half's checksum register leaves both registers of the other. -/
theorem abftReg_take_other (x : Core) (h floor floor' : Bool) (v : BitVec 32) :
    abftReg (abftTake x (!h) floor' v) h floor = abftReg x h floor := by
  cases floor' <;> cases h <;> cases floor <;> rfl

/-- What every checksum register's write leaves, settling all of them leaves. -/
theorem foldl_abftSettled_keeps {α : Type} {g : Core → α} (hg : ∀ y h floor v, g (abftTake y h floor v) = g y) (x y : Core)
    (l : List (Bool × Bool × BitVec 32)) : g (l.foldl (abftSettled x) y) = g y := by
  refine List.foldlRecOn (motive := fun z => g z = g y) l (abftSettled x) rfl fun z hz p _ => ?_
  unfold abftSettled
  split
  · exact hz
  · rw [hg, hz]

/-- Settling leaves the checksum registers of a busy half. -/
theorem abftReg_foldl_of_busy {x : Core} {h : Bool} (hb : halfBusy x (halfSel h) = true) (y : Core) (floor : Bool)
    (l : List (Bool × Bool × BitVec 32)) : abftReg (l.foldl (abftSettled x) y) h floor = abftReg y h floor := by
  refine List.foldlRecOn (motive := fun z => abftReg z h floor = abftReg y h floor) l (abftSettled x) rfl fun z hz p _ => ?_
  unfold abftSettled
  split
  · exact hz
  · rename_i hp
    have hother : p.1 = !h := Bool.eq_not.mpr fun he => hp (he ▸ hb)
    rw [hother, abftReg_take_other, hz]

/-! ### The writes -/

/-- A write of ACC_CFG touches no register and no operation. -/
theorem accWrite_frame (w : BitVec 32) (x : Core) : (accWrite w x).acc = x.acc ∧ (accWrite w x).ops = x.ops := by
  rw [accWrite, settleIdle_eq]
  exact ⟨(foldl_abftSettled_keeps abftTake_acc _ _ _).trans (accSettled_acc _),
    (foldl_abftSettled_keeps abftTake_ops _ _ _).trans (accSettled_ops _)⟩

/-- The array busy: the write of ACC_CFG is held. -/
theorem accWrite_of_busy {x : Core} (h : halfBusy x .full = true) (w : BitVec 32) :
    (accWrite w x).accHeld = some w ∧ (accWrite w x).accCfg = x.accCfg := by
  have hs : accSettled { x with accHeld := some w } = { x with accHeld := some w } := accSettled_of_busy h
  rw [accWrite, settleIdle_eq, hs]
  exact ⟨foldl_abftSettled_keeps abftTake_accHeld _ _ _, foldl_abftSettled_keeps abftTake_accCfg _ _ _⟩

/-- The array idle: ACC_CFG keeps SHADOW alone of a write, and a change of it clears SWP. -/
theorem accWrite_of_idle {x : Core} (h : halfBusy x .full = false) (w : BitVec 32) : (accWrite w x).accHeld = none ∧
    (accWrite w x).accCfg = if bitB w 0 = bitB x.accCfg 0 then x.accCfg else BitVec.ofNat 32 (b2n (bitB w 0)) := by
  have hs : accSettled { x with accHeld := some w } = accCfgTake { x with accHeld := some w } w := accSettled_of_idle rfl h
  rw [accWrite, settleIdle_eq, hs]
  exact ⟨foldl_abftSettled_keeps abftTake_accHeld _ _ _, foldl_abftSettled_keeps abftTake_accCfg _ _ _⟩

/-- A half busy: its checksum register's write is held, and its registers stay. -/
theorem abftWrite_of_busy {x : Core} {h : Bool} (hb : halfBusy x (halfSel h) = true) (floor : Bool) (w : BitVec 32) :
    (h, floor, w) ∈ (abftWrite h floor w x).abftHeld ∧ abftReg (abftWrite h floor w x) h floor = abftReg x h floor := by
  rw [abftWrite, settleIdle_eq]
  refine ⟨List.mem_filter.mpr ⟨by simp, hb⟩, ?_⟩
  calc abftReg (List.foldl _ (accSettled _) _) h floor
    _ = abftReg (accSettled { x with abftHeld := x.abftHeld ++ [(h, floor, w)] }) h floor := abftReg_foldl_of_busy hb _ _ _
    _ = abftReg x h floor := accSettled_abftReg _ _ _

/-- A half idle: its checksum register loads the value within its limits, whatever writes were held before it. -/
theorem abftReg_abftWrite_of_idle {x : Core} {h : Bool} (hb : halfBusy x (halfSel h) = false) (floor : Bool) (w : BitVec 32) :
    abftReg (abftWrite h floor w x) h floor = abftClamp floor w := by
  rw [abftWrite, settleIdle_eq, List.foldl_append, List.foldl_cons, List.foldl_nil]
  rw [abftSettled, if_neg (by rw [show halfBusy { x with abftHeld := x.abftHeld ++ [(h, floor, w)] } _ = _ from hb]; decide)]
  exact abftReg_take_same _ _ _ _

end Sys2Proof.Machine
end

section
/-! PROOF. The decode of a register write: its offset names one register, and its value the bits of that register that are written
(R6, R7, R33, R34, R383). -/

namespace Sys2Proof.Machine

/-! ### What is written -/

/-- A write of a 32-bit register, of the upper word of eight bytes, and of a 64-bit register. -/
def lowWrite (a : Agent) (v : BitVec 64) : RegW := ⟨a, v, 0xFFFFFFFF#64⟩
def highWrite (a : Agent) (v : BitVec 64) : RegW := ⟨a, v <<< 32, 0xFFFFFFFF00000000#64⟩
def wideWrite (a : Agent) (v : BitVec 64) : RegW := ⟨a, v, BitVec.allOnes 64⟩

theorem writeAt_low (a : Agent) {o : Nat} (v : BitVec 64) (h8 : o % 8 = 0) (hw : wide o = false) : writeAt a o v = (lowWrite a v, o) := by
  simp [writeAt, h8, hw, lowWrite]

theorem writeAt_wide (a : Agent) {o : Nat} (v : BitVec 64) (h8 : o % 8 = 0) (hw : wide o = true) : writeAt a o v = (wideWrite a v, o) := by
  simp [writeAt, h8, hw, wideWrite]

theorem writeAt_high (a : Agent) {o : Nat} (v : BitVec 64) (h8 : o % 8 = 0) : writeAt a (o + 4) v = (highWrite a v, o) := by
  simp [writeAt, show (o + 4) % 8 = 4 by omega, highWrite]

@[simp] theorem onLow_lowWrite (a : Agent) (v : BitVec 64) (f : BitVec 32 → Die → Die) (d : Die) :
    onLow (lowWrite a v) f d = f (v.setWidth 32) d := by
  rw [BitVec.setWidth_eq_extractLsb' (by decide)]
  exact if_pos (by decide : (0xFFFFFFFF#64).getLsbD 0 = true)

@[simp] theorem onHigh_lowWrite (a : Agent) (v : BitVec 64) (f : BitVec 32 → Die → Die) (d : Die) : onHigh (lowWrite a v) f d = d :=
  if_neg (by decide : ¬ (0xFFFFFFFF#64).getLsbD 32 = true)

@[simp] theorem onHigh_highWrite (a : Agent) (v : BitVec 64) (f : BitVec 32 → Die → Die) (d : Die) :
    onHigh (highWrite a v) f d = f (v.setWidth 32) d := by
  have h : (v <<< 32).extractLsb' 32 32 = v.setWidth 32 := by
    refine BitVec.eq_of_getLsbD_eq fun i hi => ?_
    rw [BitVec.getLsbD_extractLsb', BitVec.getLsbD_shiftLeft, BitVec.getLsbD_setWidth, Nat.add_sub_cancel_left]
    simp [hi, show 32 + i < 64 by omega]
  rw [← h]
  exact if_pos (by decide : (0xFFFFFFFF00000000#64).getLsbD 32 = true)

@[simp] theorem onLow_highWrite (a : Agent) (v : BitVec 64) (f : BitVec 32 → Die → Die) (d : Die) : onLow (highWrite a v) f d = d :=
  if_neg (by decide : ¬ (0xFFFFFFFF00000000#64).getLsbD 0 = true)

@[simp] theorem mergeW_wideWrite (a : Agent) (v old : BitVec 64) : mergeW (wideWrite a v) old = v := by
  rw [mergeW, wideWrite, BitVec.not_allOnes, BitVec.and_zero, BitVec.and_allOnes, BitVec.zero_or]

@[simp] theorem hitW_wideWrite (a : Agent) (v : BitVec 64) (i : Nat) : hitW (wideWrite a v) i = bitB v i := by
  rw [hitW, wideWrite, BitVec.and_allOnes, bitB]

/-! ### Writes that are discarded -/

/-- The eight bytes a write falls into are mapped only when its offset is. -/
theorem regMapped_writeAt {d : Die} {o : Nat} (a : Agent) (v : BitVec 64) (h : regMapped d o = false) :
    regMapped d (writeAt a o v).2 = false := by
  by_cases h4 : o % 8 = 4
  · have hat : (writeAt a o v).2 = o - 4 := by simp [writeAt, h4]
    have hlow : (o - 4 < 0x200000) = (o < 0x200000) := propext (by omega)
    have hcore : (0x800000 ≤ o - 4 ∧ o - 4 < 0x2800000) = (0x800000 ≤ o ∧ o < 0x2800000) := propext (by omega)
    have hnum : (o - 4 - 0x800000) / 0x10000 = (o - 0x800000) / 0x10000 := by omega
    simpa only [hat, regMapped, hlow, hcore, hnum] using h
  · simpa [writeAt, h4] using h

/-- A write to an unmapped offset is discarded, whoever makes it. -/
theorem regWrite_unmapped {w : RegW} {o : Nat} {d : Die} (h : regMapped d o = false) : regWrite w o d = d := by
  simp [regWrite, h]

theorem regWrite_inReset {w : RegW} {o : Nat} {d : Die} (h : inReset d = true) : regWrite w o d = d := by
  simp [regWrite, h]

/-- Outside steps 7 and 8 the Keyholder writes nothing (R383). -/
theorem regWrite_keyholder_locked {w : RegW} {o : Nat} {d : Die} (ha : w.agent = .keyholder) (h7 : d.boot.step ≠ 7)
    (h8 : d.boot.step ≠ 8) : regWrite w o d = d := by
  have hkey : keyStep d = false := by rw [keyStep, beq_false_of_ne h7, beq_false_of_ne h8, Bool.or_self]
  simp [regWrite, ha, keyWrite, hkey]

theorem writeAt_agent (a : Agent) (o : Nat) (v : BitVec 64) : (writeAt a o v).1.agent = a := by
  unfold writeAt
  split <;> rfl

theorem effRegister_discarded {d : Die} {a : Agent} {off : BitVec 26} {v : BitVec 64}
    (h : inReset d = true ∨ off.toNat % 4 ≠ 0 ∨ regMapped d off.toNat = false ∨ (a = .debug ∧ debugWrites d = false) ∨
      (a = .keyholder ∧ d.boot.step ≠ 7 ∧ d.boot.step ≠ 8)) : effRegister a off v d = d := by
  unfold effRegister
  split
  · rfl
  rename_i hwrites
  rcases h with hreset | halign | hmap | ⟨hdebug, hclosed⟩ | ⟨hkey, h7, h8⟩
  · exact regWrite_inReset hreset
  · exact absurd (by simp [halign]) hwrites
  · exact regWrite_unmapped (regMapped_writeAt a v hmap)
  · exact absurd (by simp [hdebug, hclosed]) hwrites
  · exact regWrite_keyholder_locked ((writeAt_agent a _ v).trans hkey) h7 h8

/-! ### The Steward's writes -/

section StewardWrites

variable {d : Die} {o : Nat} (v : BitVec 64) (hup : inReset d = false)
include hup

/-- Of a die out of reset, the Steward's write at a mapped offset reaches the registers. -/
theorem effRegister_steward (halign : o % 4 = 0) (hmap : regMapped d (writeAt .steward o v).2 = true) (hlt : o < 0x4000000) :
    effRegister .steward (BitVec.ofNat 26 o) v d = stewRegWrite (writeAt .steward o v).1 (writeAt .steward o v).2 d := by
  have hoff : (BitVec.ofNat 26 o).toNat = o := by rw [BitVec.toNat_ofNat, Nat.mod_eq_of_lt hlt]
  simp [effRegister, hoff, halign, regWrite, hup, hmap, writeAt_agent]

theorem effRegister_steward_low (h8 : o % 8 = 0) (hw : wide o = false) (hmap : regMapped d o = true) (hlt : o < 0x4000000) :
    effRegister .steward (BitVec.ofNat 26 o) v d = stewRegWrite (lowWrite .steward v) o d := by
  have hat := writeAt_low .steward v h8 hw
  rw [effRegister_steward v hup (by omega) (by rwa [hat]) hlt, hat]

theorem effRegister_steward_wide (h8 : o % 8 = 0) (hw : wide o = true) (hmap : regMapped d o = true) (hlt : o < 0x4000000) :
    effRegister .steward (BitVec.ofNat 26 o) v d = stewRegWrite (wideWrite .steward v) o d := by
  have hat := writeAt_wide .steward v h8 hw
  rw [effRegister_steward v hup (by omega) (by rwa [hat]) hlt, hat]

theorem effRegister_steward_high (h8 : o % 8 = 0) (hmap : regMapped d o = true) (hlt : o + 4 < 0x4000000) :
    effRegister .steward (BitVec.ofNat 26 (o + 4)) v d = stewRegWrite (highWrite .steward v) o d := by
  have hat := writeAt_high .steward v h8
  rw [effRegister_steward v hup (by omega) (by rwa [hat]) hlt, hat]

end StewardWrites

/-- Below the CORE blocks every offset is mapped. -/
theorem regMapped_die (d : Die) {o : Nat} (h : o < 0x200000) : regMapped d o = true := by
  simp [regMapped, h]

/-! ### The CORE blocks -/

/-- Offset `k` of the CORE block of core `c`. -/
def coreReg (c : CoreId) (k : Nat) : Nat := 0x800000 + 0x10000 * c.toNat + k

theorem coreReg_ge (c : CoreId) (k : Nat) : 0x800000 ≤ coreReg c k := by
  unfold coreReg
  omega

theorem coreReg_aligned (c : CoreId) {k : Nat} (h8 : k % 8 = 0) : coreReg c k % 8 = 0 := by
  unfold coreReg
  omega

section CoreBlocks

variable (c : CoreId) {k : Nat} (hk : k < 0x10000)
include hk

theorem coreReg_lt : coreReg c k < 0x2800000 := by
  have := c.isLt
  unfold coreReg
  omega

theorem coreReg_core : BitVec.ofNat 9 ((coreReg c k - 0x800000) / 0x10000) = c := by
  have h : (coreReg c k - 0x800000) / 0x10000 = c.toNat := by
    unfold coreReg
    omega
  rw [h, BitVec.ofNat_toNat, BitVec.setWidth_eq]

theorem coreReg_offset : (coreReg c k - 0x800000) % 0x10000 = k := by
  unfold coreReg
  omega

theorem regMapped_coreReg (d : Die) : regMapped d (coreReg c k) = coreInUse d c := by
  have hlt := coreReg_lt c hk
  have hge := coreReg_ge c k
  rw [regMapped, coreReg_core c hk, decide_eq_false (by omega), decide_eq_true ⟨hge, hlt⟩, Bool.true_and, Bool.false_or]

theorem stewRegWrite_coreReg (w : RegW) (d : Die) : stewRegWrite w (coreReg c k) d = writeCore w c k d := by
  have hlt := coreReg_lt c hk
  have hge := coreReg_ge c k
  have hskip : ∀ n, n ≤ 0x200000 → ¬ coreReg c k < n := fun n hn => by omega
  simp only [stewRegWrite, hskip, Nat.reduceLeDiff, if_false, if_pos (And.intro hge hlt), coreReg_core c hk, coreReg_offset c hk]

/-- Which registers of a CORE block have 64 bits is the same for every core. -/
theorem wide_coreReg : wide (coreReg c k) = wide (0x800000 + k) := by
  have hge := coreReg_ge c k
  have hskip : ∀ n, n ≤ 0x200000 → ¬ coreReg c k < n := fun n hn => by omega
  have hskip' : ∀ n, n ≤ 0x200000 → ¬ 0x800000 + k < n := fun n hn => by omega
  simp only [wide, hskip, hskip', Nat.reduceLeDiff, if_false, coreReg_offset c hk, Nat.add_sub_cancel_left, Nat.mod_eq_of_lt hk]

/-- A Steward's write in a CORE block, by the register's width. -/
theorem effRegister_core_low {d : Die} (v : BitVec 64) (hup : inReset d = false) (huse : coreInUse d c = true) (h8 : k % 8 = 0)
    (hw : wide (0x800000 + k) = false) :
    effRegister .steward (BitVec.ofNat 26 (coreReg c k)) v d = writeCore (lowWrite .steward v) c k d := by
  have hlt := coreReg_lt c hk
  have halign := coreReg_aligned c h8
  rw [effRegister_steward_low v hup halign (by rwa [wide_coreReg c hk]) (by rwa [regMapped_coreReg c hk]) (by omega),
    stewRegWrite_coreReg c hk]

theorem effRegister_core_wide {d : Die} (v : BitVec 64) (hup : inReset d = false) (huse : coreInUse d c = true) (h8 : k % 8 = 0)
    (hw : wide (0x800000 + k) = true) :
    effRegister .steward (BitVec.ofNat 26 (coreReg c k)) v d = writeCore (wideWrite .steward v) c k d := by
  have hlt := coreReg_lt c hk
  have halign := coreReg_aligned c h8
  rw [effRegister_steward_wide v hup halign (by rwa [wide_coreReg c hk]) (by rwa [regMapped_coreReg c hk]) (by omega),
    stewRegWrite_coreReg c hk]

theorem effRegister_core_high {d : Die} (v : BitVec 64) (hup : inReset d = false) (huse : coreInUse d c = true) (h8 : k % 8 = 0) :
    effRegister .steward (BitVec.ofNat 26 (coreReg c (k + 4))) v d = writeCore (highWrite .steward v) c k d := by
  have hlt := coreReg_lt c hk
  have halign := coreReg_aligned c h8
  have hadd : coreReg c (k + 4) = coreReg c k + 4 := rfl
  rw [hadd, effRegister_steward_high v hup halign (by rwa [regMapped_coreReg c hk]) (by omega), stewRegWrite_coreReg c hk]

end CoreBlocks

end Sys2Proof.Machine
end

section
/-! PROOF. What each register loads: the decode of its offset, its width and its clamps (R7, R83, R119, R161, R240, R348, R356, R383, R396). -/

namespace Sys2Proof.Machine

/-! ### The register an offset names -/

/-- An offset `j` bytes into entry `i` is of that entry. -/
theorem entryAt_entry {base stride n i j : Nat} (hi : i < n) (hj : j < stride) : entryAt (base + stride * i + j) base stride n = some i := by
  have hle : stride * (i + 1) ≤ stride * n := Nat.mul_le_mul_left stride hi
  rw [Nat.mul_succ] at hle
  have hpos : 0 < stride := by omega
  rw [entryAt, if_pos (by omega), Nat.add_assoc, Nat.add_sub_cancel_left, Nat.mul_add_div hpos, Nat.div_eq_of_lt hj, Nat.add_zero]

section Decode

variable (w : RegW) (d : Die)

theorem stewRegWrite_target : stewRegWrite w 0x20000 d = onLow w (fun v e => effTarget (v.extractLsb' 16 3) e) d := rfl

theorem stewRegWrite_thmHot :
    stewRegWrite w 0x30080 d = onLow w (fun v e => { e with power := { e.power with thmHot := clampHot (v.setWidth 16) } }) d := rfl

theorem stewRegWrite_offer : stewRegWrite w 0x80010 d =
    onLow w (fun v e => if offerLocked e then e else { e with link := { e.link with offer := v } }) d := rfl

theorem stewRegWrite_dirBase : stewRegWrite w 0x140000 d =
    { d with ledger := { d.ledger with dirBase := mergeW w d.ledger.dirBase &&& 0x8000FFFFFFF00000#64 } } := rfl

theorem stewRegWrite_fatal :
    stewRegWrite w 0x40 d = if hitW w 63 then { d with flt := { d.flt with fatalValid := false } } else d := rfl

theorem stewRegWrite_soft : stewRegWrite w 0x180000 d = onLow w (fun v e => { e with lodge := { e.lodge with
    softEn := bitB v 31, softThresh := if fld v 0 8 = 0 then 1 else v.extractLsb' 0 8 } }) d := rfl

theorem stewRegWrite_kh {o : Nat} (h : o < 0x10000) : stewRegWrite w (0x50000 + o) d = writeKh w o d := by
  have hskip : ∀ k, k ≤ 0x50000 → ¬ 0x50000 + o < k := fun k hk => by omega
  simp only [stewRegWrite, hskip, Nat.reduceLeDiff, if_false, if_pos (show 0x50000 + o < 0x60000 by omega), Nat.add_sub_cancel_left]

theorem stewRegWrite_mesh {o : Nat} (h : o < 0x40000) : stewRegWrite w (0xC0000 + o) d = writeMesh w o d := by
  have hskip : ∀ k, k ≤ 0xC0000 → ¬ 0xC0000 + o < k := fun k hk => by omega
  simp only [stewRegWrite, hskip, Nat.reduceLeDiff, if_false, if_pos (show 0xC0000 + o < 0x100000 by omega), Nat.add_sub_cancel_left]

theorem writeKh_window (n : BitVec 3) : writeKh w (0x100 + 32 * n.toNat + 16) d =
    onLow w (fun v e => if bitB v 31 then effWinOpen n e else effWinClose n e) d := by
  have hentry : entryAt (0x100 + 32 * n.toNat + 16) 0x100 32 8 = some n.toNat := entryAt_entry n.isLt (by decide)
  have hoff : (0x100 + 32 * n.toNat + 16 - 0x100) % 32 = 16 := by omega
  simp only [writeKh, hentry, hoff, if_true, BitVec.ofNat_toNat, BitVec.setWidth_eq]

theorem writeMesh_port (c : CoreId) : writeMesh w (8 * c.toNat) d = portWrite c (mergeW w (meshPort d c.toNat)) d := by
  have hc := c.isLt
  have hentry : entryAt (8 * c.toNat) 0 8 512 = some c.toNat := by
    simpa using entryAt_entry (base := 0) (stride := 8) (j := 0) hc (by decide)
  unfold writeMesh
  split
  · omega
  · omega
  · omega
  · simp only [hentry, BitVec.ofNat_toNat, BitVec.setWidth_eq]

theorem writeCore_seed (c : CoreId) (t : Bool) : writeCore w c (0x200 + 8 * b2n t) d =
    modCore d c (fun x => seedWrite t (mergeW w (if t then x.seed1 else x.seed0)) x) := by
  cases t <;> rfl

theorem writeCore_accCfg (c : CoreId) : writeCore w c 0x120 d = onLow w (fun v e => modCore e c (accWrite v)) d := rfl

theorem writeCore_abft (c : CoreId) (floor : Bool) : writeCore w c (0x140 + 8 * b2n floor) d =
    onHigh w (fun v e => modCore e c (abftWrite true floor v)) (onLow w (fun v e => modCore e c (abftWrite false floor v)) d) := by
  cases floor <;> rfl

theorem writeCore_ring (c : CoreId) (r : BitVec 3) : writeCore w c (0x800 + 8 * r.toNat) d =
    writeRing c r.toNat (mergeW w (getRing (getCore d c) r.toNat).cfg) d := by
  have hr := r.isLt
  generalize r.toNat = n at hr ⊢
  interval_cases n <;> rfl

end Decode

/-! ### The widths -/

theorem wide_window (n : BitVec 3) : wide (0x50110 + 32 * n.toNat) = false := by
  revert n
  decide

theorem wide_port (c : CoreId) : wide (0xC0000 + 8 * c.toNat) = true := by
  have hc := c.isLt
  have hskip : ∀ k, k ≤ 0xC0000 → ¬ 0xC0000 + 8 * c.toNat < k := fun k hk => by omega
  have hwithin : 0xC0000 + 8 * c.toNat < 0xC1000 := by omega
  simp only [wide, hskip, Nat.reduceLeDiff, if_false, if_pos (show 0xC0000 + 8 * c.toNat < 0x100000 by omega),
    decide_eq_true (show 0xC0000 ≤ 0xC0000 + 8 * c.toNat by omega), decide_eq_true hwithin, Bool.and_self, Bool.true_or]

theorem wide_seed (t : Bool) : wide (0x800000 + (0x200 + 8 * b2n t)) = true := by
  cases t <;> rfl

theorem wide_abft (floor : Bool) : wide (0x800000 + (0x140 + 8 * b2n floor)) = false := by
  cases floor <;> rfl

theorem wide_ring (r : BitVec 3) : wide (0x800000 + (0x800 + 8 * r.toNat)) = true := by
  revert r
  decide

/-! ### One core's registers -/

theorem onDieReg_used {c : CoreId} {d : Die} (f : Die → Die) (hup : inReset d = false) (huse : coreInUse d c = true) :
    onDieReg c f d = f d := by
  simp [onDieReg, hup, huse]

theorem onDieReg_unused {c : CoreId} {d : Die} (f : Die → Die) (h : coreInUse d c = false ∨ inReset d = true) : onDieReg c f d = d := by
  rcases h with h | h <;> simp [onDieReg, h]

theorem onlyCore_refl (c : CoreId) (d : Die) : OnlyCore c d d := ⟨rfl, fun _ _ => rfl⟩

theorem onlyCore_modCore (c : CoreId) (d : Die) (f : Core → Core) : OnlyCore c d (modCore d c f) :=
  ⟨rfl, fun _ hk => getCore_modCore_ne d f hk⟩

/-- What ACC_CFG keeps of a write: SHADOW, and SWP only while SHADOW stays. -/
theorem accWrite_cfg_of_idle {x : Core} (h : halfBusy x .full = false) (w : BitVec 32) :
    bitB (accWrite w x).accCfg 0 = bitB w 0 ∧ (bitB w 0 = bitB x.accCfg 0 → (accWrite w x).accCfg = x.accCfg) ∧
      (bitB w 0 ≠ bitB x.accCfg 0 → fld (accWrite w x).accCfg 8 16 = 0) := by
  rw [(accWrite_of_idle h w).2]
  by_cases hs : bitB w 0 = bitB x.accCfg 0
  · rw [if_pos hs]
    exact ⟨hs.symm, fun _ => rfl, fun hne => absurd hs hne⟩
  · rw [if_neg hs]
    refine ⟨?_, fun he => absurd he hs, fun _ => ?_⟩ <;> cases bitB w 0 <;> rfl

/-- A write of CORE_RING_n leaves the core's other rings. -/
theorem getRing_putRing_ne (x : Core) {n k : Nat} (r : Ring) (h : k ≠ n) : getRing (putRing x n r) k = getRing x k :=
  tabGet_set_ne _ _ _ h

theorem getRing_putRing (x : Core) (n : Nat) (r : Ring) : getRing (putRing x n r) n = r := tabGet_set _ _ _ _

theorem writeRing_of_idle {c : CoreId} {n : Nat} {d : Die} (h : ringIdle d c n = true) (v : BitVec 64) :
    writeRing c n v d = modCore d c (fun x => putRing x n { getRing x n with cfg := ringLoad v }) := if_pos h

theorem writeRing_of_not_idle {c : CoreId} {n : Nat} {d : Die} (h : ringIdle d c n = false) (v : BitVec 64) : writeRing c n v d = d :=
  if_neg (by simp [h])

/-! ### The die's registers -/

/-- The Keyholder's write of PWR_CEIL, the upper word at 0x20000, lands at steps 7 and 8. -/
theorem effRegister_keyholder_ceil {d : Die} (v : BitVec 64) (hup : inReset d = false) (hstep : d.boot.step = 7 ∨ d.boot.step = 8) :
    effRegister .keyholder (BitVec.ofNat 26 0x20004) v d = ceilWrite (v.setWidth 32) d := by
  have hkey : keyStep d = true := by
    rcases hstep with h | h <;> rw [keyStep, h] <;> rfl
  have hat : writeAt .keyholder 0x20004 v = (highWrite .keyholder v, 0x20000) := writeAt_high .keyholder (o := 0x20000) v rfl
  have hmap := regMapped_die d (o := 0x20000) (by decide)
  have hreach : effRegister .keyholder (BitVec.ofNat 26 0x20004) v d = keyWrite (highWrite .keyholder v) 0x20000 d := by
    simp [effRegister, hat, regWrite, hup, hmap, highWrite]
  rw [hreach, keyWrite, hkey]
  exact onHigh_highWrite _ _ _ _

/-- A variant's ceiling fits its register. -/
theorem variantLimits_ceil_lt {k op ceil : Nat} (h : variantLimits k = some (op, ceil)) : ceil < 2 ^ 16 := by
  unfold variantLimits at h
  split at h <;> simp only [Option.some.injEq, Prod.mk.injEq, reduceCtorEq] at h <;> omega

/-- The ceiling goes no higher than the fused limit (R348). -/
theorem ceilWrite_ceil {d : Die} {op ceil : Nat} (w : BitVec 32) (h : variantLimits (effVariant d) = some (op, ceil)) :
    (ceilWrite w d).power.ceil.toNat = min (fld w 0 16) ceil := by
  have hfused : (BitVec.ofNat 16 ceil).toNat = ceil := by rw [BitVec.toNat_ofNat, Nat.mod_eq_of_lt (variantLimits_ceil_lt h)]
  have hval : (w.setWidth 16).toNat = fld w 0 16 := by rw [BitVec.setWidth_eq_extractLsb' (by decide), fld]
  simp only [ceilWrite, h, hfused]
  split <;> omega

/-- THM_HOT stays between 60 °C and 105 °C, in quarters of a degree (R356). -/
theorem clampHot_toInt (v : BitVec 16) : (clampHot v).toInt = max 240 (min 420 v.toInt) := by
  have hlo : (0x00F0 : BitVec 16).toInt = 240 := rfl
  have hhi : (0x01A4 : BitVec 16).toInt = 420 := rfl
  unfold clampHot
  split
  · omega
  · split <;> omega

/-! ### The Steward's write of each register, by its offset -/

section ByOffset

variable {d : Die} (v : BitVec 64) (hup : inReset d = false)
include hup

theorem effRegister_target : effRegister .steward (BitVec.ofNat 26 0x20000) v d = effTarget (v.extractLsb' 16 3) d := by
  rw [effRegister_steward_low v hup (by decide) (by decide) (regMapped_die d (by decide)) (by decide), stewRegWrite_target, onLow_lowWrite,
    BitVec.extractLsb'_setWidth_of_le (by decide)]

theorem effRegister_window (n : BitVec 3) : effRegister .steward (BitVec.ofNat 26 (0x50110 + 32 * n.toNat)) v d =
    if bitB v 31 then effWinOpen n d else effWinClose n d := by
  have hn := n.isLt
  have hat : 0x50110 + 32 * n.toNat = 0x50000 + (0x100 + 32 * n.toNat + 16) := by omega
  rw [effRegister_steward_low v hup (by omega) (wide_window n) (regMapped_die d (by omega)) (by omega), hat, stewRegWrite_kh _ _ (by omega),
    writeKh_window, onLow_lowWrite, bitB_setWidth v (by decide)]

theorem effRegister_port (c : CoreId) : effRegister .steward (BitVec.ofNat 26 (0xC0000 + 8 * c.toNat)) v d = portWrite c v d := by
  have hc := c.isLt
  rw [effRegister_steward_wide v hup (by omega) (wide_port c) (regMapped_die d (by omega)) (by omega),
    stewRegWrite_mesh _ _ (by omega), writeMesh_port, mergeW_wideWrite]

theorem effRegister_thmHot : effRegister .steward (BitVec.ofNat 26 0x30080) v d =
    { d with power := { d.power with thmHot := clampHot (v.setWidth 16) } } := by
  rw [effRegister_steward_low v hup (by decide) (by decide) (regMapped_die d (by decide)) (by decide), stewRegWrite_thmHot, onLow_lowWrite,
    BitVec.setWidth_setWidth_of_le _ (by decide)]

theorem effRegister_offer : effRegister .steward (BitVec.ofNat 26 0x80010) v d =
    if 6 ≤ d.link.state.toNat then d else { d with link := { d.link with offer := v.setWidth 32 } } := by
  rw [effRegister_steward_low v hup (by decide) (by decide) (regMapped_die d (by decide)) (by decide), stewRegWrite_offer, onLow_lowWrite]
  simp only [offerLocked, decide_eq_true_eq]

theorem effRegister_dirBase : effRegister .steward (BitVec.ofNat 26 0x140000) v d =
    { d with ledger := { d.ledger with dirBase := v &&& 0x8000FFFFFFF00000#64 } } := by
  rw [effRegister_steward_wide v hup (by decide) (by decide) (regMapped_die d (by decide)) (by decide), stewRegWrite_dirBase,
    mergeW_wideWrite]

theorem effRegister_fatal : effRegister .steward (BitVec.ofNat 26 0x40) v d =
    if bitB v 63 then { d with flt := { d.flt with fatalValid := false } } else d := by
  rw [effRegister_steward_wide v hup (by decide) (by decide) (regMapped_die d (by decide)) (by decide), stewRegWrite_fatal, hitW_wideWrite]

theorem effRegister_soft : effRegister .steward (BitVec.ofNat 26 0x180000) v d = { d with lodge := { d.lodge with
    softEn := bitB v 31, softThresh := if fld v 0 8 = 0 then 1 else v.extractLsb' 0 8 } } := by
  rw [effRegister_steward_low v hup (by decide) (by decide) (regMapped_die d (by decide)) (by decide), stewRegWrite_soft, onLow_lowWrite,
    bitB_setWidth v (by decide), fld_setWidth v (by decide), BitVec.extractLsb'_setWidth_of_le (by decide)]

/-- The Steward reads PWR_CEIL and does not write it. -/
theorem effRegister_steward_ceil : effRegister .steward (BitVec.ofNat 26 0x20004) v d = d := by
  rw [effRegister_steward_high (o := 0x20000) v hup (by decide) (regMapped_die d (by decide)) (by decide), stewRegWrite_target,
    onLow_highWrite]

variable {c : CoreId} (huse : coreInUse d c = true)
include huse

theorem effRegister_seed (t : Bool) :
    effRegister .steward (BitVec.ofNat 26 (coreReg c (0x200 + 8 * b2n t))) v d = modCore d c (seedWrite t v) := by
  rw [effRegister_core_wide c (by cases t <;> decide) v hup huse (by omega) (wide_seed t), writeCore_seed]
  simp only [mergeW_wideWrite]

theorem effRegister_accCfg :
    effRegister .steward (BitVec.ofNat 26 (coreReg c 0x120)) v d = modCore d c (accWrite (v.setWidth 32)) := by
  rw [effRegister_core_low c (by decide) v hup huse (by decide) (by decide), writeCore_accCfg, onLow_lowWrite]

theorem effRegister_abft (h floor : Bool) : effRegister .steward (BitVec.ofNat 26 (coreReg c (0x140 + 8 * b2n floor + 4 * b2n h))) v d =
    modCore d c (abftWrite h floor (v.setWidth 32)) := by
  have hk : 0x140 + 8 * b2n floor < 0x10000 := by cases floor <;> decide
  cases h with
  | false =>
    show effRegister .steward (BitVec.ofNat 26 (coreReg c (0x140 + 8 * b2n floor))) v d = _
    rw [effRegister_core_low c hk v hup huse (by omega) (wide_abft floor), writeCore_abft, onHigh_lowWrite, onLow_lowWrite]
  | true =>
    show effRegister .steward (BitVec.ofNat 26 (coreReg c (0x140 + 8 * b2n floor + 4))) v d = _
    rw [effRegister_core_high c hk v hup huse (by omega), writeCore_abft, onLow_highWrite, onHigh_highWrite]

theorem effRegister_ring (r : BitVec 3) :
    effRegister .steward (BitVec.ofNat 26 (coreReg c (0x800 + 8 * r.toNat))) v d = writeRing c r.toNat v d := by
  have hr := r.isLt
  rw [effRegister_core_wide c (by omega) v hup huse (by omega) (wide_ring r), writeCore_ring, mergeW_wideWrite]

end ByOffset

end Sys2Proof.Machine
end

section
/-! PROOF. O52: the rows that write registers, and the register writes that name the same registers by their offsets. -/

namespace Sys2Proof.Machine

/-! ### What one core's register loads -/

theorem accWrite_loads (w : BitVec 32) (x : Core) : (accWrite w x).acc = x.acc ∧ (accWrite w x).ops = x.ops ∧
    (halfBusy x .full = true → (accWrite w x).accHeld = some w ∧ (accWrite w x).accCfg = x.accCfg) ∧
    (halfBusy x .full = false → (accWrite w x).accHeld = none ∧ bitB (accWrite w x).accCfg 0 = bitB w 0 ∧
      (bitB w 0 = bitB x.accCfg 0 → (accWrite w x).accCfg = x.accCfg) ∧
      (bitB w 0 ≠ bitB x.accCfg 0 → fld (accWrite w x).accCfg 8 16 = 0)) := by
  obtain ⟨hacc, hops⟩ := accWrite_frame w x
  exact ⟨hacc, hops, fun hb => accWrite_of_busy hb w, fun hi => ⟨(accWrite_of_idle hi w).1, accWrite_cfg_of_idle hi w⟩⟩

theorem abftWrite_loads_cfg (h : Bool) (w : BitVec 32) (x : Core) :
    (halfBusy x (halfSel h) = true → (h, false, w) ∈ (abftWrite h false w x).abftHeld ∧
      if h then (abftWrite h false w x).abftCfg1 = x.abftCfg1 else (abftWrite h false w x).abftCfg0 = x.abftCfg0) ∧
    (halfBusy x (halfSel h) = false → fld (abftReg (abftWrite h false w x) h false) 0 5 = max 8 (min 24 (fld w 0 5)) ∧
      bitB (abftReg (abftWrite h false w x) h false) 31 = bitB w 31 ∧ fld (abftReg (abftWrite h false w x) h false) 5 26 = 0) := by
  refine ⟨fun hb => ?_, fun hi => ?_⟩
  · obtain ⟨hheld, hkept⟩ := abftWrite_of_busy hb false w
    exact ⟨hheld, by cases h <;> exact hkept⟩
  · rw [abftReg_abftWrite_of_idle hi]
    exact ⟨fld_clampM_m w, bitB_clampM_en w, fld_clampM_rest w⟩

theorem abftWrite_loads_floor (h : Bool) (w : BitVec 32) (x : Core) :
    (halfBusy x (halfSel h) = true → (h, true, w) ∈ (abftWrite h true w x).abftHeld) ∧
    (halfBusy x (halfSel h) = false → abftReg (abftWrite h true w x) h true = if w = 0x80000000#32 then w
      else if bitB w 31 = true ∨ fld w 23 8 = 255 then 0x00800000#32 else w) :=
  ⟨fun hb => (abftWrite_of_busy hb true w).1, fun hi => (abftReg_abftWrite_of_idle hi true w).trans (clampFloor_eq w)⟩

/-- The fields of CORE_RING_n, each at its place, and 0 between them. -/
theorem ringLoad_fields (v : BitVec 64) : fld (ringLoad v) 59 4 = fld v 59 4 ∧ fld (ringLoad v) 33 14 = fld v 33 14 ∧
    fld (ringLoad v) 16 6 = fld v 16 6 ∧ fld (ringLoad v) 0 10 = fld v 0 10 ∧
    fld (ringLoad v) 47 12 = 0 ∧ fld (ringLoad v) 22 11 = 0 ∧ fld (ringLoad v) 10 6 = 0 :=
  ⟨fld_ringLoad_kept v (by decide) (by decide), fld_ringLoad_kept v (by decide) (by decide),
    fld_ringLoad_kept v (by decide) (by decide), fld_ringLoad_kept v (by decide) (by decide),
    fld_ringLoad_zero v (by decide) (by decide), fld_ringLoad_zero v (by decide) (by decide), fld_ringLoad_zero v (by decide) (by decide)⟩

/-- A ring that is IDLE loads its register and keeps its buffers; one that is not ignores the write. -/
theorem writeRing_loads (c : CoreId) (n : Nat) (v : BitVec 64) (d : Die) : OnlyCore c d (writeRing c n v d) ∧
    (ringIdle d c n = false → getCore (writeRing c n v d) c = getCore d c) ∧
    (ringIdle d c n = true → (∀ k, k ≠ n → getRing (getCore (writeRing c n v d) c) k = getRing (getCore d c) k) ∧
      getRing (getCore (writeRing c n v d) c) n = { getRing (getCore d c) n with cfg := ringLoad v }) := by
  cases hidle : ringIdle d c n with
  | false =>
    rw [writeRing_of_not_idle hidle]
    exact ⟨onlyCore_refl c d, fun _ => rfl, fun h => absurd h Bool.false_ne_true⟩
  | true =>
    rw [writeRing_of_idle hidle, getCore_modCore]
    exact ⟨onlyCore_modCore c d _, fun h => absurd h.symm Bool.false_ne_true,
      fun _ => ⟨fun k hk => getRing_putRing_ne _ _ hk, getRing_putRing _ _ _⟩⟩

/-! ### The rows -/

section Rows

variable {s : State} {c : CoreId}

theorem onDie_eq {f : Die → Die} {u : Die} (h : f s.die = u) : onDie f s = .next (s.withDie u) := by
  rw [onDie_next, h]

theorem exec_registerWrite {a : Agent} {off : BitVec 26} {v : BitVec 64} {u : Die} (h : effRegister a off v s.die = u) :
    exec (.registerWrite a off v) s = .next (s.withDie u) :=
  onDie_eq h

theorem exec_pwrOpTargetWrite (op : BitVec 3) (hup : inReset s.die = false) :
    exec (.pwrOpTargetWrite op) s = .next (s.withDie (effTarget op s.die)) :=
  onDie_eq (f := fun d => if inReset d then d else effTarget op d) (if_neg (by simp [hup]))

theorem exec_meshPortWrite (v : BitVec 64) (hup : inReset s.die = false) :
    exec (.meshPortWrite c v) s = .next (s.withDie (portWrite c v s.die)) :=
  onDie_eq (if_neg (by simp [hup]))

theorem exec_coreRingWrite (r : BitVec 3) (v : BitVec 64) (hup : inReset s.die = false) (huse : coreInUse s.die c = true) :
    exec (.coreRingWrite c r v) s = .next (s.withDie (writeRing c r.toNat v s.die)) :=
  onDie_eq (onDieReg_used _ hup huse)

/-- A row that writes a register of a core in use. -/
theorem onDie_onCoreReg (f : Core → Core) (hup : inReset s.die = false) (huse : coreInUse s.die c = true) :
    onDie (onCoreReg c f) s = .next (s.withDie (modCore s.die c f)) :=
  onDie_eq (onDieReg_used _ hup huse)

/-- Such a row changes that core alone, as the register loads. -/
theorem onCoreReg_loads (f : Core → Core) (hup : inReset s.die = false) (huse : coreInUse s.die c = true) :
    ∃ u : Die, onDie (onCoreReg c f) s = .next (s.withDie u) ∧ OnlyCore c s.die u ∧ getCore u c = f (getCore s.die c) :=
  ⟨modCore s.die c f, onDie_onCoreReg f hup huse, onlyCore_modCore c s.die f, getCore_modCore s.die c f⟩

/-- A core not in use, or a die held in reset, takes no write of a core's register. -/
theorem exec_coreWrite_unused {t h : Bool} {v : BitVec 64} {w : BitVec 32} {r : BitVec 3} {i : Instr}
    (hi : i ∈ ([.coreSrSeedWrite c t v, .accCfgWrite c w, .abftCfgWrite c h t w, .coreRingWrite c r v] : List Instr))
    (hun : coreInUse s.die c = false ∨ inReset s.die = true) : exec i s = .next s := by
  have hstays : ∀ f : Die → Die, onDie (onDieReg c f) s = .next s := fun f => onDie_eq (onDieReg_unused f hun)
  simp only [List.mem_cons, List.not_mem_nil, or_false] at hi
  rcases hi with rfl | rfl | rfl | rfl <;> exact hstays _

end Rows

/-- Settles O52: each offset is decoded to the register it names, and what that register loads is read off its own lemma. -/
theorem registerWritesLoad : Obligations.RegisterWritesLoad := by
  unfold Obligations.RegisterWritesLoad
  intro s c t h v w r n off a
  refine ⟨?seed, ?acc, ?abftCfg, ?abftFloor, ?ring, ?port, ?unused, ?discarded, ?sameSeed, ?sameAcc, ?sameAbft, ?sameRing, ?samePort,
    ?sameTarget, ?sameWindow, ?ceilSteward, ?ceilKeyholder, ?thmHot, ?offer, ?dirBase, ?fatal, ?soft⟩
  case seed => exact fun hup huse => onCoreReg_loads (seedWrite t v) hup huse
  case acc =>
    intro hup huse
    obtain ⟨u, hrun, honly, hcore⟩ := onCoreReg_loads (accWrite w) hup huse
    refine ⟨u, hrun, honly, ?_⟩
    rw [hcore]
    exact accWrite_loads w _
  case abftCfg =>
    intro hup huse
    obtain ⟨u, hrun, honly, hcore⟩ := onCoreReg_loads (abftWrite h false w) hup huse
    refine ⟨u, hrun, honly, ?_⟩
    rw [hcore]
    exact abftWrite_loads_cfg h w _
  case abftFloor =>
    intro hup huse
    obtain ⟨u, hrun, honly, hcore⟩ := onCoreReg_loads (abftWrite h true w) hup huse
    refine ⟨u, hrun, honly, ?_⟩
    rw [hcore]
    exact abftWrite_loads_floor h w _
  case ring =>
    intro hup huse
    obtain ⟨honly, hkept, hload⟩ := writeRing_loads c r.toNat v s.die
    refine ⟨_, exec_coreRingWrite r v hup huse, honly, hkept, fun hidle => ?_⟩
    obtain ⟨hothers, hring⟩ := hload hidle
    exact ⟨hothers, ringLoad v, hring, bitB_ringLoad_en v, ringLoad_fields v⟩
  case port => exact fun hup => ⟨_, exec_meshPortWrite v hup, onlyCore_modCore _ _ _, getCore_modCore _ _ _⟩
  case unused => exact fun i hi hun => exec_coreWrite_unused hi hun
  case discarded => exact fun hno => exec_registerWrite (effRegister_discarded hno)
  case sameSeed => exact fun hup huse => (exec_registerWrite (effRegister_seed v hup huse t)).trans (onDie_onCoreReg _ hup huse).symm
  case sameAcc => exact fun hup huse => (exec_registerWrite (effRegister_accCfg v hup huse)).trans (onDie_onCoreReg _ hup huse).symm
  case sameAbft => exact fun hup huse => (exec_registerWrite (effRegister_abft v hup huse h t)).trans (onDie_onCoreReg _ hup huse).symm
  case sameRing => exact fun hup huse => (exec_registerWrite (effRegister_ring v hup huse r)).trans (exec_coreRingWrite r v hup huse).symm
  case samePort => exact fun hup _ => (exec_registerWrite (effRegister_port v hup c)).trans (exec_meshPortWrite v hup).symm
  case sameTarget => exact fun hup _ => (exec_registerWrite (effRegister_target v hup)).trans (exec_pwrOpTargetWrite _ hup).symm
  case sameWindow =>
    intro hup _
    refine (exec_registerWrite (effRegister_window v hup n)).trans ?_
    cases bitB v 31 <;> rfl
  case ceilSteward => exact fun hup => exec_registerWrite (effRegister_steward_ceil v hup)
  case ceilKeyholder =>
    intro op ceil hup hstep hlim
    refine ⟨_, exec_registerWrite (effRegister_keyholder_ceil v hup hstep), ?_, rfl⟩
    rw [ceilWrite_ceil _ hlim, fld_setWidth v (by decide)]
  case thmHot => exact fun hup => ⟨_, exec_registerWrite (effRegister_thmHot v hup), rfl, clampHot_toInt _⟩
  case offer => exact fun hup => exec_registerWrite (effRegister_offer v hup)
  case dirBase => exact fun hup => exec_registerWrite (effRegister_dirBase v hup)
  case fatal => exact fun hup => exec_registerWrite (effRegister_fatal v hup)
  case soft => exact fun hup => exec_registerWrite (effRegister_soft v hup)

end Sys2Proof.Machine
end


section
/-! PROOF. The canonical form of a die's three memories, what keeps it, and the writers of the memories (R5, R10). -/

namespace Sys2Proof.Machine

/-- The die's three memories are in canonical form. -/
abbrev Canonical (d : Die) : Prop := Memory.wf d.mem = true ∧ Memory.wf d.pkg = true ∧ Memory.wf d.flash = true

/-- So are those of the die an issue leads to, when it leads to one. -/
def MaybeCanonical (o : Option Die) : Prop := ∀ u, o = some u → Canonical u

/-! ### Choices and folds -/

protected theorem Canonical.ite {p : Prop} {_ : Decidable p} {a b : Die} (ha : Canonical a) (hb : Canonical b) :
    Canonical (if p then a else b) := by
  split
  exacts [ha, hb]

protected theorem Canonical.foldl {α : Type} {f : Die → α → Die} {l : List α} {d : Die} (h : Canonical d)
    (hf : ∀ e x, Canonical e → Canonical (f e x)) : Canonical (l.foldl f d) := by
  induction l generalizing d with
  | nil => exact h
  | cons x l ih => exact ih (hf d x h)

protected theorem MaybeCanonical.none : MaybeCanonical none := fun _ hu => by simp at hu

protected theorem MaybeCanonical.some {d : Die} (h : Canonical d) : MaybeCanonical (some d) := by
  rintro _ ⟨⟩
  exact h

protected theorem MaybeCanonical.ite {p : Prop} {_ : Decidable p} {a b : Option Die} (ha : MaybeCanonical a) (hb : MaybeCanonical b) :
    MaybeCanonical (if p then a else b) := by
  split
  exacts [ha, hb]

/-! ### The writers of the memories -/

section Writers

variable {d : Die} (h : Canonical d)
include h

protected theorem Canonical.memWrite {a l} : Canonical { d with mem := memWrite d.mem a l } := ⟨memWrite_wf a l h.1, h.2⟩

protected theorem Canonical.memClear {a n} : Canonical { d with mem := memClear d.mem a n } := ⟨memClear_wf a n h.1, h.2⟩

protected theorem Canonical.pkgWrite {a l} : Canonical { d with pkg := memWrite d.pkg a l } := ⟨h.1, memWrite_wf a l h.2.1, h.2.2⟩

protected theorem Canonical.pkgPutLE {a n v} : Canonical { d with pkg := memPutLE d.pkg a n v } := h.pkgWrite

protected theorem Canonical.pkgFill {a n f} : Canonical { d with pkg := memFill d.pkg a n f } := ⟨h.1, memFill_wf a n f h.2.1, h.2.2⟩

protected theorem Canonical.pkgClear {a n} : Canonical { d with pkg := memClear d.pkg a n } := ⟨h.1, memClear_wf a n h.2.1, h.2.2⟩

protected theorem Canonical.flashWrite {a l} : Canonical { d with flash := memWrite d.flash a l } := ⟨h.1, h.2.1, memWrite_wf a l h.2.2⟩

end Writers

end Sys2Proof.Machine
end


section
/-! PROOF. O58: the cores keep the memories canonical: words of the tile program, streams, tallies (R10). -/

namespace Sys2Proof.Machine

/-! ### Named operations -/

protected theorem Canonical.setCore {d c x} (h : Canonical d) : Canonical (setCore d c x) := h

protected theorem Canonical.modCore {d c f} (h : Canonical d) : Canonical (modCore d c f) := h.setCore

protected theorem Canonical.modThread {d c t f} (h : Canonical d) : Canonical (modThread d c t f) := h.modCore

protected theorem Canonical.drew {d} (h : Canonical d) : Canonical (drew d) := h

protected theorem Canonical.send {d o} (h : Canonical d) : Canonical (send d o) := h

protected theorem Canonical.sendPeer {d p m} (h : Canonical d) : Canonical (sendPeer d p m) := .ite h (.send h)

protected theorem Canonical.peerAnswered {p d} (h : Canonical d) : Canonical (peerAnswered p d) := by
  unfold peerAnswered
  dsimp only
  split
  exacts [h, .send h]


/-! ### Time, itineraries, core faults -/

protected theorem Canonical.passCores {d} (h : Canonical d) : Canonical (passCores d) := h

protected theorem Canonical.waitUntil {d t} (h : Canonical d) : Canonical (waitUntil d t) := .passCores h

protected theorem Canonical.modItin {d id f} (h : Canonical d) : Canonical (modItin d id f) := h

protected theorem Canonical.logFault {d e} (h : Canonical d) : Canonical (logFault d e) := by
  unfold logFault
  exact h

/-- The itinerary's home die notes the fault, or is told of it. -/
protected theorem Canonical.raiseFault {d c who code detail pc} (h : Canonical d) : Canonical (raiseFault d c who code detail pc) := by
  refine .drew (.foldl h.setCore fun _ _ h => ?_)
  split
  · exact .ite h.logFault.modItin h.logFault.sendPeer
  · exact h.logFault


/-! ### Dispatch, queues, issue -/

protected theorem Canonical.dispatch {c t op w58 body d} (hbody : ∀ d e, Canonical d → Canonical (body d e)) (h : Canonical d) :
    Canonical (dispatch c t op w58 body d) :=
  .ite h (.ite h.raiseFault (.ite h.raiseFault (.ite h (.ite h.modThread (.ite h.raiseFault (.ite h (hbody _ _ h)))))))

protected theorem Canonical.seqStep {c t f d} (h : Canonical d) : Canonical (seqStep c t f d) := h.modThread

protected theorem Canonical.charge {c t occ d} (h : Canonical d) : Canonical (charge c t occ d) := .ite h h.modThread

protected theorem Canonical.paced {occ f d c t e} (hf : ∀ d c t e, Canonical d → MaybeCanonical (f d c t e)) (h : Canonical d) :
    MaybeCanonical (paced occ f d c t e) := by
  refine .ite .none fun u hu => ?_
  obtain ⟨v, hv, rfl⟩ := Option.map_eq_some_iff.mp hu
  exact .charge (hf _ _ _ _ h v hv)

protected theorem Canonical.setDuty {v d} (h : Canonical d) : Canonical (setDuty v d) := h

protected theorem Canonical.issueHead {f c t q d} (hf : ∀ d c t e, Canonical d → MaybeCanonical (f d c t e)) (h : Canonical d) :
    Canonical (issueHead f c t q d) := by
  unfold issueHead
  split
  · exact h
  · split
    case h_1 u hu => exact hf _ _ _ _ h.modThread u hu
    case h_2 => exact h

protected theorem Canonical.enqueue {q c t prep f d e} (hf : ∀ d c t e, Canonical d → MaybeCanonical (f d c t e)) (h : Canonical d) :
    Canonical (enqueue q c t prep f d e) :=
  .ite h (.ite (h.modThread.issueHead hf) h.modThread)

protected theorem Canonical.entryFault {d c t e code detail} (h : Canonical d) : Canonical (entryFault d c t e code detail) := h.raiseFault

protected theorem Canonical.putStore {d c o l} (h : Canonical d) : Canonical (putStore d c o l) := h.memWrite

protected theorem Canonical.held : MaybeCanonical held := .none

protected theorem Canonical.faulted {d c t e code detail} (h : Canonical d) : MaybeCanonical (faulted d c t e code detail) :=
  .some h.entryFault


/-! ### Lodge rows, events -/

protected theorem Canonical.postEventTo {d dst kind seq ctx bytes} (h : Canonical d) : Canonical (postEventTo d dst kind seq ctx bytes) := h

protected theorem Canonical.postEvent {d kind bytes} (h : Canonical d) : Canonical (postEvent d kind bytes) := h.postEventTo

protected theorem Canonical.retireRow {d key ue} (h : Canonical d) : Canonical (retireRow d key ue) := by
  unfold retireRow
  dsimp only
  repeat' split
  exacts [h, h.postEvent, h]

protected theorem Canonical.noteCe {d key} (h : Canonical d) : Canonical (noteCe d key) := .ite (.retireRow h) h


/-! ### What leaves over the hub link -/

protected theorem Canonical.cons {d c issued returned} (h : Canonical d) : Canonical (cons d c issued returned) := h

protected theorem Canonical.putMod {d n m} (h : Canonical d) : Canonical (putMod d n m) := h

protected theorem Canonical.modMod {d n f} (h : Canonical d) : Canonical (modMod d n f) := h.putMod

protected theorem Canonical.sendNop {n d} (h : Canonical d) : Canonical (sendNop n d) := .ite h h.putMod.send

protected theorem Canonical.noteSent {d i} (h : Canonical d) : Canonical (noteSent d i) := by
  unfold noteSent
  dsimp only
  split
  exacts [h.send.cons.cons, h.send.cons]

protected theorem Canonical.pumpMod {n d} (h : Canonical d) : Canonical (pumpMod n d) :=
  .ite h (.foldl (h.putMod.foldl (fun _ _ h => h.noteSent)) (fun _ _ h => h.send))

protected theorem Canonical.emit {d n ch flits o} (h : Canonical d) : Canonical (emit d n ch flits o) := h.modMod.pumpMod

protected theorem Canonical.emitCtrl {d o} (h : Canonical d) : Canonical (emitCtrl d o) := h.emit

protected theorem Canonical.gateSend {d r} (h : Canonical d) : Canonical (gateSend d r) := by
  unfold gateSend
  dsimp only
  split
  exacts [h, .emit (.cons h)]

protected theorem Canonical.emitResponse {d gate addr o flits} (h : Canonical d) : Canonical (emitResponse d gate addr o flits) := h.emit


/-! ### Words of the sequencer -/

protected theorem Canonical.takeBranch {c t d e} (h : Canonical d) : Canonical (takeBranch c t d e) := .ite h.entryFault h.modThread

protected theorem Canonical.bodyBr {c t d e} (h : Canonical d) : Canonical (bodyBr c t d e) := h.takeBranch

protected theorem Canonical.bodyBrc {c t d e} (h : Canonical d) : Canonical (bodyBrc c t d e) := .ite h.takeBranch h.seqStep

protected theorem Canonical.bodyLoop {c t d e} (h : Canonical d) : Canonical (bodyLoop c t d e) :=
  .ite h.entryFault (.ite h.entryFault (.ite h.modThread (.ite h.entryFault (.ite h.entryFault h.seqStep))))

protected theorem Canonical.bodyWaitev {c t d e} (h : Canonical d) : Canonical (bodyWaitev c t d e) := .ite h.setCore h.modThread

protected theorem Canonical.effWaitevResume {c t d} (h : Canonical d) : Canonical (effWaitevResume c t d) := by
  unfold effWaitevResume
  dsimp only
  split
  exacts [.ite h.setCore h, h]

protected theorem Canonical.doHalt {c t exit d} (h : Canonical d) : Canonical (doHalt c t exit d) := by
  unfold doHalt
  dsimp only
  split
  exacts [h.setCore.drew, .ite h.setCore.drew.modItin h.setCore.drew.setCore.modItin.sendPeer]

protected theorem Canonical.effHalt {c t w d} (h : Canonical d) : Canonical (effHalt c t w d) := by
  unfold effHalt
  dsimp only
  split
  exacts [.ite h.doHalt h, h.dispatch (fun _ _ h => .ite h.doHalt h.modThread)]

protected theorem Canonical.bodyNop {c t d a} (h : Canonical d) : Canonical (bodyNop c t d a) := h.seqStep

protected theorem Canonical.bodySalu {c t d e} (h : Canonical d) : Canonical (bodySalu c t d e) := by
  unfold bodySalu
  dsimp only
  split
  exacts [h.seqStep, h.entryFault]

protected theorem Canonical.bodySli {c t d e} (h : Canonical d) : Canonical (bodySli c t d e) :=
  .ite (.ite h.entryFault h.seqStep) h.seqStep

protected theorem Canonical.bodyScmp {c t d e} (h : Canonical d) : Canonical (bodyScmp c t d e) := by
  unfold bodyScmp
  dsimp only
  split
  exacts [h.seqStep, h.seqStep, h.seqStep, h.entryFault]


/-! ### Ledger entries, rows and caches -/

protected theorem Canonical.putPkg128 {d a v} (h : Canonical d) : Canonical (putPkg128 d a v) := h.pkgPutLE

protected theorem Canonical.stewWrite {d a v} (h : Canonical d) : Canonical (stewWrite d a v) := h

protected theorem Canonical.freeLoc {d tier loc} (h : Canonical d) : Canonical (freeLoc d tier loc) := .ite (.cons h) h

protected theorem Canonical.markLost {d v a} (h : Canonical d) : Canonical (markLost d v a) := .postEventTo (.stewWrite (.ite h h.freeLoc))

protected theorem Canonical.loseBerths {d gone} (h : Canonical d) : Canonical (loseBerths d gone) :=
  h.foldl fun _ _ h => .ite h.markLost h

protected theorem Canonical.noteUe {d src key} (h : Canonical d) : Canonical (noteUe d src key) := .loseBerths (.ite h (.retireRow h))

protected theorem Canonical.senseRow {src d key} (h : Canonical d) : Canonical (senseRow src d key) := .ite h.noteUe (.ite h.noteCe h)

protected theorem Canonical.senseRows {src c off n d} (h : Canonical d) : Canonical (senseRows src c off n d) :=
  h.foldl fun _ _ h => h.senseRow

protected theorem Canonical.putSlice {src d c off l} (h : Canonical d) : Canonical (putSlice src d c off l) :=
  .memWrite (h.foldl (fun _ _ h => h.senseRow))

protected theorem Canonical.writeAge {d a age} (h : Canonical d) : Canonical (writeAge d a age) := .ite h.putPkg128 h

protected theorem Canonical.cacheFill {d q slot a} (h : Canonical d) : Canonical (cacheFill d q slot a) :=
  .foldl h fun _ _ h => h.writeAge

protected theorem Canonical.touchEntry {d q a} (h : Canonical d) : Canonical (touchEntry d q a) := h

protected theorem Canonical.countLookup {hit q d} (h : Canonical d) : Canonical (countLookup hit q d) := h

protected theorem Canonical.takeHold {d v} (h : Canonical d) : Canonical (takeHold d v) := h

protected theorem Canonical.dropWaybillHold {d c wb} (h : Canonical d) : Canonical (dropWaybillHold d c wb) := h

protected theorem Canonical.dropItinHolds {d id} (h : Canonical d) : Canonical (dropItinHolds d id) := h


/-! ### Array words -/

protected theorem Canonical.lodgeBody {q f c t prep d e} (hf : ∀ d c t e, Canonical d → MaybeCanonical (f d c t e)) (h : Canonical d) :
    Canonical (lodgeBody q f c t prep d e) :=
  .ite (.ite h h.entryFault) (h.enqueue hf)

protected theorem Canonical.lodgeUeFault {d c t e key} (h : Canonical d) : MaybeCanonical (lodgeUeFault d c t e key) := h.faulted

protected theorem Canonical.issueMma {d c t e} (h : Canonical d) : MaybeCanonical (issueMma d c t e) := by
  unfold issueMma
  dsimp only
  repeat' split
  exacts [h.faulted, Canonical.held, h.waitUntil.faulted, h.waitUntil.faulted, Canonical.held, Canonical.held,
    h.waitUntil.senseRows.lodgeUeFault, .some h.waitUntil.senseRows.setCore, h.waitUntil.faulted]

protected theorem Canonical.issueResload {d c t e} (h : Canonical d) : MaybeCanonical (issueResload d c t e) := by
  unfold issueResload
  dsimp only
  repeat' split
  exacts [h.faulted, h.waitUntil.faulted, h.waitUntil.faulted, Canonical.held, Canonical.held, h.waitUntil.senseRows.lodgeUeFault,
    .some h.waitUntil.senseRows.setCore, Canonical.held, Canonical.held, h.waitUntil.senseRows.lodgeUeFault,
    .some h.waitUntil.senseRows.setCore, h.waitUntil.faulted]

protected theorem Canonical.issuePreload {d c t e} (h : Canonical d) : MaybeCanonical (issuePreload d c t e) := by
  unfold issuePreload
  dsimp only
  split
  · exact h.faulted
  · split
    · exact Canonical.held
    · split
      · exact Canonical.held
      · split
        · exact h.waitUntil.faulted
        · exact h.waitUntil.faulted
        · exact .ite Canonical.held (.some h.waitUntil.setCore)
        · exact h.waitUntil.faulted

protected theorem Canonical.produceInto {d c n src due bytes} (h : Canonical d) : Canonical (produceInto d c n src due bytes) := by
  unfold produceInto
  dsimp only
  split
  · split
    · exact h
    · split
      · exact h.setCore
      · exact h.setCore.foldl fun _ _ h => h.send
  · exact h.setCore.putStore

protected theorem Canonical.storeRows {d c base pitch o} (h : Canonical d) : Canonical (storeRows d c base pitch o) :=
  .ite (h.foldl (fun _ _ h => h.putStore)) (.putStore (h.foldl (fun _ _ h => h.putStore)))

protected theorem Canonical.issueDrain {d c t e} (h : Canonical d) : MaybeCanonical (issueDrain d c t e) := by
  unfold issueDrain
  dsimp only
  split
  · exact h.faulted
  · split
    · exact Canonical.held
    · split
      · exact h.faulted
      · exact h.faulted
      · split
        · exact Canonical.held
        · split
          all_goals
            split
            · exact Canonical.held
            · split
              · exact Canonical.held
              · split
                · exact h.senseRows.lodgeUeFault
                · exact .some (.ite h.senseRows.setCore.drew.storeRows h.senseRows.setCore.drew.produceInto)

protected theorem Canonical.issueSwap {d c t e} (h : Canonical d) : MaybeCanonical (issueSwap d c t e) := by
  unfold issueSwap
  dsimp only
  split
  exacts [h.faulted, .ite Canonical.held (.ite h.waitUntil.faulted (.ite h.waitUntil.faulted (.some h.waitUntil.setCore)))]

protected theorem Canonical.issueAclr {d c t e} (h : Canonical d) : MaybeCanonical (issueAclr d c t e) := by
  unfold issueAclr
  dsimp only
  split
  exacts [h.faulted, .ite Canonical.held (.ite Canonical.held (.ite h.waitUntil.faulted (.some h.waitUntil.setCore)))]

protected theorem Canonical.doSplit {c leave lodgeHalf t1pc d0} (h : Canonical d0) : Canonical (doSplit c leave lodgeHalf t1pc d0) :=
  h.waitUntil.setCore.drew

protected theorem Canonical.effSplit {c t w d} (h : Canonical d) : Canonical (effSplit c t w d) := by
  unfold effSplit
  dsimp only
  split
  exacts [.ite h.doSplit h, h.dispatch (fun _ _ h => .ite h.entryFault (.ite h.doSplit h.modThread))]

protected theorem Canonical.pacedMma {d c t e} (h : Canonical d) : MaybeCanonical (pacedMma d c t e) :=
  h.paced fun _ _ _ _ h => h.issueMma

protected theorem Canonical.pacedResload {d c t e} (h : Canonical d) : MaybeCanonical (pacedResload d c t e) :=
  h.paced fun _ _ _ _ h => h.issueResload

protected theorem Canonical.pacedPreload {d c t e} (h : Canonical d) : MaybeCanonical (pacedPreload d c t e) :=
  h.paced fun _ _ _ _ h => h.issuePreload


/-! ### Reduction words -/

protected theorem Canonical.issueReduce {d c t e} (h : Canonical d) : MaybeCanonical (issueReduce d c t e) := by
  unfold issueReduce
  dsimp only
  split
  · exact h.faulted
  · split
    all_goals
      split
      all_goals
        split
        · exact Canonical.held
        · split
          · exact h.waitUntil.faulted
          · exact .ite Canonical.held (.some (.ite h.waitUntil.setCore.drew.produceInto h.waitUntil.setCore.drew))

protected theorem Canonical.issueMerge {d c t e} (h : Canonical d) : MaybeCanonical (issueMerge d c t e) := by
  unfold issueMerge
  dsimp only
  repeat' split
  exacts [Canonical.held, h.waitUntil.faulted, .some h.waitUntil.setCore.drew.putStore]

protected theorem Canonical.pacedMerge {d c t e} (h : Canonical d) : MaybeCanonical (pacedMerge d c t e) :=
  h.paced fun _ _ _ _ h => h.issueMerge

protected theorem Canonical.pumpChain {d c m} (h : Canonical d) : Canonical (pumpChain d c m) := by
  unfold pumpChain
  dsimp only
  split
  exacts [h.setCore, h.setCore.foldl (fun _ _ h => h.send)]

protected theorem Canonical.chainWrite {d c t e int l} (h : Canonical d) : Canonical (chainWrite d c t e int l) := by
  unfold chainWrite
  dsimp only
  repeat' split
  exacts [h.setCore, h.setCore.putStore, h.setCore.drew.storeRows, h]

protected theorem Canonical.chainCredits {m d} (h : Canonical d) : Canonical (chainCredits m d) := by
  unfold chainCredits
  split
  exacts [h.foldl (fun _ _ h => h.send), h]

protected theorem Canonical.chainAct {d c m} (h : Canonical d) : Canonical (chainAct d c m) := by
  unfold chainAct
  dsimp only
  split
  exacts [h, .ite h (.ite h.drew.chainCredits.setCore.chainWrite h.drew.chainCredits.setCore.pumpChain)]

protected theorem Canonical.startChainSlot {d c t e hs m} (h : Canonical d) : Canonical (startChainSlot d c t e hs m) :=
  h.setCore.drew.chainAct

protected theorem Canonical.startChainPart {d c t e m} (h : Canonical d) : Canonical (startChainPart d c t e m) := h.setCore.chainAct

protected theorem Canonical.issueChainPart {d c t e} (h : Canonical d) : MaybeCanonical (issueChainPart d c t e) := by
  unfold issueChainPart
  dsimp only
  split
  · exact Canonical.held
  · split
    · exact h.waitUntil.faulted
    · exact h.waitUntil.faulted
    · exact .ite Canonical.held (.some h.waitUntil.startChainPart)

protected theorem Canonical.issueChainred {d c t e} (h : Canonical d) : MaybeCanonical (issueChainred d c t e) := by
  unfold issueChainred
  dsimp only
  split
  · exact .ite h.faulted h.issueChainPart
  · split
    · split
      · exact Canonical.held
      · split
        · exact h.faulted
        · exact h.faulted
        · exact .ite Canonical.held (.some h.startChainSlot)
    · exact h.issueChainPart


/-! ### Vector words -/

protected theorem Canonical.issueVop {d c t e} (h : Canonical d) : MaybeCanonical (issueVop d c t e) := by
  unfold issueVop
  dsimp only
  split
  · exact h.faulted
  · split
    · exact .some h
    · split
      · exact h.faulted
      · split
        · exact h.faulted
        · exact .some h.setCore.putStore

protected theorem Canonical.issueVfn {d c t e} (h : Canonical d) : MaybeCanonical (issueVfn d c t e) := by
  unfold issueVfn
  dsimp only
  repeat' split
  exacts [h.faulted, .some h, h.faulted, h.faulted, .some h.setCore.drew.putStore]

protected theorem Canonical.issueVcvt {d c t e} (h : Canonical d) : MaybeCanonical (issueVcvt d c t e) := by
  unfold issueVcvt
  dsimp only
  repeat' split
  exacts [h.faulted, .some h, h.faulted, h.faulted, .some h.setCore.drew.putStore, h.faulted]

protected theorem Canonical.issueVred {d c t e} (h : Canonical d) : MaybeCanonical (issueVred d c t e) := by
  unfold issueVred
  dsimp only
  split
  · exact h.faulted
  · split
    · exact .some h.modThread
    · split
      · exact h.faulted
      · exact .some h.setCore

protected theorem Canonical.issueVperm {d c t e} (h : Canonical d) : MaybeCanonical (issueVperm d c t e) := by
  unfold issueVperm
  dsimp only
  split
  · exact h.faulted
  · split
    · exact .some h
    · split
      · exact h.faulted
      · split
        · exact h.faulted
        · split
          · exact h.faulted
          · split
            · exact h.faulted
            · exact .some h.setCore.putStore

protected theorem Canonical.effVectorDone {c t d} (h : Canonical d) : Canonical (effVectorDone c t d) := by
  unfold effVectorDone
  dsimp only
  split
  exacts [h, h.waitUntil.modThread]

protected theorem Canonical.pacedVop {d c t e} (h : Canonical d) : MaybeCanonical (pacedVop d c t e) :=
  h.paced fun _ _ _ _ h => h.issueVop

protected theorem Canonical.pacedVcvt {d c t e} (h : Canonical d) : MaybeCanonical (pacedVcvt d c t e) :=
  h.paced fun _ _ _ _ h => h.issueVcvt

protected theorem Canonical.pacedVfn {d c t e} (h : Canonical d) : MaybeCanonical (pacedVfn d c t e) :=
  h.paced fun _ _ _ _ h => h.issueVfn

protected theorem Canonical.pacedVred {d c t e} (h : Canonical d) : MaybeCanonical (pacedVred d c t e) :=
  h.paced fun _ _ _ _ h => h.issueVred

protected theorem Canonical.pacedVperm {d c t e} (h : Canonical d) : MaybeCanonical (pacedVperm d c t e) :=
  h.paced fun _ _ _ _ h => h.issueVperm


/-! ### Waybills, rings, caravans, relays, chains -/

protected theorem Canonical.putDie {d a l} (h : Canonical d) : Canonical (putDie d a l) := by
  unfold putDie
  split
  exacts [h.putSlice, h.putStore, h]

protected theorem Canonical.noteRefusal {d reason cls typ dest src party epoch} (h : Canonical d) :
    Canonical (noteRefusal d reason cls typ dest src party epoch) :=
  h

protected theorem Canonical.refuseAtPort {d reason cls typ dest src party epoch tag arg} (h : Canonical d) :
    Canonical (refuseAtPort d reason cls typ dest src party epoch tag arg) :=
  h.noteRefusal.send.cons

protected theorem Canonical.noteReqRefusal {d write src dst tag mask off} (h : Canonical d) :
    Canonical (noteReqRefusal d write src dst tag mask off) :=
  h.refuseAtPort

protected theorem Canonical.postStamp {d c t pc tile} (h : Canonical d) : Canonical (postStamp d c t pc tile) := by
  unfold postStamp
  split
  · exact h
  · split
    · exact h.sendPeer
    · exact .ite h.raiseFault (.ite h (.ite h.sendPeer h.modItin))

protected theorem Canonical.forwardTile {d c n} (h : Canonical d) : Canonical (forwardTile d c n).1 := by
  unfold forwardTile
  dsimp only
  split
  · exact h
  · split
    · split
      exacts [h, h.setCore.foldl fun _ _ h => h.send]
    · exact h

protected theorem Canonical.pumpCaravan {k d c n} (h : Canonical d) : Canonical (pumpCaravan k d c n) := by
  induction k generalizing d with
  | zero => exact h
  | succ k ih =>
    have h1 : Canonical (forwardTile d c n).1 := h.forwardTile
    unfold pumpCaravan
    split
    case h_1 hu => exact ih (by rwa [hu] at h1)
    case h_2 hu => rwa [hu] at h1

protected theorem Canonical.pumpLines {k d c} (h : Canonical d) : Canonical (pumpLines k d c) := by
  induction k generalizing d with
  | zero => exact h
  | succ k ih =>
    unfold pumpLines
    extract_lets
    split
    exacts [h, .ite h (ih (.ite h.setCore h.setCore.gateSend))]

protected theorem Canonical.settleFetched {c d} (h : Canonical d) : Canonical (settleFetched c d) := h.modCore

protected theorem Canonical.pumpIn {d c} (h : Canonical d) : Canonical (pumpIn d c) := h.pumpLines.settleFetched

protected theorem Canonical.wbFault {d c wb code detail} (h : Canonical d) : Canonical (wbFault d c wb code detail) := .ite h h.raiseFault

protected theorem Canonical.effTileRequest {c wb d} (h : Canonical d) : Canonical (effTileRequest c wb d) := by
  unfold effTileRequest
  dsimp only
  split
  · exact h
  · split
    · exact h.waitUntil.wbFault
    · split
      all_goals
        split
        · split
          · exact .wbFault (h.waitUntil.foldl (fun _ _ h => h.senseRows))
          · exact .pumpCaravan (.settleFetched (h.waitUntil.setCore.foldl (fun _ _ h => h.senseRows.putStore)))
        · exact .ite h.waitUntil h.waitUntil.setCore.pumpIn

protected theorem Canonical.noteLineRead {d l} (h : Canonical d) : Canonical (noteLineRead d l) := by
  unfold noteLineRead
  split
  exacts [h.senseRows, h]

protected theorem Canonical.fillLine {d c l status bytes ue} (h : Canonical d) : Canonical (fillLine d c l status bytes ue) := by
  unfold fillLine
  dsimp only
  split
  · exact h
  · split
    · exact h.setCore.putStore.pumpCaravan
    · split
      · exact h.wbFault
      · exact .ite h.wbFault h.wbFault

protected theorem Canonical.portWait {d onDie write off} (h : Canonical d) : Canonical (portWait d onDie write off) := by
  unfold portWait
  repeat' split
  exacts [h, h.waitUntil, h.waitUntil, h]

protected theorem Canonical.effLineFill {c n dn} (h : Canonical dn) : Canonical (effLineFill c n dn) := by
  unfold effLineFill
  dsimp only
  split
  · exact h
  · split
    · exact h
    · split
      · exact h.waitUntil.noteReqRefusal.cons.modCore.fillLine.pumpIn
      · exact .pumpIn (.fillLine (.modCore (.cons (.ite h.waitUntil.noteLineRead.portWait h.waitUntil))))

protected theorem Canonical.pumpWrites {k d c} (h : Canonical d) : Canonical (pumpWrites k d c) := by
  induction k generalizing d with
  | zero => exact h
  | succ k ih =>
    unfold pumpWrites
    extract_lets
    split
    exacts [h, .ite h (ih (.ite h.setCore h.setCore.gateSend))]

protected theorem Canonical.takeTile {d0 c n} (h : Canonical d0) : Canonical (takeTile d0 c n) := by
  unfold takeTile
  dsimp only
  split
  · exact h
  · split
    · exact h
    · split
      · exact h.waitUntil.wbFault
      · exact h.waitUntil.setCore.pumpWrites.settleFetched

protected theorem Canonical.pumpOut {k d c n} (h : Canonical d) : Canonical (pumpOut k d c n) := by
  induction k generalizing d with
  | zero => exact h
  | succ k ih => exact ih h.takeTile

protected theorem Canonical.settleOut {c wb d} (h : Canonical d) : Canonical (settleOut c wb d) :=
  .ite h (.ite (.dropWaybillHold (.ite (h.modCore.foldl (fun _ _ h => h.postStamp)) h.modCore)) (.ite (h.modCore.foldl (fun _ _ h =>
    h.postStamp)) h.modCore))

protected theorem Canonical.finishWrite {d c l status} (h : Canonical d) : Canonical (finishWrite d c l status) :=
  .ite (.settleOut (.ite h.setCore.putDie (.ite h.setCore.pkgWrite h.setCore))) (.ite h.setCore (.ite h.setCore.wbFault h.setCore.wbFault))

protected theorem Canonical.effWriteAck {c n d} (h : Canonical d) : Canonical (effWriteAck c n d) := by
  unfold effWriteAck
  dsimp only
  split
  · exact h
  · split
    · exact h
    · split
      · exact h
      · split
        · exact h.noteReqRefusal.cons.modCore.finishWrite.pumpWrites.settleFetched
        · exact .settleFetched (.pumpWrites (.finishWrite (.modCore (.cons (.ite h.portWait h)))))

protected theorem Canonical.deliverTile {d c k tile} (h : Canonical d) : Canonical (deliverTile d c k tile) :=
  .ite h (.ite (.dropWaybillHold (.ite h.modCore.postStamp h.modCore)) (.ite h.modCore.postStamp h.modCore))

protected theorem Canonical.effBufferFull {c ring d} (h : Canonical d) : Canonical (effBufferFull c ring d) := by
  unfold effBufferFull
  dsimp only
  split
  exacts [h, h.waitUntil.modCore.deliverTile.pumpCaravan.pumpOut]

protected theorem Canonical.effBufferRelease {c ring d} (h : Canonical d) : Canonical (effBufferRelease c ring d) := by
  unfold effBufferRelease
  dsimp only
  split
  · exact h
  · split
    · exact h
    · split
      · exact h.waitUntil.modCore.send
      · exact h.waitUntil.modCore

protected theorem Canonical.issueWbl {d c t e} (h : Canonical d) : MaybeCanonical (issueWbl d c t e) := by
  unfold issueWbl
  dsimp only
  split
  · exact h.faulted
  · split
    · exact h.faulted
    · exact .ite Canonical.held (.some h.setCore)

protected theorem Canonical.resolveBerth {d c n v a} (h : Canonical d) : Canonical (resolveBerth d c n v a) := by
  unfold resolveBerth
  dsimp only
  split
  · exact h
  · split
    · exact .ite h.wbFault h.drew.modCore.takeHold.touchEntry.pumpOut
    · exact .ite h.wbFault h.drew.modCore.takeHold.pumpOut

protected theorem Canonical.unitLookup {d c t pc v kind hit} (hhit : ∀ d e, Canonical d → Canonical (hit d e)) (h : Canonical d) :
    Canonical (unitLookup d c t pc v kind hit) := by
  unfold unitLookup
  dsimp only
  repeat' split
  exacts [hhit _ _ h, hhit _ _ h.countLookup, h, h]

protected theorem Canonical.runWaybill {d c t n pc} (h : Canonical d) : Canonical (runWaybill d c t n pc) := by
  unfold runWaybill
  dsimp only
  split
  exacts [h.modCore.pumpOut, h.modCore.unitLookup (fun _ _ h => h.resolveBerth), h.modCore.pumpOut, h.modCore]

protected theorem Canonical.issueWbgo {d c t e} (h : Canonical d) : MaybeCanonical (issueWbgo d c t e) := by
  unfold issueWbgo
  dsimp only
  repeat' split
  exacts [h.faulted, h.faulted, .some h.runWaybill]

protected theorem Canonical.issueWbnext {d c t e} (h : Canonical d) : MaybeCanonical (issueWbnext d c t e) :=
  .ite h.faulted (.some h.setCore)

protected theorem Canonical.effWbnextStart {c wb d} (h : Canonical d) : Canonical (effWbnextStart c wb d) := by
  unfold effWbnextStart
  dsimp only
  split
  · exact h
  · split
    · exact h.wbFault
    · exact .ite h.setCore h.setCore.runWaybill

protected theorem Canonical.bodyWbwait {c t d e} (h : Canonical d) : Canonical (bodyWbwait c t d e) :=
  .ite h.entryFault (.ite h.seqStep h.modThread)

protected theorem Canonical.effWbwaitResume {c t d} (h : Canonical d) : Canonical (effWbwaitResume c t d) := by
  unfold effWbwaitResume
  dsimp only
  split
  exacts [.ite h.modThread h, h]

protected theorem Canonical.issueCaravan {d c t e} (h : Canonical d) : MaybeCanonical (issueCaravan d c t e) := by
  unfold issueCaravan
  dsimp only
  split
  · exact .ite h.faulted h.faulted
  · split
    · exact h.faulted
    · split
      · exact h.faulted
      · split
        · exact h.faulted
        · split
          · exact Canonical.held
          · split
            · split
              · exact .some (.runWaybill (h.setCore.foldl (fun _ _ h => h.send)))
              · exact .some h.setCore.runWaybill
            · split
              · exact .some (.modCore (h.setCore.foldl (fun _ _ h => h.send)))
              · exact .some h.setCore.modCore

protected theorem Canonical.issueRelay {d c t e} (h : Canonical d) : MaybeCanonical (issueRelay d c t e) := by
  refine .ite h.faulted (.some (.foldl h.setCore fun _ _ h => ?_))
  split
  exacts [h.foldl fun _ _ h => h.send, h]

protected theorem Canonical.discardFlit {d c m} (h : Canonical d) : Canonical (discardFlit d c m) := h.modCore

protected theorem Canonical.atPort {d c m tile go} (hgo : ∀ d, Canonical d → Canonical (go d)) (h : Canonical d) :
    Canonical (atPort d c m tile go) := by
  unfold atPort
  split
  exacts [hgo _ h, h.discardFlit.refuseAtPort.drew]

protected theorem Canonical.effCaravanFlit {c ring tile count last data d} (h : Canonical d) :
    Canonical (effCaravanFlit c ring tile count last data d) := by
  unfold effCaravanFlit
  dsimp only
  split
  · exact h
  · split
    · split
      · exact h.atPort fun _ h => h
      · exact h.atPort fun _ h => .ite h.discardFlit.raiseFault h.setCore.putStore.pumpCaravan
    · exact h.atPort fun _ h => h.discardFlit

protected theorem Canonical.effHandoverFlit {c ring last data d} (h : Canonical d) : Canonical (effHandoverFlit c ring last data d) := by
  unfold effHandoverFlit
  dsimp only
  split
  · exact h
  · split
    · exact h.atPort fun _ h => h.discardFlit
    · split
      · exact h.atPort fun _ h => .ite h h
      · exact h.atPort fun _ h => .ite h h.setCore.putStore

protected theorem Canonical.effChainFlit {c id data d} (h : Canonical d) : Canonical (effChainFlit c id data d) := by
  unfold effChainFlit
  dsimp only
  split
  exacts [h, h.atPort (fun _ h => .ite h.discardFlit h.setCore.chainAct)]

protected theorem Canonical.effCreditArrival {c kind id ring d} (h : Canonical d) : Canonical (effCreditArrival c kind id ring d) := by
  unfold effCreditArrival
  dsimp only
  split
  · exact h
  · split
    · exact .ite h (.ite h.setCore.pumpChain h.setCore)
    · exact .ite h (.ite h.setCore.pumpCaravan h.setCore)

protected theorem Canonical.stallFault {d c t count code detail} (h : Canonical d) : Canonical (stallFault d c t count code detail) :=
  h.waitUntil.raiseFault

protected theorem Canonical.effCaravanStall {c ring d} (h : Canonical d) : Canonical (effCaravanStall c ring d) := by
  unfold effCaravanStall
  dsimp only
  split
  exacts [h, .ite h.stallFault h]

protected theorem Canonical.effRelayStall {c ring found die d} (h : Canonical d) : Canonical (effRelayStall c ring found die d) := by
  unfold effRelayStall
  dsimp only
  split
  exacts [h, .ite h.stallFault h]

protected theorem Canonical.effChainStall {c id d} (h : Canonical d) : Canonical (effChainStall c id d) := by
  unfold effChainStall
  dsimp only
  split
  exacts [h, .ite h h.stallFault]

protected theorem Canonical.stallTick {d} (h : Canonical d) : Canonical (stallTick d) := h

protected theorem Canonical.spoilWord {c w d} (h : Canonical d) : Canonical (spoilWord c w d) := .ite h.modCore h

protected theorem Canonical.spoilRow {ue key d} (h : Canonical d) : Canonical (spoilRow ue key d) := .ite h h

protected theorem Canonical.upsets {d} (h : Canonical d) : Canonical (upsets d) :=
  .drew (.ite (.spoilRow (.ite (.spoilWord h) h)) (.ite (.spoilWord h) h))

protected theorem Canonical.idle {d} (h : Canonical d) : Canonical (idle d) := h.waitUntil.stallTick.upsets

protected theorem Canonical.stopCore {d c t code detail} (h : Canonical d) : Canonical (stopCore d c t code detail) :=
  h.setCore.drew.foldl fun _ _ h => .ite h.dropWaybillHold h


/-! ### Tallies -/

protected theorem Canonical.releaseWaiters {d index} (h : Canonical d) : Canonical (releaseWaiters d index) := .cons h

protected theorem Canonical.tallyPerform {d r} (h : Canonical d) : Canonical (tallyPerform d r).1 := .releaseWaiters (.ite (.cons h) h)

protected theorem Canonical.cancelArm {d die endpoint thread armSeq} (h : Canonical d) :
    Canonical (cancelArm d die endpoint thread armSeq) :=
  .cons h

protected theorem Canonical.dropWaiters {gone d} (h : Canonical d) : Canonical (dropWaiters gone d) := .cons h

protected theorem Canonical.sendEntry {d col index e} (h : Canonical d) : Canonical (sendEntry d col index e) := .ite h.emitCtrl h.emit

protected theorem Canonical.takeWake {d c thread arm armSeq index} (h : Canonical d) :
    Canonical (takeWake d c thread arm armSeq index) := by
  unfold takeWake
  dsimp only
  split
  · exact .ite h.setCore h
  · split
    · exact .ite h.setCore h
    · exact h

protected theorem Canonical.takeReply {d c o count met} (h : Canonical d) : Canonical (takeReply d c o count met) := by
  unfold takeReply
  dsimp only
  split <;> exact h.cons.setCore

protected theorem Canonical.dropReq {d n} (h : Canonical d) : Canonical (dropReq d n) := h

protected theorem Canonical.headArrives {r d} (h : Canonical d) : Canonical (headArrives r d) := h

protected theorem Canonical.effTallyReq {n d} (h : Canonical d) : Canonical (effTallyReq n d) := by
  unfold effTallyReq
  dsimp only
  split
  exacts [h, .ite h h.dropReq.cons.headArrives.tallyPerform]

protected theorem Canonical.effTallyCancel {n d} (h : Canonical d) : Canonical (effTallyCancel n d) := by
  unfold effTallyCancel
  split
  exacts [h, .ite h h.dropReq.cons.headArrives.cancelArm]

protected theorem Canonical.effWakeSend {unit d} (h : Canonical d) : Canonical (effWakeSend unit d) := by
  unfold effWakeSend
  dsimp only
  split
  exacts [h, .ite h (.sendEntry h)]

protected theorem Canonical.deliverWake {d c party epoch thread arm armSeq index} (h : Canonical d) :
    Canonical (deliverWake d c party epoch thread arm armSeq index) := by
  unfold deliverWake
  dsimp only
  split
  exacts [h.takeWake, h.refuseAtPort]

protected theorem Canonical.effWakeDelivery {n d} (h : Canonical d) : Canonical (effWakeDelivery n d) := by
  unfold effWakeDelivery
  dsimp only
  split
  exacts [h, .ite h (.cons (.deliverWake h))]

protected theorem Canonical.effTallyReply {n d} (h : Canonical d) : Canonical (effTallyReply n d) := by
  unfold effTallyReply
  dsimp only
  repeat' split
  exacts [h, .cons h, .takeReply h]

protected theorem Canonical.takeEntry {d e} (h : Canonical d) : Canonical (takeEntry d e) := by
  unfold takeEntry
  dsimp only
  split
  · exact .ite h h.headArrives.tallyPerform.sendEntry
  · split
    · exact h.cons
    · exact h.drew.takeReply
  · exact h.deliverWake
  · exact h.cancelArm

protected theorem Canonical.sendTally {d die r} (h : Canonical d) : Canonical (sendTally d die r) := .ite h h.sendEntry

protected theorem Canonical.issueTally {d c t e} (h : Canonical d) : MaybeCanonical (issueTally d c t e) :=
  .ite h.faulted (.ite h.faulted (.some (.sendTally (.cons (.setCore (.ite h.sendTally h))))))

protected theorem Canonical.effTally {c t w d} (h : Canonical d) : Canonical (effTally c t w d) :=
  h.dispatch (fun _ _ h => .ite h.entryFault (h.enqueue (fun _ _ _ _ h => h.issueTally)))


/-! ### Copies, berth lookups, stamps, the end of array operations -/

protected theorem Canonical.bodyStream {c t d e} (h : Canonical d) : Canonical (bodyStream c t d e) := .ite h.entryFault h.seqStep

protected theorem Canonical.issueCopy {d c t e} (h : Canonical d) : MaybeCanonical (issueCopy d c t e) := by
  unfold issueCopy
  dsimp only
  repeat' split
  exacts [.some h, h.faulted, Canonical.held, h.senseRows.lodgeUeFault, .some h.setCore.senseRows.putStore]

protected theorem Canonical.issueLdgwr {d c t e} (h : Canonical d) : MaybeCanonical (issueLdgwr d c t e) := by
  unfold issueLdgwr
  dsimp only
  split
  · exact .some h
  · split
    · exact h.faulted
    · exact .ite Canonical.held (.some h.setCore.putSlice)

protected theorem Canonical.effLodgeCopyDone {c t d} (h : Canonical d) : Canonical (effLodgeCopyDone c t d) := by
  unfold effLodgeCopyDone
  split
  exacts [h, h.waitUntil.modThread]

protected theorem Canonical.answerLookup {d c t rd a} (h : Canonical d) : Canonical (answerLookup d c t rd a) := h.drew.modThread

protected theorem Canonical.issueLookup {d c t e} (h : Canonical d) : MaybeCanonical (issueLookup d c t e) :=
  .some (h.unitLookup (fun _ _ h => h.answerLookup))

protected theorem Canonical.issueTouch {d c t e} (h : Canonical d) : MaybeCanonical (issueTouch d c t e) := by
  refine .some (h.unitLookup fun _ _ h => ?_)
  split
  exacts [h.touchEntry, h]

protected theorem Canonical.issueStamp {d c t e} (h : Canonical d) : MaybeCanonical (issueStamp d c t e) :=
  .ite Canonical.held (.some h.setCore.postStamp)

protected theorem Canonical.effStampPost {c t d} (h : Canonical d) : Canonical (effStampPost c t d) := by
  unfold effStampPost
  split
  exacts [.ite (h.issueHead (fun _ _ _ _ h => h.issueStamp)) h, h]

protected theorem Canonical.bodyFault {c t d e} (h : Canonical d) : Canonical (bodyFault c t d e) := h.entryFault

protected theorem Canonical.bodyStatus {c t d e} (h : Canonical d) : Canonical (bodyStatus c t d e) := by
  unfold bodyStatus
  dsimp only
  split
  exacts [h.entryFault, h.seqStep]

protected theorem Canonical.issueAny {d c t e} (h : Canonical d) : MaybeCanonical (issueAny d c t e) := by
  unfold issueAny
  split
  exacts [h.issueWbl, h.issueWbgo, h.issueWbnext, h.issueCaravan, h.issueRelay, h.pacedMma, h.pacedResload, h.pacedPreload, h.issueDrain,
    h.issueSwap, h.issueAclr, h.issueReduce, h.issueChainred, h.pacedMerge, h.pacedVop, h.pacedVcvt, h.pacedVfn, h.pacedVred, h.pacedVperm,
    h.issueCopy, h.issueLdgwr, .ite h.issueLookup h.issueTouch, h.issueTally, h.issueStamp]

protected theorem Canonical.rejectWord {c t d} (h : Canonical d) : Canonical (rejectWord c t d) :=
  .ite h (.ite h.raiseFault (h.dispatch (fun _ _ h => h.entryFault)))

protected theorem Canonical.effQueueIssue {c t q d} (h : Canonical d) : Canonical (effQueueIssue c t q d) :=
  .ite h.rejectWord (.ite h (h.issueHead (fun _ _ _ _ h => h.issueAny)))

protected theorem Canonical.effSlotComplete {c n d} (h : Canonical d) : Canonical (effSlotComplete c n d) := by
  unfold effSlotComplete
  split
  exacts [h, .ite h h.waitUntil.modCore]

protected theorem Canonical.effVerdict {c n d} (h : Canonical d) : Canonical (effVerdict c n d) := by
  unfold effVerdict
  dsimp only
  split
  exacts [h, .ite h (.ite h.waitUntil.setCore h.waitUntil.setCore.raiseFault)]

protected theorem Canonical.releaseStamps {d c t src} (h : Canonical d) : Canonical (releaseStamps d c t src) :=
  h.modCore.foldl fun _ _ h => h.postStamp

protected theorem Canonical.effDelivery {c n d} (h : Canonical d) : Canonical (effDelivery c n d) := by
  unfold effDelivery
  dsimp only
  split
  · exact h
  · split
    · exact h
    · split
      · split
        · exact h.waitUntil.setCore.modItin.releaseStamps
        · exact h.waitUntil.setCore.releaseStamps
      · split
        · exact h.waitUntil.setCore.modItin
        · exact h.waitUntil.setCore

protected theorem Canonical.effArrayCold {c v d} (h : Canonical d) : Canonical (effArrayCold c v d) := .ite h h.waitUntil

protected theorem Canonical.effLdgrd {c t w d} (h : Canonical d) : Canonical (effLdgrd c t w d) := by
  unfold effLdgrd
  split
  exacts [h.dispatch fun _ _ h => h.enqueue fun _ _ _ _ h => h.issueCopy, h.dispatch fun _ _ h => h.bodyStream]

protected theorem Canonical.effBerth {c t w d} (h : Canonical d) : Canonical (effBerth c t w d) := by
  unfold effBerth
  repeat' split
  exacts [h.dispatch fun _ _ h => h.enqueue fun _ _ _ _ h => h.issueLookup, h.dispatch fun _ _ h => h.enqueue fun _ _ _ _ h => h.issueTouch,
    h.dispatch fun _ _ h => h.entryFault]

end Sys2Proof.Machine
end


section
/-! PROOF. O58: the Steward's services keep the memories canonical: pigeonholes, the Lodge and the Ledger, requests from outside, messages (R10). -/

namespace Sys2Proof.Machine

/-! ### Pigeonholes, responses, events -/

protected theorem Canonical.setOwn {d n v} (h : Canonical d) : Canonical (setOwn d n v) := h

protected theorem Canonical.releasePh {n quiet d} (h : Canonical d) : Canonical (releasePh n quiet d) := .ite h.setOwn.emitCtrl h.setOwn

protected theorem Canonical.writePh {d n l} (h : Canonical d) : Canonical (writePh d n l) := h.memWrite

protected theorem Canonical.respond {d m status detail ctx payload} (h : Canonical d) :
    Canonical (respond d m status detail ctx payload) := by
  unfold respond
  dsimp only
  split
  exacts [h.send.setOwn, h]

protected theorem Canonical.dropReqAt {d n} (h : Canonical d) : Canonical (dropReqAt d n) := h

protected theorem Canonical.answerUnknown {k d} (h : Canonical d) : Canonical (answerUnknown k d) := by
  induction k generalizing d with
  | zero => exact h
  | succ k ih =>
    unfold answerUnknown
    split
    · exact h
    · split
      exacts [ih h.dropReqAt.respond, h]

protected theorem Canonical.answerAs {d n m status detail ctx payload} (h : Canonical d) :
    Canonical (answerAs d n m status detail ctx payload) :=
  h.dropReqAt.respond.answerUnknown

protected theorem Canonical.answer {d n m status detail payload} (h : Canonical d) : Canonical (answer d n m status detail payload) :=
  h.answerAs

protected theorem Canonical.putEvent {d n e} (h : Canonical d) : Canonical (putEvent d n e) := h.writePh.releasePh

protected theorem Canonical.coalesce {d e} (h : Canonical d) : Canonical (coalesce d e) := by
  unfold coalesce
  dsimp only
  split
  exacts [h, h]

protected theorem Canonical.postNow {d e} (h : Canonical d) : Canonical (postNow d e) := by
  unfold postNow
  split
  exacts [.ite h.coalesce h.putEvent, h.coalesce]

protected theorem Canonical.postPending {d} (h : Canonical d) : Canonical (postPending d) := by
  unfold postPending
  dsimp only
  split
  exacts [h, .ite h (.putEvent h)]


/-! ### The configuration flash -/

protected theorem Canonical.writeSection {d s l origin} (h : Canonical d) : Canonical (writeSection d s l origin) :=
  have h1 := memWrite_wf (0x10 + 16 * s) _ (memWrite_wf (secOff s) l h.2.2)
  .ite ⟨h.1, h.2.1, h1⟩ ⟨h.1, h.2.1, h1⟩

protected theorem Canonical.appendLdg {d e} (h : Canonical d) : Canonical (appendLdg d e) := .ite h.writeSection h


/-! ### Lodge slots and soft repair -/

protected theorem Canonical.settleFree {k d} (h : Canonical d) : Canonical (settleFree k d) := h

protected theorem Canonical.mapRow {d key spare} (h : Canonical d) : Canonical (mapRow d key spare) := h

protected theorem Canonical.nextSlot {bank n d} (h : Canonical d) : Canonical (nextSlot bank n d) := h

protected theorem Canonical.effRefreshSlot {c bank d} (h : Canonical d) : Canonical (effRefreshSlot c bank d) := .ite h (.nextSlot h)

protected theorem Canonical.effScrubSlot {c bank d} (h : Canonical d) : Canonical (effScrubSlot c bank d) := by
  unfold effScrubSlot
  dsimp only
  split
  · exact h
  · split
    · exact .nextSlot h
    · exact .ite (.noteUe (.nextSlot h)) (.ite (.noteCe h) (.nextSlot h))

protected theorem Canonical.logRepair {d key spare ue} (h : Canonical d) : Canonical (logRepair d key spare ue) :=
  .settleFree (.appendLdg h)

protected theorem Canonical.retireTo {d key spare ue} (h : Canonical d) : Canonical (retireTo d key spare ue) := .logRepair h

protected theorem Canonical.effRetire {c bank d} (h : Canonical d) : Canonical (effRetire c bank d) := by
  unfold effRetire
  extract_lets
  split
  · exact h
  · refine .ite h ?_
    extract_lets d1
    have h1 : Canonical d1 := h
    split
    · exact h1.postEvent
    · extract_lets d2
      have h2 : Canonical d2 := h1.retireTo
      exact .nextSlot (by simpa only [Canonical] using h2)


/-! ### Commits, moves, recovery, demotion -/

protected theorem Canonical.takePlace {d tier loc} (h : Canonical d) : Canonical (takePlace d tier loc) := .cons h

protected theorem Canonical.writeBerth {d tier loc l} (h : Canonical d) : Canonical (writeBerth d tier loc l) := by
  unfold writeBerth
  dsimp only
  split
  exacts [.ite h.putSlice h.pkgWrite, h.pkgWrite, h.pkgFill.drew, h]

protected theorem Canonical.senseBerth {tier loc d} (h : Canonical d) : Canonical (senseBerth tier loc d) := .ite h.senseRows h

protected theorem Canonical.putMove {d m m'} (h : Canonical d) : Canonical (putMove d m m') := h

protected theorem Canonical.finishJob {d j} (h : Canonical d) : Canonical (finishJob d j) := by
  unfold finishJob
  dsimp only
  split
  · exact .ite (.putPkg128 h) h
  · split
    · exact .answer (.ite (.putPkg128 h) h)
    · exact .ite (.putPkg128 h) h

protected theorem Canonical.noteOutcome {d v status} (h : Canonical d) : Canonical (noteOutcome d v status) := by
  unfold noteOutcome
  dsimp only
  split
  exacts [h, .ite h (.ite (.finishJob h) h)]

protected theorem Canonical.endMove {d m status} (h : Canonical d) : Canonical (endMove d m status) :=
  .ite (.noteOutcome (.ite (.freeLoc h) h)) (.ite (.freeLoc h) h)

protected theorem Canonical.revertMove {d m} (h : Canonical d) : Canonical (revertMove d m) := .ite h.endMove h.stewWrite.endMove

protected theorem Canonical.loseMove {d m} (h : Canonical d) : Canonical (loseMove d m) := .endMove (.ite h h.markLost)

protected theorem Canonical.noteSwitched {a d} (h : Canonical d) : Canonical (noteSwitched a d) := by
  unfold noteSwitched
  dsimp only
  split
  · exact h
  · split
    · exact h
    · exact .ite h.putMove.noteOutcome h.putMove

protected theorem Canonical.effCommit {n d} (h : Canonical d) : Canonical (effCommit n d) := by
  unfold effCommit
  dsimp only
  split
  exacts [h, .ite h (.noteSwitched (.putPkg128 h))]

protected theorem Canonical.imbalance {d cause arg} (h : Canonical d) : Canonical (imbalance d cause arg) := h.logFault.postEvent

protected theorem Canonical.fillAlone {d w status} (h : Canonical d) : Canonical (fillAlone d w status) := by
  unfold fillAlone
  dsimp only
  split
  · exact h
  · split
    · exact .ite h.cacheFill.touchEntry h.cacheFill
    · exact h.cacheFill

protected theorem Canonical.effCacheFill {n status d} (h : Canonical d) : Canonical (effCacheFill n status d) := by
  unfold effCacheFill
  dsimp only
  split
  · exact h
  · split
    · exact .refuseAtPort (.drew (.fillAlone (.ite (.imbalance h) h)))
    · exact .fillAlone (.ite (.imbalance h) h)
    · split
      · split
        · exact .raiseFault (.setCore (.ite (.imbalance h) h))
        · exact .wbFault (.setCore (.ite (.imbalance h) h))
        · exact .setCore (.ite (.imbalance h) h)
      · split
        · exact .answerLookup (.cacheFill (.setCore (.ite (.imbalance h) h)))
        · exact .resolveBerth (.cacheFill (.setCore (.ite (.imbalance h) h)))
        · split
          · exact .touchEntry (.cacheFill (.setCore (.ite (.imbalance h) h)))
          · exact .cacheFill (.setCore (.ite (.imbalance h) h))

protected theorem Canonical.phaseWrite {d m} (h : Canonical d) : Canonical (phaseWrite d m) := .ite h h.putMove.stewWrite

protected theorem Canonical.placeRewrite {d m} (h : Canonical d) : Canonical (placeRewrite d m) := by
  unfold placeRewrite
  dsimp only
  repeat' split
  exacts [h.drew.putMove.takePlace.phaseWrite, h.drew.putMove.takePlace.phaseWrite, h.drew.endMove.postEventTo]

protected theorem Canonical.effPhaseWrite {n d} (h : Canonical d) : Canonical (effPhaseWrite n d) := by
  unfold effPhaseWrite
  dsimp only
  repeat' split
  exacts [h, h, h, h.endMove, h.phaseWrite, h.placeRewrite, h.drew.endMove, h.drew.putMove.takePlace.phaseWrite]

protected theorem Canonical.spendBin {d tier loc} (h : Canonical d) : Canonical (spendBin d tier loc) := .ite h h

protected theorem Canonical.effCopyDone {n readOk writeOk d} (h : Canonical d) : Canonical (effCopyDone n readOk writeOk d) := by
  unfold effCopyDone
  dsimp only
  split
  exacts [h, .ite h (.ite h.senseBerth.loseMove (.ite h.senseBerth.revertMove h.senseBerth.putMove.writeBerth.spendBin))]

protected theorem Canonical.effVerify {n hubCrc d} (h : Canonical d) : Canonical (effVerify n hubCrc d) := by
  unfold effVerify
  dsimp only
  split
  exacts [h,
    .ite h (.ite h.senseBerth.senseBerth.loseMove (.ite h.senseBerth.senseBerth.putMove
      (.ite h.senseBerth.senseBerth.revertMove h.senseBerth.senseBerth.putMove)))]

protected theorem Canonical.effSwitch {n d} (h : Canonical d) : Canonical (effSwitch n d) := by
  unfold effSwitch
  dsimp only
  split
  exacts [h, .ite h (.ite h.endMove h.putMove.stewWrite)]

protected theorem Canonical.effRelease {n d} (h : Canonical d) : Canonical (effRelease n d) := by
  unfold effRelease
  dsimp only
  split
  exacts [h, .ite h (.stewWrite (.freeLoc h))]

protected theorem Canonical.lossEvent {d v e} (h : Canonical d) : Canonical (lossEvent d v e) := h.postEventTo

protected theorem Canonical.recoverEntry {d p} (h : Canonical d) : Canonical (recoverEntry d p) :=
  .ite h.putPkg128.imbalance (.ite h.putPkg128.lossEvent (.ite (.lossEvent (.ite h.putPkg128 (.ite h.putPkg128 h))) (.ite h.putPkg128 (.ite
    h.putPkg128 h))))

protected theorem Canonical.recoverCtx {d p} (h : Canonical d) : Canonical (recoverCtx d p) := .ite h h.putPkg128.postEventTo

protected theorem Canonical.setCons {d c issued returned} (h : Canonical d) : Canonical (setCons d c issued returned) := h

protected theorem Canonical.zeroCons {d c} (h : Canonical d) : Canonical (zeroCons d c) := h

protected theorem Canonical.tellLoss {d} (h : Canonical d) : Canonical (tellLoss d) := h.foldl fun _ _ h => h.sendPeer

protected theorem Canonical.effRecovery {d} (h : Canonical d) : Canonical (effRecovery d) :=
  .ite h (.setCons (.setCons (.foldl (.foldl (.ite h.tellLoss h) (fun _ _ h => h.recoverEntry)) (fun _ _ h => h.recoverCtx))))

protected theorem Canonical.effLost {d0} (h : Canonical d0) : Canonical (effLost d0) :=
  .ite h (.postEvent (.zeroCons (.zeroCons (.ite h.tellLoss h))))

protected theorem Canonical.addMove {d m} (h : Canonical d) : Canonical (addMove d m) := h

protected theorem Canonical.effDemotion {d} (h : Canonical d) : Canonical (effDemotion d) :=
  .foldl (h.foldl (fun _ _ h => h.addMove)) fun _ _ h => h.addMove

protected theorem Canonical.effRewrite {handle d} (h : Canonical d) : Canonical (effRewrite handle d) := by
  unfold effRewrite
  dsimp only
  split
  exacts [h, .ite h (.ite h h.addMove)]

protected theorem Canonical.effEpoch {d} (h : Canonical d) : Canonical (effEpoch d) := .ite h (h.foldl (fun _ _ h => h.writeAge))

protected theorem Canonical.effSweep {d} (h : Canonical d) : Canonical (effSweep d) := .ite h (.foldl h (fun _ _ h => .ite h.writeAge h))


/-! ### Resets of a core and of the die, fatal faults -/

protected theorem Canonical.coreReset {d c} (h : Canonical d) : Canonical (coreReset d c) := .dropWaiters h.modCore.memClear

protected theorem Canonical.sbSend {d cmd arg data} (h : Canonical d) : Canonical (sbSend d cmd arg data) := .send h

protected theorem Canonical.sbAnswer {d cmd} (h : Canonical d) : Canonical (sbAnswer d cmd) := h.send

protected theorem Canonical.alert {d cause} (h : Canonical d) : Canonical (alert d cause) := h

protected theorem Canonical.landWrite {d l} (h : Canonical d) : Canonical (landWrite d l) := .ite h.putDie (.ite h.pkgWrite h)

protected theorem Canonical.landOpen {d} (h : Canonical d) : Canonical (landOpen d) :=
  .drew (.foldl (h.foldl (fun _ _ h => .ite h.putPkg128 h)) (fun _ _ h => .ite h.landWrite h))

protected theorem Canonical.cutWord {d} (h : Canonical d) : Canonical (cutWord d) := by
  unfold cutWord
  dsimp only
  repeat' split
  exacts [h, h, .drew h]

protected theorem Canonical.cutEvent {d} (h : Canonical d) : Canonical (cutEvent d) := .ite (.drew (.ite h.cutWord h)) h

/-- A warm reset clears die-local memory from the core stores on, any other empties it; package memory and the flash stay as the writes
under way left them (R21, R197). -/
protected theorem Canonical.dieReset {k d} (h : Canonical d) : Canonical (dieReset k d) := by
  obtain ⟨hmem, hpkg, hflash⟩ : Canonical (cutEvent (landOpen d)) := h.landOpen.cutEvent
  unfold dieReset
  dsimp only [Canonical]
  refine ⟨?_, hpkg, hflash⟩
  split
  exacts [memClear_wf _ _ hmem, rfl]

protected theorem Canonical.startBoot {kind d} (h : Canonical d) : Canonical (startBoot kind d) := h

protected theorem Canonical.noteFatal {cause d} (h : Canonical d) : Canonical (noteFatal cause d) := h

protected theorem Canonical.fatalWarm {cause d} (h : Canonical d) : Canonical (fatalWarm cause d) := h.noteFatal.alert.dieReset.startBoot

protected theorem Canonical.holdClock {d} (h : Canonical d) : Canonical (holdClock d) := by
  simpa only [holdClock, Canonical] using h.dieReset (k := .clock)

protected theorem Canonical.fatalClock {d} (h : Canonical d) : Canonical (fatalClock d) := h.noteFatal.alert.holdClock

protected theorem Canonical.fatalTrip {d} (h : Canonical d) : Canonical (fatalTrip d) := by
  simpa only [fatalTrip, Canonical] using Canonical.dieReset (k := .warm) (h.noteFatal (cause := dfThermtrip)).alert

protected theorem Canonical.fatalPackage {d} (h : Canonical d) : Canonical (fatalPackage d) := by
  simpa only [fatalPackage, Canonical] using Canonical.dieReset (k := .clock) (h.noteFatal (cause := dfLinkLost)).alert

protected theorem Canonical.raiseFatal {cause d} (h : Canonical d) : Canonical (raiseFatal cause d) :=
  .ite h (.ite h.fatalClock (.ite h.fatalTrip (.ite h.fatalPackage (.ite h.fatalWarm h))))


/-! ### Pigeonholes handed over and back -/

protected theorem Canonical.refuse {src reason write addr d} (h : Canonical d) : Canonical (refuse src reason write addr d) := h

protected theorem Canonical.ignoreGive {d} (h : Canonical d) : Canonical (ignoreGive d) := h

protected theorem Canonical.giveOne {d n} (h : Canonical d) : Canonical (giveOne d n) := by
  unfold giveOne
  dsimp only
  repeat' split
  exacts [h.ignoreGive, h, h.setOwn]

protected theorem Canonical.stewardTurn {d} (h : Canonical d) : Canonical (stewardTurn d) := .ite h.answerUnknown.postPending h

protected theorem Canonical.giveBits {v d} (h : Canonical d) : Canonical (giveBits v d) := .stewardTurn (h.foldl (fun _ _ h => h.giveOne))

protected theorem Canonical.effPhGive {src v d} (h : Canonical d) : Canonical (effPhGive src v d) := by
  unfold effPhGive
  repeat' split
  exacts [h, h.giveBits, h.refuse]

protected theorem Canonical.markFreed {d n} (h : Canonical d) : Canonical (markFreed d n) := h

protected theorem Canonical.effPhRelease {v d} (h : Canonical d) : Canonical (effPhRelease v d) :=
  .ite h (h.foldl (fun _ _ h => .ite h.releasePh.markFreed h))

protected theorem Canonical.effResponsePost {n d} (h : Canonical d) : Canonical (effResponsePost n d) := by
  unfold effResponsePost
  dsimp only
  split
  · exact h
  · split
    · exact h
    · split
      · exact h
      · exact .postPending (.ite h.writePh.releasePh (.setOwn h.writePh.releasePh))

protected theorem Canonical.effEventPost {d} (h : Canonical d) : Canonical (effEventPost d) := by
  unfold effEventPost
  dsimp only
  repeat' split
  exacts [h, .postNow h, .postNow h, h.postPending]


/-! ### Requests from outside, responses, mesh packets -/

protected theorem Canonical.portRefusal {d r write c} (h : Canonical d) : Canonical (portRefusal d r write c) := h.refuseAtPort.drew

protected theorem Canonical.outsideRead {d r} (h : Canonical d) : Canonical (outsideRead d r).2.2 := by
  unfold outsideRead
  split
  · exact h.refuse
  · exact h.portRefusal
  · split
    · dsimp only
      split <;> exact h.foldl fun _ _ h => h.senseRows
    · exact h

protected theorem Canonical.pigeonWrite {d o l n} (h : Canonical d) : Canonical (pigeonWrite d o l n) := .ite h h.memWrite

protected theorem Canonical.hubPut {d o l} (h : Canonical d) : Canonical (hubPut d o l) := by
  unfold hubPut
  split
  exacts [h.putSlice, h.putStore, h.pigeonWrite, h.giveBits, h]

protected theorem Canonical.outsideWrite {d r byte} (h : Canonical d) : Canonical (outsideWrite d r byte).2 := by
  unfold outsideWrite
  dsimp only
  repeat' split
  exacts [h.refuse, h.portRefusal, h.refuse, h.foldl (fun _ _ h => h.hubPut)]

protected theorem Canonical.admitForeign {d r write v} (h : Canonical d) : Canonical (admitForeign d r write v) := by
  unfold admitForeign
  dsimp only
  split
  exacts [h, h]

protected theorem Canonical.served {d} (h : Canonical d) : Canonical (served d) := h.cons.cons

protected theorem Canonical.effHubRead {r d} (h : Canonical d) : Canonical (effHubRead r d) := by
  unfold effHubRead
  exact .ite h (.drew (.emitResponse (.served (.outsideRead h.admitForeign))))

protected theorem Canonical.effHubWrite {r data d} (h : Canonical d) : Canonical (effHubWrite r data d) := by
  unfold effHubWrite
  extract_lets
  refine .ite h ?_
  split
  next st d1 hu =>
  have h1 : Canonical d1 := (congrArg (fun p => Canonical p.2) hu).mp (.outsideWrite h.admitForeign)
  exact .emitResponse (.served h1)

protected theorem Canonical.freeHubTag {d t} (h : Canonical d) : Canonical (freeHubTag d t) := by
  unfold freeHubTag
  dsimp only
  split
  exacts [.cons h, .gateSend h]

protected theorem Canonical.routeRsp {d who st data} (h : Canonical d) : Canonical (routeRsp d who st data) := by
  unfold routeRsp
  split <;> exact h.modCore

protected theorem Canonical.effRsp {write gate tag st data d} (h : Canonical d) : Canonical (effRsp write gate tag st data d) := by
  unfold effRsp
  split
  exacts [h, h.freeHubTag.routeRsp]

protected theorem Canonical.refusePacket {d c p reason} (h : Canonical d) : Canonical (refusePacket d c p reason) := by
  unfold refusePacket
  dsimp only
  repeat' split
  exacts [h.refuseAtPort.discardFlit, h.refuseAtPort, h.refuseAtPort]

protected theorem Canonical.serveReq {d p} (h : Canonical d) : Canonical (serveReq d p) := by
  have hr : Canonical (outsideRead d (reqAsk d p)).2.2 := h.outsideRead
  have hw {b} : Canonical (outsideWrite d (reqAsk d p) b).2 := h.outsideWrite
  unfold serveReq
  split
  · dsimp only
    split
    exacts [.drew (.cons (.send hr)), .drew (.cons (.send hr))]
  · dsimp only
    split
    exacts [.drew (.cons (.send hw)), .drew (.cons (.send hw))]
  · exact h

protected theorem Canonical.takeRspAs {line write c p d} (h : Canonical d) : Canonical (takeRspAs line write c p d) := h.modCore

protected theorem Canonical.takeRsp {c p d} (h : Canonical d) : Canonical (takeRsp c p d) := by
  unfold takeRsp
  dsimp only
  split
  exacts [h.takeRspAs, h.takeRspAs, h.takeRspAs, h]

protected theorem Canonical.takeLedgerRsp {c p d} (h : Canonical d) : Canonical (takeLedgerRsp c p d) := by
  unfold takeLedgerRsp
  dsimp only
  repeat' split
  exacts [h, .modThread h, h]

protected theorem Canonical.deliverWakePacket {d c p} (h : Canonical d) : Canonical (deliverWakePacket d c p) := by
  unfold deliverWakePacket
  dsimp only
  split
  exacts [.deliverWake h, h.deliverWake]

protected theorem Canonical.dropLookup {c tag d} (h : Canonical d) : Canonical (dropLookup c tag d) := h

protected theorem Canonical.effNack {p d} (h : Canonical d) : Canonical (effNack p d) := .ite h.takeRspAs (.ite h (.ite h.dropLookup h))

protected theorem Canonical.deliverPacket {d c p} (h : Canonical d) : Canonical (deliverPacket d c p) := by
  unfold deliverPacket
  split
  exacts [h.serveReq, h.takeRsp, h.deliverWakePacket, h.takeLedgerRsp, h.effNack, h]

protected theorem Canonical.tallyPacket {d p} (h : Canonical d) : Canonical (tallyPacket d p) := by
  unfold tallyPacket
  dsimp only
  split
  exacts [.ite h.effTallyCancel h.effTallyReq, h]

protected theorem Canonical.ledgerPacket {q p d} (h : Canonical d) : Canonical (ledgerPacket q p d) := by
  unfold ledgerPacket
  dsimp only
  split
  · exact h
  · split
    · exact .ite h h
    · split
      · split
        · exact h.touchEntry
        · exact h
      · exact h.countLookup.send.cons.drew

protected theorem Canonical.linkErrors {d} (h : Canonical d) : Canonical (linkErrors d) := .drew h

protected theorem Canonical.effPacket {p d0} (h : Canonical d0) : Canonical (effPacket p d0) := by
  unfold effPacket
  dsimp only
  split
  · split
    · exact h.linkErrors.cons.refusePacket
    · exact h.linkErrors.cons.deliverPacket
  · exact .ite h.linkErrors.cons.effNack (.ite h.linkErrors.cons.tallyPacket (.ite h.linkErrors.cons.ledgerPacket h.linkErrors.cons))


/-! ### Arguments of messages, the checks of a request -/

protected theorem Canonical.argSense {a n d} (h : Canonical d) : Canonical (argSense a n d) := by
  unfold argSense
  split
  exacts [h.foldl (fun _ _ h => h.senseRows), h]

protected theorem Canonical.argWrite {d a l} (h : Canonical d) : Canonical (argWrite d a l) := by
  unfold argWrite
  repeat' split
  exacts [h.foldl (fun _ _ h => h.putSlice), h.hubPut, h.pkgWrite]

protected theorem Canonical.senseArgs {l d} (h : Canonical d) : Canonical (senseArgs l d) := h.foldl fun _ _ h => .ite h h.argSense

protected theorem Canonical.onRequest {n op minLen bad u args run d} (hrun : ∀ x d, Canonical d → Canonical (run x d)) (h : Canonical d) :
    Canonical (onRequest n op minLen bad u args run d) := by
  unfold onRequest
  dsimp only
  split
  · exact h
  · split
    · exact h
    · split
      · exact h
      · split
        · exact h.answer
        · exact .ite h.senseArgs.drew.answer (.ite h.answer (hrun _ _ h))


/-! ### Itineraries: reserve, place, commit, stop -/

protected theorem Canonical.writeMap {d i} (h : Canonical d) : Canonical (writeMap d i) := h.argWrite

protected theorem Canonical.writeLog {d i} (h : Canonical d) : Canonical (writeLog d i) := h.argWrite

protected theorem Canonical.writeRecord {d i} (h : Canonical d) : Canonical (writeRecord d i) := h.argWrite.writeMap.writeLog.argWrite

protected theorem Canonical.logTo {id d c} (h : Canonical d) : Canonical (logTo id d c) := h.setCore.modItin

protected theorem Canonical.syncLog {d id} (h : Canonical d) : Canonical (syncLog d id) := by
  unfold syncLog
  split
  exacts [h.writeLog.argWrite, h]

protected theorem Canonical.completionEvent {d i} (h : Canonical d) : Canonical (completionEvent d i) := h.postEventTo

protected theorem Canonical.setPhase {d} (h : Canonical d) : Canonical (setPhase d) := h

protected theorem Canonical.commitItin {d id st} (h : Canonical d) : Canonical (commitItin d id st) := by
  unfold commitItin
  dsimp only
  split
  exacts [h.modItin, h.modItin.writeRecord.completionEvent.setPhase]

protected theorem Canonical.reserveCore {i d c} (h : Canonical d) : Canonical (reserveCore i d c) := h.setCore.drew.cons

protected theorem Canonical.writeRing {c n v d} (h : Canonical d) : Canonical (writeRing c n v d) := .ite h.modCore h

protected theorem Canonical.setRings {i d c} (h : Canonical d) : Canonical (setRings i d c) := h.foldl fun _ _ h => h.writeRing.modCore

protected theorem Canonical.addMember {d p} (h : Canonical d) : Canonical (addMember d p) := h.modCore.cons

protected theorem Canonical.addPoison {id words d} (h : Canonical d) : Canonical (addPoison id words d) := by
  unfold addPoison
  dsimp only
  split
  exacts [h, .ite h h.argWrite.argWrite.modItin]

protected theorem Canonical.collectPoison {d c v} (h : Canonical d) : Canonical (collectPoison d c v) := by
  unfold collectPoison
  dsimp only
  split
  exacts [h.modCore, .ite h.modCore (.ite h.modCore.addPoison h.modCore.sendPeer)]

protected theorem Canonical.admitEntry {i d p} (h : Canonical d) : Canonical (admitEntry i d p) :=
  .modCore (h.foldl (fun _ _ h => h.collectPoison))

protected theorem Canonical.initTallies {i d} (h : Canonical d) : Canonical (initTallies i d) := h.foldl fun _ _ h => .ite h h

protected theorem Canonical.reserveHere {i d} (h : Canonical d) : Canonical (reserveHere i d) := h.foldl fun _ _ h => h.reserveCore

protected theorem Canonical.startHere {i d} (h : Canonical d) : Canonical (startHere i d) :=
  .foldl (.initTallies (.foldl (h.foldl (fun _ _ h => h.setRings)) (fun _ _ h => h.addMember))) fun _ _ h => h.admitEntry

protected theorem Canonical.holdBerths {i d} (h : Canonical d) : Canonical (holdBerths i d) := by
  refine h.foldl fun _ _ h => ?_
  split
  exacts [h.takeHold, h]

protected theorem Canonical.refuseItin {d id core short} (h : Canonical d) : Canonical (refuseItin d id core short) := h.modItin.commitItin

protected theorem Canonical.runItin {d i} (h : Canonical d) : Canonical (runItin d i) := h

protected theorem Canonical.toPeers {d i m} (h : Canonical d) : Canonical (toPeers d i m) := h.foldl fun _ _ h => h.sendPeer

protected theorem Canonical.dropItinWaiters {i d} (h : Canonical d) : Canonical (dropItinWaiters i d) := h.dropWaiters

protected theorem Canonical.releaseCore {id d c} (h : Canonical d) : Canonical (releaseCore id d c) := h.setCore.cons.cons

protected theorem Canonical.unreserve {i d} (h : Canonical d) : Canonical (unreserve i d) :=
  .modItin (.foldl (h.foldl (fun _ _ h => h.releaseCore)) (fun _ _ h => h.sendPeer))

protected theorem Canonical.startItin {i d} (h : Canonical d) : Canonical (startItin i d) :=
  h.runItin.argWrite.argWrite.startHere.holdBerths.toPeers.setPhase

protected theorem Canonical.effAdmit {id d} (h : Canonical d) : Canonical (effAdmit id d) := by
  unfold effAdmit
  dsimp only
  split
  · exact h
  · split
    · exact h
    · split
      · split
        · exact h.unreserve.refuseItin
        · exact .ite h.startItin h.unreserve
      · split
        · exact h
        · split
          · exact h.refuseItin
          · exact .ite h.reserveHere.startItin h.reserveHere.toPeers.modItin

protected theorem Canonical.effAdmitFrom {id party d} (h : Canonical d) : Canonical (effAdmitFrom id party d) := by
  unfold effAdmitFrom
  split
  exacts [.ite h.effAdmit h, h]

protected theorem Canonical.closeThread {d p} (h : Canonical d) : Canonical (closeThread d p) := h.modCore

protected theorem Canonical.endHere {i d} (h : Canonical d) : Canonical (endHere i d) :=
  .foldl (.dropItinHolds (.dropItinWaiters (h.foldl (fun _ _ h => h.closeThread)))) fun _ _ h => h.releaseCore

protected theorem Canonical.effComplete {id d} (h : Canonical d) : Canonical (effComplete id d) := by
  unfold effComplete
  dsimp only
  split
  exacts [h, .ite h (.commitItin (.toPeers (.endHere (h.foldl (fun _ _ h => h.logTo)))))]

protected theorem Canonical.finishReads {d c} (h : Canonical d) : Canonical (finishReads d c) := by
  refine h.foldl fun _ _ h => ?_
  split
  exacts [h.effDelivery, h]

protected theorem Canonical.stopHere {i code detail d} (h : Canonical d) : Canonical (stopHere i code detail d) :=
  .dropItinWaiters (.foldl (.foldl (h.foldl (fun _ _ h => .ite h.modCore h.stopCore)) (fun _ _ h => h.finishReads.modCore)) (fun _ _ h =>
    h.closeThread))

protected theorem Canonical.tryCommit {id d} (h : Canonical d) : Canonical (tryCommit id d) := by
  unfold tryCommit
  dsimp only
  split
  exacts [h, .ite h (.commitItin (.modItin (h.foldl (fun _ _ h => h.logTo))))]

protected theorem Canonical.abortItin {d id lost} (h : Canonical d) : Canonical (abortItin d id lost) := by
  unfold abortItin
  dsimp only
  split
  exacts [h, .ite (.commitItin (.modItin (.ite h h.unreserve))) (.ite h h.stopHere.toPeers.modItin.tryCommit)]

protected theorem Canonical.abortFor {d id reason core pc detail lost} (h : Canonical d) :
    Canonical (abortFor d id reason core pc detail lost) :=
  h.modItin.abortItin

protected theorem Canonical.effItinAbort {id d} (h : Canonical d) : Canonical (effItinAbort id d) := by
  unfold effItinAbort
  dsimp only
  split
  · exact h
  · split
    · exact h
    · split
      · exact .ite h h.abortItin.tryCommit
      · split
        · exact h
        · exact h.stopHere.modItin.toPeers

protected theorem Canonical.settleCore {i d c} (h : Canonical d) : Canonical (settleCore i d c) := h.modCore.drew.releaseCore

protected theorem Canonical.effSettled {id d} (h : Canonical d) : Canonical (effSettled id d) := by
  unfold effSettled
  split
  exacts [h, .ite h (.modItin (.dropItinHolds (h.foldl (fun _ _ h => h.settleCore))))]

protected theorem Canonical.effTimeLimit {id d} (h : Canonical d) : Canonical (effTimeLimit id d) := by
  unfold effTimeLimit
  dsimp only
  split
  exacts [h, .ite h (.abortFor h)]


/-! ### Sessions, contexts, parties, programs -/

protected theorem Canonical.placeDir {d base} (h : Canonical d) : Canonical (placeDir d base) := h.pkgClear

protected theorem Canonical.setPlacement {d p} (h : Canonical d) : Canonical (setPlacement d p) := h

protected theorem Canonical.runHello {n m d} (h : Canonical d) : Canonical (runHello n m d) := by
  unfold runHello
  extract_lets ask now next anew d1 _ d2
  have h1 : Canonical d1 := .setPlacement (.ite h.placeDir h)
  have h2 : Canonical d2 := by simpa only [d2, Canonical] using h1
  refine .ite h.answer (.ite h.answer (.ite h.answer ?_))
  split
  exacts [h.answer, h2.answer]

protected theorem Canonical.effHello {n d} (h : Canonical d) : Canonical (effHello n d) := h.onRequest fun _ _ h => h.runHello

protected theorem Canonical.freeArray {d a count} (h : Canonical d) : Canonical (freeArray d a count) := h.pkgFill

protected theorem Canonical.openAt {n m d slot} (h : Canonical d) : Canonical (openAt n m d slot) := by
  unfold openAt
  dsimp only
  repeat' split
  exacts [h.answer, h.answer, .answerAs h.drew.freeArray.putPkg128]

protected theorem Canonical.runOpen {n m d} (h : Canonical d) : Canonical (runOpen n m d) := h.openAt

protected theorem Canonical.effOpenContext {n d} (h : Canonical d) : Canonical (effOpenContext n d) := h.onRequest fun _ _ h => h.runOpen

protected theorem Canonical.freePlaces {d e} (h : Canonical d) : Canonical (freePlaces d e) :=
  .ite (.freeLoc (.ite h h.freeLoc)) (.ite h h.freeLoc)

protected theorem Canonical.closeCtx {d ctx e} (h : Canonical d) : Canonical (closeCtx d ctx e).2 := by
  unfold closeCtx
  extract_lets _ _ live d1 _ d2 _ _ d3
  have h1 : Canonical d1 := .freeArray (h.foldl fun _ _ h => h.freePlaces)
  have h2 : Canonical d2 := h1.putPkg128
  have h3 : Canonical d3 := by simpa only [d3, Canonical] using h2
  exact h3.cons

protected theorem Canonical.runClose {n m d} (h : Canonical d) : Canonical (runClose n m d) := by
  unfold runClose
  split
  exacts [h, .ite h h.closeCtx.answer]

protected theorem Canonical.effCloseContext {n d} (h : Canonical d) : Canonical (effCloseContext n d) :=
  h.onRequest fun _ _ h => h.runClose

protected theorem Canonical.setRole {party d c} (h : Canonical d) : Canonical (setRole party d c) := h.modCore

protected theorem Canonical.runForm {n m d} (h : Canonical d) : Canonical (runForm n m d) := by
  unfold runForm
  extract_lets _ cores _ d1
  have h1 : Canonical d1 := h.foldl fun _ _ h => h.setRole
  refine .ite h (.ite h.answer ?_)
  split
  · exact h.answer
  · exact .ite h (.answer (by simpa only [Canonical] using h1))

protected theorem Canonical.effFormParty {n d} (h : Canonical d) : Canonical (effFormParty n d) := h.onRequest fun _ _ h => h.runForm

protected theorem Canonical.runDisband {n m d} (h : Canonical d) : Canonical (runDisband n m d) := by
  unfold runDisband
  extract_lets
  refine .ite h ?_
  split
  · exact h.answer
  · refine .ite h.answer (.ite h ?_)
    extract_lets d1 d2
    have h1 : Canonical d1 := .ite (h.foldl fun _ _ h => h.coreReset) h
    have h2 : Canonical d2 := h1.foldl fun _ _ h => h.setRole
    exact .answer (by simpa only [Canonical] using h2)

protected theorem Canonical.effDisbandParty {n d} (h : Canonical d) : Canonical (effDisbandParty n d) :=
  h.onRequest fun _ _ h => h.runDisband

protected theorem Canonical.runLoad {n m d} (h : Canonical d) : Canonical (runLoad n m d) := by
  unfold runLoad
  dsimp only
  split
  · exact h
  · split
    · exact h.answer
    · exact .ite h.answer (.ite h.answer (.answer (h.argSense.drew.foldl (fun _ _ h => h.modCore))))

protected theorem Canonical.effLoadProgram {n d} (h : Canonical d) : Canonical (effLoadProgram n d) := h.onRequest fun _ _ h => h.runLoad

protected theorem Canonical.logToLast {d c} (h : Canonical d) : Canonical (logToLast d c) := by
  unfold logToLast
  dsimp only
  split
  exacts [h, .ite h.logTo.syncLog h.setCore.sendPeer]

protected theorem Canonical.runSave {n m d} (h : Canonical d) : Canonical (runSave n m d) := by
  unfold runSave
  dsimp only
  repeat' split
  exacts [h, h.drew.answer, h, .answer (.drew (h.foldl (fun _ _ h => h.logToLast.argWrite)))]

protected theorem Canonical.restoreAll {addr l d} (h : Canonical d) : Canonical (restoreAll addr l d).2 := by
  induction l generalizing d with
  | nil => exact h
  | cons p l ih =>
    unfold restoreAll
    extract_lets
    split
    exacts [ih h.argSense.modCore, h.argSense.modCore]

protected theorem Canonical.runRestore {n m d} (h : Canonical d) : Canonical (runRestore n m d) := by
  unfold runRestore
  split
  · exact h
  · split
    · exact h.drew.answer
    · exact h
    · next cs _ =>
      have h1 := h.restoreAll (addr := msgLE m 0x18 8) (l := cs.zipIdx)
      split
      all_goals
        next hu =>
        rw [hu] at h1
        exact .answer h1

protected theorem Canonical.effSaveContext {n d} (h : Canonical d) : Canonical (effSaveContext n d) := h.onRequest fun _ _ h => h.runSave

protected theorem Canonical.effRestoreContext {n d} (h : Canonical d) : Canonical (effRestoreContext n d) :=
  h.onRequest fun _ _ h => h.runRestore

protected theorem Canonical.noteAsk {no p flaw tally d} (h : Canonical d) : Canonical (noteAsk no p flaw tally d) := h

protected theorem Canonical.judgeSubmit {n m d l i flaw tally} (h : Canonical d) : Canonical (judgeSubmit n m d l i flaw tally) := by
  unfold judgeSubmit
  dsimp only
  split
  · exact h.drew.answer
  · split
    · exact h.drew.answer
    · split
      · exact h.drew.answer
      · split
        · exact h.drew.answer
        · exact .ite h.drew.answer (.answer (.drew h))

protected theorem Canonical.runSubmit {n m d} (h : Canonical d) : Canonical (runSubmit n m d) := by
  unfold runSubmit
  dsimp only
  split
  · exact h.drew.answer
  · split
    · exact h.argSense.judgeSubmit
    · split
      · exact .ite h (h.argSense.foldl (fun _ _ h => h.sendPeer))
      · exact .ite h (.judgeSubmit h)

protected theorem Canonical.effSubmit {n d} (h : Canonical d) : Canonical (effSubmit n d) := h.onRequest fun _ _ h => h.runSubmit

protected theorem Canonical.runAbort {n m d} (h : Canonical d) : Canonical (runAbort n m d) := by
  unfold runAbort
  dsimp only
  split
  · exact h.answer
  · split
    · exact .ite h.modItin.abortItin h
    · exact .ite (.ite h.modItin.abortItin h) (.answer (.ite h.modItin.abortItin h))

protected theorem Canonical.effAbort {n d} (h : Canonical d) : Canonical (effAbort n d) := h.onRequest fun _ _ h => h.runAbort

protected theorem Canonical.runQuery {n m d} (h : Canonical d) : Canonical (runQuery n m d) := by
  unfold runQuery
  split
  exacts [h.answer, .answer (.ite h.writeMap h)]

protected theorem Canonical.effQueryProgress {n d} (h : Canonical d) : Canonical (effQueryProgress n d) :=
  h.onRequest fun _ _ h => h.runQuery


/-! ### Berth messages -/

protected theorem Canonical.allocAll {m core k l d} (h : Canonical d) : MaybeCanonical (allocAll m core k l d) := by
  induction l generalizing k d with
  | nil => exact .some h
  | cons p l ih =>
    unfold allocAll
    extract_lets
    refine .ite (ih (.putPkg128 (.ite h.cons h))) ?_
    split
    exacts [.none, ih (.putPkg128 (.takePlace (.ite h.cons h)))]

protected theorem Canonical.runAlloc {n m d} (h : Canonical d) : Canonical (runAlloc n m d) := by
  unfold runAlloc
  split
  · exact h
  · split
    · exact h.answer
    · extract_lets
      refine .ite h (.ite h.answer ?_)
      split
      · exact h.answer
      · split
        case h_1 => exact h.drew.answer
        case h_2 u hu => exact .answer (.drew (h.allocAll u hu))

protected theorem Canonical.effBerthAlloc {n d} (h : Canonical d) : Canonical (effBerthAlloc n d) := h.onRequest fun _ _ h => h.runAlloc

protected theorem Canonical.freeOne {d p} (h : Canonical d) : Canonical (freeOne d p) := .ite h h.freePlaces.putPkg128.cons

protected theorem Canonical.runFree {n m d} (h : Canonical d) : Canonical (runFree n m d) := by
  unfold runFree
  dsimp only
  split
  · exact h
  · split
    · exact h.answer
    · exact .ite h (.answer (h.foldl (fun _ _ h => h.freeOne)))

protected theorem Canonical.effBerthFree {n d} (h : Canonical d) : Canonical (effBerthFree n d) := h.onRequest fun _ _ h => h.runFree

protected theorem Canonical.startMoves {m core bs d} (h : Canonical d) : Canonical (startMoves m core bs d) :=
  h.foldl fun _ _ h => h.addMove

protected theorem Canonical.runMove {n m d} (h : Canonical d) : Canonical (runMove n m d) := by
  unfold runMove
  dsimp only
  split
  · exact h
  · split
    · exact h.answer
    · exact .ite h (.ite (.finishJob (.ite h.putPkg128 h)) (.ite (.finishJob (.ite h.putPkg128 h)) (.startMoves (.ite h.putPkg128 h))))

protected theorem Canonical.effBerthMove {n d} (h : Canonical d) : Canonical (effBerthMove n d) := h.onRequest fun _ _ h => h.runMove

protected theorem Canonical.runLedgerQuery {n m d} (h : Canonical d) : Canonical (runLedgerQuery n m d) := by
  unfold runLedgerQuery
  dsimp only
  split
  · exact h
  · split
    · exact h.answer
    · exact .ite h.drew.answer h.argWrite.drew.answer

protected theorem Canonical.effLedgerQuery {n d} (h : Canonical d) : Canonical (effLedgerQuery n d) :=
  h.onRequest fun _ _ h => h.runLedgerQuery

protected theorem Canonical.effCellarBins {port first bins d} (h : Canonical d) : Canonical (effCellarBins port first bins d) := h


/-! ### Service messages, conservation -/

protected theorem Canonical.onSub {n sub f d} (hf : ∀ d, Canonical d → Canonical (f d)) (h : Canonical d) :
    Canonical (onSub n sub f d) := by
  unfold onSub
  split
  exacts [.ite (hf _ h) h, h]

protected theorem Canonical.runPhaseOp {n m d} (h : Canonical d) : Canonical (runPhaseOp n m d) := .answer h

protected theorem Canonical.effSetPhaseOp {n d} (h : Canonical d) : Canonical (effSetPhaseOp n d) := h.onRequest fun _ _ h => h.runPhaseOp

protected theorem Canonical.effPowerStatus {n d} (h : Canonical d) : Canonical (effPowerStatus n d) := h.onRequest fun _ _ h => h.answer

protected theorem Canonical.powerEvent {d} (h : Canonical d) : Canonical (powerEvent d) := h.postEvent

protected theorem Canonical.stewTally {d op index value} (h : Canonical d) : Canonical (stewTally d op index value).1 :=
  .cons (.releaseWaiters (.ite (.cons h) h))

protected theorem Canonical.runTally {n m d} (h : Canonical d) : Canonical (runTally n m d) := h.stewTally.answer

protected theorem Canonical.effTallyMsg {sub n d} (h : Canonical d) : Canonical (effTallyMsg sub n d) :=
  h.onSub (fun _ h => h.onRequest (fun _ _ h => h.runTally))

protected theorem Canonical.runCalRead {n m d} (h : Canonical d) : Canonical (runCalRead n m d) := h.drew.argWrite.answer

protected theorem Canonical.effCalRead {n d} (h : Canonical d) : Canonical (effCalRead n d) := h.onRequest fun _ _ h => h.runCalRead

protected theorem Canonical.runCalWrite {n m d} (h : Canonical d) : Canonical (runCalWrite n m d) := h.argSense.drew.writeSection.answer

protected theorem Canonical.effCalWrite {n d} (h : Canonical d) : Canonical (effCalWrite n d) := h.onRequest fun _ _ h => h.runCalWrite

protected theorem Canonical.snapClass {d c} (h : Canonical d) : Canonical (snapClass d c) := h

protected theorem Canonical.snapshot {d} (h : Canonical d) : Canonical (snapshot d) := h.foldl fun _ _ h => h.snapClass

protected theorem Canonical.checkClass {d c} (h : Canonical d) : Canonical (checkClass d c) := .ite h (.imbalance h)

protected theorem Canonical.checkClasses {cs d} (h : Canonical d) : Canonical (checkClasses cs d) :=
  .foldl (h.foldl (fun _ _ h => h.snapClass)) fun _ _ h => h.checkClass

protected theorem Canonical.effConservation {quiescent d} (h : Canonical d) : Canonical (effConservation quiescent d) :=
  .ite h (.ite (.ite h.checkClasses h) h.checkClasses)

protected theorem Canonical.runEcho {n m d} (h : Canonical d) : Canonical (runEcho n m d) := h.answer

protected theorem Canonical.diagWrite {n m l d} (h : Canonical d) : Canonical (diagWrite n m l d) := h.drew.argWrite.answer

protected theorem Canonical.runCounters {n m d} (h : Canonical d) : Canonical (runCounters n m d) := h.checkClasses.diagWrite

protected theorem Canonical.runLog {n m d} (h : Canonical d) : Canonical (runLog n m d) := h.diagWrite

protected theorem Canonical.effDiagEcho {n d} (h : Canonical d) : Canonical (effDiagEcho n d) :=
  h.onSub (fun _ h => h.onRequest (fun _ _ h => h.runEcho))

protected theorem Canonical.effDiagCounters {n d} (h : Canonical d) : Canonical (effDiagCounters n d) :=
  h.onSub (fun _ h => h.onRequest (fun _ _ h => h.runCounters))

protected theorem Canonical.effDiagLog {n d} (h : Canonical d) : Canonical (effDiagLog n d) :=
  h.onSub (fun _ h => h.onRequest (fun _ _ h => h.runLog))

end Sys2Proof.Machine
end


section
/-! PROOF. O58: power, trust, faults, the hub link, the boot, registers and the test port keep the memories canonical (R10). -/

namespace Sys2Proof.Machine

/-! ### Power, clocks, temperature -/

protected theorem Canonical.setInterval {op d} (h : Canonical d) : Canonical (setInterval op d) := h

protected theorem Canonical.modDomain {n f d} (h : Canonical d) : Canonical (modDomain n f d) := h

protected theorem Canonical.vctlSend {d f} (h : Canonical d) : Canonical (vctlSend d f) := .send h

protected theorem Canonical.applyTrims {d} (h : Canonical d) : Canonical (applyTrims d) := h.foldl fun _ _ h => .ite h h.vctlSend

protected theorem Canonical.setVoltage {code d} (h : Canonical d) : Canonical (setVoltage code d) := .foldl h fun _ _ h => h.vctlSend

protected theorem Canonical.glideOn {d} (h : Canonical d) : Canonical (glideOn d) :=
  .ite (.setVoltage h) (.ite (.ite (.setInterval h) h) (.ite (.setVoltage h) (.setInterval h)))

protected theorem Canonical.retarget {d} (h : Canonical d) : Canonical (retarget d) :=
  .ite h (.ite h (.ite (.glideOn (.drew h)) (.ite h (.glideOn h))))

protected theorem Canonical.effTarget {op d} (h : Canonical d) : Canonical (effTarget op d) := .retarget h

protected theorem Canonical.effVoltageStep {d} (h : Canonical d) : Canonical (effVoltageStep d) := .ite h h.glideOn

protected theorem Canonical.effSlewEnd {d} (h : Canonical d) : Canonical (effSlewEnd d) := .ite h (.glideOn h)

protected theorem Canonical.dropVctl {d f} (h : Canonical d) : Canonical (dropVctl d f) := h

protected theorem Canonical.vctlFail {d f} (h : Canonical d) : Canonical (vctlFail d f) := .ite h.raiseFatal h.dropVctl.vctlSend

protected theorem Canonical.vctlStatus {v d} (h : Canonical d) : Canonical (vctlStatus v d) := .ite h (.powerEvent h)

protected theorem Canonical.effVctlResponse {frame d} (h : Canonical d) : Canonical (effVctlResponse frame d) := by
  unfold effVctlResponse
  dsimp only
  split
  exacts [h, .ite h.vctlFail (.ite h (.ite (.ite h h.dropVctl.modDomain) h.dropVctl.vctlStatus))]

protected theorem Canonical.effVctlTimeout {domain d} (h : Canonical d) : Canonical (effVctlTimeout domain d) := by
  unfold effVctlTimeout
  split
  exacts [h, h.vctlFail]

protected theorem Canonical.effVctlPoll {d} (h : Canonical d) : Canonical (effVctlPoll d) := .ite h (h.foldl (fun _ _ h => h.vctlSend))

protected theorem Canonical.runManager {d} (h : Canonical d) : Canonical (runManager d) := .ite h (.effTarget h)

protected theorem Canonical.takeTemps {w d} (h : Canonical d) : Canonical (takeTemps w d) := .ite h (.setInterval h)

protected theorem Canonical.takeBudget {d} (h : Canonical d) : Canonical (takeBudget d).2 := by
  unfold takeBudget
  extract_lets
  split
  · exact h
  · split
    exacts [.powerEvent h, h]

protected theorem Canonical.thermalStep {mark d} (h : Canonical d) : Canonical (thermalStep mark d) := .ite h (.postEvent h)

protected theorem Canonical.budgetLimit {e d} (h : Canonical d) : Canonical (budgetLimit e d) :=
  .ite (.ite (.ite h (.ite h (.powerEvent h))) h) h

protected theorem Canonical.sendDemand {v d} (h : Canonical d) : Canonical (sendDemand v d) := .emitCtrl h

protected theorem Canonical.demandStep {budgeted d0} (h : Canonical d0) : Canonical (demandStep budgeted d0) :=
  .ite h (.ite (.sendDemand h) h)

protected theorem Canonical.noteWindow {e st lowered old d} (h : Canonical d) : Canonical (noteWindow e st lowered old d) := h

/-- What a window's end does to the power state, over the die the new budget leaves (R339 to R346). -/
theorem boundaryPower_eq (w : WindowCounts) (mark : Bool) (d : Die) : ∃ v p e st lowered, boundaryPower w mark d =
    let noted := noteWindow e st lowered d.power { setDuty v (budgetLimit e (thermalStep mark (takeBudget d).2)) with power := p }
    let asked := demandStep (takeBudget d).1 (retarget noted)
    if asked.power.phase ≠ asked.power.phaseSeen then runManager asked else asked := ⟨_, _, _, _, _, rfl⟩

protected theorem Canonical.boundaryPower {w mark d} (h : Canonical d) : Canonical (boundaryPower w mark d) := by
  obtain ⟨v, p, e, st, lowered, heq⟩ := boundaryPower_eq w mark d
  rw [heq]
  extract_lets _ noted asked
  have h1 : Canonical (budgetLimit e (thermalStep mark (takeBudget d).2)) := .budgetLimit (.thermalStep h.takeBudget)
  have h2 : Canonical noted := .noteWindow (by simpa only [Canonical] using h1.setDuty (v := v))
  have h3 : Canonical asked := .demandStep (.retarget h2)
  exact .ite h3.runManager h3

protected theorem Canonical.effWindow {w d} (h : Canonical d) : Canonical (effWindow w d) :=
  .ite h (.drew (.ite (.takeTemps h) (.boundaryPower (.takeTemps h))))

protected theorem Canonical.effMark {d} (h : Canonical d) : Canonical (effMark d) := .ite h (.runManager (.retarget h))

protected theorem Canonical.effBudget {b q d} (h : Canonical d) : Canonical (effBudget b q d) := .ite h h

protected theorem Canonical.effSafe {d} (h : Canonical d) : Canonical (effSafe d) := .ite h h

protected theorem Canonical.effDroop {n d} (h : Canonical d) : Canonical (effDroop n d) := .ite h h.modDomain

protected theorem Canonical.effDroopEnd {n skipped d} (h : Canonical d) : Canonical (effDroopEnd n skipped d) := h.modDomain

protected theorem Canonical.effTrip {d} (h : Canonical d) : Canonical (effTrip d) := h.raiseFatal


/-! ### Firmware, fuses, attestation, debug sessions -/

protected theorem Canonical.runStage {n m d} (h : Canonical d) : Canonical (runStage n m d) := by
  obtain ⟨hmem, hpkg, -⟩ : Canonical (argSense (msgLE m 0x18 8) (msgLE m 0x14 4) d) := h.argSense
  unfold runStage
  extract_lets
  split
  exacts [h.argSense.drew.answer, .answer ⟨hmem, hpkg, memWrite_wf _ _ h.2.2⟩]

protected theorem Canonical.effFwStage {n d} (h : Canonical d) : Canonical (effFwStage n d) := h.onRequest fun _ _ h => h.runStage

protected theorem Canonical.runCommit {n m d} (h : Canonical d) : Canonical (runCommit n m d) := by
  unfold runCommit
  dsimp only
  repeat' split
  exacts [h.answer, h.answer, h.flashWrite.answer]

protected theorem Canonical.effFwCommit {n d} (h : Canonical d) : Canonical (effFwCommit n d) := h.onRequest fun _ _ h => h.runCommit

protected theorem Canonical.applyVariant {d} (h : Canonical d) : Canonical (applyVariant d) := by
  unfold applyVariant
  dsimp only
  split <;> exact h

protected theorem Canonical.runFuse {n m d} (h : Canonical d) : Canonical (runFuse n m d) := by
  unfold runFuse
  dsimp only
  split
  · exact h
  · split
    · exact h.answer
    · split
      · exact h.answer
      · split
        · exact h.answer
        · split
          · exact h.drew.answer
          · exact .ite h.drew.answer (.drew h)

protected theorem Canonical.effFuse {sub n d} (h : Canonical d) : Canonical (effFuse sub n d) :=
  h.onSub (fun _ h => h.onRequest (fun _ _ h => h.runFuse))

protected theorem Canonical.endFuse {ev st det d} (h : Canonical d) : Canonical (endFuse ev st det d) := by
  unfold endFuse
  dsimp only
  split
  exacts [.ite (.retarget (.applyVariant h)) h, .answer (.ite (.retarget (.applyVariant h)) h)]

protected theorem Canonical.effFuseWord {d} (h : Canonical d) : Canonical (effFuseWord d) := by
  unfold effFuseWord
  dsimp only
  split
  · exact h
  · split
    · exact h
    · exact .ite (.endFuse h) h

protected theorem Canonical.effEfuseGood {d} (h : Canonical d) : Canonical (effEfuseGood d) := h

protected theorem Canonical.effEfuseLoss {d} (h : Canonical d) : Canonical (effEfuseLoss d) := by
  unfold effEfuseLoss
  dsimp only
  split
  exacts [h, .endFuse (.cutWord h)]

protected theorem Canonical.runAttest {n m d} (h : Canonical d) : Canonical (runAttest n m d) := by
  unfold runAttest
  dsimp only
  split
  exacts [h.answer, h.drew.argWrite.answer]

protected theorem Canonical.effAttest {n d} (h : Canonical d) : Canonical (effAttest n d) := h.onRequest fun _ _ h => h.runAttest

protected theorem Canonical.modWin {n f d} (h : Canonical d) : Canonical (modWin n f d) := h

protected theorem Canonical.effWinOpen {n d} (h : Canonical d) : Canonical (effWinOpen n d) := h.modWin

protected theorem Canonical.effWinClose {n d} (h : Canonical d) : Canonical (effWinClose n d) := h.modWin

protected theorem Canonical.effWinClosed {n d} (h : Canonical d) : Canonical (effWinClosed n d) := .ite h h.modWin

protected theorem Canonical.eachWindow {f d} (hf : ∀ x d, Canonical d → Canonical (f x d)) (h : Canonical d) : Canonical (eachWindow f d) :=
  h.foldl fun _ _ h => hf _ _ h

protected theorem Canonical.setIr {ir d} (h : Canonical d) : Canonical (setIr ir d) := .ite h h

protected theorem Canonical.effDbgChal {d0} (h : Canonical d0) : Canonical (effDbgChal d0) :=
  .ite (.send h.setIr) (.ite h.setIr.send h.setIr)

protected theorem Canonical.effDbgResp {l d0} (h : Canonical d0) : Canonical (effDbgResp l d0) :=
  .ite h.setIr (.ite (.eachWindow (fun _ _ h => h.effWinClose) h.setIr) h.setIr)

protected theorem Canonical.effSessionOpen {d} (h : Canonical d) : Canonical (effSessionOpen d) := by
  unfold effSessionOpen
  dsimp only
  split
  exacts [h, .ite h h]

protected theorem Canonical.resumeTargets {d} (h : Canonical d) : Canonical (resumeTargets d) := h

protected theorem Canonical.endSession {d} (h : Canonical d) : Canonical (endSession d) :=
  .ite h (.ite (.eachWindow (fun _ _ h => h.effWinOpen) (.resumeTargets h)) (.resumeTargets h))

protected theorem Canonical.effSessionExpiry {d} (h : Canonical d) : Canonical (effSessionExpiry d) := .ite h.endSession h


/-! ### Peers, party resets, fenced dies -/

protected theorem Canonical.dropRemote {i d} (h : Canonical d) : Canonical (dropRemote i d) := h.foldl fun _ _ h => h.releaseCore

protected theorem Canonical.stopRemote {i code detail d} (h : Canonical d) : Canonical (stopRemote i code detail d) := by
  unfold stopRemote
  split
  exacts [h.stopHere.modItin.setPhase, h.dropRemote, h]

protected theorem Canonical.stopReport {id d} (h : Canonical d) : Canonical (stopReport id d).1 := by
  unfold stopReport
  dsimp only
  split
  exacts [h, h.foldl (fun _ _ h => h.modCore)]

protected theorem Canonical.takeAbort {p id core code d} (h : Canonical d) : Canonical (takeAbort p id core code d).1 := by
  unfold takeAbort
  dsimp only
  split
  · split
    · exact h.stopReport
    · exact .stopReport (.ite (.ite h.abortFor h) (.ite h.stopRemote h.stopRemote))
  · split
    · exact h
    · exact .ite (.ite h.abortFor h) (.ite h.stopRemote h.stopRemote)

protected theorem Canonical.takeCheck {p no desc len d} (h : Canonical d) : Canonical (takeCheck p no desc len d).1 := h.drew

protected theorem Canonical.takeReserve {id desc len d} (h : Canonical d) : Canonical (takeReserve id desc len d).1 := by
  unfold takeReserve
  dsimp only
  repeat' split
  exacts [h.drew, h.drew, .reserveHere h]

protected theorem Canonical.takeStart {id d} (h : Canonical d) : Canonical (takeStart id d) := by
  unfold takeStart
  split
  exacts [h, .ite h.runItin.startHere.setPhase h]

protected theorem Canonical.takeRelease {id d} (h : Canonical d) : Canonical (takeRelease id d) := by
  unfold takeRelease
  repeat' split
  exacts [h, h, h.dropRemote, h.endHere.dropRemote.setPhase, h]

protected theorem Canonical.noteReserve {p id m d} (h : Canonical d) : Canonical (noteReserve p id m d) := h.modItin

protected theorem Canonical.takePeer {p m d} (h : Canonical d) : Canonical (takePeer p m d).1 := by
  unfold takePeer
  dsimp only
  split
  exacts [h.imbalance, h.takeCheck, h.noteAsk, h.takeAbort, h.modItin.tryCommit, h.takeReserve, h.noteReserve, h.noteReserve, h.noteReserve,
    h.takeStart, h.takeRelease, h.modItin, h.modItin, h.modItin, h.addPoison, h.modItin.syncLog, h.loseBerths, h, h]

protected theorem Canonical.effPeer {n m d} (h : Canonical d) : Canonical (effPeer n m d) := by
  unfold effPeer
  split
  · exact h
  · split
    · exact .ite h (.setOwn (.ite (.peerAnswered (.dropReqAt h.takePeer)) (.send (.dropReqAt h.takePeer))))
    · exact h

protected theorem Canonical.abortForParty {core cause d i} (h : Canonical d) : Canonical (abortForParty core cause d i) :=
  .ite h.abortFor h.sendPeer.sendPeer.stopRemote

protected theorem Canonical.enterReset {d c} (h : Canonical d) : Canonical (enterReset d c) := h.modCore

protected theorem Canonical.effPartyReset {party core cause d} (h : Canonical d) : Canonical (effPartyReset party core cause d) := by
  unfold effPartyReset
  dsimp only
  split
  exacts [h,
    .ite h (.foldl (.foldl (.foldl (.logFault h) (fun _ _ h => h.enterReset)) (fun _ _ h => h.abortForParty)) (fun _ _ h => h.coreReset))]

protected theorem Canonical.effPartyResetEnd {party d} (h : Canonical d) : Canonical (effPartyResetEnd party d) := by
  unfold effPartyResetEnd
  dsimp only
  split
  exacts [.ite h (.postEvent (.foldl h (fun _ _ h => h.modCore))), h]

protected theorem Canonical.effStopTimeout {c d} (h : Canonical d) : Canonical (effStopTimeout c d) := by
  unfold effStopTimeout
  split
  exacts [h.effPartyReset, h]

protected theorem Canonical.effDrainTimeout {c d} (h : Canonical d) : Canonical (effDrainTimeout c d) := by
  unfold effDrainTimeout
  split
  exacts [.ite h.effPartyReset h, h]

protected theorem Canonical.effPartyTimeout {party d} (h : Canonical d) : Canonical (effPartyTimeout party d) := .ite h.raiseFatal h

protected theorem Canonical.logSuspects {die d i} (h : Canonical d) : Canonical (logSuspects die d i) := h.foldl fun _ _ h => h.logFault

protected theorem Canonical.forgetDie {die d} (h : Canonical d) : Canonical (forgetDie die d) := .foldl h fun _ _ h => h.tryCommit

protected theorem Canonical.effFenced {die d} (h : Canonical d) : Canonical (effFenced die d) :=
  .ite h (.postEvent (.foldl (.logFault (.foldl (.foldl (.foldl (.forgetDie h) (fun _ _ h => h.abortFor)) (fun _ _ h => h.stopRemote)) (fun
    _ _ h => h.revertMove))) (fun _ _ h => h.logSuspects)))

protected theorem Canonical.effRejoined {die d} (h : Canonical d) : Canonical (effRejoined die d) := .ite h h

protected theorem Canonical.effPkgMem {kept d} (h : Canonical d) : Canonical (effPkgMem kept d) := by
  unfold effPkgMem
  dsimp only
  repeat' split
  exacts [h, h, h.pkgClear]

protected theorem Canonical.effHeartbeat {d} (h : Canonical d) : Canonical (effHeartbeat d) := .ite h h

protected theorem Canonical.effHang {d} (h : Canonical d) : Canonical (effHang d) := .ite (.raiseFatal h) h

protected theorem Canonical.raisePackage {d} (h : Canonical d) : Canonical (raisePackage d) := .ite h h.fatalPackage


/-! ### The hub link -/

protected theorem Canonical.setGateMaps {d} (h : Canonical d) : Canonical (setGateMaps d) := h

protected theorem Canonical.eachMod {l f d} (h : Canonical d) : Canonical (eachMod l f d) := h.foldl fun _ _ h => h.modMod

protected theorem Canonical.linkDown {d} (h : Canonical d) : Canonical (linkDown d) := by
  simpa only [linkDown, Canonical] using h.eachMod (l := List.range 192) (f := fun _ => downModule)

protected theorem Canonical.writeHlt {d} (h : Canonical d) : Canonical (writeHlt d) := .ite h.drew.writeSection h

protected theorem Canonical.bootFail {fail cause d} (h : Canonical d) : Canonical (bootFail fail cause d) := .alert h

protected theorem Canonical.startExchange {d0} (h : Canonical d0) : Canonical (startExchange d0) := .sbSend (.sbSend (.sbSend h))

protected theorem Canonical.failedAttempt {go d} (hgo : ∀ d, Canonical d → Canonical (go d)) (h : Canonical d) :
    Canonical (failedAttempt go d) :=
  .ite (.bootFail (.linkDown h)) (hgo _ h)

protected theorem Canonical.startTraining {fast d} (h : Canonical d) : Canonical (startTraining fast d) := h.eachMod

protected theorem Canonical.compareAgree {d} (h : Canonical d) : Canonical (compareAgree d) := by
  unfold compareAgree
  split
  exacts [h, .ite h (.ite (h.failedAttempt (fun _ h => h.startExchange)) h.startTraining)]

protected theorem Canonical.sendAgree {d} (h : Canonical d) : Canonical (sendAgree d) := by
  unfold sendAgree
  dsimp only
  split
  exacts [.compareAgree (.sbSend h), h]

protected theorem Canonical.takeFrame {cmd fresh f d} (h : Canonical d) : Canonical (takeFrame cmd fresh f d) :=
  .ite h (.ite (.sendAgree h) h.sbAnswer)

protected theorem Canonical.effOffer {mask d} (h : Canonical d) : Canonical (effOffer mask d) := h.takeFrame

protected theorem Canonical.effDigestLo {v d} (h : Canonical d) : Canonical (effDigestLo v d) := h.takeFrame

protected theorem Canonical.effDigestHi {v d} (h : Canonical d) : Canonical (effDigestHi v d) := h.takeFrame

protected theorem Canonical.effAgree {fast mask d} (h : Canonical d) : Canonical (effAgree fast mask d) :=
  .ite h (.ite (.compareAgree h) h.sbAnswer)

protected theorem Canonical.startReadiness {d} (h : Canonical d) : Canonical (startReadiness d) := h

protected theorem Canonical.effTrainFast {ok d} (h : Canonical d) : Canonical (effTrainFast ok d) :=
  .ite h (.ite h.eachMod.startReadiness h.startTraining)

protected theorem Canonical.effTrainFull {ok spares d} (h : Canonical d) : Canonical (effTrainFull ok spares d) :=
  .ite h (.ite (h.failedAttempt (fun _ h => h.startExchange)) h.eachMod.drew.startReadiness)

protected theorem Canonical.enterConfirm {d} (h : Canonical d) : Canonical (enterConfirm d) := .ite h (.sbSend h)

protected theorem Canonical.offerMask {mask d} (h : Canonical d) : Canonical (offerMask mask d) := .ite h.raiseFatal (.sbSend h)

protected theorem Canonical.effReadiness {failing unrepairable d} (h : Canonical d) : Canonical (effReadiness failing unrepairable d) :=
  .ite h (.ite (h.failedAttempt (fun _ h => h.startTraining)) (.ite h.eachMod.drew.enterConfirm (.ite h.eachMod.drew.offerMask.enterConfirm
    h.eachMod.drew.offerMask)))

protected theorem Canonical.effLinkUp {mask sizes d} (h : Canonical d) : Canonical (effLinkUp mask sizes d) :=
  .ite h (.ite h.sbAnswer (.drew h.sbAnswer.eachMod))

protected theorem Canonical.applyGrant {v d} (h : Canonical d) : Canonical (applyGrant v d) := .startExchange h

protected theorem Canonical.effGrant {arg data d} (h : Canonical d) : Canonical (effGrant arg data d) :=
  .ite h (.ite h (.ite (.ite h.sbAnswer h) (.ite (.drew (.applyGrant h)) (.ite h.sbAnswer.applyGrant h.sbAnswer))))

protected theorem Canonical.effTakeDown {m d} (h : Canonical d) : Canonical (effTakeDown m d) := .ite h h.offerMask

protected theorem Canonical.drainGates {gone d} (h : Canonical d) : Canonical (drainGates gone d) :=
  .foldl (.eachMod h) fun _ _ h => h.sbSend

protected theorem Canonical.adoptMask {d} (h : Canonical d) : Canonical (adoptMask d) := by
  unfold adoptMask
  dsimp only
  split
  exacts [h, .ite h (.ite (.writeHlt (.drainGates (.setGateMaps h))) (.ite (.sbSend (.eachMod h)) (.eachMod h)))]

protected theorem Canonical.effNewmask {mask d} (h : Canonical d) : Canonical (effNewmask mask d) := by
  unfold effNewmask
  dsimp only
  split
  · exact h
  · split
    · exact h.sbAnswer
    · split
      · exact .ite h.sbAnswer.raiseFatal (.adoptMask h)
      · exact .ite h.sbAnswer.raiseFatal (.sbSend h)

protected theorem Canonical.effDrainPoint {m seq d} (h : Canonical d) : Canonical (effDrainPoint m seq d) := by
  unfold effDrainPoint
  dsimp only
  split
  · exact h
  · split
    · exact h.sbAnswer
    · split
      · exact h.sbAnswer.raiseFatal
      · exact .pumpMod (.ite h.sbAnswer.putMod.putMod h.sbAnswer.putMod.putMod.send)

protected theorem Canonical.effDrainDone {g complete d} (h : Canonical d) : Canonical (effDrainDone g complete d) :=
  .ite h (.ite h.raiseFatal (.ite h (.eachMod (.cons h))))

protected theorem Canonical.effAck {cmd d} (h : Canonical d) : Canonical (effAck cmd d) := by
  unfold effAck
  dsimp only
  split
  exacts [h, .ite (.compareAgree h) (.ite (.adoptMask h) h)]

protected theorem Canonical.giveUpFrame {f d} (h : Canonical d) : Canonical (giveUpFrame f d) := .ite h h

protected theorem Canonical.effResend {cmd d} (h : Canonical d) : Canonical (effResend cmd d) := by
  unfold effResend
  dsimp only
  split
  exacts [h, .ite (.send h) (.ite (.failedAttempt (fun _ h => h.startExchange) h) h.giveUpFrame)]

protected theorem Canonical.applyCredit {n ch k d} (h : Canonical d) : Canonical (applyCredit n ch k d) := .ite h h.modMod.cons

protected theorem Canonical.noteDiscard {f d} (h : Canonical d) : Canonical (noteDiscard f d) := .ite h h

protected theorem Canonical.creditFlit {n nak retrain d} (h : Canonical d) : Canonical (creditFlit n nak retrain d) := h.modMod.send

protected theorem Canonical.refuseFlit {n crcFail d} (h : Canonical d) : Canonical (refuseFlit n crcFail d) :=
  .ite h.putMod h.putMod.creditFlit

protected theorem Canonical.acceptFlit {n f d} (h : Canonical d) : Canonical (acceptFlit n f d) :=
  .ite (.sendNop (.pumpMod (.ite h.putMod.applyCredit.applyCredit.noteDiscard.creditFlit h.putMod.applyCredit.applyCredit.noteDiscard)))
    (.pumpMod (.ite h.putMod.applyCredit.applyCredit.noteDiscard.creditFlit h.putMod.applyCredit.applyCredit.noteDiscard))

protected theorem Canonical.effFlit {m f d} (h : Canonical d) : Canonical (effFlit m f d) :=
  .ite h (.ite h.putMod (.ite h.refuseFlit (.ite h.refuseFlit (.ite h.acceptFlit h.refuseFlit))))

protected theorem Canonical.resend {n d} (h : Canonical d) : Canonical (resend n d) := .ite h h.putMod.send

protected theorem Canonical.effCredit {m f d} (h : Canonical d) : Canonical (effCredit m f d) :=
  .ite h (.ite h.putMod (.pumpMod (.ite h.putMod.resend h.putMod)))

protected theorem Canonical.effReplayTimeout {m d} (h : Canonical d) : Canonical (effReplayTimeout m d) := .ite h h.resend

protected theorem Canonical.effCreditTimer {m d} (h : Canonical d) : Canonical (effCreditTimer m d) := .ite h h.creditFlit.sendNop

protected theorem Canonical.effRetrain {m d} (h : Canonical d) : Canonical (effRetrain m d) := .ite h h.creditFlit.modMod

protected theorem Canonical.effRetrainDone {m r d} (h : Canonical d) : Canonical (effRetrainDone m r d) :=
  .ite h (.ite h.putMod (.pumpMod (.ite (.ite (.imbalance (.ite h.putMod.creditFlit h.putMod.creditFlit.send)) (.ite h.putMod.creditFlit
    h.putMod.creditFlit.send)) (.writeHlt (.ite (.imbalance (.ite h.putMod.creditFlit h.putMod.creditFlit.send)) (.ite h.putMod.creditFlit
    h.putMod.creditFlit.send))))))

protected theorem Canonical.effRxLoss {d} (h : Canonical d) : Canonical (effRxLoss d) := .ite h h

protected theorem Canonical.effRxReturn {d} (h : Canonical d) : Canonical (effRxReturn d) := .ite (.foldl h (fun _ _ h => h.pumpMod)) h

protected theorem Canonical.effLinkLost {d} (h : Canonical d) : Canonical (effLinkLost d) := .ite h.raisePackage h


/-! ### Pins, rails, clocks, the boot -/

protected theorem Canonical.effPorst {d} (h : Canonical d) : Canonical (effPorst d) := by
  refine .ite h ?_
  simpa only [Canonical] using h.dieReset (k := .cold)

protected theorem Canonical.porstRise {d} (h : Canonical d) : Canonical (porstRise d) := h

protected theorem Canonical.bootUnlessHeld {kind d} (h : Canonical d) : Canonical (bootUnlessHeld kind d) := .ite h h.startBoot

protected theorem Canonical.effPorstRise {d} (h : Canonical d) : Canonical (effPorstRise d) := .ite (.bootUnlessHeld (.porstRise h)) h

protected theorem Canonical.effHubRst {d} (h : Canonical d) : Canonical (effHubRst d) := .ite h (.ite h h.dieReset)

protected theorem Canonical.effHubRstRise {d} (h : Canonical d) : Canonical (effHubRstRise d) := .ite h (.ite h (.bootUnlessHeld h))

protected theorem Canonical.lockPlls {d} (h : Canonical d) : Canonical (lockPlls d) := h

protected theorem Canonical.effPllLock {d} (h : Canonical d) : Canonical (effPllLock d) := .ite h (.ite h h.lockPlls)

protected theorem Canonical.effClockLoss {d} (h : Canonical d) : Canonical (effClockLoss d) := .ite h (.ite h.holdClock h.raiseFatal)

protected theorem Canonical.effClockBack {d} (h : Canonical d) : Canonical (effClockBack d) :=
  .ite h (.ite (.lockPlls h) (.bootUnlessHeld (.lockPlls h)))

protected theorem Canonical.effTripRelease {d} (h : Canonical d) : Canonical (effTripRelease d) := .ite h (.bootUnlessHeld (.setInterval h))

protected theorem Canonical.aonReset {d0} (h : Canonical d0) : Canonical (aonReset d0) := h.endSession

protected theorem Canonical.effAonLow {d} (h : Canonical d) : Canonical (effAonLow d) := h.aonReset

protected theorem Canonical.effAonGood {d} (h : Canonical d) : Canonical (effAonGood d) := .ite h h.aonReset

protected theorem Canonical.effLodgeDip {d} (h : Canonical d) : Canonical (effLodgeDip d) := by
  unfold effLodgeDip
  extract_lets d1
  have h1 : Canonical d1 := h.memClear
  exact .ite (.loseBerths h1.tellLoss) h1

protected theorem Canonical.loadWire {d e} (h : Canonical d) : Canonical (loadWire d e) := .ite h h.modMod

protected theorem Canonical.loadRemap {d} (h : Canonical d) : Canonical (loadRemap d) := .ite (h.foldl (fun _ _ h => h.mapRow)) h

protected theorem Canonical.loadFuses {d} (h : Canonical d) : Canonical (loadFuses d) :=
  .retarget (.applyVariant (.foldl (.loadRemap h) (fun _ _ h => h.loadWire)))

protected theorem Canonical.effFuseSense {d0} (h : Canonical d0) : Canonical (effFuseSense d0) := by
  unfold effFuseSense
  extract_lets _ _ d _ d1 _ d2
  have h0 : Canonical d := h
  have h1 : Canonical d1 := h0.loadFuses
  have h2 : Canonical d2 := .drew (by simpa only [Canonical] using h1)
  refine .ite h (.ite (.bootFail (by simpa only [Canonical] using h0)) ?_)
  split
  exacts [.ite h2 h2.applyGrant, h2]

protected theorem Canonical.exclude {cause d c} (h : Canonical d) : Canonical (exclude cause d c) := .ite h h

protected theorem Canonical.loadPwr {d} (h : Canonical d) : Canonical (loadPwr d) := h

protected theorem Canonical.loadTrims {d} (h : Canonical d) : Canonical (loadTrims d) := h

protected theorem Canonical.applyRepair {d e} (h : Canonical d) : Canonical (applyRepair d e) := .ite h (.settleFree h)

protected theorem Canonical.applyRepairs {d} (h : Canonical d) : Canonical (applyRepairs d) := .ite (h.foldl (fun _ _ h => h.applyRepair)) h

protected theorem Canonical.failDestructive {d r} (h : Canonical d) : Canonical (failDestructive d r) := by
  unfold failDestructive
  dsimp only
  repeat' split
  exacts [h, h.exclude, h.mapRow.logRepair]

protected theorem Canonical.failReadOnly {d r} (h : Canonical d) : Canonical (failReadOnly d r) :=
  .ite h (.ite h.noteCe (.ite h.exclude (.noteUe h)))

protected theorem Canonical.effCalEnd {failing d} (h : Canonical d) : Canonical (effCalEnd failing d) := by
  unfold effCalEnd
  dsimp only
  repeat' split
  exacts [h, .memClear (h.loadPwr.loadTrims.applyTrims.applyRepairs.foldl (fun _ _ h => h.failDestructive)),
    h.loadPwr.loadTrims.applyTrims.applyRepairs.foldl (fun _ _ h => h.failReadOnly)]

protected theorem Canonical.loadTdig {l d} (h : Canonical d) : Canonical (loadTdig l d) := h.foldl fun _ _ h => h.modCore

protected theorem Canonical.loadGrants {l d} (h : Canonical d) : Canonical (loadGrants l d) := h

protected theorem Canonical.startFirmware {slots d} (h : Canonical d) : Canonical (startFirmware slots d) := by
  unfold startFirmware
  extract_lets img d1 t _ d2
  have h1 : Canonical d1 := h.loadGrants.loadTdig
  have h2 : Canonical d2 := by simpa only [d2, Canonical] using h1
  exact .ite h2.writeSection h2

protected theorem Canonical.effFirmware {d} (h : Canonical d) : Canonical (effFirmware d) := by
  unfold effFirmware
  repeat' split
  exacts [h, h.startFirmware, h.bootFail]

protected theorem Canonical.effBlockSend {d} (h : Canonical d) : Canonical (effBlockSend d) := by
  unfold effBlockSend
  dsimp only
  split
  · exact h
  · split
    · exact .ite h (.cons (.send h))
    · split
      · exact h
      · exact .cons (.send h)

protected theorem Canonical.effBlockReceive {c block writeOk d} (h : Canonical d) : Canonical (effBlockReceive c block writeOk d) :=
  .ite h (.ite h.putStore.modCore h.putStore)

protected theorem Canonical.startSelfTest {d} (h : Canonical d) : Canonical (startSelfTest d) := h

protected theorem Canonical.effRoundCheck {d} (h : Canonical d) : Canonical (effRoundCheck d) :=
  .ite h (.ite h.startSelfTest (.ite (.startSelfTest (h.foldl (fun _ _ h => h.exclude))) h))

protected theorem Canonical.endSelfTest {d} (h : Canonical d) : Canonical (endSelfTest d) := by
  unfold endSelfTest
  extract_lets d1
  have h1 : Canonical d1 := h.foldl fun _ _ h => h.modCore
  simpa only [Canonical] using h1.memClear (a := 0x100000000) (n := 0x10000000)

protected theorem Canonical.effReport {r d} (h : Canonical d) : Canonical (effReport r d) := by
  unfold effReport
  dsimp only
  split
  · exact h
  · split
    · exact h.bootFail
    · exact .ite h (.ite (.endSelfTest (.ite h (.exclude h))) (.ite h (.exclude h)))

protected theorem Canonical.effReportTimeout {d} (h : Canonical d) : Canonical (effReportTimeout d) :=
  .ite h (.endSelfTest (h.foldl (fun _ _ h => h.exclude)))

protected theorem Canonical.effReady {micros d} (h : Canonical d) : Canonical (effReady micros d) :=
  .ite h (.stewardTurn (.ite (.writeHlt (.ite (.logFault (.eachWindow (fun _ _ h => h.effWinOpen) (.postEvent h))) (.eachWindow (fun _ _ h
    => h.effWinOpen) (.postEvent h)))) (.ite (.logFault (.eachWindow (fun _ _ h => h.effWinOpen) (.postEvent h))) (.eachWindow (fun _ _ h =>
    h.effWinOpen) (.postEvent h)))))


/-! ### Register writes -/

protected theorem Canonical.onLow {w f d} (hf : ∀ x d, Canonical d → Canonical (f x d)) (h : Canonical d) : Canonical (onLow w f d) :=
  .ite (hf _ _ h) h

protected theorem Canonical.onHigh {w f d} (hf : ∀ x d, Canonical d → Canonical (f x d)) (h : Canonical d) : Canonical (onHigh w f d) :=
  .ite (hf _ _ h) h

protected theorem Canonical.putCons {c i w d} (h : Canonical d) : Canonical (putCons c i w d) := by
  unfold putCons
  dsimp only
  split
  exacts [h, h, h, h]

protected theorem Canonical.writeDie {w o d} (h : Canonical d) : Canonical (writeDie w o d) := by
  unfold writeDie
  dsimp only
  split
  · exact h.onLow fun _ _ h => .ite h h
  · exact .ite h h
  · exact h.onLow fun _ _ h => h
  · exact .ite h h
  · exact h
  · exact h.onLow fun _ _ h => .ite (.snapshot h) h
  · split
    · exact .ite h.putCons h
    · exact h

protected theorem Canonical.writeClk {w o d} (h : Canonical d) : Canonical (writeClk w o d) := .ite (h.onLow (fun _ _ h => .ite h h)) h

protected theorem Canonical.domWrite {w n d} (h : Canonical d) : Canonical (domWrite w n d) := h.modDomain

protected theorem Canonical.writePwr {w o d} (h : Canonical d) : Canonical (writePwr w o d) := by
  unfold writePwr
  dsimp only
  repeat' split
  exacts [h.onLow (fun _ _ h => h.effTarget), h.onHigh (fun _ _ h => h), h.domWrite, h]

protected theorem Canonical.writeThm {w o d} (h : Canonical d) : Canonical (writeThm w o d) := by
  unfold writeThm
  dsimp only
  split
  exacts [h.onLow (fun _ _ h => h), h, h]

protected theorem Canonical.writeKh {w o d} (h : Canonical d) : Canonical (writeKh w o d) := by
  unfold writeKh
  split
  exacts [.ite (h.onLow (fun _ _ h => .ite h.effWinOpen h.effWinClose)) h, h]

protected theorem Canonical.writePhReg {w o d} (h : Canonical d) : Canonical (writePhReg w o d) := by
  unfold writePhReg
  dsimp only
  split
  exacts [h.giveBits, h.effPhRelease, h.onLow (fun _ _ h => h), h]

protected theorem Canonical.writeHl {w o d} (h : Canonical d) : Canonical (writeHl w o d) := by
  unfold writeHl
  dsimp only
  split
  · exact h.onLow fun _ _ h => h
  · exact h.onLow fun _ _ h => h
  · exact h.onLow fun _ _ h => .ite h h
  · split
    · exact .ite h h
    · exact h

protected theorem Canonical.portWrite {c v d} (h : Canonical d) : Canonical (portWrite c v d) := h.modCore

protected theorem Canonical.writeMesh {w o d} (h : Canonical d) : Canonical (writeMesh w o d) := by
  unfold writeMesh
  dsimp only
  split
  · exact .onHigh (fun _ _ h => h) (h.onLow (fun _ _ h => h))
  · exact .ite h h
  · exact h.onLow fun _ _ h => h
  · split
    · exact h.portWrite
    · exact h

protected theorem Canonical.writeTly {w o d} (h : Canonical d) : Canonical (writeTly w o d) := by
  unfold writeTly
  dsimp only
  split
  exacts [.ite (h.onLow (fun _ _ h => h)) h, h]

protected theorem Canonical.writeLgr {w o d} (h : Canonical d) : Canonical (writeLgr w o d) := by
  unfold writeLgr
  dsimp only
  split
  · exact h
  · exact .ite h h
  · exact h.onLow fun _ _ h => h
  · exact h.onLow fun _ _ h => h
  · exact h
  · exact h
  · exact h
  · exact h.onLow fun _ _ h => h
  · split
    · exact .ite (.onHigh (fun _ _ h => h) (h.onLow (fun _ _ h => h))) h
    · exact h

protected theorem Canonical.writeLdg {w o d} (h : Canonical d) : Canonical (writeLdg w o d) := by
  unfold writeLdg
  dsimp only
  split
  · exact h.onLow fun _ _ h => h
  · exact .ite h h
  · split
    · exact h
    · exact h

protected theorem Canonical.loopWrite {v d} (h : Canonical d) : Canonical (loopWrite v d) := .ite h (.ite h h)

protected theorem Canonical.writeTst {w o d} (h : Canonical d) : Canonical (writeTst w o d) := .ite (h.onLow (fun _ _ h => h.loopWrite)) h

protected theorem Canonical.writeCore {w c o d} (h : Canonical d) : Canonical (writeCore w c o d) := by
  unfold writeCore
  dsimp only
  split
  exacts [h.onLow (fun _ _ h => h.modCore), .onHigh (fun _ _ h => h.modCore) (h.onLow (fun _ _ h => h.modCore)),
    .onHigh (fun _ _ h => h.modCore) (h.onLow (fun _ _ h => h.modCore)), h.modCore, h.modCore, .ite h.modCore h,
    h.onLow (fun _ _ h => h.modCore), .onHigh (fun _ _ h => h.modCore) (h.onLow (fun _ _ h => h.modCore)),
    .ite h.writeRing (.ite h.modCore (.ite h.modCore h))]

protected theorem Canonical.stewRegWrite {w o d} (h : Canonical d) : Canonical (stewRegWrite w o d) :=
  .ite h.writeDie (.ite h.writeClk (.ite h.writePwr (.ite h.writeThm (.ite h (.ite h.writeKh (.ite h.writePhReg (.ite h.writeHl (.ite
    h.writeMesh (.ite h.writeTly (.ite h.writeLgr (.ite h.writeLdg (.ite h.writeTst (.ite h.writeCore h)))))))))))))

protected theorem Canonical.ceilWrite {v d} (h : Canonical d) : Canonical (ceilWrite v d) := h

protected theorem Canonical.grantWrite {w n i d} (h : Canonical d) : Canonical (grantWrite w n i d) := h.modWin

protected theorem Canonical.keyWrite {w o d} (h : Canonical d) : Canonical (keyWrite w o d) := by
  unfold keyWrite
  dsimp only
  split
  · exact h
  · split
    · exact h.onHigh fun _ _ h => h.ceilWrite
    · split
      · exact .onHigh (fun _ _ h => .ite h h) (h.onLow (fun _ _ h => .ite h h))
      · exact .onHigh (fun _ _ h => h) (h.onLow (fun _ _ h => h))
      · exact .ite h.grantWrite h
      · exact .ite h.modCore h

protected theorem Canonical.regWrite {w o d} (h : Canonical d) : Canonical (regWrite w o d) := .ite h (.ite h.keyWrite h.stewRegWrite)

protected theorem Canonical.effRegister {agent off v d} (h : Canonical d) : Canonical (effRegister agent off v d) := .ite h h.regWrite

protected theorem Canonical.onDieReg {c f d} (hf : ∀ d, Canonical d → Canonical (f d)) (h : Canonical d) : Canonical (onDieReg c f d) :=
  .ite h (hf _ h)

protected theorem Canonical.onCoreReg {c f d} (h : Canonical d) : Canonical (onCoreReg c f d) := h.onDieReg fun _ h => h.modCore

protected theorem Canonical.effPortWrite {c v d} (h : Canonical d) : Canonical (effPortWrite c v d) := .ite h h.portWrite


/-! ### The test access port -/

protected theorem Canonical.loadIr {code ok f d} (hf : ∀ d, Canonical d → Canonical (f d)) (h : Canonical d) :
    Canonical (loadIr code ok f d) :=
  .ite h (.ite (hf _ h) h)

protected theorem Canonical.effTapReset {d} (h : Canonical d) : Canonical (effTapReset d) := .ite h h.endSession

protected theorem Canonical.effIdcode {d} (h : Canonical d) : Canonical (effIdcode d) := h.loadIr fun _ h => h.send

protected theorem Canonical.effSample {cells d} (h : Canonical d) : Canonical (effSample cells d) := h.loadIr fun _ h => h

protected theorem Canonical.effExtest {d} (h : Canonical d) : Canonical (effExtest d) := h.loadIr fun _ h => h

protected theorem Canonical.effStmEnter {mult d} (h : Canonical d) : Canonical (effStmEnter mult d) := h.loadIr fun _ h => .ite h h

protected theorem Canonical.effLoopSelect {v d} (h : Canonical d) : Canonical (effLoopSelect v d) :=
  h.loadIr fun _ h => .ite h h.loopWrite

protected theorem Canonical.openStew {d n} (h : Canonical d) : Canonical (openStew d n) := .drew h

protected theorem Canonical.haltThread {c t halt d} (h : Canonical d) : Canonical (haltThread c t halt d) := .ite h h.modThread

protected theorem Canonical.haltSteward {n halt d} (h : Canonical d) : Canonical (haltSteward n halt d) := .ite h.openStew h

protected theorem Canonical.stepTarget {v d} (h : Canonical d) : Canonical (stepTarget v d) := .ite h (.ite h.modThread h.openStew)

protected theorem Canonical.ctlWrite {v d} (h : Canonical d) : Canonical (ctlWrite v d) :=
  .ite (.stepTarget (.ite h.haltThread h.haltSteward)) (.ite h.haltThread h.haltSteward)

protected theorem Canonical.regValueWrite {x d} (h : Canonical d) : Canonical (regValueWrite x d) :=
  .ite h (.ite (.ite (.modThread h) h) (.ite h h))

protected theorem Canonical.carryOut {write off data d} (h : Canonical d) : Canonical (carryOut write off data d).2 := by
  unfold carryOut
  split
  case h_1 => cases write; exacts [h.drew.senseRows, h.putSlice]
  case h_2 =>
    split
    · cases write; exacts [h, h.ctlWrite]
    · split
      · cases write; exacts [h, h.regValueWrite]
      · cases write; exacts [h.drew, h.regWrite]
  case h_3 => cases write; exacts [h, h.putStore]
  case h_4 => cases write; exacts [h, h.memWrite]

protected theorem Canonical.accessDone {denied off data d} (h : Canonical d) : Canonical (accessDone denied off data d) := h

protected theorem Canonical.effAccess {write off data d} (h : Canonical d) : Canonical (effAccess write off data d) :=
  h.loadIr fun _ h => .ite h.carryOut.accessDone h.accessDone

protected theorem Canonical.effLoopStart {gate mods d} (h : Canonical d) : Canonical (effLoopStart gate mods d) := .ite h h.loopWrite

protected theorem Canonical.effLoopDone {rs d} (h : Canonical d) : Canonical (effLoopDone rs d) := .ite h h

end Sys2Proof.Machine
end


section
/-! PROOF. O58: every command and every ACLK keep the memories canonical. -/

namespace Sys2Proof.Machine

/-! ### One ACLK without a command, and every command -/

/-- The die after a command, when it completes, is canonical. -/
def CanonicalNext (o : Host.Outcome State Fault Refusal) : Prop := ∀ t, o = .next t → Canonical t.die

protected theorem CanonicalNext.next {p : List Instr} {u : Die} (h : Canonical u) : CanonicalNext (.next ⟨p, u⟩) := by
  rintro _ ⟨⟩
  exact h

/-- A command whose operands name nothing leaves the die as it is. -/
protected theorem CanonicalNext.onDieIf {ok : Bool} {f : Die → Die} {s : State} (h : Canonical s.die) (hf : Canonical (f s.die)) :
    CanonicalNext (onDieIf ok f s) := by
  cases ok
  exacts [.next h, .next hf]

protected theorem Canonical.exec {s : State} (h : Canonical s.die) (i : Instr) : CanonicalNext (exec i s) := by
  cases i with
  | nop => exact .next (h.dispatch fun _ _ h => h.bodyNop)
  | halt => exact .next h.effHalt
  | br => exact .next (h.dispatch fun _ _ h => h.bodyBr)
  | brc => exact .next (h.dispatch fun _ _ h => h.bodyBrc)
  | loop => exact .next (h.dispatch fun _ _ h => h.bodyLoop)
  | waitev => exact .next (h.dispatch fun _ _ h => h.bodyWaitev)
  | waitevResume => exact .next h.effWaitevResume
  | salu => exact .next (h.dispatch fun _ _ h => h.bodySalu)
  | sli => exact .next (h.dispatch fun _ _ h => h.bodySli)
  | scmp => exact .next (h.dispatch fun _ _ h => h.bodyScmp)
  | wbl => exact .next (h.dispatch fun _ _ h => h.enqueue fun _ _ _ _ h => h.issueWbl)
  | wbgo => exact .next (h.dispatch fun _ _ h => h.enqueue fun _ _ _ _ h => h.issueWbgo)
  | wbwait => exact .next (h.dispatch fun _ _ h => h.bodyWbwait)
  | wbwaitResume => exact .next h.effWbwaitResume
  | wbnext => exact .next (h.dispatch fun _ _ h => h.enqueue fun _ _ _ _ h => h.issueWbnext)
  | wbnextStart => exact .next h.effWbnextStart
  | caravan => exact .next (h.dispatch fun _ _ h => h.enqueue fun _ _ _ _ h => h.issueCaravan)
  | relay => exact .next (h.dispatch fun _ _ h => h.enqueue fun _ _ _ _ h => h.issueRelay)
  | mma => exact .next (h.dispatch fun _ _ h => h.lodgeBody fun _ _ _ _ h => h.pacedMma)
  | resload => exact .next (h.dispatch fun _ _ h => h.lodgeBody fun _ _ _ _ h => h.pacedResload)
  | preload => exact .next (h.dispatch fun _ _ h => h.enqueue fun _ _ _ _ h => h.pacedPreload)
  | drain => exact .next (h.dispatch fun _ _ h => h.lodgeBody fun _ _ _ _ h => h.issueDrain)
  | swap => exact .next (h.dispatch fun _ _ h => h.enqueue fun _ _ _ _ h => h.issueSwap)
  | aclr => exact .next (h.dispatch fun _ _ h => h.enqueue fun _ _ _ _ h => h.issueAclr)
  | split => exact .next h.effSplit
  | reduce => exact .next (h.dispatch fun _ _ h => h.enqueue fun _ _ _ _ h => h.issueReduce)
  | chainred => exact .next (h.dispatch fun _ _ h => h.enqueue fun _ _ _ _ h => h.issueChainred)
  | merge => exact .next (h.dispatch fun _ _ h => h.enqueue fun _ _ _ _ h => h.pacedMerge)
  | vop => exact .next (h.dispatch fun _ _ h => h.enqueue fun _ _ _ _ h => h.pacedVop)
  | vcvt => exact .next (h.dispatch fun _ _ h => h.enqueue fun _ _ _ _ h => h.pacedVcvt)
  | vfn => exact .next (h.dispatch fun _ _ h => h.enqueue fun _ _ _ _ h => h.pacedVfn)
  | vred => exact .next (h.dispatch fun _ _ h => h.enqueue fun _ _ _ _ h => h.pacedVred)
  | vperm => exact .next (h.dispatch fun _ _ h => h.enqueue fun _ _ _ _ h => h.pacedVperm)
  | ldgrdStream => exact .next h.effLdgrd
  | ldgrdCopy => exact .next h.effLdgrd
  | ldgwr => exact .next (h.dispatch fun _ _ h => h.enqueue fun _ _ _ _ h => h.issueLdgwr)
  | berthLookup => exact .next h.effBerth
  | berthTouch => exact .next h.effBerth
  | tallyAdd => exact .next h.effTally
  | tallySet => exact .next h.effTally
  | tallyWait => exact .next h.effTally
  | tallyArrive => exact .next h.effTally
  | tallyArm => exact .next h.effTally
  | stamp => exact .next (h.dispatch fun _ _ h => h.enqueue fun _ _ _ _ h => h.issueStamp)
  | stampPost => exact .next h.effStampPost
  | fault => exact .next (h.dispatch fun _ _ h => h.bodyFault)
  | status => exact .next (h.dispatch fun _ _ h => h.bodyStatus)
  | queueIssue => exact .next h.effQueueIssue
  | arrayCold => exact .next h.effArrayCold
  | slotComplete => exact .next h.effSlotComplete
  | slotReadVerdict => exact .next h.effVerdict
  | statusWordDelivery => exact .next h.effDelivery
  | ringBufferFull => exact .next h.effBufferFull
  | ringBufferRelease => exact .next h.effBufferRelease
  | waybillTileRequest => exact .next h.effTileRequest
  | porterLineFill => exact .next h.effLineFill
  | outboundWriteAck => exact .next h.effWriteAck
  | caravanFlitArrival => exact .next h.cons.effCaravanFlit
  | streamCreditArrival => exact .next h.effCreditArrival
  | handoverFlitArrival => exact .next h.cons.effHandoverFlit
  | chainFlitArrival => exact .next h.cons.effChainFlit
  | caravanStall => exact .next h.effCaravanStall
  | relayStall => exact .next h.effRelayStall
  | chainStall => exact .next h.effChainStall
  | itineraryAbort => exact .next h.effItinAbort
  | abortLinksSettled => exact .next h.effSettled
  | refreshSlot => exact .next h.effRefreshSlot
  | scrubSlot => exact .next h.effScrubSlot
  | softRepairRetire => exact .next h.effRetire
  | ledgerCommit => exact .next h.effCommit
  | ledgerCacheFill => exact .next h.effCacheFill
  | movePhaseWrite => exact .next h.effPhaseWrite
  | moveCopyDone => exact .next h.effCopyDone
  | moveVerify => exact .next h.effVerify
  | moveSwitchWrite => exact .next h.effSwitch
  | moveRelease => exact .next h.effRelease
  | ledgerRecovery => exact .next h.effRecovery
  | ledgerLost => exact .next h.effLost
  | demotionStart => exact .next h.effDemotion
  | cellarRewrite => exact .next h.effRewrite
  | epochTick => exact .next h.effEpoch
  | ageSweep => exact .next h.effSweep
  | meshPacketDelivery => exact .next h.effPacket
  | nackReceipt => exact .next h.effNack
  | meshUe => exact .next h.raiseFatal
  | tallyReqArrival => exact .next h.effTallyReq
  | tallyWakeSend => exact .next h.effWakeSend
  | tallyWakeDelivery => exact .next h.effWakeDelivery
  | tallyReply => exact .next h.effTallyReply
  | tallyCancel => exact .next h.effTallyCancel
  | tallyOp => exact .next (.ite h h.takeEntry)
  | emuTally => exact .next (.ite h.takeEntry h)
  | phGive => exact .next h.effPhGive
  | phRelease => exact .next h.effPhRelease
  | responsePost => exact .next h.effResponsePost
  | eventPost => exact .next h.effEventPost
  | hello => exact .next h.effHello
  | openContext => exact .next h.effOpenContext
  | closeContext => exact .next h.effCloseContext
  | formParty => exact .next h.effFormParty
  | disbandParty => exact .next h.effDisbandParty
  | loadProgram => exact .next h.effLoadProgram
  | saveContext => exact .next h.effSaveContext
  | restoreContext => exact .next h.effRestoreContext
  | submit => exact .next h.effSubmit
  | itineraryAdmit => exact .next h.effAdmitFrom
  | itineraryComplete => exact .next h.effComplete
  | timeLimit => exact .next h.effTimeLimit
  | abort => exact .next h.effAbort
  | queryProgress => exact .next h.effQueryProgress
  | berthAlloc => exact .next h.effBerthAlloc
  | berthFree => exact .next h.effBerthFree
  | berthMove => exact .next h.effBerthMove
  | ledgerQuery => exact .next h.effLedgerQuery
  | setPhaseOp => exact .next h.effSetPhaseOp
  | powerStatus => exact .next h.effPowerStatus
  | tallyMsgAdd => exact .next h.effTallyMsg
  | tallyMsgSet => exact .next h.effTallyMsg
  | tallyMsgRead => exact .next h.effTallyMsg
  | calRead => exact .next h.effCalRead
  | calWrite => exact .next h.effCalWrite
  | fwStage => exact .next h.effFwStage
  | fwCommit => exact .next h.effFwCommit
  | attest => exact .next h.effAttest
  | fuseProgramSecver => exact .next h.effFuse
  | fuseProgramOwnerKey => exact .next h.effFuse
  | fuseProgramDowngrade => exact .next h.effFuse
  | fuseProgramDebugDisable => exact .next h.effFuse
  | fuseProgramSoftRepair => exact .next h.effFuse
  | diagEcho => exact .next h.effDiagEcho
  | diagCounters => exact .next h.effDiagCounters
  | diagLog => exact .next h.effDiagLog
  | peerMessage => exact .next h.effPeer
  | hubReadRequest => exact .onDieIf h h.effHubRead
  | hubWriteRequest => exact .onDieIf h h.effHubWrite
  | rspData => exact .next h.effRsp
  | rspAck => exact .next h.effRsp
  | pkgMemState => exact .next h.effPkgMem
  | dieFenced => exact .next h.effFenced
  | dieRejoined => exact .next h.effRejoined
  | cellarBins => exact .next h.effCellarBins
  | budget => exact .next h.effBudget
  | credit => exact .onDieIf h h.effCredit
  | flitAccept => exact .onDieIf h h.effFlit
  | replayTimeout => exact .onDieIf h h.effReplayTimeout
  | creditFlitTimer => exact .onDieIf h h.effCreditTimer
  | quickRetrain => exact .onDieIf h h.effRetrain
  | quickRetrainDone => exact .onDieIf h h.effRetrainDone
  | gateTakeDown => exact .onDieIf h h.effTakeDown
  | gateDrainDone => exact .next h.effDrainDone
  | rxClockLoss => exact .next h.effRxLoss
  | linkLost => exact .next h.effLinkLost
  | bootGrant => exact .next h.effGrant
  | offer => exact .next h.effOffer
  | digestLo => exact .next h.effDigestLo
  | digestHi => exact .next h.effDigestHi
  | agree => exact .next h.effAgree
  | linkUp => exact .next h.effLinkUp
  | newmask => exact .next h.effNewmask
  | drainPoint => exact .onDieIf h h.effDrainPoint
  | ack => exact .next h.effAck
  | sidebandResendTimeout => exact .next h.effResend
  | trainFastDone => exact .next h.effTrainFast
  | trainFullDone => exact .next h.effTrainFull
  | readinessDone => exact .next h.effReadiness
  | windowBoundary => exact .next h.effWindow
  | sixteenWindowMark => exact .next h.effMark
  | safeBudgetTimeout => exact .next h.effSafe
  | glideVoltageStep => exact .next h.effVoltageStep
  | glideSlewEnd => exact .next h.effSlewEnd
  | vctlResponse => exact .next h.effVctlResponse
  | vctlTimeout => exact .next h.effVctlTimeout
  | vctlStatusPoll => exact .next h.effVctlPoll
  | droopDetect => exact .next h.effDroop
  | droopRecovery => exact .next h.effDroopEnd
  | thermalTrip => exact .onDieIf h h.effTrip
  | thermalTripRelease => exact .next h.effTripRelease
  | clockLoss => exact .next h.effClockLoss
  | clockRecovery => exact .next h.effClockBack
  | porstNAssert => exact .next h.effPorst
  | porstNRelease => exact .next h.effPorstRise
  | hubRstNAssert => exact .next h.effHubRst
  | hubRstNRelease => exact .next h.effHubRstRise
  | pllLock => exact .next h.effPllLock
  | fuseSenseEnd => exact .next h.effFuseSense
  | calibrationLodgeTestEnd => exact .next h.effCalEnd
  | firmwareStart => exact .next h.effFirmware
  | broadcastBlockSend => exact .next h.effBlockSend
  | broadcastBlockReceive => exact .onDieIf h h.effBlockReceive
  | broadcastRoundCheck => exact .next h.effRoundCheck
  | selfTestReport => exact .next h.effReport
  | selfTestTimeout => exact .next h.effReportTimeout
  | ready => exact .next h.effReady
  | vddEfuseGood => exact .next h.effEfuseGood
  | vddEfuseLoss => exact .next h.effEfuseLoss
  | vddAonLow => exact .next h.effAonLow
  | vddLodgeDip => exact .next h.effLodgeDip
  | stewardHeartbeat => exact .next h.effHeartbeat
  | stewardHang => exact .next h.effHang
  | dieFatal => exact .next h.raiseFatal
  | partyReset => exact .next h.effPartyReset
  | partyResetEnd => exact .next h.effPartyResetEnd
  | stopTimeout => exact .next h.effStopTimeout
  | drainTimeout => exact .next h.effDrainTimeout
  | partyResetTimeout => exact .next h.effPartyTimeout
  | conservationCheck => exact .next h.effConservation
  | dbgChal => exact .next h.effDbgChal
  | dbgResp => exact .next h.effDbgResp
  | debugSessionOpen => exact .next h.effSessionOpen
  | debugSessionExpiry => exact .next h.effSessionExpiry
  | dbgAccess => exact .next h.effAccess
  | tstDbgHalt => exact .next h.effAccess
  | tstDbgStep => exact .next h.effAccess
  | tapReset => exact .next h.effTapReset
  | idcode => exact .next h.effIdcode
  | samplePreload => exact .next h.effSample
  | extest => exact .next h.effExtest
  | stmEnter => exact .next h.effStmEnter
  | wrap => exact .next (h.loadIr (fun _ h => h))
  | scan => exact .next (h.loadIr (fun _ h => h))
  | mbist => exact .next (h.loadIr (fun _ h => h))
  | tier => exact .next (h.loadIr (fun _ h => h))
  | loopSelect => exact .next h.effLoopSelect
  | bypass => exact .next (h.loadIr (fun _ h => h))
  | tstLoopStart => exact .next h.effLoopStart
  | loopbackDone => exact .next h.effLoopDone
  | khFwinOpen => exact .next h.effWinOpen
  | khFwinClose => exact .next h.effWinClose
  | windowCloseComplete => exact .next h.effWinClosed
  | dieConsSnap => exact .next (.ite h h.snapshot)
  | pwrOpTargetWrite => exact .next (.ite h h.effTarget)
  | accCfgWrite => exact .next h.onCoreReg
  | abftCfgWrite => exact .next h.onCoreReg
  | coreRingWrite => exact .next (h.onDieReg (fun _ h => h.writeRing))
  | coreSrSeedWrite => exact .next h.onCoreReg
  | meshPortWrite => exact .next h.effPortWrite
  | registerWrite => exact .next h.effRegister
  | vddAonGood => exact .next h.effAonGood
  | fuseWordProgrammed => exact .next h.effFuseWord
  | rxClockEdgeReturn => exact .next h.effRxReturn
  | packageFatalSignal => exact .next h.raisePackage
  | vectorInstructionDone => exact .next h.effVectorDone
  | lodgeCopyDone => exact .next h.effLodgeCopyDone

protected theorem Canonical.step {s t : State} (h : Canonical s.die) (hs : step s = .next t) : Canonical t.die := by
  obtain ⟨pending, d⟩ := s
  cases pending with
  | nil => exact CanonicalNext.next h.idle t hs
  | cons i rest => exact Canonical.exec (s := ⟨rest, d⟩) h i t hs

/-- Settles O58: every writer of a memory keeps its canonical form, and a step is made of such writers and of updates of other fields. -/
theorem memoriesStayCanonical : Obligations.MemoriesStayCanonical := by
  unfold Obligations.MemoriesStayCanonical
  intro s t hmem hpkg hflash hstep
  exact Canonical.step ⟨hmem, hpkg, hflash⟩ hstep

end Sys2Proof.Machine
end

section
/-! PROOF. Hand-over and release of pigeonholes (O25). -/

namespace Sys2Proof.Machine

/-! ### One bit written -/

theorem setBits_shiftLeft {k : Nat} (hk : k < 64) : setBits (1#64 <<< k) = [k] := by
  have hbit : ∀ n ∈ List.range 64, bitB (1#64 <<< k) n = (n == k) := by
    intro n hn
    have hn : n < 64 := List.mem_range.mp hn
    simp only [bitB, BitVec.getLsbD_shiftLeft, BitVec.getLsbD_one]
    rw [Bool.eq_iff_iff]
    simp
    omega
  unfold setBits
  rw [List.filter_congr hbit, List.filter_beq, List.count_eq_one_of_mem List.nodup_range (List.mem_range.mpr hk)]
  rfl

theorem giveDeny_host {d : Die} {k : Nat} (hk : k < 48) : giveDeny d .host (1#64 <<< k) = none := by
  have hin : 1#64 <<< k &&& ~~~(giveMask .host) = 0#64 := by
    have hmask : ∀ i < 48, (giveMask .host).getLsbD i = true := by decide
    refine BitVec.eq_of_getLsbD_eq fun i hi => ?_
    rw [BitVec.getLsbD_and, BitVec.getLsbD_not, BitVec.getLsbD_shiftLeft, BitVec.getLsbD_one, BitVec.getLsbD_zero]
    by_cases h : i = k
    · simp [h, hmask k hk]
    · simp
      omega
  simp [giveDeny, hin]

theorem effPhGive_host {d : Die} {k : Nat} (hup : linkServes d = true) (hk : k < 48) :
    effPhGive .host (1#64 <<< k) d = stewardTurn (giveOne d k) := by
  simp [effPhGive, hup, giveDeny_host hk, giveBits, setBits_shiftLeft (show k < 64 by omega)]

/-! ### What one hand-over does (R260, R261) -/

theorem unusedPh_low {d : Die} {k : Nat} (hk : k < 48) : unusedPh d k = false := by
  simp [unusedPh]; omega

theorem giveOne_held {d : Die} {k : Nat} (h : owns d k = true) : giveOne d k = ignoreGive d := by simp [giveOne, h]

theorem giveOne_request {d : Die} {k : Nat} (hk : k < 32) (h : owns d k = false) :
    giveOne d k = { d with stew := { d.stew with
      own := putFld d.stew.own k 1 1, taken := d.stew.taken + 1,
      requests := d.stew.requests ++ [⟨.host, BitVec.ofNat 8 k, false, false, d.stew.taken, memRead d.mem (pigeonBase k) 256⟩] } } := by
  simp [giveOne, h, unusedPh_low (show k < 48 by omega), phSource, hk, setOwn, b2n]

theorem giveOne_response {d : Die} {k : Nat} (h32 : 32 ≤ k) (hk : k < 48) (h : owns d k = false) :
    giveOne d k = { d with stew := { d.stew with own := putFld d.stew.own k 1 1 } } := by
  simp [giveOne, h, unusedPh_low hk, phSource, show ¬ k < 32 by omega, show ¬ 48 ≤ k by omega, show ¬ 56 ≤ k by omega, setOwn, b2n]

/-! ### The Steward's turn when nothing waits for it -/

theorem answerUnknown_of_served {n : Nat} {d : Die} (h : ∀ y ∈ d.stew.requests, unserved y = false) : answerUnknown n d = d := by
  cases n with
  | zero => rfl
  | succ n =>
    have hnone : (List.range d.stew.requests.length).find? (fun n => match d.stew.requests[n]? with
        | some m => unserved m && inTurn d n m
        | none => false) = none := by
      refine List.find?_eq_none.mpr fun i _ => ?_
      cases hm : d.stew.requests[i]? with
      | none => simp
      | some m => simp [h m (List.mem_of_getElem? hm)]
    rw [answerUnknown]
    split
    · rfl
    · next heq => exact absurd (hnone.symm.trans heq) (by simp)

theorem postPending_of_zero {d : Die} (h : d.stew.evtPending = 0) : postPending d = d := by
  unfold postPending
  split <;> simp [h]

theorem stewardTurn_idle {d : Die} (h : stewardUp d = false ∨ ((∀ y ∈ d.stew.requests, unserved y = false) ∧ d.stew.evtPending = 0)) :
    stewardTurn d = d := by
  unfold stewardTurn
  obtain hdown | ⟨hserved, hzero⟩ := h
  · simp [hdown]
  · rw [answerUnknown_of_served hserved, postPending_of_zero hzero, ite_self]

/-! ### Refusals (R14) -/

theorem fld_refuseEntry (src : Source) (reason : Nat) (write : Bool) (addr : BitVec 48) (hr : reason < 4) :
    let e : BitVec 64 := packed 64
      [(63, 1, 1), (61, 2, srcCode src), (59, 2, reason), (58, 1, b2n write), (56, 2, srcDie src), (0, 48, addr.toNat)]
    bitB e 63 = true ∧ fld e 61 2 = srcCode src ∧ fld e 59 2 = reason ∧ bitB e 58 = write ∧ fld e 0 48 = addr.toNat := by
  have hsrc : srcCode src < 4 := by cases src <;> simp [srcCode]
  simp only [packed, List.foldl_cons, List.foldl_nil]
  refine ⟨?valid, ?source, ?reason, ?write, ?addr⟩
  case valid => simp [bitB, -BitVec.getLsbD_eq_getElem, getLsbD_putFld]
  case write => cases write <;> simp [bitB, -BitVec.getLsbD_eq_getElem, getLsbD_putFld, b2n]
  case source =>
    rw [fld_putFld_apart, fld_putFld_apart, fld_putFld_apart, fld_putFld_apart, fld_putFld_same] <;> omega
  case reason => rw [fld_putFld_apart, fld_putFld_apart, fld_putFld_apart, fld_putFld_same] <;> omega
  case addr => rw [fld_putFld_same _ _ (by omega), Nat.mod_eq_of_lt addr.isLt]

theorem effPhGive_denied {d : Die} {src : Source} {v : BitVec 64} {r : Nat} (hup : linkServes d = true)
    (h : giveDeny d src v = some r) : effPhGive src v d = refuse src r true (giveAddr d v) d := by
  simp [effPhGive, hup, h]

theorem giveDeny_class {d : Die} {src : Source} {v : BitVec 64} (h : v &&& ~~~(giveMask src) ≠ 0) :
    giveDeny d src v = some rsClassDenied := by simp only [giveDeny, if_pos h]

theorem giveDeny_window {d : Die} {v : BitVec 64} (hin : v &&& ~~~(giveMask .foreign) = 0)
    (h : ∀ i, i < 8 → windowGives v (tabGet Window.reset d.trust.windows i) = false) :
    giveDeny d .foreign v = some rsWindowDenied := by
  have hany : (List.range 8).any (fun i => windowGives v (tabGet Window.reset d.trust.windows i)) = false := by
    simpa using h
  simp [giveDeny, hin, hany]

/-- What a refusal leaves: the count rises, and the log takes the refusal unless it holds one. -/
theorem refuse_spec (d : Die) (src : Source) (reason : Nat) (write : Bool) (addr : BitVec 48) (hr : reason < 4) :
    let u := refuse src reason write addr d
    u = { d with ident := u.ident } ∧
    u.ident = { d.ident with refuseCnt := satInc d.ident.refuseCnt, refuseLog := u.ident.refuseLog } ∧
    (bitB d.ident.refuseLog 63 = true → u.ident.refuseLog = d.ident.refuseLog) ∧
    (bitB d.ident.refuseLog 63 = false → bitB u.ident.refuseLog 63 = true ∧ fld u.ident.refuseLog 61 2 = srcCode src ∧
      fld u.ident.refuseLog 59 2 = reason ∧ bitB u.ident.refuseLog 58 = write ∧ fld u.ident.refuseLog 0 48 = addr.toNat) := by
  refine ⟨rfl, rfl, fun h => ?_, fun h => ?_⟩
  · simp [refuse, h]
  · simpa [refuse, h] using fld_refuseEntry src reason write addr hr

/-! ### Release (R259, R262) -/

theorem effPhRelease_one {d : Die} {k : Nat} (hup : inReset d = false) (hk : k < 64) (h : owns d k = true) :
    effPhRelease (1#64 <<< k) d = markFreed (releasePh k false d) k := by
  simp [effPhRelease, hup, setBits_shiftLeft hk, h]

theorem releasePh_request {d : Die} {k : Nat} (h : responsePh k = false) : releasePh k false d = setOwn d k false := by
  simp [releasePh, h]

theorem releasePh_response {d : Die} {k : Nat} (h : responsePh k = true) :
    releasePh k false d = emitCtrl (setOwn d k false) (phFlit k) := by simp [releasePh, h]

/-- Settles O25: a hand-over of one bit is `giveOne` and a turn of a Steward that has nothing to do; a refused one is `refuse`; a
release of one bit is `releasePh`. -/
theorem pigeonholesChangeHands : Obligations.PigeonholesChangeHands := by
  unfold Obligations.PigeonholesChangeHands
  intro s src v k d msg settled freed gone refused
  have give : ∀ src v, exec (.phGive src v) s = .next (s.withDie (effPhGive src v d)) := fun _ _ => rfl
  have release : ∀ v, exec (.phRelease v) s = .next (s.withDie (effPhRelease v d)) := fun _ => rfl
  have denied : ∀ r, r < 4 → linkServes d = true → giveDeny d src v = some r → refused r := fun r hr hup h =>
    ⟨refuse src r true (giveAddr d v) d, by rw [give, effPhGive_denied hup h], refuse_spec d src r true (giveAddr d v) hr⟩
  refine ⟨?idle, ?class_, ?window, ?request, ?response, ?held, ?releaseRequest, ?releaseResponse⟩
  case idle =>
    intro h
    rw [give, effPhGive, if_pos (by simp [h])]
  case class_ => exact fun hup h => denied 1 (by omega) hup (giveDeny_class h)
  case window =>
    rintro hup hsrc hin h
    subst hsrc
    exact denied 2 (by omega) hup (giveDeny_window hin h)
  case request =>
    rintro hk hown ⟨hup, hquiet⟩ hmsg
    rw [give, effPhGive_host hup (by omega), giveOne_request hk hown, stewardTurn_idle]
    obtain hdown | ⟨hserved, hzero⟩ := hquiet
    · exact .inl hdown
    · obtain hdown | hmsg := hmsg
      · exact .inl hdown
      · refine .inr ⟨fun y hy => ?_, hzero⟩
        obtain hy | hy := List.mem_append.mp hy
        · exact hserved y hy
        · rw [List.mem_singleton.mp hy]; exact hmsg
  case response =>
    rintro h32 hk hown ⟨hup, hquiet⟩
    rw [give, effPhGive_host hup hk, giveOne_response h32 hk hown, stewardTurn_idle (by exact hquiet)]
  case held =>
    rintro hk hown ⟨hup, hquiet⟩
    rw [give, effPhGive_host hup hk, giveOne_held hown, stewardTurn_idle (d := ignoreGive d) hquiet]
    rfl
  case releaseRequest =>
    intro hup hk hown hreq
    rw [release, effPhRelease_one hup hk hown, releasePh_request hreq]
    rfl
  case releaseResponse =>
    intro hup hk hown hresp
    rw [release, effPhRelease_one hup hk hown, releasePh_response hresp]
    rfl

end Sys2Proof.Machine
end

section
/-! PROOF. What the sensing of Lodge rows and the marking of lost berths can touch: the frame of the writes that a reset lands and of the
loss of the Lodge's content (O45). -/

namespace Sys2Proof.Machine

/-- From `d` to `u` only the Lodge's, the Ledger's and the Steward's state, the frames sent and the Consignment counts moved. -/
def RowsSensed (d u : Die) : Prop :=
  ∃ lodge ledger stew out issued returned, u = { d with
    lodge := lodge, ledger := ledger, stew := stew, out := out, flt := { d.flt with issued := issued, returned := returned } }

namespace RowsSensed

theorem refl (d : Die) : RowsSensed d d := ⟨_, _, _, _, _, _, rfl⟩

theorem trans {d e u : Die} : RowsSensed d e → RowsSensed e u → RowsSensed d u := by
  rintro ⟨_, _, _, _, _, _, rfl⟩ ⟨_, _, _, _, _, _, rfl⟩
  exact ⟨_, _, _, _, _, _, rfl⟩

theorem foldl {α : Type} {f : Die → α → Die} (hf : ∀ e x, RowsSensed e (f e x)) (l : List α) (d : Die) :
    RowsSensed d (l.foldl f d) := by
  induction l generalizing d with
  | nil => exact refl d
  | cons x l ih => exact (hf d x).trans (ih (f d x))

theorem ite {p : Prop} {_ : Decidable p} {d a b : Die} (ha : RowsSensed d a) (hb : RowsSensed d b) :
    RowsSensed d (if p then a else b) := by
  split
  exacts [ha, hb]

theorem mem {d u : Die} : RowsSensed d u → u.mem = d.mem := by rintro ⟨_, _, _, _, _, _, rfl⟩; rfl
theorem pkg {d u : Die} : RowsSensed d u → u.pkg = d.pkg := by rintro ⟨_, _, _, _, _, _, rfl⟩; rfl
theorem cores {d u : Die} : RowsSensed d u → u.cores = d.cores := by rintro ⟨_, _, _, _, _, _, rfl⟩; rfl
theorem fatalCause {d u : Die} : RowsSensed d u → u.flt.fatalCause = d.flt.fatalCause := by rintro ⟨_, _, _, _, _, _, rfl⟩; rfl

end RowsSensed

/-! ### Berths lost -/

theorem rowsSensed_sendPeer (d : Die) (p : BitVec 2) (m : PeerMsg) : RowsSensed d (sendPeer d p m) := by
  unfold sendPeer
  exact .ite ⟨_, _, _, _, _, _, rfl⟩ ⟨_, _, _, _, _, _, rfl⟩

theorem rowsSensed_freeLoc (d : Die) (tier loc : Nat) : RowsSensed d (freeLoc d tier loc) :=
  .ite ⟨_, _, _, _, _, _, rfl⟩ (.refl d)

theorem rowsSensed_markLost (d : Die) (h : BitVec 48) (a : Nat) : RowsSensed d (markLost d h a) :=
  .trans (.ite (.refl d) (rowsSensed_freeLoc d _ _)) ⟨_, _, _, _, _, _, rfl⟩

theorem rowsSensed_loseBerths (d : Die) (gone : Nat → Bool) : RowsSensed d (loseBerths d gone) :=
  .foldl (fun e _ => .ite (rowsSensed_markLost e _ _) (.refl e)) _ d

theorem rowsSensed_tellLoss (d : Die) : RowsSensed d (tellLoss d) := .foldl (fun e _ => rowsSensed_sendPeer e _ _) _ d

/-! ### Rows sensed -/

theorem rowsSensed_retireRow (d : Die) (key : Nat) (ue : Bool) : RowsSensed d (retireRow d key ue) := by
  unfold retireRow
  refine .ite (.refl d) ?_
  split
  exacts [⟨_, _, _, _, _, _, rfl⟩, ⟨_, _, _, _, _, _, rfl⟩]

theorem rowsSensed_noteUe (d : Die) (src key : Nat) : RowsSensed d (noteUe d src key) := by
  unfold noteUe
  extract_lets _ _ l d1 d2
  have hd1 : RowsSensed d d1 := ⟨_, _, _, _, _, _, rfl⟩
  exact (RowsSensed.ite hd1 (hd1.trans (rowsSensed_retireRow d1 key true))).trans (rowsSensed_loseBerths d2 _)

theorem rowsSensed_noteCe (d : Die) (key : Nat) : RowsSensed d (noteCe d key) := by
  unfold noteCe
  extract_lets _ _ w count d1
  have hd1 : RowsSensed d d1 := ⟨_, _, _, _, _, _, rfl⟩
  exact .ite (hd1.trans (rowsSensed_retireRow d1 key false)) hd1

theorem rowsSensed_senseRow (src : Nat) (d : Die) (key : Nat) : RowsSensed d (senseRow src d key) :=
  .ite (rowsSensed_noteUe d src key) (.ite (rowsSensed_noteCe d key) (.refl d))

theorem rowsSensed_foldl_senseRow (src : Nat) (l : List Nat) (d : Die) : RowsSensed d (l.foldl (senseRow src) d) :=
  .foldl (fun e key => rowsSensed_senseRow src e key) l d

end Sys2Proof.Machine
end

section
/-! PROOF. Resets, supplies and trips (O45). -/

namespace Sys2Proof.Machine

/-! ### What a reset catches under way -/

theorem cutEvent_landOpen_settled {d : Die} (h : d.ledger.writes = [] ∧ openWrites d = [] ∧ d.fuse.event = none) :
    cutEvent (landOpen d) = drew d := by
  obtain ⟨hw, ho, he⟩ := h
  have hland : landOpen d = drew d := by simp [landOpen, hw, ho]
  simp [hland, cutEvent, drew, he]

theorem putDie_fatalCause (d : Die) (a : Nat) (l : List Byte) : (putDie d a l).flt.fatalCause = d.flt.fatalCause := by
  unfold putDie
  split
  · exact (rowsSensed_foldl_senseRow _ _ d).fatalCause
  · rfl
  · rfl

theorem landWrite_fatalCause (d : Die) (l : LineWrite) : (landWrite d l).flt.fatalCause = d.flt.fatalCause := by
  unfold landWrite
  split_ifs
  exacts [putDie_fatalCause d _ _, rfl, rfl]

theorem foldl_keeps {α β : Type} {f : Die → α → Die} {g : Die → β} (hf : ∀ e x, g (f e x) = g e) (l : List α) (d : Die) :
    g (l.foldl f d) = g d := by
  induction l generalizing d with
  | nil => rfl
  | cons x l ih => exact (ih (f d x)).trans (hf d x)

theorem landOpen_fatalCause (d : Die) : (landOpen d).flt.fatalCause = d.flt.fatalCause := by
  unfold landOpen
  dsimp only [drew]
  rw [foldl_keeps (g := fun e => e.flt.fatalCause), foldl_keeps (g := fun e => e.flt.fatalCause)]
  · intro e x
    split_ifs
    exacts [rfl, rfl]
  · intro e x
    split_ifs
    exacts [landWrite_fatalCause e _, rfl]

theorem cutEvent_fatalCause (d : Die) : (cutEvent d).flt.fatalCause = d.flt.fatalCause := by
  have hword : (cutWord d).flt.fatalCause = d.flt.fatalCause := by
    unfold cutWord
    split
    · rfl
    · split <;> rfl
  unfold cutEvent
  dsimp only [drew]
  split_ifs
  exacts [hword, rfl, rfl]

theorem dieReset_fatalCause (k : ResetKind) (d : Die) : (dieReset k d).flt.fatalCause = d.flt.fatalCause := by
  simpa only [dieReset] using (cutEvent_fatalCause _).trans (landOpen_fatalCause d)

/-! ### Boots -/

theorem inReset_false_iff {d : Die} : inReset d = false ↔ d.boot.porst = false ∧ d.boot.hubRst = false ∧ d.boot.held = 0 := by
  simp [inReset, and_assoc]

theorem bootUnlessHeld_held {d : Die} (kind : BitVec 2) (h : inReset d = true) : bootUnlessHeld kind d = d := by
  simp [bootUnlessHeld, h]

/-- A boot of one kind begins: step 1, POWERUP when it is the first since VDD_AON came up (R358, R420). -/
def BootStarted (d : Die) (kind : BitVec 2) (u : Die) : Prop :=
  u.boot.step = 1 ∧ u.boot.kind = (if d.boot.boots = 0 then 0 else kind) ∧ u.boot.boots = satInc d.boot.boots ∧
    u.boot.selftestFull = decide (u.boot.kind.toNat < 2) ∧ inReset u = false ∧ u.mem = d.mem

theorem startBoot_started {d : Die} (kind : BitVec 2) (h : inReset d = false) : BootStarted d kind (startBoot kind d) := by
  have hfull : ∀ k : BitVec 2, (k == kindPowerup || k == kindCold) = decide (k.toNat < 2) := by decide
  exact ⟨rfl, rfl, rfl, hfull _, h, rfl⟩

theorem bootUnlessHeld_started {d : Die} (kind : BitVec 2) (h : inReset d = false) :
    BootStarted d (if d.boot.cold = true then 1 else kind) (bootUnlessHeld kind d) := by
  have hboot : bootUnlessHeld kind d = startBoot (if d.boot.cold = true then 1 else kind) d := by simp [bootUnlessHeld, h, kindCold]
  rw [hboot]
  exact startBoot_started _ h

/-- Only the boot's own state moves when a boot begins. -/
theorem bootUnlessHeld_frame (kind : BitVec 2) (d : Die) : bootUnlessHeld kind d = { d with boot := (bootUnlessHeld kind d).boot } := by
  unfold bootUnlessHeld
  split <;> rfl

/-! ### PORST_N and HUB_RST_N (R21) -/

theorem effPorst_settled {d : Die} (hp : d.boot.porst = false)
    (h : d.ledger.writes = [] ∧ openWrites d = [] ∧ d.fuse.event = none) :
    let u := effPorst d
    u.boot.porst = true ∧ u.mem = [] ∧ u.cores = [] ∧ u.ident = Ident.reset ∧
      u.lodge = LodgeSt.reset ∧ u.pkg = d.pkg ∧ u.flash = d.flash ∧ u.fuse.otp = d.fuse.otp ∧ u.ledger.epoch = d.ledger.epoch ∧
      u.ledger.dirBase = d.ledger.dirBase ∧ u.link.cache = d.link.cache ∧ u.boot.boots = d.boot.boots ∧ u.test.stm = false ∧
      u.test.ir = d.test.ir := by
  simp [effPorst, hp, dieReset, cutEvent_landOpen_settled h, drew, Die.reset, LedgerSt.kept, LinkSt.kept, TestSt.kept]

theorem effPorstRise_started {d : Die} (hp : d.boot.porst = true) (hh : d.boot.hubRst = false) (h0 : d.boot.held = 0) :
    let u := effPorstRise d
    BootStarted d 1 u ∧ u.test.ir = (if d.test.ir = 0x03 then 0xFF else d.test.ir) ∧
      u.test.stm = (d.test.ir == 0x20 && d.test.stmMult.isSome && !isSealed d) := by
  dsimp only
  rw [effPorstRise, if_pos hp]
  have hup : inReset (porstRise { d with boot := { d.boot with porst := false } }) = false := inReset_false_iff.mpr ⟨rfl, hh, h0⟩
  refine ⟨?boots, ?ir, ?stm⟩
  case boots => exact (ite_self (1 : BitVec 2)) ▸ bootUnlessHeld_started kindCold hup
  case ir => rw [bootUnlessHeld_frame]; simp only [porstRise]; split_ifs <;> rfl
  case stm => rw [bootUnlessHeld_frame]; rfl

theorem effPorstRise_held {d : Die} (hp : d.boot.porst = true) (hh : d.boot.hubRst = true) :
    let u := effPorstRise d
    u.boot = { d.boot with porst := false } ∧ u.mem = d.mem := by
  dsimp only
  rw [effPorstRise, if_pos hp, bootUnlessHeld_held]
  · exact ⟨rfl, rfl⟩
  · simp [inReset, porstRise, hh]

theorem effHubRst_settled {d : Die} (hup : inReset d = false) (hs : senseFailed d = false)
    (h : d.ledger.writes = [] ∧ openWrites d = [] ∧ d.fuse.event = none) :
    let u := effHubRst d
    u.boot.hubRst = true ∧ u.ident.dieNum = d.ident.dieNum ∧ u.ident.granted = d.ident.granted ∧
      u.lodge.contentLost = d.lodge.contentLost ∧ u.lodge.remap = d.lodge.remap ∧ u.cores = [] ∧ u.pkg = d.pkg ∧
      u.mem = memClear d.mem 0x80000000 (2 ^ 38) ∧ u.ledger.epoch = d.ledger.epoch ∧ u.link.cache = d.link.cache := by
  obtain ⟨-, hh, -⟩ := inReset_false_iff.mp hup
  simp [effHubRst, hh, hup, hs, dieReset, cutEvent_landOpen_settled h, drew, Die.reset, LedgerSt.kept, LinkSt.kept, Ident.kept,
    LodgeSt.warm]

theorem effHubRstRise_started {d : Die} (hh : d.boot.hubRst = true) (hp : d.boot.porst = false) (h0 : d.boot.held = 0)
    (hs : senseFailed d = false) : BootStarted d (if d.boot.cold = true then 1 else 2) (effHubRstRise d) := by
  have hup : inReset { d with boot := { d.boot with hubRst := false } } = false := inReset_false_iff.mpr ⟨hp, rfl, h0⟩
  have hrise : effHubRstRise d = bootUnlessHeld kindWarm { d with boot := { d.boot with hubRst := false } } := by
    rw [effHubRstRise, if_neg (by simp [hh])]
    exact if_neg (by simpa [senseFailed] using hs)
  rw [hrise]
  exact bootUnlessHeld_started kindWarm hup

theorem effHubRstRise_held {d : Die} (hh : d.boot.hubRst = true) (hp : d.boot.porst = true) :
    effHubRstRise d = { d with boot := { d.boot with hubRst := false } } := by
  have hheld : inReset { d with boot := { d.boot with hubRst := false } } = true := by simp [inReset, hp]
  rw [effHubRstRise, if_neg (by simp [hh])]
  dsimp only
  rw [bootUnlessHeld_held kindWarm hheld, ite_self]

/-! ### Clocks and the thermal trip (R330, R332, R355) -/

theorem raiseFatal_clock {d : Die} (hup : inReset d = false) : raiseFatal dfClockLost d = fatalClock d := by
  simp [raiseFatal, hup]

theorem effClockLoss_running {d : Die} (hup : inReset d = false) : effClockLoss d = fatalClock d := by
  obtain ⟨hp, -, h0⟩ := inReset_false_iff.mp hup
  simp [effClockLoss, hp, h0, bitB, hup, raiseFatal_clock]

theorem fatalClock_spec (d : Die) :
    let u := fatalClock d
    bitB u.boot.held 0 = true ∧ u.mem = [] ∧ u.ledger.gap = true ∧ u.power.clkLost = true ∧ u.power.cpllLock = false ∧
      u.flt.fatalCause = 1 := by
  have hcause := dieReset_fatalCause .clock (alert (noteFatal dfClockLost d) 3)
  refine ⟨?held, ?mem, rfl, rfl, ?lock, ?cause⟩
  case held => simp [fatalClock, holdClock, bitB]
  case mem => simp [fatalClock, holdClock, dieReset]
  case lock => simp [fatalClock, holdClock, dieReset, PowerSt.unlocked]
  case cause => simp only [fatalClock, holdClock, hcause]; rfl

theorem effClockBack_free {d : Die} (hheld : d.boot.held = 1) (hp : d.boot.porst = false) (hh : d.boot.hubRst = false) :
    let u := effClockBack d
    u.boot.step = 3 ∧ u.boot.held = 0 ∧ u.boot.kind = (if d.boot.boots = 0 then 0 else if d.boot.cold = true then 1 else 3) ∧
      u.power.cpllLock = true ∧ u.mem = d.mem := by
  have h0 : d.boot.held &&& 6 = 0 := by rw [hheld]; rfl
  simp [effClockBack, hheld, bitB, inReset, lockPlls, hp, hh, bootUnlessHeld, startBoot, kindPowerup, kindCold, kindClock]

theorem effTripRelease_free {d : Die} (hheld : d.boot.held = 2) (hp : d.boot.porst = false) (hh : d.boot.hubRst = false) :
    BootStarted d (if d.boot.cold = true then 1 else 2) (effTripRelease d) ∧ (effTripRelease d).power.thermtrip = false := by
  have h0 : d.boot.held &&& 5 = 0 := by rw [hheld]; rfl
  have hup : inReset (setInterval d.power.current.toNat { d with
      power := { d.power with thermtrip := false }, boot := { d.boot with held := d.boot.held &&& 5 } }) = false :=
    inReset_false_iff.mpr ⟨hp, hh, h0⟩
  have hrelease : effTripRelease d = bootUnlessHeld kindWarm (setInterval d.power.current.toNat { d with
      power := { d.power with thermtrip := false }, boot := { d.boot with held := d.boot.held &&& 5 } }) :=
    if_neg (by simp [hheld, bitB])
  rw [hrelease]
  refine ⟨bootUnlessHeld_started kindWarm hup, ?_⟩
  rw [bootUnlessHeld_frame]
  rfl

/-! ### Rails (R209, R374, R420) -/

theorem eachWindow_keeps {β : Type} {f : BitVec 3 → Die → Die} {g : Die → β} (hf : ∀ n e, g (f n e) = g e) (d : Die) :
    g (eachWindow f d) = g d := foldl_keeps (f := fun e n => f (BitVec.ofNat 3 n) e) (fun e _ => hf _ e) _ d

theorem endSession_spec (d : Die) : (endSession d).mem = d.mem ∧ (endSession d).trust.dbgOpen = false := by
  unfold endSession
  cases hopen : d.trust.dbgOpen with
  | false => exact ⟨rfl, hopen⟩
  | true =>
    extract_lets _ d1
    by_cases hup : stewardUp d1 = true
    · rw [if_neg (by simp), if_pos hup]
      exact ⟨eachWindow_keeps (f := effWinOpen) (g := Die.mem) (fun _ _ => rfl) d1,
        eachWindow_keeps (f := effWinOpen) (g := fun e => e.trust.dbgOpen) (fun _ _ => rfl) d1⟩
    · rw [if_neg (by simp), if_neg hup]
      exact ⟨rfl, rfl⟩

/-- The VDD_AON domain at its power-on reset: nothing kept, no epoch, no link cache, no fault record, no boot counted. -/
theorem aonReset_spec (d : Die) :
    let u := aonReset d
    u.ledger.epoch = 0 ∧ u.ledger.gap = true ∧ u.link.cacheLen = 0 ∧ u.flt.fatalValid = false ∧
      u.boot.boots = 0 ∧ u.power.tripped = false ∧ u.test.ir = 0x01 ∧ u.test.stmMult = none ∧ u.trust.dbgOpen = false ∧ u.mem = d.mem := by
  obtain ⟨hmem, hopen⟩ := endSession_spec d
  exact ⟨rfl, rfl, rfl, rfl, rfl, rfl, rfl, rfl, hopen, hmem⟩

theorem effLodgeDip_spec {d u : Die} (hu : effLodgeDip d = u) :
    u.cores = d.cores ∧ u.pkg = d.pkg ∧ u.lodge.contentLost = true ∧ u.lodge.remap = [] ∧ u.mem = memClear d.mem 0 0x80000000 ∧
    (if stewardUp d = true ∧ d.ledger.memState = 0 then u.lodge.lossUnmarked = false
     else u.lodge.lossUnmarked = true ∧ u = { d with mem := u.mem, lodge := u.lodge }) := by
  subst hu
  unfold effLodgeDip
  extract_lets d1
  have hsensed : RowsSensed d1 (loseBerths (tellLoss d1) (fun l => locDie l == d.ident.dieNum.toNat)) :=
    (rowsSensed_tellLoss d1).trans (rowsSensed_loseBerths _ _)
  by_cases h : stewardUp d = true ∧ d.ledger.memState = 0
  · rw [if_pos (by simp [h]), if_pos h]
    exact ⟨hsensed.cores, hsensed.pkg, rfl, rfl, hsensed.mem, rfl⟩
  · rw [if_neg (by simpa using h), if_neg h]
    exact ⟨rfl, rfl, rfl, rfl, rfl, rfl, rfl⟩

/-- Settles O45: each pin, rail and clock by what its meaning does, a boot that begins by `BootStarted`. -/
theorem resetsHoldTheDie : Obligations.ResetsHoldTheDie := by
  unfold Obligations.ResetsHoldTheDie
  intro s d b settled started unpowered
  refine ⟨?porst, ?porstAgain, ?porstRise, ?porstRiseHeld, ?hubRst, ?hubRstHeld, ?hubRise, ?hubRiseHeld, ?locked, ?lock, ?clockLoss,
    ?clockLossHeld, ?clockBack, ?clockBackIdle, ?trip, ?tripIdle, ?aonLow, ?aonGood, ?aonAgain, ?dip⟩
  case porst => exact fun hp h => ⟨effPorst d, rfl, effPorst_settled hp h⟩
  case porstAgain => exact fun hp => congrArg (fun u => Host.Outcome.next (s.withDie u)) (if_pos hp)
  case porstRise => exact fun hp hh h0 => ⟨effPorstRise d, rfl, effPorstRise_started hp hh h0⟩
  case porstRiseHeld => exact fun hp hh => ⟨effPorstRise d, rfl, effPorstRise_held hp hh⟩
  case hubRst =>
    intro hup hs h
    obtain ⟨hreset, hnum, hgranted, hlost, hremap, hcores, hpkg, hmem, hepoch, hcache⟩ := effHubRst_settled hup hs h
    refine ⟨effHubRst d, rfl, hreset, hnum, hgranted, hlost, hremap, hcores, hpkg, fun a ha => ?_, fun a ha hb => ?_, hepoch, hcache⟩
    · rw [hmem, memGet_clear, if_neg (by omega)]
    · rw [hmem, memGet_clear, if_pos (by omega)]
  case hubRstHeld =>
    intro hh h
    show Host.Outcome.next (s.withDie (effHubRst d)) = _
    rw [effHubRst, if_neg (by simp [show d.boot.hubRst = false from hh]), if_pos (by simpa using h)]
  case hubRise => exact fun hh hp h0 hs => ⟨effHubRstRise d, rfl, effHubRstRise_started hh hp h0 hs⟩
  case hubRiseHeld => exact fun hh hp => congrArg (fun u => Host.Outcome.next (s.withDie u)) (effHubRstRise_held hh hp)
  case locked =>
    intro hup hstep hlock
    show Host.Outcome.next (s.withDie (effPllLock d)) = _
    rw [effPllLock, if_neg (by simp [hup, show d.boot.step = 1 from hstep]), if_pos hlock]
  case lock =>
    intro hup hstep hlock hstm
    refine ⟨effPllLock d, rfl, ?_⟩
    rw [effPllLock, if_neg (by simp [hup, show d.boot.step = 1 from hstep]), if_neg (by simp [hlock])]
    simp [lockPlls, hstm, opMHz]
  case clockLoss =>
    intro hup
    refine ⟨fatalClock d, ?_, ?_, fatalClock_spec d⟩
    · exact congrArg (fun u => Host.Outcome.next (s.withDie u)) (effClockLoss_running hup)
    · exact congrArg (fun u => Host.Outcome.next (s.withDie u)) (raiseFatal_clock hup)
  case clockLossHeld =>
    intro hp
    exact congrArg (fun u => Host.Outcome.next (s.withDie u)) (if_pos (by simp [show s.die.boot.porst = true from hp]))
  case clockBack => exact fun hheld hp hh => ⟨effClockBack d, rfl, effClockBack_free hheld hp hh⟩
  case clockBackIdle =>
    intro h
    exact congrArg (fun u => Host.Outcome.next (s.withDie u)) (if_pos (by simp [show bitB s.die.boot.held 0 = false from h]))
  case trip =>
    intro hheld hp hh
    obtain ⟨hstart, htrip⟩ := effTripRelease_free hheld hp hh
    exact ⟨effTripRelease d, rfl, hstart, htrip⟩
  case tripIdle =>
    intro h
    exact congrArg (fun u => Host.Outcome.next (s.withDie u)) (if_pos (by simp [show bitB s.die.boot.held 1 = false from h]))
  case aonLow => exact ⟨effAonLow d, rfl, aonReset_spec d, rfl, rfl⟩
  case aonGood =>
    intro h
    refine ⟨effAonGood d, rfl, ?_⟩
    rw [effAonGood, if_neg (by simp [show d.boot.aon = false from h])]
    exact ⟨aonReset_spec d, rfl, rfl⟩
  case aonAgain => exact fun h => congrArg (fun u => Host.Outcome.next (s.withDie u)) (if_pos h)
  case dip =>
    obtain ⟨hcores, hpkg, hlost, hremap, hmem, hmark⟩ := effLodgeDip_spec (d := d) rfl
    refine ⟨effLodgeDip d, rfl, hcores, hpkg, hlost, hremap, fun a ha => ?_, fun a ha => ?_, hmark⟩
    · rw [hmem, memGet_clear, if_pos (by omega)]
    · rw [hmem, memGet_clear, if_neg (by omega)]

end Sys2Proof.Machine
end

section
/-! PROOF. Link bring-up from grant to ACTIVE (O42). -/

namespace Sys2Proof.Machine

/-! ### Frames sent (R317) -/

theorem sbSend_frames (d : Die) (cmd arg : BitVec 8) (data : BitVec 32) :
    (sbSend d cmd arg data).link.frames = d.link.frames ++ [⟨cmd, arg, data, 1⟩] := rfl

theorem sbSend_frame_mem (d : Die) (cmd arg : BitVec 8) (data : BitVec 32) :
    (⟨cmd, arg, data, 1⟩ : SbFrame) ∈ (sbSend d cmd arg data).link.frames := by simp [sbSend_frames]

theorem mem_sbSend_frames {d : Die} {f : SbFrame} (h : f ∈ d.link.frames) (cmd arg : BitVec 8) (data : BitVec 32) :
    f ∈ (sbSend d cmd arg data).link.frames := by simp [sbSend_frames, h]

theorem unanswered_sbSend (d : Die) (cmd arg : BitVec 8) (data : BitVec 32) : unanswered (sbSend d cmd arg data) cmd = true := by
  simp [unanswered, sbSend_frames]

/-! ### Modules (R321) -/

theorem getMod_modMod (d : Die) (n : Nat) (f : Module → Module) : getMod (modMod d n f) n = f (getMod d n) := tabGet_set _ _ _ _

theorem getMod_modMod_ne (d : Die) {n k : Nat} (f : Module → Module) (h : k ≠ n) : getMod (modMod d n f) k = getMod d k :=
  tabGet_set_ne _ _ _ h

/-- A change of modules changes nothing else. -/
theorem eachMod_shape (l : List Nat) (f : Nat → Module → Module) (d : Die) :
    ∃ ms, eachMod l f d = { d with link := { d.link with modules := ms } } := by
  induction l generalizing d with
  | nil => exact ⟨_, rfl⟩
  | cons n l ih =>
    obtain ⟨ms, hms⟩ := ih (modMod d n (f n))
    exact ⟨ms, hms⟩

theorem eachMod_mem (l : List Nat) (f : Nat → Module → Module) (d : Die) : (eachMod l f d).mem = d.mem := by
  obtain ⟨ms, hms⟩ := eachMod_shape l f d
  rw [hms]

theorem eachMod_agreed (l : List Nat) (f : Nat → Module → Module) (d : Die) : (eachMod l f d).link.agreed = d.link.agreed := by
  obtain ⟨ms, hms⟩ := eachMod_shape l f d
  rw [hms]

section
variable {P : Module → Prop} {f : Nat → Module → Module} (hf : ∀ n m, P (f n m)) {k : Nat}
include hf

theorem eachMod_keeps (l : List Nat) {d : Die} (h : P (getMod d k)) : P (getMod (eachMod l f d) k) := by
  induction l generalizing d with
  | nil => exact h
  | cons n l ih =>
    refine ih ?_
    by_cases hn : k = n
    · rw [hn, getMod_modMod]; exact hf _ _
    · rw [getMod_modMod_ne _ _ hn]; exact h

/-- What the change gives a module whatever it was, every module of the list has after it. -/
theorem eachMod_of_mem {l : List Nat} (hk : k ∈ l) (d : Die) : P (getMod (eachMod l f d) k) := by
  induction l generalizing d with
  | nil => simp at hk
  | cons n l ih =>
    obtain rfl | hl := List.mem_cons.mp hk
    · exact eachMod_keeps hf l (by rw [getMod_modMod]; exact hf _ _)
    · exact ih hl _

end

theorem mem_maskModules {mask : BitVec 32} {k : Nat} (hk : k < 192) (h : bitB mask (k / 6) = true) : k ∈ maskModules mask := by
  refine List.mem_flatMap.mpr ⟨k / 6, List.mem_filter.mpr ⟨List.mem_range.mpr (by omega), h⟩, ?_⟩
  exact List.mem_map.mpr ⟨k % 6, List.mem_range.mpr (by omega), by omega⟩

/-! ### Serving gates (R322) -/

theorem servingOf_lt (mask : BitVec 32) (col : Nat) : servingOf mask col < 32 := by
  have step : ∀ (l : List Nat) (best : Nat), (∀ g ∈ l, g < 32) → best < 32 →
      l.foldl (fun best g => if bitB mask g && (!bitB mask best || decide (distance g col < distance best col)) then g else best) best < 32 := by
    intro l
    induction l with
    | nil => exact fun _ _ h => h
    | cons g l ih =>
      refine fun best hl hbest => ih _ (fun x hx => hl x (List.mem_cons_of_mem _ hx)) ?_
      dsimp only
      split_ifs
      exacts [hl g List.mem_cons_self, hbest]
  exact step _ _ (fun g hg => List.mem_range.mp hg) (by decide)

theorem servingGate_setGateMaps (d : Die) {col : Nat} (h : col < 32) :
    (servingGate (setGateMaps d) col).toNat = servingOf d.link.agreed col := by
  have hlt := servingOf_lt d.link.agreed col
  simp only [servingGate, setGateMaps]
  rw [tabGet_fill, if_pos (by omega), BitVec.toNat_ofNat, Nat.sub_zero, Nat.mod_eq_of_lt (by omega)]

/-! ### Attempts of training (R318, R360) -/

/-- A failed attempt, as the statement names it: the fourth ends the boot, an earlier one goes on in state `st`. -/
def AttemptFailed (d u : Die) (st : BitVec 4) : Prop :=
  u.link.attempts = d.link.attempts + 1 ∧ u.mem = d.mem ∧
    ((d.link.attempts + 1).toNat < 4 → u.link.state = st ∧ u.boot.step = (if d.boot.step = 6 then 5 else d.boot.step)) ∧
    (4 ≤ (d.link.attempts + 1).toNat → u.link.state = 0 ∧ u.boot.step = 15 ∧ u.boot.fail = 0x02 ∧
      ∃ f ∈ u.link.frames, f.cmd = sbAlert ∧ f.arg = 1)

theorem linkDown_shape (d : Die) : ∃ ms, linkDown d = { d with link := { d.link with
    modules := ms, state := 0, agreed := 0, tags := [], atGate := [], draining := [], newMask := none, newMaskIn := false } } := by
  obtain ⟨ms, hms⟩ := eachMod_shape (List.range 192) (fun _ => downModule) d
  exact ⟨ms, by rw [linkDown, hms]⟩

theorem bootFail_alert (fail : Nat) (cause : BitVec 8) (d : Die) :
    ∃ f ∈ (bootFail fail cause d).link.frames, f.cmd = sbAlert ∧ f.arg = cause :=
  ⟨⟨sbAlert, cause, 0, 1⟩, sbSend_frame_mem _ sbAlert cause 0, rfl, rfl⟩

theorem failedAttempt_failed {go : Die → Die} {st : BitVec 4}
    (hgo : ∀ e, (go e).link.attempts = e.link.attempts ∧ (go e).mem = e.mem ∧ (go e).link.state = st ∧ (go e).boot.step = e.boot.step)
    (d : Die) : AttemptFailed d (failedAttempt go d) st := by
  unfold failedAttempt
  extract_lets n _ d1
  by_cases hlast : 4 ≤ n.toNat
  · obtain ⟨ms, hms⟩ := linkDown_shape d1
    rw [if_pos hlast, hms]
    exact ⟨rfl, rfl, fun h => absurd hlast (Nat.not_le.mpr h), fun _ => ⟨rfl, rfl, rfl, bootFail_alert _ _ _⟩⟩
  · rw [if_neg hlast]
    obtain ⟨hattempts, hmem, hstate, hstep⟩ := hgo { d1 with boot := { d1.boot with step := if d1.boot.step = 6 then 5 else d1.boot.step } }
    exact ⟨hattempts, hmem, fun _ => ⟨hstate, hstep⟩, fun h => absurd h hlast⟩

theorem startTraining_shape (fast : Bool) (d : Die) : ∃ ms, startTraining fast d = { d with
    link := { d.link with modules := ms, state := if fast then 3 else 4, hltFast := fast } } := by
  obtain ⟨ms, hms⟩ := eachMod_shape (maskModules d.link.agreed) (fun _ m => { m with state := msTraining }) d
  exact ⟨ms, by rw [startTraining, hms]⟩

theorem failedAttempt_startExchange (d : Die) : AttemptFailed d (failedAttempt startExchange d) 2 :=
  failedAttempt_failed (go := startExchange) (fun _ => ⟨rfl, rfl, rfl, rfl⟩) d

theorem failedAttempt_startTraining (d : Die) : AttemptFailed d (failedAttempt (startTraining false) d) 4 := by
  refine failedAttempt_failed (fun e => ?_) d
  obtain ⟨ms, hms⟩ := startTraining_shape false e
  rw [hms]
  exact ⟨rfl, rfl, rfl, rfl⟩

theorem startExchange_offers (d : Die) : ∃ f ∈ (startExchange d).link.frames, f.cmd = sbOffer ∧ f.data = ownOffer d := by
  unfold startExchange
  extract_lets l e
  exact ⟨⟨sbOffer, 0, ownOffer e, 1⟩, mem_sbSend_frames (mem_sbSend_frames (sbSend_frame_mem e _ _ _) _ _ _) _ _ _, rfl, rfl⟩

/-! ### Grants (R18 to R20) -/

theorem getLsbD_grantWord (arg : BitVec 8) (data : BitVec 32) {i : Nat} (hi : i < 32) :
    (grantWord arg data).getLsbD i = if i < 16 then data.getLsbD i else arg.getLsbD (i - 16) := by
  simp only [grantWord, packed, List.foldl_cons, List.foldl_nil, getLsbD_putFld _ _ _ _ _ hi, BitVec.testBit_toNat]
  by_cases h16 : i < 16
  · simp [h16]
  · by_cases h24 : i < 24
    · simp [h16, h24, Nat.not_lt.mp h16]
    · rw [if_neg (by omega), if_neg (by omega), if_neg h16, BitVec.getLsbD_of_ge arg _ (by omega)]
      exact BitVec.getLsbD_zero

theorem grantWord_data (arg : BitVec 8) (data : BitVec 32) {lo n : Nat} (h : lo + n ≤ 16) :
    (grantWord arg data).extractLsb' lo n = data.extractLsb' lo n := by
  refine BitVec.eq_of_getLsbD_eq fun i hi => ?_
  rw [BitVec.getLsbD_extractLsb', BitVec.getLsbD_extractLsb', getLsbD_grantWord _ _ (by omega), if_pos (by omega)]

theorem grantWord_arg (arg : BitVec 8) (data : BitVec 32) {lo n : Nat} (h : lo + n ≤ 8) :
    (grantWord arg data).extractLsb' (16 + lo) n = arg.extractLsb' lo n := by
  refine BitVec.eq_of_getLsbD_eq fun i hi => ?_
  rw [BitVec.getLsbD_extractLsb', BitVec.getLsbD_extractLsb', getLsbD_grantWord _ _ (by omega), if_neg (by omega),
    show 16 + lo + i - 16 = lo + i by omega]

theorem effGrant_taken {d : Die} {arg : BitVec 8} {data : BitVec 32} (hup : inReset d = false) (hstm : d.test.stm = false)
    (hc : grantConflicts d (grantWord arg data) = false) (h4 : d.boot.step = 4) :
    effGrant arg data d = drew (applyGrant (grantWord arg data)
      { sbAnswer d sbGrant with boot := { d.boot with grantWait := (freeVal d 0).setWidth 32 } }) := by
  rw [effGrant, if_neg (by simp [hup, hstm]), if_neg (by simp [hc]), if_neg (by simp [h4]), if_pos h4]
  rfl

theorem effGrant_conflict {d : Die} {arg : BitVec 8} {data : BitVec 32} (hup : inReset d = false) (hstm : d.test.stm = false)
    (hc : grantConflicts d (grantWord arg data) = true) :
    effGrant arg data d = { sbAnswer d sbGrant with ident := { d.ident with grantConflict := true } } := by
  rw [effGrant, if_neg (by simp [hup, hstm]), if_pos hc]
  rfl

theorem effGrant_latched {d : Die} {arg : BitVec 8} {data : BitVec 32} (hup : inReset d = false) (hstm : d.test.stm = false)
    (hc : grantConflicts d (grantWord arg data) = false) (hlt : d.boot.step.toNat < 4) (hnone : d.ident.grant = none) :
    effGrant arg data d = { sbAnswer d sbGrant with ident := { d.ident with grant := some (grantWord arg data) } } := by
  rw [effGrant, if_neg (by simp [hup, hstm]), if_neg (by simp [hc]), if_pos hlt, if_neg (by simp [hnone])]
  rfl

/-- A grant taken: the assignment of its ARG and DATA, and EXCHANGE begun with the die's OFFER. -/
theorem applyGrant_spec (arg : BitVec 8) (data : BitVec 32) (d : Die) :
    let u := applyGrant (grantWord arg data) d
    u.ident.granted = true ∧ u.ident.dieNum = arg.extractLsb' 0 2 ∧
      u.ident.half = arg.extractLsb' 4 1 ∧ u.ident.hubGen = data.extractLsb' 12 4 ∧ u.ident.pkgType = data.extractLsb' 8 4 ∧
      u.ident.protoLevel = data.extractLsb' 0 4 ∧ u.boot.step = 5 ∧ u.link.state = 2 ∧ u.mem = d.mem ∧ u.cores = d.cores ∧
      ∃ f ∈ u.link.frames, f.cmd = sbOffer ∧ f.data = ownOffer d :=
  ⟨rfl, grantWord_arg arg data (lo := 0) (by omega), grantWord_arg arg data (lo := 4) (by omega), grantWord_data _ _ (by omega),
    grantWord_data _ _ (by omega), grantWord_data _ _ (by omega), rfl, rfl, rfl, rfl, startExchange_offers _⟩

/-! ### The exchange (R318) -/

/-- The die neither held nor in stand-alone test mode: it answers the hub's frames. -/
theorem takeFrame_up {d : Die} {cmd : BitVec 8} {fresh : Die → Bool} {f : LinkSt → LinkSt} (hup : inReset d = false)
    (hstm : d.test.stm = false) (h2 : d.link.state = 2) (hf : fresh d = true) :
    takeFrame cmd fresh f d = sendAgree { sbAnswer d cmd with link := f d.link } := by
  rw [takeFrame, if_neg (by simp [hup, hstm])]
  exact if_pos (by simp [h2, hf])

theorem sendAgree_waits {d : Die} (h : d.link.hubOffer = none ∨ d.link.digestLo = none ∨ d.link.digestHi = none) : sendAgree d = d := by
  unfold sendAgree
  split
  · simp_all
  · rfl

theorem effOffer_up {d : Die} (mask : BitVec 32) (hup : inReset d = false) (hstm : d.test.stm = false) (h2 : d.link.state = 2)
    (hnew : d.link.hubOffer = none) :
    effOffer mask d = sendAgree { sbAnswer d sbOffer with link := { d.link with hubOffer := some mask } } :=
  takeFrame_up (f := fun l => { l with hubOffer := some mask }) hup hstm h2 (by simp [hnew])

theorem effDigestLo_up {d : Die} (v : BitVec 32) (hup : inReset d = false) (hstm : d.test.stm = false) (h2 : d.link.state = 2)
    (hnew : d.link.digestLo = none) :
    effDigestLo v d = sendAgree { sbAnswer d sbDigestLo with link := { d.link with digestLo := some v } } :=
  takeFrame_up (f := fun l => { l with digestLo := some v }) hup hstm h2 (by simp [hnew])

theorem effDigestHi_up {d : Die} (v : BitVec 32) (hup : inReset d = false) (hstm : d.test.stm = false) (h2 : d.link.state = 2)
    (hnew : d.link.digestHi = none) :
    effDigestHi v d = sendAgree { sbAnswer d sbDigestHi with link := { d.link with digestHi := some v } } :=
  takeFrame_up (f := fun l => { l with digestHi := some v }) hup hstm h2 (by simp [hnew])

theorem compareAgree_waits {d : Die} (h : unanswered d sbAgree = true) : compareAgree d = d := by
  unfold compareAgree
  split
  · rfl
  · exact if_pos (by simp [h])

/-- All three of the hub's frames are here: AGREE goes out with the AND of both offers, to be acknowledged. -/
theorem sendAgree_sends {d : Die} {mask : BitVec 32} (ho : d.link.hubOffer = some mask) (hlo : d.link.digestLo.isSome = true)
    (hhi : d.link.digestHi.isSome = true) :
    let u := sendAgree d
    u.link.agreed = ownOffer d &&& mask ∧ u.link.state = d.link.state ∧
      ∃ f ∈ u.link.frames, f.cmd = sbAgree ∧ f.data = ownOffer d &&& mask := by
  obtain ⟨lo, hlo⟩ := Option.isSome_iff_exists.mp hlo
  obtain ⟨hi, hhi⟩ := Option.isSome_iff_exists.mp hhi
  unfold sendAgree
  rw [ho, hlo, hhi]
  dsimp only
  rw [compareAgree_waits (unanswered_sbSend _ _ _ _)]
  exact ⟨rfl, rfl, _, sbSend_frame_mem _ sbAgree _ _, rfl, rfl⟩

/-! ### AGREE (R319) -/

theorem compareAgree_compares {d : Die} {fast : Bool} {mask : BitVec 32} (hhub : d.link.agreeHub = some (fast, mask))
    (h2 : d.link.state = 2) (hex : exchanged d = true) (hack : unanswered d sbAgree = false) :
    compareAgree d = if mask ≠ d.link.agreed ∨ gateCount mask < minGates d then failedAttempt startExchange d
      else startTraining (fast && ownFast d) d := by
  simp [compareAgree, hhub, h2, hex, hack]

/-- The first AGREE of an attempt whose own AGREE is acknowledged: both masks are compared. -/
theorem effAgree_compares {d : Die} (fast : Bool) (mask : BitVec 32) (hup : inReset d = false) (hstm : d.test.stm = false)
    (h2 : d.link.state = 2) (hnew : d.link.agreeHub = none) (hex : exchanged d = true) (hack : unanswered d sbAgree = false) :
    let e : Die := { sbAnswer d sbAgree with link := { d.link with agreeHub := some (fast, mask) } }
    effAgree fast mask d =
      if mask ≠ d.link.agreed ∨ gateCount mask < minGates d then failedAttempt startExchange e else startTraining (fast && ownFast d) e := by
  intro e
  have he : effAgree fast mask d = compareAgree e := by
    rw [effAgree, if_neg (by simp [hup, hstm])]
    exact if_pos (by simp [h2, hnew])
  rw [he]
  exact compareAgree_compares (d := e) rfl h2 hex hack

theorem startTraining_spec (fast : Bool) (d : Die) :
    let u := startTraining fast d
    u.link.state = (if fast = true then 3 else 4) ∧ u.link.attempts = d.link.attempts ∧ u.mem = d.mem ∧
      ∀ k, k < 192 → bitB d.link.agreed (k / 6) = true → (getMod u k).state = msTraining := by
  obtain ⟨ms, hms⟩ := startTraining_shape fast d
  refine ⟨by rw [hms], by rw [hms], by rw [hms], fun k hk hbit => ?_⟩
  exact eachMod_of_mem (P := fun m => m.state = msTraining) (f := fun _ m => { m with state := msTraining }) (fun _ _ => rfl)
    (mem_maskModules hk hbit) d

/-! ### Training, readiness and CONFIRM (R320, R321) -/

theorem effTrainFast_ok {d : Die} (h3 : d.link.state = 3) :
    (effTrainFast true d).link.state = 5 ∧ (effTrainFast true d).mem = d.mem := by
  rw [effTrainFast, if_neg (by simp [h3]), if_pos rfl]
  exact ⟨rfl, eachMod_mem _ _ d⟩

theorem effTrainFast_failed {d : Die} (h3 : d.link.state = 3) : effTrainFast false d = startTraining false d := by
  rw [effTrainFast, if_neg (by simp [h3]), if_neg (by simp)]

theorem effTrainFull_ok {d : Die} (spares : List SpareMap) (h4 : d.link.state = 4) :
    (effTrainFull true spares d).link.state = 5 ∧ (effTrainFull true spares d).mem = d.mem := by
  rw [effTrainFull, if_neg (by simp [h4]), if_neg (by simp)]
  exact ⟨rfl, eachMod_mem _ _ d⟩

theorem effTrainFull_failed {d : Die} (spares : List SpareMap) (h4 : d.link.state = 4) :
    effTrainFull false spares d = failedAttempt startExchange d := by
  rw [effTrainFull, if_neg (by simp [h4]), if_pos (by simp)]

theorem effReadiness_none {d : Die} (h5 : d.link.state = 5) : effReadiness [] 0 d = enterConfirm (drew d) := by
  simp [effReadiness, h5, eachMod]

theorem enterConfirm_spec {d : Die} (hmask : d.link.newMask = none) :
    (enterConfirm d).link.state = 6 ∧ (enterConfirm d).mem = d.mem ∧
      ∃ f ∈ (enterConfirm d).link.frames, f.cmd = sbLinkUp ∧ f.data = d.link.agreed := by
  have hsend : enterConfirm d = sbSend { d with link := { d.link with state := 6 } } sbLinkUp 0 d.link.agreed := by
    simp [enterConfirm, hmask]
  rw [hsend]
  exact ⟨rfl, rfl, _, sbSend_frame_mem _ _ _ _, rfl, rfl⟩

theorem effReadiness_fastFailed {d : Die} {l : List (BitVec 8)} (k : BitVec 32) (h5 : d.link.state = 5) (hfast : d.link.hltFast = true)
    (hl : l ≠ []) : effReadiness l k d = failedAttempt (startTraining false) d := by
  simp [effReadiness, h5, hfast, hl]

theorem effLinkUp_spec {d : Die} (z : BufSizes) (hup : inReset d = false) (hstm : d.test.stm = false) (h6 : d.link.state = 6)
    (hmask : d.link.newMask = none) :
    let mask := d.link.agreed
    let u := effLinkUp mask z d
    u.link.state = 7 ∧ u.mesh.gateUp = mask ∧
      u.boot.step = (if d.boot.step = 6 then 7 else d.boot.step) ∧ u.mem = d.mem ∧
      (∀ k, k < 192 → bitB mask (k / 6) = true → (getMod u k).state = msActive ∧ (getMod u k).txSeq = 0 ∧ (getMod u k).rxSeq = 0 ∧
        (getMod u k).credReq = z.req.setWidth 32 ∧ (getMod u k).credRsp = z.rsp.setWidth 32 ∧ (getMod u k).credCtrl = z.ctrl.setWidth 32) ∧
      ∀ col, col < 32 → (servingGate u col).toNat = servingOf mask col := by
  intro mask
  have hmods := fun k (hk : k < 192) (hbit : bitB mask (k / 6) = true) =>
    eachMod_of_mem (P := fun m => m.state = msActive ∧ m.txSeq = 0 ∧ m.rxSeq = 0 ∧ m.credReq = z.req.setWidth 32 ∧
      m.credRsp = z.rsp.setWidth 32 ∧ m.credCtrl = z.ctrl.setWidth 32) (f := fun _ => freshModule z)
      (fun _ _ => ⟨rfl, rfl, rfl, rfl, rfl, rfl⟩) (mem_maskModules hk hbit) (sbAnswer d sbLinkUp)
  have hagreed := eachMod_agreed (maskModules mask) (fun _ => freshModule z) (sbAnswer d sbLinkUp)
  have hmem := eachMod_mem (maskModules mask) (fun _ => freshModule z) (sbAnswer d sbLinkUp)
  rw [effLinkUp, if_neg (by simp [hup, hstm]), if_neg (by simp [h6, hmask, mask])]
  refine ⟨rfl, hagreed, rfl, hmem, hmods, fun col hcol => ?_⟩
  exact (servingGate_setGateMaps _ hcol).trans (congrArg (fun m => servingOf m col) hagreed)

/-! ### Acknowledgements and resends (R317) -/

theorem effAck_found {d : Die} {cmd : BitVec 8} {f : SbFrame} (hf : d.link.frames.find? (fun f => f.cmd == cmd) = some f)
    (hagree : cmd ≠ sbAgree) (hmask : cmd ≠ sbNewmask) :
    effAck cmd d = { d with link := { d.link with
      frames := d.link.frames.erase f, alert := d.link.alert && (d.link.frames.erase f).any (fun f => f.cmd == sbAlert) } } := by
  simp [effAck, hf, hagree, hmask]

theorem effAck_none {d : Die} {cmd : BitVec 8} (hf : d.link.frames.find? (fun f => f.cmd == cmd) = none) :
    effAck cmd d = { d with link := { d.link with alert := d.link.alert && cmd != sbAlert } } := by
  simp [effAck, hf]

theorem effResend_none {d : Die} {cmd : BitVec 8} (hf : d.link.frames.find? (fun f => f.cmd == cmd) = none) : effResend cmd d = d := by
  simp [effResend, hf]

theorem effResend_again {d : Die} {cmd : BitVec 8} {f : SbFrame} (hf : d.link.frames.find? (fun f => f.cmd == cmd) = some f)
    (h : f.sends < 4) : (effResend cmd d).out = d.out ++ [.sideband f.cmd f.arg f.data] ∧
      { f with sends := f.sends + 1 } ∈ (effResend cmd d).link.frames ∧ (effResend cmd d).mem = d.mem := by
  let again : SbFrame := { f with sends := f.sends + 1 }
  have hu : effResend cmd d = send { d with link := { d.link with
      frames := d.link.frames.map (fun y => if y = f then again else y) } } (.sideband f.cmd f.arg f.data) := by
    simp [effResend, hf, h, again]
  rw [hu]
  exact ⟨rfl, List.mem_map.mpr ⟨f, List.mem_of_find?_eq_some hf, if_pos rfl⟩, rfl⟩

theorem effResend_attempt {d : Die} {cmd : BitVec 8} {f : SbFrame} (hf : d.link.frames.find? (fun f => f.cmd == cmd) = some f)
    (h : 4 ≤ f.sends) (hlo : 2 ≤ d.link.state.toNat) (hhi : d.link.state.toNat ≤ 6) :
    effResend cmd d = failedAttempt startExchange { d with link := { d.link with frames := d.link.frames.erase f } } := by
  simp [effResend, hf, Nat.not_lt.mpr h, hlo, hhi]

theorem effResend_givenUp {d : Die} {cmd : BitVec 8} {f : SbFrame} (hf : d.link.frames.find? (fun f => f.cmd == cmd) = some f)
    (h : 4 ≤ f.sends) (hout : d.link.state.toNat < 2 ∨ 6 < d.link.state.toNat) :
    effResend cmd d = { d with link := { d.link with
      frames := d.link.frames.erase f, newMask := if cmd = sbNewmask then none else d.link.newMask,
      newMaskIn := d.link.newMaskIn && cmd != sbNewmask } } := by
  have hcmd : f.cmd = cmd := by simpa using List.find?_some hf
  have hu : effResend cmd d = giveUpFrame f d := by
    simp only [effResend, hf, if_neg (Nat.not_lt.mpr h)]
    exact if_neg (by simp; omega)
  rw [hu, giveUpFrame, hcmd]
  by_cases hmask : cmd = sbNewmask <;> simp [hmask]

/-- Settles O42: one lemma for each frame and each end of a phase; a failed attempt is `AttemptFailed`. -/
theorem linkComesUp : Obligations.LinkComesUp := by
  unfold Obligations.LinkComesUp
  intro s arg cmd data mask fast z d acked up failed
  have next : ∀ {u v : Die}, u = v → (Host.Outcome.next (s.withDie u) : Host.Outcome State Fault Refusal) = .next (s.withDie v) :=
    fun h => congrArg (fun u => Host.Outcome.next (s.withDie u)) h
  refine ⟨?grant, ?conflict, ?latch, ?heldGrant, ?wait, ?waitHi, ?offer, ?agree, ?disagree, ?trainFast, ?trainFull, ?ready, ?notReady,
    ?linkUp, ?ack, ?none_, ?again, ?givenUp, ?attempt⟩
  case grant =>
    rintro ⟨hup, hstm⟩ hc h4
    exact ⟨_, next (effGrant_taken hup hstm hc h4), applyGrant_spec arg data _⟩
  case conflict => exact fun ⟨hup, hstm⟩ hc => next (effGrant_conflict hup hstm hc)
  case latch => exact fun ⟨hup, hstm⟩ hc hlt hnone => next (effGrant_latched hup hstm hc hlt hnone)
  case heldGrant => exact fun hheld => next (if_pos (by simp [show inReset s.die = true from hheld]))
  case wait =>
    rintro ⟨hup, hstm⟩ h2 hoffer hlo
    exact ⟨next ((effOffer_up mask hup hstm h2 hoffer).trans (sendAgree_waits (.inr (.inl hlo)))),
      next ((effDigestLo_up data hup hstm h2 hlo).trans (sendAgree_waits (.inl hoffer)))⟩
  case waitHi =>
    exact fun ⟨hup, hstm⟩ h2 hoffer hhi => next ((effDigestHi_up data hup hstm h2 hhi).trans (sendAgree_waits (.inl hoffer)))
  case offer =>
    rintro ⟨hup, hstm⟩ h2 hoffer hlo hhi
    obtain ⟨hagreed, hstate, hframe⟩ := sendAgree_sends (d := { acked sbOffer with link := { d.link with hubOffer := some mask } }) rfl hlo hhi
    exact ⟨_, next (effOffer_up mask hup hstm h2 hoffer), hagreed, hstate.trans h2, hframe⟩
  case agree =>
    rintro ⟨hup, hstm⟩ h2 hnew hex hack hmask hgates
    have hok : ¬ (mask ≠ d.link.agreed ∨ gateCount mask < minGates d) := by simp [hmask, Nat.not_lt.mpr (hmask ▸ hgates)]
    obtain ⟨hstate, -, hmem, hmods⟩ :=
      startTraining_spec (fast && ownFast d) { sbAnswer d sbAgree with link := { d.link with agreeHub := some (fast, mask) } }
    refine ⟨_, next ((effAgree_compares fast mask hup hstm h2 hnew hex hack).trans (if_neg hok)), ?_, ?_, hmem⟩
    · simpa only [Bool.and_eq_true] using hstate
    · exact fun k hk hbit => hmods k hk (hmask ▸ hbit)
  case disagree =>
    rintro ⟨hup, hstm⟩ h2 hnew hex hack hbad
    exact ⟨_, next ((effAgree_compares fast mask hup hstm h2 hnew hex hack).trans (if_pos hbad)), failedAttempt_startExchange _⟩
  case trainFast =>
    intro h3
    obtain ⟨hstate, hattempts, -, -⟩ := startTraining_spec false d
    exact ⟨⟨_, rfl, effTrainFast_ok h3⟩, ⟨_, next (effTrainFast_failed h3), hstate, hattempts⟩⟩
  case trainFull =>
    intro h4
    exact ⟨⟨_, rfl, effTrainFull_ok [] h4⟩, ⟨_, next (effTrainFull_failed [] h4), failedAttempt_startExchange d⟩⟩
  case ready => exact fun h5 hmask => ⟨_, next (effReadiness_none h5), enterConfirm_spec (d := drew d) hmask⟩
  case notReady => exact fun l k h5 hfast hl => ⟨_, next (effReadiness_fastFailed k h5 hfast hl), failedAttempt_startTraining d⟩
  case linkUp =>
    rintro ⟨hup, hstm⟩ h6 hnone hmask
    exact ⟨effLinkUp mask z d, rfl, hmask ▸ effLinkUp_spec z hup hstm h6 hnone⟩
  case ack => exact fun f hf hagree hmask => next (effAck_found hf hagree hmask)
  case none_ => exact fun hf => ⟨next (effAck_none hf), next (effResend_none hf)⟩
  case again => exact fun f hf h => ⟨effResend cmd d, rfl, effResend_again hf h⟩
  case givenUp => exact fun f hf h hout => next (effResend_givenUp hf h hout)
  case attempt => exact fun f hf h hlo hhi => ⟨_, next (effResend_attempt hf h hlo hhi), failedAttempt_startExchange _⟩

end Sys2Proof.Machine
end

section
/-! PROOF. A write of the host's to a core in reset (O35): its port answers ERROR before R13 is applied to it (R242). -/

namespace Sys2Proof.Machine

/-! ### Responses leave the identity registers alone -/

theorem noteSent_ident (d : Die) (i : TxItem) : (noteSent d i).ident = d.ident := by
  unfold noteSent
  dsimp only
  split <;> rfl

theorem pumpMod_ident (n : Nat) (d : Die) : (pumpMod n d).ident = d.ident := by
  unfold pumpMod
  split
  · rfl
  · dsimp only
    have hcredits := foldl_keeps (g := Die.ident)
      (f := fun e (p : BitVec 8 × BitVec 16) => send e (.credits (BitVec.ofNat 8 n) p.1 false p.2)) (fun _ _ => rfl)
    exact (hcredits _ _).trans (foldl_keeps (g := Die.ident) noteSent_ident _ _)

theorem emitResponse_ident (d : Die) (gate : BitVec 5) (addr : Nat) (o : Out) (flits : Nat) :
    (emitResponse d gate addr o flits).ident = d.ident := pumpMod_ident _ _

theorem served_ident (d : Die) : (served d).ident = d.ident := rfl

/-! ### The refusal by the port -/

theorem portRefusal_ident (d : Die) (r : LineAsk) (write : Bool) (c : CoreId) : (portRefusal d r write c).ident = d.ident := rfl

theorem outsideWrite_reset {d : Die} {r : LineAsk} {c : CoreId} (byte : Nat → Byte) (h : askTo d r true = .reset c) :
    outsideWrite d r byte = (stError, portRefusal d r true c) := by simp [outsideWrite, h]

/-- A write to a core in reset that comes from no foreign party counts no refusal of R14. -/
theorem effHubWrite_reset_ident {d : Die} {r : HubReq} {c : CoreId} (data : BitVec 1024) (hgate : gateCarries d r.gate = true)
    (hsrc : ∀ v, admitForeign d r true v = d) (h : askTo d (hubAsk r) true = .reset c) :
    (effHubWrite r data d).ident = d.ident := by
  rw [effHubWrite, if_neg (by simp [hgate])]
  dsimp only
  rw [hsrc, outsideWrite_reset _ h]
  exact (emitResponse_ident _ _ _ _ _).trans ((served_ident _).trans (portRefusal_ident d _ _ c))

theorem exec_hubWriteRequest {r : HubReq} (data : BitVec 1024) (s : State) (h : lineOk r = true) :
    exec (.hubWriteRequest r data) s = .next (s.withDie (effHubWrite r data s.die)) := by
  show onDieIf (lineOk r) (effHubWrite r data) s = _
  rw [h, onDieIf_ok]

theorem die_eq_of_next {s : State} {u v : Die}
    (h : (Host.Outcome.next (s.withDie u) : Host.Outcome State Fault Refusal) = .next (s.withDie v)) : u = v := by
  injection h with h
  exact congrArg State.die h

/-- A die whose link is ACTIVE over gate 0, with core 0 in use and its port in reset. -/
def heldCoreDie : Die :=
  { Die.reset with
    boot := { Die.reset.boot with porst := false }
    link := { Die.reset.link with state := 7, agreed := 1 }
    ident := { Die.reset.ident with coreEn := 1 } }

/-- Eight bytes at the start of core 0's Lodge slice, asked for by the host through gate 0. -/
def hostAsk : HubReq := ⟨.host, 0x100000000000, 8, 0, 0⟩

theorem hostAsk_carried : lineOk hostAsk = true ∧ gateCarries heldCoreDie hostAsk.gate = true ∧
    ownOffset heldCoreDie hostAsk.addr.toNat = some 0 := by decide

/-- R13 denies the host the write, and the port refuses it first. -/
theorem hostAsk_denied : deny heldCoreDie hostAsk.src true [(0, hostAsk.len.toNat)] = some rsClassDenied ∧
    askTo heldCoreDie (hubAsk hostAsk) true = .reset 0 := by decide +kernel

/-- Refutes O35: the host's write to the slice of a core in reset is denied by R13 and yet answered ERROR by the core's port, with no
refusal counted; the statement's sixth clause has it answered REFUSED and counted. -/
theorem not_hubRequestsAnswered : ¬ Obligations.HubRequestsAnswered := by
  unfold Obligations.HubRequestsAnswered
  intro h
  obtain ⟨hline, hgate, hoff⟩ := hostAsk_carried
  obtain ⟨hdenied, hreset⟩ := hostAsk_denied
  obtain ⟨-, -, -, -, -, hwrite, -⟩ := h { State.reset with die := heldCoreDie } hostAsk 0 0
  obtain ⟨e, hexec, -, -, -, hcnt⟩ := hwrite rsClassDenied ⟨hline, hgate, hoff⟩ hdenied
  have hdie := die_eq_of_next ((exec_hubWriteRequest 0 _ hline).symm.trans hexec)
  have hident : e.ident = heldCoreDie.ident := by
    rw [← effHubWrite_reset_ident 0 hgate (fun _ => rfl) hreset]
    exact ((congrArg Die.ident hdie).trans (emitResponse_ident _ _ _ _ _)).symm
  rw [hident] at hcnt
  exact absurd hcnt (by decide)

end Sys2Proof.Machine
end

section
/-! PROOF. What reset leaves (O60). -/

namespace Sys2Proof.Machine

/-- No core is stored at reset, so that each of the die's cores reads as one after its own reset. -/
@[simp] theorem getCore_reset (c : CoreId) : getCore Die.reset c = Core.reset := rfl

/-- Core reset: the generators' seed (R61), the shadow accumulators (R83), the port held in reset (R240), the checksums' floor (R119). -/
theorem coreReset_registers : Core.reset.seed0 = 1 ∧ Core.reset.seed1 = 1 ∧ bitB Core.reset.accCfg 0 = true ∧
    Core.reset.portReset = true ∧ Core.reset.portEpoch = 0 ∧ Core.reset.abftFloor0 = 0x00800000 := by decide

theorem inReset_of_porst {d : Die} (h : d.boot.porst = true) : inReset d = true := by simp [inReset, h]

/-- Until the Keyholder loads MAX_OP it allows OP 0 alone, whatever TARGET and OP_L ask for (R336). -/
theorem effectiveOp_of_maxOp_zero {p : PowerSt} (h : p.maxOp = 0) : effectiveOp p = 0 := by simp [effectiveOp, h]

/-- Settles O60: the cores by `getCore_reset`, the memories by `reset_mem_wf`, the effective point by a MAX_OP of 0; the die's own
registers stand in the reset state. -/
theorem resetLeaves : Obligations.ResetLeaves := by
  unfold Obligations.ResetLeaves
  obtain ⟨hmem, hpkg, hflash⟩ := reset_mem_wf
  have hop : State.reset.die.power.effective.toNat = effectiveOp State.reset.die.power := (effectiveOp_of_maxOp_zero rfl).symm
  have hcores (c : CoreId) : getCore State.reset.die c = Core.reset := getCore_reset c
  refine ⟨rfl, inReset_of_porst rfl, hmem, hpkg, hflash, hop, rfl, rfl, rfl, rfl, fun c => ?_⟩
  rw [hcores]
  exact coreReset_registers

end Sys2Proof.Machine
end

section
/-! PROOF. What time does to a core (R65, R78, R97, R124 to R126, R156): the array's registers, status words, flag log and operations
move, the answers come, a half goes cold; nothing else does. -/

namespace Sys2Proof.Machine

/-! ### Registers moved -/

/-- From `x` to `y` only accumulator registers, their tags and status words, the flag log and the operations in flight moved. -/
def RegsMoved (x y : Core) : Prop :=
  ∃ acc tag0 tag1 tsw tswAt zinf flagMem flagCount flagLost ops, y = { x with
    acc := acc, tag0 := tag0, tag1 := tag1, tsw := tsw, tswAt := tswAt, zinf := zinf,
    flagMem := flagMem, flagCount := flagCount, flagLost := flagLost, ops := ops }

namespace RegsMoved

theorem refl (x : Core) : RegsMoved x x := ⟨_, _, _, _, _, _, _, _, _, _, rfl⟩

theorem trans {x y z : Core} : RegsMoved x y → RegsMoved y z → RegsMoved x z := by
  rintro ⟨_, _, _, _, _, _, _, _, _, _, rfl⟩ ⟨_, _, _, _, _, _, _, _, _, _, rfl⟩
  exact ⟨_, _, _, _, _, _, _, _, _, _, rfl⟩

theorem foldl {α : Type} {f : Core → α → Core} (hf : ∀ y a, RegsMoved y (f y a)) (l : List α) (x : Core) :
    RegsMoved x (l.foldl f x) := by
  induction l generalizing x with
  | nil => exact refl x
  | cons a l ih => exact (hf x a).trans (ih (f x a))

theorem ite {p : Prop} {_ : Decidable p} {x y z : Core} (hy : RegsMoved x y) (hz : RegsMoved x z) :
    RegsMoved x (if p then y else z) := by
  split
  exacts [hy, hz]

end RegsMoved

theorem regsMoved_logAppend (x : Core) (v : BitVec 64) : RegsMoved x (logAppend x v) :=
  .ite ⟨_, _, _, _, _, _, _, _, _, _, rfl⟩ ⟨_, _, _, _, _, _, _, _, _, _, rfl⟩

theorem regsMoved_clearReg (x : Core) (hs : HalfSel) (q : Nat) : RegsMoved x (clearReg x hs q) :=
  ⟨_, _, _, _, _, _, _, _, _, _, rfl⟩

theorem regsMoved_noteEvent (hs : HalfSel) (q t : Nat) (x : Core) (e : FlagEvent) : RegsMoved x (noteEvent hs q t x e) := by
  unfold noteEvent
  extract_lets first w x1 x2
  have h1 : RegsMoved x x1 := ⟨_, _, _, _, _, _, _, _, _, _, rfl⟩
  have h2 : RegsMoved x x2 :=
    .ite ⟨_, _, _, _, _, _, _, _, _, _, rfl⟩ (.ite h1 ⟨_, _, _, _, _, _, _, _, _, _, rfl⟩)
  exact .ite (h2.trans (regsMoved_logAppend x2 _)) h2

theorem regsMoved_eventComes (x : Core) (n t : Nat) (e : FlagEvent) : RegsMoved x (eventComes x n t e) := by
  unfold eventComes
  split
  · exact .refl x
  · rename_i o _
    extract_lets x1
    have h1 : RegsMoved x x1 := .ite ⟨_, _, _, _, _, _, _, _, _, _, rfl⟩ (.refl x)
    exact .ite (.ite h1 (h1.trans (regsMoved_logAppend x1 _))) (h1.trans (regsMoved_noteEvent _ _ t x1 e))

theorem regsMoved_rowsPassed (x : Core) (n : Nat) : RegsMoved x (rowsPassed x n) := by
  unfold rowsPassed
  split
  · exact .refl x
  · extract_lets x1
    have h1 : RegsMoved x x1 := ⟨_, _, _, _, _, _, _, _, _, _, rfl⟩
    exact .ite (h1.trans (regsMoved_clearReg x1 _ _)) h1

theorem regsMoved_comes (x : Core) (a : Coming) : RegsMoved x (comes x a) := by
  unfold comes
  split
  exacts [regsMoved_eventComes x _ _ _, regsMoved_rowsPassed x _]

/-! ### One core at `now` -/

/-- The core with its threads' answers written, as time finds the array. -/
def answersPaid (now : Nat) (x : Core) : Core := { x with t0 := payAnswers now x.t0, t1 := payAnswers now x.t1 }

/-- The core once what has come by `now` has taken effect in the array. -/
def arrived (now : Nat) (x : Core) : Core :=
  let y := (comeBy now (answersPaid now x)).foldl comes (answersPaid now x)
  { y with ops := y.ops.map (fun o => { o with evs := o.evs.filter (fun v => decide (now < v.1)) }) }

theorem passTime_eq (now : Nat) (x : Core) : passTime now x = { arrived now x with
    cold0 := if (arrived now x).split then coldAt (arrived now x) now false
      else coldAt (arrived now x) now false || coldAt (arrived now x) now true,
    cold1 := if (arrived now x).split then coldAt (arrived now x) now true
      else coldAt (arrived now x) now false || coldAt (arrived now x) now true } := rfl

theorem regsMoved_arrived (now : Nat) (x : Core) : RegsMoved (answersPaid now x) (arrived now x) :=
  (RegsMoved.foldl regsMoved_comes _ _).trans ⟨_, _, _, _, _, _, _, _, _, _, rfl⟩

/-- Time moves registers and operations, pays answers, and cools the halves. -/
theorem passTime_frame (now : Nat) (x : Core) : ∃ acc tag0 tag1 tsw tswAt zinf flagMem flagCount flagLost ops cold0 cold1,
    passTime now x = { x with
      acc := acc, tag0 := tag0, tag1 := tag1, tsw := tsw, tswAt := tswAt, zinf := zinf,
      flagMem := flagMem, flagCount := flagCount, flagLost := flagLost, ops := ops, cold0 := cold0, cold1 := cold1,
      t0 := payAnswers now x.t0, t1 := payAnswers now x.t1 } := by
  obtain ⟨_, _, _, _, _, _, _, _, _, _, h⟩ := regsMoved_arrived now x
  rw [passTime_eq, h]
  exact ⟨_, _, _, _, _, _, _, _, _, _, _, _, rfl⟩

section Frame

variable (now : Nat) (x : Core)

@[simp] theorem passTime_split : (passTime now x).split = x.split := by
  obtain ⟨_, _, _, _, _, _, _, _, _, _, _, _, h⟩ := passTime_frame now x
  rw [h]

@[simp] theorem passTime_latch : (passTime now x).latch = x.latch := by
  obtain ⟨_, _, _, _, _, _, _, _, _, _, _, _, h⟩ := passTime_frame now x
  rw [h]

@[simp] theorem passTime_partials : (passTime now x).partials = x.partials := by
  obtain ⟨_, _, _, _, _, _, _, _, _, _, _, _, h⟩ := passTime_frame now x
  rw [h]

@[simp] theorem passTime_fault : (passTime now x).fault = x.fault := by
  obtain ⟨_, _, _, _, _, _, _, _, _, _, _, _, h⟩ := passTime_frame now x
  rw [h]

@[simp] theorem passTime_stampWait : (passTime now x).stampWait = x.stampWait := by
  obtain ⟨_, _, _, _, _, _, _, _, _, _, _, _, h⟩ := passTime_frame now x
  rw [h]

@[simp] theorem passTime_pmem : (passTime now x).pmem = x.pmem := by
  obtain ⟨_, _, _, _, _, _, _, _, _, _, _, _, h⟩ := passTime_frame now x
  rw [h]

@[simp] theorem passTime_waybills : (passTime now x).waybills = x.waybills := by
  obtain ⟨_, _, _, _, _, _, _, _, _, _, _, _, h⟩ := passTime_frame now x
  rw [h]

@[simp] theorem passTime_lines : (passTime now x).lines = x.lines := by
  obtain ⟨_, _, _, _, _, _, _, _, _, _, _, _, h⟩ := passTime_frame now x
  rw [h]

/-- A thread in time: the answers that have come are written. -/
@[simp] theorem getThread_passTime (t : Bool) : getThread (passTime now x) t = payAnswers now (getThread x t) := by
  obtain ⟨_, _, _, _, _, _, _, _, _, _, _, _, h⟩ := passTime_frame now x
  rw [h]
  cases t <;> rfl

end Frame

/-! ### Cold halves (R65, R78) -/

theorem coldAt_of_past {x : Core} {now : Nat} {h : Bool} (hlast : lastAct x h + 257 ≤ now) : coldAt x now h = true := if_pos hlast

theorem lastAct_arrived (now : Nat) (x : Core) (h : Bool) : lastAct (arrived now x) h = lastAct x h := by
  obtain ⟨_, _, _, _, _, _, _, _, _, _, e⟩ := regsMoved_arrived now x
  rw [e]
  rfl

/-- A half is cold once 256 idle ACLK have passed. -/
theorem passTime_cold {x : Core} {now : Nat} {h : Bool} (hlast : lastAct x h + 257 ≤ now) :
    (if h then (passTime now x).cold1 else (passTime now x).cold0) = true := by
  have hc : coldAt (arrived now x) now h = true := coldAt_of_past (by rwa [lastAct_arrived])
  rw [passTime_eq]
  cases h <;> simp [hc]

/-- In full mode both halves are as cold as one. -/
theorem passTime_cold_alike {x : Core} (now : Nat) (hs : x.split = false) : (passTime now x).cold0 = (passTime now x).cold1 := by
  have harr : (arrived now x).split = false := by
    obtain ⟨_, _, _, _, _, _, _, _, _, _, e⟩ := regsMoved_arrived now x
    rw [e]
    exact hs
  rw [passTime_eq]
  simp [harr]

/-- Nothing is to come where nothing is in flight: the array stays. -/
theorem passTime_of_no_ops {x : Core} (now : Nat) (hops : x.ops = []) : ∃ cold0 cold1,
    passTime now x = { answersPaid now x with cold0 := cold0, cold1 := cold1 } := by
  have hcome : comeBy now (answersPaid now x) = [] := by
    have h : (answersPaid now x).ops = [] := hops
    simp [comeBy, h]
  have harr : arrived now x = answersPaid now x := by
    have h : (answersPaid now x).ops = [] := hops
    simp only [arrived, hcome, List.foldl_nil, h, List.map_nil]
    rw [← h]
  rw [passTime_eq, harr]
  exact ⟨_, _, rfl⟩

end Sys2Proof.Machine
end

section
/-! PROOF. A word that dispatches and issues at once: the die its unit finds, and what the throttle's charge, the rows read for it and
the buffers it takes leave as they were (R133, R154, R164, R191, R344). -/

namespace Sys2Proof.Machine

/-! ### The die as its unit finds it -/

theorem setThread_setThread (x : Core) (t : Bool) (a b : Thread) : setThread (setThread x t a) t b = setThread x t b := by
  cases t <;> rfl

/-- A thread written leaves the rest of its core. -/
theorem setThread_frame (x : Core) (t : Bool) (th : Thread) :
    setThread x t th = { x with t0 := (setThread x t th).t0, t1 := (setThread x t th).t1 } := by
  cases t <;> rfl

/-- The thread of a word handed to its unit. -/
def handedThread (q : QueueId) (prep : Thread → Thread) (e : QEntry) (th : Thread) : Thread :=
  putQueue (advance (prep { (putQueue th q (getQueue th q ++ [e])) with seqNo := th.seqNo + 1 })) q []

section AsTaken

variable (d : Die) (c : CoreId) (t : Bool) (q : QueueId) (prep : Thread → Thread) (op : Nat) (w : BitVec 58)

theorem getCore_asTaken : getCore (asTaken d c t q prep op w) c =
    setThread (getCore d c) t (handedThread q prep (wordEntry d c t op w) (threadAt d c t)) := by
  simp [asTaken, handed, behind, modThread, setThread_setThread, handedThread]

theorem getCore_asTaken_ne {k : CoreId} (h : k ≠ c) : getCore (asTaken d c t q prep op w) k = getCore d k := by
  simp [asTaken, handed, behind, modThread, getCore_modCore_ne _ _ h]

theorem threadAt_asTaken : threadAt (asTaken d c t q prep op w) c t =
    handedThread q prep (wordEntry d c t op w) (threadAt d c t) := by
  rw [threadAt, getCore_asTaken, getThread_setThread]

@[simp] theorem asTaken_split : (getCore (asTaken d c t q prep op w) c).split = (getCore d c).split := by
  rw [getCore_asTaken, setThread_frame]

end AsTaken

@[simp] theorem wordEntry_word (d : Die) (c : CoreId) (t : Bool) (op : Nat) (w : BitVec 58) :
    (wordEntry d c t op w).word = mkWord op w := rfl

/-! ### Issue at once -/

theorem getQueue_streamPtr (th : Thread) (v : BitVec 32) (q : QueueId) : getQueue { th with streamPtr := v } q = getQueue th q := by
  cases q <;> rfl

section Issue

variable {d d' : Die} {c : CoreId} {t : Bool} {q : QueueId} {prep : Thread → Thread} {op : Nat} {w : BitVec 58} {f : IssueFn}

/-- A word for an empty queue that its unit takes. -/
theorem dispatch_enqueue_issues (h : issuesNow d c t q op w = true) (hs : q ≠ .sequencer)
    (hp : ∀ th, getQueue (advance (prep th)) q = getQueue th q)
    (hf : f (asTaken d c t q prep op w) c t (wordEntry d c t op w) = some d') :
    dispatch c t op w (enqueue q c t prep f) d = d' := by
  obtain ⟨hready, hfree⟩ := Bool.and_eq_true_iff.mp h
  exact (dispatch_ready _ hready).trans (enqueue_issues hfree hs hp hf)

/-- The same for a word that may take Lodge bytes, when they lie in the slice (R154). -/
theorem dispatch_lodgeBody_issues (h : issuesNow d c t q op w = true) (hs : q ≠ .sequencer)
    (hp : ∀ th, getQueue (advance (prep th)) q = getQueue th q)
    (hfits : lodgeTake (getCore d c).split (wordEntry d c t op w).word = 0 ∨
      (wordEntry d c t op w).stream + lodgeTake (getCore d c).split (wordEntry d c t op w).word ≤ sliceSize)
    (hf : f (asTaken d c t q (fun th => prep (lodgePrep d c op w th)) op w) c t (wordEntry d c t op w) = some d') :
    dispatch c t op w (lodgeBody q f c t prep) d = d' := by
  obtain ⟨hready, hfree⟩ := Bool.and_eq_true_iff.mp h
  have hprep : ∀ th, getQueue (advance (prep (lodgePrep d c op w th))) q = getQueue th q := fun th =>
    (hp _).trans (getQueue_streamPtr th _ q)
  rw [wordEntry_word] at hfits
  have hin : ¬ (sliceSize < (wordEntry d c t op w).stream + lodgeTake (getCore d c).split (mkWord op w) &&
      lodgeTake (getCore d c).split (mkWord op w) ≠ 0) = true := by
    simp only [ne_eq, Bool.and_eq_true, decide_eq_true_eq, not_and, Decidable.not_not]
    exact fun hout => hfits.resolve_right (Nat.not_le.mpr hout)
  rw [dispatch_ready _ hready, lodgeBody, wordEntry_word, if_neg hin]
  exact enqueue_issues hfree hs hprep hf

/-- An issue that the throttle lets through is charged for (R344). -/
theorem paced_issues {occ : QEntry → Nat} {e : QEntry} (ht : throttled d c t = false) (hf : f d c t e = some d') :
    paced occ f d c t e = some (charge c t (occ e) d') := by
  simp [paced, ht, hf]

end Issue

/-! ### The Lodge bytes of a word -/

section LodgeClear

variable {d : Die} {c : CoreId} {t : Bool} {e : QEntry} (h : lodgeClear d c t e)
include h

theorem lodgeClear_fits : lodgeTake (getCore d c).split e.word = 0 ∨ e.stream + lodgeTake (getCore d c).split e.word ≤ sliceSize :=
  h.imp_right fun h => h.1

theorem lodgeClear_free : (decide (lodgeTake (getCore d c).split e.word ≠ 0) &&
    lodgeHeld (getCore d c) t e e.stream (lodgeTake (getCore d c).split e.word) false) = false := by
  rcases h with h | ⟨-, h, -⟩ <;> simp [h]

theorem lodgeClear_sound : ueIn d c e.stream (lodgeTake (getCore d c).split e.word) = none := by
  rcases h with h | ⟨-, -, h⟩
  · simp [h, ueIn, rowsIn]
  · exact h

end LodgeClear

theorem RowsSensed.tally {d u : Die} : RowsSensed d u → u.tally = d.tally := by rintro ⟨_, _, _, _, _, _, rfl⟩; rfl

theorem rowsSensed_senseRows (src : Nat) (c : CoreId) (off n : Nat) (d : Die) : RowsSensed d (senseRows src c off n d) :=
  rowsSensed_foldl_senseRow src _ d

@[simp] theorem getCore_senseRows (src : Nat) (c k : CoreId) (off n : Nat) (d : Die) :
    getCore (senseRows src c off n d) k = getCore d k := by
  rw [getCore, (rowsSensed_senseRows src c off n d).cores, getCore]

/-! ### The throttle's charge -/

theorem charge_frame (c : CoreId) (t : Bool) (n : Nat) (d : Die) : charge c t n d = { d with cores := (charge c t n d).cores } := by
  unfold charge
  split <;> rfl

/-- A charge moves the thread's count alone. -/
theorem getCore_charge (c : CoreId) (t : Bool) (n : Nat) (d : Die) :
    (∃ t0 t1, getCore (charge c t n d) c = { getCore d c with t0 := t0, t1 := t1 }) ∧
    (threadAt (charge c t n d) c t).regs = (threadAt d c t).regs := by
  unfold charge
  split
  · exact ⟨⟨_, _, rfl⟩, rfl⟩
  · exact ⟨⟨_, _, (getCore_modCore d c _).trans (setThread_frame _ _ _)⟩, by rw [getThread_modThread]⟩

theorem getCore_charge_ne (c : CoreId) (t : Bool) (n : Nat) (d : Die) {k : CoreId} (h : k ≠ c) :
    getCore (charge c t n d) k = getCore d k := by
  unfold charge
  split
  exacts [rfl, getCore_modCore_ne d _ h]

/-! ### Buffers taken -/

theorem takeRings_frame (x : Core) (ns : List Nat) (due : Nat) : ∃ rings, takeRings x ns due = { x with rings := rings } := by
  refine List.foldlRecOn (motive := fun y : Core => ∃ rings, y = { x with rings := rings }) ns _ ⟨x.rings, rfl⟩ ?_
  rintro _ ⟨_, rfl⟩ n -
  exact ⟨_, rfl⟩

end Sys2Proof.Machine
end

section
/-! PROOF. O7: an MMA carried out at once (R71, R77, R88, R143). -/

namespace Sys2Proof.Machine

theorem le_maxL_head (a : Nat) (l : List Nat) : a ≤ maxL (a :: l) := by
  have h : ∀ (l : List Nat) (b : Nat), b ≤ l.foldl max b := fun l => by
    induction l with
    | nil => exact fun b => le_rfl
    | cons n l ih => exact fun b => (le_max_left b n).trans (ih _)
  exact (le_max_right 0 a).trans (h l _)

section Accepted

variable {d0 d : Die} {c : CoreId} {t : Bool} {e : QEntry} {hs : HalfSel} {fa fb : Format}

/-- An MMA that nothing holds or rejects is carried out once the holds that end at a known cycle are over. -/
theorem issueMma_accepted (hd : waitUntil d0 (mmaFrom d0.aclk (getCore d0 c) hs e) = d)
    (hrej : mmaReject (getCore d c) t e.word = none) (hbad : badRing (getCore d c) t (mmaRings e.word) = none)
    (hfa : formatOf (fld e.word 41 5) = some fa) (hfb : formatOf (fld e.word 36 5) = some fb)
    (hhs : halfField (fld e.word 46 2) = some hs)
    (hnames : earlierNames (getCore d0 c) (getThread (getCore d0 c) t).edge e (fld e.word 50 4) = false)
    (hready : ringsReady (getCore d c) (mmaRings e.word) = true) (hlodge : lodgeClear d c t e) :
    issueMma d0 c t e = some (setCore (senseRows srcFeed c e.stream (lodgeTake (getCore d c).split e.word) d) c
      (startMma d c t e hs fa fb)) := by
  unfold issueMma
  simp only [hhs, hnames, hd, hrej, hbad, hfa, hfb, hready, lodgeClear_free hlodge, lodgeClear_sound hlodge, Bool.false_eq_true,
    Bool.not_true, if_false]

end Accepted

section Started

variable (d : Die) (c : CoreId) (t : Bool) (e : QEntry) (hs : HalfSel) (fa fb : Format)

/-- The arithmetic of an MMA's word. -/
def mmaRunOf (W : BitVec 64) (fa fb : Format) : MmaRun :=
  ⟨BitVec.ofNat 2 (fld W 34 2), bitB W 33, packing (clsWider fa.cls fb.cls) (BitVec.ofNat 2 (fld W 34 2) = accACC16),
    passesOf fa.cls fb.cls, fld W 0 16, fld W 22 3⟩

/-- s of R71 for an MMA's word. -/
def mmaStride (W : BitVec 64) (hs : HalfSel) : Nat :=
  stepStride (BitVec.ofNat 2 (fld W 34 2) = accACC16) (fld W 29 4 == 8) (fld W 25 4 == 8) (hs == .full)

/-- The operation an MMA puts in flight at a cycle no earlier than `now` (R71, R75). -/
def IsMmaOp (x : Core) (t : Bool) (W : BitVec 64) (hs : HalfSel) (now : Nat) (o : ArrOp) : Prop :=
  o.kind = .mma ∧ o.thread = t ∧ o.half = hs ∧ o.reg = BitVec.ofNat 4 (slotReg x hs (fld W 50 4)) ∧ now ≤ o.start ∧
  o.accept = o.start + mmaStride W hs * fld W 0 16 ∧
  o.tLast = mmaTLast o.start (mmaStride W hs) (fld W 0 16) (if fld W 29 4 == 8 || fld W 25 4 == 8 then 9 else 0) (repairSkew x)
    (hs == .full) ∧
  o.due = if abftOn x hs then o.tLast + 2 else o.tLast

/-- An MMA carried out: its plane, its tag and its operation, the activity it notes, the buffers it takes. -/
theorem startMma_eq : ∃ o due lodge rings, IsMmaOp (getCore d c) t e.word hs d.aclk o ∧
    startMma d c t e hs fa fb = { addOp (noteFeed (released (putTag (mmaPlane (getCore d c) (slotReg (getCore d c) hs (fld e.word 50 4)) hs
        (mmaRunOf e.word fa fb) (mmaFeeds d c e hs fa fb (mmaRunOf e.word fa fb)) (abftOn (getCore d c) hs)) hs
        (slotReg (getCore d c) hs (fld e.word 50 4)) (8 + (mmaRunOf e.word fa fb).mode.toNat)) hs) hs due lodge) o with
      rings := rings } := by
  unfold startMma
  extract_lets x w acc q lodge m s l t0 tLast en fd due base op x1
  obtain ⟨rings, h⟩ := takeRings_frame (addOp (noteFeed (released x1 hs) hs due (some lodge)) op) (mmaRings w) (t0 + s * (m.k16 - 1) + 1)
  have hstart : d.aclk ≤ t0 := (Nat.le_add_right _ _).trans (le_maxL_head _ _)
  exact ⟨op, due, some lodge, rings, ⟨rfl, rfl, rfl, rfl, hstart, rfl, rfl, rfl⟩, h⟩

/-- What an MMA carried out leaves in its core: its plane, its tag, its operation; the rest as it was. -/
theorem startMma_spec : ∃ o, IsMmaOp (getCore d c) t e.word hs d.aclk o ∧
    let x := getCore d c
    let y := startMma d c t e hs fa fb
    let q := slotReg x hs (fld e.word 50 4)
    let m := mmaRunOf e.word fa fb
    y.ops = x.ops ++ [o] ∧ y.acc = (mmaPlane x q hs m (mmaFeeds d c e hs fa fb m) (abftOn x hs)).acc ∧
    y.tag0 = (putTag x hs q (8 + m.mode.toNat)).tag0 ∧ y.tag1 = (putTag x hs q (8 + m.mode.toNat)).tag1 ∧
    y.latch = x.latch ∧ y.res0 = x.res0 ∧ y.res1 = x.res1 ∧ y.partials = x.partials ∧ y.accCfg = x.accCfg ∧
    ∀ u, getThread y u = getThread x u := by
  obtain ⟨o, due, lodge, rings, hop, h⟩ := startMma_eq d c t e hs fa fb
  refine ⟨o, hop, ?_⟩
  simp [h, addOp, noteFeed, released, putTag, mmaPlane, accUpd, getThread]

end Started

/-- Settles O7: the MMA issues at once, and what it leaves in its core is `startMma_spec`; the rows read and the charge touch neither
its core's array nor any memory. -/
theorem multiplyAccumulate : Obligations.MultiplyAccumulate := by
  unfold Obligations.MultiplyAccumulate
  intro s c t w fa fb hs
  extract_lets W e d0 x0 d x acc q m lodge
  intro hissue hth hrej hbad hfa hfb hhs hnames hready hlodge
  set d1 := setCore (senseRows srcFeed c e.stream (lodgeTake x.split W) d) c (startMma d c t e hs fa fb) with hd1
  have hissued : issueMma d0 c t e = some d1 := issueMma_accepted rfl hrej hbad hfa hfb hhs hnames hready hlodge
  have hsplit : x.split = (getCore s.die c).split := by
    rw [show x = passTime _ x0 from getCore_waitUntil _ _ _, passTime_split, asTaken_split]
  have hexec : exec (.mma c t w) s = .next (s.withDie (charge c t (mmaOcc e) d1)) :=
    onDie_eq (dispatch_lodgeBody_issues hissue (by decide) (fun _ => rfl) (hsplit ▸ lodgeClear_fits hlodge) (paced_issues hth hissued))
  have hsensed := rowsSensed_senseRows srcFeed c e.stream (lodgeTake x.split W) d
  have hcore : getCore d1 c = startMma d c t e hs fa fb := getCore_setCore _ _ _
  obtain ⟨o, ⟨hkind, hthread, hhalf, hreg, hnow, haccept, htlast, hdue⟩, hops, hacc, htag0, htag1, hlatch, hres0, hres1, hpart, hcfg,
    hthreads⟩ := startMma_spec d c t e hs fa fb
  obtain ⟨⟨t0, t1, hcharge⟩, hregs⟩ := getCore_charge c t (mmaOcc e) d1
  have hregs' : (threadAt (charge c t (mmaOcc e) d1) c t).regs = (threadAt d c t).regs := by
    rw [hregs, threadAt, hcore, hthreads t]
  have hothers : ∀ k, k ≠ c → getCore (charge c t (mmaOcc e) d1) k = getCore d k := fun k hk => by
    rw [getCore_charge_ne _ _ _ _ hk, getCore_setCore_ne _ _ hk, getCore_senseRows]
  rw [hcore] at hcharge
  refine ⟨_, o, hexec, hkind, hthread, hhalf, hreg, hnow, haccept, htlast, hdue, ?_⟩
  rw [hcharge, charge_frame]
  exact ⟨hops, hacc, htag0, htag1, hlatch, hres0, hres1, hpart, hcfg, hregs', hsensed.mem, hsensed.pkg, hsensed.tally, hothers⟩

end Sys2Proof.Machine
end

section
/-! PROOF. O8 fails: a PRELOAD clears its register first (R92), and clearing notes itself on a slot read of that register whose last row
has passed and whose status word is still to come (R126), so that the operations in flight are not those before and the PRELOAD's own. -/

namespace Sys2Proof.Machine

/-! ### A PRELOAD carried out at once -/

theorem noteEvent_ops (hs : HalfSel) (q t : Nat) (x : Core) (e : FlagEvent) : (noteEvent hs q t x e).ops = x.ops := by
  simp only [noteEvent, logAppend, putTsw]
  split_ifs <;> rfl

section Preload

variable {d0 d : Die} {c : CoreId} {t : Bool} {e : QEntry} {hs : HalfSel} {f : Format}

theorem issuePreload_accepted (hd : waitUntil d0 (preloadFrom d0.aclk (getCore d0 c) hs e) = d)
    (hrej : preloadReject (getCore d c) t e.word = none) (hbad : badRing (getCore d c) t [fld e.word 36 4] = none)
    (hhs : halfField (fld e.word 48 2) = some hs) (hf : formatOf (fld e.word 41 5) = some f)
    (hnames : earlierNames (getCore d0 c) (getThread (getCore d0 c) t).feed e (fld e.word 50 4) = false)
    (hmma : anyMma (opsOn (getCore d0 c) hs (slotReg (getCore d0 c) hs (fld e.word 50 4)) e.seq) = false)
    (hready : ringsReady (getCore d c) [fld e.word 36 4] = true) :
    issuePreload d0 c t e = some (setCore d c (startPreload d c t e hs f)) := by
  unfold issuePreload
  simp only [hhs, hnames, hmma, hd, hrej, hbad, hf, hready, Bool.false_eq_true, Bool.not_true, if_false]

/-- The PRELOAD joins the operations that its clear has left. -/
theorem startPreload_ops (d : Die) (c : CoreId) (t : Bool) (e : QEntry) (hs : HalfSel) (f : Format) : ∃ o,
    (startPreload d c t e hs f).ops = (clearReg (getCore d c) hs (slotReg (getCore d c) hs (fld e.word 50 4))).ops ++ [o] := by
  unfold startPreload
  extract_lets x w ring q mode src ee x1 x2 base op
  obtain ⟨rings, h⟩ := takeRings_frame (addOp x2 op) [ring] (d.aclk + ee)
  have hx2 : x2.ops = x1.ops := List.foldlRecOn (motive := fun y : Core => y.ops = x1.ops) _ _ rfl
    fun y hy v _ => (noteEvent_ops hs q d.aclk y v).trans hy
  rw [h]
  exact ⟨op, congrArg (· ++ [op]) hx2⟩

/-- So do the operations of its core once the word has issued. -/
theorem exec_preload_ops {s : State} {w : BitVec 58} (hissue : issuesNow s.die c t .edge 0x22 w = true)
    (hth : throttled (asTaken s.die c t .edge id 0x22 w) c t = false)
    (hissued : issuePreload (asTaken s.die c t .edge id 0x22 w) c t (wordEntry s.die c t 0x22 w) =
      some (setCore d c (startPreload d c t (wordEntry s.die c t 0x22 w) hs f))) : ∃ u o,
    exec (.preload c t w) s = .next (s.withDie u) ∧
    (getCore u c).ops = (clearReg (getCore d c) hs (slotReg (getCore d c) hs (fld (mkWord 0x22 w) 50 4))).ops ++ [o] := by
  obtain ⟨o, ho⟩ := startPreload_ops d c t (wordEntry s.die c t 0x22 w) hs f
  refine ⟨_, o, onDie_eq (dispatch_enqueue_issues hissue (by decide) (fun _ => rfl) (paced_issues hth hissued)), ?_⟩
  obtain ⟨⟨t0, t1, hcharge⟩, -⟩ := getCore_charge c t (preloadE ((halfField (fld (mkWord 0x22 w) 48 2)).getD .full) (mkWord 0x22 w))
    (setCore d c (startPreload d c t (wordEntry s.die c t 0x22 w) hs f))
  rw [getCore_setCore] at hcharge
  exact (congrArg Core.ops hcharge).trans ho

end Preload

/-! ### A DRAIN still to deliver -/

/-- A DRAIN of register 0 whose last row has left in cycle 32 and whose status word is due in cycle 38. -/
def undelivered : ArrOp :=
  { newOp .drain false .full ⟨0, mkWord 0x23 0, [], 0, 0, 0⟩ 1 with tLast := 32, due := 38, copied := true }

/-- A core in that state, about to dispatch a PRELOAD of register 0 from ring 0, whose head is FULL. -/
def undeliveredCore : Core :=
  { Core.reset with
    t0 := { Thread.reset with run := .running, seqNo := 1, readsOut := 1 }
    pmem := [(0, mkWord 0x22 0)]
    rings := [(0, { Ring.reset with cfg := 0x8000000000000000#64, buf := 2 })]
    ops := [undelivered] }

/-- A die that runs, with that core, in cycle 34. -/
def undeliveredDie : Die :=
  { Die.reset with aclk := 34, boot := { Die.reset.boot with porst := false }, cores := [(0, undeliveredCore)] }

/-- The die as the PRELOAD finds it: handed to its unit, and once its holds are over. -/
def preloadHanded : Die := asTaken undeliveredDie 0 false .edge id 0x22 0
def preloadEntry : QEntry := wordEntry undeliveredDie 0 false 0x22 0
def preloadStart : Die := waitUntil preloadHanded (preloadFrom preloadHanded.aclk (getCore preloadHanded 0) .full preloadEntry)

theorem undelivered_issues : issuesNow undeliveredDie 0 false .edge 0x22 0 = true ∧ throttled preloadHanded 0 false = false ∧
    earlierNames (getCore preloadHanded 0) (getThread (getCore preloadHanded 0) false).feed preloadEntry 0 = false ∧
    anyMma (opsOn (getCore preloadHanded 0) .full (slotReg (getCore preloadHanded 0) .full 0) preloadEntry.seq) = false := by
  decide +kernel

theorem undelivered_accepted : preloadReject (getCore preloadStart 0) false (mkWord 0x22 0) = none ∧
    badRing (getCore preloadStart 0) false [0] = none ∧ ringsReady (getCore preloadStart 0) [0] = true := by
  decide +kernel

/-- The clear marks the DRAIN. -/
theorem undelivered_marked :
    (clearReg (getCore preloadStart 0) .full (slotReg (getCore preloadStart 0) .full 0)).ops ≠ (getCore preloadStart 0).ops := by
  decide +kernel

/-- Refutes O8: with a DRAIN of the PRELOAD's register still to deliver its status word, the operations before the PRELOAD's own are not
those that were in flight: the DRAIN is marked as cleared. -/
theorem not_residentAndBiasLoads : ¬ Obligations.ResidentAndBiasLoads := by
  unfold Obligations.ResidentAndBiasLoads
  intro h
  have hfmt : formatOf 0 = some ⟨.flt fmtFP32, 32, .c32, false, false⟩ := rfl
  obtain ⟨hissue, hth, hnames, hmma⟩ := undelivered_issues
  obtain ⟨hrej, hbad, hready⟩ := undelivered_accepted
  obtain ⟨-, hpreload⟩ := h ⟨[], undeliveredDie⟩ 0 false 0 ⟨.flt fmtFP32, 32, .c32, false, false⟩ .full
  obtain ⟨u, o, hexec, hops, -⟩ := hpreload hissue hth hrej hbad rfl hfmt hnames hmma hready
  obtain ⟨v, p, hexec', hops'⟩ := exec_preload_ops (s := ⟨[], undeliveredDie⟩) (w := 0) hissue hth
    (issuePreload_accepted (d := preloadStart) rfl hrej hbad rfl hfmt hnames hmma hready)
  have hlists := hops'.symm.trans ((congrArg (fun d => (getCore d 0).ops) (die_eq_of_next (hexec'.symm.trans hexec))).trans hops)
  exact undelivered_marked (List.append_inj_left' hlists rfl)

end Sys2Proof.Machine
end

section
/-! PROOF. O9: a DRAIN carried out at once, to core store and to a ring (R75, R94 to R97, R145, R165, R182). -/

namespace Sys2Proof.Machine

/-! ### Bytes written one run after another -/

/-- Bytes that no run covers read as before. -/
theorem memGet_foldl_write {α : Type} (place : α → Nat) (bytes : α → List Byte) {a : Nat} (l : List α)
    (h : ∀ p ∈ l, a < place p ∨ place p + (bytes p).length ≤ a) (m : List Host.Cell) :
    memGet (l.foldl (fun m p => memWrite m (place p) (bytes p)) m) a = memGet m a := by
  induction l generalizing m with
  | nil => rfl
  | cons p l ih =>
    have hp : ¬ (place p ≤ a ∧ a < place p + (bytes p).length) := by
      have := h p List.mem_cons_self
      omega
    rw [List.foldl_cons, ih (fun r hr => h r (List.mem_cons_of_mem p hr)), memGet_write, if_neg hp]

/-- A tile's rows in a memory at their pitch from `base` on, and its scale plane after the last (R97). -/
def tileAt (base pitch : Nat) (o : TileOut) (m : List Host.Cell) : List Host.Cell :=
  let rows := o.rows.zipIdx.foldl (fun m p => memWrite m (base + p.2 * pitch) p.1) m
  if o.plane.isEmpty then rows else memWrite rows (base + o.rows.length * pitch) o.plane

theorem putStore_add (d : Die) (c : CoreId) (base k : Nat) (l : List Byte) :
    putStore d c (base + k) l = { d with mem := memWrite d.mem (storeBase c + base + k) l } := by
  rw [putStore, Nat.add_assoc]

/-- Rows stored move the memory alone. -/
theorem storeRows_eq (d : Die) (c : CoreId) (base pitch : Nat) (o : TileOut) :
    storeRows d c base pitch o = { d with mem := tileAt (storeBase c + base) pitch o d.mem } := by
  have hrows : ∀ (l : List (List Byte × Nat)) (e : Die), l.foldl (fun e p => putStore e c (base + p.2 * pitch) p.1) e =
      { e with mem := l.foldl (fun m p => memWrite m (storeBase c + base + p.2 * pitch) p.1) e.mem } := by
    intro l
    induction l with
    | nil => exact fun _ => rfl
    | cons p l ih =>
      intro e
      rw [List.foldl_cons, ih, putStore_add, List.foldl_cons]
  simp only [storeRows, hrows, tileAt]
  split
  · rfl
  · rw [putStore_add]

theorem length_le_sum_of_mem_zipIdx {l : List (List Byte)} {p : List Byte × Nat} (h : p ∈ l.zipIdx) :
    p.2 < l.length ∧ p.1.length ≤ (l.map List.length).sum := by
  obtain ⟨hlt, he⟩ := List.mem_zipIdx' h
  exact ⟨hlt, List.single_le_sum (fun _ _ => Nat.zero_le _) _ (List.mem_map_of_mem (he ▸ List.getElem_mem hlt))⟩

/-- Every byte outside the area of a tile's rows and plane reads as before. -/
theorem elseSame_tileAt (base pitch : Nat) (o : TileOut) (m : List Host.Cell) :
    ElseSame m (tileAt base pitch o m) base (o.rows.length * pitch + (o.rows.map List.length).sum + o.plane.length) := by
  intro a ha
  have hrows : memGet (o.rows.zipIdx.foldl (fun m p => memWrite m (base + p.2 * pitch) p.1) m) a = memGet m a := by
    refine memGet_foldl_write (fun p => base + p.2 * pitch) Prod.fst _ (fun p hp => ?_) m
    obtain ⟨hlt, hlen⟩ := length_le_sum_of_mem_zipIdx hp
    have hpitch : p.2 * pitch ≤ o.rows.length * pitch := Nat.mul_le_mul_right _ hlt.le
    omega
  unfold tileAt
  dsimp only
  split
  · exact hrows
  · rw [memGet_write, if_neg (by omega), hrows]

/-! ### Output into a ring (R165, R182) -/

theorem foldl_send {α : Type} (f : α → Out) (l : List α) (d : Die) :
    l.foldl (fun e b => send e (f b)) d = { d with out := d.out ++ l.map f } := by
  induction l generalizing d with
  | nil => simp
  | cons b l ih => rw [List.foldl_cons, ih]; simp [send]

theorem bufState_startTail (r : Ring) (i : BufInfo) : bufState (startTail r i) r.tail.toNat = 1 := by
  show fld (putFld r.buf (2 * (r.tail.toNat % 4)) 2 1) (2 * (r.tail.toNat % 4)) 2 = 1
  exact fld_putFld_same _ _ (by omega)

/-- Output into a ring moves its core's rings, links and waybills. -/
def OutputMoved (c : CoreId) (d u : Die) : Prop :=
  (∃ rings members waybills, getCore u c = { getCore d c with rings := rings, members := members, waybills := waybills }) ∧
  ∀ k, k ≠ c → getCore u k = getCore d k

section Produce

variable {d : Die} {c : CoreId} {n : Nat} (src due : Nat) (bytes : List Byte)

/-- Into a hand-over proxy nothing is stored: the tile leaves. -/
theorem produceInto_proxy (h : isProxy (getRing (getCore d c) n) = true) :
    OutputMoved c d (produceInto d c n src due bytes) ∧ (produceInto d c n src due bytes).mem = d.mem := by
  simp only [produceInto, h, if_true]
  split
  · exact ⟨⟨⟨_, _, _, rfl⟩, fun _ _ => rfl⟩, rfl⟩
  · split
    · exact ⟨⟨⟨_, _, _, getCore_setCore _ _ _⟩, fun _ hk => getCore_setCore_ne _ _ hk⟩, rfl⟩
    · rw [foldl_send]
      exact ⟨⟨⟨_, _, _, getCore_setCore d _ _⟩, fun _ hk => getCore_setCore_ne d _ hk⟩, rfl⟩

/-- Into a ring of the core the tile goes to the tail buffer, which is then filling. -/
theorem produceInto_local (h : isProxy (getRing (getCore d c) n) = false) :
    let r := getRing (getCore d c) n
    let u := produceInto d c n src due bytes
    OutputMoved c d u ∧ u.mem = memWrite d.mem (storeBase c + bufBase r r.tail.toNat) bytes ∧
      bufState (getRing (getCore u c) n) r.tail.toNat = 1 := by
  intro r u
  have hu : ∃ i waybills, u = putStore (setCore d c { putRing (getCore d c) n (startTail r i) with waybills := waybills }) c
      (bufBase r r.tail.toNat) bytes := by
    simp only [u, produceInto, h, Bool.false_eq_true, if_false]
    split
    exacts [⟨_, _, rfl⟩, ⟨_, _, rfl⟩]
  obtain ⟨i, waybills, hu⟩ := hu
  have hcore : getCore u c = { putRing (getCore d c) n (startTail r i) with waybills := waybills } := by
    rw [hu]
    exact getCore_setCore d c _
  refine ⟨⟨⟨_, _, _, hcore⟩, fun k hk => ?_⟩, ?_, ?_⟩
  · rw [hu]
    exact getCore_setCore_ne d _ hk
  · rw [hu]
    rfl
  · have hring : getRing (getCore u c) n = startTail r i := by
      rw [hcore]
      exact getRing_putRing _ _ _
    rw [hring, bufState_startTail]

end Produce

/-! ### The DRAIN -/

theorem takeRings_cfg_tail (x : Core) (ns : List Nat) (due n : Nat) :
    (getRing (takeRings x ns due) n).cfg = (getRing x n).cfg ∧ (getRing (takeRings x ns due) n).tail = (getRing x n).tail := by
  refine List.foldlRecOn (motive := fun y : Core => (getRing y n).cfg = (getRing x n).cfg ∧ (getRing y n).tail = (getRing x n).tail)
    ns _ ⟨rfl, rfl⟩ fun y hy k _ => ?_
  by_cases hk : n = k
  · rw [hk, getRing_putRing, ← hk]
    exact hy
  · rw [getRing_putRing_ne _ _ hk]
    exact hy

theorem spendDraws_frame (x : Core) (t : Bool) (n : Nat) : ∃ seed0 seed1, spendDraws x t n = { x with seed0 := seed0, seed1 := seed1 } := by
  unfold spendDraws
  split
  exacts [⟨_, _, rfl⟩, ⟨_, _, rfl⟩]

/-- The ring a DRAIN takes its epilogue tensor from (R95, R145). -/
def drainRings (W : BitVec 64) : List Nat := if fld W 24 2 ≠ 0 && fld W 14 4 < 8 then [fld W 14 4] else []

/-- The operation a DRAIN puts in flight (R75, R97). -/
def IsDrainOp (x : Core) (W : BitVec 64) (hs : HalfSel) (o : ArrOp) : Prop :=
  o.kind = .drain ∧ o.half = hs ∧ o.reg = BitVec.ofNat 4 (slotReg x hs (fld W 50 4)) ∧ o.tLast = o.start + 31 ∧ o.due = o.start + 37 ∧
  o.clr = bitB W 40 ∧ o.copied = false

/-- What an accepted DRAIN leaves in its core before its output: its operation in flight, the rings' places; the array as it was. -/
theorem startDrain_spec (d : Die) (c : CoreId) (t : Bool) (e : QEntry) (hs : HalfSel) (f : Format) (tile : TileOut) (first : Nat) :
    ∃ o, IsDrainOp (getCore d c) e.word hs o ∧
    let x := getCore d c
    let y := startDrain d c t e hs f tile first
    y.ops = x.ops ++ [o] ∧ y.acc = x.acc ∧ y.latch = x.latch ∧ (∀ u, getThread y u = getThread x u) ∧
    ∀ n, (getRing y n).cfg = (getRing x n).cfg ∧ (getRing y n).tail = (getRing x n).tail := by
  unfold startDrain
  extract_lets x w q es read op y
  have hy : y = addOp (spendDraws (takeRings x (drainRings w) (first + 32)) t tile.draws) op := rfl
  clear_value y
  obtain ⟨rs, htake⟩ := takeRings_frame x (drainRings w) (first + 32)
  obtain ⟨seed0, seed1, hspend⟩ := spendDraws_frame (takeRings x (drainRings w) (first + 32)) t tile.draws
  rw [hspend] at hy
  have hrings : ∀ n, getRing y n = getRing (takeRings x (drainRings w) (first + 32)) n := fun n => by
    simp only [hy, addOp, getRing]
  refine ⟨op, ⟨rfl, rfl, rfl, rfl, rfl, rfl, rfl⟩, ?_, ?_, ?_, fun u => ?_, fun n => ?_⟩
  · simp only [hy, addOp, htake]
  · simp only [hy, addOp, htake]
  · simp only [hy, addOp, htake]
  · simp only [hy, addOp, htake, getThread]
  · rw [hrings]
    exact takeRings_cfg_tail x (drainRings w) (first + 32) n

/-- A DRAIN that nothing holds or rejects is carried out. -/
theorem issueDrain_accepted {d : Die} {c : CoreId} {t : Bool} {e : QEntry} {hs : HalfSel} {f : Format}
    (hrej : drainReject (getCore d c) t e = none) (hhs : halfField (fld e.word 48 2) = some hs)
    (hf : formatOf (fld e.word 43 5) = some f)
    (hheld : readHeld (getCore d c) t hs (slotReg (getCore d c) hs (fld e.word 50 4)) (fld e.word 50 4) e = false)
    (hout : fld e.word 36 4 < 8 → produceReady (getCore d c) (fld e.word 36 4) = true)
    (hready : ringsReady (getCore d c) (drainRings e.word) = true) (hlodge : lodgeClear d c t e) :
    ∃ first d1, getCore d1 c = startDrain d c t e hs f (drainTile d c t e hs f) first ∧ d1.mem = d.mem ∧
      (∀ k, k ≠ c → getCore d1 k = getCore d k) ∧
      issueDrain d c t e = some (if fld e.word 36 4 = 9 then
          storeRows d1 c (opnd e (fld e.word 30 6)).toNat (drainPitch f hs e.word) (drainTile d c t e hs f)
        else produceInto d1 c (fld e.word 36 4) e.seq (first + 38) (tileBytes (drainTile d c t e hs f))) := by
  have hprod : (decide (fld e.word 36 4 < 8) && !produceReady (getCore d c) (fld e.word 36 4)) = false := by
    by_cases h : fld e.word 36 4 < 8 <;> simp [h, hout]
  unfold drainRings at hready
  set n := lodgeTake (getCore d c).split e.word
  refine ⟨drainFirst d.aclk (getCore d c) hs e.word (n ≠ 0), drew (setCore (senseRows srcFeed c e.stream n d) c _),
    getCore_setCore _ c _, (rowsSensed_senseRows srcFeed c e.stream n d).mem,
    fun k hk => (getCore_setCore_ne _ _ hk).trans (getCore_senseRows _ _ _ _ _ _), ?_⟩
  unfold issueDrain
  simp only [hhs, hrej, hf, hheld, hprod, hready, n, lodgeClear_free hlodge, lodgeClear_sound hlodge, Bool.false_eq_true, Bool.not_true,
    if_false]

/-! ### The thread of a DRAIN handed over -/

theorem putQueue_regs (th : Thread) (q : QueueId) (l : List QEntry) : (putQueue th q l).regs = th.regs := by cases q <;> rfl
theorem putQueue_readsOut (th : Thread) (q : QueueId) (l : List QEntry) : (putQueue th q l).readsOut = th.readsOut := by cases q <;> rfl
theorem advance_regs (th : Thread) : (advance th).regs = th.regs := rfl
theorem advance_readsOut (th : Thread) : (advance th).readsOut = th.readsOut := rfl

/-- Dispatch of a slot read keeps the registers and counts the read (R158). -/
theorem handedThread_countRead (q : QueueId) (d : Die) (c : CoreId) (op : Nat) (w : BitVec 58) (e : QEntry) (th : Thread) :
    (handedThread q (fun th => countRead (lodgePrep d c op w th)) e th).regs = th.regs ∧
    (handedThread q (fun th => countRead (lodgePrep d c op w th)) e th).readsOut = th.readsOut + 1 := by
  simp only [handedThread, putQueue_regs, putQueue_readsOut, advance_regs, advance_readsOut, countRead, lodgePrep, and_self]

/-- Settles O9: the DRAIN issues at once; its core is `startDrain_spec`, its output `storeRows_eq` or `produceInto`. -/
theorem drainWritesTile : Obligations.DrainWritesTile := by
  unfold Obligations.DrainWritesTile
  intro s c t w f hs
  extract_lets W e d x dst src rings q tile base
  intro hissue hrej hhs hf hheld hout hready hlodge
  have hrings : rings = drainRings W := by simp [rings, drainRings, src]
  obtain ⟨first, d1, hcore, hmem, hothers, hissued⟩ := issueDrain_accepted hrej hhs hf hheld hout (hrings ▸ hready) hlodge
  obtain ⟨o, ⟨hkind, hhalf, hreg, htlast, hdue, hclr, hcopied⟩, hops, hacc, hlatch, hthreads, hplaces⟩ :=
    startDrain_spec d c t e hs f tile first
  have hplace : (getRing (getCore d1 c) dst).cfg = (getRing x dst).cfg ∧ (getRing (getCore d1 c) dst).tail = (getRing x dst).tail :=
    hcore ▸ hplaces dst
  have hproxy : isProxy (getRing (getCore d1 c) dst) = isProxy (getRing x dst) := by simp only [isProxy, ringCons, hplace.1]
  have hstored : d1.mem = s.die.mem := hmem.trans rfl
  obtain ⟨u, hu⟩ : ∃ u, u = if dst = 9 then storeRows d1 c base (drainPitch f hs W) tile
    else produceInto d1 c dst e.seq (first + 38) (tileBytes tile) := ⟨_, rfl⟩
  have hsplit : x.split = (getCore s.die c).split := asTaken_split _ _ _ _ _ _ _
  have hexec : exec (.drain c t w) s = .next (s.withDie u) := onDie_eq (dispatch_lodgeBody_issues (prep := countRead) hissue (by decide)
    (fun _ => rfl) (hsplit ▸ lodgeClear_fits hlodge) (hissued.trans (congrArg some hu.symm)))
  have hmoved : OutputMoved c d1 u := by
    rw [hu]
    split
    · rw [storeRows_eq]
      exact ⟨⟨_, _, _, rfl⟩, fun _ _ => rfl⟩
    · cases hp : isProxy (getRing (getCore d1 c) dst)
      exacts [(produceInto_local _ _ _ hp).1, (produceInto_proxy _ _ _ hp).1]
  obtain ⟨⟨rs, ms, ws, hcoreu⟩, hothersu⟩ := hmoved
  rw [hcore] at hcoreu
  have hthread : threadAt u c t = threadAt d c t :=
    calc getThread (getCore u c) t
      _ = getThread (startDrain d c t e hs f tile first) t := by simp only [hcoreu, getThread, tile]
      _ = getThread x t := hthreads t
  obtain ⟨hregs, hreads⟩ := handedThread_countRead .edge s.die c 0x23 w e (threadAt s.die c t)
  rw [← threadAt_asTaken, ← hthread] at hregs hreads
  refine ⟨u, o, hexec, ?_, hkind, hhalf, hreg, htlast, hdue, hclr, hcopied, ?_, ?_, hregs, hreads, fun k hk => ?_, fun h9 => ?_,
    fun h8 hp => ?_, fun h8 hp => ?_⟩
  · rw [hcoreu]
    exact hops
  · rw [hcoreu]
    exact hacc
  · rw [hcoreu]
    exact hlatch
  · rw [hothersu k hk, hothers k hk, getCore_asTaken_ne _ _ _ _ _ _ _ hk]
  · have humem : u.mem = tileAt (storeBase c + base) (drainPitch f hs W) tile s.die.mem := by
      rw [hu, if_pos h9, storeRows_eq, ← hstored]
    exact ⟨by rw [humem, storeRows_eq], humem ▸ elseSame_tileAt _ _ _ _⟩
  · rw [hu, if_neg (by omega), (produceInto_proxy _ _ _ (hproxy.trans hp)).2, hstored]
  · obtain ⟨-, hwritten, hfilling⟩ := produceInto_local e.seq (first + 38) (tileBytes tile) (hproxy.trans hp)
    have hbase : ∀ b, bufBase (getRing (getCore d1 c) dst) b = bufBase (getRing x dst) b := fun b => by
      simp only [bufBase, ringB, hplace.1]
    rw [hbase, hplace.2, hstored] at hwritten
    rw [hplace.2] at hfilling
    rw [hu, if_neg (by omega)]
    exact ⟨hwritten, hfilling⟩

end Sys2Proof.Machine
end

section
/-! PROOF. O10, first part: SWAP and ACLR carried out at once (R83, R91, R93). -/

namespace Sys2Proof.Machine

/-! ### SWAP -/

theorem getLsbD_flip (v : BitVec 32) {k i : Nat} (hk : k < 32) : (v ^^^ (1#32 <<< k)).getLsbD i = (v.getLsbD i ^^ decide (i = k)) := by
  rw [BitVec.getLsbD_xor]
  congr 1
  rw [BitVec.getLsbD_shiftLeft, BitVec.getLsbD_one]
  rcases lt_trichotomy i k with h | h | h
  · simp [h, h.ne]
  · simp [h, hk]
  · have hne : i ≠ k := h.ne'
    have hsub : i - k ≠ 0 := by omega
    simp [hne, hsub]

/-- A SWAP inverts the SWP bit of its slot in each half it covers (R83). -/
theorem getLsbD_swapSlot (x : Core) (hs : HalfSel) {n : Nat} (ts i : Nat) (hn : n < 8) : (swapSlot x hs n ts).accCfg.getLsbD i =
    (x.accCfg.getLsbD i ^^ (decide (hs ≠ .h1 ∧ i = 8 + n) || decide (hs ≠ .h0 ∧ i = 16 + n))) := by
  cases hs with
  | full =>
    simp only [swapSlot, reduceCtorEq, if_false, getLsbD_flip _ (show 16 + n < 32 by omega), getLsbD_flip _ (show 8 + n < 32 by omega)]
    by_cases h8 : i = 8 + n <;> by_cases h16 : i = 16 + n <;> simp [h8, h16]
  | h0 => simp [swapSlot, getLsbD_flip _ (show 8 + n < 32 by omega)]
  | h1 => simp [swapSlot, getLsbD_flip _ (show 16 + n < 32 by omega)]

section Issue

variable {d0 d : Die} {c : CoreId} {t : Bool} {e : QEntry} {hs : HalfSel}

/-- The operations whose rows a SWAP of slot `n` waits for (R93). -/
def swapPair (x : Core) (hs : HalfSel) (n seq : Nat) : List ArrOp :=
  (opsOn x hs n seq ++ opsOn x hs (n + 8) seq).filter (fun o => o.kind != .chain)

theorem issueSwap_accepted (hn : fld e.word 50 4 < 8)
    (hd : waitUntil d0 (maxL [d0.aclk, acceptAt (getCore d0 c) hs true, rowsEnd (swapPair (getCore d0 c) hs (fld e.word 50 4) e.seq)]) = d)
    (hhs : halfField (fld e.word 48 2) = some hs) (hlegal : halfLegal (getCore d c) t hs false = true)
    (hshadow : shadowOn (getCore d c) = true)
    (hnames : earlierNames (getCore d0 c) (getThread (getCore d0 c) t).edge e (fld e.word 50 4) = false) :
    issueSwap d0 c t e = some (setCore d c (swapSlot (getCore d c) hs (fld e.word 50 4) d.aclk)) := by
  unfold swapPair at hd
  unfold issueSwap
  simp only [hhs, hnames, Nat.mod_eq_of_lt hn, hd, hlegal, hshadow, Nat.not_le.mpr hn, decide_false, Bool.false_eq_true, Bool.not_true,
    Bool.or_self, if_false]

theorem issueAclr_accepted
    (hd : waitUntil d0 (maxL [d0.aclk, rowsEnd (opsOn (getCore d0 c) hs (slotReg (getCore d0 c) hs (fld e.word 50 4)) e.seq)]) = d)
    (hhs : halfField (fld e.word 48 2) = some hs) (hlegal : halfLegal (getCore d c) t hs false = true)
    (hnames : earlierNames (getCore d0 c) (getThread (getCore d0 c) t).feed e (fld e.word 50 4) = false)
    (hmma : anyMma (opsOn (getCore d0 c) hs (slotReg (getCore d0 c) hs (fld e.word 50 4)) e.seq) = false) :
    issueAclr d0 c t e = some (setCore d c (clearReg (getCore d c) hs (slotReg (getCore d c) hs (fld e.word 50 4)))) := by
  unfold issueAclr
  simp only [hhs, hnames, hmma, hd, hlegal, Bool.false_eq_true, Bool.not_true, if_false]

end Issue

/-! ### CHAINRED of a partial register (R105 to R107) -/

/-- The records a CHAINRED of a partial register captures (R105, R438). -/
def localRecs (x : Core) (W : BitVec 64) (m : Member) : List (BitVec 128) :=
  (List.range (8 * m.flits)).map (fun r =>
    recEncode (fld W 39 3) (chainInt x W) (partOrIdentity x (fld W 39 3) (chainInt x W) (fld W 35 2) r))

/-- The member once it holds its local partial. -/
def withLocal (x : Core) (t : Bool) (e : QEntry) (m : Member) : Member :=
  { m with local_ := localRecs x e.word m, pending := some e, thread := t, ints := chainInt x e.word,
           bare := getUtag x (fld e.word 35 2) == 0 }

theorem startChainPart_register {d : Die} {c : CoreId} {t : Bool} {e : QEntry} {m : Member} (h : fld e.word 37 2 = 0) :
    startChainPart d c t e m = chainAct (setCore d c (replaceMember (getCore d c) m (withLocal (getCore d c) t e m))) c
      (withLocal (getCore d c) t e m) := by
  have htriple : (fld e.word 37 2 == 1) = false := by simp [h]
  simp only [startChainPart, htriple, Bool.false_eq_true, if_false, List.append_nil]
  rfl

theorem issueChainred_register {d0 d : Die} {c : CoreId} {t : Bool} {e : QEntry} {m : Member} (h : fld e.word 37 2 = 0)
    (hd : waitUntil d0 (max d0.aclk (partFrom (getCore d0 c) (fld e.word 35 2))) = d)
    (hrej : chainReject (getCore d c) t e = none) (hm : chainMember (getCore d c) t (fld e.word 42 12) = some m)
    (hfree : m.pending = none) (hbusy : partBusy (getCore d0 c) (fld e.word 35 2) = false) :
    issueChainred d0 c t e = some (startChainPart d c t e m) := by
  have hslot : (fld e.word 37 2 == 2) = false := by simp [h]
  have hpart : issueChainPart d0 c t e = some (startChainPart d c t e m) := by
    unfold issueChainPart
    simp only [hbusy, hd, hrej, hm, hfree, Option.isSome_none, Bool.false_eq_true, if_false]
  unfold issueChainred
  dsimp only
  split <;> simp only [hslot, hpart, Bool.false_eq_true, if_false]

/-- A member that is not the first waits for the incoming flits. -/
theorem chainAct_waits {d : Die} {c : CoreId} {m : Member} (hpos : m.pos ≠ 0) (hin : m.incoming.length < m.flits) :
    chainAct d c m = d := by
  unfold chainAct
  split
  · rfl
  · simp [hpos, hin]

/-- Flits leave as far as credits go; the member alone moves in its core. -/
theorem pumpChain_spec (d : Die) (c : CoreId) (m : Member) : (pumpChain d c m).mem = d.mem ∧
    (∃ members, getCore (pumpChain d c m) c = { getCore d c with members := members }) ∧
    (∀ k, k ≠ c → getCore (pumpChain d c m) k = getCore d k) ∧
    (m.down.isSome = true → (pumpChain d c m).out.length = d.out.length + min m.credits m.outgoing.length) := by
  unfold pumpChain
  extract_lets k n d1
  have hcore : getCore d1 c = { getCore d c with members := (replaceMember (getCore d c) m n).members } := getCore_setCore _ _ _
  have hne : ∀ j, j ≠ c → getCore d1 j = getCore d j := fun _ hj => getCore_setCore_ne _ _ hj
  split
  · rename_i hdown
    exact ⟨rfl, ⟨_, hcore⟩, hne, fun h => by simp [hdown] at h⟩
  · rw [foldl_send]
    refine ⟨rfl, ⟨_, hcore⟩, hne, fun _ => ?_⟩
    simp [d1, k]

theorem chainCredits_first {m : Member} (d : Die) (hpos : m.pos = 0) : chainCredits m d = d := by
  unfold chainCredits
  split <;> simp [hpos]

/-- The first member's act, when others follow: its partial joins what is to go out. -/
theorem chainAct_first {d : Die} {c : CoreId} {m : Member} {e : QEntry} (hpend : m.pending = some e) (hpos : m.pos = 0)
    (hcount : 1 < m.count) :
    let n := { m with pending := none, local_ := [], incoming := m.incoming.drop m.flits,
                      outgoing := m.outgoing ++ toFlits (m.local_.length + 1) m.local_ }
    chainAct d c m = pumpChain (setCore (drew d) c (replaceMember (chainEvents d.aclk (getCore d c) m.thread e []) m n)) c n := by
  have hlast : ¬ 0 + 1 = m.count := by omega
  unfold chainAct
  simp [hpend, hpos, hlast, chainCredits_first _ hpos]

/-- What that leaves: memory, partial registers and every other core as they were, as many flits sent as there are credits. -/
theorem chainAct_first_spec {d : Die} {c : CoreId} {m : Member} {e : QEntry} (hpend : m.pending = some e) (hpos : m.pos = 0)
    (hcount : 1 < m.count) : (chainAct d c m).mem = d.mem ∧ (getCore (chainAct d c m) c).partials = (getCore d c).partials ∧
    (∀ k, k ≠ c → getCore (chainAct d c m) k = getCore d k) ∧
    (m.down.isSome = true → (chainAct d c m).out.length =
      d.out.length + min m.credits (m.outgoing ++ toFlits (m.local_.length + 1) m.local_).length) := by
  rw [chainAct_first hpend hpos hcount]
  obtain ⟨hmem, ⟨members, hcore⟩, hothers, hout⟩ := pumpChain_spec
    (setCore (drew d) c (replaceMember (chainEvents d.aclk (getCore d c) m.thread e []) m { m with
      pending := none, local_ := [], incoming := m.incoming.drop m.flits,
      outgoing := m.outgoing ++ toFlits (m.local_.length + 1) m.local_ })) c
    { m with pending := none, local_ := [], incoming := m.incoming.drop m.flits,
             outgoing := m.outgoing ++ toFlits (m.local_.length + 1) m.local_ }
  refine ⟨hmem, ?_, fun k hk => ?_, hout⟩
  · rw [hcore, getCore_setCore]
    exact passTime_partials _ _
  · rw [hothers k hk, getCore_setCore_ne _ _ hk]
    rfl

end Sys2Proof.Machine
end

section
/-! PROOF. O10, second part: the events that end array operations (R75, R78, R83, R117 to R119, R126, R127). -/

namespace Sys2Proof.Machine

/-! ### Held writes settled -/

/-- Settling moves ACC_CFG, the checksum registers and what is held of them. -/
theorem settleIdle_frame (x : Core) : ∃ accCfg accHeld abftCfg0 abftCfg1 abftFloor0 abftFloor1 abftHeld, settleIdle x = { x with
    accCfg := accCfg, accHeld := accHeld, abftCfg0 := abftCfg0, abftCfg1 := abftCfg1, abftFloor0 := abftFloor0, abftFloor1 := abftFloor1,
    abftHeld := abftHeld } := by
  have htake : ∃ accCfg accHeld abftCfg0 abftCfg1 abftFloor0 abftFloor1, x.abftHeld.foldl (abftSettled x) (accSettled x) = { x with
      accCfg := accCfg, accHeld := accHeld, abftCfg0 := abftCfg0, abftCfg1 := abftCfg1, abftFloor0 := abftFloor0,
      abftFloor1 := abftFloor1 } := by
    refine List.foldlRecOn (motive := fun y : Core => ∃ accCfg accHeld abftCfg0 abftCfg1 abftFloor0 abftFloor1, y = { x with
      accCfg := accCfg, accHeld := accHeld, abftCfg0 := abftCfg0, abftCfg1 := abftCfg1, abftFloor0 := abftFloor0,
      abftFloor1 := abftFloor1 }) _ _ ⟨_, _, _, _, _, _, accSettled_frame x⟩ ?_
    rintro _ ⟨_, _, _, _, _, _, rfl⟩ ⟨h, floor, v⟩ -
    unfold abftSettled
    split
    · exact ⟨_, _, _, _, _, _, rfl⟩
    · cases floor <;> cases h <;> exact ⟨_, _, _, _, _, _, rfl⟩
  obtain ⟨_, _, _, _, _, _, h⟩ := htake
  rw [settleIdle_eq, h]
  exact ⟨_, _, _, _, _, _, _, rfl⟩

/-! ### Halves poisoned (R127) -/

/-- From `x` to `y` only what a fault does to the halves moved: registers and status words, operations, activity, ARR_RES, held writes. -/
def Poisoned (x y : Core) : Prop :=
  ∃ acc tsw ops lastAct0 lastAct1 res0 res1 accCfg accHeld abftCfg0 abftCfg1 abftFloor0 abftFloor1 abftHeld, y = { x with
    acc := acc, tsw := tsw, ops := ops, lastAct0 := lastAct0, lastAct1 := lastAct1, res0 := res0, res1 := res1, accCfg := accCfg,
    accHeld := accHeld, abftCfg0 := abftCfg0, abftCfg1 := abftCfg1, abftFloor0 := abftFloor0, abftFloor1 := abftFloor1,
    abftHeld := abftHeld }

theorem Poisoned.refl (x : Core) : Poisoned x x := ⟨_, _, _, _, _, _, _, _, _, _, _, _, _, _, rfl⟩

theorem Poisoned.trans {x y z : Core} : Poisoned x y → Poisoned y z → Poisoned x z := by
  rintro ⟨_, _, _, _, _, _, _, _, _, _, _, _, _, _, rfl⟩ ⟨_, _, _, _, _, _, _, _, _, _, _, _, _, _, rfl⟩
  exact ⟨_, _, _, _, _, _, _, _, _, _, _, _, _, _, rfl⟩

theorem Poisoned.foldl {α : Type} {f : Core → α → Core} (hf : ∀ y a, Poisoned y (f y a)) (l : List α) (x : Core) :
    Poisoned x (l.foldl f x) := by
  induction l generalizing x with
  | nil => exact refl x
  | cons a l ih => exact (hf x a).trans (ih (f x a))

theorem poisoned_poisonReg (n : Nat) (h : Bool) (x : Core) (q : Nat) : Poisoned x (poisonReg n h x q) := by
  unfold poisonReg
  split
  · exact ⟨_, _, _, _, _, _, _, _, _, _, _, _, _, _, rfl⟩
  · exact .refl x

theorem poisoned_settleIdle (x : Core) : Poisoned x (settleIdle x) := by
  obtain ⟨_, _, _, _, _, _, _, h⟩ := settleIdle_frame x
  rw [h]
  exact ⟨_, _, _, _, _, _, _, _, _, _, _, _, _, _, rfl⟩

theorem poisoned_poisonHalf (n now : Nat) (x : Core) (h : Bool) : Poisoned x (poisonHalf n now x h) :=
  (Poisoned.foldl (poisoned_poisonReg n h) _ x).trans
    (.trans ⟨_, _, _, _, _, _, _, _, _, _, _, _, _, _, rfl⟩ (poisoned_settleIdle _))

theorem Poisoned.fault {x y : Core} : Poisoned x y → y.fault = x.fault := by
  rintro ⟨_, _, _, _, _, _, _, _, _, _, _, _, _, _, rfl⟩
  rfl

theorem Poisoned.getThread {x y : Core} (t : Bool) : Poisoned x y → getThread y t = getThread x t := by
  rintro ⟨_, _, _, _, _, _, _, _, _, _, _, _, _, _, rfl⟩
  cases t <;> rfl

/-! ### A core fault (R127, R160) -/

theorem sendPeer_mem (d : Die) (p : BitVec 2) (m : PeerMsg) : (sendPeer d p m).mem = d.mem := by unfold sendPeer; split <;> rfl
theorem sendPeer_aclk (d : Die) (p : BitVec 2) (m : PeerMsg) : (sendPeer d p m).aclk = d.aclk := by unfold sendPeer; split <;> rfl
theorem sendPeer_cores (d : Die) (p : BitVec 2) (m : PeerMsg) : (sendPeer d p m).cores = d.cores := by unfold sendPeer; split <;> rfl

/-- The fault recorded, when none is. -/
def noteFault (x : Core) (w : BitVec 64) : Core := if bitB x.fault 63 then x else { x with fault := w }

/-- A thread's fault: recorded, the thread stopped, its halves poisoned; memory and time as they were. -/
theorem raiseFault_spec (d : Die) (c : CoreId) (t : Bool) (code detail pc : Nat) : ∃ scope y,
    let x := noteFault (getCore d c) (faultWord scope (some t) pc code detail)
    Poisoned (setThread x t (stopThread .faulted (getThread x t))) y ∧
    getCore (raiseFault d c (some t) code detail pc) c = y ∧
    (raiseFault d c (some t) code detail pc).mem = d.mem ∧ (raiseFault d c (some t) code detail pc).aclk = d.aclk := by
  unfold raiseFault noteFault
  dsimp only [List.foldl_cons, List.foldl_nil]
  generalize faultScope (getCore d c) (some t) = s
  obtain ⟨scope, hs⟩ := s
  refine ⟨scope, _, Poisoned.foldl (poisoned_poisonHalf d.freeCtr d.aclk) hs _, ?_⟩
  generalize List.foldl (poisonHalf d.freeCtr d.aclk) _ hs = y
  have hcore : getCore (setCore d c y) c = y := getCore_setCore d c y
  dsimp only [drew, logFault]
  split
  · split
    · exact ⟨hcore, rfl, rfl⟩
    · refine ⟨?_, sendPeer_mem _ _ _, sendPeer_aclk _ _ _⟩
      rw [getCore, sendPeer_cores]
      exact hcore
  · exact ⟨hcore, rfl, rfl⟩

theorem fld_faultWord_code (scope : Nat) (who : Option Bool) (pc code detail : Nat) :
    fld (faultWord scope who pc code detail) 40 8 = code % 2 ^ 8 := by
  rw [faultWord, fld_putFld_apart _ _ (by omega) (by omega), fld_putFld_same _ _ (by omega)]

/-- The code a fault leaves in CORE_FAULT when none was recorded (R160). -/
theorem raiseFault_code {d : Die} {c : CoreId} (t : Bool) {code : Nat} (detail pc : Nat) (hcode : code < 2 ^ 8)
    (hnone : bitB (getCore d c).fault 63 = false) : fld (getCore (raiseFault d c (some t) code detail pc) c).fault 40 8 = code := by
  obtain ⟨scope, y, hp, hcore, -, -⟩ := raiseFault_spec d c t code detail pc
  rw [hcore, hp.fault, setThread_frame]
  simp only [noteFault, hnone, Bool.false_eq_true, if_false, fld_faultWord_code]
  exact Nat.mod_eq_of_lt hcode

theorem raiseFault_run (d : Die) (c : CoreId) (t : Bool) (code detail pc : Nat) :
    (threadAt (raiseFault d c (some t) code detail pc) c t).run = .faulted := by
  obtain ⟨scope, y, hp, hcore, -, -⟩ := raiseFault_spec d c t code detail pc
  rw [threadAt, hcore, hp.getThread, getThread_setThread, stopThread]

theorem raiseFault_mem (d : Die) (c : CoreId) (t : Bool) (code detail pc : Nat) : (raiseFault d c (some t) code detail pc).mem = d.mem := by
  obtain ⟨_, _, -, -, hmem, -⟩ := raiseFault_spec d c t code detail pc
  exact hmem

theorem raiseFault_aclk (d : Die) (c : CoreId) (t : Bool) (code detail pc : Nat) : (raiseFault d c (some t) code detail pc).aclk = d.aclk := by
  obtain ⟨_, _, -, -, -, haclk⟩ := raiseFault_spec d c t code detail pc
  exact haclk

/-! ### SLOT_COMPLETE and SLOT_READ_VERDICT (R75, R117, R118) -/

section Verdict

variable {d : Die} {c : CoreId} {n : Nat} {o : ArrOp} (hget : (getCore d c).ops[n]? = some o)
include hget

theorem effSlotComplete_eq (hread : isRead o = false) : effSlotComplete c n d = setCore (waitUntil d o.due) c
    (settleIdle { getCore (waitUntil d o.due) c with ops := (getCore (waitUntil d o.due) c).ops.eraseIdx n }) := by
  simp only [effSlotComplete, hget, hread, Bool.false_eq_true, if_false, modCore, dropOp]

/-- A verdict without a failed check is noted. -/
theorem effVerdict_passed {p : ArrOp} (hread : isRead o = true) (hmade : o.verdictMade = false) (hpass : o.verdict.failed = false)
    (hp : (getCore (waitUntil d (verdictAt o)) c).ops[n]? = some p) : effVerdict c n d = setCore (waitUntil d (verdictAt o)) c
      { getCore (waitUntil d (verdictAt o)) c with
        ops := (getCore (waitUntil d (verdictAt o)) c).ops.set n { p with verdictMade := true } } := by
  simp only [effVerdict, hget, hread, hmade, hpass, verdictIn, hp, putOp, Bool.not_true, Bool.not_false, Bool.or_self, Bool.false_eq_true,
    if_false, if_true]

/-- One with a failed check raises ABFT_MISMATCH in the read's thread. -/
theorem effVerdict_failed (hread : isRead o = true) (hmade : o.verdictMade = false) (hfail : o.verdict.failed = true) : ∃ x,
    RegsMoved (getCore (waitUntil d (verdictAt o)) c) x ∧
    effVerdict c n d = raiseFault (setCore (waitUntil d (verdictAt o)) c x) c (some o.thread) cfAbftMismatch 0 o.pc := by
  refine ⟨eventComes (verdictIn (getCore (waitUntil d (verdictAt o)) c) n) n (verdictAt o) (abftEvent o.verdict), ?_, ?_⟩
  · refine .trans ?_ (regsMoved_eventComes _ _ _ _)
    unfold verdictIn
    split
    exacts [⟨_, _, _, _, _, _, _, _, _, _, rfl⟩, .refl _]
  · simp only [effVerdict, hget, hread, hmade, hfail, Bool.not_true, Bool.or_self, Bool.false_eq_true, if_false]

end Verdict

theorem RegsMoved.fault {x y : Core} : RegsMoved x y → y.fault = x.fault := by
  rintro ⟨_, _, _, _, _, _, _, _, _, _, rfl⟩
  rfl

/-! ### STATUS_WORD_DELIVERY (R117, R126) -/

/-- Answers paid touch a thread's registers and what it is owed. -/
theorem payAnswers_frame (now : Nat) (th : Thread) : ∃ regs owed answers,
    payAnswers now th = { th with regs := regs, owed := owed, answers := answers } := by
  have hpaid : ∃ regs owed, (th.answers.filter (fun a => decide (a.1 ≤ now))).foldl (fun th a => payReg a.2.1 .berth a.2.2 th) th =
      { th with regs := regs, owed := owed } := by
    refine List.foldlRecOn (motive := fun u : Thread => ∃ regs owed, u = { th with regs := regs, owed := owed }) _ _
      ⟨th.regs, th.owed, rfl⟩ ?_
    rintro _ ⟨_, _, rfl⟩ a -
    exact ⟨_, _, rfl⟩
  obtain ⟨_, _, h⟩ := hpaid
  simp only [payAnswers, h]
  exact ⟨_, _, _, rfl⟩

theorem payAnswers_readsIn (now : Nat) (th : Thread) : (payAnswers now th).readsIn = th.readsIn := by
  obtain ⟨_, _, _, h⟩ := payAnswers_frame now th
  rw [h]

/-- Marking a read's tiles clean moves rings and waybills. -/
theorem markClean_frame (x : Core) (t : Bool) (ring : Option (BitVec 3)) (src : Nat) : ∃ rings waybills,
    markClean x t ring src = { x with rings := rings, waybills := waybills } := by
  unfold markClean
  split
  · exact ⟨_, _, rfl⟩
  · dsimp only
    refine List.foldlRecOn (motive := fun y : Core => ∃ rings waybills, y = { x with rings := rings, waybills := waybills }) _ _
      ⟨_, _, rfl⟩ ?_
    rintro _ ⟨_, _, rfl⟩ k -
    split
    exacts [⟨_, _, rfl⟩, ⟨_, _, rfl⟩]

theorem postStamp_mem_aclk (d : Die) (c : CoreId) (t : Bool) (pc tile : Nat) :
    (postStamp d c t pc tile).mem = d.mem ∧ (postStamp d c t pc tile).aclk = d.aclk := by
  unfold postStamp
  split
  · exact ⟨rfl, rfl⟩
  · split
    · exact ⟨sendPeer_mem _ _ _, sendPeer_aclk _ _ _⟩
    · split
      · exact ⟨raiseFault_mem _ _ _ _ _ _, raiseFault_aclk _ _ _ _ _ _⟩
      · split
        · exact ⟨rfl, rfl⟩
        · split
          · exact ⟨sendPeer_mem _ _ _, sendPeer_aclk _ _ _⟩
          · exact ⟨rfl, rfl⟩

theorem releaseStamps_mem (d : Die) (c : CoreId) (t : Bool) (src : Nat) : (releaseStamps d c t src).mem = d.mem := by
  unfold releaseStamps
  exact foldl_keeps (g := Die.mem) (f := fun e (p : Bool × Nat × Nat × Nat) => postStamp e c t p.2.1 p.2.2.1)
    (fun e p => (postStamp_mem_aclk e c t p.2.1 p.2.2.1).1) _ _

theorem releaseStamps_aclk (d : Die) (c : CoreId) (t : Bool) (src : Nat) : (releaseStamps d c t src).aclk = d.aclk := by
  unfold releaseStamps
  exact foldl_keeps (g := Die.aclk) (f := fun e (p : Bool × Nat × Nat × Nat) => postStamp e c t p.2.1 p.2.2.1)
    (fun e p => (postStamp_mem_aclk e c t p.2.1 p.2.2.1).2) _ _

/-- With no stamp waiting nothing is posted. -/
theorem getCore_releaseStamps_none {d : Die} {c : CoreId} (t : Bool) (src : Nat) (h : (getCore d c).stampWait = []) :
    getCore (releaseStamps d c t src) c = { getCore d c with stampWait := [] } := by
  simp only [releaseStamps, h, List.filter_nil, List.foldl_nil, getCore_modCore]

/-- The core once the n-th operation, a slot read `p`, has delivered its status word. -/
def delivered (x : Core) (n : Nat) (p : ArrOp) : Core :=
  { dropOp x n with tswLast0 := if p.half = .h1 then (dropOp x n).tswLast0 else p.copy,
                    tswLast1 := if p.half = .h0 then (dropOp x n).tswLast1 else p.copy }

/-- A thread whose slot read has delivered clean. -/
def readClean (x : Core) (p : ArrOp) : Core :=
  setThread x p.thread { getThread x p.thread with readsIn := (getThread x p.thread).readsIn + 1 }

theorem readClean_ops (x : Core) (p : ArrOp) : (readClean x p).ops = x.ops := by rw [readClean, setThread_frame]
theorem readClean_stampWait (x : Core) (p : ArrOp) : (readClean x p).stampWait = x.stampWait := by rw [readClean, setThread_frame]
theorem readClean_readsIn (x : Core) (p : ArrOp) :
    (getThread (readClean x p) p.thread).readsIn = (getThread x p.thread).readsIn + 1 := by rw [readClean, getThread_setThread]

theorem delivered_spec (x : Core) (n : Nat) (p : ArrOp) : (delivered x n p).ops = x.ops.eraseIdx n ∧
    (p.half ≠ .h1 → (delivered x n p).tswLast0 = p.copy) ∧ (p.half ≠ .h0 → (delivered x n p).tswLast1 = p.copy) ∧
    (∀ t, getThread (delivered x n p) t = getThread x t) ∧ (delivered x n p).stampWait = x.stampWait := by
  obtain ⟨_, _, _, _, _, _, _, h⟩ := settleIdle_frame { x with ops := x.ops.eraseIdx n }
  have hdrop : dropOp x n = _ := h
  refine ⟨?_, fun hh => if_neg hh, fun hh => if_neg hh, fun t => ?_, ?_⟩
  · simp only [delivered, hdrop]
  · simp only [delivered, hdrop, getThread]
  · simp only [delivered, hdrop]

section Delivery

variable {d : Die} {c : CoreId} {n : Nat} {o p : ArrOp} (hget : (getCore d c).ops[n]? = some o) (hread : isRead o = true)
  (hmade : o.verdictMade = true) (hwaits : chainWaits (getCore d c) o = false)
  (hp : (getCore (waitUntil d o.due) c).ops[n]? = some p)
include hget hread hmade hwaits hp

/-- A delivery with a failed check in the copy ends the read. -/
theorem effDelivery_flagged (hflag : bitB p.copy 30 = true) :
    getCore (effDelivery c n d) c = delivered (getCore (waitUntil d o.due) c) n p ∧ (effDelivery c n d).mem = d.mem ∧
    (effDelivery c n d).aclk = max d.aclk o.due := by
  simp only [effDelivery, hget, hread, hmade, hwaits, hp, hflag, Option.getD_some, Bool.not_true, Bool.or_self, Bool.false_eq_true, if_false]
  split
  · exact ⟨getCore_setCore _ _ _, rfl, rfl⟩
  · exact ⟨getCore_setCore _ _ _, rfl, rfl⟩

/-- A clean one counts for the STAMPs, marks the read's tiles, and lets its waiting stamps go. -/
theorem effDelivery_clean (hclean : bitB p.copy 30 = false) : ∃ e,
    effDelivery c n d = releaseStamps e c p.thread (p.seq + 1) ∧ e.mem = d.mem ∧ e.aclk = max d.aclk o.due ∧
    getCore e c = markClean (readClean (delivered (getCore (waitUntil d o.due) c) n p) p) p.thread p.ring (p.seq + 1) := by
  simp only [effDelivery, hget, hread, hmade, hwaits, hp, hclean, Option.getD_some, Bool.not_true, Bool.not_false, Bool.or_self,
    Bool.false_eq_true, if_false, if_true]
  refine ⟨_, rfl, ?_⟩
  split
  · exact ⟨rfl, rfl, getCore_setCore _ _ _⟩
  · exact ⟨rfl, rfl, getCore_setCore _ _ _⟩

theorem effDelivery_mem_aclk : (effDelivery c n d).mem = d.mem ∧ (effDelivery c n d).aclk = max d.aclk o.due := by
  cases hcopy : bitB p.copy 30 with
  | true => exact (effDelivery_flagged hget hread hmade hwaits hp hcopy).2
  | false =>
    obtain ⟨e, hu, hmem, haclk, -⟩ := effDelivery_clean hget hread hmade hwaits hp hcopy
    rw [hu, releaseStamps_mem, releaseStamps_aclk]
    exact ⟨hmem, haclk⟩

/-- With no stamp waiting, a clean delivery ends the read and counts it. -/
theorem effDelivery_counts (hclean : bitB p.copy 30 = false) (hstamps : (getCore d c).stampWait = []) :
    (getCore (effDelivery c n d) c).ops = (getCore (waitUntil d o.due) c).ops.eraseIdx n ∧
    (threadAt (effDelivery c n d) c p.thread).readsIn = (threadAt (waitUntil d o.due) c p.thread).readsIn + 1 := by
  obtain ⟨e, hu, -, -, hcore⟩ := effDelivery_clean hget hread hmade hwaits hp hclean
  obtain ⟨hops, -, -, hthread, hwait⟩ := delivered_spec (getCore (waitUntil d o.due) c) n p
  obtain ⟨_, _, hmark⟩ := markClean_frame (readClean (delivered (getCore (waitUntil d o.due) c) n p) p) p.thread p.ring (p.seq + 1)
  have hnone : (getCore e c).stampWait = [] := by
    rw [hcore, hmark]
    exact (readClean_stampWait _ p).trans (hwait.trans (by rw [getCore_waitUntil, passTime_stampWait, hstamps]))
  have hcoreu : getCore (effDelivery c n d) c = { getCore e c with stampWait := [] } := by
    rw [hu, getCore_releaseStamps_none _ _ hnone]
  constructor
  · rw [hcoreu, hcore, hmark]
    exact (readClean_ops _ p).trans hops
  · rw [threadAt, hcoreu, hcore, hmark]
    simp only [getThread]
    exact (readClean_readsIn _ p).trans (congrArg (·.readsIn + 1) (hthread p.thread))

end Delivery

end Sys2Proof.Machine
end

section
/-! PROOF. O10 assembled. -/

namespace Sys2Proof.Machine

/-- ARRAY_COLD of a half with no MMA or RESLOAD in flight brings the cycle in which it is cold (R78). -/
theorem effArrayCold_idle {c : CoreId} {h : Bool} {d : Die}
    (hidle : (getCore d c).ops.all (fun o => !(feedOp o && overlaps o.half (if h then .h1 else .h0))) = true) :
    effArrayCold c h d = waitUntil d (lastAct (getCore d c) h + 257) := by
  have hnone : (getCore d c).ops.any (fun o => feedOp o && overlaps o.half (if h then .h1 else .h0)) = false := by
    rw [List.all_eq_not_any_not] at hidle
    simpa using hidle
  rw [effArrayCold]
  exact if_neg (by rw [hnone]; decide)

theorem getQueue_chainPrep (w : BitVec 58) (th : Thread) : getQueue (advance (chainPrep w th)) .edge = getQueue th .edge := by
  unfold chainPrep
  split <;> rfl

/-- Settles O10: SWAP and ACLR by what their issue leaves, a CHAINRED by its member's act, each event by its own lemma. -/
theorem arrayEnds : Obligations.ArrayEnds := by
  unfold Obligations.ArrayEnds
  refine ⟨fun s c t w hs => ⟨?_, ?_⟩, fun s c t w m => ?_, fun s c n h o => ?_⟩
  case refine_1 =>
    extract_lets W e d0 x0 pair d x
    intro hissue hhs hlegal hshadow hn hnames
    have hissued : issueSwap d0 c t e = some _ := issueSwap_accepted hn rfl hhs hlegal hshadow hnames
    exact ⟨(swapSlot x hs (fld W 50 4) d.aclk).accCfg, onDie_eq (dispatch_enqueue_issues hissue (by decide) (fun _ => rfl) hissued),
      fun i => getLsbD_swapSlot x hs d.aclk i hn⟩
  case refine_2 =>
    extract_lets W e d0 x0 on d x
    intro hissue hhs hlegal hnames hmma
    exact onDie_eq (dispatch_enqueue_issues hissue (by decide) (fun _ => rfl) (issueAclr_accepted rfl hhs hlegal hnames hmma))
  case refine_3 =>
    extract_lets W e d0 p d x recs
    intro hissue hreg hrej hm hfree hbusy
    have hissued : issueChainred d0 c t e = some (startChainPart d c t e m) := issueChainred_register hreg rfl hrej hm hfree hbusy
    rw [startChainPart_register (e := e) hreg] at hissued
    have hexec : exec (.chainred c t w) s = .next (s.withDie _) :=
      onDie_eq (dispatch_enqueue_issues hissue (by decide) (getQueue_chainPrep w) hissued)
    refine ⟨fun hpos hin => ?_, fun hpos hcount => ⟨_, hexec, ?_⟩⟩
    · rw [hexec, chainAct_waits (m := withLocal (getCore d c) t e m) hpos hin]
      rfl
    · obtain ⟨hmem, hpart, hothers, hout⟩ := chainAct_first_spec (d := setCore d c (replaceMember x m (withLocal x t e m))) (c := c)
        (m := withLocal x t e m) rfl hpos hcount
      rw [getCore_setCore] at hpart
      exact ⟨hmem, hpart, fun k hk => (hothers k hk).trans (getCore_setCore_ne d _ hk), hout⟩
  case refine_4 =>
    extract_lets x then_
    refine ⟨fun hget hread => ?_, fun p hget hread hmade hpass hp => ?_, fun hget hread hmade hfail => ?_,
      fun p hget hread hmade hwaits hp => ?_, fun hidle => ?_⟩
    · exact onDie_eq (effSlotComplete_eq hget hread)
    · exact onDie_eq (effVerdict_passed hget hread hmade hpass hp)
    · obtain ⟨y, hmoved, hu⟩ := effVerdict_failed hget hread hmade hfail
      have hfault : (getCore (setCore (waitUntil s.die (verdictAt o)) c y) c).fault = x.fault := by
        rw [getCore_setCore, hmoved.fault, getCore_waitUntil, passTime_fault]
      exact ⟨_, onDie_eq hu, raiseFault_run _ _ _ _ _ _, fun hnone => raiseFault_code _ _ _ (by decide) (hfault ▸ hnone),
        raiseFault_mem _ _ _ _ _ _⟩
    · obtain ⟨hmem, haclk⟩ := effDelivery_mem_aclk hget hread hmade hwaits hp
      have hreads : (threadAt (waitUntil s.die o.due) c p.thread).readsIn = (threadAt s.die c p.thread).readsIn := by
        rw [threadAt, getCore_waitUntil, getThread_passTime, payAnswers_readsIn]
      refine ⟨effDelivery c n s.die, onDie_eq rfl, haclk, hmem, fun hflag => ?_, fun hclean hstamps => ?_⟩
      · obtain ⟨hops, hlast0, hlast1, hthread, -⟩ := delivered_spec (then_ o.due) n p
        obtain ⟨hcore, -, -⟩ := effDelivery_flagged hget hread hmade hwaits hp hflag
        rw [threadAt, hcore]
        exact ⟨hops, hlast0, hlast1, (congrArg Thread.readsIn (hthread p.thread)).trans hreads⟩
      · rw [← hreads]
        exact effDelivery_counts hget hread hmade hwaits hp hclean hstamps
    · have hcore := getCore_waitUntil s.die (lastAct x h + 257) c
      refine ⟨_, onDie_eq (effArrayCold_idle hidle), rfl, rfl, ?_, fun hsplit => ?_, ?_, ?_⟩
      · rw [hcore]
        exact passTime_cold (le_max_right _ _)
      · rw [hcore]
        exact passTime_cold_alike _ hsplit
      · rw [hcore, passTime_latch]
      · rw [hcore, passTime_partials]

end Sys2Proof.Machine
end

section
/-! PROOF. O55: one ACLK that brings no command (R65, R78, R156; assumption log 2). -/

namespace Sys2Proof.Machine

/-! ### Answers paid (R156) -/

/-- Before its cycle no answer is written. -/
theorem payAnswers_of_early {now : Nat} {th : Thread} (h : ∀ a ∈ th.answers, now < a.1) : payAnswers now th = th := by
  have hdue : th.answers.filter (fun a => decide (a.1 ≤ now)) = [] :=
    List.filter_eq_nil_iff.mpr fun a ha => by simpa using h a ha
  have hrest : th.answers.filter (fun a => decide (now < a.1)) = th.answers :=
    List.filter_eq_self.mpr fun a ha => by simpa using h a ha
  simp only [payAnswers, hdue, hrest, List.foldl_nil]

/-- What is left is still to come. -/
theorem lt_of_mem_payAnswers {now : Nat} {th : Thread} {a : Nat × BitVec 6 × BitVec 64} (h : a ∈ (payAnswers now th).answers) :
    now < a.1 := by
  simpa using (List.mem_filter.mp h).2

/-- A lone answer whose cycle has come is written. -/
theorem payAnswers_one {now n : Nat} {r : BitVec 6} {v : BitVec 64} {th : Thread} (h : th.answers = [(n, r, v)]) (hn : n ≤ now) :
    payAnswers now th = { payReg r .berth v th with answers := [] } := by
  simp [payAnswers, h, hn]

/-! ### What an idle ACLK does beside passing time -/

/-- The stall counts move in links and rings alone (R180, R184). -/
theorem getCore_stallTick (d : Die) (c : CoreId) : ∃ members rings,
    getCore (stallTick d) c = { getCore d c with members := members, rings := rings } := by
  unfold stallTick
  extract_lets waiting member ring core
  exact ⟨_, _, tabGet_map (f := fun _ x => core x) d.cores c.toNat rfl⟩

/-- A word gone bad marks program memory alone (R137). -/
theorem spoilWord_spec (c k : CoreId) (w : Nat) (d : Die) : spoilWord c w d = { d with cores := (spoilWord c w d).cores } ∧
    ∃ pmemBad, getCore (spoilWord c w d) k = { getCore d k with pmemBad := pmemBad } := by
  unfold spoilWord
  split
  · refine ⟨rfl, ?_⟩
    by_cases hk : k = c
    · subst hk
      exact ⟨_, getCore_modCore d k _⟩
    · exact ⟨_, getCore_modCore_ne d _ hk⟩
  · exact ⟨rfl, _, rfl⟩

theorem spoilRow_frame (ue : Bool) (key : Nat) (d : Die) : spoilRow ue key d = { d with lodge := (spoilRow ue key d).lodge } := by
  unfold spoilRow
  dsimp only
  split
  · cases ue <;> rfl
  · rfl

/-- What the stores may suffer moves what they have corrected, words and rows gone bad, and the free values drawn (R137, R191, R403). -/
theorem upsets_spec (d : Die) : ∃ cores flt lodge,
    upsets d = { d with cores := cores, flt := flt, lodge := lodge, freeCtr := d.freeCtr + 1 } ∧
    ∀ c, ∃ pmemBad, getCore (upsets d) c = { getCore d c with pmemBad := pmemBad } := by
  unfold upsets
  extract_lets f flt d1 d2
  have h2 : ∃ cores, d2 = { d1 with cores := cores } ∧ ∀ c, ∃ pmemBad, getCore d2 c = { getCore d c with pmemBad := pmemBad } := by
    by_cases hw : f 8 % 2 = 1
    · have hd2 : d2 = spoilWord (BitVec.ofNat 9 (f 9)) (f 10 % 4096) d1 := if_pos hw
      rw [hd2]
      exact ⟨_, (spoilWord_spec _ 0 _ d1).1, fun c => (spoilWord_spec _ c _ d1).2⟩
    · have hd2 : d2 = d1 := if_neg hw
      rw [hd2]
      exact ⟨_, rfl, fun c => ⟨_, rfl⟩⟩
  obtain ⟨cores, hd2, hcore⟩ := h2
  split
  · have hrow := spoilRow_frame (f 12 % 2 == 1) (f 13 % 2 ^ 23) d2
    generalize spoilRow (f 12 % 2 == 1) (f 13 % 2 ^ 23) d2 = e at hrow ⊢
    rw [hrow, hd2]
    exact ⟨_, _, _, rfl, fun c => hd2 ▸ hcore c⟩
  · rw [hd2]
    exact ⟨_, _, _, rfl, fun c => hd2 ▸ hcore c⟩

theorem getCore_idle (d : Die) (c : CoreId) : ∃ members rings pmemBad,
    getCore (idle d) c = { passTime (d.aclk + 1) (getCore d c) with members := members, rings := rings, pmemBad := pmemBad } := by
  obtain ⟨_, _, _, -, hupset⟩ := upsets_spec (stallTick (waitUntil d (d.aclk + 1)))
  obtain ⟨pmemBad, hupset⟩ := hupset c
  obtain ⟨members, rings, hstall⟩ := getCore_stallTick (waitUntil d (d.aclk + 1)) c
  rw [getCore_waitUntil, Nat.max_eq_right (Nat.le_succ _)] at hstall
  rw [hstall] at hupset
  exact ⟨members, rings, pmemBad, hupset⟩

/-- With no command the die idles (assumption log 2). -/
theorem step_of_pending_nil {s : State} (h : s.pending = []) : step s = .next (s.withDie (idle s.die)) := by
  simp only [step, h, State.withDie]

/-- Settles O55: the die by `upsets_spec`, each core by `getCore_idle` and what time does to it. -/
theorem timePasses : Obligations.TimePasses := by
  unfold Obligations.TimePasses
  intro s hempty d
  have hstep : step s = .next (s.withDie (idle d)) := step_of_pending_nil hempty
  obtain ⟨cores, flt, lodge, hu, -⟩ := upsets_spec (stallTick (waitUntil d (d.aclk + 1)))
  have hidle : idle d = { d with
      aclk := d.aclk + 1, cores := cores, flt := flt, lodge := lodge, freeCtr := d.freeCtr + 1 } := by
    rw [idle, hu]
    simp [stallTick]
  refine ⟨idle d, hstep, by rw [hidle], by rw [hidle], fun c => ?_⟩
  obtain ⟨members, rings, pmemBad, hcore⟩ := getCore_idle d c
  dsimp only
  have hthread : ∀ t, threadAt (idle d) c t = payAnswers (d.aclk + 1) (threadAt d c t) := fun t => by
    rw [threadAt, threadAt, ← getThread_passTime, hcore]
    cases t <;> simp only [getThread]
  rw [hcore]
  refine ⟨passTime_pmem .., passTime_waybills .., passTime_lines .., passTime_latch .., passTime_partials .., passTime_fault ..,
    passTime_cold_alike _, fun _ hlast => passTime_cold (h := false) hlast, fun hops => ?_, fun t => ?_⟩
  · obtain ⟨_, _, hkept⟩ := passTime_of_no_ops (d.aclk + 1) hops
    rw [hkept]
    exact ⟨hops, rfl, rfl, rfl, rfl, rfl⟩
  · rw [hthread]
    exact ⟨payAnswers_of_early, fun _ => lt_of_mem_payAnswers, fun _ _ _ => payAnswers_one⟩

end Sys2Proof.Machine
end

section
/-! PROOF. O11: a REDUCE and a MERGE carried out at once (R98 to R104, R147, R148). -/

namespace Sys2Proof.Machine

/-! ### What a REDUCE leaves (R98, R99, R103) -/

/-- The partial registers a REDUCE reads before it writes: its own under COMBINE, and its reference (R101, R103). -/
def reduceReads (W : BitVec 64) : List Nat :=
  (if bitB W 35 then [fld W 36 2] else []) ++ (if fld W 45 3 = kLse ∧ bitB W 28 = true then [fld W 26 2] else [])

/-- The records a REDUCE writes. -/
def reduceRecords (d : Die) (x : Core) (e : QEntry) (hs : HalfSel) : List (BitVec 128) :=
  (reduceCombined d x e hs).map (fun r => recEncode (fld e.word 45 3) (reduceInt x e hs) r.1)

/-- The operation a REDUCE puts in flight (R75, R103). -/
def IsReduceOp (W : BitVec 64) (o : ArrOp) : Prop :=
  o.kind = .reduce ∧ o.part = some (BitVec.ofNat 2 (fld W 36 2)) ∧ o.tLast = o.start + 31 ∧ o.due = o.start + 41

theorem startReduce_spec (d : Die) (x : Core) (t : Bool) (e : QEntry) (hs : HalfSel) (tile : TileOut) (first : Nat) :
    ∃ o, IsReduceOp e.word o ∧
    let y := startReduce d x t e hs tile first
    let z := putPart x (fld e.word 36 2) (reduceRecords d x e hs) (utagOf (fld e.word 45 3) (reduceInt x e hs))
    y.ops = x.ops ++ [o] ∧ y.partials = z.partials ∧ y.utags = z.utags ∧ y.acc = x.acc ∧ ∀ u, getThread y u = getThread x u := by
  unfold startReduce
  extract_lets w kind lse int u es read op y z
  have hspend : ∃ seed0 seed1, (if lse then spendDraws x t tile.draws else x) = { x with seed0 := seed0, seed1 := seed1 } := by
    split
    exacts [spendDraws_frame x t tile.draws, ⟨_, _, rfl⟩]
  obtain ⟨seed0, seed1, hspend⟩ := hspend
  have hy : y = putPart (addOp { x with seed0 := seed0, seed1 := seed1 } op) u (reduceRecords d x e hs) (utagOf kind int) := by
    rw [← hspend]
    rfl
  refine ⟨op, ⟨rfl, rfl, rfl, rfl⟩, ?_⟩
  rw [hy]
  exact ⟨rfl, rfl, rfl, rfl, fun _ => rfl⟩

/-- A REDUCE that nothing holds or rejects is carried out: its core, and for an LSE reduction its tile's way into a ring. -/
theorem issueReduce_accepted {d0 d : Die} {c : CoreId} {t : Bool} {e : QEntry} {hs : HalfSel}
    (hd : waitUntil d0 (maxL (d0.aclk :: (reduceReads e.word).map (partFrom (getCore d0 c)))) = d)
    (hhs : halfField (fld e.word 48 2) = some hs)
    (hheld : readHeld (getCore d0 c) t hs (slotReg (getCore d0 c) hs (fld e.word 50 4)) (fld e.word 50 4) e = false)
    (hbusy : (reduceReads e.word).any (partBusy (getCore d0 c)) = false) (hrej : reduceReject (getCore d c) t e = none)
    (hready : fld e.word 45 3 = kLse → produceReady (getCore d c) (fld e.word 23 3) = true) :
    ∃ first d1, getCore d1 c = startReduce d (getCore d c) t e hs (reduceTile d (getCore d c) t e hs) first ∧ d1.mem = d.mem ∧
      (∀ k, k ≠ c → getCore d1 k = getCore d k) ∧
      issueReduce d0 c t e = some (if fld e.word 45 3 = kLse then
          produceInto d1 c (fld e.word 23 3) e.seq (first + 42) (tileBytes (reduceTile d (getCore d c) t e hs))
        else d1) := by
  have hreads : (if bitB e.word 35 = true then [fld e.word 36 2] else []) ++
      (if (fld e.word 45 3 == kLse && bitB e.word 28) = true then [fld e.word 26 2] else []) = reduceReads e.word := by
    simp only [reduceReads, Bool.and_eq_true, beq_iff_eq]
  have hprod : (fld e.word 45 3 == kLse && !produceReady (getCore d c) (fld e.word 23 3)) = false := by
    by_cases h : fld e.word 45 3 = kLse <;> simp [h, hready]
  refine ⟨max (d.aclk + 1) (edgeFree (getCore d c) hs), drew (setCore d c _), getCore_setCore _ c _, rfl,
    fun k hk => getCore_setCore_ne _ _ hk, ?_⟩
  unfold issueReduce
  simp only [hhs, hreads, hheld, hbusy, hd, hrej, hprod, Bool.or_self, Bool.false_eq_true, if_false, beq_iff_eq]

/-! ### What a MERGE leaves (R103, R104) -/

theorem leBytes_length : ∀ n v : Nat, (leBytes n v).length = n
  | 0, _ => rfl
  | n + 1, v => congrArg (· + 1) (leBytes_length n (v / 256))

theorem length_flatMap_of_length {α β : Type} {f : α → List β} {k : Nat} (h : ∀ a, (f a).length = k) (l : List α) :
    (l.flatMap f).length = l.length * k := by
  simp [List.length_flatMap, h]

theorem mergeOs_length (d : Die) (c : CoreId) (e : QEntry) : (mergeOs d c e).length = 32 * (32 * (fld e.word 27 3 + 1)) := by
  unfold mergeOs
  rw [length_flatMap_of_length (k := 32 * (fld e.word 27 3 + 1)) (fun _ => by simp)]
  simp [mergeRows]

/-- The bytes of a MERGE's o rows. -/
def mergeBytes (d : Die) (c : CoreId) (e : QEntry) : List Byte := (mergeOs d c e).flatMap (fun o => leBytes 4 (fp32Bits o.1).toNat)

theorem mergeBytes_length (d : Die) (c : CoreId) (e : QEntry) : (mergeBytes d c e).length = 128 * 32 * (fld e.word 27 3 + 1) := by
  rw [mergeBytes, length_flatMap_of_length (fun _ => leBytes_length 4 _), mergeOs_length]
  omega

/-- A range written reads elsewhere as before. -/
theorem elseSame_memWrite (m : List Host.Cell) (a : Nat) (l : List Byte) : ElseSame m (memWrite m a l) a l.length := fun k hk => by
  rw [memGet_write, if_neg (by omega)]

/-- A MERGE that nothing holds or rejects is carried out: the merged records in its third register, the o rows in core store. -/
theorem issueMerge_accepted {d0 d : Die} {c : CoreId} {t : Bool} {e : QEntry}
    (hd : waitUntil d0 (maxL (d0.aclk :: [fld e.word 52 2, fld e.word 50 2].map (partFrom (getCore d0 c)))) = d)
    (hbusy : [fld e.word 52 2, fld e.word 50 2].any (partBusy (getCore d0 c)) = false)
    (hearlier : earlierReduce (getCore d0 c) t e.seq [fld e.word 52 2, fld e.word 50 2] = false)
    (hrej : mergeReject (getCore d c) t e = none) :
    ∃ v work, issueMerge d0 c t e = some (putStore (drew (setCore d c (setThread
        (putPart (getCore d c) (fld e.word 48 2) ((mergeRows d c e).map (fun r => recEncode kLse false r.1)) (utagOf kLse false)) t
        { threadAt d c t with vstat := v, vecWork := work }))) c (opnd e (fld e.word 30 6)).toNat (mergeBytes d c e)) := by
  have hfree : ¬ ([fld e.word 52 2, fld e.word 50 2].any (partBusy (getCore d0 c)) ||
      earlierReduce (getCore d0 c) t e.seq [fld e.word 52 2, fld e.word 50 2]) = true := by rw [hbusy, hearlier]; decide
  unfold issueMerge
  dsimp only
  rw [if_neg hfree, hd, hrej]
  exact ⟨_, _, rfl⟩

/-! ### The statement -/

/-- Settles O11: a REDUCE by `startReduce_spec` and its tile's way into a ring, a MERGE by `issueMerge_accepted`; the throttle's charge
touches the thread's count alone. -/
theorem reductionsWritePartials : Obligations.ReductionsWritePartials := by
  unfold Obligations.ReductionsWritePartials
  intro s c t w hs
  refine ⟨?_, ?_⟩
  case refine_1 =>
    extract_lets W e d0 x0 kind u2 reads d x recs
    intro hissue hhs hheld hbusy hrej hready
    obtain ⟨first, d1, hcore, hmem, hothers, hissued⟩ := issueReduce_accepted (d0 := d0) (e := e) rfl hhs hheld hbusy hrej hready
    obtain ⟨o, ⟨hkind, hpart, htlast, hdue⟩, hops, hpartials, hutags, hacc, hthreads⟩ :=
      startReduce_spec d x t e hs (reduceTile d x t e hs) first
    obtain ⟨u, hu⟩ : ∃ u, u = if kind = kLse then
      produceInto d1 c (fld W 23 3) e.seq (first + 42) (tileBytes (reduceTile d x t e hs)) else d1 := ⟨_, rfl⟩
    have hexec : exec (.reduce c t w) s = .next (s.withDie u) :=
      onDie_eq (dispatch_enqueue_issues hissue (by decide) (fun _ => rfl) (hissued.trans (congrArg some hu.symm)))
    have hmoved : OutputMoved c d1 u := by
      rw [hu]
      split
      · cases hp : isProxy (getRing (getCore d1 c) (fld W 23 3))
        exacts [(produceInto_local _ _ _ hp).1, (produceInto_proxy _ _ _ hp).1]
      · exact ⟨⟨_, _, _, rfl⟩, fun _ _ => rfl⟩
    obtain ⟨⟨rs, ms, ws, hcoreu⟩, hothersu⟩ := hmoved
    rw [hcore] at hcoreu
    refine ⟨u, o, hexec, ?_, hkind, hpart, htlast, hdue, ?_, ?_, ?_, ?_, fun hne => ?_, fun k hk => ?_⟩
    · rw [hcoreu]
      exact hops
    · rw [hcoreu]
      exact hpartials
    · rw [hcoreu]
      exact hutags
    · rw [hcoreu]
      exact hacc
    · rw [threadAt, hcoreu]
      exact congrArg Thread.regs (hthreads t)
    · rw [hu, if_neg hne, hmem]
      rfl
    · exact (hothersu k hk).trans (hothers k hk)
  case refine_2 =>
    extract_lets W e d0 x0 ps d x recs out od
    intro hissue hth hbusy hearlier hrej
    obtain ⟨v, work, hissued⟩ := issueMerge_accepted (d0 := d0) (e := e) rfl hbusy hearlier hrej
    set d1 := putStore (drew (setCore d c (setThread (putPart x (fld W 48 2) recs (utagOf kLse false)) t
      { threadAt d c t with vstat := v, vecWork := work }))) c od out with hd1
    set u := charge c t (64 * (fld W 27 3 + 1)) d1 with hu
    have hexec : exec (.merge c t w) s = .next (s.withDie u) :=
      onDie_eq (dispatch_enqueue_issues hissue (by decide) (fun _ => rfl) (paced_issues hth hissued))
    have hcore : getCore d1 c = setThread (putPart x (fld W 48 2) recs (utagOf kLse false)) t
      { threadAt d c t with vstat := v, vecWork := work } := getCore_setCore d c _
    obtain ⟨⟨t0, t1, hcharge⟩, hregs⟩ := getCore_charge c t (64 * (fld W 27 3 + 1)) d1
    rw [hcore, setThread_frame] at hcharge
    have hmem : u.mem = memWrite s.die.mem (storeBase c + od) out := by
      rw [hu, charge_frame]
      rfl
    refine ⟨u, hexec, ?_, ?_, ?_, ?_, hmem, ?_, fun k hk => ?_⟩
    · rw [hcharge]
    · rw [hcharge]
    · rw [hcharge]
      rfl
    · rw [hregs, threadAt, hcore, getThread_setThread]
    · have hlen : out.length = 128 * 32 * (fld W 27 3 + 1) := mergeBytes_length d c e
      rw [hmem, ← hlen]
      exact elseSame_memWrite _ _ _
    · rw [hu, getCore_charge_ne _ _ _ _ hk]
      exact getCore_setCore_ne d _ hk

end Sys2Proof.Machine
end

section
/-! PROOF. What leaves the die over the hub link, and what is written at a package address: neither touches a core (R10, R12, R304, R310). -/

namespace Sys2Proof.Machine

theorem getCore_of_cores {d u : Die} (h : u.cores = d.cores) (k : CoreId) : getCore u k = getCore d k := by
  rw [getCore, h, getCore]

/-! ### The hub link -/

/-- From `d` to `u` only the link's state, the Consignment counts and what has been sent moved. -/
def LinkMoved (d u : Die) : Prop :=
  ∃ link issued returned out, u = { d with link := link, out := out, flt := { d.flt with issued := issued, returned := returned } }

namespace LinkMoved

theorem refl (d : Die) : LinkMoved d d := ⟨_, _, _, _, rfl⟩

theorem trans {d e u : Die} : LinkMoved d e → LinkMoved e u → LinkMoved d u := by
  rintro ⟨_, _, _, _, rfl⟩ ⟨_, _, _, _, rfl⟩
  exact ⟨_, _, _, _, rfl⟩

theorem foldl {α : Type} {f : Die → α → Die} (hf : ∀ e x, LinkMoved e (f e x)) (l : List α) (d : Die) : LinkMoved d (l.foldl f d) := by
  induction l generalizing d with
  | nil => exact refl d
  | cons x l ih => exact (hf d x).trans (ih (f d x))

theorem cores {d u : Die} : LinkMoved d u → u.cores = d.cores := by rintro ⟨_, _, _, _, rfl⟩; rfl
theorem mem {d u : Die} : LinkMoved d u → u.mem = d.mem := by rintro ⟨_, _, _, _, rfl⟩; rfl
theorem pkg {d u : Die} : LinkMoved d u → u.pkg = d.pkg := by rintro ⟨_, _, _, _, rfl⟩; rfl

end LinkMoved

theorem linkMoved_noteSent (d : Die) (i : TxItem) : LinkMoved d (noteSent d i) := by
  unfold noteSent
  dsimp only
  split
  exacts [⟨_, _, _, _, rfl⟩, ⟨_, _, _, _, rfl⟩]

theorem linkMoved_pumpMod (n : Nat) (d : Die) : LinkMoved d (pumpMod n d) := by
  unfold pumpMod
  split
  · exact .refl d
  · refine .trans (.trans ?_ (.foldl linkMoved_noteSent _ _)) (.foldl (fun _ _ => ⟨_, _, _, _, rfl⟩) _ _)
    exact ⟨_, _, _, _, rfl⟩

theorem linkMoved_emit (d : Die) (n : Nat) (ch : BitVec 2) (flits : Nat) (o : Out) : LinkMoved d (emit d n ch flits o) :=
  .trans ⟨_, _, _, _, rfl⟩ (linkMoved_pumpMod _ _)

theorem linkMoved_gateSend (d : Die) (r : GateReq) : LinkMoved d (gateSend d r) := by
  unfold gateSend
  split
  · exact ⟨_, _, _, _, rfl⟩
  · exact .trans ⟨_, _, _, _, rfl⟩ (linkMoved_emit _ _ _ _ _)

/-! ### Pigeonholes -/

theorem releasePh_cores (n : Nat) (quiet : Bool) (d : Die) : (releasePh n quiet d).cores = d.cores := by
  unfold releasePh
  dsimp only
  split
  exacts [(linkMoved_emit _ _ _ _ _).cores, rfl]

theorem postPending_cores (d : Die) : (postPending d).cores = d.cores := by
  unfold postPending
  split
  · rfl
  · split
    exacts [rfl, releasePh_cores _ _ _]

theorem respond_cores (d : Die) (m : Msg) (status detail ctx : Nat) (payload : List Byte) :
    (respond d m status detail ctx payload).cores = d.cores := by
  unfold respond
  split <;> rfl

theorem answerUnknown_cores : ∀ (n : Nat) (d : Die), (answerUnknown n d).cores = d.cores
  | 0, _ => rfl
  | n + 1, d => by
    unfold answerUnknown
    split
    · rfl
    · split
      exacts [(answerUnknown_cores n _).trans (respond_cores _ _ _ _ _ _), rfl]

theorem stewardTurn_cores (d : Die) : (stewardTurn d).cores = d.cores := by
  unfold stewardTurn
  split
  exacts [(postPending_cores _).trans (answerUnknown_cores _ _), rfl]

theorem giveOne_cores (d : Die) (n : Nat) : (giveOne d n).cores = d.cores := by
  unfold giveOne
  split
  · rfl
  · dsimp only
    split <;> rfl

theorem giveBits_cores (v : BitVec 64) (d : Die) : (giveBits v d).cores = d.cores :=
  (stewardTurn_cores _).trans (foldl_keeps (g := Die.cores) giveOne_cores _ _)

theorem pigeonWrite_cores (d : Die) (o : Nat) (l : List Byte) (n : Nat) : (pigeonWrite d o l n).cores = d.cores := by
  unfold pigeonWrite
  split <;> rfl

/-! ### Writes at a package address -/

theorem putSlice_cores (src : Nat) (d : Die) (c : CoreId) (off : Nat) (l : List Byte) : (putSlice src d c off l).cores = d.cores :=
  (rowsSensed_foldl_senseRow src _ d).cores

theorem hubPut_cores (d : Die) (o : Nat) (l : List Byte) : (hubPut d o l).cores = d.cores := by
  unfold hubPut
  split
  exacts [putSlice_cores _ _ _ _ _, rfl, pigeonWrite_cores _ _ _ _, giveBits_cores _ _, rfl]

theorem argWrite_cores (d : Die) (a : Nat) (l : List Byte) : (argWrite d a l).cores = d.cores := by
  unfold argWrite
  split
  · split
    · exact foldl_keeps (g := Die.cores) (fun _ _ => putSlice_cores _ _ _ _ _) _ _
    · exact hubPut_cores _ _ _
  · rfl

theorem argWrite_outside {d : Die} {a : Nat} (l : List Byte) (h : ownOffset d a = none) :
    argWrite d a l = { d with pkg := memWrite d.pkg a l } := by
  rw [argWrite, h]

theorem argRead_outside {d : Die} {a : Nat} (n : Nat) (h : ownOffset d a = none) : argRead d a n = memRead d.pkg a n := by
  rw [argRead, h]

/-- The rows read for an argument are sensed. -/
theorem rowsSensed_argSense (a n : Nat) (d : Die) : RowsSensed d (argSense a n d) := by
  unfold argSense
  split
  exacts [.foldl (fun _ _ => rowsSensed_senseRows _ _ _ _ _) _ d, .refl d]

theorem RowsSensed.ident {d u : Die} : RowsSensed d u → u.ident = d.ident := by rintro ⟨_, _, _, _, _, _, rfl⟩; rfl
theorem RowsSensed.freeCtr {d u : Die} : RowsSensed d u → u.freeCtr = d.freeCtr := by rintro ⟨_, _, _, _, _, _, rfl⟩; rfl

end Sys2Proof.Machine
end

section
/-! PROOF. O29: SAVE_CONTEXT and RESTORE_CONTEXT (R110, R111, R275). -/

namespace Sys2Proof.Machine

/-! ### A save -/

theorem syncLog_cores (d : Die) (id : BitVec 32) : (syncLog d id).cores = d.cores := by
  unfold syncLog
  split
  exacts [(argWrite_cores _ _ _).trans (argWrite_cores _ _ _), rfl]

/-- The flag log that goes to a record leaves its core, and nothing else of any core moves. -/
theorem logToLast_cores (d : Die) (c : CoreId) :
    (logToLast d c).cores = d.cores ∨ (logToLast d c).cores = (setCore d c (emptyLog (getCore d c))).cores := by
  unfold logToLast
  split
  · exact .inl rfl
  · split
    · exact .inr (syncLog_cores _ _)
    · exact .inr (sendPeer_cores _ _ _)

/-- The flag log is no part of an image (R110). -/
theorem imageOf_emptyLog (x : Core) : imageOf (emptyLog x) = imageOf x := rfl

theorem imageOf_logToLast (d : Die) (c k : CoreId) : imageOf (getCore (logToLast d c) k) = imageOf (getCore d k) := by
  obtain h | h := logToLast_cores d c
  · rw [getCore_of_cores h]
  · rw [getCore_of_cores h]
    by_cases hk : k = c
    · rw [hk, getCore_setCore, imageOf_emptyLog]
    · rw [getCore_setCore_ne _ _ hk]

theorem logToLast_never_ran {d : Die} {c : CoreId} (h0 : (getCore d c).t0.itin = none) (h1 : (getCore d c).t1.itin = none) :
    logToLast d c = d := by
  have hnone : lastRan d c = none := by simp [lastRan, h0, h1]
  rw [logToLast, hnone]

/-- The die once the images of `cs` are saved from address `a` on, one after another. -/
def imagesSaved (a : Nat) (cs : List CoreId) (d : Die) : Die :=
  cs.zipIdx.foldl (fun e p => argWrite (logToLast e p.1) (a + imageSize * p.2) (imageOf (getCore e p.1))) d

theorem imageOf_imagesSaved (a : Nat) (cs : List CoreId) (d : Die) (k : CoreId) :
    imageOf (getCore (imagesSaved a cs d) k) = imageOf (getCore d k) := by
  have hstep : ∀ (e : Die) (p : CoreId × Nat), imageOf (getCore (argWrite (logToLast e p.1) (a + imageSize * p.2)
      (imageOf (getCore e p.1))) k) = imageOf (getCore e k) := fun e p => by
    rw [getCore_of_cores (argWrite_cores _ _ _), imageOf_logToLast]
  exact foldl_keeps (g := fun e => imageOf (getCore e k)) hstep cs.zipIdx d

theorem runSave_eq {n : Nat} {m : Msg} {d : Die} {cs : List CoreId} (hfree : partyBusy d (msgLE m 0x10 2) = false)
    (hstart : imageStart m d = .inr (some cs)) :
    runSave n m d = answer (drew (imagesSaved (msgLE m 0x18 8) cs d)) n m stOk 0 (leBytes 2 cs.length) := by
  unfold runSave
  simp only [hfree, hstart, Bool.false_eq_true, if_false]
  rfl

/-! ### A restore -/

/-- A restore moves the cores it names and what sensing moves; it stops only at an image that is not good. -/
theorem restoreAll_spec (a : Nat) (l : List (CoreId × Nat)) (d : Die) :
    let u := (restoreAll a l d).2
    u.mem = d.mem ∧ u.pkg = d.pkg ∧ u.freeCtr = d.freeCtr ∧ (∀ k, k ∉ l.map Prod.fst → getCore u k = getCore d k) ∧
    ((∀ p ∈ l, ownOffset d (a + imageSize * p.2) = none ∧ imageOk (argRead d (a + imageSize * p.2) imageSize) = true) →
      (restoreAll a l d).1 = none) := by
  induction l generalizing d with
  | nil => exact ⟨rfl, rfl, rfl, fun _ _ => rfl, fun _ => rfl⟩
  | cons q l ih =>
    obtain ⟨c, i⟩ := q
    have hs := rowsSensed_argSense (a + imageSize * i) imageSize d
    have hother : ∀ (f : Core → Core) k, k ∉ ((c, i) :: l).map Prod.fst →
        getCore (modCore (argSense (a + imageSize * i) imageSize d) c f) k = getCore d k := fun f k hk => by
      have hkc : k ≠ c := fun h => hk (by simp [h])
      rw [getCore_modCore_ne _ _ hkc, getCore_of_cores hs.cores]
    unfold restoreAll
    dsimp only
    split
    · obtain ⟨hmem, hpkg, hctr, hcores, hgood⟩ := ih (modCore (argSense (a + imageSize * i) imageSize d) c
        (restoreCore (fun o => (argRead d (a + imageSize * i + o) 1).headD 0)))
      refine ⟨hmem.trans hs.mem, hpkg.trans hs.pkg, hctr.trans hs.freeCtr, fun k hk => ?_, fun hall => hgood fun p hp => ?_⟩
      · rw [hcores k (fun h => hk (List.mem_cons_of_mem _ h)), hother _ k hk]
      · obtain ⟨hout, hok⟩ := hall p (List.mem_cons_of_mem _ hp)
        have hout' : ownOffset (modCore (argSense (a + imageSize * i) imageSize d) c
            (restoreCore (fun o => (argRead d (a + imageSize * i + o) 1).headD 0))) (a + imageSize * p.2) = none := by
          rw [ownOffset, modCore_ident, hs.ident]
          exact hout
        rw [argRead_outside _ hout', modCore_pkg, hs.pkg, ← argRead_outside _ hout]
        exact ⟨hout', hok⟩
    · rename_i hbad
      exact ⟨hs.mem, hs.pkg, hs.freeCtr, hother _, fun hall => absurd (hall _ List.mem_cons_self).2 hbad⟩

/-- How a restore that has ended is answered: with the core whose image failed, or with the count restored (R275). -/
def restoreAnswer (cs : List CoreId) : Option CoreId → Nat × Nat × List Byte
  | some c => (stRestoreFailed, c.toNat, [])
  | none => (stOk, 0, leBytes 2 cs.length)

theorem runRestore_eq {n : Nat} {m : Msg} {d : Die} {cs : List CoreId} (hfree : partyBusy d (msgLE m 0x10 2) = false)
    (hstart : imageStart m d = .inr (some cs)) :
    let r := restoreAll (msgLE m 0x18 8) cs.zipIdx d
    let o := restoreAnswer cs r.1
    runRestore n m d = answer (drew r.2) n m o.1 o.2.1 o.2.2 := by
  unfold runRestore
  simp only [hfree, hstart, Bool.false_eq_true, if_false]
  split <;> rename_i h <;> rw [h] <;> rfl

theorem restoreAll_one (a : Nat) (c : CoreId) (d : Die) : restoreAll a [c].zipIdx d =
    if imageOk (argRead d a imageSize) then
      (none, modCore (argSense a imageSize d) c (restoreCore (fun o => (argRead d (a + o) 1).headD 0)))
    else (some c, modCore (argSense a imageSize d) c clearedCore) := rfl

theorem restoreCore_partials (rd : Nat → Byte) (x : Core) {k : Nat} (hk : k < 128) : tabGet 0 (restoreCore rd x).partials k =
    BitVec.ofNat 128 (leNat ((List.range 16).map (fun i => rd (0x200 + 16 * k + i)))) := by
  refine (tabGet_fill 0 [] 0 128 k _).trans ?_
  rw [if_pos (by omega)]
  rfl

/-- Settles O29: a save by `imagesSaved`, a restore by `restoreAll_spec`, each for one core by its single step. -/
theorem arrayImages : Obligations.ArrayImages := by
  unfold Obligations.ArrayImages
  intro s n m0 c
  extract_lets d m a image
  have hsave : ∀ cs, asks d n opSaveContext 16 imageBad .none (imageArgs true) m0 → partyBusy d (msgLE m 0x10 2) = false →
      imageStart m d = .inr (some cs) →
      exec (.saveContext n) s = .next (s.withDie (answer (drew (imagesSaved a cs d)) n m stOk 0 (leBytes 2 cs.length))) :=
    fun cs hasks hfree hstart => onDie_eq ((onRequest_asks hasks).trans (runSave_eq hfree hstart))
  have hrestore : ∀ cs, asks d n opRestoreContext 16 imageBad .none (imageArgs false) m0 → partyBusy d (msgLE m 0x10 2) = false →
      imageStart m d = .inr (some cs) →
      let r := restoreAll a cs.zipIdx d
      let o := restoreAnswer cs r.1
      exec (.restoreContext n) s = .next (s.withDie (answer (drew r.2) n m o.1 o.2.1 o.2.2)) :=
    fun cs hasks hfree hstart => onDie_eq ((onRequest_asks hasks).trans (runRestore_eq hfree hstart))
  refine ⟨fun cs hasks hfree hstart => ?_, fun hasks hfree hstart h0 h1 hout => ?_, fun cs hasks hfree hstart => ?_,
    fun hasks hfree hstart hok => ?_, fun hasks hfree hstart hbad => ?_, fun x rd => ?_⟩
  · exact ⟨_, hsave cs hasks hfree hstart, imageOf_imagesSaved a cs d⟩
  · have hone : imagesSaved a [c] d = { d with pkg := memWrite d.pkg a (imageOf (getCore d c)) } := by
      show argWrite (logToLast d c) a (imageOf (getCore d c)) = _
      rw [logToLast_never_ran h0 h1, argWrite_outside _ hout]
    rw [hsave [c] hasks hfree hstart, hone]
    rfl
  · obtain ⟨hmem, hpkg, hctr, hothers, hgood⟩ := restoreAll_spec a cs.zipIdx d
    refine ⟨_, _, _, _, hrestore cs hasks hfree hstart, hmem, hpkg, congrArg (· + 1) hctr, ?_, fun k hk => ?_, fun hall => ?_⟩
    · cases (restoreAll a cs.zipIdx d).1 with
      | none => exact .inl rfl
      | some c => exact .inr rfl
    · exact hothers k (by rwa [List.zipIdx_map_fst])
    · rw [hgood fun p hp => hall p.2 (List.mem_zipIdx' hp).1]
      rfl
  · rw [hrestore [c] hasks hfree hstart, restoreAll_one, if_pos hok]
    rfl
  · rw [hrestore [c] hasks hfree hstart, restoreAll_one, if_neg (by rw [hbad]; decide)]
    rfl
  · exact ⟨rfl, rfl, rfl, fun k hk => restoreCore_partials rd x hk, rfl, rfl⟩

end Sys2Proof.Machine
end

section
/-! PROOF. Rings, waybills, members and links: what each operation on them reads back and leaves (R161 to R184), in the terms of
Streams.lean. -/

namespace Sys2Proof.Machine

/-! ### Waybills and buffers -/

@[simp] theorem getWb_putWb (x : Core) (n : Nat) (w : Waybill) : getWb (putWb x n w) n = w := tabGet_set _ _ _ _

theorem getWb_putWb_ne (x : Core) {n k : Nat} (w : Waybill) (h : k ≠ n) : getWb (putWb x n w) k = getWb x k := tabGet_set_ne _ _ _ h

@[simp] theorem getInfo_putInfo (r : Ring) (b : Nat) (i : BufInfo) : getInfo (putInfo r b i) b = i := tabGet_set _ _ _ _

theorem bufState_putBuf (r : Ring) (b : Nat) {v : Nat} (hv : v < 4) : bufState (putBuf r b v) b = v := by
  rw [bufState, putBuf, fld_putFld_same _ _ (by omega)]
  omega

/-- The bytes of a number written at `base` are all that changes. -/
theorem elseSame_leBytes (mem : List Host.Cell) (base k v : Nat) : ElseSame mem (memWrite mem base (leBytes k v)) base k := by
  have h := elseSame_memWrite mem base (leBytes k v)
  rwa [leBytes_length] at h

/-! ### Caravan forwarding (R178) -/

/-- Off a caravan nothing is forwarded. -/
theorem pumpCaravan_off {d : Die} {c : CoreId} {n : Nat} (k : Nat) (h : caravanOn (getCore d c) n = none) : pumpCaravan k d c n = d := by
  cases k with
  | zero => rfl
  | succ k => simp only [pumpCaravan, forwardTile, h]

/-- Forwarding moves cores and what has been sent. -/
theorem forwardTile_frame (d : Die) (c : CoreId) (n : Nat) : ∃ cores out, (forwardTile d c n).1 = { d with cores := cores, out := out } := by
  unfold forwardTile
  dsimp only
  split
  · exact ⟨_, _, rfl⟩
  · split
    · split
      · exact ⟨_, _, rfl⟩
      · rw [foldl_send]
        exact ⟨_, _, rfl⟩
    · exact ⟨_, _, rfl⟩

theorem pumpCaravan_frame (k : Nat) (d : Die) (c : CoreId) (n : Nat) : ∃ cores out,
    pumpCaravan k d c n = { d with cores := cores, out := out } := by
  induction k generalizing d with
  | zero => exact ⟨_, _, rfl⟩
  | succ k ih =>
    obtain ⟨cores, out, h⟩ := forwardTile_frame d c n
    unfold pumpCaravan
    split <;> rename_i d1 heq
    · obtain ⟨_, _, hk⟩ := ih d1
      rw [hk, show d1 = _ from (congrArg Prod.fst heq).symm.trans h]
      exact ⟨_, _, rfl⟩
    · exact ⟨_, _, (congrArg Prod.fst heq).symm.trans h⟩

/-! ### Credits granted to the member before (R177, R182) -/

/-- Four credits sent to the member before, when there is one. -/
def fourCredits (k : LinkKind) (m : Member) : List Out := match m.up with
  | some (die, core, ring) => List.replicate 4 (.streamCredit k m.id die core ring)
  | none => []

theorem fourCredits_length (k : LinkKind) (m : Member) : (fourCredits k m).length = if m.up.isSome then 4 else 0 := by
  unfold fourCredits
  split <;> simp [*]

theorem sent_fourCredits (k : LinkKind) (m : Member) (d : Die) : (match m.up with
      | some (die, core, ring) => (List.range 4).foldl (fun e _ => send e (.streamCredit k m.id die core ring)) d
      | none => d) = { d with out := d.out ++ fourCredits k m } := by
  unfold fourCredits
  cases m.up with
  | none => simp only [List.append_nil]
  | some p => exact foldl_send (fun _ => Out.streamCredit k m.id p.1 p.2.1 p.2.2) (List.range 4) d

end Sys2Proof.Machine
end

section
/-! PROOF. O16: caravan and relay members, their credits and their flits (R105, R177, R178, R182, R183, R242). -/

namespace Sys2Proof.Machine

/-! ### CARAVAN (R177) -/

/-- A member that has joined its caravan with waybill `w`. -/
def joinedMember (m : Member) (t : Bool) (w : Waybill) : Member :=
  { m with joined := true, thread := t, shape := some (wbTileBytes w, wbTiles w), fwdFlits := 0, fwdOpen := false, blocking := 0,
           granted := 4 }

/-- A CARAVAN that nothing holds or rejects, of a member behind the head: it joins, grants its credits, and its waybill runs. -/
theorem issueCaravan_joins {d : Die} {c : CoreId} {t : Bool} {e : QEntry} {m : Member} {n : Nat} (hn : fld e.word 50 3 = n)
    (hfind : (getCore d c).members.find? (fun m => m.kind == .caravan && m.id.toNat == fld e.word 36 12 &&
      some m.itin == (getThread (getCore d c) t).itin) = some m)
    (hset : inThreadSet (getCore d c) t n = true) (hst : wbSt (getWb (getCore d c) n) = 1) (hnext : wbNext (getWb (getCore d c) n) = false)
    (hfed : ringFed (getCore d c) (wbRing (getWb (getCore d c) n)) n = false) (hcar : wbCaravan (getWb (getCore d c) n) = true)
    (hring : wbRing (getWb (getCore d c) n) = m.ring.toNat) (hrej : startReject (getCore d c) t n (m.pos == 0) = none)
    (hidle : ringIdle d c (wbRing (getWb (getCore d c) n)) = true) (hpos : m.pos ≠ 0) (hjoined : m.joined = false) :
    ∃ d2 : Die, getCore d2 c = replaceM (getCore d c) m (joinedMember m t (getWb (getCore d c) n)) ∧ d2.mem = d.mem ∧
      d2.out = d.out ++ fourCredits .caravan m ∧
      issueCaravan d c t e = some (modCore d2 c (fun y => putWb y n { getWb y n with state := 3, origin := .own, thread := t, pc := e.pc })) := by
  have hstate : ¬ (!inThreadSet (getCore d c) t n || wbSt (getWb (getCore d c) n) ≠ 1 || wbNext (getWb (getCore d c) n) ||
      ringFed (getCore d c) (wbRing (getWb (getCore d c) n)) n) = true := by simp [hset, hst, hnext, hfed]
  have hshape : ¬ (!wbCaravan (getWb (getCore d c) n) || wbRing (getWb (getCore d c) n) ≠ m.ring.toNat) = true := by simp [hcar, hring]
  refine ⟨{ setCore d c (replaceM (getCore d c) m (joinedMember m t (getWb (getCore d c) n))) with
    out := d.out ++ fourCredits .caravan m }, getCore_setCore _ _ _, rfl, rfl, ?_⟩
  unfold issueCaravan
  dsimp only
  rw [hn, hfind]
  dsimp only
  rw [if_neg hstate, if_neg hshape, hrej]
  dsimp only
  rw [if_neg (by simp [hidle]), if_neg hpos, if_neg (by simp [hjoined])]
  exact congrArg (fun d2 => some (modCore d2 c (fun y => putWb y n { getWb y n with state := 3, origin := .own, thread := t, pc := e.pc })))
    (sent_fourCredits .caravan m _)

/-! ### RELAY (R182) -/

/-- The members of a relay's links that a stage's thread enters by. -/
def stageLinks (x : Core) (t : Bool) (id : Nat) : List Member :=
  x.members.filter (fun m => m.kind == .relay && m.id.toNat == id && some m.itin == (getThread x t).itin &&
    (m.up.isSome || m.down.isSome) && inThreadSet x t m.ring.toNat && !m.joined)

/-- A proxy ring enabled with no credits; the ring of a consumer's link stays. -/
def enableProxy (y : Core) (m : Member) : Core :=
  if m.down.isSome then putRing y m.ring.toNat { getRing y m.ring.toNat with credits := 0 } else y

theorem enableProxy_members (l : List Member) (x : Core) : (l.foldl enableProxy x).members = x.members := by
  refine List.foldlRecOn (motive := fun y : Core => y.members = x.members) l _ rfl fun y hy m _ => ?_
  unfold enableProxy
  split
  exacts [hy, hy]

theorem enableProxy_keeps_zero (y : Core) (m : Member) {n : Nat} (h : (getRing y n).credits = 0) :
    (getRing (enableProxy y m) n).credits = 0 := by
  unfold enableProxy
  split
  · by_cases hn : n = m.ring.toNat
    · rw [hn, getRing_putRing]
    · rw [getRing_putRing_ne _ _ hn, h]
  · exact h

/-- Every proxy ring of the links is left without credits. -/
theorem enableProxy_credits (l : List Member) (x : Core) (k : Member) (hk : k ∈ l) (hdown : k.down.isSome = true) :
    (getRing (l.foldl enableProxy x) k.ring.toNat).credits = 0 := by
  induction l generalizing x with
  | nil => simp at hk
  | cons m l ih =>
    rcases List.mem_cons.mp hk with rfl | hk
    · refine List.foldlRecOn (motive := fun y : Core => (getRing y k.ring.toNat).credits = 0) l _ ?_
        fun y hy m _ => enableProxy_keeps_zero y m hy
      rw [enableProxy, if_pos hdown, getRing_putRing]
    · exact ih _ hk

/-- Every consumer's link of the stage grants four credits. -/
theorem foldl_fourCredits (l : List Member) (d : Die) : ∃ out,
    l.foldl (fun d m => { d with out := d.out ++ fourCredits .relay m }) d = { d with out := out } ∧
    out.length = d.out.length + 4 * (l.filter (fun m => m.up.isSome)).length := by
  induction l generalizing d with
  | nil => exact ⟨_, rfl, rfl⟩
  | cons m l ih =>
    obtain ⟨out, h, hlen⟩ := ih { d with out := d.out ++ fourCredits .relay m }
    refine ⟨out, h, ?_⟩
    rw [hlen, List.length_append, fourCredits_length, List.filter_cons]
    split
    · simp
      omega
    · simp

/-! ### Flits (R105, R177, R178, R182, R242) -/

theorem atPort_delivers {d : Die} {c : CoreId} {m : Member} (tile : Nat) (go : Die → Die) (h : portCheck d c m.party m.epoch = none) :
    atPort d c m tile go = go d := by
  rw [atPort, h]

/-- A RELAY of a stage its core has: the members of its links enter, the proxies are enabled, each consumer's link grants its credits. -/
theorem issueRelay_enters {d : Die} {c : CoreId} {t : Bool} {e : QEntry}
    (hstage : (getCore d c).members.any (fun m => m.kind == .relay && m.id.toNat == fld e.word 36 12 &&
      some m.itin == (getThread (getCore d c) t).itin && m.up.isNone && m.down.isNone && m.stage.toNat == fld e.word 33 3) = true) :
    let x := getCore d c
    let links := stageLinks x t (fld e.word 36 12)
    issueRelay d c t e = some (links.foldl (fun d m => { d with out := d.out ++ fourCredits .relay m }) (setCore d c (links.foldl enableProxy
      { x with members := x.members.map (fun m => if links.contains m then { m with joined := true, thread := t, granted := 4 } else m) }))) := by
  intro x links
  have hgrant := funext₂ fun (d : Die) (m : Member) => sent_fourCredits .relay m d
  unfold issueRelay
  dsimp only
  rw [if_neg (by rw [hstage]; decide), ← hgrant]
  rfl

/-- A caravan flit its port delivers and its shape allows: its bytes at their place, then what can be forwarded is. -/
theorem effCaravanFlit_delivers {d : Die} {c : CoreId} {ring : BitVec 3} {tile count : BitVec 24} {last : Bool} {m : Member}
    {bytes total b : Nat} {r : Ring} (data : BitVec 1024) (hport : portCheck d c m.party m.epoch = none) (hjoined : m.joined = true)
    (hfind : (getCore d c).members.find? (fun m => m.kind == .caravan && m.ring == ring && m.up.isSome) = some m)
    (hshape : m.shape = some (bytes, total))
    (hopen : openBuffer (getRing (getCore d c) ring.toNat) { BufInfo.reset with
      clean := true, tile := tile.toNat, wb := memberWb (getCore d c) ring.toNat, size := bytes, total := total } = some (r, b))
    (hcount : count.toNat = (getInfo r b).total)
    (hlast : decide ((getInfo r b).bytes + min 128 ((getInfo r b).size - (getInfo r b).bytes) = (getInfo r b).size) = last) :
    ∃ x, effCaravanFlit c ring tile count last data d = pumpCaravan 4 (putStore (setCore d c x) c (bufBase r b + (getInfo r b).bytes)
      (leBytes (min 128 ((getInfo r b).size - (getInfo r b).bytes)) data.toNat)) c ring.toNat := by
  unfold effCaravanFlit
  dsimp only
  rw [hfind]
  dsimp only
  rw [atPort_delivers _ _ hport, hjoined, hshape]
  dsimp only
  rw [hopen]
  dsimp only
  rw [if_neg (by simp [hcount, hlast])]
  exact ⟨_, rfl⟩

/-- A hand-over flit its port delivers, the last of a tile only once the tile is judged: its bytes at their place in the filling buffer. -/
theorem effHandoverFlit_delivers {d : Die} {c : CoreId} {ring : BitVec 3} {last : Bool} {m : Member} {b : Nat} {r : Ring}
    (data : BitVec 1024) (hport : portCheck d c m.party m.epoch = none) (hjoined : m.joined = true)
    (hfind : (getCore d c).members.find? (fun m => m.kind == .relay && m.ring == ring && m.up.isSome) = some m)
    (hjudged : last = true → tileJudged d m = true)
    (hopen : openBuffer (getRing (getCore d c) ring.toNat) { BufInfo.reset with clean := true, tile := m.tiles } = some (r, b)) :
    ∃ (i : BufInfo) (x : Core), i.whole = last ∧ getRing x ring.toNat = putInfo r b i ∧
      effHandoverFlit c ring last data d = putStore (setCore d c x) c (bufBase r b + (getInfo r b).bytes)
        (leBytes (min 128 (ringB r - (getInfo r b).bytes)) data.toNat) := by
  have hwait : ¬ (last && !tileJudged d m) = true := by
    cases last <;> simp [hjudged]
  unfold effHandoverFlit
  dsimp only
  rw [hfind]
  dsimp only
  rw [atPort_delivers _ _ hport, if_neg (by simp [hjoined]), if_neg hwait, hopen]
  refine ⟨{ getInfo r b with bytes := (getInfo r b).bytes + min 128 (ringB r - (getInfo r b).bytes), whole := last,
                             due := if last then d.aclk + 1 else (getInfo r b).due }, _, rfl, ?_, rfl⟩
  exact getRing_putRing (getCore d c) ring.toNat (putInfo r b _)

/-- A chain flit its port delivers to a member with no CHAINRED of its own under way joins what has come in. -/
theorem effChainFlit_delivers {d : Die} {c : CoreId} {id : BitVec 12} {m : Member} (data : BitVec 1024)
    (hport : portCheck d c m.party m.epoch = none) (hjoined : m.joined = true)
    (hfind : (getCore d c).members.find? (fun m => m.kind == .chain && m.id == id && m.up.isSome) = some m) (hpend : m.pending = none) :
    effChainFlit c id data d = setCore d c (replaceM (getCore d c) m { m with
      incoming := m.incoming ++ [data], received := m.received + 1 }) := by
  unfold effChainFlit
  dsimp only
  rw [hfind]
  dsimp only
  rw [atPort_delivers _ _ hport, if_neg (by simp [hjoined]), chainAct, hpend]

/-- A credit that comes back to a hand-over link raises its ring's count (R182). -/
theorem effCreditArrival_relay {d : Die} {c : CoreId} {id : BitVec 12} {ring : BitVec 3} {m : Member}
    (hfind : (getCore d c).members.find? (fun m => m.kind == .relay && m.id == id && m.down.isSome &&
      (LinkKind.relay == .chain || m.ring == ring)) = some m) (hroom : (getRing (getCore d c) ring.toNat).credits.toNat < 4) :
    effCreditArrival c .relay id ring d = setCore d c (putRing (getCore d c) ring.toNat
      { getRing (getCore d c) ring.toNat with credits := (getRing (getCore d c) ring.toNat).credits + 1 }) := by
  unfold effCreditArrival
  dsimp only
  rw [hfind]
  dsimp only
  rw [if_neg (Nat.not_le.mpr hroom)]
  rfl

/-- Settles O16: each word and each arrival by what its issue or its delivery leaves. -/
theorem linksAndFlits : Obligations.LinksAndFlits := by
  unfold Obligations.LinksAndFlits
  refine ⟨fun s c t w m => ⟨?caravan, ?relay, ?credit⟩, fun s c ring last data m r b => ?flits⟩
  case caravan =>
    extract_lets W e d x n bw
    intro hissue hfind hset hst hnext hfed hcar hring hrej hidle hpos hjoined
    obtain ⟨d2, hcore, hmem, hout, hissued⟩ := issueCaravan_joins (e := e) (n := n) rfl hfind hset hst hnext hfed hcar hring hrej hidle hpos hjoined
    refine ⟨_, onDie_eq (dispatch_enqueue_issues hissue (by decide) (fun _ => rfl) hissued), hmem, ?_, ?_, ?_, fun die core ring hup => ?_,
      fun hup => ?_⟩
    · rw [getCore_modCore, getWb_putWb]
    · rw [getCore_modCore, getWb_putWb]
    · rw [getCore_modCore, getWb_putWb]
    · rw [modCore_out, hout, fourCredits, hup]
      rfl
    · rw [modCore_out, hout, fourCredits, hup]
      exact List.append_nil _
  case relay =>
    extract_lets W d x mine links
    intro hissue hstage
    have hissued := issueRelay_enters (d := d) (c := c) (t := t) (e := wordEntry s.die c t 0x15 w) hstage
    have hlinks : stageLinks x t (fld W 36 12) = links := rfl
    dsimp only at hissued
    rw [wordEntry_word, hlinks] at hissued
    obtain ⟨out, hgrant, hlen⟩ := foldl_fourCredits links (setCore d c (links.foldl enableProxy
      { x with members := x.members.map (fun m => if links.contains m then { m with joined := true, thread := t, granted := 4 } else m) }))
    rw [hgrant] at hissued
    refine ⟨_, onDie_eq (dispatch_enqueue_issues hissue (by decide) (fun _ => rfl) hissued), rfl, hlen, fun k hk hdown => ?_, ?_⟩
    · exact (congrArg (fun y => (getRing y k.ring.toNat).credits) (getCore_setCore d c _)).trans (enableProxy_credits links _ k hk hdown)
    · exact (congrArg Core.members (getCore_setCore d c _)).trans (enableProxy_members links _)
  case credit =>
    intro id ring x hfind hroom
    exact onDie_eq (effCreditArrival_relay hfind hroom)
  case flits =>
    extract_lets x base k
    intro hport hjoined
    refine ⟨fun tile count bytes total hfind hshape hopen hcount hlast => ?_, fun hfind hjudged hopen => ?_, fun id hfind hpend => ?_⟩
    · obtain ⟨y, hu⟩ := effCaravanFlit_delivers (d := cons s.die 3 1 1) data hport hjoined hfind hshape hopen hcount hlast
      obtain ⟨cores, out, hpump⟩ := pumpCaravan_frame 4 (putStore (setCore (cons s.die 3 1 1) c y) c (bufBase r b + (getInfo r b).bytes)
        (leBytes k data.toNat)) c ring.toNat
      rw [hpump, putStore_add] at hu
      have hexec : exec (.caravanFlitArrival c ring tile count last data) s = .next (s.withDie _) :=
        onDie_eq (f := fun d => effCaravanFlit c ring tile count last data (cons d 3 1 1)) hu
      have hissued : tabGet 0 (cons s.die 3 1 1).flt.issued 3 = tabGet 0 s.die.flt.issued 3 + 1 :=
        tabGet_mod 0 s.die.flt.issued 3 (· + BitVec.ofNat 64 1)
      exact ⟨_, hexec, rfl, elseSame_leBytes _ _ _ _, hissued⟩
    · obtain ⟨i, y, hwhole, hring, hu⟩ := effHandoverFlit_delivers (d := cons s.die 3 1 1) data hport hjoined hfind hjudged hopen
      rw [putStore_add] at hu
      have hexec : exec (.handoverFlitArrival c ring last data) s = .next (s.withDie _) :=
        onDie_eq (f := fun d => effHandoverFlit c ring last data (cons d 3 1 1)) hu
      have hcore : getCore (setCore (cons s.die 3 1 1) c y) c = y := getCore_setCore _ _ _
      refine ⟨_, hexec, rfl, elseSame_leBytes _ _ _ _, ?_⟩
      exact (congrArg (fun z => (getInfo (getRing z ring.toNat) b).whole) hcore).trans (by rw [hring, getInfo_putInfo, hwhole])
    · exact onDie_eq (f := fun d => effChainFlit c id data (cons d 3 1 1))
        (effChainFlit_delivers (d := cons s.die 3 1 1) data hport hjoined hfind hpend)

end Sys2Proof.Machine
end

section
/-! PROOF. What time leaves of a core's streams, and how the pumps of the Porter stand still (R30, R163 to R174). -/

namespace Sys2Proof.Machine

/-! ### Streams in time -/

section Frame

variable (now : Nat) (x : Core)

@[simp] theorem passTime_members : (passTime now x).members = x.members := by
  obtain ⟨_, _, _, _, _, _, _, _, _, _, _, _, h⟩ := passTime_frame now x
  rw [h]

@[simp] theorem passTime_queued : (passTime now x).queued = x.queued := by
  obtain ⟨_, _, _, _, _, _, _, _, _, _, _, _, h⟩ := passTime_frame now x
  rw [h]

theorem getWb_passTime (n : Nat) : getWb (passTime now x) n = getWb x n := by rw [getWb, passTime_waybills, getWb]

theorem caravanOn_passTime (n : Nat) : caravanOn (passTime now x) n = caravanOn x n := by rw [caravanOn, passTime_members, caravanOn]

theorem outWaybill_passTime (n : Nat) : outWaybill (passTime now x) n = outWaybill x n := by
  unfold outWaybill
  simp only [getWb_passTime]

end Frame

/-! ### Pumps that stand still -/

/-- No tile leaves a ring whose head is not FULL, or that no outbound waybill empties. -/
theorem takeTile_still {d : Die} {c : CoreId} {n : Nat} (h : outWaybill (getCore d c) n = none ∨ headFull (getRing (getCore d c) n) = false) :
    takeTile d c n = d := by
  unfold takeTile
  dsimp only
  split
  · rfl
  · rename_i k hk
    have hhead : headFull (getRing (getCore d c) n) = false := h.resolve_left (by rw [hk]; exact Option.some_ne_none k)
    rw [hhead]
    rfl

theorem pumpOut_still {d : Die} {c : CoreId} {n : Nat} (k : Nat)
    (h : outWaybill (getCore d c) n = none ∨ headFull (getRing (getCore d c) n) = false) : pumpOut k d c n = d := by
  induction k with
  | zero => rfl
  | succ k ih => rw [pumpOut, takeTile_still h, ih]

/-- Requests that leave move their core's lists of them, and what goes over the hub link. -/
theorem pumpLines_spec (k : Nat) (d : Die) (c : CoreId) : (pumpLines k d c).mem = d.mem ∧ ∃ queued lines reqNo lastWb,
    getCore (pumpLines k d c) c = { getCore d c with queued := queued, lines := lines, reqNo := reqNo, lastWb := lastWb } := by
  induction k generalizing d with
  | zero => exact ⟨rfl, _, _, _, _, rfl⟩
  | succ k ih =>
    unfold pumpLines
    dsimp only
    split
    · exact ⟨rfl, _, _, _, _, rfl⟩
    · split
      · exact ⟨rfl, _, _, _, _, rfl⟩
      · rename_i l _ _
        obtain ⟨d1, hd1⟩ : ∃ d1, d1 = setCore d c { getCore d c with
          queued := (getCore d c).queued.erase l,
          lines := (getCore d c).lines ++ [{ l with tag := freeTag ((getCore d c).lines.map (·.tag)), ord := (getCore d c).reqNo }],
          reqNo := (getCore d c).reqNo + 1, lastWb := l.wb } := ⟨_, rfl⟩
        rw [← hd1]
        have hcore : ∃ queued lines reqNo lastWb, getCore d1 c = { getCore d c with
            queued := queued, lines := lines, reqNo := reqNo, lastWb := lastWb } := ⟨_, _, _, _, hd1 ▸ getCore_setCore d c _⟩
        have hmem : d1.mem = d.mem := by rw [hd1]; rfl
        obtain ⟨_, _, _, _, hcore⟩ := hcore
        split
        · obtain ⟨hm, _, _, _, _, hc⟩ := ih d1
          rw [hcore] at hc
          exact ⟨hm.trans hmem, _, _, _, _, hc⟩
        · obtain ⟨hm, _, _, _, _, hc⟩ := ih (gateSend d1 _)
          rw [getCore_of_cores (linkMoved_gateSend _ _).cores, hcore] at hc
          exact ⟨hm.trans ((linkMoved_gateSend _ _).mem.trans hmem), _, _, _, _, hc⟩

theorem setWbState_issued (n : Nat) (st : BitVec 3) (y : Core) (k : Nat) : (getWb (setWbState n st y) k).issued = (getWb y k).issued := by
  by_cases hk : k = n
  · rw [setWbState, hk, getWb_putWb]
  · rw [setWbState, getWb_putWb_ne _ _ hk]

/-- FETCHED is a waybill's state: of its core nothing but waybills moves, and no waybill's count of tiles asked for. -/
theorem settleFetched_spec (c : CoreId) (d : Die) : ∃ y : Core, settleFetched c d = setCore d c y ∧
    y = { getCore d c with waybills := y.waybills } ∧ ∀ n, (getWb y n).issued = (getWb (getCore d c) n).issued := by
  refine ⟨_, rfl, ?_⟩
  refine List.foldlRecOn (motive := fun y : Core => y = { getCore d c with waybills := y.waybills } ∧
    ∀ n, (getWb y n).issued = (getWb (getCore d c) n).issued) (List.range 8) _ ⟨rfl, fun _ => rfl⟩ ?_
  rintro y ⟨hy, hissued⟩ n -
  dsimp only
  split
  · refine ⟨?_, fun k => (setWbState_issued n 4 y k).trans (hissued k)⟩
    rw [setWbState, putWb, hy]
  · exact ⟨hy, hissued⟩

end Sys2Proof.Machine
end

section
/-! PROOF. O15: inbound and outbound tiles, ring buffers, stalls (R108, R163 to R165, R171 to R174, R180, R184). -/

namespace Sys2Proof.Machine

/-! ### WBNEXT_START (R173) -/

/-- Off a caravan an armed PACKAGE waybill whose pair has fetched its last tile runs. -/
theorem effWbnextStart_package {d : Die} {c : CoreId} {wb : BitVec 3} {w : Waybill} (hw : getWb (getCore d c) wb.toNat = w)
    (hst : wbSt w = 2) (hpair : wbSt (getWb (getCore d c) w.pair.toNat) = 4 ∨ wbSt (getWb (getCore d c) w.pair.toNat) = 5)
    (hkind : wbKind w = 0) (hoff : caravanOn (getCore d c) (wbRing w) = none) (hrej : startReject (getCore d c) w.thread wb.toNat true = none)
    (hhead : headFull (getRing (getCore d c) (wbRing w)) = false) :
    effWbnextStart c wb d = setCore d c (putWb (getCore d c) wb.toNat
      { w with state := 3, origin := .package (wbFar w), first := d.aclk + 6 }) := by
  have harmed : ¬ (wbSt w ≠ 2 || !(wbSt (getWb (getCore d c) w.pair.toNat) = 4 || wbSt (getWb (getCore d c) w.pair.toNat) = 5)) = true := by
    simpa [hst, or_iff_not_imp_left] using hpair
  have hrun : runWaybill (setCore d c (getCore d c)) c w.thread wb.toNat w.pc = setCore d c (putWb (getCore d c) wb.toNat
      { w with state := 3, origin := .package (wbFar w), first := d.aclk + 6 }) := by
    unfold runWaybill
    simp only [modCore, getCore_setCore, setCore_setCore, hw, hkind]
    exact pumpOut_still 4 (.inr ((congrArg (fun y => headFull (getRing y (wbRing w))) (getCore_setCore d c _)).trans hhead))
  rw [← hrun]
  unfold effWbnextStart
  simp only [hw, hoff, Option.all_none, Option.any_none, hrej]
  exact (if_neg harmed).trans rfl

/-! ### WAYBILL_TILE_REQUEST (R171, R172) -/

/-- Whether a waybill's far side is the core's own slice. -/
def ownSlice (c : CoreId) (w : Waybill) : Bool := match w.origin with
  | .die a => a / sliceSize == c.toNat && decide (a < 0x80000000)
  | _ => false

/-- A core whose n-th waybill's next tile has been started in the tail buffer of its ring `r`. -/
def tileStarted (x : Core) (n : Nat) (w : Waybill) (r : Ring) (i : BufInfo) : Core :=
  putRing (putWb x n { w with issued := w.issued + 1 }) (wbRing w) (startTail r i)

theorem tileStarted_issued (x : Core) (n : Nat) (w : Waybill) (r : Ring) (i : BufInfo) :
    (getWb (tileStarted x n w r i) n).issued = w.issued + 1 :=
  congrArg Waybill.issued (getWb_putWb x n { w with issued := w.issued + 1 })

theorem tileStarted_ring (x : Core) (n : Nat) (w : Waybill) (r : Ring) (i : BufInfo) :
    getRing (tileStarted x n w r i) (wbRing w) = startTail r i := getRing_putRing _ _ _

theorem tileStarted_caravan (x : Core) (n : Nat) (w : Waybill) (r : Ring) (i : BufInfo) (k : Nat) :
    caravanOn (tileStarted x n w r i) k = caravanOn x k := rfl

/-- A RUNNING inbound waybill off a caravan has a tile to ask for that lies within its far side, and the tail buffer is EMPTY. -/
def TileGoes (x : Core) (w : Waybill) : Prop :=
  wbSt w = 3 ∧ wbOut w = false ∧ w.origin ≠ .none ∧ w.origin ≠ .own ∧ w.issued < wbTiles w ∧
  bufState (getRing x (wbRing w)) (getRing x (wbRing w)).tail.toNat = 0 ∧ caravanOn x (wbRing w) = none ∧
  (tileRuns w w.issued).filterMap (runFault w) = []

theorem TileGoes.acts {x : Core} {w : Waybill} (h : TileGoes x w) : ¬ (wbSt w ≠ 3 || wbOut w || w.origin = .none || w.origin = .own ||
    wbTiles w ≤ w.issued || bufState (getRing x (wbRing w)) (getRing x (wbRing w)).tail.toNat ≠ 0 ||
    (caravanOn x (wbRing w)).any (fun m => m.pos ≠ 0)) = true := by
  obtain ⟨hst, hin, hnone, hown, hleft, hempty, hoff, -⟩ := h
  simp [hst, hin, hnone, hown, hleft, hempty, hoff]

theorem TileGoes.fits {x : Core} {w : Waybill} (h : TileGoes x w) : (tileRuns w w.issued).filterMap (runFault w) = [] := by
  obtain ⟨-, -, -, -, -, -, -, hfits⟩ := h
  exact hfits

theorem TileGoes.off_caravan {x : Core} {w : Waybill} (h : TileGoes x w) : caravanOn x (wbRing w) = none := by
  obtain ⟨-, -, -, -, -, -, hoff, -⟩ := h
  exact hoff

/-- Where a run of a waybill on the own slice lies in it. -/
def sliceOff (w : Waybill) (run : Int × Nat × Nat) : Nat := ((wbBase w : Int) + run.1).toNat % sliceSize

/-- What a buffer that takes a waybill's next tile is known to hold. -/
def tileInfo (n : Nat) (w : Waybill) (bytes : Nat) (whole : Bool) (due : Nat) : BufInfo :=
  { BufInfo.reset with
    bytes := bytes, whole := whole, clean := true, tile := w.issued, due := due, wb := n, size := wbTileBytes w, total := wbTiles w }

/-- The line requests of a waybill's next tile (R171). -/
def tileLines (d : Die) (wb : BitVec 3) (w : Waybill) (r : Ring) : List LineReq :=
  ((tileRuns w w.issued).flatMap (runLines w)).map (fun (a, lo, k, dest) =>
    let (on, a') := localise d w.origin a
    ⟨wb, w.issued, BitVec.ofNat 2 r.tail.toNat, on, a', lo, k, bufBase r r.tail.toNat + dest, 0, 0, none⟩)

/-- The bytes of a waybill's next tile, and the cycle at which a copy of as many out of the own slice has ended (R73, R172). -/
def tileSize (w : Waybill) : Nat := ((tileRuns w w.issued).map (·.2.1)).foldl (· + ·) 0

def copyEnd (x : Core) (now bytes : Nat) : Nat := porterFrom true x (streamEnd x now) + 12 + divUp bytes 64

/-- A core whose n-th waybill's next tile has been started with its lines asked for. -/
def tileAsked (x : Core) (n : Nat) (w : Waybill) (r : Ring) (lines : List LineReq) : Core :=
  { tileStarted x n w r (tileInfo n w 0 false 0) with queued := x.queued ++ lines }

theorem tileAsked_issued (x : Core) (n : Nat) (w : Waybill) (r : Ring) (lines : List LineReq) :
    (getWb (tileAsked x n w r lines) n).issued = w.issued + 1 := tileStarted_issued x n w r (tileInfo n w 0 false 0)

theorem tileAsked_ring (x : Core) (n : Nat) (w : Waybill) (r : Ring) (lines : List LineReq) :
    getRing (tileAsked x n w r lines) (wbRing w) = startTail r (tileInfo n w 0 false 0) :=
  tileStarted_ring x n w r (tileInfo n w 0 false 0)

section TileRequest

variable {d : Die} {c : CoreId} {wb : BitVec 3} {w : Waybill} {r : Ring} (hw : getWb (getCore d c) wb.toNat = w)
  (hr : getRing (getCore d c) (wbRing w) = r) (hgo : TileGoes (getCore d c) w)
include hw hr hgo

/-- With 512 requests outstanding the tile waits (R166). -/
theorem effTileRequest_waits (hown : ownSlice c w = false) (hfull : 512 ≤ (getCore d c).lines.length) :
    effTileRequest c wb d = waitUntil d w.first := by
  subst hw hr
  unfold effTileRequest
  refine (if_neg hgo.acts).trans ?_
  dsimp only
  rw [hgo.fits]
  refine (if_neg (c := ownSlice c _ = true) (by rw [hown]; decide)).trans (if_pos ?_)
  rw [getCore_waitUntil, passTime_lines]
  exact hfull

/-- A tile from elsewhere is started, and its lines are asked for. -/
theorem effTileRequest_asks (hown : ownSlice c w = false) (hroom : (getCore d c).lines.length < 512) :
    effTileRequest c wb d = pumpIn (setCore (waitUntil d w.first) c
      (tileAsked (getCore (waitUntil d w.first) c) wb.toNat w r (tileLines (waitUntil d w.first) wb w r))) c := by
  subst hw hr
  unfold effTileRequest
  refine (if_neg hgo.acts).trans ?_
  dsimp only
  rw [hgo.fits]
  refine (if_neg (c := ownSlice c _ = true) (by rw [hown]; decide)).trans ((if_neg ?_).trans rfl)
  rw [getCore_waitUntil, passTime_lines]
  exact Nat.not_le.mpr hroom

/-- A tile from the own slice, which holds no uncorrectable error there, is started and its runs copied. -/
theorem effTileRequest_copies (hown : ownSlice c w = true)
    (hsound : (tileRuns w w.issued).filterMap (fun run => ueIn d c (sliceOff w run) run.2.1) = []) :
    let d1 := waitUntil d w.first
    let x := getCore d1 c
    effTileRequest c wb d = pumpCaravan 4 (settleFetched c ((tileRuns w w.issued).foldl
      (fun e run => putStore (senseRows srcPorter c (sliceOff w run) run.2.1 e) c (bufBase r r.tail.toNat + run.2.2)
        (memRead d.mem (sliceBase c + sliceOff w run) run.2.1))
      (setCore d1 c (tileStarted x wb.toNat w r (tileInfo wb.toNat w (tileSize w) true (copyEnd x d1.aclk (tileSize w))))))) c
      (wbRing w) := by
  subst hw hr
  unfold effTileRequest
  refine (if_neg hgo.acts).trans ?_
  dsimp only
  rw [hgo.fits]
  refine (if_pos (c := ownSlice c _ = true) hown).trans ?_
  have hsound' : (tileRuns (getWb (getCore d c) wb.toNat) (getWb (getCore d c) wb.toNat).issued).filterMap (fun run =>
      ueIn (waitUntil d (getWb (getCore d c) wb.toNat).first) c
        (((wbBase (getWb (getCore d c) wb.toNat) : Int) + run.1).toNat % sliceSize) run.2.1) = [] := hsound
  rw [hsound']
  rfl

end TileRequest

/-- Lines asked for leave memory, the rings, and every waybill's count of tiles asked for. -/
theorem pumpIn_spec (d : Die) (c : CoreId) : (pumpIn d c).mem = d.mem ∧ (getCore (pumpIn d c) c).rings = (getCore d c).rings ∧
    ∀ n, (getWb (getCore (pumpIn d c) c) n).issued = (getWb (getCore d c) n).issued := by
  unfold pumpIn
  obtain ⟨hmem, queued, lines, reqNo, lastWb, hlines⟩ := pumpLines_spec (getCore d c).queued.length d c
  obtain ⟨y, hu, hy, hissued⟩ := settleFetched_spec c (pumpLines (getCore d c).queued.length d c)
  rw [hlines] at hy hissued
  rw [hu, getCore_setCore]
  exact ⟨hmem, by rw [hy], hissued⟩

/-- A fold of writes to core store in which rows are sensed first leaves what the writes alone leave. -/
theorem foldl_copy_mem (c : CoreId) (base : Nat) (off : Int × Nat × Nat → Nat) (m : List Host.Cell) (l : List (Int × Nat × Nat))
    {d e : Die} (h : d.mem = e.mem) : (l.foldl (fun e run => putStore (senseRows srcPorter c (off run) run.2.1 e) c (base + run.2.2)
      (memRead m (sliceBase c + off run) run.2.1)) d).mem =
    (l.foldl (fun e run => putStore e c (base + run.2.2) (memRead m (sliceBase c + off run) run.2.1)) e).mem := by
  induction l generalizing d e with
  | nil => exact h
  | cons run l ih =>
    refine ih ?_
    have hs := (rowsSensed_senseRows srcPorter c (off run) run.2.1 d).mem
    simp only [putStore, hs, h]

theorem foldl_copy_core (c : CoreId) (base : Nat) (off : Int × Nat × Nat → Nat) (m : List Host.Cell) (l : List (Int × Nat × Nat))
    (d : Die) : getCore (l.foldl (fun e run => putStore (senseRows srcPorter c (off run) run.2.1 e) c (base + run.2.2)
      (memRead m (sliceBase c + off run) run.2.1)) d) c = getCore d c := by
  have hstep : ∀ (e : Die) (run : Int × Nat × Nat), getCore (putStore (senseRows srcPorter c (off run) run.2.1 e) c (base + run.2.2)
      (memRead m (sliceBase c + off run) run.2.1)) c = getCore e c := fun e run => getCore_senseRows _ _ _ _ _ _
  exact foldl_keeps (g := fun e => getCore e c) hstep l d

/-- Copies out of the own slice with what settles after them, off a caravan: memory is as the writes alone leave it, and no waybill's
count of tiles asked for moves. -/
theorem copies_settled {d e : Die} {c : CoreId} {n : Nat} (base : Nat) (off : Int × Nat × Nat → Nat) (m : List Host.Cell)
    (runs : List (Int × Nat × Nat)) (hoff : caravanOn (getCore d c) n = none) (hmem : d.mem = e.mem) :
    let u := pumpCaravan 4 (settleFetched c (runs.foldl (fun e run => putStore (senseRows srcPorter c (off run) run.2.1 e) c
      (base + run.2.2) (memRead m (sliceBase c + off run) run.2.1)) d)) c n
    u.mem = (runs.foldl (fun e run => putStore e c (base + run.2.2) (memRead m (sliceBase c + off run) run.2.1)) e).mem ∧
      ∀ k, (getWb (getCore u c) k).issued = (getWb (getCore d c) k).issued := by
  have hcopied := foldl_copy_mem c base off m runs hmem
  have hcore := foldl_copy_core c base off m runs d
  generalize runs.foldl _ d = d2 at *
  obtain ⟨y, hsettle, hy, hissued⟩ := settleFetched_spec c d2
  rw [hcore] at hy hissued
  have hyoff : caravanOn (getCore (setCore d2 c y) c) n = none := by
    rw [getCore_setCore, hy]
    exact hoff
  dsimp only
  rw [hsettle, pumpCaravan_off 4 hyoff, getCore_setCore]
  exact ⟨hcopied, hissued⟩

/-! ### PORTER_LINE_FILL (R166, R171) -/

theorem pumpIn_no_lines {d : Die} {c : CoreId} (h : (getCore d c).queued = []) : pumpIn d c = settleFetched c d := by
  rw [pumpIn, h]
  rfl

/-- A good response to a line of a RUNNING or FETCHED waybill off a caravan: its bytes go to their place, and its ring counts them. -/
theorem fillLine_bytes {d : Die} {c : CoreId} {l : LineReq} (bytes : List Byte) (ue : Option Nat)
    (hst : wbSt (getWb (getCore d c) l.wb.toNat) = 3 ∨ wbSt (getWb (getCore d c) l.wb.toNat) = 4)
    (hoff : caravanOn (getCore d c) (wbRing (getWb (getCore d c) l.wb.toNat)) = none) : ∃ rings,
    fillLine d c l 0 bytes ue = putStore (setCore d c { getCore d c with rings := rings }) c l.dest bytes := by
  have hlive : ¬ (wbSt (getWb (getCore d c) l.wb.toNat) ≠ 3 && wbSt (getWb (getCore d c) l.wb.toNat) ≠ 4) = true := by
    simpa [or_iff_not_imp_left] using hst
  have hoffset : ∀ rings, caravanOn (getCore (putStore (setCore d c { getCore d c with rings := rings }) c l.dest bytes) c)
      (wbRing (getWb (getCore d c) l.wb.toNat)) = none := fun rings =>
    (congrArg (caravanOn · _) (getCore_setCore d c _)).trans hoff
  unfold fillLine
  dsimp only
  rw [if_neg hlive]
  exact ⟨_, (if_pos rfl).trans (pumpCaravan_off 4 (hoffset _))⟩

/-- A line's response of status 0 that comes from outside the die: its bytes go to its place in the buffer. -/
theorem effLineFill_response {dn : Die} {c : CoreId} {n : Nat} {l : LineReq} {v : BitVec 1024}
    (hget : (getCore dn c).lines[n]? = some l) (hfar : l.onDie = false) (hrsp : l.rsp = some (0, v))
    (hst : wbSt (getWb (getCore dn c) l.wb.toNat) = 3 ∨ wbSt (getWb (getCore dn c) l.wb.toNat) = 4)
    (hoff : caravanOn (getCore dn c) (wbRing (getWb (getCore dn c) l.wb.toNat)) = none) (hqueued : (getCore dn c).queued = []) :
    ∃ e : Die, e.mem = dn.mem ∧ e.pkg = dn.pkg ∧ (getCore e c).lines = (getCore dn c).lines.eraseIdx n ∧
      effLineFill c n dn = settleFetched c (putStore e c l.dest (leBytes l.len (v.toNat / 2 ^ (8 * l.lo)))) := by
  unfold effLineFill
  generalize porterFrom true (getCore dn c) dn.aclk = now
  obtain ⟨y, hy⟩ : ∃ y, y = getCore (waitUntil dn now) c := ⟨_, rfl⟩
  have hpassed : y = passTime (max dn.aclk now) (getCore dn c) := by rw [hy, getCore_waitUntil]
  have hlines : y.lines = (getCore dn c).lines := by rw [hpassed, passTime_lines]
  obtain ⟨d1, hd1⟩ : ∃ d1, d1 = modCore (cons (waitUntil dn now) 3 2 2) c (fun x => { x with lines := x.lines.eraseIdx n }) := ⟨_, rfl⟩
  have hcore : getCore d1 c = { y with lines := y.lines.eraseIdx n } := by
    rw [hd1, hy]
    exact getCore_modCore _ _ _
  have hwb : getWb (getCore d1 c) l.wb.toNat = getWb (getCore dn c) l.wb.toNat := by
    rw [hcore]
    exact (congrArg (getWb · _) hpassed).trans (getWb_passTime _ _ _)
  have hoff1 : caravanOn (getCore d1 c) (wbRing (getWb (getCore d1 c) l.wb.toNat)) = none := by
    rw [hwb, hcore]
    exact (congrArg (caravanOn · _) hpassed).trans ((caravanOn_passTime _ _ _).trans hoff)
  obtain ⟨rings, hfill⟩ := fillLine_bytes (leBytes l.len (v.toNat / 2 ^ (8 * l.lo))) none (hwb ▸ hst) hoff1
  refine ⟨setCore d1 c { getCore d1 c with rings := rings }, by rw [hd1]; rfl, by rw [hd1]; rfl, ?_, ?_⟩
  · rw [getCore_setCore, hcore, hlines]
  · have hnone : (getCore (setCore d1 c { getCore d1 c with rings := rings }) c).queued = [] := by
      rw [getCore_setCore, hcore, hpassed]
      exact (passTime_queued _ _).trans hqueued
    simp only [← hy, hlines, hget, hfar, hrsp, Option.isNone_some, Bool.false_and, Bool.false_eq_true, if_false]
    rw [← hd1, hfill]
    exact pumpIn_no_lines hnone

/-! ### RING_BUFFER_FULL and RING_BUFFER_RELEASE (R163 to R165, R171, R178) -/

theorem effBufferFull_whole {d : Die} {c : CoreId} {ring : BitVec 3} {r : Ring} {b : Nat} (hr : getRing (getCore d c) ring.toNat = r)
    (hold : oldestWhole r = some b) : effBufferFull c ring d = pumpOut 4 (pumpCaravan 4 (deliverTile
      (modCore (waitUntil d (getInfo r b).due) c (fun y => putRing y ring.toNat (putBuf r b 2))) c (getInfo r b).wb (getInfo r b).tile) c
      ring.toNat) c ring.toNat := by
  subst hr
  unfold effBufferFull
  simp only [hold]

theorem deliverTile_none {k : Nat} (d : Die) (c : CoreId) (tile : Nat) (h : 8 ≤ k) : deliverTile d c k tile = d := by
  unfold deliverTile
  exact if_pos (by simp [h])

/-- A tile is counted to the waybill that brought it, which is DONE with its last (R170). -/
theorem deliverTile_counts {d : Die} {c : CoreId} {k : Nat} {w : Waybill} (tile : Nat) (hw : getWb (getCore d c) k = w) (hk : k < 8)
    (hst : wbSt w = 3 ∨ wbSt w = 4) (hstamp : wbStamp w = false) : ∃ st, (st = w.state ∨ st = 5) ∧
      ((w.doneTiles + 1).toNat = wbTiles w → wbSt w = 4 → st = 5) ∧ (deliverTile d c k tile).mem = d.mem ∧
      getCore (deliverTile d c k tile) c = putWb (getCore d c) k { w with doneTiles := w.doneTiles + 1, state := st } := by
  subst hw
  have hlive : ¬ (8 ≤ k || (wbSt (getWb (getCore d c) k) ≠ 3 && wbSt (getWb (getCore d c) k) ≠ 4)) = true := by
    simpa [hk, or_iff_not_imp_left] using hst
  unfold deliverTile
  dsimp only
  rw [if_neg hlive, hstamp]
  generalize hlast : (decide (((getWb (getCore d c) k).doneTiles + 1).toNat = wbTiles (getWb (getCore d c) k)) &&
    (wbSt (getWb (getCore d c) k) == 4 || (getWb (getCore d c) k).origin == .own)) = last
  cases last with
  | true => exact ⟨5, .inr rfl, fun _ _ => rfl, rfl, getCore_setCore d c _⟩
  | false =>
    refine ⟨_, .inl rfl, fun hdone h4 => ?_, rfl, getCore_setCore d c _⟩
    rw [decide_eq_true hdone, h4] at hlast
    simp at hlast

/-- A tile counted makes no waybill one that empties a ring. -/
theorem outWaybill_counted {y : Core} {n k : Nat} (done : BitVec 24) {st : BitVec 3} (h : outWaybill y n = none)
    (hst : st = (getWb y k).state ∨ st = 5) : outWaybill (putWb y k { getWb y k with doneTiles := done, state := st }) n = none := by
  unfold outWaybill at h ⊢
  rw [List.find?_eq_none] at h ⊢
  intro i hi
  by_cases hk : i = k
  · subst hk
    rw [getWb_putWb]
    obtain rfl | rfl := hst
    · exact h i hi
    · simp [wbSt]
  · rw [getWb_putWb_ne _ _ hk]
    exact h i hi

/-- A core in which a ring has moved, after time has passed. -/
theorem getCore_ringTurned (d : Die) (c : CoreId) (n : Nat) (r : Ring) (due : Nat) :
    getCore (modCore (waitUntil d due) c (fun y => putRing y n r)) c = putRing (passTime (max d.aclk due) (getCore d c)) n r := by
  rw [getCore_modCore, getCore_waitUntil]

theorem caravanOn_ringTurned {x : Core} {n : Nat} (now : Nat) (r : Ring) (h : caravanOn x n = none) :
    caravanOn (putRing (passTime now x) n r) n = none := (caravanOn_passTime now x n).trans h

theorem outWaybill_ringTurned {x : Core} {n : Nat} (now : Nat) (r : Ring) (h : outWaybill x n = none) :
    outWaybill (putRing (passTime now x) n r) n = none := (outWaybill_passTime now x n).trans h

/-- The FULL buffer's tile is counted to the waybill that brought it, off a caravan and with nothing that empties the ring. -/
theorem effBufferFull_counts {d : Die} {c : CoreId} {ring : BitVec 3} {r : Ring} {b : Nat} {w : Waybill}
    (hr : getRing (getCore d c) ring.toNat = r) (hold : oldestWhole r = some b) (hout : outWaybill (getCore d c) ring.toNat = none)
    (hoff : caravanOn (getCore d c) ring.toNat = none) (hw : getWb (getCore d c) (getInfo r b).wb = w) (hk : (getInfo r b).wb < 8)
    (hst : wbSt w = 3 ∨ wbSt w = 4) (hstamp : wbStamp w = false) :
    let u := effBufferFull c ring d
    u.mem = d.mem ∧ getRing (getCore u c) ring.toNat = putBuf r b 2 ∧
      (getWb (getCore u c) (getInfo r b).wb).doneTiles = w.doneTiles + 1 ∧
      ((w.doneTiles + 1).toNat = wbTiles w → wbSt w = 4 → wbSt (getWb (getCore u c) (getInfo r b).wb) = 5) := by
  generalize hi : getInfo r b = i at *
  obtain ⟨y, hy⟩ : ∃ y, y = putRing (passTime (max d.aclk i.due) (getCore d c)) ring.toNat (putBuf r b 2) := ⟨_, rfl⟩
  obtain ⟨d1, hd1⟩ : ∃ d1, d1 = modCore (waitUntil d i.due) c (fun y => putRing y ring.toNat (putBuf r b 2)) := ⟨_, rfl⟩
  have hcore : getCore d1 c = y := by rw [hd1, getCore_ringTurned, hy]
  have hyw : getWb y i.wb = w := by
    rw [hy]
    exact (getWb_passTime _ _ _).trans hw
  have hyout : outWaybill y ring.toNat = none := hy ▸ outWaybill_ringTurned _ _ hout
  have hyoff : caravanOn y ring.toNat = none := hy ▸ caravanOn_ringTurned _ _ hoff
  obtain ⟨st, hkept, hdone, hmem, hcounted⟩ := deliverTile_counts (d := d1) (c := c) i.tile (hcore ▸ hyw) hk hst hstamp
  obtain ⟨z, hz⟩ : ∃ z, z = putWb y i.wb { w with doneTiles := w.doneTiles + 1, state := st } := ⟨_, rfl⟩
  rw [hcore, ← hz] at hcounted
  have hzout : outWaybill z ring.toNat = none := by
    subst hyw
    exact hz ▸ outWaybill_counted _ hyout hkept
  have hzoff : caravanOn z ring.toNat = none := by
    rw [hz]
    exact hyoff
  have hu : effBufferFull c ring d = deliverTile d1 c i.wb i.tile := by
    rw [effBufferFull_whole hr hold, hi, ← hd1, pumpCaravan_off 4 (hcounted ▸ hzoff)]
    exact pumpOut_still 4 (.inl (hcounted ▸ hzout))
  have hring : getRing z ring.toNat = putBuf r b 2 := by
    rw [hz, hy]
    exact getRing_putRing _ _ _
  have hwb : getWb z i.wb = { w with doneTiles := w.doneTiles + 1, state := st } := hz ▸ getWb_putWb _ _ _
  dsimp only
  rw [hu, hcounted, hwb]
  exact ⟨hmem.trans (hd1 ▸ rfl), hring, rfl, fun hlast h4 => congrArg BitVec.toNat (hdone hlast h4)⟩

/-- A buffer its consumer has read is EMPTY, and a credit goes back upstream. -/
theorem effBufferRelease_read {d : Die} {c : CoreId} {ring : BitVec 3} {r : Ring} {b : Nat} (hr : getRing (getCore d c) ring.toNat = r)
    (hold : oldest r 3 = some b) (hcons : ringCons r ≠ 3) (hkept : mustForward (getCore d c) r ring.toNat b = false) :
    effBufferRelease c ring d = match upstreamOf (getCore d c) ring.toNat with
      | some (k, id, die, core, rg) => send (modCore (waitUntil d (getInfo r b).due) c
          (fun y => putRing y ring.toNat (putInfo (putBuf r b 0) b BufInfo.reset))) (.streamCredit k id die core rg)
      | none => modCore (waitUntil d (getInfo r b).due) c (fun y => putRing y ring.toNat (putInfo (putBuf r b 0) b BufInfo.reset)) := by
  subst hr
  have hcons' : (ringCons (getRing (getCore d c) ring.toNat) == 3) = false := by simpa using hcons
  unfold effBufferRelease
  simp only [hcons', Bool.false_eq_true, if_false, hold, hkept] <;> rfl

/-! ### OUTBOUND_WRITE_ACK (R174) -/

/-- A waybill without stamps whose tiles are settled: memory, and its core's writes, stay. -/
theorem settleOut_spec {d : Die} {c : CoreId} {k : Nat} (hstamp : wbStamp (getWb (getCore d c) k) = false) :
    let u := settleOut c k d
    u.mem = d.mem ∧ u.pkg = d.pkg ∧ (getCore u c).writes = (getCore d c).writes ∧ (getCore u c).wqueued = (getCore d c).wqueued := by
  unfold settleOut
  dsimp only
  rw [hstamp]
  split
  · exact ⟨rfl, rfl, rfl, rfl⟩
  · simp only [Bool.false_eq_true, if_false]
    generalize hd1 : modCore d c _ = d1
    have hmoved : d1.mem = d.mem ∧ d1.pkg = d.pkg ∧ (getCore d1 c).writes = (getCore d c).writes ∧
        (getCore d1 c).wqueued = (getCore d c).wqueued := by
      subst hd1
      refine ⟨rfl, rfl, ?_, ?_⟩ <;> rw [getCore_modCore] <;> rfl
    exact iteInduction (motive := fun u : Die => u.mem = d.mem ∧ u.pkg = d.pkg ∧ (getCore u c).writes = (getCore d c).writes ∧
      (getCore u c).wqueued = (getCore d c).wqueued) (fun _ => hmoved) (fun _ => hmoved)

/-- A core in which one line of an outbound tile has been acknowledged. -/
def lineAcked (x : Core) (l : LineWrite) : Core :=
  let w := getWb x l.wb.toNat
  let w1 := { w with outTiles := w.outTiles.map (fun o => if o.tile = l.tile then { o with left := o.left - 1 } else o) }
  setThread (putWb x l.wb.toNat w1) w.thread { getThread x w.thread with unacked := (getThread x w.thread).unacked - 1 }

theorem lineAcked_writes (x : Core) (l : LineWrite) : (lineAcked x l).writes = x.writes := by
  rw [lineAcked, setThread_frame]
  rfl

theorem lineAcked_wqueued (x : Core) (l : LineWrite) : (lineAcked x l).wqueued = x.wqueued := by
  rw [lineAcked, setThread_frame]
  rfl

theorem getWb_setThread (x : Core) (t : Bool) (th : Thread) (n : Nat) : getWb (setThread x t th) n = getWb x n := by
  cases t <;> rfl

theorem lineAcked_stamp (x : Core) (l : LineWrite) : wbStamp (getWb (lineAcked x l) l.wb.toNat) = wbStamp (getWb x l.wb.toNat) := by
  rw [lineAcked, getWb_setThread, getWb_putWb]
  rfl

/-- A write outside the die acknowledged with status 0: its bytes are at their address. -/
theorem finishWrite_acknowledged {d : Die} {c : CoreId} {l : LineWrite} (hfar : l.onDie = false) (haddr : l.addr < 0xC000000000)
    (hstamp : wbStamp (getWb (getCore d c) l.wb.toNat) = false) :
    let u := finishWrite d c l 0
    u.mem = d.mem ∧ u.pkg = memWrite d.pkg (l.addr + l.lo) l.bytes ∧ (getCore u c).writes = (getCore d c).writes ∧
      (getCore u c).wqueued = (getCore d c).wqueued := by
  obtain ⟨d2, hd2⟩ : ∃ d2 : Die, d2 = { setCore d c (lineAcked (getCore d c) l) with
    pkg := memWrite d.pkg (l.addr + l.lo) l.bytes } := ⟨_, rfl⟩
  have hcore : getCore d2 c = lineAcked (getCore d c) l := hd2 ▸ getCore_setCore d c _
  have hfinish : finishWrite d c l 0 = settleOut c l.wb.toNat d2 := by
    unfold finishWrite
    simp only [if_true, hfar, haddr, Bool.false_eq_true, if_false, hd2]
    rfl
  obtain ⟨hmem, hpkg, hwrites, hqueued⟩ := settleOut_spec (d := d2) (c := c) (k := l.wb.toNat) (by rw [hcore, lineAcked_stamp, hstamp])
  rw [hcore, lineAcked_writes] at hwrites
  rw [hcore, lineAcked_wqueued] at hqueued
  rw [hfinish]
  exact ⟨hmem.trans (hd2 ▸ rfl), hpkg.trans (hd2 ▸ rfl), hwrites, hqueued⟩

theorem effWriteAck_acknowledged {d : Die} {c : CoreId} {n : Nat} {l : LineWrite} (hget : (getCore d c).writes[n]? = some l)
    (hfirst : ((getCore d c).writes.take n).any (fun y => y.addr == l.addr && y.onDie == l.onDie) = false) (hfar : l.onDie = false)
    (hrsp : l.rsp = some 0) (haddr : l.addr < 0xC000000000) (hqueued : (getCore d c).wqueued = [])
    (hstamp : wbStamp (getWb (getCore d c) l.wb.toNat) = false) : ∃ e : Die, e.mem = d.mem ∧
      e.pkg = memWrite d.pkg (l.addr + l.lo) l.bytes ∧ (getCore e c).writes = (getCore d c).writes.eraseIdx n ∧
      effWriteAck c n d = settleFetched c e := by
  obtain ⟨d1, hd1⟩ : ∃ d1, d1 = modCore (cons d 3 2 2) c (fun x => { x with writes := x.writes.eraseIdx n }) := ⟨_, rfl⟩
  have hcore : getCore d1 c = { getCore d c with writes := (getCore d c).writes.eraseIdx n } := hd1 ▸ getCore_modCore _ _ _
  have hstamp1 : wbStamp (getWb (getCore d1 c) l.wb.toNat) = false := by
    rw [hcore]
    exact hstamp
  obtain ⟨hmem, hpkg, hwrites, hwqueued⟩ := finishWrite_acknowledged hfar haddr hstamp1
  rw [hcore] at hwrites hwqueued
  refine ⟨finishWrite d1 c l 0, hmem.trans (hd1 ▸ rfl), hpkg.trans (hd1 ▸ rfl), hwrites, ?_⟩
  have hnone : (getCore (finishWrite d1 c l 0) c).wqueued = [] := hwqueued.trans hqueued
  rw [hfar] at hfirst
  unfold effWriteAck
  simp only [hget, hfirst, hfar, hrsp, Option.isNone_some, Bool.false_and, Bool.or_self, Bool.false_eq_true, if_false]
  rw [← hd1, hnone]
  rfl

/-! ### Stalls (R108, R180, R184) -/

theorem fld_faultWord_detail (scope : Nat) (who : Option Bool) (pc code detail : Nat) :
    fld (faultWord scope who pc code detail) 0 32 = detail % 2 ^ 32 := by
  rw [faultWord, fld_putFld_same _ _ (by omega)]

/-- The detail a fault leaves in CORE_FAULT when none was recorded (R160). -/
theorem raiseFault_detail {d : Die} {c : CoreId} (t : Bool) (code : Nat) {detail : Nat} (pc : Nat) (hdetail : detail < 2 ^ 32)
    (hnone : bitB (getCore d c).fault 63 = false) : fld (getCore (raiseFault d c (some t) code detail pc) c).fault 0 32 = detail := by
  obtain ⟨scope, y, hp, hcore, -, -⟩ := raiseFault_spec d c t code detail pc
  rw [hcore, hp.fault, setThread_frame]
  simp only [noteFault, hnone, Bool.false_eq_true, if_false, fld_faultWord_detail]
  exact Nat.mod_eq_of_lt hdetail

/-- A stall count past the limit: the thread faults with the code and the place, in the cycle in which the count passes; memory stays. -/
theorem stallFault_spec (d : Die) (c : CoreId) (t : Bool) (count : Nat) {code detail : Nat} (hcode : code < 2 ^ 8)
    (hdetail : detail < 2 ^ 32) :
    let x := getCore d c
    let u := stallFault d c t count code detail
    (threadAt u c t).run = .faulted ∧ u.mem = d.mem ∧ u.aclk = d.aclk + (stallLimit x t + 1 - count) ∧
      (bitB x.fault 63 = false → fld (getCore u c).fault 40 8 = code ∧ fld (getCore u c).fault 0 32 = detail) := by
  intro x u
  have hfault : (getCore (waitUntil d (d.aclk + (stallLimit x t + 1 - count))) c).fault = x.fault := by
    rw [getCore_waitUntil, passTime_fault]
  refine ⟨raiseFault_run _ _ _ _ _ _, raiseFault_mem _ _ _ _ _ _, ?_, fun hnone => ?_⟩
  · exact (raiseFault_aclk _ _ _ _ _ _).trans (Nat.max_eq_right (Nat.le_add_right _ _))
  · exact ⟨raiseFault_code _ _ _ hcode (hfault ▸ hnone), raiseFault_detail _ _ _ hdetail (hfault ▸ hnone)⟩

theorem place_lt (d : Die) (c : CoreId) : c.toNat + 512 * d.ident.dieNum.toNat < 2 ^ 32 := by
  have := c.isLt
  have := d.ident.dieNum.isLt
  omega

theorem effCaravanStall_blocking {d : Die} {c : CoreId} {ring : BitVec 3} {m : Member}
    (hfind : (getCore d c).members.find? (fun m => m.kind == .caravan && m.ring == ring && m.up.isSome) = some m)
    (hwith : withholds (getCore d c) m = true) (hwant : wanted d m true = true) :
    effCaravanStall c ring d = stallFault d c (ringThread (getCore d c) ring.toNat) m.blocking cfCaravanStall (place d c) := by
  unfold effCaravanStall
  simp only [hfind, hwith, hwant, Bool.and_self, if_true]

theorem effRelayStall_waiting {d : Die} {c : CoreId} {ring : BitVec 3} {m : Member} (found : CoreId) (die : BitVec 2)
    (hfind : (getCore d c).members.find? (fun m => m.kind == .relay && m.ring == ring && (m.up.isSome || m.down.isSome)) = some m)
    (hwait : waitsOnLink (getCore d c) m = true) :
    let p := followWaits d m.itin 4096 (d.ident.dieNum, c)
    effRelayStall c ring found die d = stallFault d c (ringThread (getCore d c) ring.toNat) (getRing (getCore d c) ring.toNat).waitCount
      cfRelayStall (if p.1 = d.ident.dieNum then p.2.toNat + 512 * p.1.toNat else found.toNat + 512 * die.toNat) := by
  unfold effRelayStall
  simp only [hfind, hwait, if_true]

theorem effChainStall_withholding {d : Die} {c : CoreId} {id : BitVec 12} {m : Member}
    (hfind : (getCore d c).members.find? (fun m => m.kind == .chain && m.id == id && m.up.isSome) = some m) (hin : m.incoming ≠ []) :
    effChainStall c id d = stallFault d c m.thread m.blocking cfChainStall (place d c) := by
  have hkept : m.incoming.isEmpty = false := by simpa using hin
  unfold effChainStall
  simp only [hfind, hkept, Bool.false_eq_true, if_false]

/-- Settles O15: each event by what it brings to its waybill, ring, write or thread. -/
theorem inboundTilesTurnRings : Obligations.InboundTilesTurnRings := by
  unfold Obligations.InboundTilesTurnRings
  refine ⟨fun s c wb n l => ?tiles, fun s c ring n l => ?buffers, fun s c ring m => ?stalls⟩
  case tiles =>
    extract_lets x b r own off runs goes
    refine ⟨fun hst hpair hkind hoff hrej hhead => ?start, fun hgo hown hfull => ?waits, fun hgo hown hroom => ?asks,
      fun hgo hown hsound => ?copies, fun hget hwb hfar hrsp hst hoff hqueued => ?fills⟩
    case start => exact onDie_eq (effWbnextStart_package rfl hst hpair hkind hoff hrej hhead)
    case waits => exact onDie_eq (effTileRequest_waits rfl rfl hgo hown hfull)
    case asks =>
      have hexec := effTileRequest_asks (d := s.die) (c := c) rfl rfl hgo hown hroom
      generalize tileLines _ _ _ _ = lines at hexec
      obtain ⟨hmem, hrings, hissued⟩ := pumpIn_spec (setCore (waitUntil s.die b.first) c
        (tileAsked (getCore (waitUntil s.die b.first) c) wb.toNat b r lines)) c
      rw [getCore_setCore] at hrings hissued
      have hring := (congrArg (tabGet Ring.reset · (wbRing b)) hrings).trans (tileAsked_ring _ wb.toNat b r lines)
      refine ⟨_, onDie_eq hexec, hmem, (hissued _).trans (tileAsked_issued _ _ _ _ _), ?_, ?_⟩
      · exact (congrArg (bufState · r.tail.toNat) hring).trans (bufState_startTail _ _)
      · exact congrArg Ring.tail hring
    case copies =>
      have hexec := effTileRequest_copies (d := s.die) (c := c) rfl rfl hgo hown hsound
      dsimp only at hexec
      generalize tileInfo _ _ _ _ _ = i at hexec
      obtain ⟨d1, hd1⟩ : ∃ d1, d1 = setCore (waitUntil s.die b.first) c
        (tileStarted (getCore (waitUntil s.die b.first) c) wb.toNat b r i) := ⟨_, rfl⟩
      have hcore : getCore d1 c = tileStarted (passTime (max s.die.aclk b.first) x) wb.toNat b r i := by
        rw [hd1, getCore_setCore, getCore_waitUntil]
      have hoff : caravanOn (getCore d1 c) (wbRing b) = none := by
        rw [hcore, tileStarted_caravan, caravanOn_passTime]
        exact TileGoes.off_caravan hgo
      have hmem : d1.mem = s.die.mem := hd1 ▸ rfl
      obtain ⟨hcopied, hissued⟩ := copies_settled (bufBase r r.tail.toNat) off s.die.mem runs hoff hmem
      rw [hcore, hd1] at hissued
      rw [hd1] at hcopied
      exact ⟨_, onDie_eq hexec, (hissued _).trans (tileStarted_issued _ _ _ _ _), hcopied⟩
    case fills =>
      subst hwb
      obtain ⟨v, hv⟩ := hrsp
      obtain ⟨e, hmem, hpkg, hlines, hfill⟩ := effLineFill_response hget hfar hv hst hoff hqueued
      obtain ⟨y, hsettle, hy, -⟩ := settleFetched_spec c (putStore e c l.dest (leBytes l.len (v.toNat / 2 ^ (8 * l.lo))))
      have hwritten : (putStore e c l.dest (leBytes l.len (v.toNat / 2 ^ (8 * l.lo)))).mem =
          memWrite s.die.mem (storeBase c + l.dest) (leBytes l.len (v.toNat / 2 ^ (8 * l.lo))) := by
        rw [putStore, hmem]
      refine ⟨_, onDie_eq (hfill.trans hsettle), ?_, fun v' hv' => ?_, ?_, hpkg⟩
      · rw [getCore_setCore, hy]
        exact hlines
      · obtain rfl : v = v' := by simpa using hv.symm.trans hv'
        exact hwritten
      · exact hwritten ▸ elseSame_leBytes _ _ _ _
  case buffers =>
    extract_lets x r
    refine ⟨fun b hold hwb hout hoff => ?full, fun b hold hout hoff => ?counted, fun b hold hcons hkept => ?released,
      fun hget hfirst hfar hrsp haddr hqueued hstamp => ?acknowledged⟩
    case full =>
      have hcore := getCore_ringTurned s.die c ring.toNat (putBuf r b 2) (getInfo r b).due
      refine onDie_eq ((effBufferFull_whole rfl hold).trans ?_)
      rw [deliverTile_none _ _ _ hwb, pumpCaravan_off 4 (hcore ▸ caravanOn_ringTurned _ _ hoff)]
      exact pumpOut_still 4 (.inl (hcore ▸ outWaybill_ringTurned _ _ hout))
    case counted =>
      intro w hwb hst hstamp
      obtain ⟨hmem, hring, hdone, hlast⟩ := effBufferFull_counts rfl hold hout hoff rfl hwb hst hstamp
      refine ⟨_, onDie_eq rfl, ?_, hmem, hdone, hlast⟩
      rw [hring, bufState_putBuf _ _ (by decide)]
    case released => exact onDie_eq (effBufferRelease_read rfl hold hcons hkept)
    case acknowledged =>
      obtain ⟨e, hmem, hpkg, hwrites, hack⟩ := effWriteAck_acknowledged hget hfirst hfar hrsp haddr hqueued hstamp
      obtain ⟨y, hsettle, hy, -⟩ := settleFetched_spec c e
      refine ⟨_, onDie_eq (hack.trans hsettle), ?_, hmem, hpkg, ?_⟩
      · rw [getCore_setCore, hy]
        exact hwrites
      · exact hpkg ▸ elseSame_memWrite _ _ _
  case stalls =>
    extract_lets x here stalls
    refine ⟨fun hfind hwith hwant => ?caravan, fun found die hfind hwait => ?relay, fun id hfind hin => ?chain⟩
    case caravan =>
      exact ⟨_, onDie_eq (effCaravanStall_blocking hfind hwith hwant), stallFault_spec _ _ _ _ (by decide) (place_lt _ _)⟩
    case relay =>
      refine ⟨_, onDie_eq (effRelayStall_waiting found die hfind hwait), stallFault_spec _ _ _ _ (by decide) ?_⟩
      have := (followWaits s.die m.itin 4096 (s.die.ident.dieNum, c)).1.isLt
      have := (followWaits s.die m.itin 4096 (s.die.ident.dieNum, c)).2.isLt
      have := found.isLt
      have := die.isLt
      split <;> omega
    case chain =>
      exact ⟨_, onDie_eq (effChainStall_withholding hfind hin), stallFault_spec _ _ _ _ (by decide) (place_lt _ _)⟩

end Sys2Proof.Machine
end

section
/-! PROOF. Words that dispatch: the fields of a word, its guard, the queue it goes to, and the record of a fault (R131 to R134, R138, R160). -/

namespace Sys2Proof.Machine

/-! ### The fields of a word (R138) -/

/-- The 58 bits of a word below its opcode. -/
theorem setWidth_mkWord (op : Nat) (w : BitVec 58) : (mkWord op w).setWidth 58 = w := by
  refine BitVec.eq_of_toNat_eq ?_
  have := w.isLt
  rw [BitVec.toNat_setWidth, mkWord, BitVec.toNat_ofNat]
  omega

theorem fld_mkWord (op : Nat) (w : BitVec 58) {lo n : Nat} (h : lo + n ≤ 58) : fld (mkWord op w) lo n = w.toNat / 2 ^ lo % 2 ^ n := by
  rw [← fld_setWidth _ h, setWidth_mkWord, fld, BitVec.extractLsb'_toNat, Nat.shiftRight_eq_div_pow]

/-! ### A word the thread has fetched -/

theorem fetches_iff {x : Core} {th : Thread} :
    fetches x th = true ↔ canDispatch th = true ∧ th.pc ≤ 4095 ∧ x.pmemBad.contains th.pc = false := by
  simp only [fetches, Bool.and_eq_true, decide_eq_true_eq, Bool.not_eq_true', and_assoc]

theorem wait_of_canDispatch {th : Thread} (h : canDispatch th = true) : th.wait = .none := by
  simp only [canDispatch, Bool.and_eq_true, beq_iff_eq] at h
  exact h.1.2

section Word

variable {d : Die} {c : CoreId} {t : Bool} {op : Nat} {w : BitVec 58}

theorem ready_fetches (h : ready d c t op w = true) : fetches (getCore d c) (threadAt d c t) = true := by
  simp only [ready, Bool.and_eq_true] at h
  obtain ⟨⟨⟨⟨⟨⟨hdispatch, hpc⟩, hgood⟩, -⟩, -⟩, -⟩, -⟩ := h
  exact Bool.and_eq_true_iff.mpr ⟨Bool.and_eq_true_iff.mpr ⟨hdispatch, hpc⟩, hgood⟩

theorem ready_wait (h : ready d c t op w = true) : (threadAt d c t).wait = .none :=
  wait_of_canDispatch (fetches_iff.mp (ready_fetches h)).1

theorem ready_pc (h : ready d c t op w = true) : (threadAt d c t).pc ≤ 4095 := (fetches_iff.mp (ready_fetches h)).2.1

theorem guardedOut_of_fetches (hf : fetches (getCore d c) (threadAt d c t) = true)
    (hword : tabGet 0 (getCore d c).pmem (threadAt d c t).pc = mkWord op w)
    (hguard : guardHolds (threadAt d c t).preds (mkWord op w) = false) : guardedOut d c t op w = true := by
  obtain ⟨hdispatch, hpc, hgood⟩ := fetches_iff.mp hf
  simp only [guardedOut, hdispatch, hpc, hgood, hword, hguard, decide_true, Bool.not_false, Bool.and_self]

/-! ### Rows whose meaning is a dispatch in more than one form -/

/-- A HALT of a thread that does not wait in one is dispatched. -/
theorem effHalt_dispatches (h : (threadAt d c t).wait = .none) : ∃ body, effHalt c t w d = dispatch c t 0x01 w body d := by
  unfold effHalt
  dsimp only
  rw [h]
  exact ⟨_, rfl⟩

theorem effSplit_dispatches (h : (threadAt d c t).wait = .none) : ∃ body, effSplit c t w d = dispatch c t 0x26 w body d := by
  unfold effSplit
  dsimp only
  rw [h]
  exact ⟨_, rfl⟩

theorem effLdgrd_dispatches (c : CoreId) (t : Bool) (w : BitVec 58) : ∃ body, effLdgrd c t w = dispatch c t 0x38 w body := by
  unfold effLdgrd
  split
  exacts [⟨_, rfl⟩, ⟨_, rfl⟩]

theorem effBerth_dispatches (c : CoreId) (t : Bool) (w : BitVec 58) : ∃ body, effBerth c t w = dispatch c t 0x3A w body := by
  unfold effBerth
  split
  · exact ⟨_, rfl⟩
  · split
    exacts [⟨_, rfl⟩, ⟨_, rfl⟩]

theorem effLdgrd_copy (h : ldgrdForm true w = true) : effLdgrd c t w = dispatch c t 0x38 w (enqueue .ldg c t id issueCopy) := if_pos h

theorem effLdgrd_stream (h : ldgrdForm false w = true) : effLdgrd c t w = dispatch c t 0x38 w (bodyStream c t) := by
  refine if_neg ?_
  unfold ldgrdForm at h ⊢
  simp only [beq_iff_eq] at h ⊢
  rw [h]
  decide

theorem effBerth_lookup (h : berthForm 0 w = true) : effBerth c t w =
    dispatch c t 0x3A w (enqueue .msg c t (owe (w.toNat / 2 ^ 38 % 64) .berth) issueLookup) := if_pos h

theorem effBerth_touch (h : berthForm 1 w = true) : effBerth c t w = dispatch c t 0x3A w (enqueue .msg c t id issueTouch) := by
  have h0 : ¬ berthForm 0 w = true := by
    simp only [berthForm, beq_iff_eq] at h ⊢
    omega
  rw [effBerth, if_neg h0, if_pos h]

/-! ### A word that waits, and one that is held (R133, R134) -/

variable {q : QueueId} {prep : Thread → Thread} {f : IssueFn}

theorem dispatch_enqueue_waits (h : ready d c t op w = true) (hroom : queueRoom d c t q = true) :
    dispatch c t op w (enqueue q c t prep f) d = behind q c t prep d (wordEntry d c t op w) :=
  (dispatch_ready _ h).trans (enqueue_waits hroom)

theorem dispatch_enqueue_held (h : ready d c t op w = true) (hfull : queueDepth q ≤ (getQueue (threadAt d c t) q).length) :
    dispatch c t op w (enqueue q c t prep f) d = d :=
  (dispatch_ready _ h).trans (if_pos hfull)

/-- A word whose Lodge bytes lie in the slice goes to its queue like any other (R154). -/
theorem dispatch_lodgeBody_fits (h : ready d c t op w = true)
    (hfits : (threadAt d c t).streamPtr.toNat + lodgeTake (getCore d c).split (mkWord op w) ≤ sliceSize) :
    dispatch c t op w (lodgeBody q f c t prep) d =
      dispatch c t op w (enqueue q c t (fun th => prep (lodgePrep d c op w th)) f) d := by
  have hin : ¬ (sliceSize < (wordEntry d c t op w).stream + lodgeTake (getCore d c).split (wordEntry d c t op w).word &&
      lodgeTake (getCore d c).split (wordEntry d c t op w).word ≠ 0) = true := by
    simp only [Bool.and_eq_true, decide_eq_true_eq, not_and]
    exact fun hout => absurd hfits (Nat.not_le.mpr hout)
  rw [dispatch_ready _ h, dispatch_ready _ h, lodgeBody, if_neg hin]
  rfl

/-- The head of a queue is given to its unit. -/
theorem issueHead_issues {e : QEntry} {rest : List QEntry} {d' : Die} (hq : getQueue (threadAt d c t) q = e :: rest)
    (hf : f (modThread d c t (fun th => putQueue th q rest)) c t e = some d') : issueHead f c t q d = d' := by
  rw [issueHead, hq]
  dsimp only
  rw [hf]

/-- It stays while a hold stands. -/
theorem issueHead_held {e : QEntry} {rest : List QEntry} (hq : getQueue (threadAt d c t) q = e :: rest)
    (hf : f (modThread d c t (fun th => putQueue th q rest)) c t e = none) : issueHead f c t q d = d := by
  rw [issueHead, hq]
  dsimp only
  rw [hf]

theorem issueHead_nil (hq : getQueue (threadAt d c t) q = []) : issueHead f c t q d = d := by
  rw [issueHead, hq]

end Word

/-! ### CORE_FAULT (R160) -/

theorem sendPeer_tally (d : Die) (p : BitVec 2) (m : PeerMsg) : (sendPeer d p m).tally = d.tally := by unfold sendPeer; split <;> rfl

theorem raiseFault_tally (d : Die) (c : CoreId) (t : Bool) (code detail pc : Nat) :
    (raiseFault d c (some t) code detail pc).tally = d.tally := by
  unfold raiseFault
  dsimp only [List.foldl_cons, List.foldl_nil, drew, logFault]
  split
  · split
    · rfl
    · exact sendPeer_tally _ _ _
  · rfl

/-- A faulted thread: stopped where it was. -/
theorem threadAt_raiseFault (d : Die) (c : CoreId) (t : Bool) (code detail pc : Nat) :
    threadAt (raiseFault d c (some t) code detail pc) c t = stopThread .faulted (threadAt d c t) := by
  obtain ⟨scope, y, hp, hcore, -, -⟩ := raiseFault_spec d c t code detail pc
  have hthread : getThread (noteFault (getCore d c) (faultWord scope (some t) pc code detail)) t = threadAt d c t := by
    unfold noteFault
    split
    exacts [rfl, by cases t <;> rfl]
  rw [threadAt, hcore, hp.getThread, getThread_setThread, hthread]

/-- The fault recorded is the first. -/
theorem raiseFault_fault (d : Die) (c : CoreId) (t : Bool) (code detail pc : Nat) : ∃ scope,
    (getCore (raiseFault d c (some t) code detail pc) c).fault =
      if bitB (getCore d c).fault 63 then (getCore d c).fault else faultWord scope (some t) pc code detail := by
  obtain ⟨scope, y, hp, hcore, -, -⟩ := raiseFault_spec d c t code detail pc
  refine ⟨scope, ?_⟩
  rw [hcore, hp.fault, setThread_frame]
  unfold noteFault
  split <;> rfl

/-- The fields of CORE_FAULT: valid, the thread, the place. -/
theorem faultWord_place (scope : Nat) (t : Bool) {pc : Nat} (code detail : Nat) (hpc : pc ≤ 4095) :
    bitB (faultWord scope (some t) pc code detail) 63 = true ∧ bitB (faultWord scope (some t) pc code detail) 62 = t ∧
    fld (faultWord scope (some t) pc code detail) 48 12 = pc := by
  refine ⟨?_, ?_, ?_⟩
  · simp only [faultWord, bitB, getLsbD_putFld, Nat.reduceLT]
    rfl
  · simp only [faultWord, bitB, getLsbD_putFld, Nat.reduceLT]
    cases t <;> rfl
  · rw [faultWord, fld_putFld_apart _ _ (by omega) (by omega), fld_putFld_apart _ _ (by omega) (by omega),
      fld_putFld_same _ _ (by omega)]
    omega

/-! ### QUEUE_ISSUE (R133, R138) -/

theorem effQueueIssue_sequencer (c : CoreId) (t : Bool) (d : Die) : effQueueIssue c t .sequencer d = rejectWord c t d := by
  unfold effQueueIssue
  exact if_pos rfl

theorem effQueueIssue_unit {c : CoreId} {t : Bool} {q : QueueId} {d : Die} (hq : q ≠ .sequencer)
    (hrun : (threadAt d c t).run ≠ .faulted ∧ (threadAt d c t).run ≠ .stopped) : effQueueIssue c t q d = issueHead issueAny c t q d := by
  unfold effQueueIssue
  exact (if_neg hq).trans (if_neg (not_or.mpr hrun))

/-- Where the queue is empty no unit has anything to take. -/
theorem effQueueIssue_nil {c : CoreId} {t : Bool} {q : QueueId} {d : Die} (hq : q ≠ .sequencer) (hnil : getQueue (threadAt d c t) q = []) :
    effQueueIssue c t q d = d := by
  unfold effQueueIssue
  rw [if_neg hq]
  split
  exacts [rfl, issueHead_nil hnil]

/-- The sequencer rejects an opcode not in R138, whatever the guard (R132). -/
theorem queueIssue_unknown {s : State} {c : CoreId} {t : Bool} (hf : fetches (getCore s.die c) (threadAt s.die c t) = true)
    (hop : opcodeKnown (fld (tabGet 0 (getCore s.die c).pmem (threadAt s.die c t).pc) 58 6) = false) :
    ∃ u : Die, exec (.queueIssue c t .sequencer) s = .next (s.withDie u) ∧ (threadAt u c t).run = .faulted ∧
      (threadAt u c t).pc = (threadAt s.die c t).pc ∧
      (bitB (getCore s.die c).fault 63 = false → fld (getCore u c).fault 40 8 = 0x01) ∧ u.mem = s.die.mem := by
  have hreject : rejectWord c t s.die = raiseFault s.die c (some t) cfIllegalOpcode 0 (threadAt s.die c t).pc := by
    simp only [rejectWord, wordReserved, hop, hf, Bool.not_false, Bool.true_or, Bool.not_true, Bool.false_eq_true, Bool.and_self, if_false,
      if_true]
  refine ⟨_, onDie_eq ((effQueueIssue_sequencer c t s.die).trans hreject), raiseFault_run _ _ _ _ _ _, ?_, fun hnone => raiseFault_code t _ _ (by decide) hnone,
    raiseFault_mem _ _ _ _ _ _⟩
  rw [threadAt_raiseFault, stopThread]

end Sys2Proof.Machine
end

section
/-! PROOF. O1, O2, O3, O5, O6: the words the sequencer carries out, and the queues (R130 to R140, R154, R157, R160). -/

namespace Sys2Proof.Machine

/-! ### False guards and unknown opcodes (R132) -/

/-- Settles O1: every row's meaning is a dispatch of its opcode (`dispatch_guarded`); HALT and SPLIT are, in a thread that waits for
nothing. -/
theorem falseGuardIsNop : Obligations.FalseGuardIsNop := by
  unfold Obligations.FalseGuardIsNop
  intro s c t w
  extract_lets d x th W fetched nops
  have hnop : ∀ (op : Nat) (i : Instr), (fetched → ∃ body, exec i s = onDie (dispatch c t op w body) s) → nops op i := by
    intro op i hrow _ hfetched hword hguard
    obtain ⟨body, hexec⟩ := hrow hfetched
    exact hexec.trans (onDie_eq (dispatch_guarded body
      (guardedOut_of_fetches (fetches_iff.mpr hfetched) hword (hword ▸ hguard))))
  have hrow : ∀ (op : Nat) (i : Instr), (∃ body, exec i s = onDie (dispatch c t op w body) s) → nops op i := fun op i h =>
    hnop op i fun _ => h
  have hhalt : nops 0x01 (.halt c t w) := hnop _ _ fun hf => (effHalt_dispatches (wait_of_canDispatch hf.1)).imp fun _ h => onDie_eq h
  have hsplit : nops 0x26 (.split c t w) := hnop _ _ fun hf => (effSplit_dispatches (wait_of_canDispatch hf.1)).imp fun _ h => onDie_eq h
  have hldgrd : ∃ body, onDie (effLdgrd c t w) s = onDie (dispatch c t 0x38 w body) s :=
    (effLdgrd_dispatches c t w).imp fun _ h => congrArg (onDie · s) h
  have hberth : ∃ body, onDie (effBerth c t w) s = onDie (dispatch c t 0x3A w body) s :=
    (effBerth_dispatches c t w).imp fun _ h => congrArg (onDie · s) h
  exact ⟨fun _ _ => rfl, hrow _ _ ⟨_, rfl⟩, hhalt,
    hrow _ _ ⟨_, rfl⟩, hrow _ _ ⟨_, rfl⟩, hrow _ _ ⟨_, rfl⟩, hrow _ _ ⟨_, rfl⟩, hrow _ _ ⟨_, rfl⟩, hrow _ _ ⟨_, rfl⟩,
    hrow _ _ ⟨_, rfl⟩, hrow _ _ ⟨_, rfl⟩, hrow _ _ ⟨_, rfl⟩, hrow _ _ ⟨_, rfl⟩, hrow _ _ ⟨_, rfl⟩, hrow _ _ ⟨_, rfl⟩,
    hrow _ _ ⟨_, rfl⟩, hrow _ _ ⟨_, rfl⟩, hrow _ _ ⟨_, rfl⟩, hrow _ _ ⟨_, rfl⟩, hrow _ _ ⟨_, rfl⟩, hrow _ _ ⟨_, rfl⟩,
    hrow _ _ ⟨_, rfl⟩, hsplit,
    hrow _ _ ⟨_, rfl⟩, hrow _ _ ⟨_, rfl⟩, hrow _ _ ⟨_, rfl⟩, hrow _ _ ⟨_, rfl⟩, hrow _ _ ⟨_, rfl⟩, hrow _ _ ⟨_, rfl⟩,
    hrow _ _ ⟨_, rfl⟩, hrow _ _ ⟨_, rfl⟩, hrow _ _ hldgrd, hrow _ _ hldgrd, hrow _ _ ⟨_, rfl⟩, hrow _ _ hberth, hrow _ _ hberth,
    hrow _ _ ⟨_, rfl⟩, hrow _ _ ⟨_, rfl⟩, hrow _ _ ⟨_, rfl⟩, hrow _ _ ⟨_, rfl⟩, hrow _ _ ⟨_, rfl⟩, hrow _ _ ⟨_, rfl⟩,
    hrow _ _ ⟨_, rfl⟩, hrow _ _ ⟨_, rfl⟩,
    fun hfetched hop => queueIssue_unknown (fetches_iff.mpr hfetched) hop⟩

/-! ### Branches and loops (R139, R140) -/

section Branch

variable {c : CoreId} {t : Bool} {d : Die} {e : QEntry}

/-- A branch taken to a place in program memory. -/
theorem takeBranch_inside (h0 : 0 ≤ (e.pc : Int) + sext 16 (fld e.word 0 16)) (h1 : (e.pc : Int) + sext 16 (fld e.word 0 16) ≤ 4095) :
    takeBranch c t d e = modThread d c t (fun th => { th with
      pc := ((e.pc : Int) + sext 16 (fld e.word 0 16)).toNat,
      loops := popLoops ((e.pc : Int) + sext 16 (fld e.word 0 16)) th.loops, dbgStep := false }) :=
  if_neg (by omega)

/-- Past a word that ends no loop the next word comes. -/
theorem loopBack_of_head {pc : Nat} {l : List LoopFrame} (h : ∀ f ∈ l.head?, pc ≠ f.stop) : loopBack pc l = (pc + 1, l) := by
  cases l with
  | nil => rfl
  | cons f l => rw [loopBack, if_neg (h f rfl)]

/-- A LOOP whose count is not 0 opens its loop inside the one that is open. -/
theorem bodyLoop_opens (hlen : fld e.word 35 12 ≠ 0) (hin : e.pc + fld e.word 35 12 ≤ 4095)
    (hcount : (if bitB e.word 53 then fld e.word 16 16 else (opnd e (fld e.word 47 6)).toNat) ≠ 0)
    (hdepth : (threadAt d c t).loops.length ≠ 4) (hnest : ∀ f ∈ (threadAt d c t).loops.head?, e.pc + fld e.word 35 12 ≤ f.stop) :
    bodyLoop c t d e = seqStep c t (fun th => { th with loops := ⟨e.pc + 1, e.pc + fld e.word 35 12,
      if bitB e.word 53 then fld e.word 16 16 else (opnd e (fld e.word 47 6)).toNat⟩ :: th.loops }) d := by
  have hinner : ¬ (match (threadAt d c t).loops with | [] => false | f :: _ => decide (f.stop < e.pc + fld e.word 35 12)) = true := by
    cases hl : (threadAt d c t).loops with
    | nil => exact Bool.false_ne_true
    | cons f l => simpa using hnest f (by rw [hl]; rfl)
  unfold bodyLoop
  dsimp only
  rw [if_neg hlen, if_neg (by omega), if_neg hcount, if_neg hdepth]
  exact if_neg hinner

/-- One whose count is 0 goes past its last word. -/
theorem bodyLoop_skips (hlen : fld e.word 35 12 ≠ 0) (hin : e.pc + fld e.word 35 12 ≤ 4095)
    (hcount : (if bitB e.word 53 then fld e.word 16 16 else (opnd e (fld e.word 47 6)).toNat) = 0)
    (hlast : ∀ f ∈ (threadAt d c t).loops.head?, e.pc ≠ f.stop) :
    bodyLoop c t d e = modThread d c t (fun th => { th with
      pc := e.pc + fld e.word 35 12 + 1, loops := (threadAt d c t).loops, dbgStep := false }) := by
  unfold bodyLoop
  dsimp only
  rw [if_neg hlen, if_neg (by omega), if_pos hcount, loopBack_of_head hlast]
  dsimp only
  rw [if_pos rfl]

end Branch

/-- Settles O2: each word's body by its branch. -/
theorem branchAndLoopWords : Obligations.BranchAndLoopWords := by
  unfold Obligations.BranchAndLoopWords
  intro s c t w
  extract_lets th dest jump on brcTaken len count
  refine ⟨fun h => ?nop, fun h h0 h1 => ?br, fun h htaken h0 h1 => ?taken, fun h hnot => ?passed, fun h hlen hin hcount hdepth hnest => ?opens,
    fun h hlen hin hcount hlast => ?skips⟩
  case nop => exact onDie_eq (dispatch_ready _ h)
  case br => exact onDie_eq ((dispatch_ready _ h).trans (takeBranch_inside h0 h1))
  case taken => exact onDie_eq ((dispatch_ready _ h).trans ((if_pos htaken).trans (takeBranch_inside h0 h1)))
  case passed => exact onDie_eq ((dispatch_ready _ h).trans (if_neg (Bool.eq_false_iff.mp hnot)))
  case opens =>
    exact onDie_eq ((dispatch_ready _ h).trans (bodyLoop_opens (e := wordEntry s.die c t 0x04 w) hlen.ne' hin hcount.ne' hdepth.ne hnest))
  case skips =>
    exact onDie_eq ((dispatch_ready _ h).trans (bodyLoop_skips (e := wordEntry s.die c t 0x04 w) hlen.ne' hin hcount hlast))

/-! ### Scalar words (R139) -/

section Compare

variable (a b : BitVec 64)

theorem toInt_ite_slt : (if a.slt b then a else b).toInt = min a.toInt b.toInt ∧ (if a.slt b then b else a).toInt = max a.toInt b.toInt := by
  simp only [BitVec.slt, decide_eq_true_eq]
  split <;> constructor <;> omega

theorem toNat_ite_ult : (if a.ult b then a else b).toNat = min a.toNat b.toNat ∧ (if a.ult b then b else a).toNat = max a.toNat b.toNat := by
  simp only [BitVec.ult, decide_eq_true_eq]
  split <;> constructor <;> omega

/-- The integer conditions of R139. -/
theorem condHolds_integer : (condHolds 0 a b = true ↔ a = b) ∧ (condHolds 1 a b = true ↔ a ≠ b) ∧
    (condHolds 2 a b = true ↔ a.toInt < b.toInt) ∧ (condHolds 3 a b = true ↔ b.toInt ≤ a.toInt) ∧
    (condHolds 4 a b = true ↔ a.toNat < b.toNat) ∧ (condHolds 5 a b = true ↔ b.toNat ≤ a.toNat) := by
  simp [condHolds, BitVec.slt, BitVec.ult]

/-- Every SALU code up to 13 has a result. -/
theorem saluOp_isSome {op : Nat} (h : op ≤ 13) : ∃ v, saluOp op a b = some v := by
  interval_cases op <;> exact ⟨_, rfl⟩

end Compare

theorem bodySalu_writes {c : CoreId} {t : Bool} {d : Die} {e : QEntry} {v : BitVec 64}
    (h : saluOp (fld e.word 50 4) (opnd e (fld e.word 38 6)) (opnd2 e (bitB e.word 31) (fld e.word 32 6) (fld e.word 0 16)) = some v) :
    bodySalu c t d e = seqStep c t (fun th => setThreadReg th (fld e.word 44 6) v) d := by
  simp only [bodySalu, h]

/-- What SCMP writes to its predicate, by how it combines: set, AND, OR. -/
def scmpPred (mode : Nat) (preds : BitVec 8) (pd : Nat) (r : Bool) : Bool :=
  if mode = 0 then r else if mode = 1 then readPred preds pd && r else readPred preds pd || r

theorem bodyScmp_writes {c : CoreId} {t : Bool} {d : Die} {e : QEntry} (h : fld e.word 33 2 ≤ 2) :
    bodyScmp c t d e = seqStep c t (fun th => { th with
      preds := writePred th.preds (fld e.word 48 3) (scmpPred (fld e.word 33 2) th.preds (fld e.word 48 3)
        (condHolds (fld e.word 51 3) (opnd e (fld e.word 42 6)) (opnd2 e (bitB e.word 35) (fld e.word 36 6) (fld e.word 0 16)))) }) d := by
  unfold bodyScmp scmpPred
  dsimp only
  generalize fld e.word 33 2 = mode at h ⊢
  interval_cases mode <;> rfl

/-- Settles O3: each word's body by its branch; SALU's codes one by one. -/
theorem scalarWords : Obligations.ScalarWords := by
  unfold Obligations.ScalarWords
  refine ⟨fun s c t w => ?salu, fun s c t w => ?moves⟩
  case salu =>
    extract_lets W a b op
    intro h hop
    obtain ⟨v, hv⟩ := saluOp_isSome a b hop
    have hcode : ∀ k r, saluOp k a b = some r → op = k → v = r := by
      rintro k r hr rfl
      exact Option.some.inj (hv.symm.trans hr)
    refine ⟨v, onDie_eq ((dispatch_ready _ h).trans (bodySalu_writes (e := wordEntry s.die c t 0x08 w) hv)), hcode 0 _ rfl, hcode 1 _ rfl, hcode 2 _ rfl, hcode 3 _ rfl, hcode 4 _ rfl,
      hcode 5 _ rfl, hcode 6 _ rfl, hcode 7 _ rfl, hcode 8 _ rfl, fun h9 => ?_, fun h10 => ?_, fun h11 => ?_, fun h12 => ?_,
      hcode 13 _ rfl⟩
    · rw [hcode 9 _ rfl h9, (toInt_ite_slt a b).1]
    · rw [hcode 10 _ rfl h10, (toInt_ite_slt a b).2]
    · rw [hcode 11 _ rfl h11, (toNat_ite_ult a b).1]
    · rw [hcode 12 _ rfl h12, (toNat_ite_ult a b).2]
  case moves =>
    extract_lets L M a b
    refine ⟨fun h hlow => ?_, fun h hhigh hs => ?_, fun h hmode => ?_, fun _ _ => rfl⟩
    · exact onDie_eq ((dispatch_ready _ h).trans (if_neg (Bool.eq_false_iff.mp hlow)))
    · exact onDie_eq ((dispatch_ready _ h).trans ((if_pos hhigh).trans (if_neg (Nat.not_le.mpr hs))))
    · obtain ⟨heq, hne, hlt, hge, hltu, hgeu⟩ := condHolds_integer a b
      have hcond : ∀ {k : Nat} {p : Prop}, (condHolds k a b = true ↔ p) → fld M 51 3 = k → (condHolds (fld M 51 3) a b = true ↔ p) :=
        fun hp hk => hk ▸ hp
      exact ⟨condHolds (fld M 51 3) a b, onDie_eq ((dispatch_ready _ h).trans (bodyScmp_writes (e := wordEntry s.die c t 0x0A w) hmode)),
        hcond heq, hcond hne, hcond hlt, hcond hge, hcond hltu, hcond hgeu, fun _ => rfl⟩

/-! ### LDGRD STREAM, STATUS and FAULT (R154, R157, R160) -/

theorem bodyStatus_writes {c : CoreId} {t : Bool} {d : Die} {e : QEntry} {v : BitVec 64}
    (h : statusSource d c t (fld e.word 32 12) = some v) : bodyStatus c t d e = modThread d c t (fun th => advance
      (if fld e.word 32 12 = 0x40 ∧ bitB e.word 31 = true then { (setThreadReg th (fld e.word 44 6) v) with vstat := 0 }
       else setThreadReg th (fld e.word 44 6) v)) := by
  simp only [bodyStatus, h, seqStep, Bool.and_eq_true, decide_eq_true_eq]

/-- Settles O5: STREAM and STATUS by their bodies, FAULT by what `raiseFault` leaves. -/
theorem streamStatusAndFaultWords : Obligations.StreamStatusAndFaultWords := by
  unfold Obligations.StreamStatusAndFaultWords
  intro s c t w
  extract_lets x G F S base
  refine ⟨fun hform h halign => ?stream, fun v h hsource => ?status, rfl, rfl, rfl, fun h => ?fault⟩
  case stream =>
    have hbody : bodyStream c t s.die (wordEntry s.die c t 0x38 w) = _ := if_neg (not_not.mpr halign)
    exact onDie_eq ((congrFun (effLdgrd_stream hform) s.die).trans ((dispatch_ready _ h).trans hbody))
  case status => exact onDie_eq ((dispatch_ready _ h).trans (bodyStatus_writes (e := wordEntry s.die c t 0x3F w) hsource))
  case fault =>
    set u := raiseFault s.die c (some t) cfUserFault (fld F 0 32) (threadAt s.die c t).pc with hu
    have hthread : threadAt u c t = stopThread .faulted (threadAt s.die c t) := threadAt_raiseFault _ _ _ _ _ _
    obtain ⟨scope, hfault⟩ : ∃ scope, (getCore u c).fault = _ := raiseFault_fault _ _ _ _ _ _
    refine ⟨s.withDie u, onDie_eq (dispatch_ready _ h), ?_, ?_, raiseFault_mem _ _ _ _ _ _, rfl, fun hnone => ?_, fun hsome => ?_⟩
    · rw [hthread, stopThread]
    · rw [hthread, stopThread]
    · rw [if_neg (Bool.eq_false_iff.mp hnone)] at hfault
      obtain ⟨hvalid, hwho, hpc⟩ := faultWord_place scope t cfUserFault (fld F 0 32) (ready_pc h)
      rw [hfault]
      refine ⟨hvalid, hwho, fld_faultWord_code _ _ _ _ _, ?_, hpc⟩
      rw [fld_faultWord_detail]
      exact Nat.mod_eq_of_lt (BitVec.isLt _)
    · exact hfault.trans (if_pos hsome)

/-! ### The queues (R133, R134) -/

/-- Settles O6: each row dispatches its word to its queue, where it waits (`dispatch_enqueue_waits`) or is held
(`dispatch_enqueue_held`); QUEUE_ISSUE is `issueHead` of the unit's rule. -/
theorem queuesIssueInOrder : Obligations.QueuesIssueInOrder := by
  unfold Obligations.QueuesIssueInOrder
  refine ⟨fun s c t w => ?waits, fun s c t q e rest => ?issue⟩
  case waits =>
    extract_lets waits lodgeFits
    have hrow : ∀ (q : QueueId) (prep : Thread → Thread) (op : Nat) (i : Instr),
        (∃ f, exec i s = onDie (dispatch c t op w (enqueue q c t prep f)) s) → waits q prep op i := by
      rintro q prep op i ⟨f, hexec⟩
      exact ⟨fun h hroom => hexec.trans (onDie_eq (dispatch_enqueue_waits h hroom)),
        fun h hfull => hexec.trans (onDie_eq (dispatch_enqueue_held h hfull))⟩
    have hlodge : ∀ (q : QueueId) (prep : Thread → Thread) (op : Nat) (i : Instr),
        (∃ f, exec i s = onDie (dispatch c t op w (lodgeBody q f c t prep)) s) → lodgeFits op →
        waits q (fun th => prep (lodgePrep s.die c op w th)) op i := by
      rintro q prep op i ⟨f, hexec⟩ hfits
      exact ⟨fun h hroom => hexec.trans (onDie_eq ((dispatch_lodgeBody_fits h hfits).trans (dispatch_enqueue_waits h hroom))),
        fun h hfull => hexec.trans (onDie_eq ((dispatch_lodgeBody_fits h hfits).trans (dispatch_enqueue_held h hfull)))⟩
    have hvred : fld (mkWord 0x33 w) 44 6 = w.toNat / 2 ^ 44 % 64 := fld_mkWord _ _ (by decide)
    refine ⟨hrow _ _ _ _ ⟨_, rfl⟩, hrow _ _ _ _ ⟨_, rfl⟩, hrow _ _ _ _ ⟨_, rfl⟩, hrow _ _ _ _ ⟨_, rfl⟩, hrow _ _ _ _ ⟨_, rfl⟩,
      hlodge .feed id _ _ ⟨_, rfl⟩, hlodge .feed id _ _ ⟨_, rfl⟩, hrow _ _ _ _ ⟨_, rfl⟩, hlodge .edge countRead _ _ ⟨_, rfl⟩,
      hrow _ _ _ _ ⟨_, rfl⟩, hrow _ _ _ _ ⟨_, rfl⟩, hrow _ _ _ _ ⟨_, rfl⟩, hrow _ _ _ _ ⟨_, rfl⟩, hrow _ _ _ _ ⟨_, rfl⟩,
      hrow _ _ _ _ ⟨_, rfl⟩, hrow _ _ _ _ ⟨_, rfl⟩, hrow _ _ _ _ ⟨_, rfl⟩, ?_, hrow _ _ _ _ ⟨_, rfl⟩, fun hform => ?_,
      hrow _ _ _ _ ⟨_, rfl⟩, fun hform => ?_, hrow _ _ _ _ ⟨_, rfl⟩⟩
    · rw [hvred]
      exact hrow _ _ _ _ ⟨_, rfl⟩
    · exact hrow _ _ _ _ ⟨_, congrArg (onDie · s) (effLdgrd_copy hform)⟩
    · exact hrow _ _ _ _ ⟨_, congrArg (onDie · s) (effBerth_touch hform)⟩
  case issue =>
    extract_lets th d W
    have hunit : getQueue th q = e :: rest → q ≠ .sequencer := by
      rintro h rfl
      exact List.cons_ne_nil _ _ h.symm
    refine ⟨fun hq hfaulted hstopped hheld => ?_, fun d' hq hfaulted hstopped hissued => ?_, fun hq hseq => ?_, fun hop h => ?_⟩
    · exact onDie_eq ((effQueueIssue_unit (hunit hq) ⟨hfaulted, hstopped⟩).trans (issueHead_held hq hheld))
    · exact onDie_eq ((effQueueIssue_unit (hunit hq) ⟨hfaulted, hstopped⟩).trans (issueHead_issues hq hissued))
    · exact onDie_eq (effQueueIssue_nil hseq hq)
    · exact queueIssue_unknown (ready_fetches h) hop

end Sys2Proof.Machine
end

section
/-! PROOF. O12: vector words carried out at once, and VOP's arithmetic on finite values (R148 to R152). -/

namespace Sys2Proof.Machine

/-! ### What a vector word leaves -/

/-- A charge moves the thread's tokens alone. -/
theorem threadAt_charge (c : CoreId) (t : Bool) (n : Nat) (d : Die) : ∃ tokens tokensAt,
    threadAt (charge c t n d) c t = { threadAt d c t with tokens := tokens, tokensAt := tokensAt } := by
  unfold charge
  split
  · exact ⟨_, _, rfl⟩
  · exact ⟨_, _, getThread_modThread _ _ _ _⟩

/-- From `d` to `u` a vector word has written bytes at an offset of its core's store: they are in place, its work is in flight, and
the rest of memory, the thread's registers and predicates, the array's registers and every other core are as before. -/
structure VecWritten (c : CoreId) (t : Bool) (a : Nat) (bytes : List Byte) (d u : Die) : Prop where
  mem : u.mem = memWrite d.mem (storeBase c + a) bytes
  pkg : u.pkg = d.pkg
  regs : (threadAt u c t).regs = (threadAt d c t).regs
  preds : (threadAt u c t).preds = (threadAt d c t).preds
  work : (threadAt u c t).vecWork.length = (threadAt d c t).vecWork.length + 1
  acc : (getCore u c).acc = (getCore d c).acc
  others : ∀ k, k ≠ c → getCore u k = getCore d k

section Written

variable {c : CoreId} {t : Bool} {a : Nat} {bytes : List Byte} {d u : Die}

/-- Posting the work of a word and storing its bytes, whatever has been drawn for them. -/
theorem vecWritten_post {x : Core} (hacc : x.acc = (getCore d c).acc) (hthread : getThread x t = threadAt d c t) (e : QEntry)
    (fl : List Flags) (work : Work) (n : Nat) :
    VecWritten c t a bytes d (putStore { setCore d c (vecPost x t e fl work) with freeCtr := n } c a bytes) := by
  have hcore : getCore (putStore { setCore d c (vecPost x t e fl work) with freeCtr := n } c a bytes) c = vecPost x t e fl work :=
    getCore_setCore d c _
  have hpost : ∃ v, getThread (vecPost x t e fl work) t =
      { threadAt d c t with vstat := v, vecWork := (threadAt d c t).vecWork ++ [work] } :=
    hthread ▸ ⟨_, getThread_setThread _ _ _⟩
  obtain ⟨v, hpost⟩ := hpost
  refine ⟨rfl, rfl, ?_, ?_, ?_, ?_, fun k hk => getCore_setCore_ne d _ hk⟩
  · rw [threadAt, hcore, hpost]
  · rw [threadAt, hcore, hpost]
  · rw [threadAt, hcore, hpost, List.length_append]
    rfl
  · rw [hcore, vecPost, setThread_frame]
    exact hacc

theorem VecWritten.charge (n : Nat) (h : VecWritten c t a bytes d u) : VecWritten c t a bytes d (charge c t n u) := by
  obtain ⟨tokens, tokensAt, hthread⟩ := threadAt_charge c t n u
  obtain ⟨⟨t0, t1, hcore⟩, -⟩ := getCore_charge c t n u
  have hdie := charge_frame c t n u
  refine ⟨?_, ?_, ?_, ?_, ?_, ?_, fun k hk => (getCore_charge_ne c t n u hk).trans (h.others k hk)⟩
  · rw [hdie, ← h.mem]
  · rw [hdie, ← h.pkg]
  · rw [hthread, ← h.regs]
  · rw [hthread, ← h.preds]
  · rw [hthread, ← h.work]
  · rw [hcore, ← h.acc]

/-- A paced vector word that its unit takes at once and that writes. -/
theorem exec_vector_writes {s : State} {op : Nat} {w : BitVec 58} {i : Instr} {f : IssueFn} {occ : QEntry → Nat}
    (hexec : exec i s = onDie (dispatch c t op w (enqueue .vec c t id (paced occ f))) s)
    (hissue : issuesNow s.die c t .vec op w = true) (hth : throttled (asTaken s.die c t .vec id op w) c t = false)
    (hf : ∃ u, f (asTaken s.die c t .vec id op w) c t (wordEntry s.die c t op w) = some u ∧
      VecWritten c t a bytes (asTaken s.die c t .vec id op w) u) :
    ∃ u : Die, exec i s = .next (s.withDie u) ∧ u.mem = memWrite s.die.mem (storeBase c + a) bytes ∧
      ElseSame s.die.mem u.mem (storeBase c + a) bytes.length ∧
      (threadAt u c t).regs = (threadAt s.die c t).regs ∧ (threadAt u c t).preds = (threadAt s.die c t).preds ∧
      (threadAt u c t).vecWork.length = (threadAt s.die c t).vecWork.length + 1 ∧ (getCore u c).acc = (getCore s.die c).acc ∧
      u.pkg = s.die.pkg ∧ ∀ k, k ≠ c → getCore u k = getCore s.die k := by
  obtain ⟨u, hu, hwritten⟩ := hf
  have h := hwritten.charge (occ (wordEntry s.die c t op w))
  have hthread := threadAt_asTaken s.die c t .vec id op w
  have hmem : (Machine.charge c t (occ (wordEntry s.die c t op w)) u).mem = memWrite s.die.mem (storeBase c + a) bytes := h.mem
  refine ⟨_, hexec.trans (onDie_eq (dispatch_enqueue_issues hissue (by decide) (fun _ => rfl) (paced_issues hth hu))), hmem, ?_, ?_, ?_, ?_,
    ?_, h.pkg, fun k hk => (h.others k hk).trans (getCore_asTaken_ne _ _ _ _ _ _ _ hk)⟩
  · rw [hmem]
    exact elseSame_memWrite _ _ _
  · rw [h.regs, hthread]
    rfl
  · rw [h.preds, hthread]
    rfl
  · rw [h.work, hthread]
    rfl
  · rw [h.acc, getCore_asTaken, setThread_frame]

end Written

/-! ### The words (R148 to R151) -/

/-- The work of a VRED, its value with it: it writes no memory. -/
def vredWork (d : Die) (c : CoreId) (e : QEntry) : Work :=
  vecWorkOf d c (some (BitVec.ofNat 6 (fld e.word 44 6),
    (vredRun (fld e.word 50 4) (bitB e.word 14) ((List.range (vecN e)).map (fp32At d c (vecRA e)))).1)) 10 (vecN e) 32 0 4

section Issue

variable {d : Die} {c : CoreId} {t : Bool} {e : QEntry} (hn : vecN e ≠ 0)
include hn

theorem issueVop_writes (hfn : fld e.word 50 4 ≤ 10) (hfmt : fld e.word 21 5 = 0)
    (hcheck : vecCheck ((vecRA e, 4 * vecN e) :: (if vopBinary (fld e.word 50 4) then [(vecRB e, 4 * vecN e)] else []))
      (some (vecRD e, 4 * vecN e)) = none) :
    ∃ u, issueVop d c t e = some u ∧ VecWritten c t (vecRD e) ((vopResults d c e).flatMap (fun r => leBytes 4 r.1)) d u := by
  unfold issueVop
  dsimp only
  rw [if_neg (Nat.not_lt.mpr hfn), if_neg hn, if_neg (not_not.mpr hfmt), hcheck]
  exact ⟨_, rfl, vecWritten_post (n := d.freeCtr) rfl rfl _ _ _⟩

theorem issueVfn_writes (hfn : fld e.word 50 4 ≤ 5) (hfmt : fld e.word 21 5 = 0)
    (hcheck : vecCheck [(vecRA e, 4 * vecN e)] (some (vecRD e, 4 * vecN e)) = none) :
    ∃ u, issueVfn d c t e = some u ∧ VecWritten c t (vecRD e) ((vfnResults d c e).flatMap (fun r => leBytes 4 r.1)) d u := by
  unfold issueVfn
  dsimp only
  rw [if_neg (Nat.not_lt.mpr hfn), if_neg hn, if_neg (not_not.mpr hfmt), hcheck]
  exact ⟨_, rfl, vecWritten_post rfl rfl _ _ _ _⟩

theorem issueVcvt_writes {f g : Format} (hfn : fld e.word 50 4 = 0) (hf : formatOf (fld e.word 21 5) = some f)
    (hg : formatOf (fld e.word 16 5) = some g) (hblocks : (f.mx || g.mx) = true → vecN e % 32 = 0)
    (hcheck : vecCheck [(vecRA e, fmtBytes f (vecN e))] (some (vecRD e, fmtBytes g (vecN e))) = none) :
    ∃ u, issueVcvt d c t e = some u ∧ VecWritten c t (vecRD e) (tileBytes (vcvtTile d c t e f g)) d u := by
  have hwhole : ¬ ((f.mx || g.mx) && decide (vecN e % 32 ≠ 0)) = true := by
    simp only [Bool.and_eq_true, decide_eq_true_eq, not_and, not_not]
    exact hblocks
  unfold issueVcvt
  dsimp only
  rw [if_neg (not_not.mpr hfn), if_neg hn, hf, hg]
  dsimp only
  rw [if_neg hwhole, hcheck]
  obtain ⟨seed0, seed1, hspend⟩ := spendDraws_frame (getCore d c) t (vcvtTile d c t e f g).draws
  refine ⟨_, rfl, vecWritten_post ?_ ?_ _ _ _ _⟩
  · rw [hspend]
  · rw [hspend]
    rfl

theorem issueVperm_writes {f : Format} (hfn : fld e.word 50 4 ≤ 2) (hf : formatOf (fld e.word 21 5) = some f)
    (hsquare : fld e.word 50 4 = 0 → 16 ≤ f.width ∧ vecN e % 1024 = 0)
    (hcheck : vecCheck ((vecRA e, planeBytes f.width (vecN e)) :: (if fld e.word 50 4 = 2 then [(vecRB e, 4 * vecN e)] else []))
      (some (vecRD e, planeBytes f.width (vpermCount e))) = none) :
    ∃ u, issueVperm d c t e = some u ∧
      VecWritten c t (vecRD e) (packCodes f.width ((List.range (vpermCount e)).map (vpermElem d c e f))) d u := by
  have hwide : ¬ (decide (fld e.word 50 4 = 0) && decide (f.width < 16)) = true := by
    simp only [Bool.and_eq_true, decide_eq_true_eq, not_and, not_lt]
    exact fun h => (hsquare h).1
  have htiles : ¬ (decide (fld e.word 50 4 = 0) && decide (vecN e % 1024 ≠ 0)) = true := by
    simp only [Bool.and_eq_true, decide_eq_true_eq, not_and, not_not]
    exact fun h => (hsquare h).2
  unfold issueVperm
  dsimp only
  rw [if_neg (Nat.not_lt.mpr hfn), if_neg hn, hf]
  dsimp only
  rw [if_neg hwide, if_neg htiles, hcheck]
  exact ⟨_, rfl, vecWritten_post (n := d.freeCtr) rfl rfl _ _ _⟩

theorem issueVred_posts (hfn : fld e.word 50 4 ≤ 3) (hcheck : vecCheck [(vecRA e, 4 * vecN e)] none = none) : ∃ u v,
    issueVred d c t e = some u ∧ u.mem = d.mem ∧
    threadAt u c t = { threadAt d c t with vstat := v, vecWork := (threadAt d c t).vecWork ++ [vredWork d c e] } := by
  unfold issueVred
  dsimp only
  rw [if_neg (Nat.not_lt.mpr hfn), if_neg hn, hcheck]
  exact ⟨_, _, rfl, rfl, (congrArg (getThread · t) (getCore_setCore d c _)).trans (getThread_setThread _ _ _)⟩

end Issue

theorem effVectorDone_ends {d : Die} {c : CoreId} {t : Bool} {k : Work} {rest : List Work} (h : (threadAt d c t).vecWork = k :: rest) :
    effVectorDone c t d = modThread (waitUntil d k.due) c t (fun th =>
      match k.rd with
      | some (r, v) => payReg r .vred v { th with vecWork := rest }
      | none => { th with vecWork := rest }) := by
  unfold effVectorDone
  rw [h] <;> rfl

/-! ### VOP on finite values (R149) -/

section Finite

variable (sat n n' : Bool) (m m' : Nat) (e e' : Int)

/-- A sum that is not 0 is the exact one. -/
theorem vecSum_finite (h : (dyAdd (xDy (.fin n m e)) (xDy (.fin n' m' e'))).m ≠ 0) :
    vecSum (.fin n m e) (.fin n' m' e') = (xOfDy (dyAdd (xDy (.fin n m e)) (xDy (.fin n' m' e'))), flNone) := by
  have hzero : ¬ (m = 0 ∧ m' = 0) := by
    rintro ⟨rfl, rfl⟩
    exact h (by cases n <;> cases n' <;> simp [dyAdd, xDy])
  refine if_neg ?_
  simp only [xIsZero, Bool.and_eq_true, beq_iff_eq]
  exact fun hz => hzero hz.1.1

variable (old sg : XVal)

/-- What each finite VOP rounds. -/
theorem vopElem_finite :
    ((vopElem 0 sat (.fin n m e) (.fin n' m' e') old sg).map (·.1) = some (vecRound sat (vecSum (.fin n m e) (.fin n' m' e')).1).1) ∧
    ((vopElem 1 sat (.fin n m e) (.fin n' m' e') old sg).map (·.1) = some (vecRound sat (vecSum (.fin n m e) (.fin (!n') m' e')).1).1) ∧
    ((vopElem 2 sat (.fin n m e) (.fin n' m' e') old sg).map (·.1) = some (vecRound sat (.fin (n != n') (m * m') (e + e'))).1) ∧
    ((vopElem 9 sat (.fin n m e) (.fin n' m' e') old sg).map (·.1) = some (vecRound sat (.fin (!n) m e)).1) :=
  ⟨rfl, rfl, rfl, rfl⟩

theorem vopElem_reserved (a b : XVal) {fn : Nat} (h : 10 < fn) : vopElem fn sat a b old sg = none := by
  obtain ⟨k, rfl⟩ := Nat.exists_eq_add_of_lt h
  rw [show 10 + k + 1 = k + 11 by omega]
  rfl

end Finite

/-- Settles O12: the words that write by `exec_vector_writes` and what each issue does, VRED by `issueVred_posts`, and the arithmetic by
what each operation rounds. -/
theorem vectorWords : Obligations.VectorWords := by
  unfold Obligations.VectorWords
  refine ⟨fun s c t w => ?words, fun sat n n' m m' e e' x y => ?arithmetic⟩
  case words =>
    extract_lets runs V F C P e R d
    refine ⟨?vop, ?vfn, fun f g => ?vcvt, fun f => ?vperm, ?vred, fun k rest h => onDie_eq (effVectorDone_ends h)⟩
    case vop =>
      rintro hissue hth hn ⟨hfn, hfmt, hcheck⟩
      exact exec_vector_writes rfl hissue hth (issueVop_writes hn hfn hfmt hcheck)
    case vfn =>
      rintro hissue hth hn ⟨hfn, hfmt, hcheck⟩
      exact exec_vector_writes rfl hissue hth (issueVfn_writes hn hfn hfmt hcheck)
    case vcvt =>
      rintro hissue hth hn ⟨hfn, hf, hg, hblocks, hcheck⟩
      exact exec_vector_writes rfl hissue hth (issueVcvt_writes hn hfn hf hg hblocks hcheck)
    case vperm =>
      rintro hissue hth hn ⟨hfn, hf, hsquare, hcheck⟩
      exact exec_vector_writes rfl hissue hth (issueVperm_writes hn hfn hf hsquare hcheck)
    case vred =>
      intro hissue hth hfn hn hcheck
      have hrd : fld R 44 6 = w.toNat / 2 ^ 44 % 64 := fld_mkWord _ _ (by decide)
      have hexec : exec (.vred c t w) s = onDie (dispatch c t 0x33 w (enqueue .vec c t (owe (fld R 44 6) .vred) pacedVred)) s := by
        rw [hrd]
        rfl
      obtain ⟨u, v, hissued, hmem, hposted⟩ := issueVred_posts (d := d) (c := c) (t := t) (e := e) hn hfn hcheck
      obtain ⟨tokens, tokensAt, hthread⟩ := threadAt_charge c t (vecOcc e) u
      rw [hposted, threadAt_asTaken] at hthread
      refine ⟨charge c t (vecOcc e) u, vredWork d c e,
        hexec.trans (onDie_eq (dispatch_enqueue_issues hissue (by decide) (fun _ => rfl) (paced_issues hth hissued))), ?_, ?_, ?_, ?_,
        rfl, rfl⟩
      · rw [charge_frame]
        exact hmem
      · rw [hthread]
        rfl
      · rw [hthread]
        rfl
      · rw [hthread]
        rfl
  case arithmetic =>
    extract_lets a b sum diff
    obtain ⟨hadd, hsub, hmul, hneg⟩ := vopElem_finite sat n n' m m' e e' x y
    refine ⟨fun h => ?_, fun h => ?_, hmul, hneg, fun fn => vopElem_reserved sat x y a b⟩
    · rw [hadd, vecSum_finite n n' m m' e e' h]
      rfl
    · rw [hsub, vecSum_finite n (!n') m m' e e' h]
      rfl

end Sys2Proof.Machine
end

section
/-! PROOF. O13: Lodge copies, berth lookups and touches, stamps (R154 to R159, R214). -/

namespace Sys2Proof.Machine

/-! ### Lodge copies (R154, R155) -/

theorem memRead_length (m : List Host.Cell) (a n : Nat) : (memRead m a n).length = n := by simp [memRead]

/-- Bytes copied read at their destination as they did at their source. -/
theorem memGet_copied (m : List Host.Cell) (dst src : Nat) {n i : Nat} (h : i < n) :
    memGet (memWrite m dst (memRead m src n)) (dst + i) = memGet m (src + i) := by
  rw [memGet_write, memRead_length, if_pos (by omega), Nat.add_sub_cancel_left, memRead, List.getD_eq_getElem?_getD,
    List.getElem?_map, List.getElem?_range h]
  rfl

/-- From `d` to `u` a thread has started a copy of `n` bytes: they are at their destination, and the copy is in flight. -/
structure Copied (c : CoreId) (t : Bool) (src dst n : Nat) (d u : Die) : Prop where
  mem : u.mem = memWrite d.mem dst (memRead d.mem src n)
  thread : ∃ k, threadAt u c t = { threadAt d c t with ldgWork := (threadAt d c t).ldgWork ++ [k] }

theorem getThread_addLdgWork (x : Core) (t : Bool) (k : LdgWork) :
    getThread (addLdgWork x t k) t = { getThread x t with ldgWork := (getThread x t).ldgWork ++ [k] } := getThread_setThread _ _ _

section Copy

variable {d : Die} {c : CoreId} {t : Bool} {e : QEntry} {a b n : Nat} (ha : (opnd e (fld e.word 44 6)).toNat = a)
  (hb : (opnd e (fld e.word 38 6)).toNat = b) (hcount : (opnd e (fld e.word 32 6)).toNat = n) (hn : n ≠ 0)
include ha hb hcount hn

theorem issueCopy_copies (hfault : copyFault a b n = none) (hfree : lodgeHeld (getCore d c) t e a n false = false)
    (hsound : ueIn d c a n = none) : ∃ u, issueCopy d c t e = some u ∧ Copied c t (sliceBase c + a) (storeBase c + b) n d u := by
  unfold issueCopy
  dsimp only
  rw [ha, hb, hcount, if_neg hn, hfault]
  dsimp only
  rw [if_neg (Bool.eq_false_iff.mp hfree), hsound]
  have hsensed := fun e => rowsSensed_senseRows srcPorter c a n e
  refine ⟨_, rfl, ?_, ⟨false, a, n, porterFrom true (getCore d c) (streamEnd (getCore d c) d.aclk) + 12 + n / 64⟩, ?_⟩
  · exact congrArg (memWrite · _ _) (hsensed _).mem
  · refine (congrArg (getThread · t) ?_).trans (getThread_addLdgWork (getCore d c) t _)
    exact (getCore_senseRows _ _ _ _ _ _).trans (getCore_setCore _ _ _)

theorem issueLdgwr_copies (hfault : copyFault b a n = none) (hfree : lodgeHeld (getCore d c) t e b n true = false) :
    ∃ u, issueLdgwr d c t e = some u ∧ Copied c t (storeBase c + a) (sliceBase c + b) n d u := by
  unfold issueLdgwr
  dsimp only
  rw [ha, hb, hcount, if_neg hn, hfault]
  dsimp only
  rw [if_neg (Bool.eq_false_iff.mp hfree)]
  have hsensed := fun l e => rowsSensed_foldl_senseRow srcPorter l e
  refine ⟨_, rfl, ?_, ⟨true, b, n, porterFrom false (getCore d c) (streamEnd (getCore d c) d.aclk) + 12 + n / 64⟩, ?_⟩
  · exact congrArg (memWrite · _ _) (hsensed _ _).mem
  · refine (congrArg (getThread · t) ?_).trans (getThread_addLdgWork (getCore d c) t _)
    exact (getCore_of_cores (hsensed _ _).cores c).trans (getCore_setCore _ _ _)

end Copy

/-- A copy that its unit takes at once. -/
theorem exec_copies {s : State} {c : CoreId} {t : Bool} {op : Nat} {w : BitVec 58} {i : Instr} {f : IssueFn} {src dst n : Nat}
    (hexec : exec i s = onDie (dispatch c t op w (enqueue .ldg c t id f)) s) (hissue : issuesNow s.die c t .ldg op w = true)
    (hf : ∃ u, f (asTaken s.die c t .ldg id op w) c t (wordEntry s.die c t op w) = some u ∧
      Copied c t src dst n (asTaken s.die c t .ldg id op w) u) :
    ∃ u : Die, exec i s = .next (s.withDie u) ∧ (∀ i, i < n → memGet u.mem (dst + i) = memGet s.die.mem (src + i)) ∧
      ElseSame s.die.mem u.mem dst n ∧ (threadAt u c t).regs = (threadAt s.die c t).regs ∧
      (threadAt u c t).ldgWork.length = (threadAt s.die c t).ldgWork.length + 1 := by
  obtain ⟨u, hu, hmem, k, hthread⟩ := hf
  rw [threadAt_asTaken] at hthread
  replace hmem : u.mem = memWrite s.die.mem dst (memRead s.die.mem src n) := hmem
  refine ⟨u, hexec.trans (onDie_eq (dispatch_enqueue_issues hissue (by decide) (fun _ => rfl) hu)), fun i hi => ?_, ?_, ?_, ?_⟩
  · rw [hmem, memGet_copied _ _ _ hi]
  · have h := elseSame_memWrite s.die.mem dst (memRead s.die.mem src n)
    rwa [memRead_length, ← hmem] at h
  · rw [hthread]
    rfl
  · rw [hthread, List.length_append]
    rfl

theorem effLodgeCopyDone_ends {d : Die} {c : CoreId} {t : Bool} {k : LdgWork} {rest : List LdgWork}
    (h : (threadAt d c t).ldgWork = k :: rest) :
    effLodgeCopyDone c t d = modThread (waitUntil d k.due) c t (fun th => { th with ldgWork := rest }) := by
  unfold effLodgeCopyDone
  rw [h]

/-! ### Lookups and touches (R39, R156, R214) -/

/-- What a LOOKUP answers for an entry address. -/
def lookupAnswer (d : Die) (c : CoreId) : Option Nat → BitVec 64
  | some a => lookupWord d c (entryNow d a (freeVal d 0))
  | none => lookupNone

section Lookup

variable {d : Die} {c : CoreId} {t : Bool} {e : QEntry}

/-- A thread with the answer of a LOOKUP on its way, due 8 ACLK and 6 for each hop later. -/
def lookupAnswered (d : Die) (c : CoreId) (e : QEntry) (a : Option Nat) (th : Thread) : Thread :=
  { th with answers := th.answers ++
      [(d.aclk + 8 + 6 * unitHops (quarterOf c) c, BitVec.ofNat 6 (fld e.word 38 6), lookupAnswer d c a)] }

/-- A LOOKUP that the unit's caches answer is counted, and its answer is on its way. -/
theorem issueLookup_hit (h : unitHas d (quarterOf c) (handleOf e) (threadEntry d c t (handleOf e)) = true) :
    issueLookup d c t e = some (modThread (drew (countLookup true (quarterOf c) d)) c t
      (lookupAnswered d c e (threadEntry d c t (handleOf e)))) := by
  unfold issueLookup unitLookup
  dsimp only
  rw [h, if_pos rfl]
  cases threadEntry d c t (handleOf e) <;> rfl

/-- One that they miss: counted, it waits for a fill under a tag of its core. -/
theorem issueLookup_miss (h : unitHas d (quarterOf c) (handleOf e) (threadEntry d c t (handleOf e)) = false) : ∃ tags y,
    issueLookup d c t e = some { setCore d c { getCore d c with tags := tags } with
      ledger := { d.ledger with misses := tabMod 0 d.ledger.misses (quarterOf c).toNat satInc, waiting := d.ledger.waiting ++ [y] } } := by
  unfold issueLookup unitLookup
  dsimp only
  rw [h, if_neg Bool.false_ne_true]
  exact ⟨_, _, rfl⟩

theorem issueTouch_hit (h : unitHas d (quarterOf c) (handleOf e) (threadEntry d c t (handleOf e)) = true) :
    issueTouch d c t e = some (match threadEntry d c t (handleOf e) with
      | some a => touchEntry d (quarterOf c) a
      | none => d) := by
  unfold issueTouch unitLookup
  dsimp only
  rw [h, if_pos rfl] <;> rfl

end Lookup

/-! ### Stamps (R158) -/

/-- An itinerary with a tile stamped: its bit set and counted once. -/
def stampTile (tile : Nat) (i : Itin) : Itin :=
  if tabGet 0 i.stamps tile = 1 then i else { i with stamps := tabSet 0 i.stamps tile 1, stamped := i.stamped + 1 }

/-- A thread with one STAMP fewer under way. -/
def stampLeft (th : Thread) : Thread := { th with stampsHeld := th.stampsHeld - 1 }

/-- The tile a STAMP names. -/
def stampOf (e : QEntry) : Nat := if bitB e.word 53 then (opnd e (fld e.word 44 6)).toNat else fld e.word 0 32

section Stamp

variable {d : Die} {c : CoreId} {t : Bool}

/-- A stamp of a tile of an itinerary that runs, with its home on this die. -/
theorem postStamp_counts {i : Itin} {pc tile : Nat} (hitin : (threadAt d c t).itin = some i.id) (hfind : findItin d i.id = some i)
    (hrun : i.state = .running) (hhome : homeDie i.id = d.ident.dieNum) (htile : tile < i.tiles.toNat) :
    postStamp d c t pc tile = modItin d i.id (stampTile tile) := by
  unfold postStamp
  rw [hitin]
  dsimp only
  rw [hfind]
  dsimp only
  rw [if_neg (Nat.not_le.mpr htile), if_neg (not_not.mpr hrun), if_neg (not_not.mpr hhome)]
  rfl

/-- One of a thread that runs for no itinerary. -/
theorem postStamp_none {pc tile : Nat} (hitin : (threadAt d c t).itin = none) : postStamp d c t pc tile = d := by
  unfold postStamp
  rw [hitin]

variable {e : QEntry}

theorem issueStamp_posts (hreads : e.mark ≤ (threadAt d c t).readsIn) (hsent : unsentBefore (getCore d c) t e.seq = false) :
    issueStamp d c t e = some (postStamp (modThread d c t stampLeft) c t e.pc (stampOf e)) := by
  have hgo : ¬ (decide ((threadAt d c t).readsIn < e.mark) || unsentBefore (getCore d c) t e.seq) = true := by
    simp [hsent, hreads]
  unfold issueStamp
  exact if_neg hgo

theorem issueStamp_held (hreads : (threadAt d c t).readsIn < e.mark) : issueStamp d c t e = none := by
  have hhold : (decide ((threadAt d c t).readsIn < e.mark) || unsentBefore (getCore d c) t e.seq) = true := by simp [hreads]
  unfold issueStamp
  exact if_pos hhold

/-- A STAMP whose earlier reads are clean and whose bytes have left, of an itinerary of this die that runs. -/
theorem issueStamp_counts {i : Itin} (hreads : e.mark ≤ (threadAt d c t).readsIn) (hsent : unsentBefore (getCore d c) t e.seq = false)
    (hitin : (threadAt d c t).itin = some i.id) (hfind : findItin d i.id = some i) (hrun : i.state = .running)
    (hhome : homeDie i.id = d.ident.dieNum) (htile : stampOf e < i.tiles.toNat) :
    issueStamp d c t e = some (modItin (modThread d c t stampLeft) i.id (stampTile (stampOf e))) := by
  have hposts := postStamp_counts (d := modThread d c t stampLeft) (pc := e.pc)
    (by rw [getThread_modThread]; exact hitin) hfind hrun hhome htile
  rw [issueStamp_posts hreads hsent, hposts]

theorem issueStamp_of_none (hreads : e.mark ≤ (threadAt d c t).readsIn) (hsent : unsentBefore (getCore d c) t e.seq = false)
    (hitin : (threadAt d c t).itin = none) : issueStamp d c t e = some (modThread d c t stampLeft) := by
  rw [issueStamp_posts hreads hsent, postStamp_none ?_]
  rw [getThread_modThread]
  exact hitin

/-- STAMP_POST gives a STAMP at the head of the MSG queue to its unit. -/
theorem effStampPost_head {rest : List QEntry} (hmsg : (threadAt d c t).msg = e :: rest) (hop : fld e.word 58 6 = 0x3D) :
    effStampPost c t d = issueHead issueStamp c t .msg d := by
  unfold effStampPost
  rw [hmsg]
  exact if_pos hop

theorem effStampPost_issues {rest : List QEntry} {d' : Die} (hmsg : (threadAt d c t).msg = e :: rest) (hop : fld e.word 58 6 = 0x3D)
    (hissue : issueStamp (modThread d c t (fun th => { th with msg := rest })) c t e = some d') : effStampPost c t d = d' :=
  (effStampPost_head hmsg hop).trans (issueHead_issues (q := .msg) hmsg hissue)

end Stamp

/-- Settles O13: each word and each event by what its unit does with it. -/
theorem copiesBerthsAndStamps : Obligations.CopiesBerthsAndStamps := by
  unfold Obligations.CopiesBerthsAndStamps
  refine ⟨fun s c t w => ⟨?copy, ?ldgwr, fun k rest h => onDie_eq (effLodgeCopyDone_ends h)⟩, fun s c t w => ?berths, fun s c t w i => ?stamps⟩
  case copy =>
    extract_lets W e d a b n
    intro hform hissue hn hfault hfree hsound
    exact exec_copies (congrArg (onDie · s) (effLdgrd_copy hform)) hissue (issueCopy_copies rfl rfl rfl hn hfault hfree hsound)
  case ldgwr =>
    extract_lets W e d a b n
    intro hissue hn hfault hfree
    exact exec_copies rfl hissue (issueLdgwr_copies rfl rfl rfl hn hfault hfree)
  case berths =>
    extract_lets W e h q rd d a d' a'
    have hrd : fld W 38 6 = w.toNat / 2 ^ 38 % 64 := fld_mkWord _ _ (by decide)
    refine ⟨fun hform hissue => ?lookup, fun hform hissue hhit => ?touch⟩
    case lookup =>
      have hexec : ∀ {u}, issueLookup d c t e = some u → exec (.berthLookup c t w) s = .next (s.withDie u) := fun hu =>
        onDie_eq ((congrFun (effBerth_lookup hform) s.die).trans (dispatch_enqueue_issues hissue (by decide) (fun _ => rfl) hu))
      have hthread := threadAt_asTaken s.die c t .msg (owe (w.toNat / 2 ^ 38 % 64) .berth) 0x3A w
      have hanswer : lookupAnswer d c a = match a with
          | some a => lookupWord s.die c (entryNow s.die a (freeVal s.die 0))
          | none => lookupNone := by cases a <;> rfl
      refine ⟨fun hhit => ?_, fun hmiss => ?_⟩
      · have hu := getThread_modThread (drew (countLookup true (quarterOf c) d)) c t (lookupAnswered d c e a)
        replace hu : threadAt (modThread (drew (countLookup true (quarterOf c) d)) c t (lookupAnswered d c e a)) c t =
          lookupAnswered d c e a (threadAt d c t) := hu
        rw [hthread] at hu
        refine ⟨_, hexec (issueLookup_hit hhit), ?_, ?_, ?_, tabGet_mod _ _ _ _, rfl, rfl⟩
        · rw [hu]
          rfl
        · rw [hu, ← hrd]
          rfl
        · rw [hu]
          exact congrArg (fun x => (threadAt s.die c t).answers ++ [(s.die.aclk + 8 + 6 * unitHops q c, BitVec.ofNat 6 rd, x)]) hanswer
      · obtain ⟨tags, y, hissued⟩ := issueLookup_miss hmiss
        refine ⟨_, hexec hissued, ?_, List.length_append, tabGet_mod _ _ _ _, rfl, rfl⟩
        have hcore : getCore (setCore d c { getCore d c with tags := tags }) c = { getCore d c with tags := tags } := getCore_setCore _ _ _
        have hkept : getThread { getCore d c with tags := tags } t = threadAt d c t := by cases t <;> rfl
        exact (congrArg (fun x => (getThread x t).regs) hcore).trans (by rw [hkept, hthread]; rfl)
    case touch =>
      exact onDie_eq ((congrFun (effBerth_touch hform) s.die).trans
        (dispatch_enqueue_issues hissue (by decide) (fun _ => rfl) (issueTouch_hit hhit)))
  case stamps =>
    extract_lets W e d tile th
    have hthread := threadAt_asTaken s.die c t .msg (fun th => { th with stampsHeld := th.stampsHeld + 1 }) 0x3D w
    refine ⟨fun hissue hreads hsent hitin hfind hrun hhome htile => ?_, fun f rest hmsg hop hreads => ?_,
      fun f rest hmsg hop hreads hsent hitin hfind hrun hhome htile => ?_, fun f rest hmsg hop hreads hsent hitin => ?_⟩
    · refine onDie_eq (dispatch_enqueue_issues hissue (by decide) (fun _ => rfl)
        (issueStamp_counts ?_ hsent ?_ hfind hrun hhome htile))
      · rw [hthread]
        exact hreads
      · rw [hthread]
        exact hitin
    · have hheld : issueStamp (modThread s.die c t (fun th => { th with msg := rest })) c t f = none :=
        issueStamp_held (by rw [getThread_modThread]; exact hreads)
      exact onDie_eq ((effStampPost_head hmsg hop).trans (issueHead_held (q := .msg) hmsg hheld))
    · exact onDie_eq (effStampPost_issues hmsg hop (issueStamp_counts (by rw [getThread_modThread]; exact hreads) hsent
        (by rw [getThread_modThread]; exact hitin) hfind hrun hhome htile))
    · exact onDie_eq (effStampPost_issues hmsg hop (issueStamp_of_none (by rw [getThread_modThread]; exact hreads) hsent
        (by rw [getThread_modThread]; exact hitin)))

end Sys2Proof.Machine
end

section
/-! PROOF. O14: waybill words (R153, R167, R170, R173). -/

namespace Sys2Proof.Machine

section Waybill

variable {d : Die} {c : CoreId} {t : Bool} {e : QEntry}

/-- WBL: 64 bytes of core store are the waybill's word. -/
theorem issueWbl_loads {n o : Nat} (hn : fld e.word 50 3 = n) (ho : (opnd e (fld e.word 44 6)).toNat = o)
    (hset : inThreadSet (getCore d c) t n = true) (hfits : operandFault o 64 = none) (hidle : wbBusy (getWb (getCore d c) n) = false) :
    issueWbl d c t e = some (setCore d c (putWb (getCore d c) n { Waybill.reset with
      bits := wbLoad (BitVec.ofNat 512 (memLE d.mem (storeBase c + o) 64)), state := 1, thread := t })) := by
  unfold issueWbl
  dsimp only
  rw [hn, ho, hset, hfits, hidle]
  rfl

/-- WBGO of a waybill that has been loaded and that nothing else starts. -/
theorem issueWbgo_starts {n : Nat} (hn : fld e.word 50 3 = n) (hset : inThreadSet (getCore d c) t n = true)
    (hloaded : wbSt (getWb (getCore d c) n) = 1) (halone : wbCaravan (getWb (getCore d c) n) = false)
    (hfirst : wbNext (getWb (getCore d c) n) = false) (hfree : ringFed (getCore d c) (wbRing (getWb (getCore d c) n)) n = false)
    (hstart : startReject (getCore d c) t n true = none) : issueWbgo d c t e = some (runWaybill d c t n e.pc) := by
  have hgo : ¬ (!inThreadSet (getCore d c) t n || wbSt (getWb (getCore d c) n) ≠ 1 || wbCaravan (getWb (getCore d c) n) ||
      wbNext (getWb (getCore d c) n) || ringFed (getCore d c) (wbRing (getWb (getCore d c) n)) n) = true := by
    simp [hset, hloaded, halone, hfirst, hfree]
  unfold issueWbgo
  dsimp only
  rw [hn, if_neg hgo, hstart]

/-- WBNEXT of a waybill that has been loaded, behind one of the same ring under way. -/
theorem issueWbnext_arms {n p : Nat} (hn : fld e.word 50 3 = n) (hp : fld e.word 47 3 = p)
    (hset : inThreadSet (getCore d c) t n = true) (hpair : inThreadSet (getCore d c) t p = true)
    (hloaded : wbSt (getWb (getCore d c) n) = 1)
    (hcaravan : wbCaravan (getWb (getCore d c) n) = true → wbNext (getWb (getCore d c) n) = true)
    (hfrom : 1 ≤ wbSt (getWb (getCore d c) p)) (hto : wbSt (getWb (getCore d c) p) ≤ 4)
    (hring : wbRing (getWb (getCore d c) p) = wbRing (getWb (getCore d c) n)) :
    issueWbnext d c t e = some (setCore d c (putWb (getCore d c) n { getWb (getCore d c) n with
      state := 2, pair := BitVec.ofNat 3 p, thread := t, pc := e.pc })) := by
  have hstarted : (wbCaravan (getWb (getCore d c) n) && !wbNext (getWb (getCore d c) n)) = false := by
    rw [Bool.and_eq_false_imp]
    exact fun h => by rw [hcaravan h]; rfl
  have harms : ¬ (!inThreadSet (getCore d c) t n || !inThreadSet (getCore d c) t p || wbSt (getWb (getCore d c) n) ≠ 1 ||
      !(1 ≤ wbSt (getWb (getCore d c) p) && wbSt (getWb (getCore d c) p) ≤ 4) ||
      wbRing (getWb (getCore d c) p) ≠ wbRing (getWb (getCore d c) n) ||
      (wbCaravan (getWb (getCore d c) n) && !wbNext (getWb (getCore d c) n))) = true := by
    simp [hset, hpair, hloaded, hstarted, hfrom, hto, hring]
  unfold issueWbnext
  dsimp only
  rw [hn, hp, if_neg harms]

/-- WBWAIT of a waybill in the thread's set: the thread goes on where the level is met, else it waits. -/
theorem bodyWbwait_eq {n : Nat} (hn : fld e.word 50 3 = n) (hset : inThreadSet (getCore d c) t n = true) :
    bodyWbwait c t d e = if wbLevelMet (getCore d c) n (bitB e.word 49) then modThread d c t advance
      else modThread d c t (fun th => { th with wait := .wbwait (BitVec.ofNat 3 n) (bitB e.word 49) }) := by
  unfold bodyWbwait
  dsimp only
  rw [hn, hset]
  rfl

/-- A thread in WBWAIT goes on once its level is met. -/
theorem effWbwaitResume_goes {wb : BitVec 3} {level : Bool} (hwait : (threadAt d c t).wait = .wbwait wb level)
    (hmet : wbLevelMet (getCore d c) wb.toNat level = true) :
    effWbwaitResume c t d = modThread d c t (fun th => advance { th with wait := .none }) := by
  unfold effWbwaitResume
  dsimp only
  rw [hwait]
  exact if_pos hmet

end Waybill

/-- Settles O14: the Porter's words issue at once with their effect, WBWAIT dispatches with its own, and a ring whose head is not FULL has
no tile to give. -/
theorem waybillWords : Obligations.WaybillWords := by
  unfold Obligations.WaybillWords
  intro s c t w
  refine ⟨?wbl, ?wbgo, fun k d r h => pumpOut_still k (.inr h), ?wbnext, ?wbwait, fun wb level hwait hmet =>
    onDie_eq (effWbwaitResume_goes hwait hmet)⟩
  case wbl =>
    extract_lets W e d n o
    intro hissue hset hfits hidle
    exact onDie_eq (dispatch_enqueue_issues hissue (by decide) (fun _ => rfl) (issueWbl_loads rfl rfl hset hfits hidle))
  case wbgo =>
    extract_lets W e d x n b
    intro hissue hset hloaded halone hfirst hfree hstart
    refine (onDie_eq (dispatch_enqueue_issues hissue (by decide) (fun _ => rfl)
      (issueWbgo_starts rfl hset hloaded halone hfirst hfree hstart))).trans ?_
    rfl
  case wbnext =>
    extract_lets W e d x n p
    intro hissue hset hpair hloaded hcaravan hfrom hto hring
    exact onDie_eq (dispatch_enqueue_issues hissue (by decide) (fun _ => rfl)
      (issueWbnext_arms rfl rfl hset hpair hloaded hcaravan hfrom hto hring))
  case wbwait =>
    extract_lets W x n
    intro hready hset
    exact onDie_eq ((dispatch_ready _ hready).trans (bodyWbwait_eq rfl hset))

end Sys2Proof.Machine
end

section
/-! PROOF. O17: what a tally unit does with an operation (R157, R249, R250, R253, R254, R308). -/

namespace Sys2Proof.Machine

/-! ### Counts, waiters, wakes -/

theorem tallyCount_putTally (d : Die) (index : BitVec 16) (v : BitVec 32) (i : BitVec 16) :
    tallyCount (putTally d index v) i = if i = index then v else tallyCount d i := by
  split
  case isTrue h =>
    subst h
    exact tabGet_set _ _ _ _
  case isFalse h => exact tabGet_set_ne _ _ _ (fun heq => h (BitVec.eq_of_toNat_eq heq))

/-- The waiters of a tally whose condition does not hold stay, as does every other tally's. -/
theorem mem_waiters_releaseWaiters {d : Die} {index : BitVec 16} {w : Waiter} : w ∈ (releaseWaiters d index).tally.waiters ↔
    w ∈ d.tally.waiters ∧ (w.index = index → (tallyCount d index).toNat < w.target.toNat) := by
  simp [releaseWaiters, imp_iff_not_or]

theorem mem_wakes_releaseWaiters {d : Die} {index : BitVec 16} {w : Waiter} (h : w ∈ d.tally.waiters) (hindex : w.index = index)
    (hmet : w.target.toNat ≤ (tallyCount d index).toNat) : { w with due := d.aclk + 3 } ∈ (releaseWaiters d index).tally.wakes :=
  List.mem_append_right _ (List.mem_map.mpr ⟨w, List.mem_filter.mpr ⟨h, by simp [hindex, hmet]⟩, rfl⟩)

/-- From `d` to `e` a unit has taken the operation of `r`: its tally has the new count, and where the condition of `r` fails its waiter
is registered. -/
structure TallyTaken (r : TallyReq) (d e : Die) : Prop where
  count : ∀ i, tallyCount e i = if i = r.index then tallyNew r.op.toNat (tallyCount d r.index) r.value else tallyCount d i
  waiters : ∀ w ∈ d.tally.waiters, w ∈ e.tally.waiters
  registers : 2 ≤ r.op.toNat → (tallyNew r.op.toNat (tallyCount d r.index) r.value).toNat < r.value.toNat →
    ∃ w ∈ e.tally.waiters, w.target = r.value ∧ w.endpoint = r.endpoint
  aclk : e.aclk = d.aclk
  mem : e.mem = d.mem
  cores : e.cores = d.cores

/-- An operation is performed whole: the count taken, then the waiters whose condition holds released. -/
theorem tallyPerform_takes (d : Die) (r : TallyReq) : ∃ e, (tallyPerform d r).1 = releaseWaiters e r.index ∧ TallyTaken r d e := by
  refine ⟨_, rfl, ?_⟩
  split
  case isTrue h =>
    exact { count := tallyCount_putTally d _ _, waiters := fun w hw => List.mem_append_left _ hw,
            registers := fun _ _ => ⟨_, List.mem_append_right _ (List.mem_singleton_self _), rfl, rfl⟩, aclk := rfl, mem := rfl, cores := rfl }
  case isFalse h =>
    refine { count := tallyCount_putTally d _ _, waiters := fun w hw => hw, registers := fun hop hlt => absurd ?_ h, aclk := rfl,
             mem := rfl, cores := rfl }
    simp [hop, hlt]

/-- What a unit's operation leaves of the tallies, the waiters and the wakes. -/
theorem tallyPerform_count (d : Die) (r : TallyReq) (i : BitVec 16) : tallyCount (tallyPerform d r).1 i =
    if i = r.index then tallyNew r.op.toNat (tallyCount d r.index) r.value else tallyCount d i := by
  obtain ⟨e, he, htaken⟩ := tallyPerform_takes d r
  rw [he]
  exact htaken.count i

theorem tallyPerform_frame (d : Die) (r : TallyReq) : (tallyPerform d r).1.mem = d.mem ∧ (tallyPerform d r).1.cores = d.cores := by
  obtain ⟨e, he, htaken⟩ := tallyPerform_takes d r
  rw [he]
  exact ⟨htaken.mem, htaken.cores⟩

section Waiters

variable {d : Die} {r : TallyReq} {w : Waiter}

/-- The count that `r` leaves. -/
abbrev newCount (d : Die) (r : TallyReq) : BitVec 32 := tallyNew r.op.toNat (tallyCount d r.index) r.value

theorem tallyPerform_unmet (h : w ∈ (tallyPerform d r).1.tally.waiters) (hindex : w.index = r.index) :
    (newCount d r).toNat < w.target.toNat := by
  obtain ⟨e, he, htaken⟩ := tallyPerform_takes d r
  rw [he, mem_waiters_releaseWaiters, htaken.count, if_pos rfl] at h
  exact h.2 hindex

theorem tallyPerform_apart (h : w ∈ d.tally.waiters) (hindex : w.index ≠ r.index) : w ∈ (tallyPerform d r).1.tally.waiters := by
  obtain ⟨e, he, htaken⟩ := tallyPerform_takes d r
  rw [he, mem_waiters_releaseWaiters]
  exact ⟨htaken.waiters w h, fun heq => absurd heq hindex⟩

theorem tallyPerform_wakes (h : w ∈ d.tally.waiters) (hindex : w.index = r.index) (hmet : w.target.toNat ≤ (newCount d r).toNat) :
    { w with due := d.aclk + 3 } ∈ (tallyPerform d r).1.tally.wakes := by
  obtain ⟨e, he, htaken⟩ := tallyPerform_takes d r
  rw [he, ← htaken.aclk]
  refine mem_wakes_releaseWaiters (htaken.waiters w h) hindex ?_
  rwa [htaken.count, if_pos rfl]

theorem tallyPerform_registers (hop : 2 ≤ r.op.toNat) (hlt : (newCount d r).toNat < r.value.toNat) :
    ∃ w ∈ (tallyPerform d r).1.tally.waiters, w.target = r.value ∧ w.endpoint = r.endpoint := by
  obtain ⟨e, he, htaken⟩ := tallyPerform_takes d r
  obtain ⟨w, hw, htarget, hendpoint⟩ := htaken.registers hop hlt
  refine ⟨w, ?_, htarget, hendpoint⟩
  rw [he, mem_waiters_releaseWaiters, htaken.count, if_pos rfl, htarget]
  exact ⟨hw, fun _ => hlt⟩

end Waiters

/-! ### Requests of other dies (R253, R254, R308) -/

theorem LinkMoved.tally {d u : Die} : LinkMoved d u → u.tally = d.tally := by rintro ⟨_, _, _, _, rfl⟩; rfl

theorem linkMoved_sendEntry (d : Die) (col : Nat) (index : BitVec 16) (e : TallyEntry) : LinkMoved d (sendEntry d col index e) := by
  unfold sendEntry
  split
  exacts [linkMoved_emit _ _ _ _ _, linkMoved_emit _ _ _ _ _]

/-- The reply to an entry that is a request: the count before its operation. -/
def entryReply (d : Die) (e : TallyEntry) : TallyEntry :=
  ⟨1, e.srcDie, e.srcDie, e.endpoint, e.party, e.epoch, (tallyCount d (entryReq e).index).setWidth 64⟩

/-- A request performed at its unit, its reply sent. -/
def entryPerformed (d : Die) (e : TallyEntry) : Die :=
  sendEntry (tallyPerform (headArrives (entryReq e) d) (entryReq e)).1 (unitCol (unitOf (entryReq e).index)) (entryReq e).index (entryReply d e)

theorem takeEntry_request {d : Die} {e : TallyEntry} (hkind : e.kind = 0) (hop : (entryReq e).op.toNat ≤ 4) :
    takeEntry d e = entryPerformed d e := by
  unfold takeEntry
  rw [hkind]
  exact if_neg (Nat.not_lt.mpr hop)

theorem entryPerformed_count (d : Die) (e : TallyEntry) : tallyCount (entryPerformed d e) (entryReq e).index = newCount d (entryReq e) := by
  have hsent : (entryPerformed d e).tally = _ := (linkMoved_sendEntry _ _ _ _).tally
  rw [tallyCount, hsent]
  exact (tallyPerform_count _ _ _).trans (if_pos rfl)

theorem entryPerformed_mem (d : Die) (e : TallyEntry) : (entryPerformed d e).mem = d.mem :=
  (linkMoved_sendEntry _ _ _ _).mem.trans (tallyPerform_frame _ _).1

theorem exec_tallyOp (e : TallyEntry) (s : State) : exec (.tallyOp e) s = execTallyOp e s := rfl

section Level

variable {s : State} {e : TallyEntry}

theorem exec_tallyOp_idle (hlevel : s.die.ident.protoLevel = 1) : exec (.tallyOp e) s = .next s := by
  refine (exec_tallyOp e s).trans (onDie_eq ?_)
  exact if_pos hlevel

theorem exec_emuTally_idle (hlevel : s.die.ident.protoLevel ≠ 1) : exec (.emuTally e) s = .next s := by
  refine onDie_eq ?_
  exact if_neg hlevel

theorem exec_tallyOp_request (hlevel : s.die.ident.protoLevel ≠ 1) (hkind : e.kind = 0) (hop : (entryReq e).op.toNat ≤ 4) :
    exec (.tallyOp e) s = .next (s.withDie (entryPerformed s.die e)) := by
  refine (exec_tallyOp e s).trans (onDie_eq ?_)
  exact (if_neg hlevel).trans (takeEntry_request hkind hop)

theorem exec_emuTally_request (hlevel : s.die.ident.protoLevel = 1) (hkind : e.kind = 0) (hop : (entryReq e).op.toNat ≤ 4) :
    exec (.emuTally e) s = .next (s.withDie (entryPerformed s.die e)) := by
  refine onDie_eq ?_
  exact (if_pos hlevel).trans (takeEntry_request hkind hop)

end Level

theorem tallyNew_wait {op : BitVec 3} (h : op = 2 ∨ op = 4) (old value : BitVec 32) : tallyNew op.toNat old value = old := by
  obtain rfl | rfl := h
  exacts [rfl, rfl]

/-- Settles O17: the operation by the rules of `tallyPerform`, the entries of other dies by protocol level. -/
theorem tallyOperations : Obligations.TallyOperations := by
  unfold Obligations.TallyOperations
  refine ⟨fun d r => ?unit, fun s e => ?entry⟩
  case unit =>
    extract_lets old new u
    refine ⟨rfl, (tallyPerform_count d r _).trans (if_pos rfl), fun i hi => (tallyPerform_count d r i).trans (if_neg hi),
      fun hop => ?_, fun hop => ?_, fun hop => ?_, fun hop => tallyNew_wait hop _ _, fun w hw hindex => tallyPerform_unmet hw hindex,
      fun w hw hindex => tallyPerform_apart hw hindex, fun w hw hindex hmet => tallyPerform_wakes hw hindex hmet,
      fun hop hlt => tallyPerform_registers hop hlt, (tallyPerform_frame d r).1, (tallyPerform_frame d r).2⟩
    all_goals exact congrArg (fun op : BitVec 3 => tallyNew op.toNat old r.value) hop
  case entry =>
    exact ⟨exec_tallyOp_idle, exec_emuTally_idle, exec_tallyOp_request, exec_emuTally_request, entryPerformed_count s.die e,
      entryPerformed_mem s.die e⟩

end Sys2Proof.Machine
end

section
/-! PROOF. O18: TALLY words at issue (R157, R248, R249). -/

namespace Sys2Proof.Machine

theorem endpointCore_coreEndpoint (c : CoreId) : endpointCore (coreEndpoint c) = c := by
  refine BitVec.eq_of_toNat_eq ?_
  have := c.isLt
  rw [endpointCore, coreEndpoint, BitVec.toNat_ofNat, BitVec.toNat_ofNat]
  omega

/-! ### What a word asks for -/

def tallyName (e : QEntry) : BitVec 19 := (opnd e (fld e.word 44 6)).setWidth 19

def tallyIndex (e : QEntry) : BitVec 16 := (tallyName e).extractLsb' 0 16

def tallyValue (e : QEntry) : BitVec 32 :=
  if bitB e.word 37 then BitVec.ofNat 32 (fld e.word 0 16) else (opnd e (fld e.word 38 6)).setWidth 32

/-- The request of a word to a unit of this die. -/
def tallyRequest (d : Die) (c : CoreId) (t : Bool) (e : QEntry) (op : Nat) (tag : BitVec 9) (armSeq : BitVec 4) : TallyReq :=
  { unit := unitOf (tallyIndex e), op := BitVec.ofNat 3 op, fetch := bitB e.word 50 && decide (op ≤ 1), index := tallyIndex e,
    value := tallyValue e, endpoint := coreEndpoint c, die := d.ident.dieNum, thread := t, party := (getCore d c).portParty,
    epoch := (getCore d c).portEpoch, tag := tag, armSeq := armSeq, due := d.aclk + 1 + 3 * unitHops (unitOf (tallyIndex e)) c }

/-- A thread whose word is an ARM has it open; any other goes on as it is. -/
def tallyThread (e : QEntry) (op : Nat) (th : Thread) : Thread :=
  if op = 4 then { th with armed := true, armSeq := th.armSeq + 1, armName := tallyName e } else th

/-- From `d` to `u` a thread's word has sent its one request, under a tag of its core. -/
structure TallySent (c : CoreId) (t : Bool) (e : QEntry) (op : Nat) (d u : Die) : Prop where
  request : ∃ tag armSeq, u.tally.reqs = d.tally.reqs ++ [tallyRequest d c t e op tag armSeq]
  counts : u.tally.counts = d.tally.counts
  tags : (getCore u c).tags.length = (getCore d c).tags.length + 1
  thread : threadAt u c t = tallyThread e op (threadAt d c t)
  mem : u.mem = d.mem

/-! ### At issue -/

/-- A request to a unit of this die is under way over the mesh. -/
theorem sendTally_local {d : Die} {die : BitVec 2} {r : TallyReq} (h : die = d.ident.dieNum) : sendTally d die r =
    { d with tally := { d.tally with reqs := d.tally.reqs ++
      [{ r with due := d.aclk + 1 + 3 * unitHops (unitOf r.index) (endpointCore r.endpoint) }] } } := if_pos h

section Issue

variable {d : Die} {c : CoreId} {t : Bool} {e : QEntry} {op : Nat} (hop : fld e.word 51 3 = op) (hknown : op ≤ 4)
include hop hknown

theorem issueTally_sends (hin : inWindow (getCore d c) t (nameDie d (tallyName e)) (tallyIndex e) = true)
    (hhere : nameDie d (tallyName e) = d.ident.dieNum) (hfree : op = 4 → (threadAt d c t).armed = false) :
    ∃ u, issueTally d c t e = some u ∧ TallySent c t e op d u := by
  have hdue : d.aclk + 1 + 3 * unitHops (unitOf (tallyIndex e)) (endpointCore (coreEndpoint c)) =
      d.aclk + 1 + 3 * unitHops (unitOf (tallyIndex e)) c := by rw [endpointCore_coreEndpoint]
  have hwithdraws : ¬ (decide (op = 4) && (getThread (getCore d c) t).armed) = true := by
    rw [Bool.and_eq_true, decide_eq_true_eq]
    exact fun h => Bool.eq_false_iff.mp (hfree h.1) h.2
  have hout : ¬ (!inWindow (getCore d c) t (nameDie d (tallyName e)) (tallyIndex e)) = true := by rw [hin]; decide
  unfold tallyIndex tallyName at hout
  unfold tallyName at hhere
  unfold issueTally
  dsimp only
  rw [hop, if_neg (Nat.not_lt.mpr hknown), if_neg hout, if_neg hwithdraws]
  refine ⟨_, congrArg some (sendTally_local (d := cons (setCore d c _) 4 1 0) hhere), ?_⟩
  have hcore : ∀ (x : Core) (y : TallySt), getCore { cons (setCore d c x) 4 1 0 with tally := y } c = x := fun x y => getCore_setCore d c x
  refine { request := ⟨_, _, congrArg (fun due => d.tally.reqs ++ [{ tallyRequest d c t e op _ _ with due := due }]) hdue⟩, counts := rfl,
           tags := ?_, thread := ?_, mem := rfl }
  · rw [hcore, setThread_frame]
    exact List.length_append
  · refine (congrArg (getThread · t) (hcore _ _)).trans ((getThread_setThread _ _ _).trans ?_)
    by_cases harm : op = 4
    · rw [harm]
      rfl
    · exact (if_neg harm).trans (if_neg harm).symm

theorem issueTally_range (hout : inWindow (getCore d c) t (nameDie d (tallyName e)) (tallyIndex e) = false) :
    issueTally d c t e = some (raiseFault d c (some t) cfTallyRange 0 e.pc) := by
  unfold tallyIndex tallyName at hout
  unfold issueTally
  dsimp only
  rw [hop, if_neg (Nat.not_lt.mpr hknown), hout]
  rfl

end Issue

/-! ### At dispatch -/

section Dispatch

variable {s : State} {c : CoreId} {t : Bool} {w : BitVec 58} {op : Nat}

/-- What a FETCH owes. -/
def tallyOwes (w : BitVec 58) (op : Nat) : List (BitVec 6 × Owed) :=
  if bitB (mkWord 0x3C w) 50 ∧ op ≤ 1 then [(BitVec.ofNat 6 (fld (mkWord 0x3C w) 31 6), .tally)] else []

/-- The wait of a WAIT or ARRIVE: the name, and the count to reach. -/
def tallyWaits (w : BitVec 58) (regs : Tab (BitVec 64)) : Wait :=
  .tally ((readReg regs (fld (mkWord 0x3C w) 44 6)).setWidth 19)
    (if bitB (mkWord 0x3C w) 37 then BitVec.ofNat 32 (fld (mkWord 0x3C w) 0 16) else (readReg regs (fld (mkWord 0x3C w) 38 6)).setWidth 32)

/-- What dispatch leaves of a thread: a FETCH owes RD, and WAIT and ARRIVE stop it. -/
theorem tallyPrep_eq (w : BitVec 58) (regs : Tab (BitVec 64)) (th : Thread) (hop : fld (mkWord 0x3C w) 51 3 = op) : tallyPrep w regs th =
    { th with
      owed := th.owed ++ tallyOwes w op
      wait := if op = 2 ∨ op = 3 then tallyWaits w regs else th.wait } := by
  unfold tallyPrep owe tallyOwes tallyWaits
  dsimp only
  rw [hop]
  by_cases hfetch : bitB (mkWord 0x3C w) 50 = true ∧ op ≤ 1 <;> by_cases hstop : op = 2 ∨ op = 3 <;> simp [hfetch, hstop]

theorem tallyOwes_fetch (w : BitVec 58) (h : op ≤ 1) : tallyOwes w op =
    if bitB (mkWord 0x3C w) 50 then [(BitVec.ofNat 6 (fld (mkWord 0x3C w) 31 6), .tally)] else [] := by
  simp only [tallyOwes, h, and_true]

theorem tallyOwes_stop (w : BitVec 58) (h : op = 2 ∨ op = 3) : tallyOwes w op = [] := by
  refine if_neg fun hfetch => ?_
  have := hfetch.2
  omega

theorem tallyPrep_msg (w : BitVec 58) (regs : Tab (BitVec 64)) (th : Thread) :
    getQueue (advance (tallyPrep w regs th)) .msg = getQueue th .msg := by
  rw [tallyPrep_eq w regs th rfl]
  rfl

/-- The thread of a TALLY word at its unit, but for its place and its queue. -/
theorem handedThread_tally (e : QEntry) (th : Thread) (hop : fld (mkWord 0x3C w) 51 3 = op) (regs : Tab (BitVec 64)) :
    ∃ pc loops msg, handedThread .msg (tallyPrep w regs) e th = { th with
      pc := pc, loops := loops, dbgStep := false, msg := msg, seqNo := th.seqNo + 1
      owed := th.owed ++ tallyOwes w op
      wait := if op = 2 ∨ op = 3 then tallyWaits w regs else th.wait } := by
  rw [handedThread, tallyPrep_eq w _ _ hop]
  exact ⟨_, _, _, rfl⟩

/-- The thread of a TALLY word once its unit has taken it. -/
def talliedThread (w : BitVec 58) (e : QEntry) (op : Nat) (th : Thread) : Thread :=
  tallyThread e op (handedThread .msg (tallyPrep w e.regs) e th)

section Tallied

variable (e : QEntry) (th : Thread) (hop : fld (mkWord 0x3C w) 51 3 = op)
include hop

theorem talliedThread_regs : (talliedThread w e op th).regs = th.regs := by
  obtain ⟨_, _, _, hhanded⟩ := handedThread_tally e th hop e.regs
  rw [talliedThread, hhanded, tallyThread]
  split <;> rfl

/-- ADD and SET: a FETCH owes RD. -/
theorem talliedThread_fetch (h : op ≤ 1) : (talliedThread w e op th).wait = th.wait ∧ (talliedThread w e op th).owed =
    th.owed ++ if bitB (mkWord 0x3C w) 50 then [(BitVec.ofNat 6 (fld (mkWord 0x3C w) 31 6), .tally)] else [] := by
  obtain ⟨_, _, _, hhanded⟩ := handedThread_tally e th hop e.regs
  rw [talliedThread, hhanded, tallyThread, if_neg (by omega), if_neg (by omega), tallyOwes_fetch w h]
  exact ⟨rfl, rfl⟩

/-- WAIT and ARRIVE: the thread waits. -/
theorem talliedThread_stop (h : op = 2 ∨ op = 3) :
    (talliedThread w e op th).wait = tallyWaits w e.regs ∧ (talliedThread w e op th).owed = th.owed := by
  obtain ⟨_, _, _, hhanded⟩ := handedThread_tally e th hop e.regs
  rw [talliedThread, hhanded, tallyThread, if_neg (by omega), if_pos h, tallyOwes_stop w h, List.append_nil]
  exact ⟨rfl, rfl⟩

/-- ARM: the thread is armed for the name, under its next number. -/
theorem talliedThread_arm (h : op = 4) : (talliedThread w e op th).armed = true ∧
    (talliedThread w e op th).armSeq = th.armSeq + 1 ∧ (talliedThread w e op th).armName = tallyName e ∧
    (talliedThread w e op th).wait = th.wait := by
  obtain ⟨_, _, _, hhanded⟩ := handedThread_tally e th hop e.regs
  rw [talliedThread, hhanded, tallyThread, if_pos h, if_neg (by omega)]
  exact ⟨rfl, rfl, rfl, rfl⟩

end Tallied

theorem fld_tallyForm (hform : tallyForm op w = true) : fld (mkWord 0x3C w) 51 3 = op :=
  (fld_mkWord _ _ (by decide)).trans (beq_iff_eq.mp hform)

/-- A TALLY word that its unit takes at once. -/
theorem effTally_issues {d u : Die} (hform : tallyForm op w = true) (hknown : op ≤ 4) (hissue : issuesNow d c t .msg 0x3C w = true)
    (hu : issueTally (asTaken d c t .msg (tallyPrep w (wordEntry d c t 0x3C w).regs) 0x3C w) c t (wordEntry d c t 0x3C w) = some u) :
    effTally c t w d = u := by
  obtain ⟨hready, hfree⟩ := Bool.and_eq_true_iff.mp hissue
  have hop : ¬ 4 < fld (mkWord 0x3C w) 51 3 := by
    rw [fld_tallyForm hform]
    exact Nat.not_lt.mpr hknown
  refine (dispatch_ready _ hready).trans ?_
  exact (if_neg hop).trans (enqueue_issues hfree (by decide) (tallyPrep_msg w _) hu)

end Dispatch

/-- Settles O18: each word through `issueTally_sends`, its thread as dispatch and issue leave it. -/
theorem tallyWordsSendRequests : Obligations.TallyWordsSendRequests := by
  unfold Obligations.TallyWordsSendRequests
  intro s c t w
  extract_lets W e d x name index value sends fetched stops
  have hd : threadAt d c t = handedThread .msg (tallyPrep w e.regs) e (threadAt s.die c t) := threadAt_asTaken _ _ _ _ _ _ _
  have hsends : ∀ op i extra, op ≤ 4 → exec i s = onDie (effTally c t w) s →
      (fld W 51 3 = op → (threadAt s.die c t).wait = .none → ∀ u, threadAt u c t = talliedThread w e op (threadAt s.die c t) → extra u) →
      sends op i extra := by
    intro op i extra hknown hexec hextra hform hissue hin hhere hfree
    have hop : fld W 51 3 = op := fld_tallyForm hform
    have hopen : op = 4 → (threadAt d c t).armed = false := by
      obtain ⟨_, _, _, hhanded⟩ := handedThread_tally e (threadAt s.die c t) hop e.regs
      rw [hd, hhanded]
      exact hfree
    have htags : (getCore d c).tags = (getCore s.die c).tags := by rw [getCore_asTaken, setThread_frame]
    obtain ⟨u, hu, hsent⟩ := issueTally_sends (d := d) (t := t) (e := e) hop hknown hin hhere hopen
    obtain ⟨tag, armSeq, hreq⟩ := hsent.request
    have hthread : threadAt u c t = talliedThread w e op (threadAt s.die c t) := hsent.thread.trans (congrArg (tallyThread e op) hd)
    refine ⟨u, tallyRequest d c t e op tag armSeq, hexec.trans (onDie_eq (effTally_issues hform hknown hissue hu)), hreq, rfl, rfl, rfl,
      rfl, rfl, rfl, rfl, rfl, rfl, rfl, ?_, hsent.mem, hsent.counts, ?_, ?_⟩
    · rw [hsent.tags, htags]
    · rw [hthread, talliedThread_regs e _ hop]
    · exact hextra hop (ready_wait (Bool.and_eq_true_iff.mp hissue).1) u hthread
  have hfetched : ∀ op, op ≤ 1 → fld W 51 3 = op → (threadAt s.die c t).wait = .none →
      ∀ u, threadAt u c t = talliedThread w e op (threadAt s.die c t) → fetched u := by
    intro op h hop hwait u hu
    obtain ⟨hkept, howed⟩ := talliedThread_fetch e (threadAt s.die c t) hop h
    rw [← hu] at hkept howed
    exact ⟨hkept.trans hwait, howed⟩
  have hstops : ∀ op, op = 2 ∨ op = 3 → fld W 51 3 = op → (threadAt s.die c t).wait = .none →
      ∀ u, threadAt u c t = talliedThread w e op (threadAt s.die c t) → stops u := by
    intro op h hop _ u hu
    have hstop := talliedThread_stop e (threadAt s.die c t) hop h
    rwa [← hu] at hstop
  refine ⟨hsends 0 _ _ (by decide) rfl (hfetched 0 (by decide)), hsends 1 _ _ (by decide) rfl (hfetched 1 (by decide)),
    hsends 2 _ _ (by decide) rfl (hstops 2 (.inl rfl)), hsends 3 _ _ (by decide) rfl (hstops 3 (.inr rfl)),
    hsends 4 _ _ (by decide) rfl fun hop hwait u hu => ?arm, fun hform hissue hout => ?range⟩
  case arm =>
    have harm := talliedThread_arm e (threadAt s.die c t) hop rfl
    rw [← hu, hwait] at harm
    exact harm
  case range =>
    have hfault : (getCore d c).fault = (getCore s.die c).fault := by rw [getCore_asTaken, setThread_frame]
    refine ⟨_, onDie_eq (effTally_issues hform (by decide) hissue (issueTally_range (fld_tallyForm hform) (by decide) hout)),
      raiseFault_run _ _ _ _ _ _, fun hnone => raiseFault_code t _ _ (by decide) (hfault ▸ hnone), ?_⟩
    exact congrArg TallySt.reqs (raiseFault_tally _ _ _ _ _ _)

end Sys2Proof.Machine
end

section
/-! PROOF. O39 fails: a record whose RECORD address lies in the die's own registers hands pigeonholes over as it is committed (R260, R276,
R282), and a peer's report that ends an abort commits one. -/

namespace Sys2Proof.Machine

/-- The package address of PH_OWN, eight bytes before PH_GIVE, in die 0's own window. It is aligned, and SUBMIT asks no more of a RECORD;
the body of a record here begins at PH_GIVE with the elapsed time. -/
def recordAtGive : BitVec 64 := BitVec.ofNat 64 (windowBase 0 + regsBase + 0x60000)

/-- An itinerary of die 0 under abort that awaits die 2 alone, admitted one REFCLK ago. -/
def awaitingPeer : Itin :=
  { id := 1, src := .host, pair := 0, submitNo := 0, desc := 0, len := 0, seq := 7, context := 0, state := .running, phase := 2,
    abftEn := false, abftM := 8, floor := 0, tiles := 0, record := recordAtGive, seed := 0, stall := 0, timeLimit := 0, flagMax := 0,
    parties := [0, 0, 5, 0], tallyInit := 0, cores := [⟨2, 5, .full, true, false, 0x20, 8, [], [], false, false⟩], rings := [], links := [],
    berths := [], stamps := [], stamped := 0, flags := 0, reason := 0x80, faultCore := 0, faultPc := 0, faultDetail := 0, flagLog := [],
    flagLost := 0, exitCore := 0, exitCode := 0, npoison := 0, settled := false, admitted := some 0, asked := [2], replies := [],
    stopping := true }

/-- Die 2's message at pigeonhole 52. -/
def peerReport : Msg := ⟨.peer 2, 52, false, false, 0, leBytes 2 0x100⟩

/-- Die 0 at READY with that itinerary and that message. The host has written a POWER_STATUS request at pigeonhole 1 and has not handed it
over. -/
def reportedDie : Die :=
  { Die.reset with
    mem := [(pigeonBase 1, 0x61)]
    ident := { Ident.reset with countValid := true, protoLevel := 2 }
    boot := { BootSt.reset with porst := false, step := 11 }
    power := { PowerSt.reset with refCnt := 1 }
    stew := { StewSt.reset with requests := [peerReport], itins := [awaitingPeer], taken := 1 } }

theorem peerReport_due : reportedDie.stew.requests[0]? = some peerReport ∧ peerReport.src = .peer 2 ∧ stewardUp reportedDie = true ∧
    (peerReply peerReport = true ∨ (0x100 ≤ msgOp peerReport ∧ msgOp peerReport ≤ 0x1FF)) := by decide

/-- The commit hands pigeonhole 1 over: the host's request stands in the queue where the peer's message stood. -/
theorem effPeer_reported_requests :
    (effPeer 0 (.stopped 1 0 [] 0) reportedDie).stew.requests.map (fun m => (m.src, m.ph)) = [(.host, 1)] := by
  decide +kernel

/-- Refutes O39: die 2 reports that it has stopped, and the record then committed writes its elapsed time, 10 ns, over PH_GIVE, which R13
lets no write of the die's own reach. That hands pigeonhole 1 over, so that more than the peer's message changes in the queue. -/
theorem not_otherDies : ¬ Obligations.OtherDies := by
  unfold Obligations.OtherDies
  intro h
  obtain ⟨-, -, -, htaken, -⟩ := h { State.reset with die := reportedDie } 2 2 0 (.stopped 1 0 [] 0) peerReport
  obtain ⟨u, _, hexec, hrequests, -⟩ := htaken peerReport_due
  have hu : effPeer 0 (.stopped 1 0 [] 0) reportedDie = u := die_eq_of_next (s := { State.reset with die := reportedDie }) hexec
  have hqueue := effPeer_reported_requests
  rw [hu, hrequests] at hqueue
  exact absurd hqueue (by decide)

end Sys2Proof.Machine
end

section
/-! PROOF. The Steward's book of itineraries: an itinerary looked up after an update, and the operations that leave the book alone (R260,
R268, R276, R282). -/

namespace Sys2Proof.Machine

/-! ### Itineraries looked up -/

theorem findItin_id {d : Die} {x : BitVec 32} {i : Itin} (h : findItin d x = some i) : i.id = x := by
  simpa [findItin] using List.find?_some h

theorem findItin_congr {d u : Die} (h : u.stew.itins = d.stew.itins) (x : BitVec 32) : findItin u x = findItin d x := by
  rw [findItin, h, findItin]

theorem findItin_modItin (d : Die) (id x : BitVec 32) {f : Itin → Itin} (hf : ∀ i, (f i).id = i.id) :
    findItin (modItin d id f) x = (findItin d x).map (fun i => if i.id = id then f i else i) := by
  have hid : ∀ i : Itin, (if i.id = id then f i else i).id = i.id := fun i => by
    split
    exacts [hf i, rfl]
  have hsame : ((fun i : Itin => decide (i.id = x)) ∘ fun i => if i.id = id then f i else i) = fun i => decide (i.id = x) :=
    funext fun i => by rw [Function.comp_apply, hid]
  rw [findItin, findItin, modItin, List.find?_map, hsame]

theorem findItin_modItin_self {d : Die} {id : BitVec 32} {i : Itin} {f : Itin → Itin} (hf : ∀ i, (f i).id = i.id)
    (h : findItin d id = some i) : findItin (modItin d id f) id = some (f i) := by
  rw [findItin_modItin d id id hf, h, Option.map_some, if_pos (findItin_id h)]

/-! ### The book kept -/

/-- The die is the same one, and its book of itineraries is as it was. -/
structure SameBook (d u : Die) : Prop where
  ident : u.ident = d.ident
  itins : u.stew.itins = d.stew.itins

namespace SameBook

theorem refl (d : Die) : SameBook d d := ⟨rfl, rfl⟩

theorem trans {d e u : Die} (h : SameBook d e) (h' : SameBook e u) : SameBook d u := ⟨h'.ident.trans h.ident, h'.itins.trans h.itins⟩

/-- What comes after a step that touches neither. -/
theorem since {d e u : Die} (h : SameBook e u) (hident : e.ident = d.ident) (hitins : e.stew.itins = d.stew.itins) : SameBook d u :=
  trans ⟨hident, hitins⟩ h

theorem foldl {α : Type} {f : Die → α → Die} (hf : ∀ e x, SameBook e (f e x)) (l : List α) (d : Die) : SameBook d (l.foldl f d) := by
  induction l generalizing d with
  | nil => exact refl d
  | cons x l ih => exact (hf d x).trans (ih (f d x))

theorem ite {p : Prop} {_ : Decidable p} {d a b : Die} (ha : SameBook d a) (hb : SameBook d b) : SameBook d (if p then a else b) := by
  split
  exacts [ha, hb]

theorem find {d u : Die} (h : SameBook d u) (x : BitVec 32) : findItin u x = findItin d x := findItin_congr h.itins x

theorem ownOffset {d u : Die} (h : SameBook d u) (a : Nat) : ownOffset u a = Machine.ownOffset d a := by
  rw [Machine.ownOffset, h.ident, Machine.ownOffset]

end SameBook

theorem sameBook_sendPeer (d : Die) (p : BitVec 2) (m : PeerMsg) : SameBook d (sendPeer d p m) := .ite ⟨rfl, rfl⟩ ⟨rfl, rfl⟩

theorem sameBook_toPeers (d : Die) (i : Itin) (m : PeerMsg) : SameBook d (toPeers d i m) := .foldl (fun e p => sameBook_sendPeer e p m) _ d

theorem toPeers_cores (d : Die) (i : Itin) (m : PeerMsg) : (toPeers d i m).cores = d.cores :=
  foldl_keeps (g := Die.cores) (fun e p => sendPeer_cores e p m) _ d

theorem toPeers_mem (d : Die) (i : Itin) (m : PeerMsg) : (toPeers d i m).mem = d.mem :=
  foldl_keeps (g := Die.mem) (fun e p => sendPeer_mem e p m) _ d

/-! ### Rows sensed -/

theorem sameBook_freeLoc (d : Die) (tier loc : Nat) : SameBook d (freeLoc d tier loc) := .ite ⟨rfl, rfl⟩ (.refl d)

theorem sameBook_markLost (d : Die) (h : BitVec 48) (a : Nat) : SameBook d (markLost d h a) := by
  unfold markLost
  extract_lets e d1 ctx
  have hd1 : SameBook d d1 := (SameBook.ite (.refl d) (sameBook_freeLoc d _ _)).trans ⟨rfl, rfl⟩
  exact hd1.trans ⟨rfl, rfl⟩

theorem sameBook_loseBerths (d : Die) (gone : Nat → Bool) : SameBook d (loseBerths d gone) :=
  .foldl (fun e _ => .ite (sameBook_markLost e _ _) (.refl e)) _ d

theorem sameBook_retireRow (d : Die) (key : Nat) (ue : Bool) : SameBook d (retireRow d key ue) := by
  unfold retireRow
  refine .ite (.refl d) ?_
  split
  exacts [⟨rfl, rfl⟩, ⟨rfl, rfl⟩]

theorem sameBook_noteUe (d : Die) (src key : Nat) : SameBook d (noteUe d src key) := by
  unfold noteUe
  extract_lets _ _ l d1 d2
  have hd1 : SameBook d d1 := ⟨rfl, rfl⟩
  exact (SameBook.ite hd1 (hd1.trans (sameBook_retireRow d1 key true))).trans (sameBook_loseBerths d2 _)

theorem sameBook_noteCe (d : Die) (key : Nat) : SameBook d (noteCe d key) := by
  unfold noteCe
  extract_lets _ _ w count d1
  have hd1 : SameBook d d1 := ⟨rfl, rfl⟩
  exact .ite (hd1.trans (sameBook_retireRow d1 key false)) hd1

theorem sameBook_senseRow (src : Nat) (d : Die) (key : Nat) : SameBook d (senseRow src d key) :=
  .ite (sameBook_noteUe d src key) (.ite (sameBook_noteCe d key) (.refl d))

/-! ### Pigeonholes -/

theorem LinkMoved.book {d u : Die} : LinkMoved d u → SameBook d u := by
  rintro ⟨_, _, _, _, rfl⟩
  exact ⟨rfl, rfl⟩

theorem sameBook_releasePh (n : Nat) (quiet : Bool) (d : Die) : SameBook d (releasePh n quiet d) :=
  .ite (.since (linkMoved_emit _ _ _ _ _).book rfl rfl) ⟨rfl, rfl⟩

theorem sameBook_postPending (d : Die) : SameBook d (postPending d) := by
  unfold postPending
  split
  · exact .refl d
  · exact .ite (.refl d) (.since (sameBook_releasePh _ _ _) rfl rfl)

theorem sameBook_respond (d : Die) (m : Msg) (status detail ctx : Nat) (payload : List Byte) :
    SameBook d (respond d m status detail ctx payload) := by
  unfold respond
  split
  exacts [⟨rfl, rfl⟩, ⟨rfl, rfl⟩]

theorem sameBook_answerUnknown : ∀ (n : Nat) (d : Die), SameBook d (answerUnknown n d)
  | 0, d => .refl d
  | n + 1, d => by
    unfold answerUnknown
    split
    · exact .refl d
    · split
      · exact .since ((sameBook_respond _ _ _ _ _ _).trans (sameBook_answerUnknown n _)) rfl rfl
      · exact .refl d

theorem sameBook_giveOne (d : Die) (n : Nat) : SameBook d (giveOne d n) := by
  unfold giveOne
  refine .ite ⟨rfl, rfl⟩ ?_
  dsimp only
  split
  exacts [⟨rfl, rfl⟩, ⟨rfl, rfl⟩]

theorem sameBook_giveBits (v : BitVec 64) (d : Die) : SameBook d (giveBits v d) :=
  .trans (.foldl sameBook_giveOne _ d) (.ite (.trans (sameBook_answerUnknown _ _) (sameBook_postPending _)) (.refl _))

/-! ### Writes at a package address -/

theorem sameBook_putSlice (src : Nat) (d : Die) (c : CoreId) (off : Nat) (l : List Byte) : SameBook d (putSlice src d c off l) :=
  .trans (.foldl (sameBook_senseRow src) _ d) ⟨rfl, rfl⟩

theorem sameBook_hubPut (d : Die) (o : Nat) (l : List Byte) : SameBook d (hubPut d o l) := by
  unfold hubPut
  split
  exacts [sameBook_putSlice _ _ _ _ _, ⟨rfl, rfl⟩, .ite ⟨rfl, rfl⟩ ⟨rfl, rfl⟩, sameBook_giveBits _ _, .refl d]

theorem sameBook_argWrite (d : Die) (a : Nat) (l : List Byte) : SameBook d (argWrite d a l) := by
  unfold argWrite
  split
  · split
    exacts [.foldl (fun _ _ => sameBook_putSlice _ _ _ _ _) _ d, sameBook_hubPut _ _ _]
  · exact ⟨rfl, rfl⟩

end Sys2Proof.Machine
end

section
/-! PROOF. The record committed and the completion event posted (R282, R283, R286). -/

namespace Sys2Proof.Machine

theorem sameBook_writeRecord (d : Die) (i : Itin) : SameBook d (writeRecord d i) :=
  (((sameBook_argWrite _ _ _).trans (sameBook_argWrite _ _ _)).trans (sameBook_argWrite _ _ _)).trans (sameBook_argWrite _ _ _)

theorem writeRecord_cores (d : Die) (i : Itin) : (writeRecord d i).cores = d.cores := by
  simp only [writeRecord, writeLog, writeMap, argWrite_cores]

/-- The commit word is written last. -/
theorem writeRecord_commits {d : Die} {i : Itin} (h : ownOffset d i.record.toNat = none) :
    memRead (writeRecord d i).pkg i.record.toNat 8 = commitWord i := by
  have hlen : (commitWord i).length = 8 := by simp [commitWord, leBytes]
  have hbefore := ((sameBook_argWrite d (i.record.toNat + 8) (recordBody i (elapsedNs d i))).trans
    (sameBook_argWrite _ (i.record.toNat + 0x40) (stampMap i))).trans
    (sameBook_argWrite _ (logAt i) (i.flagLog.flatMap (fun p => leBytes 8 p.1.toNat ++ leBytes 2 p.2.toNat ++ leBytes 6 0)))
  rw [writeRecord, writeLog, writeMap, argWrite_outside _ ((hbefore.ownOffset _).trans h), ← hlen]
  exact memRead_write _ _ _

/-- An itinerary that has ended in a state: its entry, its commit word when RECORD is no address of the die's own, and its completion
event, posted last. -/
structure Ended (d u : Die) (j : Itin) : Prop where
  entry : findItin u j.id = some j
  word : ownOffset d j.record.toNat = none → memRead u.pkg j.record.toNat 8 = commitWord j
  event : ∃ bytes, u.stew.events.getLast? = some ⟨0x0000, j.seq, j.context, j.pair, bytes⟩

theorem commitItin_ends {d : Die} {id : BitVec 32} {i : Itin} (st : ItinState) (h : findItin d id = some i) :
    Ended d (commitItin d id st) { i with state := st } := by
  have hid := findItin_id h
  have hfind : findItin (modItin d id (fun i => { i with state := st })) id = some { i with state := st } :=
    findItin_modItin_self (fun _ => rfl) h
  have hcommit : commitItin d id st = setPhase (completionEvent (writeRecord (modItin d id (fun i => { i with state := st }))
      { i with state := st }) { i with state := st }) := by
    simp only [commitItin, hfind]
  rw [hcommit]
  exact
    { entry := ((sameBook_writeRecord _ _).find i.id).trans (hid ▸ hfind)
      word := fun hout => writeRecord_commits (d := modItin d id _) hout
      event := ⟨_, by simp only [setPhase, completionEvent, postEventTo, List.getLast?_append_cons, List.getLast?_singleton]; rfl⟩ }

theorem commitItin_cores (d : Die) (id : BitVec 32) (st : ItinState) : (commitItin d id st).cores = d.cores := by
  unfold commitItin
  dsimp only
  split
  exacts [rfl, writeRecord_cores _ _]

end Sys2Proof.Machine
end

section
/-! PROOF. What stopping an itinerary's cores can do to the book of itineraries and to threads: status words and stamps still reach their
itineraries, a late stamp may fault, and no thread starts (R118, R127, R158, R175, R187). -/

namespace Sys2Proof.Machine

/-! ### Itineraries reported to -/

/-- What the reports of a core change in an itinerary: its stamps, flags and logs, and the first fault while no reason is noted. -/
def Reported (i j : Itin) : Prop :=
  ∃ stamps stamped flags flagLog flagLost reason faultCore faultPc faultDetail, j = { i with
    stamps := stamps, stamped := stamped, flags := flags, flagLog := flagLog, flagLost := flagLost, reason := reason,
    faultCore := faultCore, faultPc := faultPc, faultDetail := faultDetail } ∧ (i.reason ≠ 0 → reason = i.reason)

namespace Reported

theorem refl (i : Itin) : Reported i i := ⟨_, _, _, _, _, _, _, _, _, rfl, fun _ => rfl⟩

theorem trans {i j k : Itin} : Reported i j → Reported j k → Reported i k := by
  rintro ⟨_, _, _, _, _, _, _, _, _, rfl, h⟩ ⟨_, _, _, _, _, _, _, _, _, rfl, h'⟩
  exact ⟨_, _, _, _, _, _, _, _, _, rfl, fun hi => (h' (fun hk => hi ((h hi).symm.trans hk))).trans (h hi)⟩

theorem reason {i j : Itin} (h : Reported i j) (hi : i.reason ≠ 0) : j.reason = i.reason := by
  obtain ⟨_, _, _, _, _, _, _, _, _, rfl, hreason⟩ := h
  exact hreason hi

/-- What no report changes. -/
theorem kept {i j : Itin} (h : Reported i j) : j.id = i.id ∧ j.state = i.state ∧ j.stopping = i.stopping ∧ j.asked = i.asked ∧
    j.seq = i.seq ∧ j.context = i.context ∧ j.pair = i.pair ∧ j.record = i.record := by
  obtain ⟨_, _, _, _, _, _, _, _, _, rfl, -⟩ := h
  exact ⟨rfl, rfl, rfl, rfl, rfl, rfl, rfl, rfl⟩

end Reported

theorem reported_orFlags (f : BitVec 5) (i : Itin) : Reported i (orFlags f i) := ⟨_, _, _, _, _, _, _, _, _, rfl, fun _ => rfl⟩

theorem reported_stampTile (tile : Nat) (i : Itin) : Reported i (stampTile tile i) := by
  unfold stampTile
  split
  exacts [.refl i, ⟨_, _, _, _, _, _, _, _, _, rfl, fun _ => rfl⟩]

theorem reported_noteItinFault (code core pc detail : Nat) (i : Itin) : Reported i (noteItinFault code core pc detail i) := by
  unfold noteItinFault
  split
  · next h => exact ⟨_, _, _, _, _, _, _, _, _, rfl, fun hi => absurd (by simpa using (Bool.and_eq_true_iff.mp h).1) hi⟩
  · exact .refl i

/-! ### Threads that stand still -/

/-- No thread of a core that stood still runs. -/
def CoreStill (x y : Core) : Prop := ∀ t, (getThread x t).run ≠ .running → (getThread y t).run ≠ .running

theorem CoreStill.of_getThread {x y : Core} (h : ∀ t, getThread y t = getThread x t) : CoreStill x y := fun t ht => h t ▸ ht

theorem CoreStill.trans {x y z : Core} (h : CoreStill x y) (h' : CoreStill y z) : CoreStill x z := fun t ht => h' t (h t ht)

/-- A thread replaced by one that runs no more than it did. -/
theorem coreStill_setThread {x : Core} {t : Bool} {th : Thread} (h : (getThread x t).run ≠ .running → th.run ≠ .running) :
    CoreStill x (setThread x t th) := fun u hu => by
  by_cases ht : u = t
  · subst ht
    rw [getThread_setThread]
    exact h hu
  · rw [Bool.eq_not_of_ne ht, getThread_setThread_other, ← Bool.eq_not_of_ne ht]
    exact hu

/-! ### A die on which work ends -/

/-- From `d` to `u` cores have only ended work: the book took their reports, and no thread that stood still runs. -/
structure WorkEnds (d u : Die) : Prop where
  ident : u.ident = d.ident
  entries : ∀ x i, findItin d x = some i → ∃ j, findItin u x = some j ∧ Reported i j
  still : ∀ c, CoreStill (getCore d c) (getCore u c)

namespace WorkEnds

theorem of_book {d u : Die} (h : SameBook d u) (hstill : ∀ c, CoreStill (getCore d c) (getCore u c)) : WorkEnds d u :=
  ⟨h.ident, fun x i hi => ⟨i, (h.find x).trans hi, .refl i⟩, hstill⟩

theorem of_book_cores {d u : Die} (h : SameBook d u) (hcores : u.cores = d.cores) : WorkEnds d u :=
  of_book h fun c => (getCore_of_cores hcores c).symm ▸ .of_getThread fun _ => rfl

theorem refl (d : Die) : WorkEnds d d := of_book_cores (.refl d) rfl

theorem trans {d e u : Die} (h : WorkEnds d e) (h' : WorkEnds e u) : WorkEnds d u where
  ident := h'.ident.trans h.ident
  entries x i hi := by
    obtain ⟨j, hj, hij⟩ := h.entries x i hi
    obtain ⟨k, hk, hjk⟩ := h'.entries x j hj
    exact ⟨k, hk, hij.trans hjk⟩
  still c := (h.still c).trans (h'.still c)

theorem foldl {α : Type} {f : Die → α → Die} (hf : ∀ e x, WorkEnds e (f e x)) (l : List α) (d : Die) : WorkEnds d (l.foldl f d) := by
  induction l generalizing d with
  | nil => exact refl d
  | cons x l ih => exact (hf d x).trans (ih (f d x))

end WorkEnds

theorem workEnds_setCore {d : Die} {c : CoreId} {x : Core} (h : CoreStill (getCore d c) x) : WorkEnds d (setCore d c x) :=
  .of_book ⟨rfl, rfl⟩ fun k => by
    by_cases hk : k = c
    · rw [hk, getCore_setCore]
      exact h
    · rw [getCore_setCore_ne d x hk]
      exact .of_getThread fun _ => rfl

theorem workEnds_modItin (d : Die) (id : BitVec 32) {f : Itin → Itin} (hf : ∀ i, Reported i (f i)) : WorkEnds d (modItin d id f) where
  ident := rfl
  entries x i hi := by
    refine ⟨_, by rw [findItin_modItin d id x (fun i => (hf i).kept.1), hi, Option.map_some], ?_⟩
    split
    exacts [hf i, .refl i]
  still _ := .of_getThread fun _ => rfl

theorem workEnds_sendPeer (d : Die) (p : BitVec 2) (m : PeerMsg) : WorkEnds d (sendPeer d p m) :=
  .of_book_cores (sameBook_sendPeer d p m) (sendPeer_cores d p m)

theorem workEnds_logFault (d : Die) (l : List Byte) : WorkEnds d (logFault d l) := by
  unfold logFault
  exact .of_book_cores ⟨rfl, rfl⟩ rfl

/-! ### The end of a slot read (R117, R118, R175) -/

theorem workEnds_raiseFault (d : Die) (c : CoreId) (t : Bool) (code detail pc : Nat) : WorkEnds d (raiseFault d c (some t) code detail pc) := by
  unfold raiseFault
  extract_lets x ts place
  generalize faultScope x (some t) = s
  obtain ⟨scope, hs⟩ := s
  dsimp only
  generalize hx1 : (if bitB x.fault 63 = true then x else { x with fault := faultWord scope (some t) pc code detail }) = x1
  have hthreads : ∀ u, getThread x1 u = getThread x u := fun u => by
    rw [← hx1]
    split
    exacts [rfl, by cases u <;> rfl]
  have hstill : CoreStill x (List.foldl (poisonHalf d.freeCtr d.aclk) (setThread x1 t (stopThread .faulted (getThread x1 t))) hs) :=
    (CoreStill.of_getThread hthreads).trans <| (coreStill_setThread fun _ => by simp [stopThread]).trans <|
      .of_getThread fun u => (Poisoned.foldl (poisoned_poisonHalf _ _) hs _).getThread u
  have hcore := workEnds_setCore (d := d) (c := c) hstill
  have hdrew : ∀ e : Die, WorkEnds e (drew e) := fun e => .of_book_cores ⟨rfl, rfl⟩ rfl
  refine .trans (hcore.trans (.foldl (fun e u => ?_) _ _)) (hdrew _)
  split
  · split
    · exact (workEnds_logFault _ _).trans (workEnds_modItin _ _ (reported_noteItinFault _ _ _ _))
    · exact (workEnds_logFault _ _).trans (workEnds_sendPeer _ _ _)
  · exact workEnds_logFault _ _

theorem workEnds_postStamp (d : Die) (c : CoreId) (t : Bool) (pc tile : Nat) : WorkEnds d (postStamp d c t pc tile) := by
  unfold postStamp
  split
  · exact .refl d
  · split
    · exact workEnds_sendPeer _ _ _
    · split
      · exact workEnds_raiseFault _ _ _ _ _ _
      · split
        · exact .refl d
        · split
          exacts [workEnds_sendPeer _ _ _, workEnds_modItin _ _ (reported_stampTile tile)]

theorem workEnds_releaseStamps (d : Die) (c : CoreId) (t : Bool) (src : Nat) : WorkEnds d (releaseStamps d c t src) := by
  unfold releaseStamps
  exact (workEnds_setCore (.of_getThread fun u => by cases u <;> rfl)).trans
    (.foldl (f := fun e (p : Bool × Nat × Nat × Nat) => postStamp e c t p.2.1 p.2.2.1) (fun e p => workEnds_postStamp e c t _ _) _ _)

theorem workEnds_waitUntil (d : Die) (t : Nat) : WorkEnds d (waitUntil d t) :=
  .of_book ⟨rfl, rfl⟩ fun c u hu => by
    obtain ⟨_, _, _, hpaid⟩ := payAnswers_frame (max d.aclk t) (getThread (getCore d c) u)
    rw [getCore_waitUntil, getThread_passTime, hpaid]
    exact hu

/-- A core whose read has delivered clean: the read counts for its thread, its tiles are marked. -/
theorem coreStill_clean (x : Core) (p : ArrOp) : CoreStill x (markClean (readClean x p) p.thread p.ring (p.seq + 1)) := by
  have hread : CoreStill x (readClean x p) := coreStill_setThread fun h => h
  obtain ⟨_, _, hmark⟩ := markClean_frame (readClean x p) p.thread p.ring (p.seq + 1)
  rw [hmark]
  exact hread.trans (.of_getThread fun _ => rfl)

theorem workEnds_effDelivery (d : Die) (c : CoreId) (n : Nat) : WorkEnds d (effDelivery c n d) := by
  unfold effDelivery
  split
  · exact .refl d
  · next o0 _ =>
    split
    · exact .refl d
    · extract_lets d1 o x x1 th clean x2 d2 d3
      have hx1 : CoreStill (getCore d1 c) x1 := .of_getThread (delivered_spec (getCore d1 c) n o).2.2.2.1
      have hx2 : CoreStill (getCore d1 c) x2 := by
        by_cases hclean : clean = true
        · rw [show x2 = _ from if_pos hclean]
          exact hx1.trans (coreStill_clean x1 o)
        · rw [show x2 = _ from if_neg hclean]
          exact hx1
      have hd2 : WorkEnds d d2 := (workEnds_waitUntil d o0.due).trans (workEnds_setCore hx2)
      have hd3 : WorkEnds d d3 := by
        refine hd2.trans ?_
        show WorkEnds d2 (match th.itin with
          | some id => modItin d2 id (orFlags (BitVec.ofNat 5 (fld o.copy 26 5)))
          | none => d2)
        split
        exacts [workEnds_modItin _ _ (reported_orFlags _), .refl d2]
      split
      exacts [hd3.trans (workEnds_releaseStamps _ _ _ _), hd3]

theorem workEnds_finishReads (d : Die) (c : CoreId) : WorkEnds d (finishReads d c) :=
  .foldl (fun e _ => by
    split
    exacts [workEnds_effDelivery e c _, .refl e]) _ d

end Sys2Proof.Machine
end

section
/-! PROOF. Stopping an itinerary's cores on this die, its logs gathered, its record committed (R125, R187, R248, R256, R282). -/

namespace Sys2Proof.Machine

/-! ### Threads stopped (R187) -/

/-- A thread stopped: its core's part of the book and of the memories is as it was. -/
theorem stopCore_shape (d : Die) (c : CoreId) (t : Bool) (code detail : Nat) : ∃ y, CoreStill (getCore d c) y ∧
    (getThread y t).run ≠ .running ∧ SameBook d (stopCore d c t code detail) ∧ (stopCore d c t code detail).cores = (setCore d c y).cores := by
  unfold stopCore
  extract_lets x th mine x1 x2 dropped _ x3 x4
  have hx1 : ∀ u, getThread x1 u = getThread x u := by
    refine List.foldlRecOn (motive := fun y : Core => ∀ u, getThread y u = getThread x u) _ _ (fun _ => rfl) fun y hy n _ u => ?_
    split
    exacts [hy u, hy u]
  have hover : (if th.run == .faulted then Run.faulted else .stopped) ≠ .running := by
    split
    exacts [by decide, by decide]
  have hrun : (getThread x3 t).run ≠ .running := by
    rw [getThread_setThread]
    exact hover
  have hx3 : CoreStill x x3 := (CoreStill.of_getThread (y := x2) hx1).trans (coreStill_setThread fun _ => hover)
  have hx4 : ∀ u, getThread x4 u = getThread x3 u := fun u => (Poisoned.foldl (poisoned_poisonHalf _ _) _ x3).getThread u
  refine ⟨x4, hx3.trans (.of_getThread hx4), hx4 t ▸ hrun, .since (.foldl (fun e n => ?_) _ _) rfl rfl, ?_⟩
  · split
    exacts [⟨rfl, rfl⟩, .refl e]
  · refine foldl_keeps (g := Die.cores) (fun e n => ?_) _ _
    split <;> rfl

theorem workEnds_stopCore (d : Die) (c : CoreId) (t : Bool) (code detail : Nat) : WorkEnds d (stopCore d c t code detail) := by
  obtain ⟨y, hstill, -, hbook, hcores⟩ := stopCore_shape d c t code detail
  refine .of_book hbook fun k => ?_
  rw [getCore_of_cores hcores]
  exact (workEnds_setCore hstill).still k

theorem stopCore_stops (d : Die) (c : CoreId) (t : Bool) (code detail : Nat) :
    (threadAt (stopCore d c t code detail) c t).run ≠ .running := by
  obtain ⟨y, -, hrun, -, hcores⟩ := stopCore_shape d c t code detail
  rw [threadAt, getCore_of_cores hcores, getCore_setCore]
  exact hrun

/-- One thread of an itinerary stopped, whether it was ever started or not. -/
def stopOne (code detail : Nat) (d : Die) (p : CoreId × Bool) : Die :=
  if (threadAt d p.1 p.2).run == .idle then modCore d p.1 (fun x => setThread x p.2 (stopThread .stopped (getThread x p.2)))
  else stopCore d p.1 p.2 code detail

theorem workEnds_stopOne (code detail : Nat) (d : Die) (p : CoreId × Bool) : WorkEnds d (stopOne code detail d p) := by
  unfold stopOne
  split
  exacts [workEnds_setCore (coreStill_setThread fun _ => by simp [stopThread]), workEnds_stopCore d p.1 p.2 code detail]

theorem stopOne_stops (code detail : Nat) (d : Die) (p : CoreId × Bool) : (threadAt (stopOne code detail d p) p.1 p.2).run ≠ .running := by
  unfold stopOne
  split
  · rw [threadAt, getCore_modCore, getThread_setThread]
    simp [stopThread]
  · exact stopCore_stops d p.1 p.2 code detail

theorem foldl_stopOne_stops (code detail : Nat) {l : List (CoreId × Bool)} (d : Die) {p : CoreId × Bool} (hp : p ∈ l) :
    (threadAt (l.foldl (stopOne code detail) d) p.1 p.2).run ≠ .running := by
  induction l generalizing d with
  | nil => exact absurd hp List.not_mem_nil
  | cons q l ih =>
    rcases List.mem_cons.mp hp with rfl | hl
    · exact (WorkEnds.foldl (workEnds_stopOne code detail) l _).still p.1 p.2 (stopOne_stops code detail d p)
    · exact ih _ hl

theorem workEnds_closeThread (d : Die) (p : CoreId × Bool) : WorkEnds d (closeThread d p) := by
  unfold closeThread
  refine workEnds_setCore fun u hu => ?_
  obtain ⟨c, t⟩ := p
  cases t <;> cases u <;> exact hu

theorem workEnds_stopHere (i : Itin) (code detail : Nat) (d : Die) : WorkEnds d (stopHere i code detail d) ∧
    ∀ p ∈ itinThreads d i, (threadAt (stopHere i code detail d) p.1 p.2).run ≠ .running := by
  have hstop := WorkEnds.foldl (workEnds_stopOne code detail) (itinThreads d i) d
  have hread : ∀ (e : Die) (c : CoreId), WorkEnds e (modCore (finishReads e c) c (fun x => { x with stoppedWait := true })) := fun e c =>
    (workEnds_finishReads e c).trans (workEnds_setCore (.of_getThread fun _ => rfl))
  have hrest : WorkEnds ((itinThreads d i).foldl (stopOne code detail) d) (stopHere i code detail d) :=
    ((WorkEnds.foldl hread (hereIds d i) _).trans (.foldl workEnds_closeThread (itinThreads d i) _)).trans (.of_book_cores ⟨rfl, rfl⟩ rfl)
  exact ⟨hstop.trans hrest, fun p hp => hrest.still p.1 p.2 (foldl_stopOne_stops code detail d hp)⟩

/-! ### The flag logs gathered (R125, R282) -/

theorem foldl_logTo_find {id : BitVec 32} (l : List CoreId) {d : Die} {i : Itin} (h : findItin d id = some i) :
    ∃ log lost, findItin (l.foldl (logTo id) d) id = some { i with flagLog := log, flagLost := lost } := by
  induction l generalizing d i with
  | nil => exact ⟨_, _, h⟩
  | cons c l ih =>
    have hstep : ∃ log lost, findItin (logTo id d c) id = some { i with flagLog := log, flagLost := lost } :=
      ⟨_, _, findItin_modItin_self (fun _ => rfl) h⟩
    obtain ⟨_, _, hstep⟩ := hstep
    obtain ⟨_, _, hrest⟩ := ih hstep
    exact ⟨_, _, hrest⟩

theorem foldl_logTo_ident {id : BitVec 32} (l : List CoreId) (d : Die) : (l.foldl (logTo id) d).ident = d.ident :=
  foldl_keeps (f := logTo id) (g := Die.ident) (fun _ _ => rfl) l d

/-! ### An itinerary ended -/

/-- The itinerary has ended in a state and for a reason; its record and event are those of what was submitted. -/
def EndedAs (d u : Die) (i : Itin) (st : ItinState) (reason : BitVec 8) : Prop :=
  ∃ j, Ended d u j ∧ j.id = i.id ∧ j.state = st ∧ j.reason = reason ∧ j.seq = i.seq ∧ j.context = i.context ∧ j.pair = i.pair ∧
    j.record = i.record

theorem Ended.of_ident {d e u : Die} {j : Itin} (h : Ended e u j) (hident : e.ident = d.ident) : Ended d u j where
  entry := h.entry
  word hout := h.word (by rwa [ownOffset, hident])
  event := h.event

/-- The record of an aborted itinerary that no die is awaited for. -/
theorem tryCommit_commits {d : Die} {id : BitVec 32} {i : Itin} (h : findItin d id = some i) (hrun : i.state = .running)
    (hstop : i.stopping = true) (hasked : i.asked = []) : EndedAs d (tryCommit id d) i .aborted i.reason := by
  have hgo : ¬ (i.state ≠ .running || !i.stopping || !i.asked.isEmpty) = true := by simp [hrun, hstop, hasked]
  unfold tryCommit
  simp only [h, if_neg hgo]
  obtain ⟨log, lost, hlog⟩ := foldl_logTo_find (id := id) (hereIds d i) h
  have hfind := findItin_modItin_self (f := fun y => { orFlags (abortFlags ((hereIds d i).foldl (logTo id) d) i) y with stopping := false })
    (fun _ => rfl) hlog
  exact ⟨_, (commitItin_ends .aborted hfind).of_ident (foldl_logTo_ident _ d), rfl, rfl, rfl, rfl, rfl, rfl, rfl⟩

/-- An itinerary that has ended, or awaits a die, is left as it is. -/
theorem tryCommit_waits {d : Die} {id : BitVec 32} {i : Itin} (h : findItin d id = some i) (hwait : i.state ≠ .running ∨ i.asked ≠ []) :
    tryCommit id d = d := by
  have hstay : (i.state ≠ .running || !i.stopping || !i.asked.isEmpty) = true := by
    rcases hwait with hstate | hasked
    · simp [hstate]
    · simp [hasked]
  simp only [tryCommit, h, if_pos hstay]

end Sys2Proof.Machine
end

section
/-! PROOF. Itineraries completed and aborted (R187, R281, R283, R286). -/

namespace Sys2Proof.Machine

/-! ### ITINERARY_COMPLETE -/

theorem sameBook_endHere (i : Itin) (d : Die) : SameBook d (endHere i d) :=
  .trans (.foldl (f := closeThread) (fun _ _ => ⟨rfl, rfl⟩) (itinThreads d i) d)
    (.since (.foldl (f := releaseCore i.id) (fun _ _ => ⟨rfl, rfl⟩) (hereIds d i) _) rfl rfl)

theorem effComplete_ends {d : Die} {id : BitVec 32} {i : Itin} (h : findItin d id = some i) (hrun : i.state = .running)
    (hhome : homeDie id = d.ident.dieNum) (hstop : i.stopping = false) (hreason : i.reason = 0) (hhalted : allHalted i = true) :
    EndedAs d (effComplete id d) i .complete 0 := by
  have hgo : ¬ (i.state ≠ .running || homeDie id ≠ d.ident.dieNum || i.reason ≠ 0 || i.stopping || !allHalted i) = true := by
    simp [hrun, hhome, hstop, hreason, hhalted]
  unfold effComplete
  simp only [h, if_neg hgo]
  obtain ⟨log, lost, hlog⟩ := foldl_logTo_find (id := id) (hereIds d i) h
  have hbook := (sameBook_endHere i ((hereIds d i).foldl (logTo id) d)).trans (sameBook_toPeers _ i (.release id))
  exact ⟨_, (commitItin_ends .complete ((hbook.find id).trans hlog)).of_ident (hbook.ident.trans (foldl_logTo_ident _ d)),
    rfl, rfl, hreason, rfl, rfl, rfl, rfl⟩

/-! ### Aborts at home -/

/-- An itinerary whose cores are stopped on every die: which dies are awaited. -/
structure Stopping (d u : Die) (i : Itin) : Prop where
  entry : ∃ j, findItin u i.id = some j ∧ j.state = .running ∧ j.reason = i.reason ∧ j.stopping = true ∧ j.asked = livePeers d i
  still : ∀ p ∈ itinThreads d i, (threadAt u p.1 p.2).run ≠ .running

/-- An itinerary whose cores are being stopped, with the dies it waits for. -/
def awaiting (peers : List (BitVec 2)) (i : Itin) : Itin := { i with stopping := true, asked := peers }

section Abort

variable {d : Die} {id : BitVec 32} {i : Itin} (h : findItin d id = some i) (hrun : i.state = .running) (hstop : i.stopping = false)
include h hrun hstop

/-- An abort stops every core here, asks the other dies to, and commits what awaits none. -/
theorem abortItin_running (lost : Option (BitVec 2)) : ∃ code detail m, abortItin d id lost =
    tryCommit id (modItin (toPeers (stopHere i code detail d) i m) id (awaiting (livePeers d i))) := by
  have hqueued : ¬ i.state = .queued := by simp [hrun]
  have hnot : ¬ i.stopping = true := by simp [hstop]
  simp only [abortItin, h, if_neg hqueued, if_neg hnot]
  exact ⟨_, _, _, rfl⟩

/-- The die on which a running itinerary's cores have been stopped, and its record may be committed. -/
theorem abortItin_spec (lost : Option (BitVec 2)) : ∃ u j, abortItin d id lost = tryCommit id u ∧ u.ident = d.ident ∧
    findItin u id = some (awaiting (livePeers d i) j) ∧ Reported i j ∧ ∀ p ∈ itinThreads d i, (threadAt u p.1 p.2).run ≠ .running := by
  obtain ⟨code, detail, m, hu⟩ := abortItin_running h hrun hstop lost
  obtain ⟨hends, hstill⟩ := workEnds_stopHere i code detail d
  have hsent : WorkEnds (stopHere i code detail d) (toPeers (stopHere i code detail d) i m) :=
    .of_book_cores (sameBook_toPeers _ i m) (toPeers_cores _ i m)
  have hstopped : ∀ p ∈ itinThreads d i, (threadAt (toPeers (stopHere i code detail d) i m) p.1 p.2).run ≠ .running :=
    fun p hp => hsent.still p.1 p.2 (hstill p hp)
  have hends' := hends.trans hsent
  generalize toPeers (stopHere i code detail d) i m = e at hu hends' hstopped
  obtain ⟨j, hj, hij⟩ := hends'.entries id i h
  exact ⟨_, j, hu, hends'.ident, findItin_modItin_self (fun _ => rfl) hj, hij, hstopped⟩

variable (hreason : i.reason ≠ 0)
include hreason

theorem abortItin_ends (lost : Option (BitVec 2)) (hpeers : livePeers d i = []) :
    EndedAs d (abortItin d id lost) i .aborted i.reason := by
  obtain ⟨u, j, hu, hident, hj, hij, -⟩ := abortItin_spec h hrun hstop lost
  obtain ⟨hid, hstate, -, -, hseq, hctx, hpair, hrecord⟩ := hij.kept
  obtain ⟨k, hk, hkid, hkstate, hkreason, hkseq, hkctx, hkpair, hkrecord⟩ := tryCommit_commits hj (hstate.trans hrun) rfl hpeers
  rw [hu]
  exact ⟨k, hk.of_ident hident, hkid.trans hid, hkstate, hkreason.trans (hij.reason hreason), hkseq.trans hseq, hkctx.trans hctx,
    hkpair.trans hpair, hkrecord.trans hrecord⟩

theorem abortItin_stops (lost : Option (BitVec 2)) (hpeers : livePeers d i ≠ []) : Stopping d (abortItin d id lost) i := by
  obtain ⟨u, j, hu, -, hj, hij, hstill⟩ := abortItin_spec h hrun hstop lost
  obtain ⟨-, hstate, -⟩ := hij.kept
  rw [hu, tryCommit_waits hj (.inr hpeers)]
  exact ⟨⟨awaiting (livePeers d i) j, (findItin_id h).symm ▸ hj, hstate.trans hrun, hij.reason hreason, rfl, rfl⟩, hstill⟩

end Abort

/-! ### ITINERARY_ABORT and TIME_LIMIT -/

section ItinAbort

variable {d : Die} {id : BitVec 32} {i : Itin} (h : findItin d id = some i) (hrun : i.state = .running)
include h hrun

theorem effItinAbort_home (hhome : homeDie id = d.ident.dieNum) (hreason : i.reason ≠ 0) :
    effItinAbort id d = tryCommit id (abortItin d id none) := by
  simp only [effItinAbort, h, if_neg (not_not.mpr hrun), if_pos hhome, if_neg hreason]

/-- A core of this die has faulted in an itinerary of another home. -/
theorem effItinAbort_away {p : CoreId × Bool} (haway : homeDie id ≠ d.ident.dieNum)
    (hp : (itinThreads d i).find? (fun p => (threadAt d p.1 p.2).run == .faulted) = some p) :
    ∃ j, findItin (effItinAbort id d) id = some j ∧ j.state = .aborted := by
  simp only [effItinAbort, h, if_neg (not_not.mpr hrun), if_neg haway, hp]
  obtain ⟨hends, -⟩ := workEnds_stopHere i cfItineraryAborted ((corePlace d p.1).toNat + fld (getCore d p.1).fault 40 8 * 65536) d
  obtain ⟨j, hj, -⟩ := hends.entries id i h
  exact ⟨_, ((sameBook_toPeers _ _ _).find id).trans (findItin_modItin_self (fun _ => rfl) hj), rfl⟩

end ItinAbort

/-- A reason noted leaves what was submitted and how far it has come. -/
theorem noteReason_frame (reason core pc detail : Nat) (i : Itin) : ∃ faultCore faultPc faultDetail,
    noteReason reason core pc detail i = { i with
      reason := if i.reason = 0 then BitVec.ofNat 8 reason else i.reason, faultCore := faultCore, faultPc := faultPc,
      faultDetail := faultDetail } := by
  unfold noteReason
  by_cases h : i.reason = 0
  · exact ⟨_, _, _, by rw [if_neg (not_not.mpr h), if_pos h]⟩
  · exact ⟨_, _, _, by rw [if_pos h, if_neg h]⟩

/-- TIME_LIMIT aborts an itinerary with the reason noted, once its time has passed. -/
theorem effTimeLimit_aborts {d : Die} {id : BitVec 32} {i : Itin} (h : findItin d id = some i) (hrun : i.state = .running)
    (hhome : homeDie id = d.ident.dieNum) (hstop : i.stopping = false) (hlimit : i.timeLimit ≠ 0) : ∃ e j,
    effTimeLimit id d = abortItin e id none ∧ findItin e id = some j ∧ e.ident = d.ident ∧ e.link = d.link ∧ e.cores = d.cores ∧
    ∃ faultCore faultPc faultDetail, j = { i with
      reason := if i.reason = 0 then 0x81 else i.reason, faultCore := faultCore, faultPc := faultPc, faultDetail := faultDetail } := by
  have hgo : ¬ (i.state ≠ .running || homeDie id ≠ d.ident.dieNum || i.timeLimit = 0 || i.stopping) = true := by
    simpa [hrun, hhome, hstop] using hlimit
  simp only [effTimeLimit, h, if_neg hgo, abortFor]
  refine ⟨_, _, rfl, findItin_modItin_self (fun j => ?_) (i := i) h, rfl, rfl, rfl, noteReason_frame _ _ _ _ _⟩
  obtain ⟨_, _, _, hnote⟩ := noteReason_frame 0x81 0 0 0 j
  rw [hnote]

end Sys2Proof.Machine
end

section
/-! PROOF. Reservations given and given back, refusals, and the settling of an aborted itinerary's links (R185, R186, R188, R215, R280). -/

namespace Sys2Proof.Machine

/-! ### Threads left as they were -/

def SameThreads (d u : Die) : Prop := ∀ k t, threadAt u k t = threadAt d k t

namespace SameThreads

theorem of_cores {d u : Die} (h : u.cores = d.cores) : SameThreads d u := fun k _ => by rw [threadAt, getCore_of_cores h k]

theorem trans {d e u : Die} (h : SameThreads d e) (h' : SameThreads e u) : SameThreads d u := fun k t => (h' k t).trans (h k t)

theorem foldl {α : Type} {f : Die → α → Die} (hf : ∀ e x, SameThreads e (f e x)) (l : List α) (d : Die) : SameThreads d (l.foldl f d) := by
  induction l generalizing d with
  | nil => exact fun _ _ => rfl
  | cons x l ih => exact (hf d x).trans (ih (f d x))

end SameThreads

theorem sameThreads_setCore {d : Die} {c : CoreId} {x : Core} (h : ∀ t, getThread x t = threadAt d c t) :
    SameThreads d (setCore d c x) := fun k t => by
  by_cases hk : k = c
  · rw [hk, threadAt, getCore_setCore]
    exact h t
  · rw [threadAt, getCore_setCore_ne d x hk]

theorem SameThreads.of_setCore {d u : Die} (c : CoreId) (x : Core) (hcores : u.cores = (setCore d c x).cores)
    (h : ∀ t, getThread x t = threadAt d c t) : SameThreads d u :=
  (sameThreads_setCore h).trans (.of_cores hcores)

/-! ### Store reserved (R185) -/

/-- A reservation touches cores, their counts and the free values drawn. -/
theorem reserveHere_frame (i : Itin) (d : Die) : ∃ cores freeCtr flt, reserveHere i d = { d with
    cores := cores, freeCtr := freeCtr, flt := flt } :=
  List.foldlRecOn (motive := fun u : Die => ∃ cores freeCtr flt, u = { d with cores := cores, freeCtr := freeCtr, flt := flt })
    (hereIds d i) _ ⟨_, _, _, rfl⟩ (by
      rintro _ ⟨_, _, _, rfl⟩ c -
      exact ⟨_, _, _, rfl⟩)

theorem sameBook_reserveHere (i : Itin) (d : Die) : SameBook d (reserveHere i d) := by
  obtain ⟨_, _, _, h⟩ := reserveHere_frame i d
  rw [h]
  exact ⟨rfl, rfl⟩

theorem reserveHere_mem (i : Itin) (d : Die) : (reserveHere i d).mem = d.mem := by
  obtain ⟨_, _, _, h⟩ := reserveHere_frame i d
  rw [h]

theorem reserveHere_power (i : Itin) (d : Die) : (reserveHere i d).power = d.power := by
  obtain ⟨_, _, _, h⟩ := reserveHere_frame i d
  rw [h]

theorem reserveCore_cores (i : Itin) (d : Die) (c : CoreId) : ∃ areas, (reserveCore i d c).cores = (setCore d c { getCore d c with
    reserved := (getCore d c).reserved ++ [(i.id, resBytes d i c)], areas := areas }).cores := ⟨_, rfl⟩

theorem sameThreads_reserveHere (i : Itin) (d : Die) : SameThreads d (reserveHere i d) :=
  .foldl (f := reserveCore i) (fun e c => by
    obtain ⟨areas, hcores⟩ := reserveCore_cores i e c
    exact .of_setCore c _ hcores fun _ => rfl) _ d

/-! ### Store given back (R185, R188, R280) -/

/-- What a core holds for one itinerary dropped. -/
def dropReserved (id : BitVec 32) (x : Core) : Core := { x with
  reserved := x.reserved.filter (fun p => p.1 != id), areas := x.areas.filter (fun p => p.1 != id),
  members := x.members.filter (fun m => m.itin != id) }

theorem releaseCore_cores (id : BitVec 32) (d : Die) (c : CoreId) :
    (releaseCore id d c).cores = (setCore d c (dropReserved id (getCore d c))).cores := rfl

theorem getCore_releaseCore (id : BitVec 32) (d : Die) (c : CoreId) : getCore (releaseCore id d c) c = dropReserved id (getCore d c) := by
  rw [getCore_of_cores (releaseCore_cores id d c), getCore_setCore]

theorem getCore_releaseCore_ne (id : BitVec 32) (d : Die) {c k : CoreId} (h : k ≠ c) : getCore (releaseCore id d c) k = getCore d k := by
  rw [getCore_of_cores (releaseCore_cores id d c), getCore_setCore_ne d _ h]

theorem sameThreads_releaseCore (id : BitVec 32) (d : Die) (c : CoreId) : SameThreads d (releaseCore id d c) :=
  .of_setCore c _ (releaseCore_cores id d c) fun _ => rfl

theorem unreserve_spec {d : Die} {i : Itin} (h : findItin d i.id = some i) :
    findItin (unreserve i d) i.id = some { i with asked := [], replies := [] } ∧ SameThreads d (unreserve i d) := by
  have hbook : SameBook d ((hereIds d i).foldl (releaseCore i.id) d) := .foldl (f := releaseCore i.id) (fun _ _ => ⟨rfl, rfl⟩) _ d
  have hthreads : SameThreads d ((hereIds d i).foldl (releaseCore i.id) d) := .foldl (sameThreads_releaseCore i.id) _ d
  unfold unreserve
  extract_lets d1 d2
  have hsent : SameBook d1 d2 := .foldl (fun e _ => sameBook_sendPeer e _ _) _ d1
  have hcores : d2.cores = d1.cores := foldl_keeps (g := Die.cores) (fun e _ => sendPeer_cores e _ _) _ d1
  exact ⟨findItin_modItin_self (fun _ => rfl) (((hbook.trans hsent).find i.id).trans h),
    hthreads.trans ((SameThreads.of_cores hcores).trans (.of_cores rfl))⟩

/-! ### A refusal (R186) -/

theorem refuseItin_spec {d : Die} {id : BitVec 32} {i : Itin} (core : BitVec 16) (short : Nat) (h : findItin d id = some i) :
    findItin (refuseItin d id core short) id = some { i with
      state := .refused, reason := 0x82, faultCore := core, faultDetail := BitVec.ofNat 32 short } ∧
    SameThreads d (refuseItin d id core short) := by
  have hfind := findItin_modItin_self
    (f := fun i => { i with reason := 0x82, faultCore := core, faultDetail := BitVec.ofNat 32 short }) (fun _ => rfl) h
  exact ⟨findItin_id h ▸ (commitItin_ends .refused hfind).entry, .of_cores (commitItin_cores _ _ _)⟩

/-! ### Links settled (R188, R215) -/

/-- A core that holds nothing more for an itinerary. -/
def Released (id : BitVec 32) (x : Core) : Prop := (∀ p ∈ x.reserved, p.1 ≠ id) ∧ ∀ y ∈ x.members, y.itin ≠ id

theorem getCore_settleCore_ne (i : Itin) (d : Die) {c k : CoreId} (h : k ≠ c) : getCore (settleCore i d c) k = getCore d k := by
  unfold settleCore
  rw [getCore_releaseCore_ne _ _ h, getCore_of_cores (drew_cores _), getCore_modCore_ne d _ h]

theorem released_settleCore (i : Itin) (d : Die) (c : CoreId) : Released i.id (getCore (settleCore i d c) c) := by
  unfold settleCore
  rw [getCore_releaseCore]
  exact ⟨fun p hp => by simpa using (List.mem_filter.mp hp).2, fun y hy => by simpa using (List.mem_filter.mp hy).2⟩

theorem foldl_settleCore_released (i : Itin) (l : List CoreId) (d : Die) {c : CoreId} (h : c ∈ l ∨ Released i.id (getCore d c)) :
    Released i.id (getCore (l.foldl (settleCore i) d) c) := by
  induction l generalizing d with
  | nil => exact h.resolve_left List.not_mem_nil
  | cons k l ih =>
    refine ih (settleCore i d k) ?_
    by_cases hk : c = k
    · exact .inr (hk ▸ released_settleCore i d k)
    · rw [getCore_settleCore_ne i d hk]
      exact h.imp_left fun hmem => (List.mem_cons.mp hmem).resolve_left hk

/-- Settling touches cores, their counts and the free values drawn. -/
theorem foldl_settleCore_frame (i : Itin) (l : List CoreId) (d : Die) : ∃ cores freeCtr flt, l.foldl (settleCore i) d = { d with
    cores := cores, freeCtr := freeCtr, flt := flt } :=
  List.foldlRecOn (motive := fun u : Die => ∃ cores freeCtr flt, u = { d with cores := cores, freeCtr := freeCtr, flt := flt })
    l _ ⟨_, _, _, rfl⟩ (by
      rintro _ ⟨_, _, _, rfl⟩ c -
      exact ⟨_, _, _, rfl⟩)

theorem effSettled_spec {d : Die} {id : BitVec 32} {i : Itin} (h : findItin d id = some i) (hstate : i.state = .aborted)
    (hsettled : i.settled = false) (hagree : linksAgree d i = true) :
    let u := effSettled id d
    findItin u id = some { i with settled := true } ∧ (∀ c ∈ hereIds d i, Released id (getCore u c)) ∧
      (∀ h ∈ u.ledger.holds, ¬ (h.itin = id ∧ h.waybill = none)) ∧ u.mem = d.mem ∧ u.pkg = d.pkg := by
  have hgo : ¬ (i.state ≠ .aborted || i.settled || !linksAgree d i) = true := by simp [hstate, hsettled, hagree]
  have hu : effSettled id d = modItin (dropItinHolds ((hereIds d i).foldl (settleCore i) d) id) id (fun i => { i with settled := true }) := by
    simp only [effSettled, h, if_neg hgo]
  have hreleased : ∀ c ∈ hereIds d i, Released id (getCore ((hereIds d i).foldl (settleCore i) d) c) := fun c hc =>
    findItin_id h ▸ foldl_settleCore_released i (hereIds d i) d (.inl hc)
  dsimp only
  rw [hu]
  obtain ⟨_, _, _, hframe⟩ := foldl_settleCore_frame i (hereIds d i) d
  rw [hframe] at hreleased ⊢
  refine ⟨findItin_modItin_self (fun _ => rfl) h, hreleased, fun y hy => ?_, rfl, rfl⟩
  simpa [Option.isSome_iff_ne_none, imp_iff_not_or] using (List.mem_filter.mp hy).2

end Sys2Proof.Machine
end

section
/-! PROOF. What is left alone while an itinerary's cores are made ready (R185, R279): threads, and the itineraries that are not aborted. -/

namespace Sys2Proof.Machine

/-! ### A core made ready -/

/-- The threads of a core are as they were. -/
def ThreadsKept (x y : Core) : Prop := ∀ t, getThread y t = getThread x t

namespace ThreadsKept

theorem refl (x : Core) : ThreadsKept x x := fun _ => rfl

theorem trans {x y z : Core} (h : ThreadsKept x y) (h' : ThreadsKept y z) : ThreadsKept x z := fun t => (h' t).trans (h t)

theorem foldl {α : Type} {f : Core → α → Core} (hf : ∀ y a, ThreadsKept y (f y a)) (l : List α) (x : Core) : ThreadsKept x (l.foldl f x) := by
  induction l generalizing x with
  | nil => exact refl x
  | cons a l ih => exact (hf x a).trans (ih (f x a))

theorem ite {p : Prop} {_ : Decidable p} {x y z : Core} (hy : ThreadsKept x y) (hz : ThreadsKept x z) :
    ThreadsKept x (if p then y else z) := by
  split
  exacts [hy, hz]

end ThreadsKept

theorem threadsKept_clearReg (x : Core) (hs : HalfSel) (q : Nat) : ThreadsKept x (clearReg x hs q) := fun t => by
  obtain ⟨_, _, _, _, _, _, _, _, _, _, h⟩ := regsMoved_clearReg x hs q
  rw [h]
  rfl

theorem threadsKept_settleIdle (x : Core) : ThreadsKept x (settleIdle x) := fun t => (poisoned_settleIdle x).getThread t

theorem threadsKept_accWrite (v : BitVec 32) (x : Core) : ThreadsKept x (accWrite v x) := threadsKept_settleIdle { x with accHeld := some v }

theorem threadsKept_abftWrite (h floor : Bool) (v : BitVec 32) (x : Core) : ThreadsKept x (abftWrite h floor v x) :=
  threadsKept_settleIdle { x with abftHeld := x.abftHeld ++ [(h, floor, v)] }

theorem threadsKept_setAbft (i : Itin) (x : Core) (h : Bool) : ThreadsKept x (setAbft i x h) :=
  (threadsKept_abftWrite _ _ _ _).trans (threadsKept_abftWrite _ _ _ _)

theorem threadsKept_splitFor (i : Itin) (e : ItinCore) (x : Core) : ThreadsKept x (splitFor i e x) := .ite (.refl x) fun _ => rfl

theorem threadsKept_setThreadCfg (i : Itin) (e : ItinCore) (x : Core) (t : Bool) : ThreadsKept x (setThreadCfg i e x t) :=
  .ite (fun _ => rfl) fun _ => rfl

/-- A core with an entry's split, accumulator mode, ABFT and thread registers set. -/
def readied (i : Itin) (e : ItinCore) (x : Core) : Core :=
  let x1 := splitFor i e x
  let x2 := if e.shadow = bitB x1.accCfg 0 then x1 else accWrite (BitVec.ofNat 32 (b2n e.shadow)) x1
  (entryThreads e).foldl (setThreadCfg i e) ((entryThreads e).foldl (setAbft i) x2)

theorem threadsKept_readied (i : Itin) (e : ItinCore) (x : Core) : ThreadsKept x (readied i e x) := by
  unfold readied
  extract_lets x1 x2
  have hx2 : ThreadsKept x x2 := (threadsKept_splitFor i e x).trans (.ite (.refl x1) (threadsKept_accWrite _ x1))
  exact hx2.trans ((ThreadsKept.foldl (threadsKept_setAbft i) _ x2).trans (.foldl (threadsKept_setThreadCfg i e) _ _))

/-! ### Itineraries that are not aborted -/

/-- The states and phases of the book, in its order. -/
def phases (d : Die) : List (ItinState × BitVec 8) := d.stew.itins.map fun j => (j.state, j.phase)

/-- Only entries of aborted itineraries moved, and neither their states nor their phases. -/
structure LiveKept (d u : Die) : Prop where
  ident : u.ident = d.ident
  live : ∀ x j, findItin d x = some j → j.state ≠ .aborted → findItin u x = some j
  phases : Machine.phases u = Machine.phases d

namespace LiveKept

theorem of_book {d u : Die} (h : SameBook d u) : LiveKept d u :=
  ⟨h.ident, fun x _ hj _ => (h.find x).trans hj, by rw [Machine.phases, h.itins, Machine.phases]⟩

theorem refl (d : Die) : LiveKept d d := of_book (.refl d)

theorem trans {d e u : Die} (h : LiveKept d e) (h' : LiveKept e u) : LiveKept d u :=
  ⟨h'.ident.trans h.ident, fun x j hj hlive => h'.live x j (h.live x j hj hlive) hlive, h'.phases.trans h.phases⟩

theorem foldl {α : Type} {f : Die → α → Die} (hf : ∀ e x, LiveKept e (f e x)) (l : List α) (d : Die) : LiveKept d (l.foldl f d) := by
  induction l generalizing d with
  | nil => exact refl d
  | cons x l ih => exact (hf d x).trans (ih (f d x))

end LiveKept

/-- An aborted itinerary's count of poisoned registers moved. -/
theorem liveKept_setPoison {d : Die} {id : BitVec 32} (n : BitVec 32) (h : ∀ j, findItin d id = some j → j.state = .aborted) :
    LiveKept d (modItin d id (fun i => { i with npoison := n })) where
  ident := rfl
  live x j hj hlive := by
    have hother : j.id ≠ id := fun hid => hlive (h j (by rw [← hid, findItin_id hj, hj]))
    rw [findItin_modItin d id x (f := fun i => { i with npoison := n }) (fun _ => rfl), hj, Option.map_some, if_neg hother]
  phases := by
    simp only [phases, modItin, List.map_map]
    refine List.map_congr_left fun j _ => ?_
    dsimp only [Function.comp_apply]
    split <;> rfl

theorem liveKept_addPoison (id : BitVec 32) (words : List (BitVec 64)) (d : Die) : LiveKept d (addPoison id words d) := by
  unfold addPoison
  split
  · exact .refl d
  · next i hi =>
    dsimp only
    split
    · exact .refl d
    · next hgo =>
      have haborted : i.state = .aborted := by
        by_contra hne
        simp [hne] at hgo
      have hbook := (sameBook_argWrite d (poisonAt i + 8 * i.npoison.toNat) (words.flatMap (fun w => leBytes 8 w.toNat))).trans
        (sameBook_argWrite _ (i.record.toNat + 0x2C) (leBytes 4 (i.npoison + BitVec.ofNat 32 words.length).toNat))
      refine (LiveKept.of_book hbook).trans (liveKept_setPoison _ fun j hj => ?_)
      rw [hbook.find, hi] at hj
      exact Option.some.inj hj ▸ haborted

theorem addPoison_cores (id : BitVec 32) (words : List (BitVec 64)) (d : Die) : (addPoison id words d).cores = d.cores := by
  unfold addPoison
  split
  · rfl
  · dsimp only
    split
    · rfl
    · exact (argWrite_cores _ _ _).trans (argWrite_cores _ _ _)

theorem collectPoison_keeps (d : Die) (c : CoreId) (h : Bool) : LiveKept d (collectPoison d c h) ∧ SameThreads d (collectPoison d c h) := by
  unfold collectPoison
  extract_lets x regs word d1
  have hbook : LiveKept d d1 := .of_book ⟨rfl, rfl⟩
  have hthreads : SameThreads d d1 := sameThreads_setCore fun t =>
    ThreadsKept.foldl (fun y q => threadsKept_clearReg y (if h then .h1 else .h0) q) regs _ t
  split
  · exact ⟨hbook, hthreads⟩
  · split
    · exact ⟨hbook, hthreads⟩
    · split
      · exact ⟨hbook.trans (liveKept_addPoison _ _ _), hthreads.trans (.of_cores (addPoison_cores _ _ _))⟩
      · exact ⟨hbook.trans (.of_book (sameBook_sendPeer _ _ _)), hthreads.trans (.of_cores (sendPeer_cores _ _ _))⟩

theorem sameBook_writeRing (c : CoreId) (n : Nat) (v : BitVec 64) (d : Die) : SameBook d (writeRing c n v d) := .ite ⟨rfl, rfl⟩ (.refl d)

theorem sameBook_setRings (i : Itin) (d : Die) (c : CoreId) : SameBook d (setRings i d c) := by
  refine .foldl (fun e p => ?_) _ d
  exact (sameBook_writeRing c p.1.ring.toNat _ e).trans ⟨rfl, rfl⟩

theorem sameBook_initTallies (i : Itin) (d : Die) : SameBook d (initTallies i d) := by
  refine .foldl (fun e w => ?_) _ d
  exact .ite ⟨rfl, rfl⟩ (.refl e)

end Sys2Proof.Machine
end

section
/-! PROOF. Threads started (R185, R279). -/

namespace Sys2Proof.Machine

/-- A thread that has just been started for an entry. -/
structure Started (id : BitVec 32) (e : ItinCore) (th : Thread) : Prop where
  run : th.run = .running
  pc : th.pc = e.pc.toNat
  itin : th.itin = some id
  loops : th.loops = []
  preds : th.preds = Thread.reset.preds

/-- Two entries that share no thread. -/
def Apart (a b : ItinCore) : Prop := a.core ≠ b.core ∨ (a.half = .h0 ∧ b.half = .h1) ∨ (a.half = .h1 ∧ b.half = .h0)

/-- The thread an entry starts. -/
def startsAt (e : ItinCore) : Bool := e.half == .h1

theorem Apart.other {a b : ItinCore} (h : Apart a b) : a.core ≠ b.core ∨ startsAt a ∉ entryThreads b := by
  refine h.imp_right ?_
  rintro (⟨ha, hb⟩ | ⟨ha, hb⟩) <;> simp [startsAt, entryThreads, ha, hb]

/-- The thread of a core started for an entry, its work area the `k`th. -/
def launched (i : Itin) (e : ItinCore) (k : Nat) (x : Core) : Core :=
  let y := setThread x (startsAt e) (startThread i.id e.pc.toNat (loadRegs e (areaOf x i.id k)) (getThread x (startsAt e)))
  if e.half = .full then { y with t1 := { y.t1 with run := .idle, itin := some i.id } } else y

theorem launched_starts (i : Itin) (e : ItinCore) (k : Nat) (x : Core) : Started i.id e (getThread (launched i e k x) (startsAt e)) := by
  have hsame : getThread (launched i e k x) (startsAt e) =
      startThread i.id e.pc.toNat (loadRegs e (areaOf x i.id k)) (getThread x (startsAt e)) := by
    cases hhalf : e.half <;> simp [launched, startsAt, hhalf, getThread, setThread]
  rw [hsame]
  exact ⟨rfl, rfl, rfl, rfl, rfl⟩

theorem getThread_launched_other {i : Itin} {e : ItinCore} {k : Nat} {x : Core} {t : Bool} (h : t ∉ entryThreads e) :
    getThread (launched i e k x) t = getThread x t := by
  cases hhalf : e.half <;> cases t <;> simp [launched, startsAt, entryThreads, hhalf, getThread, setThread] at h ⊢

/-- The poison of an entry's halves collected. -/
def collected (e : ItinCore) (d : Die) : Die := (entryThreads e).foldl (fun y h => collectPoison y e.core h) d

theorem admitEntry_eq (i : Itin) (d : Die) (p : ItinCore × Nat) :
    admitEntry i d p = modCore (collected p.1 d) p.1.core (fun x => launched i p.1 p.2 (readied i p.1 x)) := rfl

theorem collected_keeps (e : ItinCore) (d : Die) : LiveKept d (collected e d) ∧ SameThreads d (collected e d) :=
  ⟨.foldl (fun y h => (collectPoison_keeps y e.core h).1) _ d, .foldl (fun y h => (collectPoison_keeps y e.core h).2) _ d⟩

theorem liveKept_admitEntry (i : Itin) (d : Die) (p : ItinCore × Nat) : LiveKept d (admitEntry i d p) := by
  rw [admitEntry_eq]
  exact (collected_keeps p.1 d).1.trans (.of_book ⟨rfl, rfl⟩)

theorem admitEntry_starts (i : Itin) (d : Die) (p : ItinCore × Nat) :
    Started i.id p.1 (threadAt (admitEntry i d p) p.1.core (startsAt p.1)) := by
  rw [admitEntry_eq, threadAt, getCore_modCore]
  exact launched_starts i p.1 p.2 _

theorem threadAt_admitEntry_other {i : Itin} {d : Die} {p : ItinCore × Nat} {c : CoreId} {t : Bool}
    (h : c ≠ p.1.core ∨ t ∉ entryThreads p.1) : threadAt (admitEntry i d p) c t = threadAt d c t := by
  rw [admitEntry_eq, threadAt, ← (collected_keeps p.1 d).2 c t]
  by_cases hc : c = p.1.core
  · subst hc
    rw [getCore_modCore, getThread_launched_other (h.resolve_left fun hne => hne rfl)]
    exact threadsKept_readied i p.1 _ t
  · rw [getCore_modCore_ne _ _ hc]

theorem threadAt_foldl_admitEntry_other {i : Itin} {c : CoreId} {t : Bool} (l : List (ItinCore × Nat)) (d : Die)
    (h : ∀ p ∈ l, c ≠ p.1.core ∨ t ∉ entryThreads p.1) : threadAt (l.foldl (admitEntry i) d) c t = threadAt d c t := by
  induction l generalizing d with
  | nil => rfl
  | cons p l ih =>
    obtain ⟨hp, hl⟩ := List.forall_mem_cons.mp h
    exact (ih _ hl).trans (threadAt_admitEntry_other hp)

theorem foldl_admitEntry_starts {i : Itin} {l : List (ItinCore × Nat)} (d : Die) (hapart : (l.map Prod.fst).Pairwise Apart)
    {p : ItinCore × Nat} (hp : p ∈ l) : Started i.id p.1 (threadAt (l.foldl (admitEntry i) d) p.1.core (startsAt p.1)) := by
  induction l generalizing d with
  | nil => exact absurd hp List.not_mem_nil
  | cons q l ih =>
    obtain ⟨hq, hrest⟩ := List.pairwise_cons.mp hapart
    rcases List.mem_cons.mp hp with rfl | hl
    · rw [List.foldl_cons, threadAt_foldl_admitEntry_other l _ fun r hr => (hq r.1 (List.mem_map_of_mem hr)).other]
      exact admitEntry_starts i d p
    · exact ih _ hrest hl

theorem entryPlace_fst (d : Die) (i : Itin) : (entryPlace d i).map Prod.fst = hereCores d i := by
  simp only [entryPlace, List.map_map]
  exact List.zipIdx_map_fst 0 _

theorem startHere_starts {i : Itin} {d : Die} (hapart : (hereCores d i).Pairwise Apart) {e : ItinCore} (he : e ∈ hereCores d i) :
    Started i.id e (threadAt (startHere i d) e.core (startsAt e)) := by
  rw [← entryPlace_fst] at hapart he
  obtain ⟨p, hp, rfl⟩ := List.mem_map.mp he
  exact foldl_admitEntry_starts _ hapart hp

theorem liveKept_startHere (i : Itin) (d : Die) : LiveKept d (startHere i d) := by
  have hrings : SameBook d ((hereIds d i).foldl (setRings i) d) := .foldl (sameBook_setRings i) _ d
  have hmembers := hrings.trans (.foldl (f := addMember) (fun _ _ => ⟨rfl, rfl⟩) (i.links.flatMap (linkMembers d i)) _)
  exact (LiveKept.of_book (hmembers.trans (sameBook_initTallies i _))).trans (.foldl (liveKept_admitEntry i) (entryPlace d i) _)

/-! ### An itinerary started (R185, R280, R336) -/

theorem findItin_runItin (d : Die) (i : Itin) : findItin (runItin d i) i.id =
    some { i with state := .running, admitted := some d.power.refCnt, asked := [], replies := [] } := by
  have hnone : (d.stew.itins.filter (fun y => y.id != i.id)).find? (fun y => decide (y.id = i.id)) = none :=
    List.find?_eq_none.mpr fun y hy => by simpa using (List.mem_filter.mp hy).2
  simp [findItin, runItin, List.find?_append, hnone]

theorem phases_runItin (d : Die) (i : Itin) : ∃ l, phases (runItin d i) = l ++ [(.running, i.phase)] :=
  ⟨_, List.map_append⟩

theorem setPhase_phase (d : Die) :
    (setPhase d).power.phase = (((phases d).filter (fun p => p.1 == .running)).getLast?.map (·.2)).getD 3 := by
  simp only [setPhase, phases, List.filter_map, List.getLast?_map, Option.map_map]
  rfl

theorem setPhase_of_last_running {d : Die} {l : List (ItinState × BitVec 8)} {p : BitVec 8} (h : phases d = l ++ [(.running, p)]) :
    (setPhase d).power.phase = p := by
  simp [setPhase_phase, h]

theorem sameBook_holdBerths (i : Itin) (d : Die) : SameBook d (holdBerths i d) :=
  .foldl (fun e _ => by
    split
    exacts [⟨rfl, rfl⟩, .refl e]) _ d

theorem holdBerths_cores (i : Itin) (d : Die) : (holdBerths i d).cores = d.cores :=
  foldl_keeps (g := Die.cores) (fun e _ => by split <;> rfl) _ d

theorem hereCores_congr {d u : Die} (h : u.ident = d.ident) (i : Itin) : hereCores u i = hereCores d i := by rw [hereCores, h, hereCores]

/-- The die on which an itinerary's record has been opened and its cores are about to start. -/
def opened (i : Itin) (d : Die) : Die :=
  argWrite (argWrite (runItin d i) (i.record.toNat + 0x40) (List.replicate (mapBytes i) 0)) i.record.toNat
    (commitWord { i with state := .running, flags := 0 })

theorem startItin_eq (i : Itin) (d : Die) :
    startItin i d = setPhase (toPeers (holdBerths i (startHere i (opened i d))) i (.start i.id)) := rfl

theorem startItin_spec (i : Itin) (d : Die) :
    findItin (startItin i d) i.id = some { i with state := .running, admitted := some d.power.refCnt, asked := [], replies := [] } ∧
    (startItin i d).power.phase = i.phase ∧
    ((hereCores d i).Pairwise Apart → ∀ e ∈ hereCores d i, Started i.id e (threadAt (startItin i d) e.core (startsAt e))) := by
  have hopened : SameBook (runItin d i) (opened i d) := (sameBook_argWrite _ _ _).trans (sameBook_argWrite _ _ _)
  have hlast := (sameBook_holdBerths i (startHere i (opened i d))).trans (sameBook_toPeers _ i (.start i.id))
  have hkept : LiveKept (runItin d i) (toPeers (holdBerths i (startHere i (opened i d))) i (.start i.id)) :=
    (LiveKept.of_book hopened).trans ((liveKept_startHere i (opened i d)).trans (.of_book hlast))
  rw [startItin_eq]
  refine ⟨hkept.live _ _ (findItin_runItin d i) (by simp), ?_, fun hapart e he => ?_⟩
  · obtain ⟨l, hl⟩ := phases_runItin d i
    exact setPhase_of_last_running (hkept.phases.trans hl)
  · have hcores : (toPeers (holdBerths i (startHere i (opened i d))) i (.start i.id)).cores = (startHere i (opened i d)).cores :=
      (toPeers_cores _ i _).trans (holdBerths_cores i _)
    rw [← hereCores_congr (d := d) (u := opened i d) hopened.ident] at hapart he
    rw [threadAt, getCore_of_cores (u := setPhase _) hcores]
    exact startHere_starts hapart he

end Sys2Proof.Machine
end

section
/-! PROOF. ITINERARY_ADMIT (R185, R186, R278 to R280). -/

namespace Sys2Proof.Machine

/-- An itinerary of this die at the head of its queue, no die awaited and none of its dies fenced. -/
structure AtHead (d : Die) (id : BitVec 32) (i : Itin) : Prop where
  entry : findItin d id = some i
  queued : i.state = .queued
  home : homeDie id = d.ident.dieNum
  asked : i.asked = []
  first : (waitingOn d (queueKey i)).head?.map (·.id) = some id
  unfenced : (itinPeers d i).any (fun p => d.link.fenced.getLsbD p.toNat) = false

/-- Its cores on this die can take it. -/
structure CanStart (d : Die) (i : Itin) : Prop where
  replies : i.replies = []
  unblocked : blockers d i = false
  fits : (hereCores d i).all (entryFits d) = true
  still : berthMoving d i = false
  partyFree : partyBusy d (i.parties.getD d.ident.dieNum.toNat 0).toNat = false

theorem effAdmitFrom_of_party {d : Die} {id : BitVec 32} {i : Itin} (h : findItin d id = some i) :
    effAdmitFrom id (queueKey i).2 d = effAdmit id d := by
  simp only [effAdmitFrom, h, if_true]

theorem effAdmitFrom_other_party {d : Die} {id : BitVec 32} {q : BitVec 16} (h : ∀ j, findItin d id = some j → (queueKey j).2 ≠ q) :
    effAdmitFrom id q d = d := by
  unfold effAdmitFrom
  split
  · next j hj => rw [if_neg (h j hj)]
  · rfl

section Admit

variable {d : Die} {id : BitVec 32} {i : Itin}

theorem AtHead.passes (h : AtHead d id i) : ¬ (i.state ≠ .queued || homeDie id ≠ d.ident.dieNum ||
    ((waitingOn d (queueKey i)).head?.map (·.id)) ≠ some id || !i.asked.isEmpty ||
    (itinPeers d i).any (fun p => d.link.fenced.getLsbD p.toNat)) = true := by
  simp [h.queued, h.home, h.first, h.asked, h.unfenced]

theorem CanStart.passes (h : CanStart d i) : ¬ (blockers d i || !(hereCores d i).all (entryFits d) || berthMoving d i ||
    partyBusy d (i.parties.getD d.ident.dieNum.toNat 0).toNat) = true := by
  rw [h.unblocked, h.fits, h.still, h.partyFree]
  decide

theorem isEmpty_not_of_ne_nil {α : Type} {l : List α} (h : l ≠ []) : (!l.isEmpty) = true := by simpa using h

/-- Dies that have all reserved refuse nothing. -/
theorem refusal_of_reserved (h : ∀ r ∈ i.replies, ∃ k, r.2 = .reserveOk k) : refusal i = none := by
  unfold refusal
  extract_lets no place
  have hno : no = [] := List.filterMap_eq_nil_iff.mpr fun r hr => by
    obtain ⟨k, hk⟩ := h r hr
    rw [hk]
  have hfind : i.cores.findSome? (fun e => no.find? (fun r => r.1 == place e)) = none :=
    List.findSome?_eq_none_iff.mpr fun _ _ => by rw [hno, List.find?_nil]
  rw [hfind, hno, List.head?_nil]

variable (h : AtHead d id i)
include h

theorem effAdmit_refused {c : BitVec 16} {n : Nat} (hreplies : i.replies ≠ []) (hrefusal : refusal i = some (c, n)) :
    effAdmit id d = refuseItin (unreserve i d) id c n := by
  simp only [effAdmit, h.entry, if_neg h.passes, if_pos (isEmpty_not_of_ne_nil hreplies), hrefusal]

theorem effAdmit_reserved (hreplies : i.replies ≠ []) (hok : ∀ r ∈ i.replies, ∃ k, r.2 = .reserveOk k) :
    effAdmit id d = startItin i d := by
  simp only [effAdmit, h.entry, if_neg h.passes, if_pos (isEmpty_not_of_ne_nil hreplies), refusal_of_reserved hok]
  exact if_pos (List.all_eq_true.mpr fun r hr => by
    obtain ⟨k, hk⟩ := hok r hr
    rw [hk])

variable (hcan : CanStart d i)
include hcan

theorem effAdmit_short {c : CoreId} {n : Nat} (hshort : shortfall d i = some (c, n)) :
    effAdmit id d = refuseItin d id (corePlace d c) n := by
  have hnone : ¬ (!i.replies.isEmpty) = true := by simp [hcan.replies]
  simp only [effAdmit, h.entry, if_neg h.passes, if_neg hnone, if_neg hcan.passes, hshort]

theorem effAdmit_here (hshort : shortfall d i = none) (hpeers : itinPeers d i = []) : effAdmit id d = startItin i (reserveHere i d) := by
  have hnone : ¬ (!i.replies.isEmpty) = true := by simp [hcan.replies]
  simp only [effAdmit, h.entry, if_neg h.passes, if_neg hnone, if_neg hcan.passes, hshort, if_pos (List.isEmpty_iff.mpr hpeers)]

theorem effAdmit_asks (hshort : shortfall d i = none) (hpeers : itinPeers d i ≠ []) : effAdmit id d =
    modItin (toPeers (reserveHere i d) i (.reserve id i.desc i.len)) id (fun y => { y with asked := itinPeers d i }) := by
  have hnone : ¬ (!i.replies.isEmpty) = true := by simp [hcan.replies]
  simp only [effAdmit, h.entry, if_neg h.passes, if_neg hnone, if_neg hcan.passes, hshort, if_neg fun he => hpeers (List.isEmpty_iff.mp he)]

/-- The other dies are asked and nothing has started. -/
theorem effAdmit_asks_spec (hshort : shortfall d i = none) (hpeers : itinPeers d i ≠ []) :
    findItin (effAdmit id d) id = some { i with asked := itinPeers d i } ∧ (effAdmit id d).mem = d.mem ∧ SameThreads d (effAdmit id d) := by
  rw [effAdmit_asks h hcan hshort hpeers]
  have hbook := (sameBook_reserveHere i d).trans (sameBook_toPeers _ i (.reserve id i.desc i.len))
  have hcores := toPeers_cores (reserveHere i d) i (.reserve id i.desc i.len)
  exact ⟨findItin_modItin_self (f := fun y => { y with asked := itinPeers d i }) (fun _ => rfl) ((hbook.find id).trans h.entry),
    (toPeers_mem _ _ _).trans (reserveHere_mem i d), (sameThreads_reserveHere i d).trans ((SameThreads.of_cores hcores).trans (.of_cores rfl))⟩

theorem effAdmit_here_spec (hshort : shortfall d i = none) (hpeers : itinPeers d i = []) (hapart : (hereCores d i).Pairwise Apart) :
    findItin (effAdmit id d) id = some { i with state := .running, admitted := some d.power.refCnt, asked := [], replies := [] } ∧
    (effAdmit id d).power.phase = i.phase ∧
    ∀ e ∈ hereCores d i, Started id e (threadAt (effAdmit id d) e.core (startsAt e)) := by
  obtain rfl := findItin_id h.entry
  rw [effAdmit_here h hcan hshort hpeers]
  obtain ⟨hfind, hphase, hstarted⟩ := startItin_spec i (reserveHere i d)
  rw [reserveHere_power] at hfind
  rw [hereCores_congr (sameBook_reserveHere i d).ident] at hstarted
  exact ⟨hfind, hphase, hstarted hapart⟩

end Admit

end Sys2Proof.Machine
end

section
/-! PROOF. Itineraries run: the ends of an itinerary as its commands report them (R187, R281 to R283). -/

namespace Sys2Proof.Machine

theorem EndedAs.report {d u : Die} {i : Itin} {st : ItinState} {reason : BitVec 8} (h : EndedAs d u i st reason) :
    ∃ (j : Itin) (e : Event), findItin u i.id = some j ∧ j.state = st ∧ j.reason = reason ∧
      u.stew.events.getLast? = some e ∧ e.kind = 0x0000 ∧ e.seq = i.seq ∧ e.context = i.context ∧ e.dst = i.pair ∧
      (ownOffset d i.record.toNat = none → memRead u.pkg i.record.toNat 8 = commitWord j) := by
  obtain ⟨j, hended, hid, hstate, hreason, hseq, hctx, hpair, hrecord⟩ := h
  obtain ⟨bytes, hevent⟩ := hended.event
  exact ⟨j, _, hid ▸ hended.entry, hstate, hreason, hevent, rfl, hseq, hctx, hpair, hrecord ▸ hended.word⟩

/-- A record that has been committed is not committed again. -/
theorem EndedAs.tryCommit_eq {d u : Die} {i : Itin} {reason : BitVec 8} (h : EndedAs d u i .aborted reason) : tryCommit i.id u = u := by
  obtain ⟨j, hended, hid, hstate, -⟩ := h
  exact tryCommit_waits (hid ▸ hended.entry) (.inl (by rw [hstate]; decide))

theorem Stopping.tryCommit_eq {d u : Die} {i : Itin} (h : Stopping d u i) (hpeers : livePeers d i ≠ []) : tryCommit i.id u = u := by
  obtain ⟨j, hj, -, -, -, hasked⟩ := h.entry
  exact tryCommit_waits hj (.inr (hasked ▸ hpeers))

theorem livePeers_congr {d e : Die} {i j : Itin} (hident : e.ident = d.ident) (hlink : e.link = d.link) (hcores : j.cores = i.cores) :
    livePeers e j = livePeers d i := by
  simp only [livePeers, itinPeers, otherDies, itinWins, hident, hlink, hcores]

theorem itinThreads_congr {d e : Die} {i j : Itin} (hident : e.ident = d.ident) (hdie : e.cores = d.cores) (hid : j.id = i.id)
    (hcores : j.cores = i.cores) : itinThreads e j = itinThreads d i := by
  simp only [itinThreads, hereIds, hereCores, hident, hid, hcores, getCore_of_cores hdie]

/-- The reason TIME_LIMIT leaves. -/
def lateReason (i : Itin) : BitVec 8 := if i.reason = 0 then 0x81 else i.reason

theorem lateReason_ne_zero (i : Itin) : lateReason i ≠ 0 := by
  unfold lateReason
  split
  · decide
  · assumption

section Late

variable {d : Die} {id : BitVec 32} {i : Itin} (h : findItin d id = some i) (hrun : i.state = .running)
  (hhome : homeDie id = d.ident.dieNum) (hstop : i.stopping = false) (hlimit : i.timeLimit ≠ 0)
include h hrun hhome hstop hlimit

theorem effTimeLimit_ends (hpeers : livePeers d i = []) : EndedAs d (effTimeLimit id d) i .aborted (lateReason i) := by
  obtain ⟨e, j, habort, hj, hident, hlink, -, _, _, _, rfl⟩ := effTimeLimit_aborts h hrun hhome hstop hlimit
  obtain ⟨k, hended, hk⟩ := abortItin_ends hj hrun hstop (lateReason_ne_zero i) none
    ((livePeers_congr hident hlink rfl).trans hpeers)
  exact ⟨k, habort ▸ hended.of_ident hident, hk⟩

theorem effTimeLimit_stops (hpeers : livePeers d i ≠ []) :
    (∃ j, findItin (effTimeLimit id d) id = some j ∧ j.state = .running ∧ j.reason = lateReason i ∧ j.stopping = true ∧
      j.asked = livePeers d i) ∧ ∀ p ∈ itinThreads d i, (threadAt (effTimeLimit id d) p.1 p.2).run ≠ .running := by
  obtain ⟨e, j, habort, hj, hident, hlink, hcores, _, _, _, rfl⟩ := effTimeLimit_aborts h hrun hhome hstop hlimit
  have hsame := livePeers_congr (i := i) (j := { i with reason := lateReason i }) hident hlink rfl
  obtain ⟨⟨k, hk, hkstate, hkreason, hkstop, hkasked⟩, hstill⟩ := abortItin_stops hj hrun hstop (lateReason_ne_zero i) none
    fun hnone => hpeers (hsame.symm.trans hnone)
  rw [habort]
  exact ⟨⟨k, findItin_id h ▸ hk, hkstate, hkreason, hkstop, hkasked.trans hsame⟩,
    fun p hp => hstill p (itinThreads_congr hident hcores rfl rfl ▸ hp)⟩

end Late

section HomeAbort

variable {d : Die} {id : BitVec 32} {i : Itin} (h : findItin d id = some i) (hrun : i.state = .running)
  (hhome : homeDie id = d.ident.dieNum) (hstop : i.stopping = false) (hreason : i.reason ≠ 0)
include h hrun hhome hstop hreason

theorem effItinAbort_ends (hpeers : livePeers d i = []) : EndedAs d (effItinAbort id d) i .aborted i.reason := by
  have hended := abortItin_ends h hrun hstop hreason none hpeers
  rw [effItinAbort_home h hrun hhome hreason]
  obtain rfl := findItin_id h
  rwa [hended.tryCommit_eq]

theorem effItinAbort_stops (hpeers : livePeers d i ≠ []) : Stopping d (effItinAbort id d) i := by
  have hstops := abortItin_stops h hrun hstop hreason none hpeers
  rw [effItinAbort_home h hrun hhome hreason]
  obtain rfl := findItin_id h
  rwa [hstops.tryCommit_eq hpeers]

end HomeAbort

/-- Settles O31: each command's meaning, by the branch its hypotheses take. -/
theorem itinerariesRun : Obligations.ItinerariesRun := by
  unfold Obligations.ItinerariesRun
  refine ⟨fun s id i => ?_, fun s id i => ?_⟩
  · intro d head waits apart refused
    have hhead : head → AtHead d id i := fun ⟨hentry, hqueued, hhome, hasked, hfirst, hunfenced⟩ =>
      ⟨hentry, hqueued, hhome, hasked, hfirst, hunfenced⟩
    have hwaits : waits → AtHead d id i ∧ CanStart d i := fun ⟨h, hreplies, hblock, hfits, hstill, hparty⟩ =>
      ⟨hhead h, hreplies, hblock, hfits, hstill, hparty⟩
    have hstep : ∀ {u : Die}, AtHead d id i → effAdmit id d = u →
        exec (.itineraryAdmit id (queueKey i).2) s = .next (s.withDie u) := fun h hu =>
      onDie_eq ((effAdmitFrom_of_party h.entry).trans hu)
    have hrefused : ∀ {e : Die} {j : Itin} {c : BitVec 16} {k : Nat}, AtHead d id i → effAdmit id d = refuseItin e id c k →
        findItin e id = some j → SameThreads d e → refused c k := fun h hu hj hthreads => by
      obtain ⟨hfind, hsame⟩ := refuseItin_spec _ _ hj
      exact ⟨_, _, hstep h hu, hfind, rfl, rfl, rfl, rfl, hthreads.trans hsame⟩
    refine ⟨fun hw hshort hpeers hapart => ?_, fun hw hshort hpeers => ?_, fun hh hreplies hok => ?_, fun c k hw hshort => ?_,
      fun c k hh hreplies hrefusal => ?_, fun q hq => ?_⟩
    · obtain ⟨hat, hcan⟩ := hwaits hw
      obtain ⟨hfind, hphase, hstarted⟩ := effAdmit_here_spec hat hcan hshort hpeers hapart
      refine ⟨_, hstep hat rfl, hfind, hphase, fun e he => ?_⟩
      obtain ⟨hrun, hpc, hitin, hloops, hpreds⟩ := hstarted e he
      exact ⟨hrun, hpc, hitin, hloops, hpreds⟩
    · obtain ⟨hat, hcan⟩ := hwaits hw
      exact ⟨_, hstep hat rfl, effAdmit_asks_spec hat hcan hshort hpeers⟩
    · exact hstep (hhead hh) (effAdmit_reserved (hhead hh) hreplies hok)
    · obtain ⟨hat, hcan⟩ := hwaits hw
      exact hrefused hat (effAdmit_short hat hcan hshort) hat.entry fun _ _ => rfl
    · have hat := hhead hh
      have hid := findItin_id hat.entry
      obtain ⟨hfind, hthreads⟩ := unreserve_spec (hid ▸ hat.entry)
      exact hrefused hat (effAdmit_refused hat hreplies hrefusal) (hid ▸ hfind) hthreads
    · exact onDie_eq (effAdmitFrom_other_party hq)
  · intro d ended stops home late
    have hended : ∀ {c : Instr} {u : Die} {st : ItinState} {reason : BitVec 8}, findItin d id = some i →
        exec c s = .next (s.withDie u) → EndedAs d u i st reason → ended c st reason := fun h hexec hends => by
      obtain ⟨j, e, hfind, hrest⟩ := hends.report
      exact ⟨_, j, e, hexec, findItin_id h ▸ hfind, hrest⟩
    refine ⟨fun ⟨h, hrun, hhome, hstop⟩ hreason hhalted => ?_, fun ⟨h, hrun, hhome, hstop⟩ hreason hpeers => ?_,
      fun ⟨h, hrun, hhome, hstop⟩ hreason hpeers => ?_, fun ⟨h, hrun, hhome, hstop⟩ hlimit hpeers => ?_,
      fun ⟨h, hrun, hhome, hstop⟩ hlimit hpeers => ?_, fun p h hrun haway hp => ?_, fun h hstate hsettled hagree => ?_⟩
    · exact hended h (onDie_eq rfl) (effComplete_ends h hrun hhome hstop hreason hhalted)
    · exact hended h (onDie_eq rfl) (effItinAbort_ends h hrun hhome hstop hreason hpeers)
    · obtain ⟨⟨j, hfind, hrest⟩, hstill⟩ := effItinAbort_stops h hrun hhome hstop hreason hpeers
      obtain ⟨hjrun, hjreason, hjstop, hjasked⟩ := hrest
      exact ⟨_, j, onDie_eq rfl, findItin_id h ▸ hfind, hjrun, hjreason, hjstop, hjasked, hstill⟩
    · exact hended h (onDie_eq rfl) (effTimeLimit_ends h hrun hhome hstop hlimit hpeers)
    · obtain ⟨⟨j, hfind, hjrun, hjreason, hjstop, hjasked⟩, hstill⟩ := effTimeLimit_stops h hrun hhome hstop hlimit hpeers
      exact ⟨_, j, onDie_eq rfl, hfind, hjrun, hjreason, hjstop, hjasked, hstill⟩
    · obtain ⟨j, hfind, hstate⟩ := effItinAbort_away h hrun haway hp
      exact ⟨_, j, onDie_eq rfl, hfind, hstate⟩
    · exact ⟨_, onDie_eq rfl, effSettled_spec h hstate hsettled hagree⟩

end Sys2Proof.Machine
end

section
/-! PROOF. O22: what MOVE_PHASE_WRITE does with a move whose turn has come (O21 uses it too), demotion, rewrites and the reports of bins
(R217, R219, R220, R224, R225, R227). -/

namespace Sys2Proof.Machine

/-- The n-th move is `m`, waits to begin, and its turn has come: no change of its entry waits, no earlier move of its berth runs, and its
mover has room. -/
structure MoveTurn (d : Die) (n : Nat) (m : Move) : Prop where
  entry : d.ledger.moves[n]? = some m
  waits : m.phase = 0
  settled : uncommitted d m.addr = false
  first : (d.ledger.moves.take n).any (fun y => y.addr == m.addr) = false
  room : m.placed = true ∨ inFlight d m.handle < 16

/-- A move given the place `loc` of `tier`. -/
def placedAt (m : Move) (tier loc : Nat) : Move := { m with placed := true, target := BitVec.ofNat 2 tier, dst := BitVec.ofNat 48 loc }

section Turn

variable {d : Die} {n : Nat} {m : Move} (h : MoveTurn d n m)
include h

theorem effPhaseWrite_blocked {st : Nat} (hb : moveBlocked d m (entryLast d m.addr) = some st) : effPhaseWrite n d = endMove d m st := by
  obtain ⟨hentry, hwaits, hsettled, hfirst, hroom⟩ := h
  have hfits : ¬ (m.placed = false ∧ 16 ≤ inFlight d m.handle) := by
    rintro ⟨hp, hfull⟩
    rcases hroom with hroom | hroom
    exacts [Bool.false_ne_true (hp.symm.trans hroom), by omega]
  simp [effPhaseWrite, hentry, hwaits, hsettled, hfirst, hfits, hb]

/-- A move that nothing blocks goes on as its place asks. -/
theorem effPhaseWrite_open (hb : moveBlocked d m (entryLast d m.addr) = none) :
    (m.placed = true → effPhaseWrite n d = phaseWrite d m) ∧
    (m.placed = false → m.rewrite = true → effPhaseWrite n d = placeRewrite d m) ∧
    (m.placed = false → m.rewrite = false → findPlace d 0 m.target.toNat m.core none = none →
      effPhaseWrite n d = endMove (drew d) m stNoSpace) := by
  obtain ⟨hentry, hwaits, hsettled, hfirst, hroom⟩ := h
  refine ⟨fun hp => ?_, fun hp hr => ?_, fun hp hr hfull => ?_⟩
  · simp [effPhaseWrite, hentry, hwaits, hsettled, hfirst, hb, hp]
  · have hroom : ¬ 16 ≤ inFlight d m.handle := by simpa [hp] using hroom
    simp [effPhaseWrite, hentry, hwaits, hsettled, hfirst, hroom, hb, hp, hr]
  · have hroom : ¬ 16 ≤ inFlight d m.handle := by simpa [hp] using hroom
    simp [effPhaseWrite, hentry, hwaits, hsettled, hfirst, hroom, hb, hp, hr, hfull]

end Turn

/-- The phase write of a move whose berth nothing holds. -/
theorem phaseWrite_free {d : Die} {m : Move} (h : d.ledger.holds.any (fun h => h.handle == m.handle) = false) :
    phaseWrite d m = stewWrite (putMove d m { m with
        phase := 1, srcTier := BitVec.ofNat 2 (entTier (entryLast d m.addr)), src := BitVec.ofNat 48 (entLoc (entryLast d m.addr)) }) m.addr
      (entPut (entryLast d m.addr) (entTier (entryLast d m.addr)) stMoving m.target.toNat (entLoc (entryLast d m.addr)) m.dst.toNat false) := by
  simp [phaseWrite, h]

/-! ### Where a rewrite goes (R225) -/

section Rewrite

variable {d : Die} {m : Move} {loc : Nat}

theorem placeRewrite_bin (h : findPlace d 0 tierCellar none (some (cellarBin (entLoc (entryLast d m.addr)))) = some loc) :
    placeRewrite d m = phaseWrite (takePlace (putMove (drew d) m (placedAt m tierCellar loc)) tierCellar loc) (placedAt m tierCellar loc) := by
  simp only [placeRewrite, h, placedAt]

variable (hbin : findPlace d 0 tierCellar none (some (cellarBin (entLoc (entryLast d m.addr)))) = none)
include hbin

theorem placeRewrite_pool (h : findPlace d 0 tierPackage none none = some loc) :
    placeRewrite d m = phaseWrite (takePlace (putMove (drew d) m (placedAt m tierPackage loc)) tierPackage loc)
      (placedAt m tierPackage loc) := by
  simp only [placeRewrite, hbin, h, placedAt]

theorem placeRewrite_atRisk (h : findPlace d 0 tierPackage none none = none) :
    placeRewrite d m = postEventTo (endMove (drew d) m stNoSpace) 0 0x0015 0 (BitVec.ofNat 32 (handleCtx m.handle))
      (leBytes 8 m.handle.toNat) := by
  simp only [placeRewrite, hbin, h]

end Rewrite

/-! ### Moves the Ledger starts of its own accord (R225, R227) -/

theorem foldl_addMove {α : Type} (f : α → Move) (l : List α) (d : Die) :
    l.foldl (fun e p => addMove e (f p)) d = { d with ledger := { d.ledger with moves := d.ledger.moves ++ l.map f } } := by
  induction l generalizing d with
  | nil => simp
  | cons p l ih => rw [List.foldl_cons, ih]; simp [addMove]

/-- The moves that leave a tier. -/
def leavingTier (d : Die) (tier : Nat) : Nat :=
  (d.ledger.moves.filter (fun m => entTier (entryLast d m.addr) == tier && m.target.toNat != tier)).length

/-- Without a call for the Cellar, only Lodge berths are demoted, and as many as fall short of the threshold. -/
theorem effDemotion_lodge {d : Die} (h : noCellar d = true ∨ d.ledger.pkgLow.toNat ≤ (freePool d).length) :
    effDemotion d = { d with ledger := { d.ledger with moves := d.ledger.moves ++
      ((demotable d tierLodge).take (d.ledger.lodgeLow.toNat - ((freeLodge d none).length + leavingTier d tierLodge))).map (fun p =>
        newMove p.1 p.2 tierPackage none false false) } } := by
  have hpool : (if noCellar d then 0 else d.ledger.pkgLow.toNat - ((freePool d).length + leavingTier d tierPackage)) = 0 := by
    split
    · rfl
    · next hc => have := h.resolve_left hc; omega
  unfold leavingTier at hpool
  simp only [effDemotion, hpool, List.take_zero, List.foldl_nil, foldl_addMove, leavingTier]

theorem effDemotion_enough {d : Die} (hlodge : d.ledger.lodgeLow.toNat ≤ (freeLodge d none).length)
    (hpool : noCellar d = true ∨ d.ledger.pkgLow.toNat ≤ (freePool d).length) : effDemotion d = d := by
  have hnone : d.ledger.lodgeLow.toNat - ((freeLodge d none).length + leavingTier d tierLodge) = 0 := by omega
  rw [effDemotion_lodge hpool, hnone, List.take_zero, List.map_nil, List.append_nil]

/-- A Cellar berth that is due, rests and is not on the move begins one, when no gap sets an order. -/
theorem effRewrite_due {d : Die} {h : BitVec 48} {a : Nat} (hat : entryAddr d h = some a) (hdue : rewriteDue d (entryLast d a) = true)
    (hold : entOldf (entryLast d a) = false) (hstill : moving d a = false) (hgap : d.ledger.gap = false) :
    effRewrite h d = addMove d { newMove h a tierCellar none false false with rewrite := true } := by
  simp [effRewrite, hat, hdue, hold, hstill, hgap]

/-! ### The hub's report of a bin (R224) -/

theorem effCellarBins_one (port : Bool) (first : BitVec 20) (r : BinReport) (d : Die) :
    effCellarBins port first [r] d =
      { d with ledger := { d.ledger with bins := reportBin (b2n port * 2 ^ 20 + first.toNat) r d.ledger.bins } } := by
  simp [effCellarBins, first.isLt]

theorem tabGet_reportBin (key : Nat) (r : BinReport) (t : Tab Bin) : tabGet Bin.reset (reportBin key r t) key =
    ⟨true, if (tabGet Bin.reset t key).reported ∧ (tabGet Bin.reset t key).budget.toNat < r.budget.toNat
      then (tabGet Bin.reset t key).budget else r.budget, r.retention, r.bad⟩ := by
  simp [reportBin]

theorem tabGet_reportBin_ne {key k : Nat} (r : BinReport) (t : Tab Bin) (h : k ≠ key) :
    tabGet Bin.reset (reportBin key r t) k = tabGet Bin.reset t k := tabGet_set_ne _ _ _ h

/-- Settles O22: each command's effect read off its own lemma; where a rewrite goes is the case split of R225. -/
theorem cellarAndDemotion : Obligations.CellarAndDemotion := by
  unfold Obligations.CellarAndDemotion
  intro s port first r h a n m d key b e leaving bin goes turn
  have hgoes : turn → MoveTurn d n m ∧ effPhaseWrite n d = placeRewrite d m := by
    rintro ⟨hentry, hwaits, hplaced, hrewrite, hsettled, hfirst, hroom, hblocked⟩
    have hturn : MoveTurn d n m := ⟨hentry, hwaits, hsettled, hfirst, .inr hroom⟩
    exact ⟨hturn, (effPhaseWrite_open hturn hblocked).2.1 hplaced hrewrite⟩
  refine ⟨⟨_, onDie_eq (effCellarBins_one port first r d), rfl, tabGet_reportBin key r _, fun k hk => tabGet_reportBin_ne r _ hk⟩,
    fun hlodge hpool => onDie_eq (effDemotion_enough hlodge hpool), fun hno => onDie_eq (effDemotion_lodge (.inl hno)),
    fun hat hdue hold hstill hgap => onDie_eq (effRewrite_due hat hdue hold hstill hgap),
    fun loc ht hbin => onDie_eq ((hgoes ht).2.trans (placeRewrite_bin hbin)),
    fun loc ht hbin hpool => onDie_eq ((hgoes ht).2.trans (placeRewrite_pool hbin hpool)),
    fun ht hbin hpool => onDie_eq ((hgoes ht).2.trans (placeRewrite_atRisk hbin hpool))⟩

end Sys2Proof.Machine
end

section
/-! PROOF. Ledger entries: the fields of an entry that is put anew, and entries read from package memory after one is written there
(R210 to R214). -/

namespace Sys2Proof.Machine

/-! ### The fields of an entry -/

/-- A bit is set exactly where its one-bit field reads 1. -/
theorem bitB_eq_fld {w : Nat} (v : BitVec w) (i : Nat) : bitB v i = (fld v i 1 == 1) := by
  rw [fld_one]
  cases bitB v i <;> rfl

section Fields

variable (e : BitVec 128) (tier state dtier loc dest : Nat) (oldf : Bool)

theorem entTier_entPut : entTier (entPut e tier state dtier loc dest oldf) = tier % 4 := by
  simp (disch := decide) only [entTier, entPut, fld_putFld_apart, fld_putFld_same, Nat.reducePow]

theorem entState_entPut : entState (entPut e tier state dtier loc dest oldf) = state % 4 := by
  simp (disch := decide) only [entState, entPut, fld_putFld_apart, fld_putFld_same, Nat.reducePow]

theorem entOldf_entPut : entOldf (entPut e tier state dtier loc dest oldf) = oldf := by
  rw [entOldf, bitB_eq_fld, entPut]
  simp (disch := decide) only [fld_putFld_apart, fld_putFld_same]
  cases oldf <;> rfl

/-- AGE is not among the fields put. -/
theorem entAge_entPut : entAge (entPut e tier state dtier loc dest oldf) = entAge e := by
  simp (disch := decide) only [entAge, entPut, fld_putFld_apart]

end Fields

/-! ### Entries in package memory -/

/-- Two entries lie apart. -/
def EntriesApart (a b : Nat) : Prop := b + 16 ≤ a ∨ a + 16 ≤ b

theorem EntriesApart.symm {a b : Nat} (h : EntriesApart a b) : EntriesApart b a := Or.symm h

theorem pkg128_congr {d u : Die} (h : u.pkg = d.pkg) (a : Nat) : pkg128 u a = pkg128 d a := by rw [pkg128, h, pkg128]

/-- An entry written reads back. -/
@[simp] theorem pkg128_putPkg128 (d : Die) (a : Nat) (v : BitVec 128) : pkg128 (putPkg128 d a v) a = v := by
  have hread := memRead_write d.pkg a (leBytes 16 v.toNat)
  rw [leBytes_length] at hread
  rw [pkg128, putPkg128, memLE, memPutLE, hread, leNat_leBytes 16 _ v.isLt, BitVec.ofNat_toNat, BitVec.setWidth_eq]

/-- An entry written elsewhere leaves an entry as it was. -/
theorem pkg128_putPkg128_apart (d : Die) {a b : Nat} (v : BitVec 128) (h : EntriesApart b a) : pkg128 (putPkg128 d a v) b = pkg128 d b := by
  rw [pkg128, pkg128, memLE, memLE]
  refine congrArg (fun l => BitVec.ofNat 128 (leNat l)) (memRead_congr fun i hi => ?_)
  rw [putPkg128, memPutLE, memGet_write, leBytes_length, if_neg]
  rcases h with h | h <;> omega

/-- With no change of it waiting, an entry reads as package memory holds it, whatever the free value. -/
theorem entryNow_settled {d : Die} {a : Nat} (h : uncommitted d a = false) (fr : BitVec 64) : entryNow d a fr = pkg128 d a := by
  have hnone : d.ledger.writes.find? (fun w => w.addr == a) = none := by
    simpa [uncommitted] using h
  rw [entryNow, hnone]

end Sys2Proof.Machine
end

section
/-! PROOF. What the end of a move, an answer and the check of a copy's rows touch (R191, R200, R219, R223, R268, R287). -/

namespace Sys2Proof.Machine

/-! ### Answers -/

/-- From `d` to `u` only the Steward's state and the frames sent moved. -/
def StewardMoved (d u : Die) : Prop := ∃ stew out, u = { d with stew := stew, out := out }

theorem StewardMoved.trans {d e u : Die} : StewardMoved d e → StewardMoved e u → StewardMoved d u := by
  rintro ⟨_, _, rfl⟩ ⟨_, _, rfl⟩
  exact ⟨_, _, rfl⟩

theorem stewardMoved_respond (d : Die) (m : Msg) (status detail ctx : Nat) (payload : List Byte) :
    StewardMoved d (respond d m status detail ctx payload) := by
  unfold respond
  split
  exacts [⟨_, _, rfl⟩, ⟨_, _, rfl⟩]

theorem stewardMoved_dropReqAt (d : Die) (n : Nat) : StewardMoved d (dropReqAt d n) := ⟨_, _, rfl⟩

theorem stewardMoved_answerUnknown : ∀ (n : Nat) (d : Die), StewardMoved d (answerUnknown n d)
  | 0, _ => ⟨_, _, rfl⟩
  | n + 1, d => by
    unfold answerUnknown
    split
    · exact ⟨_, _, rfl⟩
    · split
      · exact ((stewardMoved_dropReqAt d _).trans (stewardMoved_respond _ _ _ _ _ _)).trans (stewardMoved_answerUnknown n _)
      · exact ⟨_, _, rfl⟩

theorem stewardMoved_answer (d : Die) (n : Nat) (m : Msg) (status detail : Nat) (payload : List Byte) :
    StewardMoved d (answer d n m status detail payload) :=
  ((stewardMoved_dropReqAt d n).trans (stewardMoved_respond _ _ _ _ _ _)).trans (stewardMoved_answerUnknown _ _)

/-! ### Outcomes and ends of moves -/

/-- From `d` to `u` the outcome of an index was noted: jobs, their answers, and the mark of a migration that has ended moved. -/
def OutcomeNoted (d u : Die) : Prop := ∃ jobs pkg stew out, u = { d with
  pkg := pkg, stew := stew, out := out, ledger := { d.ledger with jobs := jobs } }

theorem OutcomeNoted.refl (d : Die) : OutcomeNoted d d := ⟨_, _, _, _, rfl⟩

theorem OutcomeNoted.trans {d e u : Die} : OutcomeNoted d e → OutcomeNoted e u → OutcomeNoted d u := by
  rintro ⟨_, _, _, _, rfl⟩ ⟨_, _, _, _, rfl⟩
  exact ⟨_, _, _, _, rfl⟩

theorem StewardMoved.outcome {d u : Die} : StewardMoved d u → OutcomeNoted d u := by
  rintro ⟨_, _, rfl⟩
  exact ⟨_, _, _, _, rfl⟩

theorem outcomeNoted_finishJob (d : Die) (j : MoveJob) : OutcomeNoted d (finishJob d j) := by
  unfold finishJob
  extract_lets _ d1 slot a d2
  have hd2 : OutcomeNoted d d2 := by
    unfold d2
    split
    exacts [⟨_, _, _, _, rfl⟩, ⟨_, _, _, _, rfl⟩]
  split
  · exact hd2
  · split
    exacts [hd2.trans (stewardMoved_answer _ _ _ _ _ _).outcome, hd2]

theorem outcomeNoted_noteOutcome (d : Die) (h : BitVec 48) (status : Nat) : OutcomeNoted d (noteOutcome d h status) := by
  unfold noteOutcome
  split
  · exact .refl d
  · split
    · exact .refl d
    · next j _ _ =>
      extract_lets j1 _ d1
      have hd1 : OutcomeNoted d d1 := ⟨_, _, _, _, rfl⟩
      split
      exacts [hd1.trans (outcomeNoted_finishJob d1 j1), hd1]

/-- A location given up leaves the free map, and is counted; one that is not in use changes nothing. -/
theorem freeLoc_eq (d : Die) (tier : BitVec 2) (loc : BitVec 48) : ∃ issued returned, freeLoc d tier.toNat loc.toNat = { d with
    ledger := { d.ledger with used := if (tier, loc) ∈ d.ledger.used then d.ledger.used.erase (tier, loc) else d.ledger.used },
    flt := { d.flt with issued := issued, returned := returned } } := by
  by_cases h : (tier, loc) ∈ d.ledger.used
  · simp only [freeLoc, BitVec.ofNat_toNat, BitVec.setWidth_eq, List.contains_eq_mem, h, decide_true, if_true]
    exact ⟨_, _, rfl⟩
  · simp only [freeLoc, BitVec.ofNat_toNat, BitVec.setWidth_eq, List.contains_eq_mem, h, decide_false, Bool.false_eq_true, if_false]
    exact ⟨_, _, rfl⟩

/-- A move that ends leaves the list of moves; its destination is given up and its outcome noted, and no change of an entry is made. -/
theorem endMove_frame (d : Die) (m : Move) (status : Nat) : ∃ used jobs issued returned pkg stew out, endMove d m status = { d with
    pkg := pkg, stew := stew, out := out, flt := { d.flt with issued := issued, returned := returned },
    ledger := { d.ledger with moves := d.ledger.moves.erase m, used := used, jobs := jobs } } := by
  unfold endMove
  extract_lets _ d1 d2
  have hd2 : ∃ used issued returned, d2 = { d with
      flt := { d.flt with issued := issued, returned := returned },
      ledger := { d.ledger with moves := d.ledger.moves.erase m, used := used } } := by
    unfold d2
    split
    · obtain ⟨_, _, h⟩ := freeLoc_eq d1 m.target m.dst
      exact ⟨_, _, _, h⟩
    · exact ⟨_, _, _, rfl⟩
  obtain ⟨_, _, _, hd2⟩ := hd2
  split
  · obtain ⟨_, _, _, _, h⟩ := outcomeNoted_noteOutcome d2 m.handle status
    rw [h, hd2]
    exact ⟨_, _, _, _, _, _, _, rfl⟩
  · exact ⟨_, _, _, _, _, _, _, hd2⟩

/-! ### Rows checked that hold no uncorrectable error -/

theorem retireRow_frame (d : Die) (key : Nat) (ue : Bool) : ∃ retiring events, retireRow d key ue = { d with
    lodge := { d.lodge with retiring := retiring }, stew := { d.stew with events := events } } := by
  unfold retireRow
  split
  · exact ⟨_, _, rfl⟩
  · split
    exacts [⟨_, _, rfl⟩, ⟨_, _, rfl⟩]

/-- A corrected error is counted in its slice's register and weak-row table, and its row may be one to retire. -/
theorem noteCe_frame (d : Die) (key : Nat) : ∃ weak retiring events, noteCe d key = { d with
    lodge := { d.lodge with weak := weak, retiring := retiring, slice := tabMod 0 d.lodge.slice (key / 16384) (sliceCount false) },
    stew := { d.stew with events := events } } := by
  unfold noteCe
  extract_lets k l w count d1
  split
  · obtain ⟨_, _, h⟩ := retireRow_frame d1 key false
    exact ⟨_, _, _, h⟩
  · exact ⟨_, _, _, rfl⟩

/-- From `d` to `u` rows were checked that held corrected errors at most: the Lodge's counts and rows to retire moved, and events. -/
def RowsCorrected (d u : Die) : Prop := ∃ weak retiring slice events, u = { d with
  lodge := { d.lodge with weak := weak, retiring := retiring, slice := slice }, stew := { d.stew with events := events } }

theorem RowsCorrected.refl (d : Die) : RowsCorrected d d := ⟨_, _, _, _, rfl⟩

theorem RowsCorrected.trans {d e u : Die} : RowsCorrected d e → RowsCorrected e u → RowsCorrected d u := by
  rintro ⟨_, _, _, _, rfl⟩ ⟨_, _, _, _, rfl⟩
  exact ⟨_, _, _, _, rfl⟩

theorem senseRow_corrects (src : Nat) {d : Die} {key : Nat} (h : key ∉ d.lodge.ueMark) : RowsCorrected d (senseRow src d key) := by
  have hno : ¬ (d.lodge.ueMark.contains key) = true := by simpa using h
  rw [senseRow, if_neg hno]
  split
  · obtain ⟨_, _, _, he⟩ := noteCe_frame d key
    exact ⟨_, _, _, _, he⟩
  · exact .refl d

theorem foldl_senseRow_corrects (src : Nat) (l : List Nat) {d : Die} (h : ∀ k ∈ l, k ∉ d.lodge.ueMark) :
    RowsCorrected d (l.foldl (senseRow src) d) := by
  induction l generalizing d with
  | nil => exact .refl d
  | cons k l ih =>
    have hk := senseRow_corrects src (h k List.mem_cons_self)
    refine hk.trans (ih fun j hj => ?_)
    obtain ⟨_, _, _, _, he⟩ := hk
    rw [he]
    exact h j (List.mem_cons_of_mem _ hj)

/-- A copy with no uncorrectable error read through the port. -/
theorem senseBerth_corrects {d : Die} {tier loc : Nat} (h : berthUe d tier loc = none) : RowsCorrected d (senseBerth tier loc d) := by
  unfold senseBerth
  split
  · next hown =>
    rw [berthUe, if_pos hown, ueIn] at h
    refine foldl_senseRow_corrects srcPorter _ fun k hk => ?_
    simpa using List.find?_eq_none.mp h k hk
  · exact .refl d

end Sys2Proof.Machine
end

section
/-! PROOF. O21: the copy, the checks, the switch and the release of a berth move (R217 to R219, R228). -/

namespace Sys2Proof.Machine

section Phases

variable {d : Die} {n : Nat} {m : Move}

/-! ### The copy (R217) -/

/-- A copy between two places of package memory. -/
theorem effCopyDone_package (hentry : d.ledger.moves[n]? = some m) (hphase : m.phase = 1) (hsettled : uncommitted d m.addr = false)
    (hsrc : m.srcTier = 1) (hdst : m.target = 1) :
    effCopyDone n true true d = { putMove d m { m with
        phase := 2, crc := crc64 (memRead d.pkg m.src.toNat 0x10000), hubRead := false, age := d.ledger.epoch.setWidth 16 } with
      pkg := memWrite d.pkg m.dst.toNat (memRead d.pkg m.src.toNat 0x10000) } := by
  have hsense : senseBerth m.srcTier.toNat m.src.toNat d = d := by rw [hsrc]; rfl
  have hclean : berthUe d m.srcTier.toNat m.src.toNat = none := by rw [hsrc]; rfl
  have hread : readBerth d m.srcTier.toNat m.src.toNat = some (memRead d.pkg m.src.toNat 0x10000) := by rw [hsrc]; rfl
  have hwrite : ∀ e l, spendBin (writeBerth e m.target.toNat m.dst.toNat (some l)) m.target.toNat m.dst.toNat =
      { e with pkg := memWrite e.pkg m.dst.toNat l } := fun e l => by rw [hdst]; rfl
  unfold effCopyDone
  rw [hentry]
  dsimp only
  rw [if_neg (by simp [hphase, hsettled]), hsense, hclean, hread, hwrite]
  rfl

/-! ### The checks (R218, R219) -/

/-- The rows of both copies as the mover has read them. -/
def bothSensed (d : Die) (m : Move) : Die := senseBerth m.srcTier.toNat m.src.toNat (senseBerth m.target.toNat m.dst.toNat d)

section Verify

variable {crc : BitVec 64} (hentry : d.ledger.moves[n]? = some m) (hphase : m.phase = 2)
  (hsrc : berthUe d m.srcTier.toNat m.src.toNat = none)
include hentry hphase hsrc

theorem effVerify_equal (hdst : berthUe d m.target.toNat m.dst.toNat = none) (hver : verified d m crc = true) :
    effVerify n crc d = putMove (bothSensed d m) m { m with phase := 3 } := by
  simp [effVerify, bothSensed, hentry, hphase, hsrc, hdst, hver]

/-- Copies that differ, or a new one that cannot be read: the first time the copy is made again, the second ends the move. -/
theorem effVerify_differ (hbad : (berthUe d m.target.toNat m.dst.toNat).isSome = true ∨ verified d m crc = false) :
    effVerify n crc d = if m.again then revertMove (bothSensed d m) m
      else putMove (bothSensed d m) m { m with phase := 1, again := true } := by
  have hno : ((berthUe d m.target.toNat m.dst.toNat).isNone && verified d m crc) = false := by
    rcases hbad with h | h
    · rw [Option.isNone_eq_false_iff.mpr h, Bool.false_and]
    · rw [h, Bool.and_false]
  simp [effVerify, bothSensed, hentry, hphase, hsrc, hno]

end Verify

/-- Copies that hold no uncorrectable error are read without a change of memory or of the Ledger. -/
theorem bothSensed_corrects (hsrc : berthUe d m.srcTier.toNat m.src.toNat = none) (hdst : berthUe d m.target.toNat m.dst.toNat = none) :
    RowsCorrected d (bothSensed d m) := by
  have hfirst := senseBerth_corrects hdst
  refine hfirst.trans (senseBerth_corrects ?_)
  obtain ⟨_, _, _, _, he⟩ := hfirst
  rw [he]
  exact hsrc

/-- A move given up after its phase write puts the old place back. -/
theorem revertMove_frame (h : entState (entryLast d m.addr) = stMoving) : (revertMove d m).ledger.moves = d.ledger.moves.erase m ∧
    (revertMove d m).ledger.writes = d.ledger.writes ++
      [⟨m.addr, entPut (entryLast d m.addr) m.srcTier.toNat stValid 0 m.src.toNat 0 false⟩] ∧ (revertMove d m).mem = d.mem := by
  rw [revertMove, if_neg (not_not.mpr h)]
  obtain ⟨_, _, _, _, _, _, _, he⟩ := endMove_frame
    (stewWrite d m.addr (entPut (entryLast d m.addr) m.srcTier.toNat stValid 0 m.src.toNat 0 false)) m stMoveFailed
  rw [he]
  exact ⟨rfl, rfl, rfl⟩

/-! ### The switch and the release (R217, R226, R228) -/

theorem effSwitch_moving (hentry : d.ledger.moves[n]? = some m) (hphase : m.phase = 3) (h : entState (entryLast d m.addr) = stMoving) :
    effSwitch n d = stewWrite (putMove d m { m with phase := 4 }) m.addr
      (if m.target = 2 then
        putFld (entPut (entryLast d m.addr) m.target.toNat stValid m.srcTier.toNat m.dst.toNat m.src.toNat true) 96 16 m.age.toNat
       else entPut (entryLast d m.addr) m.target.toNat stValid m.srcTier.toNat m.dst.toNat m.src.toNat true) := by
  simp [effSwitch, hentry, hphase, h]

theorem effSwitch_lost (hentry : d.ledger.moves[n]? = some m) (hphase : m.phase = 3) (h : entState (entryLast d m.addr) ≠ stMoving) :
    effSwitch n d = endMove d m stBerthLost := by
  simp [effSwitch, hentry, hphase, h]

/-- Once no hold names the old place, it is given up and OLDF cleared. -/
theorem effRelease_free (hentry : d.ledger.moves[n]? = some m) (hphase : m.phase = 4) (htold : m.told = true)
    (hsettled : uncommitted d m.addr = false) (hfree : d.ledger.holds.any (fun h => h.tier == m.srcTier && h.loc == m.src) = false) :
    effRelease n d = stewWrite (freeLoc { d with ledger := { d.ledger with moves := d.ledger.moves.erase m } } m.srcTier.toNat m.src.toNat)
      m.addr (entPut (entryLast d m.addr) (entTier (entryLast d m.addr)) (entState (entryLast d m.addr)) (entDtier (entryLast d m.addr))
        (entLoc (entryLast d m.addr)) 0 false) := by
  unfold effRelease
  rw [hentry]
  dsimp only
  rw [if_neg (by rw [hsettled, hfree]; simp [hphase, htold])]

end Phases

/-! ### The statement -/

/-- Settles O21: each phase by its own lemma; a second mismatch gives the move up with the entry as it was before the copies were read. -/
theorem movesGoThroughPhases : Obligations.MovesGoThroughPhases := by
  unfold Obligations.MovesGoThroughPhases
  intro s n m crc d e put written sensed srcUe dstUe turn
  have hturn : turn → MoveTurn d n m := fun ⟨hentry, hwaits, hsettled, hfirst, hroom⟩ => ⟨hentry, hwaits, hsettled, hfirst, hroom⟩
  refine ⟨?blocked, ?full, ?phase, ?copy, ?equal, ?first, ?second, ?switch, ?lost, ?release⟩
  case blocked => exact fun st ht hb => onDie_eq (effPhaseWrite_blocked (hturn ht) hb)
  case full => exact fun ht hb hp hr hfull => onDie_eq ((effPhaseWrite_open (hturn ht) hb).2.2 hp hr hfull)
  case phase => exact fun ht hb hp hfree => onDie_eq (((effPhaseWrite_open (hturn ht) hb).1 hp).trans (phaseWrite_free hfree))
  case copy =>
    intro hentry hphase hsettled hsrc hdst
    have helse := elseSame_memWrite d.pkg m.dst.toNat (memRead d.pkg m.src.toNat 0x10000)
    rw [memRead_length] at helse
    exact ⟨_, onDie_eq (effCopyDone_package hentry hphase hsettled hsrc hdst), rfl, fun i hi => memGet_copied _ _ _ hi, helse⟩
  case equal => exact fun hentry hphase hsrc hdst hver => onDie_eq (effVerify_equal hentry hphase hsrc hdst hver)
  case first => exact fun hentry hphase hsrc hbad hagain => onDie_eq ((effVerify_differ hentry hphase hsrc hbad).trans (if_neg (by simp [hagain])))
  case second =>
    intro hentry hphase hsrc hdst hver hagain hmoving
    obtain ⟨_, _, _, _, hsensed⟩ := bothSensed_corrects hsrc hdst
    refine ⟨_, onDie_eq ((effVerify_differ hentry hphase hsrc (.inr hver)).trans (if_pos hagain)), ?_⟩
    rw [hsensed]
    exact revertMove_frame hmoving
  case switch => exact fun hentry hphase hmoving => onDie_eq (effSwitch_moving hentry hphase hmoving)
  case lost => exact fun hentry hphase hlost => onDie_eq (effSwitch_lost hentry hphase hlost)
  case release =>
    intro hentry hphase htold hsettled hfree
    obtain ⟨_, _, he⟩ := freeLoc_eq { d with ledger := { d.ledger with moves := d.ledger.moves.erase m } } m.srcTier m.src
    refine ⟨_, onDie_eq (effRelease_free hentry hphase htold hsettled hfree), ?_⟩
    rw [he]
    exact ⟨rfl, rfl, rfl, rfl, rfl⟩

end Sys2Proof.Machine
end

section
/-! PROOF. What a request that passes the checks of R266 is known to hold, and the bounds of its fields (R265, R266). -/

namespace Sys2Proof.Machine

theorem leNat_lt : ∀ l : List Byte, leNat l < 256 ^ l.length
  | [] => by simp [leNat]
  | b :: l => by
    have hb := b.isLt
    have hl := leNat_lt l
    rw [leNat, List.length_cons, Nat.pow_succ]
    omega

theorem msgLE_lt (m : Msg) (o n : Nat) : msgLE m o n < 256 ^ n :=
  (leNat_lt _).trans_le (Nat.pow_le_pow_right (by omega) (List.length_take_le _ _))

/-- A field within LEN that is bad is found. -/
theorem firstBad_none {m : Msg} {bad : List (Nat × Bool)} (h : firstBad m bad = none) {p : Nat × Bool} (hp : p ∈ bad)
    (hin : p.1 < 0x10 + msgLen m) : p.2 = false := by
  unfold firstBad at h
  dsimp only at h
  split at h
  · next hnone =>
    have hout := List.filter_eq_nil_iff.mp (List.map_eq_nil_iff.mp hnone) p (List.mem_cons_of_mem _ hp)
    simpa [hin] using hout
  · simp at h

/-- A request that no check fails has the length its row asks, and no bad field. -/
theorem checkReq_none {d : Die} {m : Msg} {minLen : Nat} {bad : List (Nat × Bool)} {u : CtxUse}
    (h : checkReq d m minLen bad u = none) : minLen ≤ msgLen m ∧ firstBad m bad = none := by
  unfold checkReq at h
  split at h
  · cases h
  · split at h
    · cases h
    · next hlen =>
      split at h
      · cases h
      · cases hf : firstBad m bad with
        | none => exact ⟨Nat.not_lt.mp hlen, rfl⟩
        | some o => rw [hf] at h; cases h

/-- A request that passes its checks holds no bad field within the length its row asks. -/
theorem asks_field {d : Die} {n op minLen : Nat} {bad : Msg → List (Nat × Bool)} {u : CtxUse} {args : Die → Msg → List Arg} {m0 : Msg}
    (h : asks d n op minLen bad u args m0) {p : Nat × Bool} (hp : p ∈ bad (clip m0)) (hin : p.1 < 0x10 + minLen) : p.2 = false := by
  obtain ⟨-, -, -, -, -, hchk, -⟩ := h
  obtain ⟨hlen, hfirst⟩ := checkReq_none hchk
  exact firstBad_none hfirst hp (by omega)

end Sys2Proof.Machine
end

section
/-! PROOF. HELLO's placements (R209, R271). -/

namespace Sys2Proof.Machine

/-! ### The placements a register holds -/

/-- A directory's place is a multiple of 1 MiB below 2^48. -/
def DirPlace (v : Nat) : Prop := v % 0x100000 = 0 ∧ v < 2 ^ 48

/-- The word that places a directory: EN over its base. -/
def dirBaseWord (v : Nat) : BitVec 64 := BitVec.ofNat 64 (2 ^ 63 + v)

theorem fld_dirBaseWord {v : Nat} (h : DirPlace v) : fld (dirBaseWord v) 20 28 * 2 ^ 20 = v := by
  obtain ⟨hmod, hlt⟩ := h
  simp only [fld, dirBaseWord, BitVec.extractLsb'_toNat, BitVec.toNat_ofNat, Nat.shiftRight_eq_div_pow]
  omega

theorem bitB_dirBaseWord {v : Nat} (h : DirPlace v) : bitB (dirBaseWord v) 63 = true := by
  rw [bitB_eq_fld, beq_iff_eq]
  obtain ⟨-, hlt⟩ := h
  simp only [fld, dirBaseWord, BitVec.extractLsb'_toNat, BitVec.toNat_ofNat, Nat.shiftRight_eq_div_pow]
  omega

theorem dirPlace_inForce (d : Die) : DirPlace (dirInForce d) := by
  have h : fld d.ledger.dirBase 20 28 < 2 ^ 28 := BitVec.isLt _
  constructor <;> unfold dirInForce <;> omega

/-- Placements that their registers hold whole. -/
structure Fits (p : Placement) : Prop where
  dir : DirPlace p.dir
  array : p.array < 2 ^ 64
  bytes : p.bytes < 2 ^ 64
  pool : p.pool < 2 ^ 64
  berths : p.berths < 2 ^ 32

theorem fits_inForce (d : Die) : Fits (inForce d) := ⟨dirPlace_inForce d, BitVec.isLt _, BitVec.isLt _, BitVec.isLt _, BitVec.isLt _⟩

theorem placed_of {P : Nat → Prop} {v old : Nat} (hv : P v) (hold : P old) : P (placed v old) := by
  unfold placed
  split
  exacts [hold, hv]

theorem Fits.replaced {a b : Placement} (ha : Fits a) (hb : Fits b) : Fits (replaced a b) :=
  ⟨placed_of ha.dir hb.dir, placed_of (P := (· < 2 ^ 64)) ha.array hb.array, placed_of (P := (· < 2 ^ 64)) ha.bytes hb.bytes,
    placed_of (P := (· < 2 ^ 64)) ha.pool hb.pool, placed_of (P := (· < 2 ^ 32)) ha.berths hb.berths⟩

/-- The placements of a HELLO that passes its checks fit their registers. -/
theorem fits_helloFields {d : Die} {n : Nat} {m0 : Msg} (h : asks d n opHello 44 helloBad .none noArgs m0) :
    Fits (helloFields (clip m0)) := by
  have haligned := asks_field h (p := (0x18, (helloFields (clip m0)).dir % 0x100000 != 0)) (by simp [helloBad]) (by simp)
  have hhigh := asks_field h (p := (0x1E, decide (2 ^ 48 ≤ (helloFields (clip m0)).dir))) (by simp [helloBad]) (by simp)
  exact ⟨⟨by simpa using haligned, by simpa using hhigh⟩, msgLE_lt _ 0x20 8, msgLE_lt _ 0x28 8, msgLE_lt _ 0x30 8, msgLE_lt _ 0x38 4⟩

theorem inForce_setPlacement (d : Die) {p : Placement} (h : Fits p) (hdir : p.dir = 0 → dirInForce d = 0) :
    inForce (setPlacement d p) = p := by
  obtain ⟨hplace, harray, hbytes, hpool, hberths⟩ := h
  have hbase : dirInForce (setPlacement d p) = p.dir := by
    unfold dirInForce setPlacement
    split
    · next h0 => exact (hdir h0).trans h0.symm
    · exact fld_dirBaseWord hplace
  have hregs : inForce (setPlacement d p) = ⟨dirInForce (setPlacement d p), (BitVec.ofNat 64 p.array).toNat,
    (BitVec.ofNat 64 p.bytes).toNat, (BitVec.ofNat 64 p.pool).toNat, (BitVec.ofNat 32 p.berths).toNat⟩ := rfl
  rw [hregs, hbase, BitVec.toNat_ofNat, BitVec.toNat_ofNat, BitVec.toNat_ofNat, BitVec.toNat_ofNat, Nat.mod_eq_of_lt harray,
    Nat.mod_eq_of_lt hbytes, Nat.mod_eq_of_lt hpool, Nat.mod_eq_of_lt hberths]

theorem dirEn_setPlacement (d : Die) {p : Placement} (h : Fits p) (hdir : p.dir ≠ 0) : dirEn (setPlacement d p) = true := by
  unfold dirEn setPlacement
  rw [if_neg hdir]
  exact bitB_dirBaseWord h.dir

/-! ### What HELLO answers -/

/-- A directory is placed anew where HELLO names one and another, or none, is in force. -/
def placesAnew (d : Die) (ask : Placement) : Bool := ask.dir ≠ 0 && (ask.dir != (inForce d).dir || !dirEn d)

theorem placesAnew_iff {d : Die} {ask : Placement} :
    placesAnew d ask = true ↔ ask.dir ≠ 0 ∧ (ask.dir ≠ (inForce d).dir ∨ dirEn d = false) := by
  simp [placesAnew]

/-- The die with the placements a HELLO asks for. -/
def helloPlaced (d : Die) (ask : Placement) : Die :=
  let d1 := setPlacement (if placesAnew d ask then placeDir d ask.dir else d) (replaced ask (inForce d))
  { d1 with stew := { d1.stew with hello := true } }

section Hello

variable {d : Die} {n : Nat} {m : Msg}

theorem runHello_protocol (hfit : (helloFields m).dir = 0 ∨ (helloFields m).dir + 0x100000 ≤ pkgTop d) (hver : msgLE m 0x10 2 ≠ 1) :
    runHello n m d = answer d n m stProtocol 0 [] := by
  have hmem : ¬ (¬ (helloFields m).dir = 0 ∧ pkgTop d < (helloFields m).dir + 0x100000) := by omega
  simp [runHello, hmem, hver]

variable (hfit : (helloFields m).dir = 0 ∨ (helloFields m).dir + 0x100000 ≤ pkgTop d) (hver : msgLE m 0x10 2 = 1)
include hfit hver

theorem runHello_busy (hnext : replaced (helloFields m) (inForce d) ≠ inForce d) (hopen : openCtxs d ≠ []) :
    runHello n m d = answer d n m stBusy 0 [] := by
  have hmem : ¬ (¬ (helloFields m).dir = 0 ∧ pkgTop d < (helloFields m).dir + 0x100000) := by omega
  have hbusy : (decide (replaced (helloFields m) (inForce d) ≠ inForce d) && !(openCtxs d).isEmpty) = true := by
    simp [hnext, List.isEmpty_eq_false_iff.mpr hopen]
  simp only [runHello, hbusy, if_true]
  simp [hmem, hver]

theorem runHello_places (hnext : replaced (helloFields m) (inForce d) = inForce d ∨ openCtxs d = [])
    (hover : overlapAt (replaced (helloFields m) (inForce d)) = none) :
    runHello n m d = answer (helloPlaced d (helloFields m)) n m stOk 0 (helloReply (helloPlaced d (helloFields m))) := by
  have hmem : ¬ (¬ (helloFields m).dir = 0 ∧ pkgTop d < (helloFields m).dir + 0x100000) := by omega
  have hbusy : (decide (replaced (helloFields m) (inForce d) ≠ inForce d) && !(openCtxs d).isEmpty) = false := by
    rcases hnext with h | h <;> simp [h]
  simp only [runHello, hbusy, hover, Bool.false_eq_true, if_false]
  simp [hmem, hver, helloPlaced, placesAnew]

end Hello

/-- What HELLO places: its fields in force, EN with a directory, a directory placed anew all zero and nothing else of package memory changed. -/
theorem helloPlaced_spec {d : Die} {ask : Placement} (hask : Fits ask) :
    helloPlaced d ask = { d with
      pkg := (helloPlaced d ask).pkg, ledger := (helloPlaced d ask).ledger, stew := (helloPlaced d ask).stew } ∧
    (helloPlaced d ask).stew.hello = true ∧ inForce (helloPlaced d ask) = replaced ask (inForce d) ∧
    (ask.dir ≠ 0 → dirEn (helloPlaced d ask) = true) ∧
    (helloPlaced d ask).pkg = if placesAnew d ask then memClear d.pkg ask.dir 0x100000 else d.pkg := by
  have hfits := hask.replaced (fits_inForce d)
  have hdir : ∀ {e : Die}, dirInForce e = dirInForce d → (replaced ask (inForce d)).dir = 0 → dirInForce e = 0 := by
    intro e he h0
    refine he.trans ?_
    unfold replaced placed at h0
    dsimp only at h0
    split at h0
    exacts [h0, absurd h0 ‹_›]
  have hnext : ask.dir ≠ 0 → (replaced ask (inForce d)).dir ≠ 0 := fun h => by
    unfold replaced placed
    dsimp only
    rwa [if_neg h]
  unfold helloPlaced
  cases placesAnew d ask
  exacts [⟨rfl, rfl, inForce_setPlacement d hfits (hdir rfl), fun h => dirEn_setPlacement d hfits (hnext h), rfl⟩,
    ⟨rfl, rfl, inForce_setPlacement (placeDir d ask.dir) hfits (hdir rfl), fun h => dirEn_setPlacement _ hfits (hnext h), rfl⟩]

end Sys2Proof.Machine
end

section
/-! PROOF. O27: contexts opened and closed (R207, R272), and the statement. -/

namespace Sys2Proof.Machine

/-! ### The context's array of FREE entries -/

/-- An entry inside an array of FREE entries. -/
theorem pkg128_freeArray (d : Die) (a : Nat) {count i : Nat} (h : i < count) :
    pkg128 (freeArray d a count) (a + 16 * i) = BitVec.ofNat 128 (0xC0 * 2 ^ 120) := by
  have hread : memRead (freeArray d a count).pkg (a + 16 * i) 16 = (List.range 16).map (fun j => if j = 15 then 0xC0 else 0) := by
    refine List.map_congr_left fun j hj => ?_
    have hj := List.mem_range.mp hj
    have hplace : (a + 16 * i + j - a) % 16 = j := by omega
    rw [freeArray, memGet_fill, if_pos (by omega), hplace]
  rw [pkg128, memLE, hread]
  rfl

/-! ### OPEN_CONTEXT -/

/-- The die with a context of `count` berths opened in a slot, its array at `a`. -/
def openedIn (d : Die) (m : Msg) (slot a : Nat) : Die :=
  let gen := dirGen (dirEntry d slot) + 1
  let d1 := putPkg128 (freeArray (drew d) a (msgLE m 0x10 4)) (dirAddr d slot) (dirWord gen (msgLE m 0x10 4) a)
  { d1 with stew := { d1.stew with
      opened := d1.stew.opened ++ [(BitVec.ofNat 24 (gen * 65536 + slot), BitVec.ofNat 4 (msgByte m 0x14))] } }

theorem openAt_opens {d : Die} {n slot a : Nat} {m : Msg} (h : pickFree d 0 (arrayGaps d (msgLE m 0x10 4)) = some a) :
    openAt n m d (some slot) = answerAs (openedIn d m slot a) n m stOk 0 ((dirGen (dirEntry d slot) + 1) * 65536 + slot) (leBytes 8 a) := by
  simp only [openAt, h, openedIn]

theorem dirEntry_openedIn (d : Die) (m : Msg) (slot a : Nat) :
    dirEntry (openedIn d m slot a) slot = dirWord (dirGen (dirEntry d slot) + 1) (msgLE m 0x10 4) a :=
  pkg128_putPkg128 (freeArray (drew d) a (msgLE m 0x10 4)) (dirAddr d slot) _

theorem pkg128_openedIn (d : Die) (m : Msg) {slot a i : Nat} (h : i < msgLE m 0x10 4) (hapart : EntriesApart (a + 16 * i) (dirAddr d slot)) :
    pkg128 (openedIn d m slot a) (a + 16 * i) = BitVec.ofNat 128 (0xC0 * 2 ^ 120) :=
  (pkg128_putPkg128_apart (freeArray (drew d) a (msgLE m 0x10 4)) _ hapart).trans (pkg128_freeArray (drew d) a h)

/-! ### CLOSE_CONTEXT -/

/-- From `d` to `u` locations were given up: the free map and the counts of conservation moved. -/
def PlacesFreed (d u : Die) : Prop := ∃ used flt, u = { d with ledger := { d.ledger with used := used }, flt := flt }

theorem PlacesFreed.refl (d : Die) : PlacesFreed d d := ⟨_, _, rfl⟩

theorem PlacesFreed.trans {d e u : Die} : PlacesFreed d e → PlacesFreed e u → PlacesFreed d u := by
  rintro ⟨_, _, rfl⟩ ⟨_, _, rfl⟩
  exact ⟨_, _, rfl⟩

theorem placesFreed_freeLoc (d : Die) (tier loc : Nat) : PlacesFreed d (freeLoc d tier loc) := by
  unfold freeLoc
  split
  exacts [⟨_, _, rfl⟩, .refl d]

theorem placesFreed_freePlaces (d : Die) (e : BitVec 128) : PlacesFreed d (freePlaces d e) := by
  unfold freePlaces
  extract_lets d1
  have hd1 : PlacesFreed d d1 := by
    unfold d1
    split
    exacts [.refl d, placesFreed_freeLoc _ _ _]
  split
  exacts [hd1.trans (placesFreed_freeLoc _ _ _), hd1]

theorem placesFreed_foldl {α : Type} {f : Die → α → Die} (hf : ∀ e x, PlacesFreed e (f e x)) (l : List α) (d : Die) :
    PlacesFreed d (l.foldl f d) := by
  induction l generalizing d with
  | nil => exact .refl d
  | cons x l ih => exact (hf d x).trans (ih (f d x))

/-- No context is live in a slot that is not open. -/
theorem liveCtx_of_closed {d : Die} {ctx : Nat} (h : dirOpen (dirEntry d (ctx % 65536)) = false) : liveCtx d ctx = none := by
  simp [liveCtx, h]

/-- The directory word of a closed slot: its last generation retires it. -/
def closedWord (e : BitVec 128) : BitVec 128 :=
  putFld (putFld (putFld (putFld e 119 1 0) 118 1 0) 116 2 0) 115 1 (b2n (dirGen e == 0xFF))

theorem dirOpen_closedWord (e : BitVec 128) : dirOpen (closedWord e) = false := by
  rw [dirOpen, bitB_eq_fld, closedWord]
  simp (disch := decide) only [fld_putFld_apart, fld_putFld_same]
  rfl

/-- The berths of a context that are not FREE. -/
def liveBerths (d : Die) (e : BitVec 128) : Nat :=
  ((List.range (dirCount e)).filter (fun i => entState (pkg128 d (dirArray e + 16 * i)) != stFree)).length

theorem closeCtx_spec (d : Die) (ctx : Nat) (e : BitVec 128) : (closeCtx d ctx e).1 = liveBerths d e ∧
    liveCtx (closeCtx d ctx e).2 ctx = none ∧ (closeCtx d ctx e).2.mem = d.mem ∧ (closeCtx d ctx e).2.cores = d.cores := by
  refine ⟨?_, ?_⟩
  · simp only [closeCtx, liveBerths, List.filter_map, List.length_map]
    rfl
  · obtain ⟨used, flt, hfreed⟩ := placesFreed_foldl placesFreed_freePlaces
      (((List.range (dirCount e)).map (fun i => pkg128 d (dirArray e + 16 * i))).filter (fun v => entState v != stFree)) d
    unfold closeCtx
    dsimp only
    rw [hfreed]
    refine ⟨liveCtx_of_closed ?_, rfl, rfl⟩
    exact (congrArg dirOpen (pkg128_putPkg128 (freeArray { d with ledger := { d.ledger with used := used }, flt := flt }
      (dirArray e) (dirCount e)) (dirAddr d (ctx % 65536)) (closedWord e))).trans (dirOpen_closedWord e)

section Close

variable {d : Die} {n : Nat} {m : Msg} {e : BitVec 128} (hlive : liveCtx d (msgCtx m) = some e)
include hlive

theorem runClose_free (h : ctxBusy d (msgCtx m) e = false) :
    runClose n m d = answer (closeCtx d (msgCtx m) e).2 n m stOk 0 (leBytes 4 (closeCtx d (msgCtx m) e).1) := by
  simp [runClose, hlive, h]

theorem runClose_busy (h : ctxBusy d (msgCtx m) e = true) : runClose n m d = d := by
  simp [runClose, hlive, h]

end Close

/-! ### The statement -/

/-- Settles O27: a request that passes its checks is carried out, and what it leaves is read off its die's own lemma. -/
theorem sessionsAndContexts : Obligations.SessionsAndContexts := by
  unfold Obligations.SessionsAndContexts
  intro s n m0 d m ask next anew count
  refine ⟨?places, ?busy, ?protocol, ?opens, ?noSlot, ?closes, ?closeWaits⟩
  case places =>
    intro h hver hfit hnext hover
    obtain ⟨hframe, hhello, hforce, hen, hpkg⟩ := helloPlaced_spec (d := d) (ask := ask) (fits_helloFields h)
    have hanew : placesAnew d ask = true ↔ anew := placesAnew_iff
    refine ⟨_, onDie_eq ((onRequest_asks h).trans (runHello_places hfit hver hnext hover)), hframe, hhello, hforce, hen, ?_, ?_, ?_⟩
    · intro ha i hi
      rw [hpkg, if_pos (hanew.mpr ha), memGet_clear, if_pos (by omega)]
    · intro ha k hk
      rw [hpkg, if_pos (hanew.mpr ha), memGet_clear, if_neg (by omega)]
    · intro ha
      rw [hpkg, if_neg (fun hp => ha (hanew.mp hp))]
  case busy => exact fun h hver hfit hnext hopen => onDie_eq ((onRequest_asks h).trans (runHello_busy hfit hver hnext hopen))
  case protocol => exact fun h hver hfit => onDie_eq ((onRequest_asks h).trans (runHello_protocol hfit hver))
  case opens =>
    intro slot a h hslot hpick
    refine ⟨openedIn d m slot a, onDie_eq ((onRequest_asks h).trans ?_), dirEntry_openedIn d m slot a, rfl, rfl, fun i hi hapart => ?_⟩
    · exact (congrArg (openAt n m d) hslot).trans (openAt_opens hpick)
    · rw [pkg128_openedIn d m hi hapart.symm]
      decide
  case noSlot => exact fun h hslot => onDie_eq ((onRequest_asks h).trans (congrArg (openAt n m d) hslot))
  case closes =>
    intro e h hlive hfree
    obtain ⟨hcount, hspec⟩ := closeCtx_spec d (msgCtx m) e
    exact ⟨_, _, onDie_eq ((onRequest_asks h).trans (runClose_free hlive hfree)), hcount, hspec⟩
  case closeWaits => exact fun e h hlive hbusy => onDie_eq ((onRequest_asks h).trans (runClose_busy hlive hbusy))

end Sys2Proof.Machine
end

section
/-! PROOF. O32: berths allocated, freed, moved and queried (R210 to R213, R220, R287, R288). -/

namespace Sys2Proof.Machine

/-! ### The entries a message names -/

theorem namedBerths_length (m : Msg) (e : BitVec 128) : (namedBerths m e).length = countIdx m := by simp [namedBerths]

/-- They lie apart. -/
theorem namedBerths_apart (m : Msg) (e : BitVec 128) : (namedBerths m e).Pairwise (fun p q => EntriesApart p.2 q.2) := by
  refine List.pairwise_map.mpr (List.pairwise_lt_range.imp fun {i j} hij => ?_)
  exact .inr (by dsimp only; omega)

/-! ### BERTH_ALLOC -/

/-- From `d` to `u` the entry at `a` was written: memory, the cores and every entry that lies apart stay. -/
def EntryPut (d u : Die) (a : Nat) (v : BitVec 128) : Prop :=
  u.mem = d.mem ∧ u.cores = d.cores ∧ pkg128 u a = v ∧ ∀ b, EntriesApart b a → pkg128 u b = pkg128 d b

theorem entryPut_put {d e : Die} (a : Nat) (v : BitVec 128) (hmem : e.mem = d.mem) (hcores : e.cores = d.cores) (hpkg : e.pkg = d.pkg) :
    EntryPut d (putPkg128 e a v) a v :=
  ⟨hmem, hcores, pkg128_putPkg128 e a v, fun b hb => (pkg128_putPkg128_apart e v hb).trans (pkg128_congr hpkg b)⟩

/-- One berth given its place and entry, and the next place to try. -/
theorem allocAll_cons {m : Msg} {core : Option CoreId} {k : Nat} {p : BitVec 48 × Nat} {rest : List (BitVec 48 × Nat)} {d v : Die}
    (h : allocAll m core k (p :: rest) d = some v) :
    ∃ k' u loc, allocAll m core k' rest u = some v ∧ EntryPut d u p.2 (allocEntry m (pkg128 d p.2) loc) := by
  obtain ⟨x, a⟩ := p
  unfold allocAll at h
  extract_lets e d1 at h
  have hd1 : d1.mem = d.mem ∧ d1.cores = d.cores ∧ d1.pkg = d.pkg := by
    unfold d1
    split
    exacts [⟨rfl, rfl, rfl⟩, ⟨rfl, rfl, rfl⟩]
  obtain ⟨hmem, hcores, hpkg⟩ := hd1
  split at h
  · exact ⟨k, _, 0, h, entryPut_put a _ hmem hcores hpkg⟩
  · split at h
    · cases h
    · next loc _ => exact ⟨k + 1, _, loc, h, entryPut_put a _ hmem hcores hpkg⟩

/-- Every berth of a list whose entries lie apart gets an entry of its own; no other entry changes. -/
theorem allocAll_spec {m : Msg} {core : Option CoreId} {bs : List (BitVec 48 × Nat)} :
    ∀ {k : Nat} {d v : Die}, bs.Pairwise (fun p q => EntriesApart p.2 q.2) → allocAll m core k bs d = some v →
      v.mem = d.mem ∧ v.cores = d.cores ∧ (∀ b, (∀ p ∈ bs, EntriesApart b p.2) → pkg128 v b = pkg128 d b) ∧
      ∀ p ∈ bs, ∃ loc, pkg128 v p.2 = allocEntry m (pkg128 d p.2) loc := by
  induction bs with
  | nil =>
    rintro k d v - ⟨⟩
    exact ⟨rfl, rfl, fun _ _ => rfl, fun p hp => absurd hp List.not_mem_nil⟩
  | cons p rest ih =>
    intro k d v hapart h
    obtain ⟨hp, hrest⟩ := List.pairwise_cons.mp hapart
    obtain ⟨k', u, loc, hgo, hmem, hcores, hput, hother⟩ := allocAll_cons h
    obtain ⟨hmem', hcores', hother', hentries⟩ := ih hrest hgo
    refine ⟨hmem'.trans hmem, hcores'.trans hcores, fun b hb => ?_, fun q hq => ?_⟩
    · exact (hother' b fun q hq => hb q (List.mem_cons_of_mem _ hq)).trans (hother b (hb p List.mem_cons_self))
    · rcases List.mem_cons.mp hq with rfl | hq
      · exact ⟨loc, (hother' _ hp).trans hput⟩
      · obtain ⟨loc', he⟩ := hentries q hq
        exact ⟨loc', he.trans (by rw [hother _ (hp q hq).symm])⟩

/-- The entry of a newly allocated berth. -/
theorem allocEntry_fields (m : Msg) (e : BitVec 128) (loc : Nat) : entTier (allocEntry m e loc) = msgByte m 0x18 % 4 ∧
    entState (allocEntry m e loc) = stValid ∧ entClass (allocEntry m e loc) = msgByte m 0x19 % 16 ∧
    entOldf (allocEntry m e loc) = false ∧ entAge (allocEntry m e loc) = entAge e := by
  have htier := entTier_entPut e (msgByte m 0x18) stValid 0 loc 0 false
  have hstate := entState_entPut e (msgByte m 0x18) stValid 0 loc 0 false
  have holdf := entOldf_entPut e (msgByte m 0x18) stValid 0 loc 0 false
  have hage := entAge_entPut e (msgByte m 0x18) stValid 0 loc 0 false
  rw [entOldf, bitB_eq_fld] at holdf ⊢
  unfold entTier at htier ⊢
  unfold entState at hstate ⊢
  unfold entAge at hage ⊢
  unfold entClass allocEntry
  simp (disch := decide) only [fld_putFld_apart, fld_putFld_same]
  exact ⟨htier, hstate, rfl, holdf, hage⟩

/-- TIER and CLASS of a BERTH_ALLOC that passes its checks. -/
theorem asks_alloc_fields {d : Die} {n : Nat} {m0 : Msg} (h : asks d n opBerthAlloc 14 allocBad .berths noArgs m0) :
    msgByte (clip m0) 0x18 < 4 ∧ msgByte (clip m0) 0x19 < 4 := by
  have htier := asks_field h (p := (0x18, msgByte (clip m0) 0x18 == 2 || decide (4 ≤ msgByte (clip m0) 0x18))) (by simp [allocBad])
    (by simp)
  have hclass := asks_field h (p := (0x19, decide (4 ≤ msgByte (clip m0) 0x19))) (by simp [allocBad]) (by simp)
  rw [Bool.or_eq_false_iff] at htier
  exact ⟨by simpa using htier.2, by simpa using hclass⟩

section Alloc

variable {d : Die} {n : Nat} {m : Msg} {e : BitVec 128} (hlive : liveCtx d (msgCtx m) = some e) (hrange : rangeBad m e = none)
include hlive hrange

/-- Berths that rest and hold nothing are allocated, unless the slice asked for is none of this die's. -/
theorem runAlloc_allocates (hfree : ∀ p ∈ namedBerths m e, uncommitted d p.2 = false ∧ entState (pkg128 d p.2) ≠ stValid ∧
      entState (pkg128 d p.2) ≠ stMoving ∧ ¬ (entState (pkg128 d p.2) = stLost ∧ moving d p.2 = true))
    (hcore : msgByte m 0x18 = 0 → (askedCore d m).isSome = true) :
    (allocAll m ((askedCore d m).getD none) 0 (namedBerths m e) d = none → runAlloc n m d = answer (drew d) n m stNoSpace 0 []) ∧
    ∀ v, allocAll m ((askedCore d m).getD none) 0 (namedBerths m e) d = some v →
      runAlloc n m d = answer (drew v) n m stOk 0 (leBytes 4 (namedBerths m e).length) := by
  have hrest : (namedBerths m e).any (fun p => uncommitted d p.2 || (entState (pkg128 d p.2) == stLost && moving d p.2)) = false := by
    refine List.any_eq_false.mpr fun p hp => ?_
    obtain ⟨hsettled, -, -, hlost⟩ := hfree p hp
    simpa [hsettled] using hlost
  have hstate : (namedBerths m e).any (fun p => entState (pkg128 d p.2) == stValid || entState (pkg128 d p.2) == stMoving) = false := by
    refine List.any_eq_false.mpr fun p hp => ?_
    obtain ⟨-, hvalid, hmoving, -⟩ := hfree p hp
    simp [hvalid, hmoving]
  unfold runAlloc
  rw [hlive]
  dsimp only
  rw [hrange]
  dsimp only
  rw [if_neg (by simp [hrest]), if_neg (by simp [hstate])]
  split
  · next hnone htier =>
    rw [hnone] at hcore
    exact absurd (hcore htier) (by simp)
  · exact ⟨fun h => by rw [h], fun v h => by rw [h]⟩

end Alloc

/-! ### BERTH_FREE -/

/-- A freed berth's entry is FREE, and every other entry as it was. -/
theorem freeOne_spec (d : Die) (p : BitVec 48 × Nat) : (freeOne d p).mem = d.mem ∧ (freeOne d p).cores = d.cores ∧
    entState (pkg128 (freeOne d p) p.2) = stFree ∧ ∀ b, EntriesApart b p.2 → pkg128 (freeOne d p) b = pkg128 d b := by
  unfold freeOne
  extract_lets e
  split
  · next h => exact ⟨rfl, rfl, h, fun _ _ => rfl⟩
  · obtain ⟨used, flt, hfreed⟩ := placesFreed_freePlaces d e
    rw [hfreed]
    have hput := entryPut_put (d := d) (e := { d with ledger := { d.ledger with used := used }, flt := flt }) p.2
      (entPut e tierNone stFree 0 0 0 false) rfl rfl rfl
    obtain ⟨hmem, hcores, hentry, hother⟩ := hput
    refine ⟨hmem, hcores, ?_, hother⟩
    exact (congrArg entState hentry).trans (entState_entPut e tierNone stFree 0 0 0 false)

theorem foldl_freeOne_spec {bs : List (BitVec 48 × Nat)} : ∀ {d : Die}, bs.Pairwise (fun p q => EntriesApart p.2 q.2) →
    (bs.foldl freeOne d).mem = d.mem ∧ (bs.foldl freeOne d).cores = d.cores ∧
    (∀ b, (∀ p ∈ bs, EntriesApart b p.2) → pkg128 (bs.foldl freeOne d) b = pkg128 d b) ∧
    ∀ p ∈ bs, entState (pkg128 (bs.foldl freeOne d) p.2) = stFree := by
  induction bs with
  | nil => exact fun _ => ⟨rfl, rfl, fun _ _ => rfl, fun p hp => absurd hp List.not_mem_nil⟩
  | cons p rest ih =>
    intro d hapart
    obtain ⟨hp, hrest⟩ := List.pairwise_cons.mp hapart
    obtain ⟨hmem, hcores, hfree, hother⟩ := freeOne_spec d p
    obtain ⟨hmem', hcores', hother', hentries⟩ := ih (d := freeOne d p) hrest
    refine ⟨hmem'.trans hmem, hcores'.trans hcores, fun b hb => ?_, fun q hq => ?_⟩
    · exact (hother' b fun q hq => hb q (List.mem_cons_of_mem _ hq)).trans (hother b (hb p List.mem_cons_self))
    · rcases List.mem_cons.mp hq with rfl | hq
      · exact (congrArg entState (hother' _ hp)).trans hfree
      · exact hentries q hq

section Free

variable {d : Die} {n : Nat} {m : Msg} {e : BitVec 128} (hlive : liveCtx d (msgCtx m) = some e) (hrange : rangeBad m e = none)
include hlive hrange

theorem runFree_frees (h : (namedBerths m e).any (freeWaits d) = false) : runFree n m d = answer ((namedBerths m e).foldl freeOne d) n m
    stOk 0 (leBytes 4 ((namedBerths m e).filter (fun p => entState (pkg128 d p.2) != stFree)).length) := by
  simp only [runFree, hlive, hrange, h, Bool.false_eq_true, if_false]

theorem runFree_waits (h : (namedBerths m e).any (freeWaits d) = true) : runFree n m d = d := by
  simp only [runFree, hlive, hrange, h, if_true]

end Free

/-! ### BERTH_MOVE -/

/-- Each berth's move joins the list, as yet without a place. -/
theorem startMoves_spec (m : Msg) (core : Option CoreId) (bs : List (BitVec 48 × Nat)) (d : Die) : ∃ ms, startMoves m core bs d =
      { d with ledger := { d.ledger with moves := d.ledger.moves ++ ms } } ∧ ms.length = bs.length ∧
    ∀ x ∈ ms, ∃ p ∈ bs, ∃ waited, x = newMove p.1 p.2 (msgByte m 0x18) core true waited := by
  unfold startMoves
  induction bs generalizing d with
  | nil => exact ⟨[], by simp, rfl, fun x hx => absurd hx List.not_mem_nil⟩
  | cons p bs ih =>
    obtain ⟨ms, he, hlen, hms⟩ := ih (addMove d (newMove p.1 p.2 (msgByte m 0x18) core true (moving d p.2)))
    refine ⟨newMove p.1 p.2 (msgByte m 0x18) core true (moving d p.2) :: ms, ?_, congrArg (· + 1) hlen, fun x hx => ?_⟩
    · rw [List.foldl_cons, he]
      simp [addMove]
    · rcases List.mem_cons.mp hx with rfl | hx
      · exact ⟨p, List.mem_cons_self, _, rfl⟩
      · obtain ⟨q, hq, hw⟩ := hms x hx
        exact ⟨q, List.mem_cons_of_mem _ hq, hw⟩

/-- A BERTH_MOVE of a range, no other of its context under way: its job, and a move for each berth. -/
theorem runMove_starts {d : Die} {n : Nat} {m : Msg} {e : BitVec 128} {core : Option CoreId} (hlive : liveCtx d (msgCtx m) = some e)
    (hrange : rangeBad m e = none) (hjobs : d.ledger.jobs.any (fun j => j.ctx == BitVec.ofNat 24 (msgCtx m)) = false)
    (hcount : countIdx m ≠ 0) (hcore : askedCore d m = some core) :
    runMove n m d = startMoves m core (namedBerths m e) { d with ledger := { d.ledger with jobs := d.ledger.jobs ++
      [⟨BitVec.ofNat 24 (msgCtx m), false, (namedBerths m e).map (fun p => handleIdx p.1), 0, []⟩] } } := by
  have hsome : (namedBerths m e).isEmpty = false := by
    rw [List.isEmpty_eq_false_iff, ← List.length_pos_iff, namedBerths_length]
    omega
  have hall : (countIdx m == 0) = false := by simpa using hcount
  unfold runMove
  rw [hlive]
  dsimp only
  rw [hrange]
  dsimp only
  rw [hjobs, hall, hcore]
  simp [hsome]

/-! ### LEDGER_QUERY -/

/-- With no change of its entries waiting, a query without an address returns them as package memory holds them. -/
theorem runLedgerQuery_answers {d : Die} {n : Nat} {m : Msg} {e : BitVec 128} (hlive : liveCtx d (msgCtx m) = some e)
    (hrange : rangeBad m e = none) (hdest : msgLE m 0x18 8 = 0) (hsettled : ∀ p ∈ namedBerths m e, uncommitted d p.2 = false) :
    runLedgerQuery n m d = answer (drew d) n m stOk 0 (leBytes 4 (countIdx m) ++ leBytes 12 0 ++
      (namedBerths m e).flatMap (fun p => leBytes 16 (pkg128 d p.2).toNat)) := by
  have hrows : (namedBerths m e).zipIdx.flatMap (fun p => leBytes 16 (entryNow d p.1.2 (freeVal d (p.2 + 1))).toNat) =
      (namedBerths m e).flatMap (fun p => leBytes 16 (pkg128 d p.2).toNat) := by
    calc _ = (namedBerths m e).zipIdx.flatMap (fun p => leBytes 16 (pkg128 d p.1.2).toNat) := by
          refine List.flatMap_congr fun p hp => ?_
          rw [entryNow_settled (hsettled p.1 (List.fst_mem_of_mem_zipIdx hp))]
      _ = ((namedBerths m e).zipIdx.map Prod.fst).flatMap (fun p => leBytes 16 (pkg128 d p.2).toNat) := by rw [List.flatMap_map]
      _ = _ := by rw [List.zipIdx_map_fst]
  simp only [runLedgerQuery, hlive, hrange, hrows, hdest, if_true]

/-! ### The statement -/

/-- Settles O32: the named entries lie apart, so each is written once and keeps what it was given; moves and rows follow the list of
berths. -/
theorem berthMessages : Obligations.BerthMessages := by
  unfold Obligations.BerthMessages
  intro s n m0 e d m bs ctx alloc
  refine ⟨?allocates, ?noSpace, ?frees, ?freeWaits, ?moves, ?queries⟩
  case allocates =>
    rintro v ⟨h, hlive, hrange, hfree, hcore⟩ hall
    obtain ⟨hmem, hcores, -, hentries⟩ := allocAll_spec (namedBerths_apart m e) hall
    have hfields : msgByte m 0x18 < 4 ∧ msgByte m 0x19 < 4 := asks_alloc_fields h
    obtain ⟨htier, hclass⟩ := hfields
    refine ⟨onDie_eq ((onRequest_asks h).trans ((runAlloc_allocates hlive hrange hfree hcore).2 v hall)), hmem, hcores, fun p hp => ?_⟩
    obtain ⟨loc, hentry⟩ := hentries p hp
    obtain ⟨hT, hS, hC, hO, hA⟩ := allocEntry_fields m (pkg128 d p.2) loc
    rw [hentry]
    exact ⟨hT.trans (Nat.mod_eq_of_lt htier), hS, hC.trans (Nat.mod_eq_of_lt (by omega)), hO, hA⟩
  case noSpace =>
    rintro ⟨h, hlive, hrange, hfree, hcore⟩ hall
    exact onDie_eq ((onRequest_asks h).trans ((runAlloc_allocates hlive hrange hfree hcore).1 hall))
  case frees =>
    intro h hlive hrange hfree
    obtain ⟨hmem, hcores, -, hentries⟩ := foldl_freeOne_spec (d := d) (namedBerths_apart m e)
    exact ⟨_, onDie_eq ((onRequest_asks h).trans (runFree_frees hlive hrange hfree)), hmem, hcores, hentries⟩
  case freeWaits => exact fun h hlive hrange hwaits => onDie_eq ((onRequest_asks h).trans (runFree_waits hlive hrange hwaits))
  case moves =>
    intro core h hlive hrange hjobs hcount hcore
    obtain ⟨ms, hstart, hlen, hms⟩ := startMoves_spec m core bs { d with ledger := { d.ledger with jobs := d.ledger.jobs ++
      [⟨ctx, false, bs.map (fun p => handleIdx p.1), 0, []⟩] } }
    refine ⟨_, onDie_eq ((onRequest_asks h).trans ((runMove_starts hlive hrange hjobs hcount hcore).trans hstart)), rfl, rfl, rfl, ?_, ?_,
      fun x hx => ?_⟩
    · rw [← namedBerths_length m e, ← hlen]
      exact List.length_append
    · exact List.take_left
    · replace hx : x ∈ ms := by rwa [← List.drop_left (l₁ := d.ledger.moves) (l₂ := ms)]
      obtain ⟨p, hp, waited, rfl⟩ := hms x hx
      exact ⟨rfl, rfl, rfl, rfl, hp⟩
  case queries =>
    exact fun h hlive hrange hdest hsettled =>
      onDie_eq ((onRequest_asks h).trans (runLedgerQuery_answers hlive hrange hdest hsettled))

end Sys2Proof.Machine
end

section
/-! PROOF. O20, the Lodge: refresh, scrub and retirement slots (R190, R193, R197, R200 to R202). -/

namespace Sys2Proof.Machine

variable {d : Die} {c : CoreId} {bank : BitVec 4} {b : Nat} (hb : bankKey c bank.toNat = b)

/-! ### Slots that do not run, and slots counted (R193, R197) -/

theorem effRefreshSlot_still (h : slotsRun d = false) : effRefreshSlot c bank d = d := by simp [effRefreshSlot, h]

theorem effScrubSlot_still (h : slotsRun d = false) : effScrubSlot c bank d = d := by simp [effScrubSlot, h]

theorem effRetire_still (h : slotsRun d = false) : effRetire c bank d = d := by
  unfold effRetire
  dsimp only
  split
  · rfl
  · exact if_pos (by simp [h])

theorem slotIndex_nextSlot (b k : Nat) (d : Die) : slotIndex (nextSlot b k d) b = slotIndex d b + k :=
  tabGet_mod 0 d.lodge.slotIdx b (· + k)

/-! ### Refresh (R193) -/

/-- The Lodge with a bank's refresh row advanced. -/
def refreshed (l : LodgeSt) (b : Nat) : LodgeSt :=
  let wraps := decide (527 ≤ (tabGet 0 l.refreshRow b).toNat)
  { l with refreshRow := tabSet 0 l.refreshRow b (if wraps then 0 else BitVec.ofNat 10 ((tabGet 0 l.refreshRow b).toNat + 1)),
           retiredPass := if wraps then l.retiredPass.filter (· != b) else l.retiredPass,
           passes := if wraps && b == 0 then l.passes + 1 else l.passes }

include hb in
theorem effRefreshSlot_runs (hrun : slotsRun d = true) (hslot : slotIndex d b % 5 ≠ 4) :
    effRefreshSlot c bank d = nextSlot b 1 { d with lodge := refreshed d.lodge b } := by
  subst hb
  unfold effRefreshSlot
  exact if_neg (by simp [hrun, hslot])

theorem refreshed_spec (l : LodgeSt) (b : Nat) :
    (tabGet 0 (refreshed l b).refreshRow b).toNat =
      (if 527 ≤ (tabGet 0 l.refreshRow b).toNat then 0 else (tabGet 0 l.refreshRow b).toNat + 1) ∧
    (refreshed l b).passes = if 527 ≤ (tabGet 0 l.refreshRow b).toNat ∧ b = 0 then l.passes + 1 else l.passes := by
  refine ⟨?_, by simp [refreshed]⟩
  simp only [refreshed, decide_eq_true_eq, tabGet_set]
  split
  · rfl
  · rw [BitVec.toNat_ofNat]
    omega

/-! ### Scrub (R200, R204) -/

/-- The die with a bank's scrub row advanced and its slot counted. -/
def scrubbed (d : Die) (b : Nat) : Die := nextSlot b 1 { d with lodge := { d.lodge with
  scrubRow := tabSet 0 d.lodge.scrubRow b (if 1055 ≤ (tabGet 0 d.lodge.scrubRow b).toNat then 0
    else BitVec.ofNat 11 ((tabGet 0 d.lodge.scrubRow b).toNat + 1)) } }

theorem scrubRow_scrubbed (d : Die) (b : Nat) : (tabGet 0 (scrubbed d b).lodge.scrubRow b).toNat =
    if 1055 ≤ (tabGet 0 d.lodge.scrubRow b).toNat then 0 else (tabGet 0 d.lodge.scrubRow b).toNat + 1 := by
  simp only [scrubbed, nextSlot, tabGet_set]
  split
  · rfl
  · rw [BitVec.toNat_ofNat]
    omega

section Scrub

variable (hrun : slotsRun d = true) (hslot : slotIndex d b % 5 = 4)
include hb hrun hslot

/-- A physical row that serves no logical one is passed over. -/
theorem effScrubSlot_spare (hrow : logicalRow d.lodge b (tabGet 0 d.lodge.scrubRow b).toNat = none) :
    effScrubSlot c bank d = scrubbed d b := by
  subst hb
  unfold effScrubSlot
  dsimp only
  rw [if_neg (by simp [hrun, hslot]), hrow]
  rfl

/-- A single-bit error is corrected and noted. -/
theorem effScrubSlot_corrects {r : Nat}
    (hrow : logicalRow d.lodge b (tabGet 0 d.lodge.scrubRow b).toNat = some r)
    (hue : rowInBank b r ∉ d.lodge.ueMark) (hce : rowInBank b r ∈ d.lodge.ceMark) :
    effScrubSlot c bank d = noteCe { scrubbed d b with lodge := { (scrubbed d b).lodge with
      ceMark := d.lodge.ceMark.filter (· != rowInBank b r) } } (rowInBank b r) := by
  subst hb
  unfold effScrubSlot
  dsimp only
  rw [if_neg (by simp [hrun, hslot]), hrow]
  dsimp only
  rw [if_neg (by simpa using hue), if_pos (by simpa using hce)]
  rfl

end Scrub

/-- A corrected error of a row adds one to its slice's CE count, which stops at its largest value, and marks no row. -/
theorem noteCe_counts (d : Die) (key : Nat) : (noteCe d key).lodge.ceMark = d.lodge.ceMark ∧ (noteCe d key).mem = d.mem ∧
    fld (tabGet 0 (noteCe d key).lodge.slice (key / 16384)) 48 16 = min 0xFFFF (fld (tabGet 0 d.lodge.slice (key / 16384)) 48 16 + 1) := by
  obtain ⟨_, _, _, he⟩ := noteCe_frame d key
  rw [he]
  refine ⟨rfl, rfl, ?_⟩
  dsimp only
  rw [tabGet_mod, sliceCount, if_neg Bool.false_ne_true, fld_putFld_same _ _ (by decide)]
  omega

/-! ### Retirement (R200, R202) -/

theorem appendLdg_frame (d : Die) (e : BitVec 32) : ∃ flash, appendLdg d e = { d with flash := flash } := by
  unfold appendLdg
  dsimp only
  split
  · rw [writeSection, if_neg (by decide)]
    exact ⟨_, rfl⟩
  · exact ⟨_, rfl⟩

/-- A repair is logged while the log has room. -/
theorem logRepair_frame (d : Die) (key spare : Nat) (ue : Bool) : ∃ flash slice softOvf, logRepair d key spare ue = { d with
    flash := flash,
    lodge := { d.lodge with
      slice := slice, softOvf := softOvf,
      softLog := if d.lodge.softLog.length < 256 then d.lodge.softLog ++ [repairEntry key spare ue] else d.lodge.softLog } } := by
  unfold logRepair
  extract_lets k l e l1 l2
  have hl2 : ∃ slice softOvf, l2 = { l with
      slice := slice, softOvf := softOvf, softLog := if l.softLog.length < 256 then l.softLog ++ [e] else l.softLog } := by
    unfold l2 l1
    split
    exacts [⟨_, _, rfl⟩, ⟨_, _, rfl⟩]
  obtain ⟨_, _, hl2⟩ := hl2
  obtain ⟨_, he⟩ := appendLdg_frame { d with lodge := l2 } (repairEntry key spare false)
  rw [he, hl2]
  exact ⟨_, _, _, rfl⟩

/-- A row moved to a spare: mapped there, and the repair logged. -/
theorem retireTo_frame (d : Die) (key spare : Nat) (ue : Bool) :
    ∃ flash sparesUsed ceMark poison weak slice softOvf, retireTo d key spare ue = { d with
      flash := flash,
      lodge := { d.lodge with
        remap := tabSet 0 d.lodge.remap key (BitVec.ofNat 6 (spare + 1)), sparesUsed := sparesUsed, ceMark := ceMark, poison := poison,
        weak := weak, slice := slice, softOvf := softOvf,
        softLog := if d.lodge.softLog.length < 256 then d.lodge.softLog ++ [repairEntry key spare ue] else d.lodge.softLog } } := by
  unfold retireTo
  extract_lets d1 l bad l1
  obtain ⟨_, _, _, he⟩ := logRepair_frame { d1 with lodge := l1 } key spare ue
  exact ⟨_, _, _, _, _, _, _, he⟩

include hb in
/-- A bank's oldest row to retire, once in a pass, moves to the lowest free spare, over two slots. -/
theorem effRetire_retires {key sp : Nat} {ue : Bool} (hrun : slotsRun d = true)
    (hfind : d.lodge.retiring.find? (fun r => r.1 / 1024 == b) = some (key, ue))
    (hpass : b ∉ d.lodge.retiredPass) (hspare : freeSpare d.lodge b = some sp) :
    ∃ e : Die, effRetire c bank d = nextSlot b 2
        { e with lodge := { e.lodge with retiredPass := e.lodge.retiredPass ++ [b] } } ∧
      e = retireTo { d with lodge := { d.lodge with retiring := d.lodge.retiring.erase (key, ue) } } key sp ue := by
  refine ⟨_, ?_, rfl⟩
  have hspare' : freeSpare { d.lodge with retiring := d.lodge.retiring.erase (key, ue) } b = some sp := hspare
  subst hb
  unfold effRetire
  dsimp only
  rw [hfind]
  dsimp only
  rw [if_neg (by simp [hrun, hpass]), hspare']

/-! ### The Lodge's part of the statement -/

section Statement

variable {s : State}
include hb

theorem exec_refreshSlot_advances (hrun : slotsRun s.die = true) (hslot : slotIndex s.die b % 5 ≠ 4) :
    ∃ u : Die, exec (.refreshSlot c bank) s = .next (s.withDie u) ∧ u = { s.die with lodge := u.lodge } ∧
      (tabGet 0 u.lodge.refreshRow b).toNat =
        (if 527 ≤ (tabGet 0 s.die.lodge.refreshRow b).toNat then 0
         else (tabGet 0 s.die.lodge.refreshRow b).toNat + 1) ∧
      slotIndex u b = slotIndex s.die b + 1 ∧
      u.lodge.passes = (if 527 ≤ (tabGet 0 s.die.lodge.refreshRow b).toNat ∧ b = 0
        then s.die.lodge.passes + 1 else s.die.lodge.passes) ∧ u.lodge.scrubRow = s.die.lodge.scrubRow := by
  obtain ⟨hrow, hpasses⟩ := refreshed_spec s.die.lodge b
  exact ⟨_, onDie_eq (effRefreshSlot_runs hb hrun hslot), rfl, hrow, slotIndex_nextSlot _ _ _, hpasses, rfl⟩

theorem exec_scrubSlot_corrects {r : Nat} (hrun : slotsRun s.die = true) (hslot : slotIndex s.die b % 5 = 4)
    (hrow : logicalRow s.die.lodge b (tabGet 0 s.die.lodge.scrubRow b).toNat = some r)
    (hue : rowInBank b r ∉ s.die.lodge.ueMark) (hce : rowInBank b r ∈ s.die.lodge.ceMark) :
    ∃ u : Die, exec (.scrubSlot c bank) s = .next (s.withDie u) ∧ rowInBank b r ∉ u.lodge.ceMark ∧
      u.mem = s.die.mem ∧ fld (tabGet 0 u.lodge.slice (rowInBank b r / 16384)) 48 16 =
        min 0xFFFF (fld (tabGet 0 s.die.lodge.slice (rowInBank b r / 16384)) 48 16 + 1) := by
  obtain ⟨hmark, hmem, hcount⟩ := noteCe_counts { scrubbed s.die b with
    lodge := { (scrubbed s.die b).lodge with
      ceMark := s.die.lodge.ceMark.filter (· != rowInBank b r) } } (rowInBank b r)
  refine ⟨_, onDie_eq (effScrubSlot_corrects hb hrun hslot hrow hue hce), ?_, hmem, hcount⟩
  rw [hmark]
  simp

theorem exec_softRepairRetire_moves {key sp : Nat} {ue : Bool} (hrun : slotsRun s.die = true)
    (hfind : s.die.lodge.retiring.find? (fun r => r.1 / 1024 == b) = some (key, ue))
    (hpass : b ∉ s.die.lodge.retiredPass) (hspare : freeSpare s.die.lodge b = some sp) :
    ∃ u : Die, exec (.softRepairRetire c bank) s = .next (s.withDie u) ∧ u.mem = s.die.mem ∧
      tabGet 0 u.lodge.remap key = BitVec.ofNat 6 (sp + 1) ∧ u.lodge.retiring = s.die.lodge.retiring.erase (key, ue) ∧
      slotIndex u b = slotIndex s.die b + 2 ∧ b ∈ u.lodge.retiredPass ∧
      (s.die.lodge.softLog.length < 256 → u.lodge.softLog = s.die.lodge.softLog ++ [repairEntry key sp ue]) := by
  obtain ⟨e, hretire, he⟩ := effRetire_retires hb hrun hfind hpass hspare
  obtain ⟨_, _, _, _, _, _, _, hframe⟩ :=
    retireTo_frame { s.die with lodge := { s.die.lodge with retiring := s.die.lodge.retiring.erase (key, ue) } } key sp ue
  rw [hframe] at he
  subst he
  exact ⟨_, onDie_eq hretire, rfl, tabGet_set _ _ _ _, rfl, slotIndex_nextSlot _ _ _, List.mem_append_right _ (List.mem_singleton_self _),
    fun hlog => if_pos hlog⟩

end Statement

end Sys2Proof.Machine
end

section
/-! PROOF. O20, the Ledger in service: commits, fills, ages and sweeps (R210, R214, R217, R228). -/

namespace Sys2Proof.Machine

variable {d : Die} {n : Nat}

/-! ### Commits (R214, R217) -/

/-- A commit that no move waits for tells none. -/
theorem noteSwitched_idle {a : Nat} (h : d.ledger.moves.all (fun m => m.addr != a) = true) : noteSwitched a d = d := by
  have hnone : d.ledger.moves.find? (fun m => m.addr == a && m.phase == 4 && !m.told) = none := by
    refine List.find?_eq_none.mpr fun m hm => ?_
    have hne : m.addr ≠ a := by simpa using List.all_eq_true.mp h m hm
    simp [hne]
  unfold noteSwitched
  rw [hnone]
  exact ite_self d

theorem effCommit_first {w : LedgerWrite} (hw : d.ledger.writes[n]? = some w)
    (hfirst : (d.ledger.writes.take n).any (fun y => y.addr == w.addr) = false)
    (hmoves : d.ledger.moves.all (fun m => m.addr != w.addr) = true) :
    effCommit n d = { d with
      pkg := memPutLE d.pkg w.addr 16 w.value.toNat, ledger := { d.ledger with writes := d.ledger.writes.eraseIdx n } } := by
  unfold effCommit
  rw [hw]
  dsimp only
  rw [hfirst, if_neg Bool.false_ne_true]
  exact noteSwitched_idle (d := putPkg128 { d with ledger := { d.ledger with writes := d.ledger.writes.eraseIdx n } } w.addr w.value) hmoves

/-! ### Ages written back (R228) -/

/-- From `d` to `u` ages were written back: to package memory, and to the changes that wait. -/
def AgesWritten (d u : Die) : Prop := ∃ pkg writes, u = { d with pkg := pkg, ledger := { d.ledger with writes := writes } }

theorem AgesWritten.refl (d : Die) : AgesWritten d d := ⟨_, _, rfl⟩

theorem AgesWritten.trans {d e u : Die} : AgesWritten d e → AgesWritten e u → AgesWritten d u := by
  rintro ⟨_, _, rfl⟩ ⟨_, _, rfl⟩
  exact ⟨_, _, rfl⟩

theorem AgesWritten.foldl {α : Type} {f : Die → α → Die} (hf : ∀ e x, AgesWritten e (f e x)) (l : List α) (d : Die) :
    AgesWritten d (l.foldl f d) := by
  induction l generalizing d with
  | nil => exact refl d
  | cons x l ih => exact (hf d x).trans (ih (f d x))

theorem agesWritten_writeAge (d : Die) (a : Nat) (age : BitVec 16) : AgesWritten d (writeAge d a age) := by
  unfold writeAge
  dsimp only
  split
  exacts [⟨_, _, rfl⟩, .refl d]

/-! ### Fills (R214, R215) -/

/-- A line brought in moves the unit's caches and the ages it writes back; time, cores, memory and the requests that wait stay. -/
theorem cacheFill_keeps (d : Die) (q : BitVec 2) (slot : Nat) (a : Option Nat) : (cacheFill d q slot a).aclk = d.aclk ∧
    (cacheFill d q slot a).cores = d.cores ∧ (cacheFill d q slot a).mem = d.mem ∧
    (cacheFill d q slot a).ledger.waiting = d.ledger.waiting := by
  unfold cacheFill
  extract_lets _ dirs mine dirs' line kept own out gone d1
  obtain ⟨_, _, he⟩ := AgesWritten.foldl (f := fun e (t : BitVec 2 × Nat × BitVec 16) => writeAge e t.2.1 t.2.2)
    (fun e t => agesWritten_writeAge e t.2.1 t.2.2) gone d1
  rw [he]
  exact ⟨rfl, rfl, rfl, rfl⟩

/-- The die as a waiting request finds it when its line is back: the request gone, and its core's tag free. -/
def fillTaken (d : Die) (n : Nat) (q : LedgerOp) (o : OpenTag) : Die :=
  setCore { d with ledger := { d.ledger with waiting := d.ledger.waiting.eraseIdx n } } q.core
    { getCore d q.core with tags := (getCore d q.core).tags.erase o }

section Fill

variable {q : LedgerOp} {o : OpenTag} {rd : BitVec 6}

theorem getCore_fillTaken : getCore (fillTaken d n q o) q.core = { getCore d q.core with tags := (getCore d q.core).tags.erase o } :=
  getCore_setCore _ _ _

theorem threadAt_fillTaken : threadAt (fillTaken d n q o) q.core o.thread = threadAt d q.core o.thread := by
  rw [threadAt, getCore_fillTaken]
  cases o.thread <;> rfl

/-- The handle resolves as it did. -/
theorem threadEntry_fillTaken (h : BitVec 48) : threadEntry (fillTaken d n q o) q.core o.thread h = threadEntry d q.core o.thread h := by
  have hctx : threadCtx (fillTaken d n q o) q.core o.thread = threadCtx d q.core o.thread := by
    have hthread : getThread (getCore (fillTaken d n q o) q.core) o.thread = getThread (getCore d q.core) o.thread := threadAt_fillTaken
    unfold threadCtx
    rw [hthread]
    rfl
  rw [threadEntry, hctx]
  rfl

/-- A line that comes back whole for a LOOKUP of a core that still has its role. -/
theorem effCacheFill_answers (hw : d.ledger.waiting[n]? = some q) (htouch : q.touch = false)
    (hport : portCheck d q.core q.party q.epoch = none)
    (htag : (getCore d q.core).tags.find? (fun o => o.tag == q.tag && !o.remote) = some o) (hkind : o.kind = .lookup rd) :
    effCacheFill n 0 d = answerLookup (cacheFill (fillTaken d n q o) q.unit (handleSlot q.handle)
      (threadEntry (fillTaken d n q o) q.core o.thread q.handle)) q.core o.thread rd
      (threadEntry (fillTaken d n q o) q.core o.thread q.handle) := by
  have hport' : portCheck { d with ledger := { d.ledger with waiting := d.ledger.waiting.eraseIdx n } } q.core q.party q.epoch = none := hport
  have htag' : (getCore { d with ledger := { d.ledger with waiting := d.ledger.waiting.eraseIdx n } } q.core).tags.find?
    (fun o => o.tag == q.tag && !o.remote) = some o := htag
  have hwhole : ¬ (0 : BitVec 3) = 3 := by decide
  simp only [effCacheFill, hw, if_neg hwhole, htouch, Bool.false_eq_true, if_false, hport', htag', hkind, ne_eq, not_true_eq_false]
  rfl

/-- What an answer that names no entry leaves: the thread's answer due, its core's tags as they were. -/
theorem answerLookup_none (d : Die) (c : CoreId) (t : Bool) (rd : BitVec 6) :
    (threadAt (answerLookup d c t rd none) c t).answers =
      (threadAt d c t).answers ++ [(d.aclk + 8 + 6 * unitHops (quarterOf c) c, rd, lookupNone)] ∧
    (getCore (answerLookup d c t rd none) c).tags = (getCore d c).tags := by
  unfold answerLookup
  refine ⟨?_, ?_⟩
  · rw [getThread_modThread]
    rfl
  · rw [modThread, getCore_modCore, setThread_frame]
    rfl

theorem exec_ledgerCacheFill_answers {s : State} (hw : s.die.ledger.waiting[n]? = some q) (htouch : q.touch = false)
    (hport : portCheck s.die q.core q.party q.epoch = none)
    (htag : (getCore s.die q.core).tags.find? (fun o => o.tag == q.tag && !o.remote) = some o) (hkind : o.kind = .lookup rd)
    (hnone : threadEntry s.die q.core o.thread q.handle = none) :
    ∃ u : Die, exec (.ledgerCacheFill n 0) s = .next (s.withDie u) ∧ u.ledger.waiting = s.die.ledger.waiting.eraseIdx n ∧
      (threadAt u q.core o.thread).answers = (threadAt s.die q.core o.thread).answers ++
        [(s.die.aclk + 8 + 6 * unitHops (quarterOf q.core) q.core, rd, lookupNone)] ∧
      (getCore u q.core).tags = (getCore s.die q.core).tags.erase o ∧ u.mem = s.die.mem := by
  have hfill := effCacheFill_answers hw htouch hport htag hkind
  rw [threadEntry_fillTaken, hnone] at hfill
  obtain ⟨hclk, hcores, hmem, hwaiting⟩ := cacheFill_keeps (fillTaken s.die n q o) q.unit (handleSlot q.handle) none
  obtain ⟨hanswers, htags⟩ := answerLookup_none (cacheFill (fillTaken s.die n q o) q.unit (handleSlot q.handle) none) q.core o.thread rd
  refine ⟨_, onDie_eq hfill, hwaiting, ?_, ?_, hmem⟩
  · rw [hanswers, hclk, threadAt, getCore_of_cores hcores, ← threadAt, threadAt_fillTaken]
    rfl
  · rw [htags, getCore_of_cores hcores, getCore_fillTaken]

end Fill

/-! ### Epochs and sweeps (R228) -/

theorem effEpoch_untouched (haon : d.boot.aon = true) (href : d.power.refLost = false) (htouched : d.ledger.touched = []) :
    effEpoch d = { d with ledger := { d.ledger with epoch := d.ledger.epoch + 1 } } := by
  simp [effEpoch, haon, href, htouched]

/-- The die with the sweep of its epoch noted. -/
def sweepNoted (d : Die) : Die := { d with ledger := { d.ledger with sweptEpoch := some d.ledger.epoch } }

/-- An entry whose age is past 16,384 set to it. -/
def sweepEntry (epoch : BitVec 32) (e : Die) (p : BitVec 48 × Nat) : Die :=
  if entTier (pkg128 e p.2) ≤ 1 && decide (16384 < ageOf e (pkg128 e p.2)) then
    writeAge e p.2 (BitVec.ofNat 16 (epoch.toNat + 0x10000 - 16384)) else e

theorem effSweep_sweeps (hdue : d.ledger.epoch.extractLsb' 0 12 = 0) (hnew : d.ledger.sweptEpoch ≠ some d.ledger.epoch) :
    effSweep d = (allBerths (sweepNoted d)).foldl (sweepEntry d.ledger.epoch) (sweepNoted d) := by
  unfold effSweep
  exact if_neg (by simp [hdue, hnew])

theorem effSweep_done (h : d.ledger.sweptEpoch = some d.ledger.epoch) : effSweep d = d := by
  unfold effSweep
  exact if_pos (by simp [h])

theorem agesWritten_sweepEntry (epoch : BitVec 32) (e : Die) (p : BitVec 48 × Nat) : AgesWritten e (sweepEntry epoch e p) := by
  unfold sweepEntry
  split
  exacts [agesWritten_writeAge _ _ _, .refl e]

/-- The directory slots open, and the berths of their contexts, are what EN, the directory's base and package memory say. -/
theorem openCtxs_congr {d u : Die} (hbase : u.ledger.dirBase = d.ledger.dirBase) (hpkg : u.pkg = d.pkg) : openCtxs u = openCtxs d := by
  have hentry : dirEntry u = dirEntry d := funext fun s => by rw [dirEntry, dirEntry, dirAddr, dirAddr, hbase, pkg128_congr hpkg]
  rw [openCtxs, openCtxs, dirEn, dirEn, hbase, hentry]

theorem allBerths_congr {d u : Die} (hbase : u.ledger.dirBase = d.ledger.dirBase) (hpkg : u.pkg = d.pkg) : allBerths u = allBerths d := by
  rw [allBerths, allBerths, openCtxs_congr hbase hpkg]

theorem exec_ageSweep_sweeps {s : State} (hdue : s.die.ledger.epoch.extractLsb' 0 12 = 0)
    (hnew : s.die.ledger.sweptEpoch ≠ some s.die.ledger.epoch) :
    ∃ u : Die, exec .ageSweep s = .next (s.withDie u) ∧ u.ledger.sweptEpoch = some s.die.ledger.epoch ∧
      u.ledger.epoch = s.die.ledger.epoch ∧ u.mem = s.die.mem ∧
      (∀ h a, allBerths s.die = [(h, a)] → entTier (pkg128 s.die a) ≤ 1 → 16384 < ageOf s.die (pkg128 s.die a) →
        u = writeAge (sweepNoted s.die) a (BitVec.ofNat 16 (s.die.ledger.epoch.toNat + 0x10000 - 16384))) := by
  have hsweep := effSweep_sweeps hdue hnew
  rw [allBerths_congr (d := s.die) (u := sweepNoted s.die) rfl rfl] at hsweep
  refine ⟨_, onDie_eq hsweep, ?_⟩
  obtain ⟨_, _, he⟩ := AgesWritten.foldl (agesWritten_sweepEntry s.die.ledger.epoch) (allBerths s.die) (sweepNoted s.die)
  refine ⟨by rw [he]; rfl, by rw [he]; rfl, by rw [he]; rfl, fun h a hone htier hage => ?_⟩
  rw [hone]
  have hset : (decide (entTier (pkg128 (sweepNoted s.die) a) ≤ 1) &&
      decide (16384 < ageOf (sweepNoted s.die) (pkg128 (sweepNoted s.die) a))) = true := by
    rw [Bool.and_eq_true, decide_eq_true_eq, decide_eq_true_eq]
    exact ⟨htier, hage⟩
  exact if_pos hset

end Sys2Proof.Machine
end

section
/-! PROOF. O20, the Ledger after a reset: recovery and loss (R198, R221 to R223, R307), and the statement. -/

namespace Sys2Proof.Machine

section Reset

variable {d : Die}

/-- The hub's report that package memory was kept calls for recovery. -/
theorem effPkgMem_kept (hmem : d.ledger.memState = 1) (hlink : d.link.state = 7) :
    effPkgMem true d = { d with ledger := { d.ledger with memState := 2 } } := by
  simp [effPkgMem, hmem, hlink]

/-! ### The other dies told (R198, R263) -/

/-- From `d` to `u` messages to peers were sent or put in line. -/
def PeersTold (d u : Die) : Prop := ∃ busy queue out, u = { d with
  stew := { d.stew with peerBusy := busy, peerQueue := queue }, out := out }

theorem PeersTold.trans {d e u : Die} : PeersTold d e → PeersTold e u → PeersTold d u := by
  rintro ⟨_, _, _, rfl⟩ ⟨_, _, _, rfl⟩
  exact ⟨_, _, _, rfl⟩

theorem PeersTold.mem {d u : Die} : PeersTold d u → u.mem = d.mem := by
  rintro ⟨_, _, _, rfl⟩
  rfl

theorem peersTold_sendPeer (d : Die) (p : BitVec 2) (m : PeerMsg) : PeersTold d (sendPeer d p m) := by
  unfold sendPeer
  split
  exacts [⟨_, _, _, rfl⟩, ⟨_, _, _, rfl⟩]

theorem peersTold_tellLoss (d : Die) : PeersTold d (tellLoss d) := by
  unfold tellLoss
  generalize d.ident.dieNum = self
  induction otherDies d generalizing d with
  | nil => exact ⟨_, _, _, rfl⟩
  | cons p l ih => exact (peersTold_sendPeer d p _).trans (ih _)

/-- The die once the others know of a loss that is not yet marked. -/
def lossTold (d : Die) : Die := if d.lodge.lossUnmarked then tellLoss d else d

theorem peersTold_lossTold (d : Die) : PeersTold d (lossTold d) := by
  unfold lossTold
  split
  exacts [peersTold_tellLoss d, ⟨_, _, _, rfl⟩]

/-! ### Recovery (R221, R223) -/

/-- From `d` to `u` recovery changed entries of package memory, reported, and logged. -/
def EntriesRecovered (d u : Die) : Prop := ∃ pkg stew flt, u = { d with pkg := pkg, stew := stew, flt := flt }

theorem EntriesRecovered.trans {d e u : Die} : EntriesRecovered d e → EntriesRecovered e u → EntriesRecovered d u := by
  rintro ⟨_, _, _, rfl⟩ ⟨_, _, _, rfl⟩
  exact ⟨_, _, _, rfl⟩

theorem EntriesRecovered.mem {d u : Die} : EntriesRecovered d u → u.mem = d.mem := by
  rintro ⟨_, _, _, rfl⟩
  rfl

theorem EntriesRecovered.foldl {α : Type} {f : Die → α → Die} (hf : ∀ e x, EntriesRecovered e (f e x)) (l : List α) (d : Die) :
    EntriesRecovered d (l.foldl f d) := by
  induction l generalizing d with
  | nil => exact ⟨_, _, _, rfl⟩
  | cons x l ih => exact (hf d x).trans (ih (f d x))

theorem entriesRecovered_recoverEntry (d : Die) (p : BitVec 48 × Nat) : EntriesRecovered d (recoverEntry d p) := by
  unfold recoverEntry
  extract_lets e own d1
  have hd1 : EntriesRecovered d d1 := by
    unfold d1
    split
    · exact ⟨_, _, _, rfl⟩
    · split
      exacts [⟨_, _, _, rfl⟩, ⟨_, _, _, rfl⟩]
  split
  · exact ⟨_, _, _, rfl⟩
  · split
    · exact ⟨_, _, _, rfl⟩
    · split
      exacts [hd1.trans ⟨_, _, _, rfl⟩, hd1]

theorem entriesRecovered_recoverCtx (d : Die) (p : Nat × BitVec 128) : EntriesRecovered d (recoverCtx d p) := by
  unfold recoverCtx
  split
  exacts [⟨_, _, _, rfl⟩, ⟨_, _, _, rfl⟩]

/-- A move that the reset interrupted is given its old place back. -/
theorem recoverEntry_moving {h : BitVec 48} {a : Nat} (hlegal : entLegal (pkg128 d a) = true) (htier : entTier (pkg128 d a) ≠ tierLodge)
    (hstate : entState (pkg128 d a) = stMoving) :
    recoverEntry d (h, a) = putPkg128 d a (entPut (pkg128 d a) (entTier (pkg128 d a)) stValid 0 (entLoc (pkg128 d a)) 0 false) := by
  have hother : (entTier (pkg128 d a) == tierLodge) = false := by simpa using htier
  simp only [recoverEntry, hlegal, hother, hstate, Bool.not_true, Bool.false_and, Bool.false_eq_true, if_false, if_true]

/-- The die with its entries and contexts recovered, its free maps not yet made. -/
def entriesRecovered (d : Die) : Die :=
  let d2 := (allBerths (lossTold d)).foldl recoverEntry (lossTold d)
  (openCtxs d2).foldl recoverCtx d2

theorem entriesRecovered_entriesRecovered (d : Die) : EntriesRecovered (lossTold d) (entriesRecovered d) :=
  (EntriesRecovered.foldl entriesRecovered_recoverEntry _ _).trans (.foldl entriesRecovered_recoverCtx _ _)

theorem entriesRecovered_mem (d : Die) : (entriesRecovered d).mem = d.mem :=
  (entriesRecovered_entriesRecovered d).mem.trans (peersTold_lossTold d).mem

theorem openCtxs_of_no_dir (h : dirEn d = false) : openCtxs d = [] := by
  rw [openCtxs, h]
  rfl

/-- Without a directory there is nothing to recover. -/
theorem entriesRecovered_of_no_dir (h : dirEn d = false) : (entriesRecovered d).pkg = d.pkg := by
  obtain ⟨_, _, _, htold⟩ := peersTold_lossTold d
  have hdir : dirEn (lossTold d) = false := by rw [htold]; exact h
  have hnone := openCtxs_of_no_dir hdir
  have hall : allBerths (lossTold d) = [] := by rw [allBerths, hnone]; rfl
  unfold entriesRecovered
  dsimp only
  rw [hall, List.foldl_nil, hnone, List.foldl_nil, htold]

/-- The free maps are made of what the entries name. -/
theorem usedPlaces_congr {d u : Die} (hbase : u.ledger.dirBase = d.ledger.dirBase) (hpkg : u.pkg = d.pkg) : usedPlaces u = usedPlaces d := by
  have hentry : pkg128 u = pkg128 d := funext (pkg128_congr hpkg)
  rw [usedPlaces, usedPlaces, allBerths_congr hbase hpkg, hentry]

/-- The die with the free maps made anew and the loss marked. -/
def mapsMade (d : Die) : Die := { d with
  ledger := { d.ledger with memState := 0, used := (usedPlaces d).eraseDups }, lodge := { d.lodge with lossUnmarked := false } }

/-- The die after recovery, classes 8 and 9 counted from what it found. -/
def recovered (d : Die) : Die := setCons (setCons (mapsMade d) 8 (allocated (mapsMade d)) 0) 9 (usedPlaces d).eraseDups.length 0

theorem recovered_ledger (d : Die) : (recovered d).ledger = (mapsMade d).ledger := rfl
theorem recovered_lodge (d : Die) : (recovered d).lodge = (mapsMade d).lodge := rfl
theorem recovered_pkg (d : Die) : (recovered d).pkg = d.pkg := rfl
theorem recovered_mem (d : Die) : (recovered d).mem = d.mem := rfl

theorem usedPlaces_recovered (d : Die) : usedPlaces (recovered d) = usedPlaces d :=
  usedPlaces_congr (by rw [recovered_ledger]; rfl) (recovered_pkg d)

theorem effRecovery_runs (h : d.ledger.memState = 2) : effRecovery d = recovered (entriesRecovered d) := by
  unfold effRecovery
  exact if_neg (by simp [h])

theorem exec_ledgerRecovery_recovers {s : State} (h : s.die.ledger.memState = 2) :
    ∃ u : Die, exec .ledgerRecovery s = .next (s.withDie u) ∧ u.ledger.memState = 0 ∧ u.ledger.used = (usedPlaces u).eraseDups ∧
      u.lodge.lossUnmarked = false ∧ tabGet 0 u.flt.returned 9 = 0 ∧ u.mem = s.die.mem ∧ (dirEn s.die = false → u.pkg = s.die.pkg) := by
  refine ⟨recovered (entriesRecovered s.die), onDie_eq (effRecovery_runs h), ?_, ?_, ?_, tabGet_set _ _ _ _, ?_, fun hdir => ?_⟩
  · rw [recovered_ledger]
    rfl
  · rw [recovered_ledger, usedPlaces_recovered]
    rfl
  · rw [recovered_lodge]
    rfl
  · rw [recovered_mem, entriesRecovered_mem]
  · rw [recovered_pkg, entriesRecovered_of_no_dir hdir]

/-! ### Loss (R222) -/

/-- The die with nothing placed and nothing held. -/
def placementsCleared (d : Die) : Die := { d with
  ledger := { d.ledger with
    dirBase := 0, arrayBase := 0, arrayBytes := 0, poolBase := 0, poolBerths := 0, cache := [], dirCache := [], touched := [],
    writes := [], holds := [], moves := [], jobs := [], used := [], bins := [], memState := 0 },
  stew := { d.stew with opened := [] }, lodge := { d.lodge with lossUnmarked := false } }

theorem zeroCons_frame (d : Die) (c : Nat) : ∃ flt, zeroCons d c = { d with flt := flt } := ⟨_, rfl⟩

theorem effLost_clears (h : d.ledger.memState = 3) : effLost d = postEvent (zeroCons (zeroCons (placementsCleared (lossTold d)) 8) 9) 0x0016
    (leBytes 8 (lossTold d).ledger.dirBase.toNat) := by
  unfold effLost
  exact if_neg (by simp [h])

theorem exec_ledgerLost_clears {s : State} (h : s.die.ledger.memState = 3) :
    ∃ u : Die, exec .ledgerLost s = .next (s.withDie u) ∧ u.ledger.dirBase = 0 ∧ u.ledger.poolBerths = 0 ∧ u.ledger.holds = [] ∧
      u.ledger.memState = 0 ∧ u.stew.opened = [] ∧ u.ledger.epoch = s.die.ledger.epoch ∧ u.pkg = s.die.pkg ∧ u.mem = s.die.mem ∧
      u.stew.events = s.die.stew.events ++ [⟨0x0016, 0, 0, 0, leBytes 8 s.die.ledger.dirBase.toNat⟩] := by
  have hlost := effLost_clears h
  obtain ⟨_, hfirst⟩ := zeroCons_frame (placementsCleared (lossTold s.die)) 8
  obtain ⟨_, hsecond⟩ := zeroCons_frame (zeroCons (placementsCleared (lossTold s.die)) 8) 9
  obtain ⟨_, _, _, htold⟩ := peersTold_lossTold s.die
  rw [hsecond, hfirst, htold] at hlost
  exact ⟨_, onDie_eq hlost, rfl, rfl, rfl, rfl, rfl, rfl, rfl, rfl, rfl⟩

end Reset

/-! ### The statement -/

/-- Settles O20: the Lodge's slots, the commits and fills, and what follows a reset, each by the lemma of its command. -/
theorem lodgeAndLedger : Obligations.LodgeAndLedger := by
  unfold Obligations.LodgeAndLedger
  refine ⟨fun s c bank => ?lodge, fun s n w q o => ?service, fun s => ?recovery⟩
  case lodge =>
    intro d b l p q
    exact ⟨fun hstill => ⟨onDie_eq (effRefreshSlot_still hstill), onDie_eq (effScrubSlot_still hstill), onDie_eq (effRetire_still hstill)⟩,
      exec_refreshSlot_advances rfl,
      fun hrun hslot hrow => ⟨_, onDie_eq (effScrubSlot_spare rfl hrun hslot hrow), rfl, scrubRow_scrubbed d b, slotIndex_nextSlot _ _ _⟩,
      fun r => exec_scrubSlot_corrects rfl, fun key ue sp => exec_softRepairRetire_moves rfl⟩
  case service =>
    intro d
    refine ⟨fun hw hfirst hmoves => ⟨onDie_eq (effCommit_first hw hfirst hmoves), elseSame_leBytes _ _ _ _⟩, fun rd => ?_⟩
    exact exec_ledgerCacheFill_answers
  case recovery =>
    intro d l
    exact ⟨fun hmem hlink => onDie_eq (effPkgMem_kept hmem hlink), exec_ledgerRecovery_recovers, fun h a => recoverEntry_moving,
      exec_ledgerLost_clears, fun haon href htouched => onDie_eq (effEpoch_untouched haon href htouched), exec_ageSweep_sweeps,
      fun hdone => onDie_eq (effSweep_done hdone)⟩

end Sys2Proof.Machine
end

section
/-! PROOF. O19: what tally units do with requests and wakes, and what wakes and replies do at their cores (R249 to R251, R253). -/

namespace Sys2Proof.Machine

/-! ### Requests heard at their unit (R249, R251) -/

/-- The die once the n-th request under way, `r`, has reached its unit, which accepts it. -/
def requestHeard (d : Die) (n : Nat) (r : TallyReq) : Die := headArrives r (cons (dropReq d n) 3 1 1)

/-- What has come by the ACLK in which the unit of `r` accepts it. -/
def heardAt (d : Die) (r : TallyReq) : Die := waitUntil d (max r.due (tabGet 0 d.tally.nextHead (unitOf r.index).toNat))

theorem requestHeard_frame (d : Die) (n : Nat) (r : TallyReq) : (requestHeard d n r).mem = d.mem ∧
    (requestHeard d n r).cores = (heardAt d r).cores ∧ (requestHeard d n r).aclk = (heardAt d r).aclk := ⟨rfl, rfl, rfl⟩

/-- Of the units' state, only the request and the ACLK in which its unit takes the next one move. -/
theorem requestHeard_tally (d : Die) (n : Nat) (r : TallyReq) : (requestHeard d n r).tally = { d.tally with
    reqs := d.tally.reqs.eraseIdx n,
    nextHead := tabSet 0 d.tally.nextHead (unitOf r.index).toNat ((heardAt d r).aclk + 1) } := rfl

/-- An operation moves counts, waiters and wakes, and nothing of what is under way. -/
theorem tallyPerform_underWay (d : Die) (r : TallyReq) : ∃ counts ops waiters wakes,
    (tallyPerform d r).1.tally = { d.tally with counts := counts, ops := ops, waiters := waiters, wakes := wakes } := by
  unfold tallyPerform
  dsimp only
  split
  exacts [⟨_, _, _, _, rfl⟩, ⟨_, _, _, _, rfl⟩]

theorem tallyPerform_aclk (d : Die) (r : TallyReq) : (tallyPerform d r).1.aclk = d.aclk := by
  obtain ⟨e, he, htaken⟩ := tallyPerform_takes d r
  rw [he]
  exact htaken.aclk

/-- The reply of a unit that performs `r`: the count before it, there 9 ACLK later (R251). -/
def replyOf (d : Die) (r : TallyReq) : TallyRep :=
  ⟨r.endpoint, r.die, r.thread, r.party, r.epoch, r.tag, tallyCount d r.index, (tallyPerform d r).2.2, r.op == 4, r.armSeq,
    (tallyPerform d r).1.aclk + 9⟩

/-- A request performed, its reply under way. -/
def requestAnswered (d : Die) (r : TallyReq) : Die :=
  let u := (tallyPerform d r).1
  { u with tally := { u.tally with replies := u.tally.replies ++ [replyOf d r] } }

section Request

variable {s : State} {d : Die} {n : Nat} {r : TallyReq}

theorem effTallyReq_performs (hr : d.tally.reqs[n]? = some r) (hop : r.op ≠ 5) (hfirst : reqFirst d n r = true) :
    effTallyReq n d = requestAnswered (requestHeard d n r) r := by
  have hgo : ¬ (r.op = 5 || !reqFirst d n r) = true := by rw [decide_eq_false hop, hfirst]; exact Bool.false_ne_true
  unfold effTallyReq
  rw [hr]
  exact if_neg hgo

theorem effTallyCancel_cancels (hr : d.tally.reqs[n]? = some r) (hop : r.op = 5) (hfirst : reqFirst d n r = true) :
    effTallyCancel n d = cancelArm (requestHeard d n r) r.die r.endpoint r.thread r.armSeq := by
  have hgo : ¬ (r.op ≠ 5 || !reqFirst d n r) = true := by simp [hop, hfirst]
  unfold effTallyCancel
  rw [hr]
  exact if_neg hgo

theorem exec_tallyReqArrival_performs (hr : s.die.tally.reqs[n]? = some r) (hop : r.op ≠ 5) (hfirst : reqFirst s.die n r = true) :
    ∃ u : Die, exec (.tallyReqArrival n) s = .next (s.withDie u) ∧ tallyCount u r.index = newCount s.die r ∧
      u.tally.reqs = s.die.tally.reqs.eraseIdx n ∧
      (∃ q, u.tally.replies = s.die.tally.replies ++ [q] ∧ q.count = tallyCount s.die r.index ∧ q.tag = r.tag ∧
        q.endpoint = r.endpoint ∧ q.due = (heardAt s.die r).aclk + 9) ∧
      tabGet 0 u.tally.nextHead (unitOf r.index).toNat = (heardAt s.die r).aclk + 1 ∧ u.mem = s.die.mem ∧
      u.cores = (heardAt s.die r).cores := by
  obtain ⟨counts, ops, waiters, wakes, htally⟩ := tallyPerform_underWay (requestHeard s.die n r) r
  obtain ⟨hmem, hcores⟩ := tallyPerform_frame (requestHeard s.die n r) r
  obtain ⟨hheardMem, hheardCores, hheardAclk⟩ := requestHeard_frame s.die n r
  rw [requestHeard_tally] at htally
  refine ⟨_, onDie_eq (effTallyReq_performs hr hop hfirst), (tallyPerform_count _ r _).trans (if_pos rfl), congrArg TallySt.reqs htally,
    ⟨replyOf (requestHeard s.die n r) r, congrArg (·.replies ++ _) htally, rfl, rfl, rfl,
      congrArg (· + 9) ((tallyPerform_aclk _ r).trans hheardAclk)⟩, ?_, hmem.trans hheardMem, hcores.trans hheardCores⟩
  exact (congrArg (tabGet 0 ·.nextHead _) htally).trans (tabGet_set _ _ _ _)

theorem exec_tallyCancel_withdraws (hr : s.die.tally.reqs[n]? = some r) (hop : r.op = 5) (hfirst : reqFirst s.die n r = true) :
    ∃ u : Die, exec (.tallyCancel n) s = .next (s.withDie u) ∧ u.tally.reqs = s.die.tally.reqs.eraseIdx n ∧
      u.tally.counts = s.die.tally.counts ∧ u.cores = (heardAt s.die r).cores ∧
      (∀ w ∈ u.tally.waiters, ¬ (w.arm = true ∧ w.die = r.die ∧ w.endpoint = r.endpoint ∧ w.thread = r.thread ∧ w.armSeq = r.armSeq)) := by
  refine ⟨_, onDie_eq (effTallyCancel_cancels hr hop hfirst), rfl, rfl, rfl, fun w hw hgone => ?_⟩
  obtain ⟨harm, hdie, hendpoint, hthread, hseq⟩ := hgone
  have hkept := (List.mem_filter.mp hw).2
  simp [harm, hdie, hendpoint, hthread, hseq] at hkept

end Request

/-! ### Wakes (R250, R251, R253) -/

section Wake

variable {d : Die} {n : Nat} {v : Waiter}

/-- The unit's oldest wake on its way to a core of this die. -/
def wakeSent (d : Die) (unit : BitVec 2) (v : Waiter) : Die :=
  let d0 := waitUntil d (max v.due (tabGet 0 d.tally.nextWake unit.toNat))
  { d0 with tally := { d.tally with
    wakes := d.tally.wakes.erase v, nextWake := tabSet 0 d.tally.nextWake unit.toNat (d0.aclk + 1),
    flying := d.tally.flying ++ [{ v with due := d0.aclk + 3 * unitHops unit (endpointCore v.endpoint) + 2 }] } }

theorem effWakeSend_here {unit : BitVec 2} (hv : d.tally.wakes.find? (fun w => w.unit == unit) = some v) (hdie : v.die = d.ident.dieNum) :
    effWakeSend unit d = wakeSent d unit v := by
  unfold effWakeSend
  rw [hv]
  exact if_pos hdie

/-- The n-th travelling wake come, at the cycle `d0` stands at. -/
def wakeLanded (d0 : Die) (n : Nat) : Die := { d0 with tally := { d0.tally with flying := d0.tally.flying.eraseIdx n } }

theorem effWakeDelivery_delivers (hv : d.tally.flying[n]? = some v)
    (hfirst : (d.tally.flying.take n).any (fun w => w.unit == v.unit && w.endpoint == v.endpoint) = false)
    (hport : portCheck (waitUntil d v.due) (endpointCore v.endpoint) v.party v.epoch = none) :
    effWakeDelivery n d = cons (takeWake (wakeLanded (waitUntil d v.due) n) (endpointCore v.endpoint) v.thread v.arm v.armSeq v.index) 3 1 1 := by
  have hdeliver : deliverWake (wakeLanded (waitUntil d v.due) n) (endpointCore v.endpoint) v.party v.epoch v.thread v.arm v.armSeq v.index
      = takeWake (wakeLanded (waitUntil d v.due) n) (endpointCore v.endpoint) v.thread v.arm v.armSeq v.index := by
    have hsame : portCheck (wakeLanded (waitUntil d v.due) n) (endpointCore v.endpoint) v.party v.epoch = none := hport
    unfold deliverWake
    rw [hsame]
  rw [← hdeliver]
  unfold effWakeDelivery
  rw [hv]
  exact if_neg (by simp [hfirst])

theorem takeWake_resumes {c : CoreId} {t : Bool} {name : BitVec 19} {target : BitVec 32} {seq : BitVec 4} {index : BitVec 16}
    (hwait : (threadAt d c t).wait = .tally name target) (hname : name.extractLsb' 0 16 = index) :
    takeWake d c t false seq index = setCore d c (resumeTally (getCore d c) t) := by
  unfold takeWake
  dsimp only
  rw [if_neg Bool.false_ne_true, hwait]
  exact if_pos hname

/-- A resumed thread waits for nothing and is otherwise as it was. -/
theorem getThread_resumeTally (x : Core) (t : Bool) : getThread (resumeTally x t) t = { getThread x t with wait := .none } := by
  cases t <;> rfl

theorem exec_tallyWakeDelivery_resumes {s : State} (hv : s.die.tally.flying[n]? = some v)
    (hfirst : (s.die.tally.flying.take n).any (fun w => w.unit == v.unit && w.endpoint == v.endpoint) = false) (harm : v.arm = false)
    (hport : portCheck (waitUntil s.die v.due) (endpointCore v.endpoint) v.party v.epoch = none)
    (hwait : ∃ name target, (threadAt (waitUntil s.die v.due) (endpointCore v.endpoint) v.thread).wait = .tally name target ∧
      name.extractLsb' 0 16 = v.index) :
    ∃ u : Die, exec (.tallyWakeDelivery n) s = .next (s.withDie u) ∧
      (threadAt u (endpointCore v.endpoint) v.thread).wait = .none ∧ u.tally.flying = s.die.tally.flying.eraseIdx n ∧ u.mem = s.die.mem ∧
      (threadAt u (endpointCore v.endpoint) v.thread).pc = (threadAt (waitUntil s.die v.due) (endpointCore v.endpoint) v.thread).pc := by
  obtain ⟨name, target, hwait, hname⟩ := hwait
  have hdelivered := effWakeDelivery_delivers hv hfirst hport
  rw [harm, takeWake_resumes (d := wakeLanded (waitUntil s.die v.due) n) hwait hname] at hdelivered
  have hthread : threadAt (setCore (wakeLanded (waitUntil s.die v.due) n) (endpointCore v.endpoint)
      (resumeTally (getCore (waitUntil s.die v.due) (endpointCore v.endpoint)) v.thread)) (endpointCore v.endpoint) v.thread =
      { threadAt (waitUntil s.die v.due) (endpointCore v.endpoint) v.thread with wait := .none } := by
    rw [threadAt, getCore_setCore, getThread_resumeTally]
  exact ⟨_, onDie_eq hdelivered, congrArg Thread.wait hthread, rfl, rfl, (congrArg Thread.pc hthread).trans rfl⟩

end Wake

/-! ### Replies (R157, R251) -/

/-- The n-th reply come, at the cycle `d0` stands at. -/
def replyLanded (d0 : Die) (n : Nat) : Die := { d0 with tally := { d0.tally with replies := d0.tally.replies.eraseIdx n } }

/-- A core without one of its open tags. -/
def tagFreed (x : Core) (o : OpenTag) : Core := { x with tags := x.tags.erase o }

theorem effTallyReply_answers {d : Die} {n : Nat} {p : TallyRep} {o : OpenTag} (hp : d.tally.replies[n]? = some p)
    (ho : (getCore (waitUntil d p.due) (endpointCore p.endpoint)).tags.find? (fun o => o.tag == p.tag && !o.remote) = some o) :
    effTallyReply n d = takeReply (replyLanded (waitUntil d p.due) n) (endpointCore p.endpoint) o p.count p.met := by
  have hsame : (getCore (replyLanded (waitUntil d p.due) n) (endpointCore p.endpoint)).tags.find? (fun o => o.tag == p.tag && !o.remote) =
      some o := ho
  unfold effTallyReply
  rw [hp]
  dsimp only
  rw [replyLanded] at hsame
  rw [hsame]
  rfl

theorem tags_setThread (x : Core) (t : Bool) (th : Thread) : (setThread x t th).tags = x.tags := by cases t <;> rfl

/-- What an answer does to its core beside the tag. -/
def answerTaken (x : Core) (o : OpenTag) (count : BitVec 32) (met : Bool) : Core :=
  match o.kind with
  | .tallyFetch rd k => setThread x o.thread (payReg rd k (count.setWidth 64) (getThread x o.thread))
  | .tallyWait _ => if met then resumeTally x o.thread else x
  | .tallyArm => if met && (getThread x o.thread).armSeq == o.armSeq then armMet x o.thread else x
  | _ => x

theorem takeReply_eq (d : Die) (c : CoreId) (o : OpenTag) (count : BitVec 32) (met : Bool) :
    takeReply d c o count met = setCore (cons d 4 0 1) c (answerTaken (tagFreed (getCore d c) o) o count met) := by
  unfold takeReply answerTaken
  cases o.kind <;> rfl

theorem answerTaken_tags (x : Core) (o : OpenTag) (count : BitVec 32) (met : Bool) : (answerTaken x o count met).tags = x.tags := by
  unfold answerTaken
  split
  · exact tags_setThread _ _ _
  · split
    exacts [tags_setThread _ _ _, rfl]
  · split
    exacts [tags_setThread _ _ _, rfl]
  · rfl

theorem answerTaken_fetch {x : Core} {o : OpenTag} {rd : BitVec 6} {k : Owed} (hkind : o.kind = .tallyFetch rd k) (count : BitVec 32)
    (met : Bool) : getThread (answerTaken x o count met) o.thread = payReg rd k (count.setWidth 64) (getThread x o.thread) := by
  rw [answerTaken, hkind]
  exact getThread_setThread _ _ _

theorem exec_tallyReply_answers {s : State} {n : Nat} {p : TallyRep} {o : OpenTag} (hp : s.die.tally.replies[n]? = some p)
    (ho : (getCore (waitUntil s.die p.due) (endpointCore p.endpoint)).tags.find? (fun o => o.tag == p.tag && !o.remote) = some o) :
    ∃ u : Die, exec (.tallyReply n) s = .next (s.withDie u) ∧ u.tally.replies = s.die.tally.replies.eraseIdx n ∧ u.mem = s.die.mem ∧
      (getCore u (endpointCore p.endpoint)).tags = (getCore (waitUntil s.die p.due) (endpointCore p.endpoint)).tags.erase o ∧
      (∀ rd k, o.kind = .tallyFetch rd k → (threadAt u (endpointCore p.endpoint) o.thread).regs =
        writeReg (threadAt (waitUntil s.die p.due) (endpointCore p.endpoint) o.thread).regs rd.toNat (p.count.setWidth 64)) := by
  refine ⟨_, onDie_eq ((effTallyReply_answers hp ho).trans (takeReply_eq _ _ _ _ _)), rfl, rfl, ?_, fun rd k hkind => ?_⟩
  · rw [getCore_setCore, answerTaken_tags]
    rfl
  · rw [threadAt, getCore_setCore, answerTaken_fetch hkind]
    cases o.thread <;> rfl

/-- Settles O19: each event by what its unit or its core does with it. -/
theorem tallyEventsDeliver : Obligations.TallyEventsDeliver := by
  unfold Obligations.TallyEventsDeliver
  intro s n r v p o y d heard
  refine ⟨exec_tallyReqArrival_performs, exec_tallyCancel_withdraws, fun unit hv hdie => onDie_eq (effWakeSend_here hv hdie),
    exec_tallyWakeDelivery_resumes, exec_tallyReply_answers⟩

end Sys2Proof.Machine
end

section
/-! PROOF. O36: what a core's port does with a mesh packet, and what a NACK and a double-bit link error do (R233, R235, R242, R243). -/

namespace Sys2Proof.Machine

/-! ### Refusals (R235, R243) -/

/-- The argument of a NACK says why and what was refused. -/
theorem nackOf_arg (dest src : BitVec 12) {reason cls typ : Nat} (tag : BitVec 9) (arg : BitVec 64) (hreason : reason < 4) (hcls : cls < 4)
    (htyp : typ < 16) :
    let v := (nackOf dest src reason cls typ tag arg).arg
    fld v 62 2 = reason ∧ fld v 60 2 = cls ∧ fld v 56 4 = typ ∧ fld v 47 9 = tag.toNat ∧ fld v 0 47 = arg.toNat % 2 ^ 47 := by
  have htag := tag.isLt
  simp only [nackOf, packed, List.foldl_cons, List.foldl_nil]
  refine ⟨?reason, ?cls, ?typ, ?tag, ?arg⟩
  case reason => rw [fld_putFld_apart, fld_putFld_apart, fld_putFld_apart, fld_putFld_apart, fld_putFld_same] <;> omega
  case cls => rw [fld_putFld_apart, fld_putFld_apart, fld_putFld_apart, fld_putFld_same] <;> omega
  case typ => rw [fld_putFld_apart, fld_putFld_apart, fld_putFld_same] <;> omega
  case tag => rw [fld_putFld_apart, fld_putFld_same] <;> omega
  case arg => exact fld_putFld_same _ _ (by omega)

/-- What `u` has sent beside what `d` had is a NACK of party 0 to the source of `p`. -/
def Nacked (d : Die) (p : Packet) (reason : Nat) (u : Die) : Prop :=
  ∃ q : Packet, u.out = d.out ++ [.packet q] ∧ q.cls = 3 ∧ q.typ = 6 ∧ q.lenm1 = 0 ∧ q.dest = p.src ∧ q.src = p.dest ∧ q.party = 0 ∧
    q.epoch = 0 ∧ q.tag = p.tag ∧ fld q.arg 62 2 = reason ∧ fld q.arg 60 2 = p.cls.toNat ∧ fld q.arg 56 4 = p.typ.toNat ∧
    fld q.arg 47 9 = p.tag.toNat ∧ fld q.arg 0 47 = p.arg.toNat % 2 ^ 47

theorem refusePacket_of_not_stream {p : Packet} (d : Die) (c : CoreId) (reason : Nat) (hcls : p.cls ≠ 2) :
    refusePacket d c p reason = refuseAtPort d reason p.cls.toNat p.typ.toNat p.dest p.src p.party p.epoch p.tag p.arg :=
  if_neg (by rw [decide_eq_false hcls]; exact Bool.false_ne_true)

theorem nacked_refusePacket {d : Die} {c : CoreId} {p : Packet} {reason : Nat} (hreason : reason < 4) (hcls : p.cls ≠ 2) :
    Nacked d p reason (refusePacket d c p reason) := by
  obtain ⟨hwhy, hclass, htype, htag, harg⟩ := nackOf_arg p.dest p.src p.tag p.arg hreason p.cls.isLt p.typ.isLt
  rw [refusePacket_of_not_stream d c reason hcls]
  exact ⟨_, rfl, rfl, rfl, rfl, rfl, rfl, rfl, rfl, rfl, hwhy, hclass, htype, htag, harg⟩

/-- What a refusal leaves beside the NACK: the count of its reason. -/
theorem refusePacket_frame {c : CoreId} {p : Packet} (d : Die) (reason : Nat) (hcls : p.cls ≠ 2) :
    (refusePacket d c p reason).cores = d.cores ∧ (refusePacket d c p reason).mem = d.mem ∧
    (refusePacket d c p reason).mesh.staleCnt = (if reason = 1 then satInc d.mesh.staleCnt else d.mesh.staleCnt) ∧
    (refusePacket d c p reason).mesh.resetCnt = (if reason = 0 then satInc d.mesh.resetCnt else d.mesh.resetCnt) := by
  rw [refusePacket_of_not_stream d c reason hcls]
  exact ⟨rfl, rfl, rfl, rfl⟩

/-! ### The port's verdict (R242, R377) -/

section Verdict

variable {d : Die} {c : CoreId} {p : Packet}

theorem portVerdict_broadcast (hcls : p.cls = 2) (htyp : p.typ = tyBroadcast) : portVerdict d c p = none :=
  if_pos (by rw [hcls, htyp]; rfl)

theorem not_broadcast_iff : (p.cls = 2 && p.typ == tyBroadcast) = false ↔ ¬ (p.cls = 2 ∧ p.typ = tyBroadcast) := by
  rw [← Bool.not_eq_true, Bool.and_eq_true, decide_eq_true_eq, beq_iff_eq]

theorem portVerdict_reset (hcast : ¬ (p.cls = 2 ∧ p.typ = tyBroadcast)) (hreset : (getCore d c).portReset = true) :
    portVerdict d c p = some 0 :=
  (if_neg (ne_true_of_eq_false (not_broadcast_iff.mpr hcast))).trans (if_pos hreset)

theorem portVerdict_req (hcls : p.cls = 0) (hup : (getCore d c).portReset = false) : portVerdict d c p = none := by
  unfold portVerdict
  dsimp only
  rw [hup, hcls]
  rfl

theorem portVerdict_rsp (hcls : p.cls = 1) (hup : (getCore d c).portReset = false) :
    portVerdict d c p = if hasReq (getCore d c) p.tag then none else some 1 := by
  unfold portVerdict
  dsimp only
  rw [hup, hcls]
  rfl

/-- STREAM and CTRL packets are checked by party and epoch. -/
theorem portVerdict_role (hcast : ¬ (p.cls = 2 ∧ p.typ = tyBroadcast)) (hcls : p.cls = 2 ∨ p.cls = 3) :
    portVerdict d c p = portCheck d c p.party p.epoch := by
  cases hreset : (getCore d c).portReset with
  | true => exact (portVerdict_reset hcast hreset).trans (if_pos hreset).symm
  | false =>
    have hcast := not_broadcast_iff.mpr hcast
    unfold portVerdict
    dsimp only
    rw [hcast, hreset]
    obtain hcls | hcls := hcls
    · rw [hcls]
      rfl
    · rw [hcls]
      rfl

theorem portCheck_reason {party : BitVec 12} {epoch : BitVec 8} {k : Nat} (h : portCheck d c party epoch = some k) : k < 2 := by
  unfold portCheck at h
  dsimp only at h
  split at h
  · cases h
    decide
  · split at h
    · cases h
    · cases h
      decide

/-! ### A packet at a core's port -/

/-- The die once a packet has come over the links to its port. -/
def packetArrived (p : Packet) (d : Die) : Die := cons (linkErrors d) 3 (packetFlits p) (packetFlits p)

theorem portVerdict_packetArrived : portVerdict (packetArrived p d) c p = portVerdict d c p := rfl

theorem effPacket_refused {reason : Nat} (hport : p.dest.toNat % 8 = 0) (h : portVerdict d (endpointCore p.dest) p = some reason) :
    effPacket p d = refusePacket (packetArrived p d) (endpointCore p.dest) p reason := by
  rw [← portVerdict_packetArrived] at h
  refine (if_pos hport).trans ?_
  rw [packetArrived] at h
  rw [h]
  rfl

theorem effPacket_delivered (hport : p.dest.toNat % 8 = 0) (h : portVerdict d (endpointCore p.dest) p = none) :
    effPacket p d = deliverPacket (packetArrived p d) (endpointCore p.dest) p := by
  rw [← portVerdict_packetArrived] at h
  refine (if_pos hport).trans ?_
  rw [packetArrived] at h
  rw [h]
  rfl

theorem exec_meshPacketDelivery_refuses {s : State} {reason : Nat} (hport : p.dest.toNat % 8 = 0) (hcls : p.cls ≠ 2)
    (hreason : reason < 4) (h : portVerdict s.die (endpointCore p.dest) p = some reason) :
    ∃ u : Die, exec (.meshPacketDelivery p) s = .next (s.withDie u) ∧ Nacked s.die p reason u ∧ u.cores = s.die.cores ∧
      u.mem = s.die.mem ∧ u.mesh.staleCnt = (if reason = 1 then satInc s.die.mesh.staleCnt else s.die.mesh.staleCnt) ∧
      u.mesh.resetCnt = (if reason = 0 then satInc s.die.mesh.resetCnt else s.die.mesh.resetCnt) :=
  ⟨_, onDie_eq (effPacket_refused hport h), nacked_refusePacket hreason hcls, refusePacket_frame (packetArrived p s.die) reason hcls⟩

end Verdict

/-! ### RSP and STREAM delivered (R242) -/

section Response

variable {d : Die} {c : CoreId} {p : Packet}

theorem deliverPacket_req (hcls : p.cls = 0) : deliverPacket d c p = serveReq d p := by
  unfold deliverPacket
  rw [hcls]
  rfl

theorem deliverPacket_rsp (hcls : p.cls = 1) : deliverPacket d c p = takeRsp c p d := by
  unfold deliverPacket
  rw [hcls]
  rfl

/-- STREAM flits reach their rings by the arrival commands, a core-monitor block by the core's own. -/
theorem deliverPacket_stream (hcls : p.cls = 2) : deliverPacket d c p = d := by
  unfold deliverPacket
  rw [hcls]
  rfl

theorem takeRsp_data (htyp : p.typ = 0) : takeRsp c p d = takeRspAs true false c p d := by
  unfold takeRsp
  rw [htyp]
  rfl

/-- Where the elements of one key have been replaced, one that has the key is a replacement. -/
theorem replaced_of_mem_map {α β : Type} [DecidableEq β] {key : α → β} {k : β} {f : α → α} {l : List α} {y : α}
    (hy : y ∈ l.map (fun x => if key x = k then f x else x)) (hkey : key y = k) : ∃ x, y = f x := by
  obtain ⟨x, -, rfl⟩ := List.mem_map.mp hy
  by_cases heq : key x = k
  · exact ⟨x, if_pos heq⟩
  · rw [if_neg heq] at hkey
    exact absurd hkey heq

/-- The status a RSP carries: that of an ERROR, 0 of DATA and ACK. -/
def rspStatus (p : Packet) : BitVec 8 := if p.typ = 2 then p.arg.extractLsb' 0 8 else 0

theorem takeRspAs_lines {line write : Bool} {y : LineReq} (hline : line = true) (hy : y ∈ (getCore (takeRspAs line write c p d) c).lines)
    (htag : y.tag = p.tag) : y.rsp = some (rspStatus p, p.data) := by
  rw [takeRspAs, getCore_modCore, hline] at hy
  obtain ⟨l, rfl⟩ := replaced_of_mem_map (key := LineReq.tag) hy htag
  rfl

theorem takeRspAs_lines_kept {line write : Bool} (hline : line = false) :
    (getCore (takeRspAs line write c p d) c).lines = (getCore d c).lines := by
  rw [takeRspAs, getCore_modCore, hline]
  rfl

theorem takeRspAs_writes {line write : Bool} {y : LineWrite} (hwrite : write = true)
    (hy : y ∈ (getCore (takeRspAs line write c p d) c).writes) (htag : y.tag = p.tag) : y.rsp = some (rspStatus p) := by
  rw [takeRspAs, getCore_modCore, hwrite] at hy
  obtain ⟨l, rfl⟩ := replaced_of_mem_map (key := LineWrite.tag) hy htag
  rfl

theorem takeRspAs_writes_kept {line write : Bool} (hwrite : write = false) :
    (getCore (takeRspAs line write c p d) c).writes = (getCore d c).writes := by
  rw [takeRspAs, getCore_modCore, hwrite]
  rfl

theorem exec_meshPacketDelivery_data {s : State} (hport : p.dest.toNat % 8 = 0)
    (hup : (getCore s.die (endpointCore p.dest)).portReset = false) (hcls : p.cls = 1) (htyp : p.typ = 0)
    (hreq : hasReq (getCore s.die (endpointCore p.dest)) p.tag = true) :
    ∃ u : Die, exec (.meshPacketDelivery p) s = .next (s.withDie u) ∧ u.out = s.die.out ∧ u.mem = s.die.mem ∧
      (∀ y ∈ (getCore u (endpointCore p.dest)).lines, y.tag = p.tag → y.rsp = some (0, p.data)) ∧
      (getCore u (endpointCore p.dest)).writes = (getCore s.die (endpointCore p.dest)).writes := by
  have hverdict := (portVerdict_rsp hcls hup).trans (if_pos hreq)
  have hstatus : rspStatus p = 0 := by rw [rspStatus, htyp]; rfl
  refine ⟨_, onDie_eq ((effPacket_delivered hport hverdict).trans ((deliverPacket_rsp hcls).trans (takeRsp_data htyp))), rfl, rfl,
    fun y hy htag => ?_, takeRspAs_writes_kept rfl⟩
  rw [takeRspAs_lines rfl hy htag, hstatus]

theorem exec_meshPacketDelivery_stream {s : State} (hport : p.dest.toNat % 8 = 0) (hcls : p.cls = 2)
    (h : portVerdict s.die (endpointCore p.dest) p = none) : exec (.meshPacketDelivery p) s = .next (s.withDie (packetArrived p s.die)) :=
  onDie_eq ((effPacket_delivered hport h).trans (deliverPacket_stream hcls))

/-- A STREAM packet is one flit, but for a broadcast of as many as its head says (R235). -/
theorem packetFlits_stream (hcls : p.cls = 2) : packetFlits p = if p.typ = tyBroadcast then p.lenm1.toNat + 1 else 1 := by
  by_cases htyp : p.typ = tyBroadcast
  · simp [packetFlits, hcls, htyp, tyBroadcast]
  · have hnot : ¬ p.typ = 3#4 := htyp
    simp [packetFlits, hcls, htyp, hnot]

end Response

/-! ### REQ served (R13, R14, R235, R242) -/

/-- A REQ's answer sent. -/
def responded (e : Die) (p : Packet) (typ : BitVec 4) (arg : BitVec 64) (data : BitVec 1024) : Die :=
  drew (cons (send e (.packet (replyTo p 1 typ p.party p.epoch arg data))) 3 1 1)

theorem responded_spec (e : Die) (p : Packet) (typ : BitVec 4) (arg : BitVec 64) (data : BitVec 1024) :
    (responded e p typ arg data).mem = e.mem ∧ ∃ q : Packet, (responded e p typ arg data).out.getLast? = some (.packet q) ∧ q.cls = 1 ∧
      q.dest = p.src ∧ q.tag = p.tag := ⟨rfl, replyTo p 1 typ p.party p.epoch arg data, List.getLast?_concat, rfl, rfl, rfl⟩

theorem serveReq_read {p : Packet} (d : Die) (htyp : p.typ = 0) :
    ∃ typ arg data, serveReq d p = responded (outsideRead d (reqAsk d p)).2.2 p typ arg data := by
  unfold serveReq
  rw [htyp]
  by_cases h : (outsideRead d (reqAsk d p)).1 = stOK
  exacts [⟨_, _, _, congrArg drew (if_pos h)⟩, ⟨_, _, _, congrArg drew (if_neg h)⟩]

theorem serveReq_write {p : Packet} (d : Die) (htyp : p.typ = 1) :
    ∃ typ arg data, serveReq d p =
      responded (outsideWrite d (reqAsk d p) (fun i => p.data.extractLsb' (8 * i) 8)).2 p typ arg data := by
  unfold serveReq
  rw [htyp]
  by_cases h : (outsideWrite d (reqAsk d p) (fun i => p.data.extractLsb' (8 * i) 8)).1 = stOK
  exacts [⟨_, _, _, congrArg drew (if_pos h)⟩, ⟨_, _, _, congrArg drew (if_neg h)⟩]

theorem outsideRead_mem (d : Die) (r : LineAsk) : (outsideRead d r).2.2.mem = d.mem := by
  have hsensed (l : List (Nat × Nat)) (c : CoreId) (base : Nat) :
      (l.foldl (fun e y => senseRows srcOutside c (base + y.1) y.2 e) d).mem = d.mem :=
    (RowsSensed.foldl (fun e (y : Nat × Nat) => rowsSensed_senseRows srcOutside c (base + y.1) y.2 e) l d).mem
  unfold outsideRead
  split
  case h_1 => rfl
  case h_2 => rfl
  case h_3 =>
    split
    case h_1 =>
      dsimp only
      split
      exacts [hsensed _ _ _, hsensed _ _ _]
    case h_2 => rfl

theorem exec_meshPacketDelivery_answers {s : State} {p : Packet} (hport : p.dest.toNat % 8 = 0) (hcls : p.cls = 0)
    (htyp : p.typ.toNat < 2) (hup : (getCore s.die (endpointCore p.dest)).portReset = false) :
    ∃ (u : Die) (q : Packet), exec (.meshPacketDelivery p) s = .next (s.withDie u) ∧ u.out.getLast? = some (.packet q) ∧ q.cls = 1 ∧
      q.dest = p.src ∧ q.tag = p.tag ∧ (p.typ = 0 → u.mem = s.die.mem) := by
  have hdelivered : exec (.meshPacketDelivery p) s = .next (s.withDie (serveReq (packetArrived p s.die) p)) :=
    onDie_eq ((effPacket_delivered hport (portVerdict_req hcls hup)).trans (deliverPacket_req hcls))
  obtain htyp | htyp : p.typ = 0 ∨ p.typ = 1 := by bv_omega
  · obtain ⟨typ, arg, data, hserved⟩ := serveReq_read (packetArrived p s.die) htyp
    obtain ⟨hmem, q, hout, hrsp, hdest, htag⟩ :=
      responded_spec (outsideRead (packetArrived p s.die) (reqAsk (packetArrived p s.die) p)).2.2 p typ arg data
    rw [hserved] at hdelivered
    exact ⟨_, q, hdelivered, hout, hrsp, hdest, htag, fun _ => hmem.trans (outsideRead_mem _ _)⟩
  · obtain ⟨typ, arg, data, hserved⟩ := serveReq_write (packetArrived p s.die) htyp
    obtain ⟨-, q, hout, hrsp, hdest, htag⟩ := responded_spec (outsideWrite (packetArrived p s.die) (reqAsk (packetArrived p s.die) p)
      (fun i => p.data.extractLsb' (8 * i) 8)).2 p typ arg data
    rw [hserved] at hdelivered
    exact ⟨_, q, hdelivered, hout, hrsp, hdest, htag, fun hread => absurd (htyp.symm.trans hread) (by decide)⟩

/-! ### NACKs received (R243) -/

section Nack

variable {s : State} {d : Die} {p : Packet}

/-- The error response that the NACK of a REQ stands for. -/
def nackRsp (p : Packet) : Packet := { p with typ := 2, tag := p.arg.extractLsb' 47 9, arg := 1 }

theorem effNack_request (hport : p.dest.toNat % 8 = 0) (hcls : fld p.arg 60 2 = 0) :
    effNack p d = takeRspAs (fld p.arg 56 4 == 0) (fld p.arg 56 4 == 1) (endpointCore p.dest) (nackRsp p) d :=
  if_pos (by rw [hport, hcls]; rfl)

theorem rspStatus_nackRsp (p : Packet) : rspStatus (nackRsp p) = 1 := by
  show (1#64).extractLsb' 0 8 = 1#8
  decide

theorem exec_nackReceipt_request (hport : p.dest.toNat % 8 = 0) (hcls : fld p.arg 60 2 = 0) :
    ∃ u : Die, exec (.nackReceipt p) s = .next (s.withDie u) ∧ u.mem = s.die.mem ∧ u.out = s.die.out ∧
      (if fld p.arg 56 4 = 0 then
        ∀ y ∈ (getCore u (endpointCore p.dest)).lines, y.tag = p.arg.extractLsb' 47 9 → ∃ v, y.rsp = some (1, v)
       else (getCore u (endpointCore p.dest)).lines = (getCore s.die (endpointCore p.dest)).lines) ∧
      (if fld p.arg 56 4 = 1 then
        ∀ y ∈ (getCore u (endpointCore p.dest)).writes, y.tag = p.arg.extractLsb' 47 9 → y.rsp = some 1
       else (getCore u (endpointCore p.dest)).writes = (getCore s.die (endpointCore p.dest)).writes) := by
  refine ⟨_, onDie_eq (effNack_request hport hcls), rfl, rfl, ?lines, ?writes⟩
  case lines =>
    split
    case isTrue h =>
      exact fun y hy htag => ⟨p.data, (takeRspAs_lines (beq_iff_eq.mpr h) hy htag).trans (by rw [rspStatus_nackRsp]; rfl)⟩
    case isFalse h => exact takeRspAs_lines_kept (beq_eq_false_iff_ne.mpr h)
  case writes =>
    split
    case isTrue h =>
      exact fun y hy htag => (takeRspAs_writes (beq_iff_eq.mpr h) hy htag).trans (by rw [rspStatus_nackRsp])
    case isFalse h => exact takeRspAs_writes_kept (beq_eq_false_iff_ne.mpr h)

theorem effNack_ledger (hport : p.dest.toNat % 8 = 2) (hcls : fld p.arg 60 2 = 3) (htyp : fld p.arg 56 4 = 4) :
    effNack p d = dropLookup (endpointCore p.src) (p.arg.extractLsb' 47 9) d := by
  unfold effNack
  rw [hport, hcls, htyp]
  rfl

/-- The tally units' endpoints differ, and are units' ports. -/
theorem tallyEndpoint_unit (q : BitVec 2) : (tallyEndpoint q).toNat % 8 = 1 ∧
    (List.range 4).find? (fun k => tallyEndpoint (BitVec.ofNat 2 k) == tallyEndpoint q) = some q.toNat := by
  revert q
  decide

/-- A refused wake counted at its unit. -/
def wakeStale (d : Die) (q : BitVec 2) : Die :=
  { d with tally := { d.tally with staleWakes := tabMod 0 d.tally.staleWakes q.toNat satInc } }

theorem effNack_wake {q : BitVec 2} (hdest : p.dest = tallyEndpoint q) (hcls : fld p.arg 60 2 = 3) (htyp : fld p.arg 56 4 = 1) :
    effNack p d = wakeStale d q := by
  obtain ⟨hport, hunit⟩ := tallyEndpoint_unit q
  unfold effNack
  dsimp only
  rw [hdest, hport, hcls, htyp, hunit]
  rfl

end Nack

/-! ### A double-bit link error (R233, R402, R407) -/

/-- The record of the last die-fatal fault. -/
def fatalRecord (d : Die) : Bool × BitVec 8 × BitVec 8 × BitVec 32 :=
  (d.flt.fatalValid, d.flt.fatalCause, d.flt.fatalCount, d.flt.fatalEpoch)

theorem RowsSensed.fatalRecord {d u : Die} : RowsSensed d u → fatalRecord u = Machine.fatalRecord d := by
  rintro ⟨_, _, _, _, _, _, rfl⟩; rfl

theorem fatalRecord_drew (d : Die) : fatalRecord (drew d) = fatalRecord d := rfl

theorem landWrite_fatalRecord (d : Die) (l : LineWrite) : fatalRecord (landWrite d l) = fatalRecord d := by
  unfold landWrite
  split_ifs
  · unfold putDie
    split
    exacts [(rowsSensed_foldl_senseRow _ _ d).fatalRecord, rfl, rfl]
  · rfl
  · rfl

theorem landOpen_fatalRecord (d : Die) : fatalRecord (landOpen d) = fatalRecord d := by
  rw [landOpen, fatalRecord_drew, foldl_keeps (g := fatalRecord) (fun e x => ?_), foldl_keeps (g := fatalRecord) (fun e x => ?_)]
  · split_ifs
    exacts [rfl, rfl]
  · split_ifs
    exacts [landWrite_fatalRecord e _, rfl]

theorem cutEvent_fatalRecord (d : Die) : fatalRecord (cutEvent d) = fatalRecord d := by
  have hword : fatalRecord (cutWord d) = fatalRecord d := by
    unfold cutWord
    split
    · rfl
    · split <;> rfl
  unfold cutEvent
  split_ifs
  exacts [hword, rfl, rfl]

/-- A reset of the die keeps the record, whatever it catches under way. -/
theorem dieReset_fatalRecord (k : ResetKind) (d : Die) : fatalRecord (dieReset k d) = fatalRecord d := by
  have hcaught := (cutEvent_fatalRecord (landOpen d)).trans (landOpen_fatalRecord d)
  simpa only [fatalRecord, dieReset] using hcaught

theorem dieReset_fatalValid (k : ResetKind) (d : Die) : (dieReset k d).flt.fatalValid = d.flt.fatalValid := by
  simpa only [fatalRecord] using congrArg Prod.fst (dieReset_fatalRecord k d)

theorem raiseFatal_meshUe {d : Die} (hup : inReset d = false) : raiseFatal dfMeshUe d = fatalWarm dfMeshUe d := by
  unfold raiseFatal
  rw [hup]
  rfl

/-- A fault that a warm reset follows: recorded, the boot at step 1, no core kept. -/
theorem fatalWarm_spec (cause : BitVec 8) (d : Die) : (fatalWarm cause d).flt.fatalValid = true ∧
    (fatalWarm cause d).flt.fatalCause = cause ∧ (fatalWarm cause d).boot.step = 1 ∧ (fatalWarm cause d).cores = [] := by
  have hvalid := dieReset_fatalValid .warm (alert (noteFatal cause d) (if cause = dfLinkWidth then 2 else 3))
  have hcause := dieReset_fatalCause .warm (alert (noteFatal cause d) (if cause = dfLinkWidth then 2 else 3))
  exact ⟨hvalid, hcause, rfl, rfl⟩

theorem exec_meshUe_resets {s : State} (hup : inReset s.die = false) : ∃ u : Die, exec .meshUe s = .next (s.withDie u) ∧
    u.flt.fatalValid = true ∧ u.flt.fatalCause = 0x04 ∧ u.boot.step = 1 ∧ u.cores = [] := by
  obtain ⟨hvalid, hcause, hstep, hcores⟩ := fatalWarm_spec dfMeshUe s.die
  exact ⟨fatalWarm dfMeshUe s.die, onDie_eq (raiseFatal_meshUe hup), hvalid, hcause, hstep, hcores⟩

/-- Settles O36: a refusal by the port's verdict, a delivery by the packet's class, each NACK by what was refused, MESH_UE by the
fault it raises. -/
theorem meshPacketsDelivered : Obligations.MeshPacketsDelivered := by
  unfold Obligations.MeshPacketsDelivered
  intro s p d c core nacked
  refine ⟨?reset, ?stale, ?data, ?stream, ?role, ?broadcast, ?request, exec_nackReceipt_request, ?ledger, ?wake, exec_meshUe_resets, ?held⟩
  case reset =>
    rintro ⟨hport, hcast⟩ hreset hcls
    obtain ⟨u, hexec, hnack, hcores, hmem, hstale, hcount⟩ :=
      exec_meshPacketDelivery_refuses (s := s) hport hcls (by decide) (portVerdict_reset hcast hreset)
    exact ⟨u, hexec, hnack, hcount, hstale, hcores, hmem⟩
  case stale =>
    rintro ⟨hport, hcast⟩ hup hcls hreq
    have hverdict : portVerdict d c p = some 1 := (portVerdict_rsp hcls hup).trans (if_neg (ne_true_of_eq_false hreq))
    obtain ⟨u, hexec, hnack, hcores, hmem, hstale, -⟩ :=
      exec_meshPacketDelivery_refuses (s := s) hport (by rw [hcls]; decide) (by decide) hverdict
    exact ⟨u, hexec, hnack, hstale, hcores, hmem⟩
  case data => exact fun ⟨hport, _⟩ hup hcls htyp hreq => exec_meshPacketDelivery_data hport hup hcls htyp hreq
  case stream =>
    rintro ⟨hport, hcast⟩ hcls hcheck
    have hflits := (packetFlits_stream hcls).trans (if_neg (fun htyp => hcast ⟨hcls, htyp⟩))
    rw [exec_meshPacketDelivery_stream hport hcls ((portVerdict_role hcast (.inl hcls)).trans hcheck), packetArrived, hflits]
  case role =>
    rintro ⟨hport, hcast⟩ hcls k hcheck
    have hk := portCheck_reason hcheck
    obtain ⟨u, hexec, hnack, hcores, hmem, hstale, -⟩ := exec_meshPacketDelivery_refuses (s := s) hport (by rw [hcls]; decide)
      (by omega) ((portVerdict_role hcast (.inr hcls)).trans hcheck)
    exact ⟨u, hexec, hnack, hcores, hmem, hstale⟩
  case broadcast =>
    intro hport hcls htyp
    rw [exec_meshPacketDelivery_stream hport hcls (portVerdict_broadcast hcls htyp), packetArrived,
      (packetFlits_stream hcls).trans (if_pos htyp)]
  case request => exact fun ⟨hport, _⟩ hcls htyp hup => exec_meshPacketDelivery_answers hport hcls htyp hup
  case ledger => exact fun hport hcls htyp => onDie_eq (effNack_ledger hport hcls htyp)
  case wake => exact fun q hdest hcls htyp => ⟨_, onDie_eq (effNack_wake hdest hcls htyp), tabGet_mod _ _ _ _, rfl, rfl⟩
  case held => exact fun hheld => onDie_eq (if_pos hheld)

end Sys2Proof.Machine
end

section
/-! PROOF. O23: the checks of R266 in their order, and every message row's use of them (R209, R221, R266, R293). -/

namespace Sys2Proof.Machine

/-! ### The checks -/

section Checks

variable {d : Die} {m : Msg} {minLen : Nat} {bad : List (Nat × Bool)} {u : CtxUse}

theorem checkReq_denied (h : opAllowed d m = false) : checkReq d m minLen bad u = some (stDenied, 0) := by
  simp [checkReq, h]

variable (hop : opAllowed d m = true)
include hop

theorem checkReq_short (h : msgLen m < minLen) : checkReq d m minLen bad u = some (stBadLength, minLen) := by
  simp [checkReq, hop, h]

variable (hmin : minLen ≤ msgLen m)
include hmin

theorem checkReq_long (h : 240 < msgLen m) : checkReq d m minLen bad u = some (stBadLength, 240) := by
  simp [checkReq, hop, Nat.not_lt.mpr hmin, h]

variable (hmax : msgLen m ≤ 240)
include hmax

theorem checkReq_badField {o : Nat} (h : firstBad m bad = some o) : checkReq d m minLen bad u = some (stBadField, o) := by
  simp [checkReq, hop, Nat.not_lt.mpr hmin, Nat.not_lt.mpr hmax, h]

theorem checkReq_badContext (hfields : firstBad m bad = none) (h : ctxOk d u (msgCtx m) = false) :
    checkReq d m minLen bad u = some (stBadContext, 0) := by
  simp [checkReq, hop, Nat.not_lt.mpr hmin, Nat.not_lt.mpr hmax, hfields, h]

end Checks

/-! ### The rows -/

/-- A row that names one value of a sub-code meets the message that carries it. -/
theorem onSub_named {n : Nat} {sub : Msg → Bool} {d : Die} {m0 : Msg} (f : Die → Die) (hget : d.stew.requests[n]? = some m0)
    (hsub : sub (clip m0) = true) : onSub n sub f d = f d := by
  simp only [onSub, hget, hsub, if_true]

/-- What R266 asks of a row's meaning for request `n`, `m0`, whose turn has come: the first check that fails answers it. -/
def Checked (s : State) (n : Nat) (m0 : Msg) (i : Instr) (op minLen : Nat) (bad : Msg → List (Nat × Bool)) (u : CtxUse)
    (args : Die → Msg → List Arg) (sub : Bool) : Prop :=
  s.die.stew.requests[n]? = some m0 → msgOp m0 = op → sub = true → stewardUp s.die = true → inTurn s.die n m0 = true →
  (ledgerOp op = true → s.die.ledger.memState = 0) →
  (∀ st det, checkReq s.die (clip m0) minLen (bad (clip m0)) u = some (st, det) →
    exec i s = .next (s.withDie (answer s.die n m0 st det []))) ∧
  (checkReq s.die (clip m0) minLen (bad (clip m0)) u = none → argsOk s.die (args s.die (clip m0)) = false →
    exec i s = .next (s.withDie (answer (drew (senseArgs (args s.die (clip m0)) s.die)) n m0 stMemError 0 []))) ∧
  (checkReq s.die (clip m0) minLen (bad (clip m0)) u = none → argsOk s.die (args s.die (clip m0)) = true → ledgerOp op = true →
    dirEn s.die = false → exec i s = .next (s.withDie (answer s.die n m0 stProtocol 1 [])))

section Rows

variable {s : State} {n : Nat} {m0 : Msg} {i : Instr} {op minLen : Nat} {bad : Msg → List (Nat × Bool)} {u : CtxUse}
  {args : Die → Msg → List Arg} {sub : Bool}

theorem checked_of_sub (run : Msg → Die → Die) (hexec : s.die.stew.requests[n]? = some m0 → sub = true →
    exec i s = .next (s.withDie (onRequest n op minLen bad u args run s.die))) : Checked s n m0 i op minLen bad u args sub := by
  intro hget hop hsub hup hturn hled
  rw [hexec hget hsub]
  exact ⟨fun st det hchk => by rw [onRequest_refused hget hop hup hturn hled hchk],
    fun hchk hargs => by rw [onRequest_memError hget hop hup hturn hled hchk hargs],
    fun hchk hargs hl hdir => by rw [onRequest_noDirectory hget hop hup hturn hl (hled hl) hdir hchk hargs]⟩

theorem checked (run : Msg → Die → Die) (hexec : exec i s = onDie (onRequest n op minLen bad u args run) s) :
    Checked s n m0 i op minLen bad u args true := checked_of_sub run fun _ _ => hexec

/-- A row of one sub-code. -/
theorem checked_sub (run : Msg → Die → Die) (p : Msg → Bool)
    (hexec : exec i s = onDie (onSub n p (onRequest n op minLen bad u args run)) s) :
    Checked s n m0 i op minLen bad u args (p (clip m0)) :=
  checked_of_sub run fun hget hsub => hexec.trans (onDie_eq (onSub_named _ hget hsub))

end Rows

/-- Settles O23: a row's meaning is `onRequest`, behind `onSub` where its opcode has sub-codes; what fails is answered by the lemmas of
`onRequest`, and the order of the checks is that of `checkReq`. -/
theorem requestsAreChecked : Obligations.RequestsAreChecked := by
  unfold Obligations.RequestsAreChecked
  intro s n m0 d m row
  have hrow : row = Checked s n m0 := rfl
  clear_value row
  subst hrow
  exact ⟨checked (runHello n) rfl, checked (runOpen n) rfl, checked (runClose n) rfl, checked (runForm n) rfl, checked (runDisband n) rfl,
    checked (runLoad n) rfl, checked (runSave n) rfl, checked (runRestore n) rfl, checked (runSubmit n) rfl, checked (runAbort n) rfl,
    checked (runQuery n) rfl, checked (runAlloc n) rfl, checked (runFree n) rfl, checked (runMove n) rfl, checked (runLedgerQuery n) rfl,
    checked (runPhaseOp n) rfl, checked (fun m e => answer e n m stOk 0 (powerPayload e)) rfl,
    checked_sub (runTally n) (fun m => tallySub m != 1 && tallySub m != 2) rfl, checked_sub (runTally n) (fun m => tallySub m == 1) rfl,
    checked_sub (runTally n) (fun m => tallySub m == 2) rfl, checked (runCalRead n) rfl, checked (runCalWrite n) rfl,
    checked (runStage n) rfl, checked (runCommit n) rfl, checked (runAttest n) rfl,
    checked_sub (runFuse n) (fun m => fuseKind m == 0 || decide (5 ≤ fuseKind m)) rfl, checked_sub (runFuse n) (fun m => fuseKind m == 1) rfl,
    checked_sub (runFuse n) (fun m => fuseKind m == 2) rfl, checked_sub (runFuse n) (fun m => fuseKind m == 3) rfl,
    checked_sub (runFuse n) (fun m => fuseKind m == 4) rfl, checked_sub (runEcho n) (fun m => diagSub m != 1 && diagSub m != 2) rfl,
    checked_sub (runCounters n) (fun m => diagSub m == 1) rfl, checked_sub (runLog n) (fun m => diagSub m == 2) rfl,
    fun minLen bad u => ⟨checkReq_denied, checkReq_short, checkReq_long, fun o hop hmin hmax => checkReq_badField hop hmin hmax,
      checkReq_badContext⟩⟩

end Sys2Proof.Machine
end

section
/-! PROOF. O24: an answered request and its response (R263, R266, R268). -/

namespace Sys2Proof.Machine

theorem respond_requests (d : Die) (m : Msg) (status detail ctx : Nat) (payload : List Byte) :
    (respond d m status detail ctx payload).stew.requests = d.stew.requests := by
  unfold respond
  split <;> rfl

/-- With every request served by some row, an answer is the request taken off its list and its response. -/
theorem answer_of_served {d : Die} (h : ∀ y ∈ d.stew.requests, unserved y = false) (n : Nat) (m : Msg) (st det : Nat) (p : List Byte) :
    answer d n m st det p = respond (dropReqAt d n) m st det (msgCtx m) p := by
  refine answerUnknown_of_served fun y hy => h y ?_
  rw [respond_requests] at hy
  exact List.mem_of_mem_eraseIdx hy

/-- A request of any source but a peer is answered by a response that waits for its pigeonhole. -/
theorem respond_queues {m : Msg} (h : ∀ q, m.src ≠ .peer q) (d : Die) (st det ctx : Nat) (p : List Byte) :
    respond d m st det ctx p = { d with stew := { d.stew with responses := d.stew.responses ++
      [{ m with bytes := respBytes m st det ctx p, poll := msgPoll m }] } } := by
  unfold respond
  split
  · next q hq => exact absurd hq (h q)
  · rfl

theorem respond_peer {m : Msg} {q : BitVec 2} (h : m.src = .peer q) (d : Die) (st det ctx : Nat) (p : List Byte) :
    respond d m st det ctx p = setOwn (send d (.peer q (if st = stProtocol then .protocol else .reply))) m.ph.toNat false := by
  simp only [respond, h]

/-- The fields of a response's header, and its payload behind it (R266). -/
theorem respBytes_fields {m r : Msg} {st det ctx : Nat} {p : List Byte} (hr : r.bytes = respBytes m st det ctx p) (hst : st < 0x10000)
    (hdet : det < 2 ^ 32) (hctx : ctx < 2 ^ 32) (hp : p.length ≤ 240) :
    msgOp r = msgOp m % 0x8000 + 0x8000 ∧ msgSeq r = msgSeq m ∧ msgLen r = p.length ∧ msgLE r 6 2 = st ∧ msgCtx r = ctx ∧
    msgLE r 0x0C 4 = det ∧ r.bytes.drop 0x10 = p := by
  have hseq : msgSeq m < 256 ^ 2 := msgLE_lt m 2 2
  refine ⟨?op, ?seq, ?len, ?status, ?ctx, ?detail, ?payload⟩
  case op =>
    rw [msgOp, msgLE, hr]
    exact leNat_leBytes 2 _ (by omega)
  case seq =>
    rw [msgSeq, msgLE, hr]
    exact leNat_leBytes 2 _ hseq
  case len =>
    rw [msgLen, msgByte, hr]
    exact (BitVec.toNat_ofNat _ _).trans (Nat.mod_eq_of_lt (by omega))
  case status =>
    rw [msgLE, hr]
    exact leNat_leBytes 2 _ hst
  case ctx =>
    rw [msgCtx, msgLE, hr]
    exact leNat_leBytes 4 _ hctx
  case detail =>
    rw [msgLE, hr]
    exact leNat_leBytes 4 _ hdet
  case payload =>
    rw [hr]
    rfl

/-- Settles O24: an answer moves the Steward's state and what is sent; with nothing else to answer it is `respond` on the shortened list. -/
theorem answersAreResponses : Obligations.AnswersAreResponses := by
  unfold Obligations.AnswersAreResponses
  intro d n m st det p r left
  refine ⟨?frame, fun hserved hsrc => ?_, fun hserved q hq => ?_, fun hst hdet hp => ?_⟩
  case frame =>
    obtain ⟨stew, out, h⟩ := stewardMoved_answer d n m st det p
    rw [h]
  · rw [answer_of_served hserved, respond_queues hsrc]
    rfl
  · rw [answer_of_served hserved, respond_peer hq]
    rfl
  · exact respBytes_fields rfl hst hdet (msgLE_lt m 8 4) hp

end Sys2Proof.Machine
end

section
/-! PROOF. O26: responses and events posted to held pigeonholes (R262, R268, R270). -/

namespace Sys2Proof.Machine

/-! ### Held pigeonholes -/

theorem owns_setOwn_released (d : Die) (n : Nat) : owns (setOwn d n false) n = false := by
  by_cases hn : n < 64
  · rw [owns, setOwn, getLsbD_putFld _ _ _ _ _ hn, if_pos (by omega), Nat.sub_self]
    rfl
  · exact BitVec.getLsbD_of_ge _ _ (by omega)

theorem owns_setOwn_ne (d : Die) {n j : Nat} (v : Bool) (h : j ≠ n) : owns (setOwn d n v) j = owns d j := by
  by_cases hj : j < 64
  · rw [owns, setOwn, getLsbD_putFld _ _ _ _ _ hj, if_neg (by omega), owns]
  · rw [owns, owns, BitVec.getLsbD_of_ge _ _ (by omega), BitVec.getLsbD_of_ge _ _ (by omega)]

/-- The host's lowest held response pigeonhole. -/
theorem heldPh_host {d : Die} {k : Nat} :
    heldPh d 0 = some k ↔ 32 ≤ k ∧ k < 48 ∧ owns d k = true ∧ ∀ j, 32 ≤ j → j < k → owns d j = false := by
  have hmap : heldPh d 0 = some k ↔ ∃ i, (List.range 16).find? (owns d ∘ (· + 32)) = some i ∧ i + 32 = k := by
    rw [heldPh, if_pos rfl, List.find?_map, Option.map_eq_some_iff]
  rw [hmap]
  constructor
  · rintro ⟨i, hi, rfl⟩
    obtain ⟨hown, hmem, hfirst⟩ := List.find?_range_eq_some.mp hi
    have hlt := List.mem_range.mp hmem
    refine ⟨by omega, by omega, hown, fun j h32 hj => ?_⟩
    have hbelow := hfirst (j - 32) (by omega)
    rwa [Function.comp_apply, Nat.sub_add_cancel h32, Bool.not_eq_true'] at hbelow
  · rintro ⟨h32, h48, hown, hfirst⟩
    refine ⟨k - 32, List.find?_range_eq_some.mpr ⟨?_, List.mem_range.mpr (by omega), fun j hj => ?_⟩, by omega⟩
    · rwa [Function.comp_apply, Nat.sub_add_cancel h32]
    · rw [Function.comp_apply, hfirst (j + 32) (by omega) (by omega)]
      rfl

/-! ### A pigeonhole written and released -/

theorem LinkMoved.stew {d u : Die} : LinkMoved d u → u.stew = d.stew := by rintro ⟨_, _, _, _, rfl⟩; rfl

/-- A pigeonhole goes back, and at most a flit of it leaves over the link (R262). -/
theorem linkMoved_releasePh (n : Nat) (quiet : Bool) (d : Die) : LinkMoved (setOwn d n false) (releasePh n quiet d) := by
  unfold releasePh
  dsimp only
  split
  exacts [linkMoved_emit _ _ _ _ _, .refl _]

/-- Pigeonhole `k` holds `l` and has gone to its outside party; no other byte of memory, no core and no package memory moved. -/
def PostedAt (k : Nat) (d u : Die) (l : List Byte) : Prop :=
  memRead u.mem (pigeonBase k) l.length = l ∧ ElseSame d.mem u.mem (pigeonBase k) l.length ∧ owns u k = false ∧
  u.cores = d.cores ∧ u.pkg = d.pkg

theorem owns_congr {d u : Die} (h : u.stew.own = d.stew.own) (j : Nat) : owns u j = owns d j := by rw [owns, h, owns]

/-- A message is written to a pigeonhole, which then goes to its outside party. -/
theorem releasePh_writePh (k : Nat) (quiet : Bool) (d : Die) (l : List Byte) :
    PostedAt k d (releasePh k quiet (writePh d k l)) l ∧ (releasePh k quiet (writePh d k l)).stew = (setOwn d k false).stew := by
  have hmoved := linkMoved_releasePh k quiet (writePh d k l)
  have hmem : (releasePh k quiet (writePh d k l)).mem = memWrite d.mem (pigeonBase k) l := hmoved.mem
  have hstew : (releasePh k quiet (writePh d k l)).stew = (setOwn d k false).stew := hmoved.stew
  refine ⟨⟨hmem ▸ memRead_write _ _ _, fun a ha => ?_, ?_, hmoved.cores, hmoved.pkg⟩, hstew⟩
  · rw [hmem, memGet_write, if_neg (by omega)]
  · rw [owns_congr (congrArg StewSt.own hstew), owns_setOwn_released]

/-- What is posted stays so while only the Steward's lists and other pigeonholes move. -/
theorem PostedAt.of_stew {k : Nat} {d e u : Die} {l : List Byte} (h : PostedAt k d e l) (hmem : u.mem = e.mem) (hcores : u.cores = e.cores)
    (hpkg : u.pkg = e.pkg) (hown : owns u k = false) : PostedAt k d u l := by
  obtain ⟨hread, helse, -, hc, hp⟩ := h
  exact ⟨hmem ▸ hread, hmem ▸ helse, hown, hcores.trans hc, hpkg.trans hp⟩

/-! ### RESPONSE_POST -/

/-- A response that has left takes its request's pigeonhole with it, unless that was released before. -/
def requestFreed (m : Msg) (d : Die) : Die := if m.freed then d else setOwn d m.ph.toNat false

theorem owns_requestFreed_ne (m : Msg) (d : Die) {j : Nat} (h : j ≠ m.ph.toNat) : owns (requestFreed m d) j = owns d j := by
  unfold requestFreed
  split
  exacts [rfl, owns_setOwn_ne d false h]

theorem owns_requestFreed_of_released (m : Msg) {d : Die} {j : Nat} (h : owns d j = false) : owns (requestFreed m d) j = false := by
  by_cases hj : j = m.ph.toNat
  · unfold requestFreed
    split
    exacts [h, hj ▸ owns_setOwn_released d _]
  · rw [owns_requestFreed_ne m d hj, h]

theorem requestFreed_frame (m : Msg) (d : Die) : ∃ own, requestFreed m d = { d with stew := { d.stew with own := own } } := by
  unfold requestFreed
  split
  exacts [⟨_, rfl⟩, ⟨_, rfl⟩]

section Response

variable {d : Die} {n k : Nat} {m : Msg} (hget : d.stew.responses[n]? = some m)
include hget

theorem effResponsePost_waits (h : heldPh d (respDst m) = none) : effResponsePost n d = d := by
  simp only [effResponsePost, hget, h, ite_self]

/-- The die once response `n` is in its pigeonhole, its request's not yet given back. -/
def responseOut (n k : Nat) (m : Msg) (d : Die) : Die :=
  let d1 := releasePh k m.poll (writePh d k m.bytes)
  { d1 with stew := { d1.stew with responses := d1.stew.responses.eraseIdx n } }

theorem effResponsePost_posts (hfirst : ∀ y ∈ d.stew.responses.take n, respDst y ≠ respDst m) (hopen : postable d m = true)
    (hready : readyFirst d = none) (hheld : heldPh d (respDst m) = some k) :
    effResponsePost n d = postPending (requestFreed m (responseOut n k m d)) := by
  have hgo : ¬ ((d.stew.responses.take n).any (fun y => respDst y == respDst m) || !postable d m || (readyFirst d).isSome) = true := by
    simpa [hopen, hready] using hfirst
  simp only [effResponsePost, hget, if_neg hgo, hheld]
  rfl

end Response

theorem responseOut_spec (n k : Nat) (m : Msg) (d : Die) : PostedAt k d (responseOut n k m d) m.bytes ∧
    (responseOut n k m d).stew = { (setOwn d k false).stew with responses := d.stew.responses.eraseIdx n } := by
  obtain ⟨⟨hread, helse, hown, hcores, hpkg⟩, hstew⟩ := releasePh_writePh k m.poll d m.bytes
  exact ⟨⟨hread, helse, hown, hcores, hpkg⟩, by rw [responseOut, hstew]; rfl⟩

/-! ### EVENT_POST -/

section EventPost

variable {d : Die} {k : Nat} {e : Event} {rest : List Event}

theorem postNow_puts (hheld : heldPh d e.dst.toNat = some k) (hfree : responseWaits d e.dst.toNat = false) :
    postNow d e = putEvent d k e := by
  simp [postNow, hheld, hfree]

theorem postNow_coalesces {sh : Nat} (hheld : heldPh d e.dst.toNat = none) (hsh : evtShift e.kind.toNat = some sh) :
    postNow d e = { d with stew := { d.stew with
      evtPending := putFld d.stew.evtPending sh 8 (min 0xFF (fld d.stew.evtPending sh 8 + 1)) } } := by
  simp only [postNow, hheld, coalesce, hsh]

theorem postPending_puts (hdue : d.stew.evtPending ≠ 0) (hheld : heldPh d 0 = some k) (hfree : responseWaits d 0 = false) :
    postPending d = putEvent { d with stew := { d.stew with evtPending := 0 } } k
      ⟨0x0040, 0, 0, 0, leBytes 8 d.stew.evtPending.toNat⟩ := by
  have hgo : ¬ (responseWaits d 0 || d.stew.evtPending = 0) = true := by simpa [hfree] using hdue
  simp only [postPending, hheld, if_neg hgo]

variable (hup : stewardUp d = true)
include hup

/-- The oldest event, with no READY among those that wait. -/
theorem effEventPost_oldest (hready : readyFirst d = none) (hevents : d.stew.events = e :: rest) :
    effEventPost d = postNow { d with stew := { d.stew with events := rest } } e := by
  simp only [effEventPost, hup, hready, hevents, Bool.not_true, Bool.false_eq_true, if_false]

theorem effEventPost_none (hevents : d.stew.events = []) : effEventPost d = postPending d := by
  have hready : readyFirst d = none := by rw [readyFirst, hevents, List.find?_nil]
  simp only [effEventPost, hup, hready, hevents, Bool.not_true, Bool.false_eq_true, if_false]

end EventPost

/-- Settles O26: what is posted is written to the pigeonhole and the pigeonhole released; the rest is the Steward's own lists. -/
theorem responsesAndEventsPosted : Obligations.ResponsesAndEventsPosted := by
  unfold Obligations.ResponsesAndEventsPosted
  intro s n k m e rest d posted
  refine ⟨heldPh_host, ?response, ?waits, ?event, ?coalesced, ?pending⟩
  case response =>
    intro hget hfirst hopen hready hheld hzero
    obtain ⟨hposted, hstew⟩ := responseOut_spec n k m d
    obtain ⟨own, hfreed⟩ := requestFreed_frame m (responseOut n k m d)
    have hpending : postPending (requestFreed m (responseOut n k m d)) = requestFreed m (responseOut n k m d) :=
      postPending_of_zero (by rw [hfreed, hstew]; exact hzero)
    refine ⟨requestFreed m (responseOut n k m d), onDie_eq ((effResponsePost_posts hget hfirst hopen hready hheld).trans hpending), ?_,
      by rw [hfreed, hstew], by rw [hfreed, hstew]; rfl, fun hm => ?_, fun j hk hph => ?_⟩
    · obtain ⟨-, -, hown, -⟩ := id hposted
      exact hposted.of_stew (by rw [hfreed]) (by rw [hfreed]) (by rw [hfreed]) (owns_requestFreed_of_released m hown)
    · rw [requestFreed, if_neg (by simp [hm])]
      exact owns_setOwn_released _ _
    · rw [owns_requestFreed_ne m _ hph, owns_congr (d := setOwn d k false) (by rw [hstew]), owns_setOwn_ne d false hk]
  case waits => exact fun hget hnone => onDie_eq (effResponsePost_waits hget hnone)
  case event =>
    intro hup hready hevents hheld hfree
    obtain ⟨hposted, hstew⟩ := releasePh_writePh k false { d with stew := { d.stew with events := rest } } (evtBytes e)
    exact ⟨_, onDie_eq ((effEventPost_oldest hup hready hevents).trans (postNow_puts hheld hfree)), hposted,
      (congrArg StewSt.events hstew :), (congrArg StewSt.evtPending hstew :)⟩
  case coalesced =>
    exact fun sh hup hready hevents hnone hsh => onDie_eq ((effEventPost_oldest hup hready hevents).trans (postNow_coalesces hnone hsh))
  case pending =>
    intro hup hevents hdue hheld hfree
    obtain ⟨hposted, hstew⟩ := releasePh_writePh k false { d with stew := { d.stew with evtPending := 0 } }
      (evtBytes ⟨0x0040, 0, 0, 0, leBytes 8 d.stew.evtPending.toNat⟩)
    exact ⟨_, onDie_eq ((effEventPost_none hup hevents).trans (postPending_puts hdue hheld hfree)), hposted,
      (congrArg StewSt.evtPending hstew :)⟩

end Sys2Proof.Machine
end

section
/-! PROOF. O28: parties formed and disbanded, programs loaded (R112, R137, R241, R273, R274, R405). -/

namespace Sys2Proof.Machine

/-! ### The cores a mask names -/

theorem mem_maskIds {v : BitVec 512} {c : CoreId} : c ∈ maskIds v ↔ v.getLsbD c.toNat = true := by
  simp only [maskIds, List.mem_map, List.mem_filter, List.mem_range]
  constructor
  · rintro ⟨k, ⟨hk, hbit⟩, rfl⟩
    rwa [BitVec.toNat_ofNat, Nat.mod_eq_of_lt hk]
  · exact fun h => ⟨c.toNat, ⟨c.isLt, h⟩, by rw [BitVec.ofNat_toNat, BitVec.setWidth_eq]⟩

theorem nodup_maskIds (v : BitVec 512) : (maskIds v).Nodup := by
  refine List.Nodup.map_on (fun a ha b hb hab => ?_) (List.nodup_range.filter _)
  have ha := List.mem_range.mp (List.mem_filter.mp ha).1
  have hb := List.mem_range.mp (List.mem_filter.mp hb).1
  have h := congrArg BitVec.toNat hab
  rwa [BitVec.toNat_ofNat, BitVec.toNat_ofNat, Nat.mod_eq_of_lt ha, Nat.mod_eq_of_lt hb] at h

/-! ### One act at each of several cores -/

/-- While `P` holds, which `g` keeps, `g` at a core makes `f` of that core and leaves every other. -/
structure ActsOn (P : Die → Prop) (f : Core → Core) (g : Die → CoreId → Die) : Prop where
  keeps : ∀ e c, P e → P (g e c)
  core : ∀ e c k, P e → getCore (g e c) k = if k = c then f (getCore e k) else getCore e k

theorem ActsOn.foldl {P : Die → Prop} {f : Core → Core} {g : Die → CoreId → Die} (h : ActsOn P f g) {cs : List CoreId} (hcs : cs.Nodup)
    {d : Die} (hd : P d) (k : CoreId) : getCore (cs.foldl g d) k = if k ∈ cs then f (getCore d k) else getCore d k := by
  induction cs generalizing d with
  | nil => simp
  | cons c cs ih =>
    obtain ⟨hc, hcs⟩ := List.nodup_cons.mp hcs
    rw [List.foldl_cons, ih hcs (h.keeps d c hd), h.core d c k hd]
    by_cases hk : k = c
    · subst hk
      simp [hc]
    · simp [hk]

theorem actsOn_modCore (f : Core → Core) : ActsOn (fun _ => True) f (fun e c => modCore e c f) where
  keeps _ _ _ := trivial
  core e c k _ := by
    by_cases hk : k = c
    · rw [hk, getCore_modCore, if_pos rfl]
    · rw [getCore_modCore_ne _ _ hk, if_neg hk]

/-- Cores changed one after another leave all else as it was. -/
theorem foldl_modCore_frame (f : Core → Core) (cs : List CoreId) (d : Die) :
    ∃ cores, cs.foldl (fun e c => modCore e c f) d = { d with cores := cores } := by
  induction cs generalizing d with
  | nil => exact ⟨_, rfl⟩
  | cons c cs ih => exact ih (modCore d c f)

/-! ### Roles (R240, R241) -/

/-- A core's role set: PARTY, and EPOCH advanced. -/
def roleSet (party : BitVec 12) (x : Core) : Core := { x with portParty := party, portEpoch := x.portEpoch + 1 }

theorem getCore_setRoles (party : BitVec 12) (v : BitVec 512) (d : Die) (c : CoreId) : getCore ((maskIds v).foldl (setRole party) d) c =
    if v.getLsbD c.toNat then roleSet party (getCore d c) else getCore d c := by
  refine ((actsOn_modCore (roleSet party)).foldl (nodup_maskIds v) trivial c).trans ?_
  simp only [mem_maskIds]

theorem setRoles_frame (party : BitVec 12) (v : BitVec 512) (d : Die) :
    ∃ cores, (maskIds v).foldl (setRole party) d = { d with cores := cores } := foldl_modCore_frame (roleSet party) _ d

/-! ### FORM_PARTY -/

/-- A party of a mask's cores formed. -/
def partyFormed (party : Nat) (v : BitVec 512) (d : Die) : Die :=
  let d1 := (maskIds v).foldl (setRole (BitVec.ofNat 12 party)) d
  { d1 with stew := { d1.stew with parties := d1.stew.parties ++ [(BitVec.ofNat 12 party, v)] } }

theorem partyFormed_frame (party : Nat) (v : BitVec 512) (d : Die) : partyFormed party v d = { d with
    cores := (partyFormed party v d).cores, stew := { d.stew with parties := d.stew.parties ++ [(BitVec.ofNat 12 party, v)] } } := by
  obtain ⟨cores, h⟩ := setRoles_frame (BitVec.ofNat 12 party) v d
  rw [partyFormed, h]

theorem getCore_partyFormed (party : Nat) (v : BitVec 512) (d : Die) (c : CoreId) : getCore (partyFormed party v d) c =
    if v.getLsbD c.toNat then roleSet (BitVec.ofNat 12 party) (getCore d c) else getCore d c := by
  refine Eq.trans ?_ (getCore_setRoles (BitVec.ofNat 12 party) v d c)
  unfold partyFormed
  generalize maskIds v = cs
  rfl

theorem partyCores_partyFormed {party : Nat} {d : Die} (v : BitVec 512) (hlt : party < 4096) (h : partyCores d party = none) :
    partyCores (partyFormed party v d) party = some v := by
  have hnone : d.stew.parties.find? (fun p => p.1.toNat == party) = none := Option.map_eq_none_iff.mp h
  have hnum : (BitVec.ofNat 12 party).toNat = party := by rw [BitVec.toNat_ofNat, Nat.mod_eq_of_lt hlt]
  rw [partyCores, partyFormed_frame]
  simp [List.find?_append, hnone, hnum]

theorem runForm_forms {d : Die} {m : Msg} (n : Nat) (hfree : partyBusy d (msgLE m 0x10 2) = false) (hzero : msgLE m 0x10 2 ≠ 0)
    (hnew : partyCores d (msgLE m 0x10 2) = none) (hcores : ∀ c : CoreId, (reqMask m).getLsbD c.toNat = true →
      coreInUse d c = true ∧ epochWaits d c = false ∧ ∀ p ∈ d.stew.parties, p.2.getLsbD c.toNat = false) :
    runForm n m d = answer (partyFormed (msgLE m 0x10 2) (reqMask m) d) n m stOk 0 [] := by
  have hoffends : (maskIds (reqMask m)).find? (fun c => !coreInUse d c || d.stew.parties.any (fun p => p.2.getLsbD c.toNat)) = none := by
    refine List.find?_eq_none.mpr fun c hc => ?_
    obtain ⟨huse, -, hparties⟩ := hcores c (mem_maskIds.mp hc)
    have hany : d.stew.parties.any (fun p => p.2.getLsbD c.toNat) = false := List.any_eq_false.mpr fun p hp => by simp only [hparties p hp, Bool.false_eq_true, not_false_eq_true]
    simp only [huse, hany, Bool.not_true, Bool.or_self, Bool.false_eq_true, not_false_eq_true]
  have hwaits : (maskIds (reqMask m)).any (epochWaits d) = false := List.any_eq_false.mpr fun c hc => by
    obtain ⟨-, hwait, -⟩ := hcores c (mem_maskIds.mp hc)
    simp only [hwait, Bool.false_eq_true, not_false_eq_true]
  simp only [runForm, hfree, hnew, hoffends, hwaits, decide_eq_false hzero, Option.isSome_none, Bool.or_self, Bool.false_eq_true, if_false]
  rfl

theorem runForm_badParty {d : Die} {m : Msg} (n : Nat) (hfree : partyBusy d (msgLE m 0x10 2) = false)
    (h : msgLE m 0x10 2 = 0 ∨ (partyCores d (msgLE m 0x10 2)).isSome = true) : runForm n m d = answer d n m stBadParty 0 [] := by
  have hbad : (msgLE m 0x10 2 = 0 || (partyCores d (msgLE m 0x10 2)).isSome) = true := by simpa using h
  simp only [runForm, hfree, hbad, Bool.false_eq_true, if_false, if_true]

/-- A field of two bytes. -/
theorem msgLE_two (m : Msg) (o : Nat) : msgLE m o 2 = msgByte m o + 256 * msgByte m (o + 1) := by
  have h0 : m.bytes.getD o 0 = (m.bytes.drop o).getD 0 0 := by simp [List.getD]
  have h1 : m.bytes.getD (o + 1) 0 = (m.bytes.drop o).getD 1 0 := by simp [List.getD]
  rw [msgLE, msgByte, msgByte, h0, h1]
  rcases m.bytes.drop o with _ | ⟨a, _ | ⟨b, l⟩⟩ <;> simp [leNat]

/-- The party a FORM_PARTY names has twelve bits. -/
theorem asks_form_party {d : Die} {n : Nat} {m0 : Msg} (h : asks d n opFormParty 80 formBad .none noArgs m0) :
    msgLE (clip m0) 0x10 2 < 4096 := by
  have hhigh := asks_field h (p := (0x11, decide (16 ≤ msgByte (clip m0) 0x11))) (by simp [formBad]) (by simp)
  have hlow : msgByte (clip m0) 0x10 < 256 := BitVec.isLt _
  have hhigh := of_decide_eq_false hhigh
  have htwo : msgLE (clip m0) 0x10 2 = msgByte (clip m0) 0x10 + 256 * msgByte (clip m0) 0x11 := msgLE_two _ _
  omega

/-! ### DISBAND_PARTY -/

/-- The aclk at which cores are reset is the die's. -/
theorem actsOn_coreReset (now : Nat) : ActsOn (fun e => e.aclk = now) (resetCore now) coreReset where
  keeps _ _ h := h
  core e c k h := by
    subst h
    exact (actsOn_modCore (resetCore e.aclk)).core e c k trivial

theorem coreReset_mem (d : Die) (c : CoreId) : (coreReset d c).mem = memClear d.mem (storeBase c) storeSize := rfl

theorem coreReset_pkg (d : Die) (c : CoreId) : (coreReset d c).pkg = d.pkg := rfl

theorem memGet_coreResets_zero (cs : List CoreId) {d : Die} {a : Nat} (h : memGet d.mem a = 0) :
    memGet (cs.foldl coreReset d).mem a = 0 := by
  refine List.foldlRecOn (motive := fun e : Die => memGet e.mem a = 0) cs coreReset h fun e he c _ => ?_
  rw [coreReset_mem, memGet_clear, he, ite_self]

/-- The core store of each core reset reads 0. -/
theorem memGet_coreResets {cs : List CoreId} {c : CoreId} (hc : c ∈ cs) {i : Nat} (hi : i < storeSize) (d : Die) :
    memGet (cs.foldl coreReset d).mem (storeBase c + i) = 0 := by
  induction cs generalizing d with
  | nil => exact absurd hc List.not_mem_nil
  | cons k cs ih =>
    rcases List.mem_cons.mp hc with rfl | hc
    · refine memGet_coreResets_zero cs ?_
      rw [coreReset_mem, memGet_clear, if_pos (by omega)]
    · exact ih hc _

/-- A party disbanded: its cores reset where RESET is 1, their roles ended. -/
def partyDisbanded (party reset : Nat) (v : BitVec 512) (d : Die) : Die :=
  let d1 := if reset = 1 then (maskIds v).foldl coreReset d else d
  let d2 := (maskIds v).foldl (setRole 0) d1
  { d2 with stew := { d2.stew with parties := d2.stew.parties.filter (fun p => p.1.toNat != party) } }

/-- A core of a party that disbands, before its role ends. -/
def leftBehind (reset now : Nat) (x : Core) : Core := if reset = 1 then resetCore now x else x

section Disbanded

variable (party reset : Nat) (v : BitVec 512) (d : Die)

theorem partyCores_partyDisbanded : partyCores (partyDisbanded party reset v d) party = none := by
  rw [partyCores, partyDisbanded, Option.map_eq_none_iff, List.find?_eq_none]
  generalize maskIds v = cs
  intro p hp
  have hne : (p.1.toNat != party) = true := (List.mem_filter.mp hp).2
  simpa using hne

theorem partyDisbanded_pkg : (partyDisbanded party reset v d).pkg = d.pkg := by
  obtain ⟨cores, h⟩ := setRoles_frame 0 v (if reset = 1 then (maskIds v).foldl coreReset d else d)
  rw [partyDisbanded, h]
  generalize maskIds v = cs
  dsimp only
  split
  exacts [foldl_keeps (g := Die.pkg) coreReset_pkg _ d, rfl]

theorem partyDisbanded_mem : (partyDisbanded party reset v d).mem = if reset = 1 then ((maskIds v).foldl coreReset d).mem else d.mem := by
  obtain ⟨cores, h⟩ := setRoles_frame 0 v (if reset = 1 then (maskIds v).foldl coreReset d else d)
  rw [partyDisbanded, h]
  generalize maskIds v = cs
  dsimp only
  split <;> rfl

theorem getCore_partyDisbanded (c : CoreId) : getCore (partyDisbanded party reset v d) c =
    if v.getLsbD c.toNat then roleSet 0 (leftBehind reset d.aclk (getCore d c)) else getCore d c := by
  have hroles := getCore_setRoles 0 v (if reset = 1 then (maskIds v).foldl coreReset d else d) c
  have hparty : getCore (partyDisbanded party reset v d) c =
      getCore ((maskIds v).foldl (setRole 0) (if reset = 1 then (maskIds v).foldl coreReset d else d)) c := by
    unfold partyDisbanded
    generalize maskIds v = cs
    rfl
  rw [hparty, hroles]
  unfold leftBehind
  by_cases hreset : reset = 1
  · rw [if_pos hreset, if_pos hreset, (actsOn_coreReset d.aclk).foldl (nodup_maskIds v) rfl c]
    simp only [mem_maskIds]
    split <;> rfl
  · rw [if_neg hreset, if_neg hreset]

end Disbanded

theorem leftBehind_keeps (reset now : Nat) (x : Core) : (leftBehind reset now x).portEpoch = x.portEpoch ∧
    (leftBehind reset now x).pmem = x.pmem := by
  unfold leftBehind
  split
  exacts [⟨rfl, rfl⟩, ⟨rfl, rfl⟩]

section RunDisband

variable {d : Die} {m : Msg} {v : BitVec 512} (n : Nat) (hfree : partyBusy d (msgLE m 0x10 2) = false)
  (hparty : partyCores d (msgLE m 0x10 2) = some v)
include hfree hparty

theorem runDisband_busy (hlive : partyItins d (msgLE m 0x10 2) itinLive = true) : runDisband n m d = answer d n m stBusy 0 [] := by
  simp only [runDisband, hfree, hparty, hlive, Bool.false_eq_true, if_false, if_true]

variable (hidle : partyItins d (msgLE m 0x10 2) itinLive = false)
include hidle

theorem runDisband_waits {c : CoreId} (hc : v.getLsbD c.toNat = true) (h : epochWaits d c = true) : runDisband n m d = d := by
  have hwaits : (maskIds v).any (epochWaits d) = true := List.any_eq_true.mpr ⟨c, mem_maskIds.mpr hc, h⟩
  simp only [runDisband, hfree, hparty, hidle, hwaits, Bool.false_eq_true, if_false, if_true]

theorem runDisband_disbands (h : ∀ c : CoreId, v.getLsbD c.toNat = true → epochWaits d c = false) :
    runDisband n m d = answer (partyDisbanded (msgLE m 0x10 2) (msgByte m 0x12) v d) n m stOk 0 [] := by
  have hwaits : (maskIds v).any (epochWaits d) = false := List.any_eq_false.mpr fun c hc => by
    simp only [h c (mem_maskIds.mp hc), Bool.false_eq_true, not_false_eq_true]
  simp only [runDisband, hfree, hparty, hidle, hwaits, Bool.false_eq_true, if_false]
  rfl

end RunDisband

/-! ### LOAD_PROGRAM -/

/-- The words of a program of `k` words at a package address. -/
def programAt (d : Die) (a k : Nat) : List (BitVec 64) :=
  (List.range k).map (fun i => BitVec.ofNat 64 (deLE (argRead d a (8 * k)) (8 * i) 8))

/-- The die once a program is in the cores of a mask, from word `base` on. -/
def programLoaded (base a k : Nat) (v : BitVec 512) (d : Die) : Die :=
  (maskIds v).foldl (fun e c => modCore e c (loadWords base (programAt d a k))) (drew (argSense a (8 * k) d))

theorem programLoaded_frame (base a k : Nat) (v : BitVec 512) (d : Die) :
    programLoaded base a k v d = { drew (argSense a (8 * k) d) with cores := (programLoaded base a k v d).cores } := by
  obtain ⟨cores, h⟩ := foldl_modCore_frame (loadWords base (programAt d a k)) (maskIds v) (drew (argSense a (8 * k) d))
  rw [programLoaded, h]

theorem getCore_programLoaded (base a k : Nat) (v : BitVec 512) (d : Die) (c : CoreId) : getCore (programLoaded base a k v d) c =
    if v.getLsbD c.toNat then loadWords base (programAt d a k) (getCore d c) else getCore d c := by
  have hsensed : getCore (drew (argSense a (8 * k) d)) c = getCore d c := getCore_of_cores (rowsSensed_argSense a (8 * k) d).cores c
  refine ((actsOn_modCore (loadWords base (programAt d a k))).foldl (nodup_maskIds v) trivial c).trans ?_
  simp only [mem_maskIds, hsensed]

/-- The words loaded stand in program memory with good check bits. -/
theorem loadWords_loads (base : Nat) (ws : List (BitVec 64)) (x : Core) {i : Nat} (h : i < ws.length) :
    tabGet 0 (loadWords base ws x).pmem (base + i) = ws.getD i 0 ∧ base + i ∉ (loadWords base ws x).pmemBad := by
  constructor
  · rw [loadWords, tabGet_fill, if_pos (by omega), Nat.add_sub_cancel_left]
  · simp [loadWords, h]

theorem loadWords_keeps (base : Nat) (ws : List (BitVec 64)) (x : Core) {j : Nat} (h : j < base ∨ base + ws.length ≤ j) :
    tabGet 0 (loadWords base ws x).pmem j = tabGet 0 x.pmem j := by
  rw [loadWords, tabGet_fill, if_neg (by omega)]

theorem getD_programAt (d : Die) (a : Nat) {k i : Nat} (h : i < k) :
    (programAt d a k).getD i 0 = BitVec.ofNat 64 (deLE (argRead d a (8 * k)) (8 * i) 8) := by
  simp [programAt, List.getD, h]

/-- What a program loaded leaves at each core. -/
theorem programLoaded_spec (base a k : Nat) (v : BitVec 512) (d : Die) (c : CoreId) :
    (v.getLsbD c.toNat = false → getCore (programLoaded base a k v d) c = getCore d c) ∧
    (v.getLsbD c.toNat = true →
      (∀ i, i < k → tabGet 0 (getCore (programLoaded base a k v d) c).pmem (base + i) =
          BitVec.ofNat 64 (deLE (argRead d a (8 * k)) (8 * i) 8) ∧ base + i ∉ (getCore (programLoaded base a k v d) c).pmemBad) ∧
      (∀ j, j < base ∨ base + k ≤ j → tabGet 0 (getCore (programLoaded base a k v d) c).pmem j = tabGet 0 (getCore d c).pmem j)) := by
  have hlen : (programAt d a k).length = k := by simp [programAt]
  rw [getCore_programLoaded]
  refine ⟨fun hout => if_neg (by rw [hout]; decide), fun hin => ?_⟩
  rw [if_pos hin]
  refine ⟨fun i hi => ?_, fun j hj => loadWords_keeps _ _ _ (by rwa [hlen])⟩
  obtain ⟨hword, hgood⟩ := loadWords_loads base (programAt d a k) (getCore d c) (hlen.symm ▸ hi)
  exact ⟨hword.trans (getD_programAt d a hi), hgood⟩

/-- The cores a LOAD_PROGRAM names: those of its mask, or of the whole party. -/
def namedCores (m : Msg) (v : BitVec 512) : BitVec 512 := if reqMask m = 0 then v else reqMask m

theorem runLoad_loads {d : Die} {m : Msg} {v : BitVec 512} (n : Nat) (hfree : partyBusy d (msgLE m 0x10 2) = false)
    (hparty : partyCores d (msgLE m 0x10 2) = some v) (hin : namedCores m v &&& ~~~v = 0)
    (hidle : d.stew.itins.any (fun i => i.state == .running && (hereCores d i).any (fun e => (namedCores m v).getLsbD e.core.toNat)) = false) :
    runLoad n m d = answer (programLoaded (msgLE m 0x12 2) (msgLE m 0x18 8) (msgLE m 0x14 2) (namedCores m v) d) n m stOk 0 [] := by
  unfold namedCores at hin hidle ⊢
  simp only [runLoad, hfree, hparty, hin, hidle, Bool.false_eq_true, if_false, ne_eq, not_true_eq_false]
  rfl

/-! ### The statement -/

/-- Settles O28: each message is carried out by the branch its hypotheses take, and what it leaves at each core is read off `ActsOn`. -/
theorem partiesAndPrograms : Obligations.PartiesAndPrograms := by
  unfold Obligations.PartiesAndPrograms
  intro s n m0 d m party mask
  refine ⟨?forms, ?badParty, ?disbands, ?busy, ?waits, ?loads⟩
  case forms =>
    intro h hfree hzero hnew hcores
    exact ⟨_, onDie_eq ((onRequest_asks h).trans (runForm_forms n hfree hzero hnew hcores)),
      partyCores_partyFormed mask (asks_form_party h) hnew, partyFormed_frame party mask d, fun c => getCore_partyFormed party mask d c⟩
  case badParty => exact fun h hfree hbad => onDie_eq ((onRequest_asks h).trans (runForm_badParty n hfree hbad))
  case disbands =>
    intro v h hfree hparty hidle hsettled
    refine ⟨_, onDie_eq ((onRequest_asks h).trans (runDisband_disbands n hfree hparty hidle hsettled)),
      partyCores_partyDisbanded party _ v d, partyDisbanded_pkg party _ v d, fun c => ⟨fun hout => ?_, fun hin => ?_, fun hkeep => ?_,
      fun hin hreset => ?_⟩⟩
    · rw [getCore_partyDisbanded, if_neg (by simp only [hout, Bool.false_eq_true, not_false_eq_true])]
    · obtain ⟨hepoch, hpmem⟩ := leftBehind_keeps (msgByte m 0x12) d.aclk (getCore d c)
      rw [getCore_partyDisbanded, if_pos hin]
      exact ⟨rfl, congrArg (· + 1) hepoch, hpmem⟩
    · rw [partyDisbanded_mem, if_neg hkeep]
    · rw [getCore_partyDisbanded, if_pos hin, partyDisbanded_mem, if_pos hreset, leftBehind, if_pos hreset]
      exact ⟨rfl, rfl, rfl, fun i hi => memGet_coreResets (mem_maskIds.mpr hin) hi d⟩
  case busy => exact fun v h hfree hparty hlive => onDie_eq ((onRequest_asks h).trans (runDisband_busy n hfree hparty hlive))
  case waits =>
    exact fun v c h hfree hparty hidle hc hwaits => onDie_eq ((onRequest_asks h).trans (runDisband_waits n hfree hparty hidle hc hwaits))
  case loads =>
    intro v k bytes named h hfree hparty hin hidle
    exact ⟨_, onDie_eq ((onRequest_asks h).trans (runLoad_loads n hfree hparty hin hidle)), programLoaded_frame _ _ _ _ d,
      programLoaded_spec _ _ k named d⟩

end Sys2Proof.Machine
end

section
/-! PROOF. O33: the power, tally, calibration and echo messages (R289 to R291, R369 to R373). -/

namespace Sys2Proof.Machine

/-! ### SET_PHASE_OP -/

/-- The operating point preferred under phase tag `t`, stored. -/
def prefStored (t v : Nat) (d : Die) : Die := { d with power := { d.power with pref := putFld d.power.pref (4 * t) 3 v } }

theorem prefOf_prefStored (d : Die) {t v : Nat} (ht : t < 8) (hv : v < 8) : prefOf (prefStored t v d) t = v := by
  rw [prefOf, prefStored, fld_putFld_same _ _ (by omega)]
  omega

theorem prefOf_prefStored_ne (d : Die) {t u : Nat} (v : Nat) (hu : u < 8) (h : u ≠ t) : prefOf (prefStored t v d) u = prefOf d u := by
  rw [prefOf, prefStored, fld_putFld_apart _ _ (by omega) (by omega), prefOf]

theorem asks_phaseOp_fields {d : Die} {n : Nat} {m0 : Msg} (h : asks d n opSetPhaseOp 2 phaseOpBad .none noArgs m0) :
    msgByte (clip m0) 0x10 < 8 ∧ msgByte (clip m0) 0x11 < 8 := by
  have htag := asks_field h (p := (0x10, decide (8 ≤ msgByte (clip m0) 0x10))) (by simp [phaseOpBad]) (by simp)
  have hop := asks_field h (p := (0x11, decide (8 ≤ msgByte (clip m0) 0x11))) (by simp [phaseOpBad]) (by simp)
  exact ⟨Nat.not_le.mp (of_decide_eq_false htag), Nat.not_le.mp (of_decide_eq_false hop)⟩

/-! ### TALLY -/

theorem tallyPerform_pkg (d : Die) (r : TallyReq) : (tallyPerform d r).1.pkg = d.pkg := by
  unfold tallyPerform
  dsimp only
  split <;> rfl

/-- The tally a message names, its value, and the operation its sub-code stands for: SET, or ADD, which READ is with a value of 0. -/
def msgTally (m : Msg) : BitVec 16 := BitVec.ofNat 16 (msgLE m 0x12 2)
def msgCount (m : Msg) : BitVec 32 := BitVec.ofNat 32 (msgLE m 0x14 4)
def tallyOpOf (m : Msg) : Nat := if tallySub m = 1 then 1 else 0

/-- The die once the Steward's unit has performed a TALLY message. -/
def tallied (m : Msg) (d : Die) : Die := (stewTally d (tallyOpOf m) (msgTally m) (msgCount m)).1

theorem runTally_eq (n : Nat) (m : Msg) (d : Die) :
    runTally n m d = answer (tallied m d) n m stOk 0 (leBytes 4 (tallyCount d (msgTally m)).toNat) := rfl

/-- The operation as its unit meets it. -/
def stewReq (m : Msg) (d : Die) : TallyReq :=
  ⟨unitOf (msgTally m), BitVec.ofNat 3 (tallyOpOf m), true, msgTally m, msgCount m, 0, d.ident.dieNum, false, 0, 0, 0, 0, 0⟩

theorem tallied_eq (m : Msg) (d : Die) : tallied m d = cons (tallyPerform d (stewReq m d)).1 4 1 1 := rfl

theorem tallyCount_tallied (m : Msg) (d : Die) (i : BitVec 16) : tallyCount (tallied m d) i =
    if i = msgTally m then tallyNew (tallyOpOf m) (tallyCount d (msgTally m)) (msgCount m) else tallyCount d i := by
  have hop : (stewReq m d).op.toNat = tallyOpOf m := by
    unfold stewReq tallyOpOf
    split <;> rfl
  have hcount := tallyPerform_count d (stewReq m d) i
  rw [hop] at hcount
  exact hcount

theorem tallied_frame (m : Msg) (d : Die) : (tallied m d).mem = d.mem ∧ (tallied m d).pkg = d.pkg ∧ (tallied m d).cores = d.cores := by
  obtain ⟨hmem, hcores⟩ := tallyPerform_frame d (stewReq m d)
  exact ⟨hmem, tallyPerform_pkg d (stewReq m d), hcores⟩

/-- The value of a READ is 0. -/
theorem asks_tally_read {d : Die} {n : Nat} {m0 : Msg} (h : asks d n opTally 8 tallyBad .none noArgs m0)
    (hread : tallySub (clip m0) = 2) : msgCount (clip m0) = 0 := by
  have hvalue := asks_field h (p := (0x14, tallySub (clip m0) == 2 && msgLE (clip m0) 0x14 4 != 0)) (by simp [tallyBad]) (by simp)
  have hzero : msgLE (clip m0) 0x14 4 = 0 := by simpa [hread] using hvalue
  rw [msgCount, hzero]
  rfl

/-! ### Bytes written and read back -/

theorem leNat_leBytes_mod : ∀ n v : Nat, leNat (leBytes n v) = v % 256 ^ n
  | 0, v => by simp [leBytes, leNat, Nat.mod_one]
  | n + 1, v => by
    rw [leBytes, leNat, leNat_leBytes_mod n, BitVec.toNat_ofNat]
    show v % 256 + 256 * (v / 256 % 256 ^ n) = v % 256 ^ (n + 1)
    rw [Nat.pow_succ', Nat.mod_mul]

theorem memRead_write_part (m : List Host.Cell) (a : Nat) {l : List Byte} {o n : Nat} (h : o + n ≤ l.length) :
    memRead (memWrite m a l) (a + o) n = (l.drop o).take n := by
  have hread := memRead_write m a l
  calc memRead (memWrite m a l) (a + o) n
    _ = (memRead (memWrite m a l) (a + o) (l.length - o)).take n := (memRead_take _ _ _ _ (by omega)).symm
    _ = ((memRead (memWrite m a l) a l.length).drop o).take n := by rw [memRead_drop]
    _ = (l.drop o).take n := by rw [hread]

theorem memRead_write_apart (m : List Host.Cell) {a b n : Nat} {l : List Byte} (h : b + n ≤ a ∨ a + l.length ≤ b) :
    memRead (memWrite m a l) b n = memRead m b n :=
  memRead_congr fun i hi => by rw [memGet_write, if_neg (by omega)]

theorem argRead_length (d : Die) (a n : Nat) : (argRead d a n).length = n := by
  unfold argRead
  split <;> simp [memRead]

/-! ### A section replaced (R369, R370, R373) -/

/-- A section's entry in the record's directory: LENGTH, CRC, WRITES, ORIGIN. -/
def secEntry (l : List Byte) (writes origin : Nat) : List Byte :=
  leBytes 4 l.length ++ leBytes 4 (crc32 l).toNat ++ leBytes 4 writes ++ [BitVec.ofNat 8 origin] ++ leBytes 3 0

theorem secEntry_length (l : List Byte) (writes origin : Nat) : (secEntry l writes origin).length = 16 := rfl

theorem writeSection_flash (d : Die) (s : Nat) (l : List Byte) (origin : Nat) : (writeSection d s l origin).flash =
    memWrite (memWrite d.flash (secOff s) l) (0x10 + 16 * s) (secEntry l (calLE d (0x18 + 16 * s) 4 + 1) origin) := by
  unfold writeSection
  dsimp only
  split <;> rfl

/-- What a section's write leaves beside the flash and the link cache. -/
theorem writeSection_frame (d : Die) (s : Nat) (l : List Byte) (origin : Nat) : (writeSection d s l origin).mem = d.mem ∧
    (writeSection d s l origin).pkg = d.pkg ∧ (writeSection d s l origin).fuse = d.fuse := by
  unfold writeSection
  dsimp only
  split
  exacts [⟨rfl, rfl, rfl⟩, ⟨rfl, rfl, rfl⟩]

theorem dieSerial_congr {d u : Die} (h : u.fuse = d.fuse) : dieSerial u = dieSerial d := by
  rw [dieSerial, fuseData, fuseWord, h]
  rfl

/-- The sections lie behind the record's header and directory. -/
theorem secOff_ge (s : Nat) : 0x100 ≤ secOff s := by
  unfold secOff
  split <;> decide

theorem secMax_le (s : Nat) : secMax s ≤ 32768 := by
  unfold secMax
  split <;> decide

section Written

variable {d : Die} {s : Nat} {l : List Byte} {origin : Nat} (hs : s < 5)
include hs

theorem memRead_writeSection : memRead (writeSection d s l origin).flash (secOff s) l.length = l := by
  have hoff := secOff_ge s
  rw [writeSection_flash, memRead_write_apart _ (.inr (by rw [secEntry_length]; omega)), memRead_write]

/-- The record's header is no section's. -/
theorem calLE_writeSection_header {o n : Nat} (h : o + n ≤ 0x10) : calLE (writeSection d s l origin) o n = calLE d o n := by
  have hoff := secOff_ge s
  rw [calLE, memLE, writeSection_flash, memRead_write_apart _ (.inl (by omega)), memRead_write_apart _ (.inl (by omega))]
  rfl

omit hs in
theorem calLE_writeSection_entry {o n : Nat} (h : o + n ≤ 16) : calLE (writeSection d s l origin) (0x10 + 16 * s + o) n =
    leNat (((secEntry l (calLE d (0x18 + 16 * s) 4 + 1) origin).drop o).take n) := by
  rw [calLE, memLE, writeSection_flash, memRead_write_part _ _ (by rwa [secEntry_length])]

omit hs in
theorem secLen_writeSection (hlen : l.length < 2 ^ 32) : secLen (writeSection d s l origin) s = l.length :=
  (calLE_writeSection_entry (o := 0) (n := 4) (by omega)).trans (leNat_leBytes 4 l.length hlen)

omit hs in
theorem secCrc_writeSection : secCrc (writeSection d s l origin) s = (crc32 l).toNat := by
  have hplace : 0x14 + 16 * s = 0x10 + 16 * s + 4 := by omega
  rw [secCrc, hplace]
  exact (calLE_writeSection_entry (by omega)).trans (leNat_leBytes 4 (crc32 l).toNat (crc32 l).isLt)

omit hs in
theorem writes_writeSection : calLE (writeSection d s l origin) (0x18 + 16 * s) 4 = (calLE d (0x18 + 16 * s) 4 + 1) % 2 ^ 32 := by
  have hplace : 0x18 + 16 * s = 0x10 + 16 * s + 8 := by omega
  conv_lhs => rw [hplace]
  exact (calLE_writeSection_entry (by omega)).trans (leNat_leBytes_mod 4 _)

theorem recordOk_writeSection : recordOk (writeSection d s l origin) = recordOk d := by
  obtain ⟨-, -, hfuse⟩ := writeSection_frame d s l origin
  rw [recordOk, calLE_writeSection_header hs (by omega), calLE_writeSection_header hs (by omega), calLE_writeSection_header hs (by omega),
    dieSerial_congr hfuse, recordOk]

/-- A section of a good record, replaced by bytes that fit it, passes its check. -/
theorem secCheck_writeSection (hok : recordOk d = true) (hne : l.length ≠ 0) (hmax : l.length ≤ secMax s) :
    secCheck (writeSection d s l origin) s = true := by
  have hlen := secLen_writeSection (d := d) (s := s) (origin := origin) (hmax.trans_lt ((secMax_le s).trans_lt (by decide)))
  have hbytes : secBytes (writeSection d s l origin) s = l := by rw [secBytes, hlen, memRead_writeSection hs]
  rw [secCheck, recordOk_writeSection hs, hlen, hbytes, secCrc_writeSection]
  simp [hok, hne, hmax]

end Written

/-! ### CAL_WRITE -/

theorem RowsSensed.flash {d u : Die} : RowsSensed d u → u.flash = d.flash := by rintro ⟨_, _, _, _, _, _, rfl⟩; rfl
theorem RowsSensed.fuse {d u : Die} : RowsSensed d u → u.fuse = d.fuse := by rintro ⟨_, _, _, _, _, _, rfl⟩; rfl

theorem recordOk_congr {d u : Die} (hflash : u.flash = d.flash) (hfuse : u.fuse = d.fuse) : recordOk u = recordOk d := by
  simp only [recordOk, calLE, hflash, dieSerial_congr hfuse]

theorem asks_calWrite_fields {d : Die} {n : Nat} {m0 : Msg} (h : asks d n opCalWrite 16 calWriteBad .none calWriteArgs m0) :
    msgByte (clip m0) 0x10 < 5 ∧ msgLE (clip m0) 0x14 4 ≠ 0 ∧ msgLE (clip m0) 0x14 4 ≤ secMax (msgByte (clip m0) 0x10) := by
  have hsec := asks_field h (p := (0x10, decide (5 ≤ msgByte (clip m0) 0x10))) (by simp [calWriteBad, calBad]) (by simp)
  have hlen := asks_field h (p := (0x14, msgLE (clip m0) 0x14 4 == 0 || decide (secMax (msgByte (clip m0) 0x10) < msgLE (clip m0) 0x14 4)))
    (by simp [calWriteBad]) (by simp)
  obtain ⟨hne, hmax⟩ := Bool.or_eq_false_iff.mp hlen
  exact ⟨Nat.not_le.mp (of_decide_eq_false hsec), by simpa using hne, Nat.not_lt.mp (of_decide_eq_false hmax)⟩

/-- The die once CAL_WRITE has replaced a section by `k` bytes at a package address. -/
def calWritten (sec a k : Nat) (d : Die) : Die := writeSection (drew (argSense a k d)) sec (argRead d a k) 2

theorem calWritten_spec {d : Die} {sec k : Nat} (a : Nat) (hsec : sec < 5) (hne : k ≠ 0) (hmax : k ≤ secMax sec)
    (hok : recordOk d = true) : secLen (calWritten sec a k d) sec = k ∧
    memRead (calWritten sec a k d).flash (secOff sec) k = argRead d a k ∧ secCheck (calWritten sec a k d) sec = true ∧
    (calWritten sec a k d).mem = d.mem ∧ (calWritten sec a k d).pkg = d.pkg ∧
    calLE (calWritten sec a k d) (0x18 + 16 * sec) 4 = (calLE d (0x18 + 16 * sec) 4 + 1) % 2 ^ 32 := by
  have hsensed := rowsSensed_argSense a k d
  have hlen := argRead_length d a k
  obtain ⟨hmem, hpkg, -⟩ := writeSection_frame (drew (argSense a k d)) sec (argRead d a k) 2
  have hgood : recordOk (drew (argSense a k d)) = true := (recordOk_congr hsensed.flash hsensed.fuse).trans hok
  have hbytes := memRead_writeSection (d := drew (argSense a k d)) (l := argRead d a k) (origin := 2) hsec
  have hbound := secMax_le sec
  refine ⟨(secLen_writeSection (by omega)).trans hlen, by rwa [hlen] at hbytes, ?_, hmem.trans hsensed.mem, hpkg.trans hsensed.pkg, ?_⟩
  · exact secCheck_writeSection hsec hgood (by rwa [hlen]) (by rwa [hlen])
  · refine writes_writeSection.trans ?_
    rw [calLE, drew_flash, hsensed.flash, calLE]

/-! ### DIAG ECHO -/

theorem runEcho_eq {m : Msg} (n : Nat) (d : Die) (h : 16 ≤ msgLen m) :
    runEcho n m d = answer d n m stOk 0 (List.replicate 16 0 ++ m.bytes.drop 0x20) := by
  rw [runEcho, Nat.min_eq_left h]

/-! ### The statement -/

/-- Settles O33: each message by what it leaves; the answers of POWER_STATUS and CAL_READ are their meanings. -/
theorem serviceMessages : Obligations.ServiceMessages := by
  unfold Obligations.ServiceMessages
  intro s n m0 d m index value old sec tally
  have htally : ∀ {i : Instr} {sub : Msg → Bool} (count : BitVec 32), exec i s = onDie (effTallyMsg sub n) s → sub m = true →
      (asks d n opTally 8 tallyBad .none noArgs m0 → tallyNew (tallyOpOf m) old value = count) → tally i count := by
    intro i sub count hexec hsub hnew h
    obtain ⟨hget, -⟩ := id h
    obtain ⟨hmem, hpkg, hcores⟩ := tallied_frame m d
    refine ⟨tallied m d, hexec.trans (onDie_eq ((onSub_named _ hget hsub).trans ((onRequest_asks h).trans (runTally_eq n m d)))), ?_,
      fun j hj => (tallyCount_tallied m d j).trans (if_neg hj), hmem, hpkg, hcores⟩
    exact ((tallyCount_tallied m d index).trans (if_pos rfl)).trans (hnew h)
  refine ⟨?phaseOp, fun h => onDie_eq (onRequest_asks h), ?add, ?set, ?read, fun h => onDie_eq (onRequest_asks h), ?calWrite, ?echo⟩
  case phaseOp =>
    intro h
    obtain ⟨htag, hop⟩ := asks_phaseOp_fields h
    exact ⟨prefStored (msgByte m 0x10) (min (msgByte m 0x11) d.power.maxOp.toNat) d, onDie_eq (onRequest_asks h), rfl,
      prefOf_prefStored d htag (by omega), fun t ht hne => prefOf_prefStored_ne d _ ht hne⟩
  case add =>
    intro hsub
    exact htally _ rfl (by simp [hsub]) fun _ => by rw [tallyOpOf, if_neg (by omega)]; rfl
  case set =>
    intro hsub
    exact htally _ rfl (by simp [hsub]) fun _ => by rw [tallyOpOf, if_pos hsub]; rfl
  case read =>
    intro hsub
    refine htally _ rfl (by simp [hsub]) fun h => ?_
    rw [tallyOpOf, if_neg (by omega), show value = 0 from asks_tally_read h hsub]
    exact BitVec.add_zero old
  case calWrite =>
    intro k h hok
    obtain ⟨hsec, hne, hmax⟩ := asks_calWrite_fields h
    exact ⟨calWritten sec (msgLE m 0x18 8) k d, onDie_eq (onRequest_asks h), calWritten_spec _ hsec hne hmax hok⟩
  case echo =>
    intro hsub h
    obtain ⟨hget, -, -, -, -, hchk, -⟩ := id h
    obtain ⟨hlen, -⟩ := checkReq_none hchk
    refine onDie_eq ((onSub_named _ hget ?_).trans ((onRequest_asks h).trans (runEcho_eq n d hlen)))
    simp [show diagSub (clip m0) = 0 from hsub]

end Sys2Proof.Machine
end

section
/-! PROOF. What sensing rows, sending to peers and stopping an itinerary's cores leave of the Steward's requests (R187, R191, R201, R263). -/

namespace Sys2Proof.Machine

/-- The requests, and those whose descriptors other dies look at, are as they were. -/
structure InboxKept (d u : Die) : Prop where
  requests : u.stew.requests = d.stew.requests
  asks : u.stew.asks = d.stew.asks

namespace InboxKept

theorem refl (d : Die) : InboxKept d d := ⟨rfl, rfl⟩

theorem trans {d e u : Die} (h : InboxKept d e) (h' : InboxKept e u) : InboxKept d u :=
  ⟨h'.requests.trans h.requests, h'.asks.trans h.asks⟩

/-- What comes after a step that touches neither. -/
theorem since {d e u : Die} (h : InboxKept e u) (hrequests : e.stew.requests = d.stew.requests) (hasks : e.stew.asks = d.stew.asks) :
    InboxKept d u := trans ⟨hrequests, hasks⟩ h

theorem foldl {α : Type} {f : Die → α → Die} (hf : ∀ e x, InboxKept e (f e x)) (l : List α) (d : Die) : InboxKept d (l.foldl f d) :=
  List.foldlRecOn (motive := InboxKept d) l f (refl d) fun e he x _ => he.trans (hf e x)

theorem ite {p : Prop} {_ : Decidable p} {d a b : Die} (ha : InboxKept d a) (hb : InboxKept d b) : InboxKept d (if p then a else b) := by
  split
  exacts [ha, hb]

end InboxKept

theorem inboxKept_sendPeer (d : Die) (p : BitVec 2) (m : PeerMsg) : InboxKept d (sendPeer d p m) := .ite ⟨rfl, rfl⟩ ⟨rfl, rfl⟩

theorem inboxKept_toPeers (d : Die) (i : Itin) (m : PeerMsg) : InboxKept d (toPeers d i m) :=
  .foldl (fun e p => inboxKept_sendPeer e p m) _ d

theorem inboxKept_modItin (d : Die) (id : BitVec 32) (f : Itin → Itin) : InboxKept d (modItin d id f) := ⟨rfl, rfl⟩

theorem inboxKept_logFault (d : Die) (l : List Byte) : InboxKept d (logFault d l) := ⟨rfl, rfl⟩

/-! ### Rows sensed (R191, R201) -/

theorem inboxKept_markLost (d : Die) (h : BitVec 48) (a : Nat) : InboxKept d (markLost d h a) := by
  have hfree : InboxKept d (freeLoc d (entTier (entryLast d a)) (entLoc (entryLast d a))) := .ite ⟨rfl, rfl⟩ (.refl d)
  unfold markLost
  extract_lets e d1 ctx
  have hd1 : InboxKept d d1 := (InboxKept.ite (.refl d) hfree).trans ⟨rfl, rfl⟩
  exact hd1.trans ⟨rfl, rfl⟩

theorem inboxKept_retireRow (d : Die) (key : Nat) (ue : Bool) : InboxKept d (retireRow d key ue) := by
  obtain ⟨_, _, h⟩ := retireRow_frame d key ue
  rw [h]
  exact ⟨rfl, rfl⟩

theorem inboxKept_noteUe (d : Die) (src key : Nat) : InboxKept d (noteUe d src key) := by
  unfold noteUe
  extract_lets _ _ l d1 d2
  have hd1 : InboxKept d d1 := ⟨rfl, rfl⟩
  exact (InboxKept.ite hd1 (hd1.trans (inboxKept_retireRow d1 key true))).trans
    (.foldl (fun e _ => .ite (inboxKept_markLost e _ _) (.refl e)) _ d2)

theorem inboxKept_noteCe (d : Die) (key : Nat) : InboxKept d (noteCe d key) := by
  obtain ⟨_, _, _, h⟩ := noteCe_frame d key
  rw [h]
  exact ⟨rfl, rfl⟩

theorem inboxKept_senseRow (src : Nat) (d : Die) (key : Nat) : InboxKept d (senseRow src d key) :=
  .ite (inboxKept_noteUe d src key) (.ite (inboxKept_noteCe d key) (.refl d))

theorem inboxKept_argSense (a n : Nat) (d : Die) : InboxKept d (argSense a n d) := by
  unfold argSense
  split
  exacts [.foldl (fun e p => .foldl (inboxKept_senseRow srcOutside) _ e) _ d, .refl d]

theorem sameBook_argSense (a n : Nat) (d : Die) : SameBook d (argSense a n d) := by
  unfold argSense
  split
  exacts [.foldl (fun e p => .foldl (sameBook_senseRow srcOutside) _ e) _ d, .refl d]

/-! ### Cores stopped (R187) -/

theorem inboxKept_raiseFault (d : Die) (c : CoreId) (t : Bool) (code detail pc : Nat) : InboxKept d (raiseFault d c (some t) code detail pc) := by
  unfold raiseFault
  extract_lets x ts place
  generalize faultScope x (some t) = s
  obtain ⟨scope, hs⟩ := s
  dsimp only
  have hcore : ∀ y, InboxKept d (setCore d c y) := fun _ => ⟨rfl, rfl⟩
  have hdrew : ∀ e : Die, InboxKept e (drew e) := fun _ => ⟨rfl, rfl⟩
  refine .trans ((hcore _).trans (.foldl (fun e u => ?_) _ _)) (hdrew _)
  split
  · split
    exacts [(inboxKept_logFault _ _).trans (inboxKept_modItin _ _ _), (inboxKept_logFault _ _).trans (inboxKept_sendPeer _ _ _)]
  · exact inboxKept_logFault _ _

theorem inboxKept_postStamp (d : Die) (c : CoreId) (t : Bool) (pc tile : Nat) : InboxKept d (postStamp d c t pc tile) := by
  unfold postStamp
  split
  · exact .refl d
  · split
    · exact inboxKept_sendPeer _ _ _
    · exact .ite (inboxKept_raiseFault _ _ _ _ _ _) (.ite (.refl d) (.ite (inboxKept_sendPeer _ _ _) ⟨rfl, rfl⟩))

theorem inboxKept_releaseStamps (d : Die) (c : CoreId) (t : Bool) (src : Nat) : InboxKept d (releaseStamps d c t src) := by
  unfold releaseStamps
  exact .since (.foldl (f := fun e (p : Bool × Nat × Nat × Nat) => postStamp e c t p.2.1 p.2.2.1)
    (fun e p => inboxKept_postStamp e c t _ _) _ _) rfl rfl

theorem inboxKept_effDelivery (d : Die) (c : CoreId) (n : Nat) : InboxKept d (effDelivery c n d) := by
  unfold effDelivery
  split
  · exact .refl d
  · next o0 _ =>
    refine .ite (.refl d) ?_
    extract_lets d1 o x x1 th clean x2 d2 d3
    have hd3 : InboxKept d d3 := by
      show InboxKept d (match th.itin with
        | some id => modItin d2 id (orFlags (BitVec.ofNat 5 (fld o.copy 26 5)))
        | none => d2)
      split
      exacts [⟨rfl, rfl⟩, ⟨rfl, rfl⟩]
    exact .ite (hd3.trans (inboxKept_releaseStamps _ _ _ _)) hd3

theorem inboxKept_finishReads (d : Die) (c : CoreId) : InboxKept d (finishReads d c) :=
  .foldl (fun e _ => by
    split
    exacts [inboxKept_effDelivery e c _, .refl e]) _ d

theorem inboxKept_stopCore (d : Die) (c : CoreId) (t : Bool) (code detail : Nat) : InboxKept d (stopCore d c t code detail) := by
  unfold stopCore
  extract_lets x th mine x1 x2 dropped _ x3 x4
  refine .since (.foldl (fun e n => ?_) _ _) rfl rfl
  split
  exacts [⟨rfl, rfl⟩, .refl e]

theorem inboxKept_stopOne (code detail : Nat) (d : Die) (p : CoreId × Bool) : InboxKept d (stopOne code detail d p) := by
  unfold stopOne
  split
  exacts [⟨rfl, rfl⟩, inboxKept_stopCore d p.1 p.2 code detail]

theorem inboxKept_closeThread (d : Die) (p : CoreId × Bool) : InboxKept d (closeThread d p) := ⟨rfl, rfl⟩

theorem inboxKept_stopHere (i : Itin) (code detail : Nat) (d : Die) : InboxKept d (stopHere i code detail d) := by
  have hstop := InboxKept.foldl (inboxKept_stopOne code detail) (itinThreads d i) d
  have hread : ∀ (e : Die) (c : CoreId), InboxKept e (modCore (finishReads e c) c (fun x => { x with stoppedWait := true })) := fun e c =>
    (inboxKept_finishReads e c).trans ⟨rfl, rfl⟩
  have hrest : InboxKept ((itinThreads d i).foldl (stopOne code detail) d) (stopHere i code detail d) :=
    ((InboxKept.foldl hread (hereIds d i) _).trans (.foldl inboxKept_closeThread (itinThreads d i) _)).trans ⟨rfl, rfl⟩
  exact hstop.trans hrest

/-- An abort that awaits other dies leaves the requests: its record is not committed yet. -/
theorem inboxKept_abortItin {d : Die} {id : BitVec 32} {i : Itin} (h : findItin d id = some i) (hrun : i.state = .running)
    (hstop : i.stopping = false) (lost : Option (BitVec 2)) (hpeers : livePeers d i ≠ []) : InboxKept d (abortItin d id lost) := by
  obtain ⟨code, detail, m, hu⟩ := abortItin_running h hrun hstop lost
  obtain ⟨hends, -⟩ := workEnds_stopHere i code detail d
  obtain ⟨j, hj, -⟩ := hends.entries id i h
  have hfind := findItin_modItin_self (f := awaiting (livePeers d i)) (fun _ => rfl) (((sameBook_toPeers _ i m).find id).trans hj)
  rw [hu, tryCommit_waits hfind (.inr hpeers)]
  exact ((inboxKept_stopHere i code detail d).trans (inboxKept_toPeers _ i m)).trans (inboxKept_modItin _ id _)

end Sys2Proof.Machine
end

section
/-! PROOF. O30: SUBMIT, ABORT and QUERY_PROGRESS (R276, R278, R280, R283, R285). -/

namespace Sys2Proof.Machine

/-! ### SUBMIT -/

/-- The bytes of the descriptor a SUBMIT names, and the die once they are read. -/
def descRead (d : Die) (m : Msg) : List Byte := argRead d (msgLE m 0x10 8) (msgLE m 0x18 4)
def descSensed (d : Die) (m : Msg) : Die := argSense (msgLE m 0x10 8) (msgLE m 0x18 4) d

/-- The ID the next itinerary submitted takes. -/
def nextItinId (d : Die) : BitVec 32 := BitVec.ofNat 32 (d.ident.dieNum.toNat * 2 ^ 30 + d.stew.serial.toNat + 1)

/-- The itinerary a SUBMIT asks for. -/
def submittedItin (d : Die) (m : Msg) : Itin :=
  { (parseItin d (descRead d m) (nextItinId d) m.src (eventDst m) (BitVec.ofNat 16 (msgSeq m)) (BitVec.ofNat 32 (msgCtx m))) with
    submitNo := m.no, desc := BitVec.ofNat 64 (msgLE m 0x10 8) }

/-- The least of the faulty bytes is the one answered. -/
theorem firstFlaw_eq_min? (l : List Nat) : firstFlaw l = l.min? := by
  cases l <;> rfl

theorem firstFlaw_least {l : List Nat} {o : Nat} (ho : o ∈ l) (hleast : ∀ o' ∈ l, o ≤ o') : firstFlaw l = some o := by
  rw [firstFlaw_eq_min?, List.min?_eq_some_iff]
  exact ⟨ho, hleast⟩

section Judge

variable {d : Die} {m : Msg} {l : List Byte} (n : Nat) (i : Itin)

theorem judgeSubmit_flawed {o : Nat} (ho : o ∈ descFlaws d (msgCtx m) l) (hleast : ∀ o' ∈ descFlaws d (msgCtx m) l, o ≤ o') :
    judgeSubmit n m d l i none none = answer (drew d) n m stBadDescriptor o [] := by
  simp only [judgeSubmit, firstFlaw_least ho hleast, leastOf]

/-- The die with one more itinerary in its book. -/
def itinQueued (d : Die) : Die := drew { d with stew := { d.stew with serial := d.stew.serial + 1, itins := d.stew.itins ++ [i] } }

theorem judgeSubmit_accepts (hflaws : descFlaws d (msgCtx m) l = []) (hregs : regsReadable d l = true) (hdetail : regDetail d l = none)
    (htally : tallyBusy d i = none) (hroom : (waitingOn d (queueKey i)).length < 16) (hserial : d.stew.serial ≠ BitVec.allOnes 30) :
    judgeSubmit n m d l i none none = answer (itinQueued i d) n m stAccepted 0 (leBytes 4 i.id.toNat ++ leBytes 4 0) := by
  have hgo : ¬ (16 ≤ (waitingOn d (queueKey i)).length || d.stew.serial = BitVec.allOnes 30) = true := by
    simpa using ⟨hroom, hserial⟩
  simp only [judgeSubmit, hflaws, firstFlaw, hregs, hdetail, htally, leastOf, if_neg hgo, Bool.not_true, Bool.false_eq_true, if_false]
  rfl

end Judge

/-- The die whose descriptor other dies have been asked to look at. -/
def peersAsked (d : Die) (m : Msg) : Die :=
  let peers := itinPeers d (submittedItin d m)
  let d1 := peers.foldl (fun e p => sendPeer e p (.check m.no (BitVec.ofNat 64 (msgLE m 0x10 8)) (BitVec.ofNat 32 (msgLE m 0x18 4))))
    (descSensed d m)
  { d1 with stew := { d1.stew with asks := d1.stew.asks ++ [⟨m.no, peers, none, none⟩] } }

theorem peersAsked_spec (d : Die) (m : Msg) :
    (peersAsked d m).stew.asks = d.stew.asks ++ [⟨m.no, itinPeers d (submittedItin d m), none, none⟩] ∧
    (peersAsked d m).stew.requests = d.stew.requests ∧ (peersAsked d m).stew.itins = d.stew.itins := by
  have hkept := (inboxKept_argSense (msgLE m 0x10 8) (msgLE m 0x18 4) d).trans
    (.foldl (fun e p => inboxKept_sendPeer e p (.check m.no (BitVec.ofNat 64 (msgLE m 0x10 8)) (BitVec.ofNat 32 (msgLE m 0x18 4))))
      (itinPeers d (submittedItin d m)) _)
  have hbook := (sameBook_argSense (msgLE m 0x10 8) (msgLE m 0x18 4) d).trans
    (.foldl (fun e p => sameBook_sendPeer e p (.check m.no (BitVec.ofNat 64 (msgLE m 0x10 8)) (BitVec.ofNat 32 (msgLE m 0x18 4))))
      (itinPeers d (submittedItin d m)) _)
  exact ⟨congrArg (· ++ _) hkept.asks, hkept.requests, hbook.itins⟩

section Submit

variable {d : Die} {m : Msg} (n : Nat) (hdenied : foreignDenied d m (submittedItin d m) = false)
include hdenied

theorem runSubmit_here (hpeers : itinPeers d (submittedItin d m) = []) :
    runSubmit n m d = judgeSubmit n m (descSensed d m) (descRead d m) (submittedItin d m) none none := by
  unfold submittedItin descRead nextItinId at *
  simp only [runSubmit, hdenied, hpeers, List.isEmpty_nil, Bool.false_eq_true, if_false, if_true]
  rfl

theorem runSubmit_asks (hpeers : itinPeers d (submittedItin d m) ≠ []) (hnew : d.stew.asks.find? (fun a => a.no == m.no) = none)
    (hup : (itinPeers d (submittedItin d m)).any (fun p => d.link.fenced.getLsbD p.toNat) = false) : runSubmit n m d = peersAsked d m := by
  have hnot : (itinPeers d (submittedItin d m)).isEmpty = false := by simpa using hpeers
  unfold submittedItin descRead nextItinId at *
  simp only [runSubmit, hdenied, hnot, hnew, hup, Bool.false_eq_true, if_false]
  rfl

end Submit

/-! ### ABORT -/

/-- The itinerary a request names stands in the book. -/
theorem findItin_ownItin {d : Die} {m : Msg} {i : Itin} (h : ownItin d m = some i) : findItin d i.id = some i := by
  have hfind := (Option.filter_eq_some_iff.mp h).1
  rwa [findItin_id hfind]

theorem runAbort_none {d : Die} {m : Msg} (n : Nat) (h : ownItin d m = none) : runAbort n m d = answer d n m stNoItinerary 0 [] := by
  simp only [runAbort, h]

/-- The die on which ABORT has noted its reason. -/
def abortAsked (i : Itin) (d : Die) : Die := modItin d i.id (fun y => { y with reason := 0x80 })

section Abort

variable {d : Die} {m : Msg} {i : Itin} (n : Nat) (hown : ownItin d m = some i)
include hown

theorem runAbort_complete (h : i.state = .complete) : runAbort n m d = answer d n m stAlreadyComplete 0 (progress i) := by
  have hdead : itinLive i = false := by simp [itinLive, h]
  simp only [runAbort, hown, hdead, findItin_ownItin hown, Bool.false_and, Bool.false_eq_true, if_false, if_pos h]

theorem findItin_abortAsked : findItin (abortAsked i d) i.id = some { i with reason := 0x80 } :=
  findItin_modItin_self (fun _ => rfl) (findItin_ownItin hown)

variable (hlive : itinLive i = true) (hstop : i.stopping = false)
include hlive hstop

theorem runAbort_ends {j : Itin} (hfind : findItin (abortItin (abortAsked i d) i.id none) i.id = some j) (h : j.state = .aborted) :
    runAbort n m d = answer (abortItin (abortAsked i d) i.id none) n m stAborted 0 (progress j) := by
  have hdead : itinLive j = false := by simp [itinLive, h]
  have hnot : ¬ j.state = .complete := by simp [h]
  unfold abortAsked at hfind ⊢
  simp only [runAbort, hown, hlive, hstop, Bool.not_false, Bool.and_self, if_true, hfind, hdead, Bool.false_eq_true, if_false, if_neg hnot]

theorem runAbort_waits {j : Itin} (hfind : findItin (abortItin (abortAsked i d) i.id none) i.id = some j) (h : j.state = .running) :
    runAbort n m d = abortItin (abortAsked i d) i.id none := by
  have hjlive : itinLive j = true := by simp [itinLive, h]
  unfold abortAsked at hfind ⊢
  simp only [runAbort, hown, hlive, hstop, Bool.not_false, Bool.and_self, if_true, hfind, hjlive]

end Abort

/-- A queued itinerary that is aborted ends at once. -/
theorem abortItin_queued {d : Die} {i : Itin} (h : findItin d i.id = some i) (hqueued : i.state = .queued) (lost : Option (BitVec 2)) :
    ∃ j, findItin (abortItin d i.id lost) i.id = some j ∧ j.state = .aborted ∧ j.reason = i.reason := by
  have hback : ∃ asked replies, findItin (if i.asked.isEmpty && i.replies.isEmpty then d else unreserve i d) i.id =
      some { i with asked := asked, replies := replies } := by
    split
    exacts [⟨_, _, h⟩, ⟨_, _, (unreserve_spec h).1⟩]
  obtain ⟨asked, replies, hback⟩ := hback
  have hfind := findItin_modItin_self (f := fun y => { y with settled := true }) (fun _ => rfl) hback
  simp only [abortItin, h, if_pos hqueued]
  exact ⟨_, (commitItin_ends .aborted hfind).entry, rfl, rfl⟩

/-- An abort of a live itinerary that no other die holds ends it with its reason. -/
theorem abortItin_live {d : Die} {i : Itin} (h : findItin d i.id = some i) (hlive : itinLive i = true) (hstop : i.stopping = false)
    (hreason : i.reason ≠ 0) (hpeers : livePeers d i = []) (lost : Option (BitVec 2)) :
    ∃ j, findItin (abortItin d i.id lost) i.id = some j ∧ j.state = .aborted ∧ j.reason = i.reason := by
  have hcase : i.state = .queued ∨ i.state = .running := by simpa [itinLive] using hlive
  rcases hcase with hqueued | hrun
  · exact abortItin_queued h hqueued lost
  · obtain ⟨j, hended, hid, hstate, hjreason, -⟩ := abortItin_ends h hrun hstop hreason lost hpeers
    exact ⟨j, hid ▸ hended.entry, hstate, hjreason⟩

/-- The other dies that hold an itinerary are the same once ABORT has noted its reason. -/
theorem livePeers_abortAsked (d : Die) (i : Itin) : livePeers (abortAsked i d) { i with reason := 0x80 } = livePeers d i :=
  livePeers_congr rfl rfl rfl

/-! ### QUERY_PROGRESS -/

theorem runQuery_none {d : Die} {m : Msg} (n : Nat) (h : ownItin d m = none) : runQuery n m d = answer d n m stNoItinerary 0 [] := by
  simp only [runQuery, h]

theorem runQuery_some {d : Die} {m : Msg} {i : Itin} (n : Nat) (h : ownItin d m = some i) :
    runQuery n m d = answer (if i.state = .running then writeMap d i else d) n m stOk 0 (progress i) := by
  simp only [runQuery, h]

/-! ### The statement -/

/-- Settles O30: SUBMIT by what is found in its descriptor, ABORT by the ends of `abortItin`, QUERY_PROGRESS by its meaning. -/
theorem itineraryMessages : Obligations.ItineraryMessages := by
  unfold Obligations.ItineraryMessages
  intro s n m0 i d m len l r id made submitted
  refine ⟨?accepted, ?flawed, ?asked, ?noItinerary, ?complete, ?aborted, ?stopping, ?queryNone, ?query⟩
  case accepted =>
    rintro ⟨h, hdenied⟩ hpeers hflaws hregs hdetail htally hroom hserial
    exact ⟨rfl, rfl, onDie_eq (((onRequest_asks h).trans (runSubmit_here n hdenied hpeers)).trans
      (judgeSubmit_accepts n made hflaws hregs hdetail htally hroom hserial))⟩
  case flawed =>
    rintro o ⟨h, hdenied⟩ hpeers ho hleast
    exact onDie_eq (((onRequest_asks h).trans (runSubmit_here n hdenied hpeers)).trans (judgeSubmit_flawed n made ho hleast))
  case asked =>
    rintro ⟨h, hdenied⟩ hpeers hnew hup
    exact ⟨_, onDie_eq ((onRequest_asks h).trans (runSubmit_asks n hdenied hpeers hnew hup)), peersAsked_spec d m⟩
  case noItinerary => exact fun h hown => onDie_eq ((onRequest_asks h).trans (runAbort_none n hown))
  case complete => exact fun h hown hstate => onDie_eq ((onRequest_asks h).trans (runAbort_complete n hown hstate))
  case aborted =>
    intro h hown hlive hstop hpeers
    have hnoted := findItin_abortAsked hown
    obtain ⟨j, hfind, hstate, hreason⟩ := abortItin_live (i := { i with reason := 0x80 }) hnoted hlive hstop
      (show (0x80 : BitVec 8) ≠ 0 by decide) ((livePeers_abortAsked d i).trans hpeers) none
    exact ⟨_, j, onDie_eq ((onRequest_asks h).trans (runAbort_ends n hown hlive hstop hfind hstate)), hfind, hstate, hreason⟩
  case stopping =>
    intro h hown hrun hstop hpeers
    have hlive : itinLive i = true := by simp [itinLive, hrun]
    have hpeers' : livePeers (abortAsked i d) { i with reason := 0x80 } ≠ [] := (livePeers_abortAsked d i).symm ▸ hpeers
    have hnoted := findItin_abortAsked hown
    obtain ⟨⟨j, hfind, hstate, hreason, hjstop, hasked⟩, -⟩ := abortItin_stops hnoted hrun hstop
      (show (0x80 : BitVec 8) ≠ 0 by decide) none hpeers'
    have hkept := inboxKept_abortItin hnoted hrun hstop none hpeers'
    exact ⟨_, j, onDie_eq ((onRequest_asks h).trans (runAbort_waits n hown hlive hstop hfind hstate)), hfind, hjstop,
      hasked.trans (livePeers_abortAsked d i), hstate, hreason, hkept.requests⟩
  case queryNone =>
    intro h hown
    exact onDie_eq ((onRequest_asks h).trans (runQuery_none n hown))
  case query =>
    intro h hown
    exact onDie_eq ((onRequest_asks h).trans (runQuery_some n hown))

end Sys2Proof.Machine
end

section
/-! PROOF. What one module sends and hears: credits, acknowledgements, replay (R310 to R313), each by what it leaves of the module and of
the rest of the die. -/

namespace Sys2Proof.Machine

/-! ### One module -/

theorem getMod_putMod (d : Die) (n : Nat) (m : Module) : getMod (putMod d n m) n = m := tabGet_set _ _ _ _

theorem getMod_putMod_ne (d : Die) {n k : Nat} (m : Module) (h : k ≠ n) : getMod (putMod d n m) k = getMod d k :=
  tabGet_set_ne _ _ _ h

/-- From `d` to `u` only the link, the Consignment counts and what has been sent moved, and of the modules only the n-th. -/
def OnlyModule (n : Nat) (d u : Die) : Prop := LinkMoved d u ∧ ∀ k, k ≠ n → getMod u k = getMod d k

namespace OnlyModule

variable {n : Nat} {d e u : Die}

theorem trans : OnlyModule n d e → OnlyModule n e u → OnlyModule n d u :=
  fun ⟨h1, k1⟩ ⟨h2, k2⟩ => ⟨h1.trans h2, fun k hk => (k2 k hk).trans (k1 k hk)⟩

theorem refl (n : Nat) (d : Die) : OnlyModule n d d := ⟨.refl d, fun _ _ => rfl⟩

theorem putMod (n : Nat) (d : Die) (m : Module) : OnlyModule n d (putMod d n m) :=
  ⟨⟨_, _, _, _, rfl⟩, fun _ hk => getMod_putMod_ne d m hk⟩

theorem send (n : Nat) (d : Die) (o : Out) : OnlyModule n d (send d o) := ⟨⟨_, _, _, _, rfl⟩, fun _ _ => rfl⟩

theorem creditFlit (n : Nat) (nak retrain : Bool) (d : Die) : OnlyModule n d (creditFlit n nak retrain d) :=
  .trans (.putMod n d _) (.send n _ _)

/-- What the statements say of the rest of the die. -/
theorem apart (h : OnlyModule n d u) : u.mem = d.mem ∧ u.pkg = d.pkg ∧ u.cores = d.cores ∧ ∀ k, k ≠ n → getMod u k = getMod d k :=
  ⟨h.1.mem, h.1.pkg, h.1.cores, h.2⟩

end OnlyModule

/-! ### Credits returned (R310, R311) -/

/-- A module but for its account of the credits it returns. -/
def besidesDue (m : Module) : Module := { m with dueReq := 0, dueRsp := 0, dueCtrl := 0, retReq := 0, retRsp := 0, retCtrl := 0 }

/-- A module but for what a flit that returns credits changes. -/
def besidesReturns (m : Module) : Module := { besidesDue m with txSeq := 0, replay := [] }

theorem besidesReturns_giveBack (ch : BitVec 2) (m : Module) : besidesReturns (giveBack ch m) = besidesReturns m := by
  unfold giveBack
  split <;> rfl

theorem besidesDue_returnOn (ch : Nat) (m : Module) : besidesDue (returnOn ch m) = besidesDue m := by
  unfold returnOn
  dsimp only
  split <;> rfl

theorem besidesDue_creditField (m : Module) : besidesDue (creditField m).2 = besidesDue m :=
  (besidesDue_returnOn _ _).trans (besidesDue_returnOn _ _)

theorem besidesDue_creditFields : ∀ (l : List (BitVec 8)) (m : Module), besidesDue (creditFields l m).2 = besidesDue m
  | [], _ => rfl
  | s :: l, m => by
    unfold creditFields
    split
    · rfl
    · exact (besidesDue_creditFields l _).trans (besidesDue_creditField m)

/-! ### NOPs for credits (R302) -/

theorem sendNop_idle {n : Nat} {d : Die} (h : dueOn (getMod d n) = []) : sendNop n d = d := by simp [sendNop, h]

/-- The module once a NOP has taken its SEQ and its credits. -/
def nopSent (x : Module) : Module := { (creditField x).2 with txSeq := x.txSeq + 1, replay := x.replay ++ [x.txSeq] }

theorem besidesReturns_nopSent (x : Module) : besidesReturns (nopSent x) = besidesReturns x :=
  (congrArg (fun m => { m with txSeq := 0, replay := [] }) (besidesDue_creditField x) :)

theorem sendNop_sends {n : Nat} {d : Die} {x : Module} (hx : getMod d n = x) (hdue : dueOn x ≠ []) (hrun : modCarries x = true)
    (hroom : x.replay.length < 64) :
    sendNop n d = send (putMod d n (nopSent x)) (.credits (BitVec.ofNat 8 n) x.txSeq true (creditField x).1) := by
  subst hx
  rw [sendNop, if_neg (by simp [hdue, hrun, hroom])]
  rfl

theorem sendNop_cases (n : Nat) (d : Die) : sendNop n d = d ∨
    ∃ o, sendNop n d = send (putMod d n (nopSent (getMod d n))) o := by
  by_cases h : dueOn (getMod d n) ≠ [] ∧ modCarries (getMod d n) = true ∧ (getMod d n).replay.length < 64
  · exact .inr ⟨_, sendNop_sends rfl h.1 h.2.1 h.2.2⟩
  · refine .inl (if_pos ?_)
    simp only [Bool.or_eq_true, List.isEmpty_iff, Bool.not_eq_true', decide_eq_true_eq]
    by_cases hdue : dueOn (getMod d n) = [] <;> by_cases hrun : modCarries (getMod d n) = true <;> simp_all

theorem besidesReturns_sendNop (n : Nat) (d : Die) : besidesReturns (getMod (sendNop n d) n) = besidesReturns (getMod d n) := by
  obtain h | ⟨o, h⟩ := sendNop_cases n d
  · rw [h]
  · rw [h]
    exact (congrArg besidesReturns (getMod_putMod d n _)).trans (besidesReturns_nopSent _)

theorem OnlyModule.sendNop (n : Nat) (d : Die) : OnlyModule n d (sendNop n d) := by
  obtain h | ⟨o, h⟩ := sendNop_cases n d
  · rw [h]
    exact .refl n d
  · rw [h]
    exact .trans (.putMod n d _) (.send n _ o)

/-! ### Groups sent (R310, R312) -/

/-- A module but for what sending a group changes. -/
def besidesSending (m : Module) : Module := { besidesReturns m with queue := [], credReq := 0, credRsp := 0, credCtrl := 0 }

theorem besidesSending_sendGroup (i : TxItem) (m : Module) : besidesSending (sendGroup i m) = besidesSending m := by
  unfold sendGroup addCredits
  dsimp only
  split <;> rfl

theorem besidesSending_pumpItems : ∀ (l : List TxItem) (blocked : List (BitVec 2)) (m : Module),
    besidesSending (pumpItems l blocked m).1 = besidesSending m
  | [], _, _ => rfl
  | i :: l, blocked, m => by
    unfold pumpItems
    split
    · exact besidesSending_pumpItems l _ m
    · exact (besidesSending_pumpItems l blocked _).trans (besidesSending_sendGroup i m)

theorem getMod_noteSent (d : Die) (i : TxItem) (k : Nat) : getMod (noteSent d i) k = getMod d k := by
  unfold noteSent
  dsimp only
  split <;> rfl

/-- The module once all that could be sent has left it, the flits' SEQs being `seqs`. -/
def pumped (seqs : List (BitVec 8)) (x : Module) : Module :=
  { (creditFields seqs (pumpItems x.queue [] x).1).2 with queue := (pumpItems x.queue [] x).2.2 }

theorem besidesSending_pumped (seqs : List (BitVec 8)) (x : Module) : besidesSending (pumped seqs x) = besidesSending x := by
  have hdue := besidesDue_creditFields seqs (pumpItems x.queue [] x).1
  exact (congrArg (fun m => { m with txSeq := 0, replay := [], queue := [], credReq := 0, credRsp := 0, credCtrl := 0 }) hdue :).trans
    (besidesSending_pumpItems _ _ _)

theorem getMod_pumpMod {n : Nat} {d : Die} (h : d.link.rxLoss = false) (k : Nat) :
    ∃ seqs, getMod (pumpMod n d) k = getMod (putMod d n (pumped seqs (getMod d n))) k := by
  have hfields := foldl_keeps (g := fun e => getMod e k)
    (f := fun e (p : BitVec 8 × BitVec 16) => send e (.credits (BitVec.ofNat 8 n) p.1 false p.2)) (fun _ _ => rfl)
  rw [pumpMod, if_neg (by simp [h])]
  exact ⟨_, (hfields _ _).trans (foldl_keeps (g := fun e => getMod e k) (fun e i => getMod_noteSent e i k) _ _)⟩

theorem besidesSending_pumpMod (n : Nat) (d : Die) : besidesSending (getMod (pumpMod n d) n) = besidesSending (getMod d n) := by
  cases h : d.link.rxLoss with
  | true => rw [pumpMod, if_pos h]
  | false =>
    obtain ⟨seqs, hput⟩ := getMod_pumpMod h n
    rw [hput, getMod_putMod, besidesSending_pumped]

theorem OnlyModule.pumpMod (n : Nat) (d : Die) : OnlyModule n d (pumpMod n d) := by
  refine ⟨linkMoved_pumpMod n d, fun k hk => ?_⟩
  cases h : d.link.rxLoss with
  | true => rw [Machine.pumpMod, if_pos h]
  | false =>
    obtain ⟨seqs, hput⟩ := getMod_pumpMod h k
    rw [hput, getMod_putMod_ne _ _ hk]

/-- Where nothing waits nothing is sent. -/
theorem pumpMod_of_queue_nil {n : Nat} {d : Die} (h : (getMod d n).queue = []) :
    getMod (pumpMod n d) n = getMod d n ∧ (pumpMod n d).out = d.out := by
  have hput : pumpMod n d = if d.link.rxLoss then d else putMod d n { getMod d n with queue := [] } := by
    simp [pumpMod, h, pumpItems, creditFields]
  rw [hput]
  split
  · exact ⟨rfl, rfl⟩
  · exact ⟨by rw [getMod_putMod, ← h], rfl⟩

/-! ### CREDIT flits and replay (R311 to R313) -/

theorem getMod_creditFlit {n : Nat} {d : Die} {x : Module} (hx : getMod d n = x) (nak retrain : Bool) :
    getMod (creditFlit n nak retrain d) n = { x with unacked := 0 } := by
  subst hx
  exact getMod_modMod d n (fun m => { m with unacked := 0 })

theorem creditFlit_eq {m : BitVec 8} {d : Die} {x : Module} (hx : getMod d m.toNat = x) (nak retrain : Bool) :
    creditFlit m.toNat nak retrain d = send (putMod d m.toNat { x with unacked := 0 })
      (.creditFlit m (x.rxSeq - 1) nak retrain x.retReq x.retRsp x.retCtrl) := by
  subst hx
  simp [creditFlit, modMod]

theorem resend_eq {m : BitVec 8} {d : Die} {x : Module} (hx : getMod d m.toNat = x) (h : x.replay ≠ []) :
    resend m.toNat d = send (putMod d m.toNat { x with
      replays := satInc x.replays, resends := x.resends + 1, retrainAsked := x.retrainAsked || decide (8 ≤ x.resends + 1) })
      (.replayed m x.replay) := by
  subst hx
  simp [resend, h]

end Sys2Proof.Machine
end

section
/-! PROOF. O40: flits heard, acknowledged and sent again (R310 to R313), and the wires they cross on (R300, R328). -/

namespace Sys2Proof.Machine

/-- A command whose operands the hardware has. -/
theorem onDieIf_eq {ok : Bool} {f : Die → Die} {s : State} {u : Die} (hok : ok = true) (h : f s.die = u) :
    onDieIf ok f s = .next (s.withDie u) := by
  rw [hok, onDieIf_ok, h]

/-- A command that leaves the die as it was, whether or not the hardware has what it names. -/
theorem onDieIf_idle {f : Die → Die} {s : State} (ok : Bool) (h : f s.die = s.die) : onDieIf ok f s = .next s := by
  cases ok
  · rfl
  · rw [onDieIf_ok, h]

/-! ### Credits heard (R310) -/

/-- What half a CREDIT field gives channel `c`. -/
def share (ch : BitVec 2) (k : BitVec 6) (c : BitVec 2) : BitVec 32 := if ch = c then k.setWidth 32 else 0

/-- The module with half a CREDIT field applied. -/
def credited (ch : BitVec 2) (k : BitVec 6) (x : Module) : Module := { x with
  credReq := x.credReq + share ch k 0, credRsp := x.credRsp + share ch k 1, credCtrl := x.credCtrl + share ch k 2,
  gotReq := x.gotReq + share ch k 0, gotRsp := x.gotRsp + share ch k 1, gotCtrl := x.gotCtrl + share ch k 2 }

theorem share_add (a b : BitVec 2) (k l : BitVec 6) (c : BitVec 2) (v : BitVec 32) : v + share a k c + share b l c =
    v + BitVec.ofNat 32 ((if a = c then k.toNat else 0) + (if b = c then l.toNat else 0)) := by
  have hshare : ∀ (ch : BitVec 2) (k : BitVec 6), share ch k c = BitVec.ofNat 32 (if ch = c then k.toNat else 0) := by
    intro ch k
    unfold share
    split
    · exact (BitVec.ofNat_toNat 32 k).symm
    · rfl
  rw [hshare, hshare, BitVec.add_assoc, BitVec.ofNat_add]

theorem applyCredit_eq {ch : BitVec 2} (h : ch ≠ 3) (n : Nat) (k : BitVec 6) (d : Die) :
    applyCredit n ch k d = cons (modMod d n (credited ch k)) 2 0 k.toNat := by
  have hch : ∀ ch : BitVec 2, ch ≠ 3 → ch = 0 ∨ ch = 1 ∨ ch = 2 := by decide
  obtain rfl | rfl | rfl := hch ch h <;> simp [applyCredit, modMod, credited, share, addCredits]

theorem getMod_applyCredit (n : Nat) (ch : BitVec 2) (k : BitVec 6) (d : Die) :
    getMod (applyCredit n ch k d) n = credited ch k (getMod d n) := by
  by_cases h : ch = 3
  · simp [h, applyCredit, credited, share]
  · rw [applyCredit_eq h]
    exact getMod_modMod d n (credited ch k)

theorem OnlyModule.applyCredit (n : Nat) (ch : BitVec 2) (k : BitVec 6) (d : Die) : OnlyModule n d (applyCredit n ch k d) := by
  by_cases h : ch = 3
  · rw [Machine.applyCredit, if_pos h]
    exact .refl n d
  · rw [applyCredit_eq h]
    exact .trans (.putMod n d _) ⟨⟨_, _, _, _, rfl⟩, fun _ _ => rfl⟩

/-! ### Flits accepted and refused (R302, R310 to R312) -/

theorem OnlyModule.noteDiscard (n : Nat) (f : RxFlit) (d : Die) : OnlyModule n d (noteDiscard f d) := by
  unfold Machine.noteDiscard
  split
  · exact ⟨⟨_, _, _, _, rfl⟩, fun _ _ => rfl⟩
  · exact .refl n d

theorem getMod_noteDiscard (f : RxFlit) (d : Die) (k : Nat) : getMod (noteDiscard f d) k = getMod d k := by
  unfold noteDiscard
  split <;> rfl

/-- The module as an accepted flit leaves it but for the credits it returns, `unacked` flits then waiting for their acknowledgement. -/
def heard (f : RxFlit) (unacked : Nat) (x : Module) : Module :=
  let left := if f.dataBit then x.rxData - 1 else if f.kind = 2 || f.kind = 3 then f.entries.toNat else 0
  credited (f.credit.extractLsb' 6 2) (f.credit.extractLsb' 0 6) (credited (f.credit.extractLsb' 14 2) (f.credit.extractLsb' 8 6)
    { x with rxSeq := x.rxSeq + 1, refusing := false, failures := 0, unacked := unacked, rxKind := f.kind, rxData := left })

/-- The credits a flit's CREDIT field gives a channel. -/
def creditsGiven (f : RxFlit) (ch : BitVec 2) : Nat :=
  (if f.credit.extractLsb' 14 2 = ch then fld f.credit 8 6 else 0) + (if f.credit.extractLsb' 6 2 = ch then fld f.credit 0 6 else 0)

/-- A module that is what an accepted flit leaves, but for the credits it has returned since. -/
theorem fields_of_heard {f : RxFlit} {k : Nat} {x y : Module} (h : besidesReturns y = besidesReturns (heard f k x)) :
    y.rxSeq = x.rxSeq + 1 ∧ y.refusing = false ∧ y.failures = 0 ∧ y.crcErrors = x.crcErrors ∧ y.queue = x.queue ∧
      y.credReq = x.credReq + BitVec.ofNat 32 (creditsGiven f 0) ∧ y.credRsp = x.credRsp + BitVec.ofNat 32 (creditsGiven f 1) ∧
      y.credCtrl = x.credCtrl + BitVec.ofNat 32 (creditsGiven f 2) :=
  ⟨(congrArg Module.rxSeq h :), (congrArg Module.refusing h :), (congrArg Module.failures h :), (congrArg Module.crcErrors h :),
    (congrArg Module.queue h :), (congrArg Module.credReq h :).trans (share_add _ _ _ _ 0 _),
    (congrArg Module.credRsp h :).trans (share_add _ _ _ _ 1 _), (congrArg Module.credCtrl h :).trans (share_add _ _ _ _ 2 _)⟩

theorem besidesReturns_credited (ch : BitVec 2) (k : BitVec 6) {x y : Module} (h : besidesReturns x = besidesReturns y) :
    besidesReturns (credited ch k x) = besidesReturns (credited ch k y) := (congrArg (credited ch k) h :)

/-- The flit itself taken, with the credits it brings; what it makes the die send comes after. -/
theorem acceptFlit_eq (n : Nat) (f : RxFlit) (d : Die) : ∃ (e : Die) (b : Bool), OnlyModule n d e ∧
    (∃ k, besidesReturns (getMod e n) = besidesReturns (heard f k (getMod d n))) ∧
    acceptFlit n f d = if b then sendNop n (pumpMod n (creditFlit n false false e)) else pumpMod n e := by
  unfold acceptFlit
  extract_lets m left m1 d1 d2 d3
  refine ⟨d2, decide (32 ≤ m1.unacked), ?_, ⟨m.unacked + 1, ?_⟩, ?_⟩
  · exact .trans (.trans (.trans (.putMod n d m1) (.applyCredit n _ _ _)) (.applyCredit n _ _ _)) (.noteDiscard n f d1)
  · simp only [d2, d1, getMod_noteDiscard, getMod_applyCredit, getMod_putMod]
    exact besidesReturns_credited _ _ (besidesReturns_credited _ _ (besidesReturns_giveBack _ _))
  · simp only [d3, decide_eq_true_eq]
    split <;> rfl

theorem OnlyModule.acceptFlit (n : Nat) (f : RxFlit) (d : Die) : OnlyModule n d (acceptFlit n f d) := by
  obtain ⟨e, b, honly, -, heq⟩ := acceptFlit_eq n f d
  rw [heq]
  refine honly.trans ?_
  split
  · exact .trans (.trans (.creditFlit n false false e) (.pumpMod n _)) (.sendNop n _)
  · exact .pumpMod n e

/-- An accepted flit where nothing waits to be sent. -/
theorem getMod_acceptFlit {n : Nat} {d : Die} {x : Module} (hx : getMod d n = x) (hq : x.queue = []) (f : RxFlit) :
    ∃ k, besidesReturns (getMod (acceptFlit n f d) n) = besidesReturns (heard f k x) := by
  subst hx
  obtain ⟨e, b, -, ⟨k, hk⟩, heq⟩ := acceptFlit_eq n f d
  have hqe : (getMod e n).queue = [] := by
    obtain ⟨-, -, -, -, hqueue, -⟩ := fields_of_heard hk
    exact hqueue.trans hq
  rw [heq]
  cases b with
  | false => exact ⟨k, by rw [if_neg (by simp), (pumpMod_of_queue_nil hqe).1, hk]⟩
  | true =>
    have hsent := getMod_creditFlit (n := n) (d := e) rfl false false
    have hpump := (pumpMod_of_queue_nil (d := creditFlit n false false e) ((congrArg Module.queue hsent).trans hqe)).1
    refine ⟨0, ?_⟩
    rw [if_pos rfl, besidesReturns_sendNop, hpump, hsent]
    exact (congrArg (fun m => { m with unacked := 0 }) hk :)

/-- A refused flit: its failure counted, and one NAK until the expected flit comes. -/
theorem refuseFlit_eq {m : BitVec 8} {d : Die} {x : Module} (hx : getMod d m.toNat = x) (crc : Bool) :
    let k := if crc || !x.refusing then x.failures + 1 else x.failures
    let y : Module := { x with crcErrors := if crc then satInc x.crcErrors else x.crcErrors, refusing := true, failures := k,
                               retrainAsked := x.retrainAsked || decide (8 ≤ k) }
    refuseFlit m.toNat crc d = if x.refusing then putMod d m.toNat y else creditFlit m.toNat true false (putMod d m.toNat y) := by
  subst hx
  rfl

/-- What the statement says of a refusal. -/
theorem refuseFlit_spec {m : BitVec 8} {d : Die} {x : Module} (hx : getMod d m.toNat = x) (crc : Bool) :
    let u := refuseFlit m.toNat crc d
    (getMod u m.toNat).rxSeq = x.rxSeq ∧ (getMod u m.toNat).refusing = true ∧
      (getMod u m.toNat).failures = (if crc = true ∨ x.refusing = false then x.failures + 1 else x.failures) ∧
      (getMod u m.toNat).crcErrors = (if crc = true then satInc x.crcErrors else x.crcErrors) ∧ OnlyModule m.toNat d u ∧
      (x.refusing = true → u.out = d.out) ∧
      (x.refusing = false → u.out = d.out ++ [.creditFlit m (x.rxSeq - 1) true false x.retReq x.retRsp x.retCtrl]) := by
  intro u
  have hu := refuseFlit_eq hx crc
  extract_lets k y at hu
  cases hr : x.refusing with
  | true =>
    rw [hr, if_pos rfl] at hu
    simp only [u, hu, getMod_putMod]
    exact ⟨rfl, rfl, by simp [y, k, hr], rfl, .putMod _ d y, fun _ => rfl, fun h => absurd h (by simp)⟩
  | false =>
    have hy := getMod_putMod d m.toNat y
    rw [hr, if_neg (by simp)] at hu
    simp only [u, hu, getMod_creditFlit hy]
    refine ⟨rfl, rfl, by simp [y, k, hr], rfl, .trans (.putMod _ d y) (.creditFlit _ _ _ _), fun h => absurd h (by simp), fun _ => ?_⟩
    rw [creditFlit_eq hy]
    rfl

/-! ### The commands at a module that carries flits -/

section Carries

variable {m : BitVec 8} {d : Die} {x : Module} (hx : getMod d m.toNat = x) (h7 : d.link.state = 7) (hrun : modCarries x = true)
include hx h7 hrun

theorem effFlit_sequenced {f : RxFlit} (h9 : f.kind ≠ 9) (h10 : f.kind ≠ 10) : effFlit m f d =
    if f.crcOk = false ∨ badFlit x f = true then refuseFlit m.toNat true d
    else if f.seq = x.rxSeq then acceptFlit m.toNat f d else refuseFlit m.toNat false d := by
  rw [effFlit, if_neg (by simp [hx, h7, hrun]), if_neg (by simpa using And.intro h9 h10), hx]
  cases f.crcOk <;> cases badFlit x f <;> simp

theorem effFlit_unsequenced {f : RxFlit} (hkind : f.kind = 9 ∨ f.kind = 10) (hbad : f.crcOk = false ∨ f.dataBit = true) :
    effFlit m f d = putMod d m.toNat { x with crcErrors := satInc x.crcErrors } := by
  rw [effFlit, if_neg (by simp [hx, h7, hrun]), if_pos (by simpa using hkind), hx, if_neg]
  obtain h | h := hbad <;> simp [h]

/-- The module once a CREDIT flit has acknowledged what it names. -/
def acknowledged (x : Module) (f : CreditFlit) : Module :=
  let acked := x.replay.contains f.ackSeq
  { x with replay := if acked then (replayFrom x.replay f.ackSeq).drop 1 else x.replay,
           resends := if acked then 0 else x.resends, retrainAsked := x.retrainAsked || f.retrain }

theorem effCredit_good {f : CreditFlit} (hcrc : f.crcOk = true) : effCredit m f d =
    pumpMod m.toNat (if f.nak then resend m.toNat (putMod d m.toNat (acknowledged x f)) else putMod d m.toNat (acknowledged x f)) := by
  rw [effCredit, if_neg (by simp [hx, h7, hrun]), if_neg (by simp [hcrc]), hx]
  rfl

theorem effReplayTimeout_eq (hclk : d.link.rxLoss = false) : effReplayTimeout m d = resend m.toNat d :=
  if_neg (by simp [hx, h7, hrun, hclk])

theorem effCreditTimer_eq (hclk : d.link.rxLoss = false) (hack : x.unacked ≠ 0) :
    effCreditTimer m d = sendNop m.toNat (creditFlit m.toNat false false d) :=
  if_neg (by simp [hx, h7, hrun, hclk, hack])

/-- An acknowledgement where nothing waits to be sent. -/
theorem effCredit_acknowledges {f : CreditFlit} (hcrc : f.crcOk = true) (hnak : f.nak = false) (hq : x.queue = []) :
    let u := effCredit m f d
    getMod u m.toNat = acknowledged x f ∧ u.out = d.out ∧ OnlyModule m.toNat d u := by
  have hput := getMod_putMod d m.toNat (acknowledged x f)
  obtain ⟨hmod, hout⟩ := pumpMod_of_queue_nil ((congrArg Module.queue hput).trans hq)
  rw [effCredit_good hx h7 hrun hcrc, if_neg (by simp [hnak])]
  exact ⟨hmod.trans hput, hout, .trans (.putMod _ d _) (.pumpMod _ _)⟩

/-- A NAK that acknowledges nothing of a replay buffer: the buffer is sent again as it is. -/
theorem effCredit_resends {f : CreditFlit} (hcrc : f.crcOk = true) (hnak : f.nak = true) (hack : x.replay.contains f.ackSeq = false)
    (hne : x.replay ≠ []) (hq : x.queue = []) :
    let u := effCredit m f d
    u.out = d.out ++ [.replayed m x.replay] ∧ OnlyModule m.toNat d u ∧ (getMod u m.toNat).replay = x.replay ∧
      (getMod u m.toNat).replays = satInc x.replays := by
  have hkept : (acknowledged x f).replay = x.replay := if_neg (by simpa using hack)
  have hresend := resend_eq (getMod_putMod d m.toNat (acknowledged x f)) (by rwa [hkept])
  rw [hkept] at hresend
  have hmod := getMod_putMod (putMod d m.toNat (acknowledged x f)) m.toNat
  obtain ⟨hpump, hout⟩ := pumpMod_of_queue_nil (d := resend m.toNat (putMod d m.toNat (acknowledged x f))) (n := m.toNat)
    (by rw [hresend]; exact (congrArg Module.queue (hmod _)).trans hq)
  have honly : OnlyModule m.toNat d (resend m.toNat (putMod d m.toNat (acknowledged x f))) := by
    rw [hresend]
    exact .trans (.putMod _ d _) (.trans (.putMod _ _ _) (.send _ _ _))
  intro u
  have hu : u = pumpMod m.toNat (resend m.toNat (putMod d m.toNat (acknowledged x f))) :=
    (effCredit_good hx h7 hrun hcrc).trans (by rw [if_pos hnak])
  rw [hu, hpump, hout]
  refine ⟨by rw [hresend]; rfl, honly.trans (.pumpMod _ _), ?_, ?_⟩
  all_goals rw [hresend]
  · exact (congrArg Module.replay (hmod _)).trans rfl
  · exact (congrArg Module.replays (hmod _)).trans rfl

theorem effCreditTimer_acknowledges (hclk : d.link.rxLoss = false) (hack : x.unacked ≠ 0) (hdue : dueOn x = []) :
    effCreditTimer m d = send (putMod d m.toNat { x with unacked := 0 })
      (.creditFlit m (x.rxSeq - 1) false false x.retReq x.retRsp x.retCtrl) := by
  have hidle : dueOn (getMod (creditFlit m.toNat false false d) m.toNat) = [] :=
    (congrArg dueOn (getMod_creditFlit hx false false)).trans hdue
  rw [effCreditTimer_eq hx h7 hrun hclk hack, sendNop_idle hidle, creditFlit_eq hx]

/-- Credits that no flit has carried back go in a NOP. -/
theorem effCreditTimer_returns (hclk : d.link.rxLoss = false) (hack : x.unacked ≠ 0) (hdue : dueOn x ≠ [])
    (hroom : x.replay.length < 64) :
    let u := effCreditTimer m d
    u.out = d.out ++ [.creditFlit m (x.rxSeq - 1) false false x.retReq x.retRsp x.retCtrl, .credits m x.txSeq true (creditField x).1] ∧
      (getMod u m.toNat).unacked = 0 ∧ (getMod u m.toNat).txSeq = x.txSeq + 1 ∧ (getMod u m.toNat).replay = x.replay ++ [x.txSeq] ∧
      (getMod u m.toNat).credReq = x.credReq ∧ OnlyModule m.toNat d u := by
  have hsent := getMod_creditFlit hx false false
  have hnop := sendNop_sends hsent hdue hrun hroom
  have hmod := getMod_putMod (creditFlit m.toNat false false d) m.toNat (nopSent { x with unacked := 0 })
  have hkept := besidesDue_creditField { x with unacked := 0 }
  rw [effCreditTimer_eq hx h7 hrun hclk hack]
  refine ⟨?_, ?_, ?_, ?_, ?_, .trans (.creditFlit _ _ _ d) (.sendNop _ _)⟩
  · rw [hnop, creditFlit_eq hx, BitVec.ofNat_toNat, BitVec.setWidth_eq]
    exact List.append_assoc _ _ _
  all_goals rw [hnop]
  · exact (congrArg Module.unacked hmod).trans (congrArg Module.unacked hkept :)
  · exact congrArg Module.txSeq hmod
  · exact congrArg Module.replay hmod
  · exact (congrArg Module.credReq hmod).trans (congrArg Module.credReq hkept :)

end Carries

/-! ### A module that carries none -/

/-- Nothing is heard, sent or begun at it. -/
theorem carriesNone_idle {m : BitVec 8} {d : Die} (h : d.link.state ≠ 7 ∨ modCarries (getMod d m.toNat) = false) (f : RxFlit)
    (g : CreditFlit) :
    effFlit m f d = d ∧ effCredit m g d = d ∧ effReplayTimeout m d = d ∧ effCreditTimer m d = d ∧ effRetrain m d = d := by
  have hoff : (decide (d.link.state ≠ 7) || !modCarries (getMod d m.toNat)) = true := by simpa using h
  refine ⟨if_pos hoff, if_pos hoff, if_pos ?timeout, if_pos ?timer, if_pos ?retrain⟩ <;> simp only [hoff, Bool.true_or]

/-! ### Wires (R300, R328) -/

theorem wireOf_eq (spares : BitVec 16) (w : Nat) : wireOf spares w = if bitB spares 15 = true ∧ fld spares 8 7 = w then 69
    else if bitB spares 7 = true ∧ fld spares 0 7 = w then 68 else w := by
  simp only [wireOf, Bool.and_eq_true, beq_iff_eq]

theorem flitBit_payload (p : BitVec 1024) (sb : BitVec 64) (b : Nat) : flitBit p sb (b % 64) (b / 64) = p.getLsbD b := by
  rw [flitBit, if_pos (Nat.mod_lt _ (by decide)), Nat.div_add_mod]

theorem flitBit_sideband (p : BitVec 1024) (sb : BitVec 64) (j : Nat) : flitBit p sb (64 + j % 4) (j / 4) = sb.getLsbD j := by
  rw [flitBit, if_neg (by omega), Nat.add_sub_cancel_left, Nat.div_add_mod]

/-- No two wires of a flit share a wire of the module. -/
theorem wireOf_inj {spares : BitVec 16} {v w : Nat} (hv : v < 68) (hw : w < 68) (h : wireOf spares v = wireOf spares w) : v = w := by
  rw [wireOf_eq, wireOf_eq] at h
  split_ifs at h <;> omega

theorem onWire_carried (spares : BitVec 16) (p : BitVec 1024) (sb : BitVec 64) {w : Nat} (u : Nat) (hw : w < 68) :
    onWire spares p sb (wireOf spares w) u = some (flitBit p sb w u) := by
  have hsome : ((List.range 68).find? (fun v => wireOf spares v == wireOf spares w)).isSome = true :=
    List.find?_isSome.mpr ⟨w, List.mem_range.mpr hw, by simp⟩
  obtain ⟨v, hv⟩ := Option.isSome_iff_exists.mp hsome
  have hvw : v = w := wireOf_inj (List.mem_range.mp (List.mem_of_find?_eq_some hv)) hw (by simpa using List.find?_some hv)
  rw [onWire, hv, hvw, Option.map_some]

theorem onWire_spared {spares : BitVec 16} (p : BitVec 1024) (sb : BitVec 64) {w : Nat} (u : Nat) (hw : w < 68)
    (hspare : wireOf spares w ≠ w) : onWire spares p sb w u = none := by
  rw [onWire, Option.map_eq_none_iff, List.find?_eq_none]
  intro v hv hvw
  have hvw : wireOf spares v = w := by simpa using hvw
  have heq : v = w := by
    rw [wireOf_eq] at hvw
    split_ifs at hvw <;> omega
  exact hspare (heq ▸ hvw)

/-! ### The statement -/

/-- Settles O40: each command at a module that carries flits by its equation; wires by the injectivity of a spare map. -/
theorem flitsAndWires : Obligations.FlitsAndWires := by
  unfold Obligations.FlitsAndWires
  refine ⟨?flits, ?wires⟩
  case wires =>
    exact fun spares p sb => ⟨fun b _ => flitBit_payload p sb b, fun j _ => flitBit_sideband p sb j,
      fun w u hw => onWire_carried spares p sb u hw, fun w u hw h => onWire_spared p sb u hw h, fun w _ => wireOf_eq spares w⟩
  intro s m f g d n x runs given apart ackFlit refused
  have hx : getMod s.die m.toNat = x := rfl
  refine ⟨?accepted, ?corrupt, ?misplaced, ?unsequenced, ?acked, ?nak, ?timeout, ?timer, ?timerNop, ?none_⟩
  case accepted =>
    rintro ⟨hok, h7, hrun⟩ h9 h10 hcrc hbad hseq hq
    have heff := effFlit_sequenced hx h7 hrun h9 h10
    rw [if_neg (by simp [hcrc, hbad]), if_pos hseq] at heff
    obtain ⟨k, hk⟩ := getMod_acceptFlit hx hq f
    obtain ⟨hrx, href, hfail, herr, -, hreq, hrsp, hctrl⟩ := fields_of_heard hk
    exact ⟨_, onDieIf_eq hok heff, hrx, href, hfail, herr, hreq, hrsp, hctrl, (OnlyModule.acceptFlit _ f _).apart⟩
  case corrupt =>
    rintro ⟨hok, h7, hrun⟩ h9 h10 hbad
    obtain ⟨hseq, href, hfail, hcrc, honly, hout⟩ := refuseFlit_spec hx true
    exact ⟨_, onDieIf_eq hok ((effFlit_sequenced hx h7 hrun h9 h10).trans (if_pos hbad)), hseq, href, hfail, hcrc, honly.apart, hout⟩
  case misplaced =>
    rintro ⟨hok, h7, hrun⟩ h9 h10 hcrc hbad hseq
    have heff := effFlit_sequenced hx h7 hrun h9 h10
    rw [if_neg (by simp [hcrc, hbad]), if_neg hseq] at heff
    obtain ⟨hseq, href, hfail, hcrc, honly, hout⟩ := refuseFlit_spec hx false
    exact ⟨_, onDieIf_eq hok heff, hseq, href, hfail, hcrc, honly.apart, hout⟩
  case unsequenced => exact fun ⟨hok, h7, hrun⟩ hkind hbad => onDieIf_eq hok (effFlit_unsequenced hx h7 hrun hkind hbad)
  case acked =>
    rintro ⟨hok, h7, hrun⟩ hcrc hnak hq
    obtain ⟨hmod, hout, honly⟩ := effCredit_acknowledges hx h7 hrun hcrc hnak hq
    exact ⟨_, onDieIf_eq hok rfl, hout, honly.apart, congrArg Module.replay hmod,
      (congrArg Module.txSeq hmod :), (congrArg Module.credReq hmod :)⟩
  case nak =>
    rintro ⟨hok, h7, hrun⟩ hcrc hnak hack hne hq
    obtain ⟨hout, honly, hreplay, hreplays⟩ := effCredit_resends hx h7 hrun hcrc hnak hack hne hq
    exact ⟨_, onDieIf_eq hok rfl, hout, honly.apart, hreplay, hreplays⟩
  case timeout =>
    rintro ⟨hok, h7, hrun⟩ hclk hne
    exact onDieIf_eq hok ((effReplayTimeout_eq hx h7 hrun hclk).trans (resend_eq hx hne))
  case timer =>
    exact fun ⟨hok, h7, hrun⟩ hclk hack hdue => onDieIf_eq hok (effCreditTimer_acknowledges hx h7 hrun hclk hack hdue)
  case timerNop =>
    rintro ⟨hok, h7, hrun⟩ hclk hack hdue hroom
    obtain ⟨hout, hunacked, hseq, hreplay, hcred, honly⟩ := effCreditTimer_returns hx h7 hrun hclk hack hdue hroom
    exact ⟨_, onDieIf_eq hok rfl, hout, hunacked, hseq, hreplay, hcred, honly.apart⟩
  case none_ =>
    intro hok h
    obtain ⟨hflit, hcredit, htimeout, htimer, hretrain⟩ := carriesNone_idle h f g
    exact ⟨onDieIf_idle _ hflit, onDieIf_idle _ hcredit, onDieIf_idle _ htimeout, onDieIf_idle _ htimer, onDieIf_idle _ hretrain⟩

end Sys2Proof.Machine
end

section
/-! PROOF. O41: modules retrained, gates drained and taken down, the RX clock lost (R314 to R316, R325). -/

namespace Sys2Proof.Machine

/-! ### Quick retrains (R314) -/

theorem effRetrain_idle {m : BitVec 8} {d : Die} (h : (getMod d m.toNat).retrainAsked = false) : effRetrain m d = d :=
  if_pos (by simp [h])

/-- A retrain begins: the module carries nothing until it ends. -/
theorem effRetrain_begins {m : BitVec 8} {d : Die} {x : Module} (hx : getMod d m.toNat = x) (h7 : d.link.state = 7)
    (hrun : modCarries x = true) (hask : x.retrainAsked = true) :
    let u := effRetrain m d
    getMod u m.toNat = { x with unacked := 0, state := msRetrain, retrains := satInc x.retrains, retrainAsked := false } ∧
      u.out = d.out ++ [.creditFlit m (x.rxSeq - 1) false true x.retReq x.retRsp x.retCtrl] ∧ OnlyModule m.toNat d u := by
  intro u
  have hu : u = modMod (creditFlit m.toNat false true d) m.toNat (fun x => { x with
      state := msRetrain, retrains := satInc x.retrains, retrainAsked := false }) := if_neg (by simp [hx, h7, hrun, hask])
  rw [hu]
  refine ⟨?_, ?_, .trans (.creditFlit _ _ _ d) (.putMod _ _ _)⟩
  · rw [getMod_modMod, getMod_creditFlit hx]
  · rw [creditFlit_eq hx]
    rfl

theorem effRetrainDone_fails {m : BitVec 8} {d : Die} {x : Module} {r : RetrainResult} (hx : getMod d m.toNat = x)
    (hstate : x.state = msRetrain) (hbroken : x.broken = false) (hr : r.repaired = false) :
    effRetrainDone m r d = putMod d m.toNat { x with broken := true } := by
  rw [effRetrainDone, if_neg (by simp [hx, hstate, hbroken]), if_pos (by simp [hr]), hx]

/-! ### The calibration record written -/

theorem writeSection_link (d : Die) (s : Nat) (l : List Byte) (origin : Nat) : (writeSection d s l origin).cores = d.cores ∧
    (writeSection d s l origin).stew = d.stew ∧ (writeSection d s l origin).link.modules = d.link.modules := by
  unfold writeSection
  dsimp only
  split <;> exact ⟨rfl, rfl, rfl⟩

/-- From `d` to `u` nothing a statement about a retrain of module `n` speaks of moved. -/
def Steady (n : Nat) (d u : Die) : Prop := getMod u n = getMod d n ∧ u.mem = d.mem ∧ u.cores = d.cores ∧ u.stew = d.stew

theorem steady_writeHlt (n : Nat) (d : Die) : Steady n d (writeHlt d) := by
  obtain ⟨hmem, -, -⟩ := writeSection_frame (drew d) 2 (hltBytes d) 1
  obtain ⟨hcores, hstew, hmods⟩ := writeSection_link (drew d) 2 (hltBytes d) 1
  unfold writeHlt
  split
  · exact ⟨congrArg (fun t => tabGet Module.reset t n) hmods, hmem, hcores, hstew⟩
  · exact ⟨rfl, rfl, rfl, rfl⟩

theorem imbalance_frame (d : Die) (cause arg n : Nat) : getMod (imbalance d cause arg) n = getMod d n ∧
    (imbalance d cause arg).mem = d.mem ∧ (imbalance d cause arg).cores = d.cores := by
  simp [imbalance, logFault, getMod]

theorem imbalance_stew {d e : Die} (h : e.stew = d.stew) (cause arg : Nat) :
    (imbalance e cause arg).stew = (imbalance d cause arg).stew := by
  simp [imbalance, postEvent, postEventTo, logFault, h]

theorem imbalance_event (d : Die) (cause arg : Nat) (h : arg < 2 ^ 24) :
    (⟨0x0013, 0, 0, 0, leBytes 4 (cause + 256 * arg)⟩ : Event) ∈ (imbalance d cause arg).stew.events := by
  have hlast : (imbalance d cause arg).stew.events = d.stew.events ++ [⟨0x0013, 0, 0, 0, leBytes 4 (cause + 256 * (arg % 2 ^ 24))⟩] := rfl
  rw [hlast, Nat.mod_eq_of_lt h]
  simp

/-- The module as a repair leaves it. -/
def repairedModule (d : Die) (n : Nat) (r : RetrainResult) (x : Module) : Module :=
  { x with state := if d.link.draining.contains (BitVec.ofNat 5 (n / 6)) then msDraining else msActive, spares := r.bits,
           refusing := false, failures := 0, resends := 0 }

theorem repaired_kept {d : Die} {n : Nat} {r : RetrainResult} {x y : Module}
    (h : besidesSending y = besidesSending { repairedModule d n r x with unacked := 0 }) :
    y.state = (if d.link.draining.contains (BitVec.ofNat 5 (n / 6)) then msDraining else msActive) ∧ y.spares = r.bits ∧
      y.failures = 0 ∧ y.refusing = false :=
  ⟨(congrArg Module.state h :), (congrArg Module.spares h :), (congrArg Module.failures h :), (congrArg Module.refusing h :)⟩

/-- A repaired module: it resumes once its credit counts are compared and a change of the joint parameters is written. -/
theorem effRetrainDone_resumes {m : BitVec 8} {d : Die} {x : Module} {r : RetrainResult} (hx : getMod d m.toNat = x)
    (hstate : x.state = msRetrain) (hbroken : x.broken = false) (hr : r.repaired = true) :
    ∃ e, effRetrainDone m r d = pumpMod m.toNat e ∧ getMod e m.toNat = { repairedModule d m.toNat r x with unacked := 0 } ∧
      e.mem = d.mem ∧ e.cores = d.cores ∧
      e.stew = if countsDiffer x r then (imbalance d 0x01 m.toNat).stew else d.stew := by
  rw [effRetrainDone, if_neg (by simp [hx, hstate, hbroken]), if_neg (by simp [hr]), hx]
  extract_lets y d1 d2 d3
  obtain ⟨hmod2, hmem2, hcores2, hstew2⟩ : Steady m.toNat d1 d2 := by
    simp only [d2]
    split <;> exact ⟨rfl, rfl, rfl, rfl⟩
  obtain ⟨hmod, hmem, hcores, hstew⟩ : Steady m.toNat d3 (if r.bits = x.spares then d3 else writeHlt d3) := by
    split
    · exact ⟨rfl, rfl, rfl, rfl⟩
    · exact steady_writeHlt _ d3
  have hmod1 : getMod d1 m.toNat = { repairedModule d m.toNat r x with unacked := 0 } := getMod_creditFlit (getMod_putMod d _ y) _ _
  obtain ⟨hmod3, hmem3, hcores3, hstew3⟩ : getMod d3 m.toNat = getMod d2 m.toNat ∧ d3.mem = d2.mem ∧ d3.cores = d2.cores ∧
      d3.stew = if countsDiffer x r then (imbalance d 0x01 m.toNat).stew else d.stew := by
    obtain ⟨himod, himem, hicores⟩ := imbalance_frame d2 0x01 m.toNat m.toNat
    simp only [d3]
    split
    · exact ⟨himod, himem, hicores, imbalance_stew hstew2 _ _⟩
    · exact ⟨rfl, rfl, rfl, hstew2⟩
  exact ⟨_, rfl, hmod.trans (hmod3.trans (hmod2.trans hmod1)), hmem.trans (hmem3.trans hmem2), hcores.trans (hcores3.trans hcores2),
    hstew.trans hstew3⟩

/-! ### Gates taken down and drained (R315, R316) -/

theorem effTakeDown_offers {m : BitVec 8} {d : Die} (h7 : d.link.state = 7) (hbroken : (getMod d m.toNat).broken = true)
    (hin : bitB d.link.agreed (m.toNat / 6) = true) (hnone : d.link.newMask = none) :
    effTakeDown m d = offerMask (putFld d.link.agreed (m.toNat / 6) 1 0) d :=
  if_neg (by simp [h7, hbroken, hin, hnone])

theorem getMod_eachMod {l : List Nat} (hl : l.Nodup) (f : Nat → Module → Module) (d : Die) (k : Nat) :
    getMod (eachMod l f d) k = if k ∈ l then f k (getMod d k) else getMod d k := by
  induction l generalizing d with
  | nil => rfl
  | cons n l ih =>
    obtain ⟨hn, hl⟩ := List.nodup_cons.mp hl
    refine (ih hl (modMod d n (f n))).trans ?_
    by_cases hk : k = n
    · rw [hk, if_neg hn, getMod_modMod, if_pos List.mem_cons_self]
    · rw [getMod_modMod_ne _ _ hk]
      simp [hk]

theorem mem_gateModules {g k : Nat} : k ∈ gateModules g ↔ k / 6 = g := by
  simp only [gateModules, List.mem_map, List.mem_range]
  constructor
  · rintro ⟨i, hi, rfl⟩
    omega
  · exact fun h => ⟨k % 6, by omega, by omega⟩

theorem gateModules_nodup (g : Nat) : (gateModules g).Nodup :=
  List.nodup_range.map (fun _ _ h => Nat.add_right_cancel h)

theorem effDrainDone_down {g : BitVec 5} {d : Die} (hin : d.link.draining.contains g = true) (hidle : gateIdle d g = true) :
    let u := effDrainDone g true d
    u.link.draining = d.link.draining.erase g ∧ u.mem = d.mem ∧
      ∀ k, getMod u k = if k / 6 = g.toNat then downModule (getMod d k) else getMod d k := by
  rw [effDrainDone, if_neg (by simpa using hin), if_neg (by simp), if_neg (by simp [hidle])]
  refine ⟨?_, eachMod_mem _ _ _, fun k => ?_⟩
  · obtain ⟨ms, hms⟩ := eachMod_shape (gateModules g.toNat) (fun _ => downModule)
      (cons { d with link := { d.link with draining := d.link.draining.erase g } } 2 0 (gateCredits d g))
    rw [hms]
    rfl
  · refine (getMod_eachMod (gateModules_nodup _) _ _ k).trans ?_
    simp only [mem_gateModules]
    rfl

theorem effDrainDone_incomplete {g : BitVec 5} {d : Die} (hin : d.link.draining.contains g = true) :
    effDrainDone g false d = raiseFatal dfLinkWidth d := by
  rw [effDrainDone, if_neg (by simpa using hin), if_pos (by simp)]

theorem effNewmask_adopts {mask : BitVec 32} {d : Die} (hup : inReset d = false) (hstm : d.test.stm = false) (h7 : d.link.state = 7)
    (hnone : d.link.newMask = none) (hwide : minGates d ≤ gateCount (d.link.agreed &&& mask)) :
    effNewmask mask d = sbSend { sbAnswer d sbNewmask with
      link := { d.link with newMask := some (d.link.agreed &&& mask), newMaskIn := true } } sbNewmask 0 (d.link.agreed &&& mask) := by
  rw [effNewmask, if_neg (by simp [hup, hstm]), if_neg (by simp [h7])]
  simp only [hnone, if_neg (Nat.not_lt.mpr hwide)]
  rfl

/-! ### DRAIN_POINT (R315) -/

/-- A failed module once what it held has gone to another. -/
def emptied (x : Module) : Module := { x with replay := [], queue := [] }

/-- The healthy module `y` that takes over what `x` held from `seq` on: under SEQs of its own, spending no credit of its own. -/
def takenOver (seq : BitVec 8) (x y : Module) : Module :=
  let again := replayFrom x.replay seq
  { y with txSeq := y.txSeq + BitVec.ofNat 8 again.length,
           replay := y.replay ++ (List.range again.length).map (fun i => y.txSeq + BitVec.ofNat 8 i), queue := x.queue ++ y.queue }

section Drain

variable {m seq : BitVec 8} {d : Die} (hup : inReset d = false) (hstm : d.test.stm = false)
include hup hstm

theorem effDrainPoint_healthy (hbroken : (getMod d m.toNat).broken = false) : effDrainPoint m seq d = sbAnswer d sbDrainPoint := by
  rw [effDrainPoint, if_neg (by simp [hup, hstm]), if_pos (by simp [hbroken])]

/-- What DRAIN_POINT does to the failed module and to the healthy one that takes over from it. -/
theorem effDrainPoint_eq {k : Nat} (hbroken : (getMod d m.toNat).broken = true)
    (hdrain : d.link.draining.contains (BitVec.ofNat 5 (m.toNat / 6)) = true)
    (hfind : (gateModules (m.toNat / 6)).find? (fun k => modCarries (getMod d k)) = some k) :
    ∃ e, effDrainPoint m seq d = pumpMod k e ∧ e.mem = d.mem ∧ e.cores = d.cores ∧
      e.link = (putMod (putMod d m.toNat (emptied (getMod d m.toNat))) k (takenOver seq (getMod d m.toNat) (getMod d k))).link := by
  rw [effDrainPoint, if_neg (by simp [hup, hstm]), if_neg (by simp [hbroken, List.contains_iff_mem.mp hdrain])]
  simp only [hfind]
  refine ⟨_, rfl, ?_⟩
  split <;> exact ⟨rfl, rfl, rfl⟩

/-- What the hub has not accepted, and what waits, goes on by a healthy module of the gate. -/
theorem effDrainPoint_moves {k : Nat} {x y : Module} (hx : getMod d m.toNat = x) (hbroken : x.broken = true)
    (hdrain : d.link.draining.contains (BitVec.ofNat 5 (m.toNat / 6)) = true)
    (hfind : (gateModules (m.toNat / 6)).find? (fun k => modCarries (getMod d k)) = some k) (hy : getMod d k = y) :
    ∃ e, effDrainPoint m seq d = pumpMod k e ∧ (getMod e m.toNat).replay = [] ∧ (getMod e m.toNat).queue = [] ∧
      (getMod e k).queue = x.queue ++ y.queue ∧ (getMod e k).txSeq = y.txSeq + BitVec.ofNat 8 (replayFrom x.replay seq).length ∧
      (getMod e k).credReq = y.credReq ∧ e.mem = d.mem ∧ e.cores = d.cores := by
  have hcarries : modCarries (getMod d k) = true := by simpa using List.find?_some hfind
  have hne : m.toNat ≠ k := by
    rintro rfl
    simp [modCarries, hx, hbroken] at hcarries
  subst hx hy
  obtain ⟨e, heq, hmem, hcores, hlink⟩ := effDrainPoint_eq (seq := seq) hup hstm hbroken hdrain hfind
  have hmods : ∀ j, getMod e j =
      getMod (putMod (putMod d m.toNat (emptied (getMod d m.toNat))) k (takenOver seq (getMod d m.toNat) (getMod d k))) j :=
    fun j => congrArg (fun l : LinkSt => tabGet Module.reset l.modules j) hlink
  refine ⟨e, heq, ?_⟩
  rw [hmods, hmods, getMod_putMod, getMod_putMod_ne _ _ hne, getMod_putMod]
  exact ⟨rfl, rfl, rfl, rfl, rfl, hmem, hcores⟩

end Drain

/-! ### The RX clock (R325) -/

/-- The link but for its modules. -/
def besidesModules (d : Die) : LinkSt := { d.link with modules := [] }

theorem besidesModules_pumpMod (n : Nat) (d : Die) : besidesModules (pumpMod n d) = besidesModules d := by
  have hnote : ∀ (e : Die) (i : TxItem), besidesModules (noteSent e i) = besidesModules e := by
    intro e i
    unfold noteSent
    dsimp only
    split <;> rfl
  have hfields := foldl_keeps (g := besidesModules)
    (f := fun e (p : BitVec 8 × BitVec 16) => send e (.credits (BitVec.ofNat 8 n) p.1 false p.2)) (fun _ _ => rfl)
  unfold pumpMod
  split
  · rfl
  · exact (hfields _ _).trans (foldl_keeps hnote _ _)

theorem foldl_pumpMod_frame (l : List Nat) (d : Die) :
    let u := l.foldl (fun e n => pumpMod n e) d
    u.link.rxLoss = d.link.rxLoss ∧ u.mem = d.mem ∧ u.cores = d.cores ∧ u.link.agreed = d.link.agreed := by
  have hlink := foldl_keeps (f := fun e n => pumpMod n e) (fun e n => besidesModules_pumpMod n e) l d
  have hmoved := LinkMoved.foldl (f := fun e n => pumpMod n e) (fun e n => linkMoved_pumpMod n e) l d
  exact ⟨(congrArg LinkSt.rxLoss hlink :), hmoved.mem, hmoved.cores, (congrArg LinkSt.agreed hlink :)⟩

theorem effRxReturn_resumes {d : Die} (h : d.link.rxLoss = true) :
    let u := effRxReturn d
    u.link.rxLoss = false ∧ u.mem = d.mem ∧ u.cores = d.cores ∧ u.link.agreed = d.link.agreed := by
  rw [effRxReturn, if_pos h]
  exact foldl_pumpMod_frame _ _

/-! ### The statement -/

/-- Settles O41: each command by its equation; what a repaired module resumes with is kept by the sending that follows. -/
theorem modulesAreRepaired : Obligations.ModulesAreRepaired := by
  unfold Obligations.ModulesAreRepaired
  intro s m seq r g mask d n x less fatal newmask
  have hx : getMod s.die m.toNat = x := rfl
  refine ⟨?begins, ?unasked, ?fails, ?resumes, ?takeDown, ?tooNarrow, ?drained, ?undrained, ?newmask, ?moves, ?healthy, ?rxLoss, ?lost,
    ?notLost, ?rxReturn⟩
  case begins =>
    intro hok h7 hrun hask
    obtain ⟨hmod, hout, honly⟩ := effRetrain_begins hx h7 hrun hask
    obtain ⟨hmem, -, hcores, hothers⟩ := honly.apart
    exact ⟨_, onDieIf_eq hok rfl, hmod, hout, hmem, hcores, hothers⟩
  case unasked => exact fun hask => onDieIf_idle _ (effRetrain_idle hask)
  case fails => exact fun hok hstate hbroken hr => onDieIf_eq hok (effRetrainDone_fails hx hstate hbroken hr)
  case resumes =>
    intro hok hstate hbroken hr
    obtain ⟨e, heff, hmod, hmem, hcores, hstew⟩ := effRetrainDone_resumes hx hstate hbroken hr
    have hmoved := linkMoved_pumpMod n e
    obtain ⟨hst, hsp, hfail, href⟩ := repaired_kept ((besidesSending_pumpMod n e).trans (congrArg besidesSending hmod))
    refine ⟨_, onDieIf_eq hok heff, hst, hsp, hfail, href, hmoved.mem.trans hmem, hmoved.cores.trans hcores,
      fun hdiff => ?_, fun hsame => ?_⟩
    · rw [hmoved.stew, hstew, if_pos hdiff]
      exact imbalance_event d 1 n (m.isLt.trans (by decide))
    · rw [hmoved.stew, hstew, if_neg (by simp [hsame])]
  case takeDown =>
    intro hok h7 hbroken hin hnone hwide
    exact onDieIf_eq hok ((effTakeDown_offers h7 hbroken hin hnone).trans (if_neg (Nat.not_lt.mpr hwide)))
  case tooNarrow =>
    intro hok h7 hbroken hin hnone hnarrow
    exact ⟨_, onDieIf_eq hok ((effTakeDown_offers h7 hbroken hin hnone).trans (if_pos hnarrow)), rfl⟩
  case drained =>
    intro hin hidle
    obtain ⟨hdrain, hmem, hmods⟩ := effDrainDone_down hin hidle
    refine ⟨_, rfl, hdrain, hmem, fun k hk => ?_, fun k hk => ?_⟩
    · rw [hmods, if_pos hk]
      exact ⟨rfl, rfl, rfl, rfl⟩
    · rw [hmods, if_neg hk]
  case undrained => exact fun hin => ⟨_, onDie_eq (effDrainDone_incomplete hin), rfl⟩
  case newmask => exact fun hup hstm h7 hnone hwide => onDie_eq (effNewmask_adopts hup hstm h7 hnone hwide)
  case moves =>
    intro k hok hup hstm hbroken hdrain hfind
    obtain ⟨e, heff, hreplay, hqueue, hqk, hseq, hcred, hmem, hcores⟩ :=
      effDrainPoint_moves (seq := seq) hup hstm hx hbroken hdrain hfind rfl
    exact ⟨_, e, onDieIf_eq hok heff, rfl, hreplay, hqueue, hqk, hseq, hcred, hmem, hcores⟩
  case healthy => exact fun hok hup hstm hbroken => onDieIf_eq hok (effDrainPoint_healthy hup hstm hbroken)
  case rxLoss => exact fun h7 => onDie_eq (if_pos h7)
  case lost => exact fun hloss => ⟨_, onDie_eq (if_pos hloss), rfl⟩
  case notLost => exact fun hloss => onDie_eq (if_neg (by simp [show s.die.link.rxLoss = false from hloss]))
  case rxReturn => exact fun hloss => ⟨_, rfl, effRxReturn_resumes hloss⟩

end Sys2Proof.Machine
end
